-- ==== Sys2Proof/Word.lean ====
section
/-! DEFINITION. The byte, the index types of the part's numbered units, and plain byte-list and word arithmetic. -/

namespace Sys2Proof

/-- One byte on a wire, a register page or in a memory (R6, R7). -/
abbrev Byte := BitVec 8

/-- A PCIe function: 0 is physical function 0, v from 1 to 32 is virtual function v (R372). -/
abbrev Fn := Fin 33
/-- A tenant id (R70, R372). -/
abbrev Tid := Fin 32
/-- A logical Ethernet port, 4 × P + s (R60). -/
abbrev LPort := Fin 8
/-- A physical Ridge (R18, R138). -/
abbrev RidgeId := Fin 68
/-- A record context (R93). -/
abbrev CtxId := Fin 256
/-- A Signpost bank (R111). -/
abbrev BankId := Fin 16
/-- A Zuoth Saddle (R320). -/
abbrev SaddleId := Fin 16
/-- Where a message came from: a Saddle, or 16 for this chip itself. -/
abbrev MsgPort := Fin 17
/-- A global stream number (R296). -/
abbrev StreamId := Fin 264

/-- Value of a byte list whose first byte is the most significant (network order, R7). -/
def beNat (bs : List Byte) : Nat := bs.foldl (fun a b => a * 256 + b.toNat) 0

/-- Value of a byte list whose first byte is the least significant (R6). -/
def leNat : List Byte → Nat
  | [] => 0
  | b :: bs => b.toNat + 256 * leNat bs

/-- `n` bytes of `v`, least significant first (R6). -/
def leBytes : Nat → Nat → List Byte
  | 0, _ => []
  | n + 1, v => BitVec.ofNat 8 v :: leBytes n (v / 256)

/-- `n` bytes of `v`, most significant first (R7). -/
def beBytes (n v : Nat) : List Byte := (leBytes n v).reverse

/-- `n` bytes of `bs` from offset `o`; bytes past the end are missing. -/
def slice (bs : List Byte) (o n : Nat) : List Byte := (bs.drop o).take n

/-- Little-endian field of `n` bytes at `o`. -/
def leAt (bs : List Byte) (o n : Nat) : Nat := leNat (slice bs o n)

/-- Network-order field of `n` bytes at `o`. -/
def beAt (bs : List Byte) (o n : Nat) : Nat := beNat (slice bs o n)

/-- Byte `o` as a number, 0 past the end. -/
def byteAt (bs : List Byte) (o : Nat) : Nat := ((bs.drop o).headD 0).toNat

/-- A run of `n` zero bytes. -/
def zeros (n : Nat) : List Byte := List.replicate n 0

/-- `bs` cut or zero-extended to exactly `n` bytes. -/
def fitBytes (bs : List Byte) (n : Nat) : List Byte := bs.take n ++ zeros (n - bs.length)

/-- Bits [hi:lo] of a number (R8). -/
def bits (v hi lo : Nat) : Nat := v / 2 ^ lo % 2 ^ (hi + 1 - lo)

/-- Bit n of a number (R8). -/
def bit (v n : Nat) : Bool := v / 2 ^ n % 2 == 1

/-- Two's complement reading of the low `w` bits of `v`. -/
def toSigned (w v : Nat) : Int :=
  let u := v % 2 ^ w
  if u < 2 ^ (w - 1) then (u : Int) else (u : Int) - (2 ^ w : Nat)

/-- The low `w` bits of an integer, as two's complement. -/
def ofSigned (w : Nat) (v : Int) : Nat := (v % ((2 ^ w : Nat) : Int)).toNat

/-- Ceiling division. -/
def ceilDiv (a b : Nat) : Nat := (a + b - 1) / b

/-- `a` rounded up to a multiple of `b`. -/
def alignUp (a b : Nat) : Nat := ceilDiv a b * b

/-- Increment modulo 2^w. -/
def incMod (w v : Nat) : Nat := (v + 1) % 2 ^ w

/-- Set element `i` of a list, when it exists. -/
def setAt {α : Type} (xs : List α) (i : Nat) (v : α) : List α := xs.set i v

/-- Write `bs` over a byte list at offset `o`, keeping its length. -/
def overlay (page : List Byte) (o : Nat) (bs : List Byte) : List Byte :=
  page.take o ++ (bs.take (page.length - o)) ++ page.drop (o + bs.length)

/-- Whether every byte is 0. -/
def allZero (bs : List Byte) : Bool := bs.all (· == 0)

/-- Offset of the first nonzero byte. -/
def firstNonzero (bs : List Byte) : Option Nat := bs.findIdx? (· != 0)

end Sys2Proof
end

