-- ==== Sys2Proof/Config.lean ====
section
/-! DEFINITION. What one part carries from its maker, and the values the manual leaves open: opaque constants that nothing in Lean can evaluate. -/

namespace Sys2Proof.Config

/-- The part's 8-byte serial number (R382, R407): the manual gives no value. DESIGN CHOICE, log entry 6. -/
opaque serial : BitVec 64

/-- Fused SHA-384 digest of public key `i` (R401): the manual gives no value. Log entry 6. -/
opaque fusedKeyDigest : Nat → List Byte

/-- Fused revocation bit of key `i` (R401). Log entry 6. -/
opaque keyRevoked : Nat → Bool

/-- Fused minimum security version (R401). Log entry 6. -/
opaque minSecurityVersion : Nat

/-- ECDSA P-384 verification of (public key, digest, signature), R401: the curve's arithmetic is not in the manual. Log entry 7. -/
opaque ecdsaP384Verify : List Byte → List Byte → List Byte → Bool

/-- Free value `n`: the n-th value the manual leaves open. Log entry 8. -/
opaque freeValue : Nat → BitVec 64

/-- Home chip and window that allocation id `a` of tenant `t` names when this chip holds no allocation of that id: the
manual says that copy streams reach the Commons and not how a descriptor names a window of another chip. Log entry 33. -/
opaque commonsTarget : Nat → Nat → Option (Nat × Nat)

/-- The 12 FEC parity bytes of a flit's bytes 0 to 243 (Table 15.1): the manual names the code and not its field's polynomial.
Log entry 59. -/
opaque fecParity : List Byte → BitVec 96

end Sys2Proof.Config
end

