-- ==== Sys2Proof/Syntax.lean ====
section
/-! DEFINITION. The commands of the block: one constructor of `Instr` per row of the opcode table, with the outside data each row brings. -/

namespace Sys2Proof

/-- The straps latched at the rise of POWER_GOOD (Table 18.3). -/
structure Straps where
  bootSel : Fin 4
  smbAddr : Fin 8
  pcieSpeed : Fin 4
  testEn : Bool
deriving DecidableEq, Repr

/-- A flash slot (R400). -/
inductive Slot where
  | a | b
deriving DecidableEq, Repr

/-- What the boot ROM reads from flash for one try of a slot: its header, its firmware image, the other slot's
header (read as well under BOOT_SEL 00, R401), or a flash read error (Table 18.8 code 6). -/
structure SlotRead where
  slot : Slot
  header : List Byte
  image : List Byte
  otherHeader : List Byte
  readError : Bool
deriving DecidableEq, Repr

/-- What SECDED finds in one 64-bit word of a read (R238, R239). A row whose finds are left out meets none. -/
inductive EccFind where
  | correctable (word : Nat)
  | uncorrectable (word : Nat)
deriving DecidableEq, Repr

/-- The PEC byte of an SMBus write (R406). -/
inductive Pec where
  | none | good | bad
deriving DecidableEq, Repr

/-- What the receive path finds of one frame beside its bytes: the frame check (R83), the FEC codewords it corrected and
could not correct since the last frame (Table 4.10), and what SECDED finds in Trailhead table memory while the frame's
values are binned, by field of the schema (R237). -/
structure FrameCheck where
  fcsOk : Bool
  corrected : Nat
  uncorrectable : Nat
  tables : List EccFind
deriving DecidableEq, Repr

/-- What RS(256,244) made of a received flit (R322): clean, corrected, or beyond correction. -/
inductive FecOutcome where
  | clean | corrected | uncorrectable
deriving DecidableEq, Repr

/-- What shows on a Ridge when a pass issues: the faults of R162, and the Ridge SRAM words that a trail-walk read corrected
(R140). -/
structure RidgeFaults where
  parity : Bool
  canary : Bool
  sram : Bool
  corrected : Nat
deriving DecidableEq, Repr

/-- What parity finds in an automaton walker during a step: nothing, an error of its state register or cache tags, or one of a
transition that its cache holds (Table 19.5). -/
inductive WalkerParity where
  | none | state | data
deriving DecidableEq, Repr

/-- A configuration write that reaches the block: the enable bits of the ATS and PRI capabilities (R309, R312), the
Outstanding Page Request Allocation (R311), and the function's Max Payload Size and Max Read Request Size in bytes (R301). -/
inductive CfgWrite where
  | ats (on : Bool)
  | pri (on : Bool)
  | priAllocation (n : Nat)
  | maxPayload (bytes : Nat)
  | maxRead (bytes : Nat)
deriving DecidableEq, Repr

/-- A Page Request Group Response code (R311, R312). -/
inductive PriResponse where
  | success | invalidRequest | responseFailure
deriving DecidableEq, Repr

/-- What a Signpost bank's array is found to hold at one entry when the compare engine reads it (R133). -/
structure FoundEntry where
  units : Nat
  result : Nat
  valid : Bool
deriving DecidableEq, Repr

/-- The commands: one constructor per row of spec/opcode_table.json, in the table's order. -/
inductive Instr where
  -- resets, boot and SMBus (chapter 18)
  | vddAuxRise
  | powerGoodRise (straps : Straps)
  | powerGoodFall
  | perstNFall
  | perstNRise
  | pf0FunctionLevelReset
  | watchdogExpiry
  | thermalTrip (sensor : Fin 16)
  | bootSlotReadDone (read : SlotRead)
  | configReady
  | mailboxReady (board : List Byte) (refclkNet initOk : Bool)
  | pcieConfigRequest (fn : Fn) (write : Option CfgWrite)
  | vfFunctionLevelReset (vf : Tid)
  | vfEnableClear
  | smbusRead (addr code : Nat)
  | smbusBoardCapWrite (addr value : Nat) (pec : Pec)
  | smbusBusTimeout
  -- boundary scan (R410)
  | bypass
  | idcode
  | samplePreload
  | extest
  | extestPulse
  | extestTrain
  | clamp
  | highz
  -- ticks, epochs, heat
  | milestone (ecc : List EccFind := [])
  | epochStart (measuredMw : Nat) (ecc : List EccFind := [])
  | voltageUpRequest
  | sensorReading (sensor : Fin 16) (quarterDegrees : Int) (selfTestOk : Bool)
  -- Ethernet (chapter 4) and Trailhead (chapter 5)
  | linkUp (port : LPort)
  | linkDown (port : LPort) (cut : Option Nat)
  | recordStart (port : LPort) (head : List Byte)
  | recordFrameRx (port : LPort) (frame : List Byte) (check : FrameCheck)
  | feedbackFrameRx (port : LPort) (frame : List Byte) (check : FrameCheck)
  | pfcFrameRx (port : LPort) (length : Nat) (mask : BitVec 8) (quanta : List Nat)
  | pauseFrameRx (port : LPort) (length : Nat)
  | arpRequestRx (port : LPort) (frame : List Byte) (check : FrameCheck)
  | neighbourSolicitationRx (port : LPort) (frame : List Byte) (check : FrameCheck)
  | arpReplySend (port : LPort)
  | neighbourAdvertisementSend (port : LPort)
  | pfcXoffRepeat (port : LPort) (pcp : Fin 8)
  | pfcXonSend (port : LPort) (pcp : Fin 8)
  | trailheadTableReadDone (ctx : CtxId)
  | portDrainComplete (port : LPort)
  -- Signpost (chapter 6)
  | signpostEntry (pipeline : Fin 2)
  | ternaryStep (ctx : CtxId)
  | rangeStep (ctx : CtxId)
  | automatonStep (ctx : CtxId) (parity : WalkerParity)
  | nextStep (ctx : CtxId)
  | stepResult (ctx : CtxId)
  | walkerMissReadDone (ctx : CtxId)
  | shadowCompare (bank : BankId) (found : Option FoundEntry) (shadow : List EccFind) (readBackBad : Bool)
  -- dispatch, Ridges, Cairn (chapters 12, 7, 8)
  | dispatcherAdmission (ctx : CtxId)
  | passBind (ctx : CtxId)
  | broadcastDone (ctx : CtxId) (ridge : RidgeId)
  | setLoadStart (ridge : RidgeId)
  | setLoadDone (ridge : RidgeId) (ecc : List EccFind)
  | passIssue (ridge : RidgeId) (faults : RidgeFaults)
  | standInLoadDone (ridge : RidgeId)
  | partialsLeaveRidge (ridge : RidgeId)
  | ridgeSramPatrolStep (ecc : List EccFind)
  | partialArrival (ridge : RidgeId)
  | rowAdd (ctx : CtxId) (eccFault : Bool)
  | parkEntryWritten (ctx : CtxId)
  | restoreDone (ctx : CtxId) (ecc : List EccFind)
  -- Summit (chapter 9)
  | summitFusedOutput (ctx : CtxId)
  | scoreFrameAssembly (ctx : CtxId)
  | transmitQueueEntry (port : LPort)
  | txMacHandoff (port : LPort)
  | xchipWaitExpiry (ctx : CtxId)
  | feedbackGradient
  -- refit and Detour (chapter 16)
  | feedbackProcess (ecc : List EccFind := [])
  | decaySweep (tenant : Tid) (handle : Nat) (ecc : List EccFind := [])
  | proposalPassEnd (tenant : Tid) (handle : Nat) (ecc : List EccFind := [])
  | candidateResult (ctx : CtxId)
  | moveChoice (slot : Fin 16)
  | detourTimeLimit (slot : Fin 16)
  -- memory (chapter 11)
  | colCacheFill (line : Nat) (ecc : List EccFind) (parityError : Bool)
  | patrolStep (ecc : List EccFind)
  | healBlockReadDone (data : Option (List Byte)) (ecc : List EccFind := [])
  -- host DMA (chapter 14)
  | dmaRingTailWrite (fn : Fn) (stream : Fin 8) (value : Nat)
  | descriptorStart (stream : StreamId) (descriptor : List Byte)
  | dmaRequestIssue
  | dmaElement (stream : StreamId) (number : Nat) (data : List Byte) (ecc : List EccFind) (tables : List EccFind := [])
  | translationCompletion (fn : Fn) (page sizeLog2 : Nat) (read write : Bool) (target : Nat := page)
  | pageRequestResponse (fn : Fn) (page : Nat) (response : PriResponse)
  | priLimitExpiry (fn : Fn) (page : Nat)
  | descriptorComplete (stream : StreamId) (number : Nat)
  | ringAnswerWrite (stream : StreamId)
  | atsInvalidateRequest (fn : Fn) (page sizeLog2 : Nat)
  -- Zuoth (chapter 15)
  | linkTrainingDone (saddle : SaddleId) (ok : Bool)
  | initResend (saddle : SaddleId)
  | initFlitRx (saddle : SaddleId) (flit : List Byte) (fec : FecOutcome)
  | fabricMismatchRetry (saddle : SaddleId)
  | dataFlitRx (saddle : SaddleId) (flit : List Byte) (fec : FecOutcome)
  | idleFlitRx (saddle : SaddleId) (flit : List Byte) (fec : FecOutcome)
  | retryReqRx (saddle : SaddleId) (flit : List Byte) (fec : FecOutcome)
  | retryReqRepeat (saddle : SaddleId)
  | ackTimeout (saddle : SaddleId)
  | notReadyRx (saddle : SaddleId) (flit : List Byte) (fec : FecOutcome)
  | notReadyBackoffExpiry (saddle : SaddleId)
  | zuothLaneLoss (saddle : SaddleId)
  | linkHoldExpiry (saddle : SaddleId)
  | messageSend (saddle : SaddleId)
  | messageForward (saddle : SaddleId)
  | messageViolation (saddle : SaddleId)
  | rdS (port : MsgPort) (ecc : List EccFind)
  | rdM (port : MsgPort) (ecc : List EccFind)
  | wmkSignal (port : MsgPort)
  | snpShare (port : MsgPort)
  | snpInv (port : MsgPort)
  | snpRspInvalid (port : MsgPort) (ecc : List EccFind)
  | snpRspAck (port : MsgPort) (ecc : List EccFind)
  | snpRspEvicting (port : MsgPort) (ecc : List EccFind)
  | snpRspData (port : MsgPort) (ecc : List EccFind)
  | evictClean (port : MsgPort) (ecc : List EccFind)
  | evictDirty (port : MsgPort) (ecc : List EccFind)
  | evictAck (port : MsgPort)
  | dataS (port : MsgPort)
  | dataE (port : MsgPort)
  | dataM (port : MsgPort)
  | nak (port : MsgPort)
  | commonsNakRetry (tag : Nat)
  | commonsRequestTimeout (eviction : Bool) (tag : Nat)
  | commonsSnoopTimeout (tag : Nat) (ecc : List EccFind)
  | recordMc (port : MsgPort)
  | term (port : MsgPort)
  | refitGh (port : MsgPort) (ecc : List EccFind := [])
  | ping (port : MsgPort)
  | pong (port : MsgPort)
  -- Waymarks (chapter 13)
  | wmkSignalWrite (fn : Fn) (index n : Nat) (e : Bool)
  | wmkReset (fn : Fn) (index : Nat)
  | wmkArmBarrier (fn : Fn) (index a : Nat)
  | wmkClearErr (fn : Fn) (index : Nat)
  | wmkRemoteOn (fn : Fn) (index : Nat)
  | wmkRemoteOff (fn : Fn) (index : Nat)
  | waitArm (fn : Fn) (slot : Fin 16) (ctrl : Nat)
  | waitCancel (fn : Fn) (slot : Fin 16) (ctrl : Nat)
  | waitTimeoutExpiry (fn : Fn) (slot : Fin 16)
  | wmkRemoteWrite (fn : Fn) (value : Nat)
  -- interrupts, events, registers (chapters 19, 20)
  | msixMessage (fn : Fn)
  | msixTableWrite (fn : Fn) (offset value : Nat)
  | eventEntryWrite
  | eventMsixCoalesce (fn : Fn)
  | evtQueueHeadWrite (fn : Fn) (value : Nat)
  | evtIntCauseWrite (fn : Fn) (value : Nat)
  | counterRcRead (fn : Fn) (offset size : Nat)
  | reg64LowRead (fn : Fn) (offset : Nat)
  | reg64LowWrite (fn : Fn) (offset value : Nat)
  | reg64HighWrite (fn : Fn) (offset value : Nat)
  | registerWrite (fn : Fn) (offset : Nat) (data : List Byte)
  -- mailbox commands (chapter 17): each runs on its function's command page
  | mbxDoorbellRing (fn : Fn) (value : Nat)
  | identify (fn : Fn)
  | deviceStatus (fn : Fn)
  | memoryConfig (fn : Fn)
  | ridgeCanary (fn : Fn)
  | fabricConfig (fn : Fn)
  | commonsWindowCreate (fn : Fn)
  | commonsWindowRemove (fn : Fn)
  | modelLoad (fn : Fn)
  | imageFetchDone (failedAt : Option Nat) (image : List Byte) (ecc : List EccFind := [])
  | modelUnload (fn : Fn)
  | modelDrainDone (tenant : Tid) (handle : Nat)
  | modelZeroiseDone (tenant : Tid) (handle : Nat)
  | oldImageRetire (tenant : Tid) (handle : Nat)
  | modelQuery (fn : Fn)
  | modelStats (fn : Fn)
  | modelCalibrate (fn : Fn)
  | signpostBankAssign (fn : Fn)
  | signpostBankRelease (fn : Fn)
  | signpostBankConfigure (fn : Fn)
  | signpostEntries (fn : Fn)
  | portMode (fn : Fn)
  | portAddress (fn : Fn)
  | portStateOpen (fn : Fn)
  | portStateDraining (fn : Fn)
  | endpointAdd (fn : Fn)
  | endpointRemove (fn : Fn)
  | portQuery (fn : Fn)
  | tenantSet (fn : Fn)
  | tenantEnable (fn : Fn)
  | tenantDisable (fn : Fn)
  | tenantPreempt (fn : Fn)
  | tenantResume (fn : Fn)
  | tenantRelease (fn : Fn)
  | tenantQuery (fn : Fn)
  | waymarkInitReset (fn : Fn)
  | waymarkInitArmBarrier (fn : Fn)
  | waymarkInitRemoteOn (fn : Fn)
  | waymarkInitRemoteOff (fn : Fn)
  | waymarkQuery (fn : Fn)
  | streamConfig (fn : Fn)
  | streamStart (fn : Fn)
  | streamStop (fn : Fn)
  | dataAllocAllocate (fn : Fn)
  | dataAllocFree (fn : Fn)
  | refitPause (fn : Fn)
  | refitResume (fn : Fn)
  | resetStats (fn : Fn)
  | propose (fn : Fn)
  | discard (fn : Fn)
  | commit (fn : Fn) (ecc : List EccFind := [])
  | refitQuery (fn : Fn)
  | detourQuery (fn : Fn)
  | detourHold (fn : Fn)
  | detourUnhold (fn : Fn)
  | detourEndAll (fn : Fn)
  | power (fn : Fn)
  | sensors (fn : Fn)
  | eventQueue (fn : Fn)
  | eventLog (fn : Fn)
  | memRead (fn : Fn) (ecc : List EccFind)
  | memWrite (fn : Fn) (ecc : List EccFind)
  | contextDump (fn : Fn)
  | signpostSearch (fn : Fn)
  | stateAudit (fn : Fn)
  -- rows added at the table's end
  | pfcPauseExpiry (port : LPort) (pcp : Fin 8)
  | completionTimeout (stream : StreamId) (number : Nat)
  | adaptiveRouteFallback (saddle : SaddleId)
  | smbusAvailable
  | fecLockAttemptFail (port : LPort)
deriving DecidableEq, Repr

end Sys2Proof
end

