-- ==== Sys2Proof/Machine/State.lean ====
section
/-! DEFINITION. The whole state of the block as plain data, the named ways a command can stop, and the state after reset. -/

namespace Sys2Proof.Machine

/-- A sparse store: key and value pairs, keys strictly rising, no entry equal to the store's default. -/
abbrev Kv (α : Type) := List (Nat × α)

/-! ## Time, boot and board (chapters 12, 18) -/

/-- Operating point (R19, Table 1.3). -/
inductive Point where
  | nominal | reduced | low
deriving DecidableEq, Repr

/-- Tick, cycle, epoch and the device time counter (R248, R282, R399). -/
structure TimeSt where
  /-- MLS_TICK, 64 bits, R248; reset 0 (R399). -/
  tick : Nat
  /-- Core cycle of the tick, 0 to 1,023, R248; reset 0 (R399). -/
  cycle : Nat
  /-- MLS_TIME, the device time counter, 64 bits, R282, R432; reset 0 (R399). -/
  time : Nat
  /-- Core cycles since the counter last advanced (16, 12 or 8 make one count), R282; reset 0 DESIGN CHOICE log 3. -/
  sub : Nat
  /-- Epoch number, 64 bits, R377, R382; reset 0 (R399, R411). -/
  epoch : Nat
  /-- First Milestone of the current epoch has run, R20; reset true DESIGN CHOICE log 3. -/
  firstMilestoneDone : Bool
  /-- The core clock runs, R399, R409; reset true (R399). -/
  clockOn : Bool
deriving DecidableEq, Repr

/-- The JTAG instruction register (R410). -/
inductive JtagIr where
  | bypass | idcode | samplePreload | extest | extestPulse | extestTrain | clamp | highz
deriving DecidableEq, Repr

/-- PHASE of MBX_BOOT_STATUS (Table 18.8). -/
inductive Phase where
  | rom | firmwareInit | ready | failed
deriving DecidableEq, Repr

/-- Board pins, straps, reset cause, boot and SMBus state (chapter 18). -/
structure BootSt where
  /-- POWER_GOOD pin, R392; reset true DESIGN CHOICE log 4. -/
  powerGood : Bool
  /-- PERST_N pin, true when high, R398; reset true DESIGN CHOICE log 4. -/
  perstN : Bool
  /-- Straps, 9 bits, latched at POWER_GOOD, R396; reset all 0 DESIGN CHOICE log 4. -/
  straps : Straps
  /-- VSEL[1:0], R394; reset 0 (R394). -/
  vsel : Nat
  /-- THERMTRIP_N latched low, R409; reset false (R409). -/
  thermTrip : Bool
  /-- RESET_CAUSE, 8 bits, R397, R407; reset 0x01 (R397 cold). -/
  resetCause : Nat
  /-- BOARD_CAP B in W, R407; reset 350 (R407 after a cold reset). -/
  boardCap : Nat
  /-- SMBus answers its address, R406; reset true DESIGN CHOICE log 4. -/
  smbusUp : Bool
  /-- PHASE, 4 bits, R404; reset ROM (R404). -/
  phase : Phase
  /-- ERR_A, 8 bits, R404; reset 0 (R404). -/
  errA : Nat
  /-- ERR_B, 8 bits, R404; reset 0 (R404). -/
  errB : Nat
  /-- SLOT, 1 bit, R404; reset 0 (R404). -/
  slotB : Bool
  /-- INIT_FAIL, 1 bit, R404; reset 0 (R404). -/
  initFail : Bool
  /-- Slots the boot ROM has tried, R401; reset none (R401). -/
  tried : List Slot
  /-- A valid slot's firmware runs, R401; reset false (R401). -/
  fwRunning : Bool
  /-- Firmware version of the running slot, 32 bits, R400, R382; reset 0 DESIGN CHOICE log 5. -/
  fwVersion : Nat
  /-- Config ready has passed, R405; reset false (R405). -/
  configReady : Bool
  /-- The PCIe link is up, R397, R405; reset true DESIGN CHOICE log 4. -/
  pcieLink : Bool
  /-- REFCLK_NET was present at SerDes calibration, R395; reset true DESIGN CHOICE log 4. -/
  refclkNet : Bool
  /-- JTAG instruction register, R410; reset IDCODE DESIGN CHOICE log 5. -/
  jtagIr : JtagIr
  /-- Epoch in which the mailboxes became READY, from which measured power is reported, R407; reset 0 DESIGN CHOICE log 5. -/
  readyEpoch : Nat
deriving DecidableEq, Repr

/-! ## Ethernet (chapter 4) -/

/-- State of a logical port (R62). -/
inductive PortMode where
  | closed | opened | draining
deriving DecidableEq, Repr

/-- Where an answer goes: the received frame's addressing, swapped at the answer (R68). -/
structure Reply where
  port : Nat
  srcMac : List Byte
  /-- PCP and VLAN id of the received C-tag, or none. -/
  vlan : Option (Nat × Nat)
  /-- 0 UDP on IPv4, 1 UDP on IPv6, 2 raw Ethernet. -/
  kind : Nat
  srcIp : List Byte
  dstIp : List Byte
  dscp : Nat
  flow : Nat
  srcPort : Nat
  udpPort : Nat
  etherType : Nat
deriving DecidableEq, Repr

/-- What kind of message an outgoing frame carries. -/
inductive TxKind where
  | score | error | reason | control
deriving DecidableEq, Repr

/-- A frame finished by Summit or waiting in a transmit queue. -/
structure TxFrame where
  kind : TxKind
  /-- Record context released when the frame enters the queue (R79), none for error frames without one. -/
  ctx : Option Nat
  bytes : List Byte
  /-- Priority (PCP) of the frame, 0 when untagged. -/
  pcp : Nat
  /-- Absolute core cycle at which the record's last byte was accepted (R25). -/
  accepted : Nat
  /-- Status OK or DEGRADED: the answer updates the latency counters (R32). -/
  scored : Bool
deriving DecidableEq, Repr

/-- Outcome of steps 12 to 16 held from the header until the last byte (R84). -/
inductive Held where
  | refused (status reason offset : Nat)
  | allocated (ctx : Nat)
  | passed
deriving DecidableEq, Repr

/-- One logical port. -/
structure PortSt where
  /-- Port state, R62; reset CLOSED (R62). -/
  mode : PortMode
  /-- Data-path port-open bit, R62; reset 0 (R62). -/
  openBit : Bool
  /-- Firmware's view of the port-open bit, R427; reset 0 (R62). -/
  openView : Bool
  /-- PHY link is up, R62; reset down DESIGN CHOICE log 5. -/
  link : Bool
  /-- Unicast MAC, 48 bits, R65; reset 0 DESIGN CHOICE log 5. -/
  mac : List Byte
  /-- IPv4 addresses in use, R65; reset none DESIGN CHOICE log 5. -/
  ipv4 : List (List Byte)
  /-- IPv6 addresses in use, R65; reset none DESIGN CHOICE log 5. -/
  ipv6 : List (List Byte)
  /-- Raw EtherTypes in use, R65; reset none DESIGN CHOICE log 5. -/
  etherTypes : List Nat
  /-- PFC PCP mask, 8 bits, R69; reset 0 DESIGN CHOICE log 5. -/
  pfcMask : Nat
  /-- XOFF threshold in bytes, R69; reset 0 DESIGN CHOICE log 5. -/
  xoff : Nat
  /-- XON threshold in bytes, R69; reset 0 DESIGN CHOICE log 5. -/
  xon : Nat
  /-- Held outcome of a record start, R84; reset none (R93). -/
  held : Option Held
  /-- Priorities paused by received PFC with their quanta, R69; reset none DESIGN CHOICE log 5. -/
  paused : Kv Nat
  /-- Priorities for which XOFF stands sent, R69; reset none DESIGN CHOICE log 5. -/
  xoffSent : List Nat
  /-- ARP requests passed to firmware, R67; reset none. -/
  arpQ : List (List Byte)
  /-- Neighbour solicitations passed to firmware, R67; reset none. -/
  ndQ : List (List Byte)
  /-- Control frames answered in the current second, R67; reset 0 DESIGN CHOICE log 5. -/
  ctlCount : Nat
  /-- Device time at which that second began, R67; reset 0 DESIGN CHOICE log 5. -/
  ctlSecond : Nat
  /-- Transmit queue, 64 KiB, R79; reset empty (R398). -/
  txq : List TxFrame
  /-- Frames finished in Summit's assembler and waiting for the queue, R198; reset empty (R398). -/
  ready : List TxFrame
deriving DecidableEq, Repr

/-- One Ethernet port's mode and FEC (R60, R61). -/
structure EthSt where
  /-- Mode 0 1 × 400, 1 2 × 200, 2 4 × 100, R60; reset 0 (R403 default). -/
  mode : Nat
  /-- FEC 0 RS(544,514), 1 low latency, R61; reset 0 (R403 default). -/
  fec : Nat
  /-- Train while CLOSED, Table 17.8; reset 0 (R403 default). -/
  train : Bool
deriving DecidableEq, Repr

/-- An endpoint (R66). -/
structure Endpoint where
  tenant : Nat
  port : Nat
  kind : Nat
  vlan : Nat
  ip : List Byte
  udp : Nat
deriving DecidableEq, Repr

/-! ## Model images (chapter 10) and their parts -/

/-- Type of a raw field (Table 10.4). -/
inductive FieldType where
  | int32 | uint32 | int64 | fp16 | fp32 | bitfield | category | str
deriving DecidableEq, Repr

/-- Binning of a field with its table (R96 to R99). -/
inductive Binning where
  | none
  | edge (isFp : Bool) (edges : List Int)
  | affine (scale zeroPoint : Nat)
  | catMap (default : Nat) (ids : List Nat)
  | dict (default : Nat) (strs : List (List Byte))
  | flags (count : Nat)
deriving DecidableEq, Repr

/-- One raw field of a record schema (R207). -/
structure Field where
  type : FieldType
  binning : Binning
  escape : Bool
  kept : Bool
  slot : Nat
  flagCount : Nat
  threshold : Nat
  /-- Image offset and length of the field's binning record. -/
  tabOff : Nat
  tabLen : Nat
deriving DecidableEq, Repr

/-- A key part of a derivation step (Table 6.5). -/
structure KeyPart where
  kind : Nat
  source : Nat
  width : Nat
deriving DecidableEq, Repr

/-- A destination of a derivation step (Table 6.6). -/
structure Dest where
  slot : Nat
  sel : Nat
deriving DecidableEq, Repr

/-- A derivation step (Table 6.4): op 1 TERNARY, 2 RANGE, 3 AUTOMATON, 4 NEXT. -/
structure Step where
  op : Nat
  target : Nat
  miss : Nat
  parts : List KeyPart
  dests : List Dest
deriving DecidableEq, Repr

/-- A Signpost entry record of an image (R210). -/
structure EntryRec where
  bank : Nat
  width : Nat
  index : Nat
  result : Nat
  units : Nat
  off : Nat
deriving DecidableEq, Repr

/-- An accept of a pattern set (Table 6.8). -/
structure Accept where
  id : Nat
  prio : Nat
  isEnd : Bool
  r0 : Nat
  r1 : Nat
deriving DecidableEq, Repr

/-- A compiled pattern set (R126). -/
structure PatternSet where
  classes : Nat
  states : Nat
  start : Nat
  classMap : List Nat
  /-- First accept and accept count of each state. -/
  info : List (Nat × Nat)
  /-- Next states, row by state, column by class. -/
  next : List Nat
  accepts : List Accept
  /-- Image offset of the set. -/
  off : Nat
deriving DecidableEq, Repr

/-- A node operation with its operand (R142, R151). -/
inductive NodeOp where
  | lt (t : Nat)
  | le (t : Nat)
  | set (i : Nat)
  | exact (i : Nat)
  | pad
  | leaf (v : Nat)
deriving DecidableEq, Repr

/-- A node: its operation, feature (map index in flat form, slot in trail-walk), default direction and children
(trail-walk only). -/
structure Node where
  op : NodeOp
  feature : Nat
  right : Bool
  left : Nat
  rgt : Nat
deriving DecidableEq, Repr

/-- An exact threshold (Table 7.6). -/
structure Exact where
  value : Int
  isFp : Bool
  le : Bool
  code : Nat
deriving DecidableEq, Repr

/-- A term of a linear leaf (R148). -/
structure LinTerm where
  feature : Nat
  weight : Nat
deriving DecidableEq, Repr

/-- A leaf value: a Q16 integer or an FP32 pattern in `raw`, or a linear leaf (R147, R148). -/
structure Leaf where
  raw : Int
  shift : Nat
  terms : List LinTerm
deriving DecidableEq, Repr

/-- A tree table in either form (R141, R151). -/
structure Tree where
  flat : Bool
  units : Nat
  depth : Nat
  fmap : List (Nat × Nat)
  bitmap : Nat
  nodes : List Node
  sets : List Nat
  exacts : List Exact
  /-- Leaf format: 0 Q16, 1 FP32, 2 linear. -/
  fmt : Nat
  channel : Nat
  leaves : List Leaf
  /-- Offset of the leaves inside the table. -/
  leafOff : Nat
deriving DecidableEq, Repr

/-- A placement record with its tree (R211). -/
structure Placed where
  tree : Tree
  off : Nat
  member : Nat
  ridge : Nat
  engine : Nat
  pass : Nat
deriving DecidableEq, Repr

/-- Output stage parameters (Table 9.1); FP32 values as bit patterns. -/
structure OutStage where
  link : Nat
  format : Nat
  z : Int
  loss : Nat
  m : Nat
  wait : Nat
  chans : List (Nat × Nat)
deriving DecidableEq, Repr

/-- A cascade feed (R215). -/
structure Feed where
  chan : Nat
  slot : Nat
  scale : Nat
  zeroPoint : Nat
deriving DecidableEq, Repr

/-- A cascade stage after the head (R215). -/
structure Stage where
  handle : Nat
  carry : Bool
  feeds : List Feed
deriving DecidableEq, Repr

/-- Refit configuration (Table 16.1). -/
structure RefitCfg where
  k : Nat
  period : Nat
  beta : Nat
  eta : Nat
  lambda : Nat
  hmin : Nat
  dmax : Nat
deriving DecidableEq, Repr

/-- An allowed feature of a Detour configuration (Table 16.5). -/
structure DetourFeat where
  slot : Nat
  lo : Int
  hi : Int
  cost : Nat
  mask : Nat
deriving DecidableEq, Repr

/-- Detour configuration (Table 16.4). -/
structure DetourCfg where
  width : Nat
  inflight : Nat
  steps : Nat
  patience : Nat
  limit : Nat
  seed : Nat
  lambda : Nat
  t0 : Nat
  alpha : Nat
  tmin : Nat
  feats : List DetourFeat
deriving DecidableEq, Repr

/-- A member's cost record (Table 10.7). -/
structure Cost where
  passes : Nat
  summit : Nat
  steps : Nat
  tableBytes : Nat
  slots : List Nat
deriving DecidableEq, Repr

/-- A parsed model image (R203). -/
structure Image where
  size : Nat
  fmode : Bool
  channels : Nat
  members : Nat
  sr : Bool
  seed : Nat
  qscale : Nat
  base : List Nat
  fields : List Field
  program : List Step
  entries : List EntryRec
  patterns : Kv PatternSet
  trees : List Placed
  /-- Image offset and length of section 0x06. -/
  treeOff : Nat
  treeLen : Nat
  out : OutStage
  costs : List Cost
  cascade : List Stage
  refit : Option RefitCfg
  detour : Option DetourCfg
deriving DecidableEq, Repr

/-- State of a model handle (Table 17.6). -/
inductive ModelState where
  | loading | loaded | stopping
  /-- Drained: its zeroisation runs (R224). -/
  | zeroising
deriving DecidableEq, Repr

/-- One image the device holds (R219, R223). -/
structure Model where
  /-- The model's own number of this load, unique since reset. -/
  id : Nat
  tenant : Nat
  handle : Nat
  state : ModelState
  /-- True for a LATENCY model, false for THROUGHPUT. -/
  latency : Bool
  /-- Residency: 0 hot, 1 warm, 2 cold (Table 10.8). -/
  residency : Nat
  member : Nat
  tableRes : Bool
  selfHeal : Bool
  traced : Bool
  rate : Nat
  group : Nat
  iova : Nat
  ridgeMap : List Nat
  chipIds : List Nat
  waymarks : List Nat
  plots : List Nat
  image : Image
  /-- Ridge SRAM units held by a warm model: (ridge, engine, first unit, count, tree index). -/
  unitsHeld : List (Nat × Nat × Nat × Nat × Nat)
  /-- Units of other leaf versions, by version: those of a commit under way, and old ones still referenced (R360). -/
  otherUnits : List (Nat × Nat × Nat × Nat × Nat × Nat)
  /-- Trees with committed leaves, one list per commit since load; version v is entry v (R360). -/
  versions : List (List Placed)
  fitLost : Bool
  /-- The id of the image this one replaces, or the replaced one's successor: an image being replaced. -/
  replaced : Bool
  /-- Image offsets of heal blocks never to be healed (R245). -/
  deadBlocks : List Nat
  /-- Image offsets of heal blocks queued or being healed. -/
  healing : List Nat
  detourHold : Bool
  /-- The reservation stands from this tick on (R223, R253). -/
  standing : Bool
  /-- The model answers step 14 (R223, R224). -/
  accepting : Bool
  /-- A degraded placement's pass count and lost logical Ridge (R425). -/
  lostRidges : List Nat
deriving DecidableEq, Repr

/-- A model load under way (R220). -/
structure LoadJob where
  fn : Nat
  page : List Byte
  plots : List Nat
  /-- The fetched image, and the image offsets of the blocks that firmware fetches again because its copy into Ridge SRAM met
  poison in them (Table 11.6); none before. -/
  image : List Byte
  blocks : List Nat
deriving DecidableEq, Repr

/-- Statistics record of one feature of one model (R104, R105). -/
structure StatRec where
  /-- Largest absolute value, FP32 pattern, of the current and of the last four completed ticks. -/
  cur : Nat
  last : List Nat
  /-- Tick of the last fold that wrote the record. -/
  foldTick : Nat
  clipped : Nat
  escaped : Nat
  nan : Nat
  /-- Counts of the current tick, folded at the next Milestone. -/
  curClip : Nat
  curEsc : Nat
  curNan : Nat
  touched : Bool
  sat : Nat
  /-- Epoch in which `sat` was last written. -/
  satEpoch : Nat
  t : Nat
  armed : Bool
  resetBit : Bool
  /-- T and armed state await firmware's rewrite after poison (R105). -/
  restoreDue : Bool
deriving DecidableEq, Repr

/-! ## Record contexts (chapters 5, 6, 17) -/

/-- State of a record context (Table 17.14). -/
inductive CtxState where
  | free | trailhead | signpost | awaiting | bound | parked | summit | remote
deriving DecidableEq, Repr

/-- Where a record came from (Table 17.14). -/
inductive CtxSrc where
  | ethernet
  | ring (stream number element : Nat)
  | member (homeChip homeCtx : Nat)
  | detour (slot cand : Nat)
deriving DecidableEq, Repr

/-- A side-list entry (R39, R77). -/
structure SideEntry where
  slot : Nat
  isFp : Bool
  value : Int
deriving DecidableEq, Repr

/-- A kept value (R100): a number as its 64-bit pattern, a NaN, or a string. -/
inductive Kept where
  | num (isFp : Bool) (v : Nat)
  | nan
  | str (bs : List Byte)
deriving DecidableEq, Repr

/-- A reason request (R74). -/
structure ReasonReq where
  threshold : Nat
  channel : Nat
  above : Bool
deriving DecidableEq, Repr

/-- A match retained for NEXT (R118): its index and result word. -/
structure Match where
  index : Nat
  result : Nat
deriving DecidableEq, Repr

/-- What one step of a derivation program produced. -/
structure StepOut where
  missing : Bool
  /-- The step's result word as a later kind 4 part sees it. -/
  word : Nat
  count : Nat
  /-- Retained list and how many of it were selected so far. -/
  matches_ : List Match
  taken : Nat
  hit : Bool
  /-- Absolute cycle at which the result is due (Table 6.7). -/
  due : Nat
deriving DecidableEq, Repr

/-- A program in a Signpost program context (R124). -/
structure Prog where
  walker : Option Nat
  /-- Results of the steps issued so far, in step order. -/
  outs : List StepOut
  /-- Steps whose result has arrived, by index. -/
  arrived : List Nat
  /-- The AUTOMATON step whose walk awaits a transition read through the Col cache, and the absolute cycle at which that read
  went out (R128). -/
  reading : Option (Nat × Nat)
  /-- Absolute cycle from which the program may issue its next step: at most one issues in a cycle (R125). -/
  next : Nat
deriving DecidableEq, Repr

/-- A channel's value in a slot, row or term: a Q-mode integer or an FP32 pattern, and its flag byte. -/
structure Val where
  v : Int
  flags : Nat
deriving DecidableEq, Repr

/-- A record's body that waits for the binning lane: its pipeline, its type word, flags and payload, its frame's length,
whether a reason request is heard, what SECDED found in table memory, and the fields whose table read met poison, each with
"never to be healed" (R94, R107). -/
structure BodyIn where
  pipe : Nat
  tword : Nat
  flags : Nat
  pay : List Byte
  len : Nat
  reasons : Bool
  tables : List EccFind
  bad : List (Nat × Bool)
deriving DecidableEq, Repr

/-- One record context (chapter 5 and Table 17.14). -/
structure RecCtx where
  state : CtxState
  tenant : Nat
  model : Nat
  handle : Nat
  recId : Nat
  cookie : Nat
  src : CtxSrc
  reply : Reply
  slots : Kv Nat
  side : List SideEntry
  kept : Kv Kept
  preload : Option (List Int)
  reason : Option ReasonReq
  accepted : Nat
  frameLen : Nat
  /-- The body is binned and the record's statistics counted (R94, R104). -/
  committed : Bool
  poi : Bool
  heal : Bool
  replays : Nat
  /-- The body, while the record waits for the binning lane to reach it and for its table reads (R94, R107). -/
  body : Option BodyIn
  /-- Fields whose table reads through the Col cache are outstanding (R107). -/
  tableReads : List Nat
  prog : Option Prog
  /-- Tick to which a LATENCY record is admitted (R253). -/
  admitted : Option Nat
  /-- Place in the order of admission (R256, R259). -/
  place : Nat
  stage : Nat
  /-- Next pass to bind and next pass to add of the stage. -/
  nextBind : Nat
  nextAdd : Nat
  block : Option Nat
  /-- The block's preload or restore is complete (R177). -/
  blockReady : Bool
  version : Nat
  /-- The parking write is under way (R184). -/
  parking : Bool
  /-- Passes granted so far, counted over all the stages of the record. -/
  planned : Nat
  /-- Final values handed to Summit. -/
  final : List Val
  /-- Leaf index of each tree of this member, in tree order (R351). -/
  leaves : Kv Nat
  /-- Cross-chip terms received, by member (R189). -/
  terms : Kv (List Val)
  /-- Absolute cycle of the multicast, from which the cross-chip wait runs (R192). -/
  mcAt : Option Nat
  /-- Absolute cycle at which member 0's own term arrived. -/
  term0At : Option Nat
  /-- Margins zm and converted results of the fused output. -/
  margins : List Nat
  results : List Val
  fused : Bool
  /-- Outcome of an ended record: status and reason. -/
  ended : Option (Nat × Nat)
  /-- Priced work charged with pass 0 already. -/
  charged : Bool
deriving DecidableEq, Repr

/-! ## Signpost (chapter 6) -/

/-- A bank entry (R111): its units as one number, its result word, its valid bit. -/
structure Entry where
  units : Nat
  result : Nat
  valid : Bool
  /-- Written since its last invalidation, move or configuration (R129). -/
  written : Bool
deriving DecidableEq, Repr

/-- One search bank (R111). -/
structure Bank where
  /-- Owner tenant, R111; reset none (R111). -/
  owner : Option Nat
  /-- Match type range, R111; reset ternary (R111). -/
  range : Bool
  /-- Width in units, R111; reset 1 (R111). -/
  width : Nat
  /-- Position priority mode, R111; reset explicit (R111). -/
  position : Bool
  /-- Range domain, R111; reset 0 (R111). -/
  domain : Nat
  /-- Entries, R111; reset none valid (R111). -/
  entries : Kv Entry
  /-- Shadow copy in Massif plot 913, R133; reset none (R112). -/
  shadow : Kv Entry
  /-- Entries whose shadow is poisoned, R135; reset none. -/
  shadowBad : List Nat
  /-- Fence bit, R136; reset 0 (R136). -/
  fenced : Bool
  /-- Firmware's view of the fence bit, R427; reset 0 (R136). -/
  fencedView : Bool
  /-- Restores in the current epoch, R136; reset 0. -/
  restores : Nat
  /-- Next entry the compare engine takes, R133; reset 0 DESIGN CHOICE log 5. -/
  ptr : Nat
  /-- Absolute cycle from which the bank takes another search or compare, R125, R133; reset 0. -/
  busy : Nat
deriving DecidableEq, Repr

/-- One automaton walker (R124, R128). -/
structure Walker where
  /-- Fence bit, R426; reset 0 (R419). -/
  fenced : Bool
  /-- Firmware's view, R427; reset 0 (R419). -/
  fencedView : Bool
  /-- Record context that holds it, R124; reset none. -/
  holder : Option Nat
  /-- Transition cache, 64 KiB: Massif addresses held, R128; reset empty DESIGN CHOICE log 5. -/
  cache : List Nat
deriving DecidableEq, Repr

/-! ## Ridges (chapter 7) -/

/-- Name of a tree set: a model, a pass of its member and a leaf version. -/
structure SetId where
  model : Nat
  pass : Nat
  version : Nat
deriving DecidableEq, Repr

/-- A table buffer set of a Ridge (R156, R157). -/
structure Buf where
  set : Option SetId
  /-- The load is complete. -/
  loaded : Bool
  /-- The load read a poisoned word (R158, R424). -/
  poisoned : Bool
deriving DecidableEq, Repr

/-- A pass bound to a Ridge and not yet issued. -/
structure Bound where
  ctx : Nat
  stage : Nat
  pass : Nat
  /-- 0 LATENCY, 1 replay, 2 THROUGHPUT, 3 BACKGROUND (R259). -/
  prio : Nat
  /-- Logical Ridge of the placement. -/
  logical : Nat
  /-- First tick in which the pass may issue (a replay runs in the next tick). -/
  fromTick : Nat
deriving DecidableEq, Repr

/-- A partial of one channel (R155). -/
structure Partial where
  channel : Nat
  val : Val
deriving DecidableEq, Repr

/-- One pass's partials, from issue to Cairn (R155). -/
structure QEntry where
  ctx : Nat
  stage : Nat
  pass : Nat
  prio : Nat
  logical : Nat
  partials : List Partial
  leaves : List (Nat × Nat)
  /-- Absolute cycle after the last of its leaf stage (R156), and that in which it enters the output queue (Table 7.8). -/
  leafEnd : Nat
  queued : Nat
deriving DecidableEq, Repr

/-- One physical Ridge. -/
structure Ridge where
  /-- Data-path fence bit, R162; reset 0 (R439). -/
  fenced : Bool
  /-- Firmware's view, R427; reset 0 (R439). -/
  fencedView : Bool
  /-- Logical index, R23, R382; reset r for Ridge 0 to 63, none for 64 to 67 (R23). -/
  logical : Option Nat
  /-- The Ridge is a spare (also while it stands in, R420); reset true for 64 to 67 (R23). -/
  spare : Bool
  /-- Engine 63 is the canary engine, R160; reset false DESIGN CHOICE log 5. -/
  canary : Bool
  /-- Passes since reset, R161; reset 0 (R161). -/
  passes : Nat
  /-- Record window, up to 16 contexts, R159; reset empty. -/
  window : List Nat
  /-- Active table buffers, R138; reset empty. -/
  active : Buf
  /-- Inactive table buffers, R138; reset empty. -/
  inactive : Buf
  /-- Passes bound and not issued, R157; reset none. -/
  bound : List Bound
  /-- Passes issued whose partials have not left: those reduced stand in the output queue, R155; reset none. -/
  pipe : List QEntry
  /-- Absolute cycle from which an issue position is free, R153, R250; reset 0. -/
  nextPos : Nat
  /-- Partials on the way to Cairn; reset none. -/
  transport : List QEntry
  /-- Poison marks of table units: (engine, unit), R424; reset none. -/
  marks : List (Nat × Nat)
  /-- Detection epoch of the fence, for the remap (R423). -/
  fenceEpoch : Nat
deriving DecidableEq, Repr

/-! ## Cairn (chapter 8) -/

/-- A pass row (R173) with its part of the descriptor (Table 8.2). -/
structure Row where
  ctx : Nat
  stage : Nat
  pass : Nat
  /-- Channel and expected mask of logical Ridges. -/
  expected : List (Nat × Nat)
  /-- Partials arrived: channel, logical Ridge, value and flags. -/
  got : List (Nat × Nat × Val)
  prio : Nat
deriving DecidableEq, Repr

/-- Cairn's port as spills and restores use it (R184): the transfers asked for, in order, each a record context and the
port cycles it still takes, and the cycles left of the burst under way; reset none. -/
structure CrnPort where
  transfers : List (Nat × Nat)
  burst : Nat
deriving DecidableEq, Repr

/-! ## Memory (chapter 11) -/

/-- Kind of a plot (R228). -/
inductive PlotKind where
  | free | firmware | model | data
deriving DecidableEq, Repr

/-- A Col cache line (R234): its Massif line address, its place in the least-recently-used order, the words cached
poisoned, by number in the line, and a parity error that the next hit meets (R236). -/
structure ColLine where
  line : Nat
  used : Nat
  poison : List Nat
  parity : Bool
deriving DecidableEq, Repr

/-- An outstanding fill (R234): its line, and the requester code and model of the read that missed first (R231, R239). -/
structure ColFill where
  line : Nat
  req : Nat
  model : Nat
deriving DecidableEq, Repr

/-- A heal block (R244). -/
structure HealBlock where
  model : Nat
  off : Nat
deriving DecidableEq, Repr

/-- Massif, Ridge SRAM, Trailhead table memory, plots, Col cache and scrubbers (chapter 11). -/
structure MemSt where
  /-- On-chip memory by 40-bit device address, bytes, R227; reset nothing listed. -/
  cells : List Host.Cell
  /-- Poisoned 64-bit words, by word number (address / 8), R239; reset none. -/
  poison : List Nat
  /-- Kind and owner of each plot that is not FREE, R228, R229; reset none (R229 lays out at boot). -/
  plots : Kv (PlotKind × Option Nat)
  /-- Col cache lines present, R234; reset empty DESIGN CHOICE log 5. -/
  col : List ColLine
  /-- Access number for replacement, R234; reset 0 DESIGN CHOICE log 5. -/
  colClock : Nat
  /-- Outstanding fills, R234; reset none. -/
  fills : List ColFill
  /-- Fills refused by R231 whose readers have not taken note: line and model; reset none. -/
  refused : List (Nat × Nat)
  /-- Uncorrectable words of Trailhead table memory that firmware has not rewritten: pipeline, model and field, R237; reset
  none. -/
  tableBad : List (Nat × Nat × Nat)
  /-- Next Massif line of the patrol, R242; reset 0 DESIGN CHOICE log 5. -/
  patrol : Nat
  /-- Next Ridge SRAM line of the patrol, R242; reset 0 DESIGN CHOICE log 5. -/
  sramPatrol : Nat
  /-- Device time from which the steps of both sweeps are spaced, R242; reset 0 DESIGN CHOICE log 5. -/
  patrolFrom : Nat
  /-- Massif and Ridge SRAM steps taken since then, R242; reset 0 DESIGN CHOICE log 5. -/
  patrolSteps : Nat
  sramSteps : Nat
  /-- Patrol period in hours, R242; reset 24 (R242). -/
  period : Nat
  /-- Heal queue, up to 256 blocks, R244; reset empty. -/
  healQ : List HealBlock
  /-- Heal blocks whose host read is outstanding, R245; reset none. -/
  healReads : List HealBlock
  /-- Blocks written and waiting for the Milestone at which they count as healed, R245; reset none. -/
  healed : List HealBlock
deriving DecidableEq, Repr

/-! ## Dispatch and power (chapter 12) -/

/-- BACKGROUND work asked of the plan (R257). -/
inductive BgReq where
  | candidate (slot cand : Nat)
  /-- A proposal pass or a decay sweep, with the block pairs or blocks the plans have still to grant. -/
  | proposal (model left : Nat)
  | decay (model left : Nat)
  /-- The oldest feedback frame not granted. -/
  | feedback
  /-- The scheduled step of the Massif sweep, or of the Ridge SRAM sweep (R242). -/
  | patrol (sram : Bool)
deriving DecidableEq, Repr

/-- A replay pass waiting for the next tick (R258). -/
structure Replay where
  ctx : Nat
  stage : Nat
  pass : Nat
  logical : Nat
deriving DecidableEq, Repr

/-- A credit of Table 12.4 that a consumer has returned in the current cycle (R272): of the program contexts, a walker, a
pipeline's queue to the dispatcher, a Ridge's window, the pass rows, a tenant's blocks, a Ridge's output queue, the queue from
Cairn to Summit and the Saddles, bytes of a port's transmit queue, bytes of a stream's staging. -/
inductive Credit where
  | prog
  | walker (w : Nat)
  | disp (pipe : Nat)
  | window (q : Nat)
  | row
  | block (t : Nat)
  | ridge (q : Nat)
  | summit
  | txq (port bytes : Nat)
  | ring (stream bytes : Nat)
deriving DecidableEq, Repr

/-- Dispatcher and admission controller. -/
structure DispSt where
  /-- Records that have left Trailhead or Signpost and await step 18, in order, at most 64 a pipeline, R271; reset none. -/
  inq : List Nat
  /-- Number of the next record admitted, R259; reset 0 DESIGN CHOICE log 5. -/
  nextPlace : Nat
  /-- LATENCY Ridge-slots used in the current tick, by physical Ridge, R29; reset none. -/
  latUsed : Kv Nat
  /-- Records admitted per (model, tick), R253; reset none. -/
  admittedAt : List (Nat × Nat × Nat)
  /-- Waiting THROUGHPUT records in admission order, R256; reset none. -/
  waiting : List Nat
  /-- Round-robin pointer, R258; reset 0 DESIGN CHOICE log 5. -/
  tpPtr : Nat
  /-- Replay passes in order of discard, R258; reset none. -/
  replays : List Replay
  /-- BACKGROUND requests in order, R257; reset none. -/
  bg : List BgReq
  /-- BACKGROUND work granted by the current plan; reset none. -/
  granted : List BgReq
  /-- Charges of the current tick in 1/16 nJ, R263; reset 0. -/
  charging : Nat
  /-- Charges of the current epoch in 1/16 nJ, R264; reset 0 DESIGN CHOICE log 5. -/
  epochCharge : Nat
  /-- PWR_BUDGET, 32 bits, R264; reset 0 (R439). -/
  budget : Nat
  /-- PWR_CHARGED, 32 bits, R266; reset 0 (R439). -/
  charged : Nat
  /-- PWR_DEBT, 32 bits, R266; reset 0 (R439). -/
  debt : Nat
  /-- P applied at the next Milestone, mW, R264; reset 0 DESIGN CHOICE log 5. -/
  fixedNext : Nat
  /-- PWR_FIXED_MW, 32 bits, R264; reset 0 (R439). -/
  fixedMw : Nat
  /-- The driver's cap in W, R267; reset 275 (Table 1.2, R403). -/
  driverCap : Nat
  /-- The board cap in W that the cap in force reckons with, R408; reset 350 (R407). -/
  boardCap : Nat
  /-- C in force in W, PWR_CAP_W, R408; reset 0 (R439). -/
  cap : Nat
  /-- Board allowance in W, R264; reset 0 (R264). -/
  allowance : Nat
  /-- BACKGROUND floor in Ridge-slots, R257; reset 0 (R257). -/
  floorSlots : Nat
  /-- BACKGROUND floor energy in 1/16 nJ, R257; reset 0 (R257). -/
  floorEnergy : Nat
  /-- PWR_POINT, R269; reset nominal (R394, R439). -/
  point : Point
  /-- Highest point auto-step may reach, R390; reset nominal DESIGN CHOICE log 5. -/
  topPoint : Point
  /-- Auto-step, R269; reset off DESIGN CHOICE log 5. -/
  autoStep : Bool
  /-- Point change due at the next epoch's first Milestone, R269; reset none. -/
  pointDue : Option Point
  /-- The higher voltage has been requested for a step up, R269; reset false. -/
  voltageUp : Bool
  /-- Consecutive epochs below 90 °C, R269; reset 0 DESIGN CHOICE log 5. -/
  coolEpochs : Nat
  /-- The level was HOT105 or above at every Milestone of the epoch, R269; reset true DESIGN CHOICE log 5. -/
  allHot : Bool
  /-- Every latched reading of the epoch was below 90 °C, R269; reset true DESIGN CHOICE log 5. -/
  allCool : Bool
  /-- PWR_LEVEL, R265; reset 0 (R439). -/
  level : Nat
  /-- The level that the readings alone give, without the floors of R428, R265; reset 0 (R439). -/
  baseLevel : Nat
  /-- PWR_TEMP_MAX in 0.25 °C, none when no sensor is valid, R265; reset none (R439). -/
  tempMax : Option Int
  /-- Measured power of the last epoch in mW, R264, R407; reset none (R407). -/
  measuredMw : Option Nat
deriving DecidableEq, Repr

/-- One junction sensor (R265, R428). -/
structure Sensor where
  /-- Latest reading in 0.25 °C, R265; reset 0 DESIGN CHOICE log 5. -/
  reading : Int
  /-- The reading is valid, R428; reset false (R439: PWR_TEMP_MAX 0x8000). -/
  valid : Bool
  /-- PWR_SENSOR_INVALID stands raised, R428; reset false. -/
  raised : Bool
deriving DecidableEq, Repr

/-! ## Waymarks (chapter 13) -/

/-- One Waymark (R275). -/
structure Waymark where
  /-- COUNT, 32 bits, R275; reset 0 (R275). -/
  count : Nat
  /-- Barrier mode, R275; reset counter (R275). -/
  barrier : Bool
  /-- A, 24 bits, R275; reset 0 (R275). -/
  a : Nat
  /-- GEN, 16 bits, R275; reset 0 (R275). -/
  gen : Nat
  /-- ERR, R275; reset 0 (R275). -/
  err : Bool
  /-- OVF, R275; reset 0 (R275). -/
  ovf : Bool
  /-- REMOTE_OK, R275; reset 0 (R275). -/
  remoteOk : Bool
deriving DecidableEq, Repr

/-- An operation on a Waymark (Table 13.1). -/
inductive WmkOp where
  | signal (n : Nat) (e : Bool)
  | reset
  | arm (a : Nat)
  | clearErr
  | remote (on : Bool)
deriving DecidableEq, Repr

/-- An update in the Waymark unit's input queue: its Waymark, its source of Table 13.2, and when it arrived (R283). -/
structure WmkUpd where
  n : Nat
  src : Nat
  op : WmkOp
  arrived : TimeSt
deriving DecidableEq, Repr

/-- The Waymark unit (R283). -/
structure WmkUnit where
  /-- Input queue of updates not applied, R283; reset empty. -/
  queue : List WmkUpd
  /-- Absolute cycle of the last update applied, and how many that cycle has applied, R283; reset 0. -/
  cycle : Nat
  applied : Nat
  /-- Waymark and source of the last update applied in that cycle, R283; reset 0. -/
  lastN : Nat
  lastSrc : Nat
deriving DecidableEq, Repr

/-- State of a wait (Table 13.4). -/
inductive WaitState where
  | idle | waiting | satisfied | timeout | error | reset | refused
deriving DecidableEq, Repr

/-- One wait slot of a function (R286). -/
structure WaitSlot where
  /-- WMK_WAIT_TARGET, 32 bits, R286; reset 0 (R286). -/
  target : Nat
  /-- WMK_WAIT_TIMEOUT, 32 bits, R286; reset 0 (R286). -/
  timeout : Nat
  /-- INDEX, 12 bits, R286; reset 0 (R286). -/
  index : Nat
  /-- VEC, 3 bits, R286; reset 0 (R286). -/
  vec : Nat
  /-- IE, R286; reset 0 (R286). -/
  ie : Bool
  /-- STATE, 3 bits, R286; reset IDLE (R286). -/
  state : WaitState
  /-- Waymark the wait stands on, and when it was armed; reset 0. -/
  wmk : Nat
  armTick : Nat
  armTime : Nat
deriving DecidableEq, Repr

/-! ## Host DMA (chapter 14) -/

/-- State of a stream (Table 14.2); HALTED is RUNNING with a descriptor that awaits PRI. -/
inductive StreamMode where
  | stopped | running
deriving DecidableEq, Repr

/-- A descriptor fetched and not passed by HEAD (Table 14.3). -/
structure Desc where
  number : Nat
  opcode : Nat
  flags : Nat
  tag : Nat
  l0 : Nat
  n1 : Nat
  n2 : Nat
  timeout : Nat
  host : Nat
  s1 : Int
  s2 : Int
  second : Nat
  /-- Waymark number of its wait. -/
  waitWmk : Nat
  /-- Waymark number it signals, none when signal is not enabled. -/
  signalWmk : Option Nat
  target : Nat
  /-- Elements whose requests have been issued, and elements completed. -/
  issued : Nat
  elements : Nat
  firstFlagged : Option Nat
  status : Nat
  /-- Started: holds its transfer slots. -/
  started : Bool
  /-- Halted for a page fault, at element `haltedAt` (R311). -/
  halted : Bool
  haltedAt : Nat
  /-- A status word with HALTED waits for its page's translation (R441). -/
  statusDue : Bool
  /-- A wait is pending since (tick, time). -/
  waiting : Option (Nat × Nat)
  /-- How the wait ended (R281), none while it stands. -/
  waitRes : Option WaitState
  answersLost : Bool
  /-- Elements after which the descriptor ends; none while it runs to its last. -/
  cut : Option Nat
  /-- DONE written: only HEAD has still to pass it. -/
  done : Bool
deriving DecidableEq, Repr

/-- An answer staged for a host ring (R303). -/
structure RingAnswer where
  number : Nat
  element : Nat
  reason : Bool
  bytes : List Byte
  /-- Record context released when the answer enters staging (R303). -/
  ctx : Option Nat
  /-- It stands in the stream's staging (R303). -/
  staged : Bool
  /-- Arbitration has issued it (R308). -/
  issued : Bool
deriving DecidableEq, Repr

/-- One stream (R296). -/
structure Stream where
  /-- Configured at least once, R389; reset false. -/
  configured : Bool
  /-- STATE, R297; reset STOPPED (Table 14.2). -/
  mode : StreamMode
  /-- Copy stream, R296; reset false DESIGN CHOICE log 5. -/
  copy : Bool
  /-- Ring base IOVA, 64 bits, R296; reset 0 DESIGN CHOICE log 5. -/
  ringBase : Nat
  /-- Ring size exponent, R296; reset 0 DESIGN CHOICE log 5. -/
  sizeExp : Nat
  /-- Trailhead pipeline, R296; reset 0 DESIGN CHOICE log 5. -/
  pipeline : Nat
  /-- Abort fault mode, R296; reset false DESIGN CHOICE log 5. -/
  abort : Bool
  /-- Drain rate D in MB/s, R296; reset 0 DESIGN CHOICE log 5. -/
  rate : Nat
  /-- Staging in bytes, R296; reset 0 DESIGN CHOICE log 5. -/
  staging : Nat
  /-- In-flight limit, R296; reset 0 DESIGN CHOICE log 5. -/
  inflight : Nat
  /-- PRI limit in ms, R296; reset 100 (Table 14.1 default). -/
  priMs : Nat
  /-- DMA_RING_TAIL, 32 bits, R297; reset 0 (Table 14.2). -/
  tail : Nat
  /-- DMA_RING_HEAD, 32 bits, R297; reset 0 (Table 14.2). -/
  head : Nat
  /-- Descriptors fetched and not passed by HEAD, R298; reset none. -/
  descs : List Desc
  /-- Bytes in staging, R308; reset 0. -/
  fill : Nat
  /-- Answers in staging, R303; reset none. -/
  answers : List RingAnswer
  /-- Failed tasks whose END has not been seen, by tag, R314; reset none. -/
  failed : List Nat
  /-- The stop has taken effect and descriptors are still in flight, R318; reset false. -/
  stopDue : Bool
deriving DecidableEq, Repr

/-- An IOTLB entry (R309). -/
structure Iotlb where
  fn : Nat
  page : Nat
  /-- The translated page. -/
  target : Nat
  size : Nat
  read : Bool
  write : Bool
  used : Nat
deriving DecidableEq, Repr

/-- A DATA allocation or Commons window of a tenant (R228, R305, R341). -/
structure DataAlloc where
  tenant : Nat
  id : Nat
  plots : List Nat
deriving DecidableEq, Repr

/-- What waits for a Page Request's answer (R311, R441). -/
inductive PriWho where
  /-- The element at which a descriptor halted. -/
  | element (stream number : Nat)
  /-- The first answer of a stream. -/
  | answer (stream : Nat)
  /-- A descriptor's final status word. -/
  | status (stream number : Nat)
  /-- The first waiting entry of a function's event queue. -/
  | event (fn : Nat)
  /-- Firmware's first fetch. -/
  | fetch
deriving DecidableEq, Repr

/-- A page fault that PRI has still to resolve. -/
structure PriWait where
  who : PriWho
  fn : Nat
  page : Nat
  write : Bool
  /-- The Page Request has been sent: the host's allocation had room for it (R311). -/
  sent : Bool
  /-- Device time of the Page Request. -/
  since : Nat
  /-- The response was Success and the page is being translated again. -/
  again : Bool
deriving DecidableEq, Repr

/-- What firmware fetches on stream 7 of physical function 0 (R296): a model's image, or a heal block. -/
inductive FetchFor where
  | image
  | heal (b : HealBlock)
deriving DecidableEq, Repr

/-- A firmware fetch: the host address of its next request, and the bytes still to ask for. -/
structure Fetch where
  what : FetchFor
  addr : Nat
  left : Nat
deriving DecidableEq, Repr

/-- DMA engine state shared by the streams. -/
structure DmaSt where
  /-- Streams 0 to 263, R296; reset each STOPPED. -/
  streams : List Stream
  /-- IOTLB, 2,048 entries, R309; reset empty DESIGN CHOICE log 5. -/
  iotlb : List Iotlb
  /-- ATS enabled, by function, R309; reset none DESIGN CHOICE log 5. -/
  ats : List Nat
  /-- PRI enabled, by function, R312; reset none DESIGN CHOICE log 5. -/
  pri : List Nat
  /-- Bulk round-robin pointer, R308; reset 0 DESIGN CHOICE log 5. -/
  bulkPtr : Nat
  /-- DATA allocations, R305; reset none. -/
  allocs : List DataAlloc
  /-- Stream chosen at the last issue opportunity, R308; reset none. -/
  chosen : Option Nat
  /-- Access number of the IOTLB; reset 0 DESIGN CHOICE log 5. -/
  tlbClock : Nat
  /-- Translation Requests outstanding, by function and page, up to 64, R309; reset none. -/
  xlate : List (Nat × Nat)
  /-- Page faults under PRI, R311; reset none. -/
  pris : List PriWait
  /-- Invalidate Requests whose completion is due: function, page, size, R310; reset none. -/
  invals : List (Nat × Nat × Nat)
  /-- Firmware's fetches in order, R296; reset none. -/
  fetches : List Fetch
  /-- Max Payload Size and Max Read Request Size by function, in bytes, R301; reset 128 and 512 PRESUMED log 9. -/
  maxPayload : Kv Nat
  maxRead : Kv Nat
  /-- Outstanding Page Request Allocation by function, R311; reset 0 PRESUMED log 9. -/
  priAlloc : Kv Nat
deriving DecidableEq, Repr

/-! ## Zuoth (chapter 15) -/

/-- Link state (R324). -/
inductive LinkMode where
  | down | training | up | active
deriving DecidableEq, Repr

/-- A message waiting on a Saddle or arrived from one: its bytes and its arrival Saddle. -/
structure Msg where
  bytes : List Byte
  /-- 16 when it came from this chip. -/
  from_ : Nat
  /-- Absolute cycle from which it waits. -/
  since : Nat
  /-- Fixed to the deterministic route (R334). -/
  fixed : Bool
  /-- Record context released when the message leaves: a member's TERM (R338). -/
  ctx : Option Nat
  /-- It overran its channel's credits on arrival (R331). -/
  overrun : Bool
  /-- Number of the input-buffer message it holds in its arrival Saddle until its last copy has left (R328, R336), none
  when no credit is owed. -/
  hold : Option Nat
deriving DecidableEq, Repr

/-- A DATA flit in a retry buffer (R323): its sequence and bytes, the channel and slots it charged, and whether a message
begins in it. -/
structure RetryFlit where
  seq : Nat
  bytes : List Byte
  vc : Nat
  slots : Nat
  first : Bool
deriving DecidableEq, Repr

/-- One Saddle (R320). -/
structure Saddle where
  /-- Link state, R324; reset DOWN (R324). -/
  mode : LinkMode
  /-- Enabled by FABRIC_CONFIG or the board block, R324; reset false (R324). -/
  enabled : Bool
  /-- Retry buffer: DATA flits sent and not acknowledged, up to 64, R323; reset empty. -/
  retry : List RetryFlit
  /-- Device time of the last advance of the ack, or of a sending into an empty retry buffer, R323; reset 0 DESIGN CHOICE log 5. -/
  ackSince : Nat
  /-- Next sequence to send, 16 bits, R321; reset 0 (R325). -/
  txSeq : Nat
  /-- Next sequence expected, 16 bits, R323; reset 0 (R325). -/
  rxSeq : Nat
  /-- A flit has been accepted in order in this ACTIVE period, R327; reset false. -/
  accepted : Bool
  /-- RETRY_REQ stands sent for the expected sequence, R323; reset false. -/
  retryOut : Bool
  /-- Last credit totals and advertised pools of the partner (REQ, RSP, DATA, MGMT), R328; reset 0. -/
  pools : List Nat
  totals : List Nat
  /-- Slots sent per channel since INIT, R328; reset 0. -/
  sent : List Nat
  /-- Slots received and freed per channel since INIT, R328; reset 0. -/
  rcvd : List Nat
  freed : List Nat
  /-- INIT flit of the partner received in this UP period, R324; reset none. -/
  init : Option (List Byte)
  /-- Partner's chip id of the last ACTIVE period, R327; reset none. -/
  partner : Option Nat
  /-- RESUME record held, R327; reset false (R324). -/
  resume : Bool
  /-- NOT_READY received with no DATA accepted between, R326; reset 0 (R326). -/
  notReady : Nat
  /-- In the 1 ms back-off, with the sequence to replay from, R326; reset none. -/
  backoff : Option Nat
  /-- Sequence named by a NOT_READY sent, while DATA flits are refused, R326; reset none. -/
  refusing : Option Nat
  /-- Violations in the epoch, R331; reset 0. -/
  violations : Nat
  /-- Absolute time the link left ACTIVE with messages held, R327; reset none. -/
  heldSince : Option Nat
  /-- Output queues by class order of R329; reset empty. -/
  outq : List Msg
  /-- Input buffer of assembled messages, R328; reset empty. -/
  inq : List Msg
  /-- Slots of a message that continues in the next flit, R328; reset empty. -/
  asm : List Byte
  /-- INIT flit this end sends in the current UP period, R324; reset none. -/
  initTx : Option (List Byte)
  /-- Device time at which a mismatch took the link DOWN, R325; reset none. -/
  mismatchAt : Option Nat
deriving DecidableEq, Repr

/-- State of a Commons line in a cache (R342). -/
inductive LineState where
  | s | e | m
deriving DecidableEq, Repr

/-- A line held in the Commons cache or the eviction buffer (R342). -/
structure CLine where
  home : Nat
  addr : Nat
  tenant : Nat
  state : LineState
  data : List Byte
  poison : Nat
  used : Nat
  /-- Eviction buffer: its entry number and sending time. -/
  entry : Nat
  sentAt : Nat
deriving DecidableEq, Repr

/-- Directory state of a line (R343). -/
inductive Dir where
  | uncached
  | shared (chips : List Nat)
  | exclusive (chip : Nat)
deriving DecidableEq, Repr

/-- A transaction of the home (R343). -/
structure Txn where
  tag : Nat
  addr : Nat
  tenant : Nat
  requester : Nat
  reqTag : Nat
  exclusive : Bool
  /-- Chips whose snoop answer is awaited. -/
  awaiting : List Nat
  /-- A SNP_RSP_EVICTING arrived: the EVICT_DIRTY is still to come. -/
  evicting : List Nat
  /-- A held EVICT_DIRTY: its chip, buffer entry and line. -/
  heldEvict : Option (Nat × Nat × List Byte × Nat)
  sentAt : Nat
  /-- Served: not waiting behind an earlier transaction of the same line. -/
  started : Bool
  /-- A snoop was sent for it. -/
  snooped : Bool
  /-- An access of the home's own agents, or a recall when `reqTag` names no request. -/
  own : Bool
deriving DecidableEq, Repr

/-- A Commons access of a copy stream to one line, until it is performed (R342, R346). -/
structure CReq where
  tag : Nat
  home : Nat
  /-- Commons address of the line. -/
  addr : Nat
  tenant : Nat
  exclusive : Bool
  sentAt : Nat
  /-- RD_S or RD_M is outstanding. -/
  sent : Bool
  /-- NAKed with 0x22 and waiting to resend. -/
  naked : Bool
  /-- The access it serves: stream, descriptor, host address, offset and length in the line, bytes to store. -/
  stream : Nat
  number : Nat
  host : Nat
  offset : Nat
  len : Nat
  store : List Byte
deriving DecidableEq, Repr

/-- Fabric, messages and Commons state. -/
structure ZthSt where
  /-- Saddles 0 to 15, R320; reset each DOWN (R324). -/
  saddles : List Saddle
  /-- Chip id and fabric id, none until FABRIC_CONFIG applies, R326, R332; reset none (R326). -/
  chip : Option (Nat × Nat)
  /-- Unicast entries that are valid: deterministic Saddle and adaptive mask, R332; reset none (R326). -/
  unicast : Kv (Nat × Nat)
  /-- Multicast groups: forward mask and local delivery, R332; reset none (R326). -/
  multicast : Kv (Nat × Bool)
  /-- Messages for this chip waiting for their step; reset none. -/
  local_ : List Msg
  /-- Commons windows homed here: window id and plots, R341; reset none. -/
  windows : List DataAlloc
  /-- Directory plots of each window; reset none. -/
  dirPlots : List DataAlloc
  /-- Directory entries that are not UNCACHED, by Commons address, R343; reset none. -/
  dir : Kv Dir
  /-- Home transactions, up to 512, R343; reset none. -/
  txns : List Txn
  /-- Commons cache, 1,024 lines, R342; reset empty DESIGN CHOICE log 5. -/
  cache : List CLine
  /-- Eviction buffer, 16 lines, R342; reset empty. -/
  evict : List CLine
  /-- Requests outstanding, R346; reset none. -/
  reqs : List CReq
  /-- Transaction and access numbers; reset 0 DESIGN CHOICE log 5. -/
  nextTag : Nat
  clock : Nat
  /-- Windows being removed: their recall is under way, R382; reset none. -/
  removing : List Nat
  /-- Remote signals sent, newest first and each once: function, destination chip, tenant and Waymark: what WMK_REMOTE_NAK
  names when one is refused, R288, log 54; reset none. -/
  signals : List (Nat × Nat × Nat × Nat)
deriving DecidableEq, Repr

/-! ## Refit and Detour (chapter 16) -/

/-- Shadow leaf table state (Table 17.11). -/
inductive ShadowState where
  | invalid | proposing | valid
deriving DecidableEq, Repr

/-- One traced model's refit state; its areas stand in memory, in its DATA plots (R350). -/
structure RefitSt where
  model : Nat
  /-- DATA plots of the areas. -/
  plots : List Nat
  /-- Write position w. -/
  w : Nat
  /-- Leaves the last proposal saturated, R359. -/
  shadowSat : Nat
  /-- Shadow state, R359; reset invalid (R359). -/
  shadowState : ShadowState
  /-- A commit waits for its Milestone, R358. -/
  commitRunning : Bool
  /-- Accumulation is paused, R354. -/
  paused : Bool
  /-- Decay sweeps since load, R356. -/
  sweeps : Nat
  /-- Epoch of the last sweep or of the load, R356. -/
  lastSweep : Nat
  /-- Blocks that the sweep under way has decayed, R356; block pairs that the proposal under way has read, and the leaves it has
  saturated, R359. -/
  decayed : Nat
  proposed : Nat
  passSat : Nat
  /-- Pairs applied on member 0 and waiting for a REFIT_GH: record id, channel, g, h (R362). -/
  ghPending : List (Nat × Nat × Nat × Nat)
  /-- Largest |g| and |h| of the current and last four ticks (R340). -/
  gMax : List Nat
  hMax : List Nat
deriving DecidableEq, Repr

/-- A queued feedback frame (R201, R353). -/
structure Feedback where
  model : Nat
  tenant : Nat
  recId : Nat
  label : Nat
  channel : Nat
  granted : Bool
  /-- g and h with g's SAT flag, once Summit computed them. -/
  gh : Option (Nat × Nat × Bool)
deriving DecidableEq, Repr

/-- A candidate of a search step (R366). -/
structure Cand where
  feat : Nat
  up : Bool
  live : Bool
  granted : Bool
  /-- The FP32 result, once returned. -/
  y : Option Nat
deriving DecidableEq, Repr

/-- A Detour search (R364). -/
structure Search where
  model : Nat
  tenant : Nat
  handle : Nat
  recId : Nat
  cookie : Nat
  src : CtxSrc
  reply : Reply
  slots : Kv Nat
  side : List SideEntry
  req : ReasonReq
  startTick : Nat
  step : Nat
  temp : Nat
  offs : List Int
  y : Nat
  best : List Int
  bestY : Nat
  bestE : Nat
  bestReached : Bool
  sinceBest : Nat
  cands : List Cand
  /-- The y of the combined state of a parallel step is to be evaluated with the next candidates. -/
  recheck : Option (Option Nat)
deriving DecidableEq, Repr

/-! ## Tenants, mailboxes, events (chapters 17, 19, 20) -/

/-- Tenant state (R373). -/
inductive TenantState where
  | absent | disabled | enabled | preempted | releasing
deriving DecidableEq, Repr

/-- Fault policy (R385). -/
inductive Policy where
  | mark | abort | replay
deriving DecidableEq, Repr

/-- The quota block (Table 17.9). -/
structure Quota where
  hotEngines : Nat
  plots : Nat
  contexts : Nat
  latSlots : Nat
  latEnergy : Nat
  tpSlots : Nat
  tpQueue : Nat
  transferCap : Nat
  cairnBase : Nat
  stride : Nat
  policy : Policy
  blocks : Nat
  wmkBase : Nat
  wmkCount : Nat
  scope : Nat
deriving DecidableEq, Repr

/-- One tenant. -/
structure Tenant where
  /-- State, R373; reset ABSENT (R373). -/
  state : TenantState
  /-- Data-path tenant-enable bit, R373; reset 0 (R373). -/
  enable : Bool
  /-- Firmware's view, R427; reset 0 (R373). -/
  enableView : Bool
  /-- Quotas and ranges, R385; reset all 0 (R387 leaves an ABSENT tenant so) but the transfer cap 15 (R306). -/
  quota : Quota
  /-- Free Cairn blocks, first in first out, R168; reset none (R373). -/
  freeBlocks : List Nat
  /-- Rate limit: the first rate-limited frame has been sent, R86; reset false (R86). -/
  errSent : Bool
  /-- Frames past step 11 since the last sent one, R86; reset 0. -/
  errFrames : Nat
  /-- Device time of the last sent one, R86; reset 0. -/
  errTime : Nat
  /-- Preemption holds, R186; reset false. -/
  preempted : Bool
deriving DecidableEq, Repr

/-- MBX_STATUS.STATE (Table 17.1). -/
inductive MbxState where
  | booting | ready | pending | running | done
deriving DecidableEq, Repr

/-- What a running command waits for before its response is posted (R378). -/
inductive Posting where
  | now
  | milestone (epoch : Nat)
  | wait
deriving DecidableEq, Repr

/-- A mailbox (R375). -/
structure Mailbox where
  /-- Command page, 4 KiB, R375; reset 0 DESIGN CHOICE log 5. -/
  cmd : List Byte
  /-- Response page, 4 KiB, R375; reset 0 DESIGN CHOICE log 5. -/
  resp : List Byte
  /-- The command page as firmware took it, R377; reset none. -/
  run : List Byte
  /-- STATE, 3 bits, R375; reset BOOTING (Table 17.1). -/
  state : MbxState
  /-- SEQ, 16 bits, R375; reset 0 (Table 17.1). -/
  seq : Nat
  /-- MBX_CTRL.IE, R375; reset 0 (Table 17.1). -/
  ie : Bool
  /-- MBX_CTRL.VEC, 6 bits, R375; reset 0 (Table 17.1). -/
  vec : Nat
  /-- Epoch in which the doorbell was accepted, R379; reset 0. -/
  rungIn : Nat
  /-- Execution epoch, R377; reset 0. -/
  taken : Nat
  /-- The command has acted and its response payload waits to be posted, R378; reset none. -/
  due : Option (Posting × List Byte)
  /-- The response is to be discarded, R374; reset false. -/
  discard : Bool
deriving DecidableEq, Repr

/-- An event entry without queue bits (Table 19.1). -/
structure Event where
  code : Nat
  tenant : Nat
  seq : Nat
  tick : Nat
  data : List Byte
deriving DecidableEq, Repr

/-- A function's event queue (R390, R413). -/
structure EvtQueue where
  /-- ENABLED, R432; reset 0 (Table 20.2). -/
  enabled : Bool
  /-- Ring base IOVA, R390; reset 0 DESIGN CHOICE log 5. -/
  base : Nat
  /-- SIZE_EXP, 5 bits, R432; reset 0 (Table 20.2). -/
  k : Nat
  /-- MSI-X vector, R390; reset 0 DESIGN CHOICE log 5. -/
  vec : Nat
  /-- EVT_QUEUE_TAIL, 32 bits, R432; reset 0 (Table 20.2). -/
  tail : Nat
  /-- EVT_QUEUE_HEAD, 32 bits, R432; reset 0 (Table 20.2). -/
  head : Nat
  /-- The next entry carries LOST, R414; reset false. -/
  lost : Bool
  /-- Entries that wait for the ring page's translation, R441; reset none. -/
  waiting : List Event
  /-- Device time of the queue's last message, R415; reset none. -/
  lastMsg : Option Nat
  /-- A coalesced message is due, R415; reset false. -/
  msgDue : Bool
deriving DecidableEq, Repr

/-- An MSI-X table entry (R434): address, data and mask bit. -/
structure MsixEntry where
  addr : Nat
  data : Nat
  masked : Bool
deriving DecidableEq, Repr

/-- One PCIe function's BAR state (chapter 20). -/
structure FnSt where
  /-- Mailbox, R375. -/
  mbx : Mailbox
  /-- Wait slots 0 to 15, R286. -/
  waits : List WaitSlot
  /-- EVT_INT_CAUSE, 32 bits, R432; reset 0 (Table 20.2). -/
  cause : Nat
  /-- Event queue, R390. -/
  evq : EvtQueue
  /-- MSI-X table, R434; reset each masked with address and data 0 PRESUMED log 9. -/
  msix : List MsixEntry
  /-- MSI-X pending bits, R434; reset 0 PRESUMED log 9. -/
  pba : Nat
  /-- MSI-X messages due, by vector, R434; reset none. -/
  msixDue : List Nat
  /-- R9 read snapshot: offset and high half, R9; reset none. -/
  snap : Option (Nat × Nat)
  /-- R9 held low half: offset and value, R9; reset none. -/
  hold : Option (Nat × Nat)
  /-- WMK_REMOTE, 64 bits, R288; reset 0 DESIGN CHOICE log 5. -/
  wmkRemote : Nat
deriving DecidableEq, Repr

/-- An action that takes effect at the first Milestone at or after the end of the epoch in which it was asked (R20). -/
inductive Due where
  | portMode (eth mode fec : Nat) (train : Bool)
  | portAddress (port : Nat) (page : List Byte)
  | portOpen (port : Nat)
  | portDrain (port : Nat)
  | endpointAdd (id : Nat) (ep : Endpoint)
  | endpointRemove (id : Nat)
  | tenantSet (t : Nat) (q : Quota)
  | tenantState (t : Nat) (op : Nat)
  | canary (ridge : Nat) (on : Bool)
  | fabric (page : List Byte)
  | bankAssign (bank t : Nat)
  | modelLoaded (id : Nat)
  | modelStop (id : Nat)
  | streamStart (g : Nat)
  | streamStop (g : Nat)
  | refit (model op : Nat)
  | detour (model op : Nat)
  | power (page : List Byte)
  | boardCap (b : Nat)
  | windowCreate (t id : Nat) (plots dir : List Nat)
  | windowRemove (t id : Nat)
  | remap (fenced standIn : Nat)
  | degraded (model logical host rate : Nat)
  | fenceView (ridge : Nat)
  | closePort (port : Nat)
  | disableTenant (t : Nat)
  | calibrate (model slot t flags : Nat)
deriving DecidableEq, Repr

/-- Something that left the block: its observable outputs, newest first (the model's own record, log 2). -/
inductive Outp where
  | frame (port : Nat) (kind : TxKind) (bytes : List Byte)
  | pfc (port pcp quanta : Nat)
  | hostWrite (fn addr : Nat) (bytes : List Byte) (poisoned : Bool)
  | msix (fn vector addr data : Nat)
  | barRead (fn offset : Nat) (value : List Byte)
  | cfg (fn : Nat) (retry : Bool)
  | smbus (bytes : Option (List Byte))
  | smbusRelease
  | tdo (value : Option Nat)
  | flit (saddle : Nat) (bytes : List Byte)
  | pageRequest (fn page : Nat)
  | translationRequest (fn page : Nat)
  | invalidateDone (fn : Nat)
  | hostRead (fn addr length : Nat)
deriving DecidableEq, Repr

/-- The state of the block. -/
structure State where
  /-- Commands waiting, first in first out: the model's own queue; reset empty. -/
  pending : List Instr
  time : TimeSt
  boot : BootSt
  /-- Logical ports 0 to 7, R60. -/
  ports : List PortSt
  /-- Ethernet ports 0 and 1, R60. -/
  eth : List EthSt
  /-- Endpoints by number 0 to 63, R66; reset none. -/
  endpoints : Kv Endpoint
  /-- Counters by their offset in physical function 0's counter window, 64 bits each, R437; reset 0 (R436). -/
  ctr : Kv Nat
  /-- Record contexts that are not free, by number, R93; reset none (R93). -/
  ctxs : Kv RecCtx
  /-- Free list of record contexts, R93; reset 0 to 255 ascending (R93). -/
  freeCtx : List Nat
  /-- Committed records waiting in each Trailhead pipeline, in commit order, R95; reset none. -/
  trhQ : List (List Nat)
  /-- Statistics records by model id × 1,024 + slot, R104; reset none. -/
  stats : Kv StatRec
  /-- Signpost banks 0 to 15, R111. -/
  banks : List Bank
  /-- Walkers 0 to 7, R124. -/
  walkers : List Walker
  /-- Record contexts that hold a program context, in order of entry, up to 32, R124; reset none. -/
  progs : List Nat
  /-- Physical Ridges 0 to 67, R138. -/
  ridges : List Ridge
  /-- Cairn slots that are not 0 with clear flags, by number, R165; reset none DESIGN CHOICE log 5. -/
  slots : Kv Val
  /-- Cairn pass rows in use, up to 1,024, R173; reset none. -/
  rows : List Row
  /-- Contexts whose restore is outstanding, R183; reset none. -/
  restoring : List Nat
  /-- Cairn's port, R184; reset free. -/
  crnPort : CrnPort
  /-- Credits returned in the current cycle, which their producers can use from the next one on, R272; reset none. -/
  returned : List Credit
  disp : DispSt
  /-- Junction sensors 0 to 15, R265. -/
  sensors : List Sensor
  mem : MemSt
  /-- Models and images held, R219; reset none. -/
  models : List Model
  /-- Number of the next image loaded; reset 0 DESIGN CHOICE log 5. -/
  nextModel : Nat
  /-- Model load whose image fetch is outstanding, R220; reset none. -/
  load : Option LoadJob
  /-- Feedback queue, 64 entries, R201; reset empty. -/
  feedback : List Feedback
  /-- Refit areas of traced models, R350; reset none. -/
  refits : List RefitSt
  /-- Detour search slots in use, by number, R364; reset none. -/
  searches : Kv Search
  /-- Waymarks that are not in their reset state, by number, R275; reset none (R275). -/
  waymarks : Kv Waymark
  /-- The Waymark unit's input queue, R283; reset empty. -/
  wmkUnit : WmkUnit
  dma : DmaSt
  zth : ZthSt
  /-- Tenants 0 to 31, R373. -/
  tenants : List Tenant
  /-- Functions 0 to 32, R372. -/
  fns : List FnSt
  /-- Mailboxes taken in this epoch in order, whose command has not acted yet, R377; reset none. -/
  taken : List Nat
  /-- Actions waiting for their Milestone with the epoch in which they were asked, R20; reset none. -/
  due : List (Nat × Due)
  /-- Event engine buffer, 512 events, R414; reset empty. -/
  evBuf : List Event
  /-- Next event sequence number, R413; reset 0 (R390). -/
  evSeq : Nat
  /-- Event log, the last 1,024 events, newest first, R390; reset empty (R390). -/
  evLog : List Event
  /-- STATE_MISMATCH count since reset, R391; reset 0 (R391). -/
  mismatches : Nat
  /-- Steps of a tenant release under way: tenant, R387; reset none. -/
  releasing : List Nat
  /-- Outputs, newest first: the model's own record; reset none. -/
  out : List Outp
  /-- Index of the next free value: the model's own field, log 8; reset 0 DESIGN CHOICE log 8. -/
  freeIdx : Nat
deriving DecidableEq, Repr

/-- The faults a step can stop on. The manual names no behaviour that stops the block: every error it names is answered,
counted or reported, and the block goes on. No command of the table answers a fault (log 10). -/
inductive Fault where
  /-- Nothing in this model raises it: it stands so that the type of faults has a name. Safe. -/
  | stopped
deriving DecidableEq, Repr

/-- The refusals of a step. -/
inductive Refusal where
  /-- Raised by `exec` for a row that has no meaning yet. Safe. -/
  | notModelled (mnemonic : String)
deriving DecidableEq, Repr

/-! ## The state after reset -/

def Straps.zero : Straps := ⟨0, 0, 0, false⟩

def TimeSt.reset : TimeSt := ⟨0, 0, 0, 0, 0, true, true⟩

def BootSt.reset : BootSt :=
  { powerGood := true, perstN := true, straps := Straps.zero, vsel := 0, thermTrip := false, resetCause := 1
    boardCap := 350, smbusUp := true, phase := .rom, errA := 0, errB := 0, slotB := false, initFail := false
    tried := [], fwRunning := false, fwVersion := 0, configReady := false, pcieLink := true, refclkNet := true
    jtagIr := .idcode, readyEpoch := 0 }

def PortSt.reset : PortSt :=
  { mode := .closed, openBit := false, openView := false, link := false, mac := zeros 6, ipv4 := [], ipv6 := []
    etherTypes := [], pfcMask := 0, xoff := 0, xon := 0, held := none, paused := [], xoffSent := []
    arpQ := [], ndQ := [], ctlCount := 0, ctlSecond := 0, txq := [], ready := [] }

def Bank.reset : Bank :=
  { owner := none, range := false, width := 1, position := false, domain := 0, entries := [], shadow := []
    shadowBad := [], fenced := false, fencedView := false, restores := 0, ptr := 0, busy := 0 }

def Walker.reset : Walker := ⟨false, false, none, []⟩

def Buf.empty : Buf := ⟨none, false, false⟩

def Ridge.reset (r : Nat) : Ridge :=
  { fenced := false, fencedView := false, logical := if r < 64 then some r else none, spare := decide (64 ≤ r)
    canary := false, passes := 0, window := [], active := Buf.empty, inactive := Buf.empty, bound := [], pipe := [], nextPos := 0
    transport := [], marks := [], fenceEpoch := 0 }

def DispSt.reset : DispSt :=
  { inq := [], nextPlace := 0, latUsed := [], admittedAt := [], waiting := [], tpPtr := 0, replays := [], bg := [], granted := [], charging := 0
    epochCharge := 0, budget := 0, charged := 0, debt := 0, fixedNext := 0, fixedMw := 0, driverCap := 275, boardCap := 350, cap := 0
    allowance := 0, floorSlots := 0, floorEnergy := 0, point := .nominal, topPoint := .nominal, autoStep := false
    pointDue := none, voltageUp := false, coolEpochs := 0, allHot := true, allCool := true, level := 0, baseLevel := 0
    tempMax := none, measuredMw := none }

def MemSt.reset : MemSt :=
  { cells := [], poison := [], plots := [], col := [], colClock := 0, fills := [], refused := [], tableBad := []
    patrol := 0, sramPatrol := 0, patrolFrom := 0, patrolSteps := 0, sramSteps := 0, period := 24, healQ := [], healReads := [], healed := [] }

def Waymark.reset : Waymark := ⟨0, false, 0, 0, false, false, false⟩

def WaitSlot.idle : WaitSlot := ⟨0, 0, 0, 0, false, .idle, 0, 0, 0⟩

def Stream.reset : Stream :=
  { configured := false, mode := .stopped, copy := false, ringBase := 0, sizeExp := 0, pipeline := 0, abort := false
    rate := 0, staging := 0, inflight := 0, priMs := 100, tail := 0, head := 0, descs := [], fill := 0, answers := []
    failed := [], stopDue := false }

def DmaSt.reset : DmaSt :=
  { streams := List.replicate 264 Stream.reset, iotlb := [], ats := [], pri := [], bulkPtr := 0, allocs := []
    chosen := none, tlbClock := 0, xlate := [], pris := [], invals := [], fetches := [], maxPayload := [], maxRead := []
    priAlloc := [] }

def Saddle.reset : Saddle :=
  { mode := .down, enabled := false, retry := [], ackSince := 0, txSeq := 0, rxSeq := 0, accepted := false, retryOut := false
    pools := [0, 0, 0, 0], totals := [0, 0, 0, 0], sent := [0, 0, 0, 0], rcvd := [0, 0, 0, 0], freed := [0, 0, 0, 0]
    init := none, partner := none, resume := false, notReady := 0, backoff := none, refusing := none
    violations := 0, heldSince := none, outq := [], inq := [], asm := [], initTx := none, mismatchAt := none }

def ZthSt.reset : ZthSt :=
  { saddles := List.replicate 16 Saddle.reset, chip := none, unicast := [], multicast := [], local_ := []
    windows := [], dirPlots := [], dir := [], txns := [], cache := [], evict := [], reqs := [], nextTag := 0
    clock := 0, removing := [], signals := [] }

def Quota.zero : Quota := ⟨0, 0, 0, 0, 0, 0, 0, 0, 0, 0, .mark, 0, 0, 0, 0⟩

/-- The quotas before the first TENANT_SET: all 0, but for the transfer cap, whose default is 15 (R306, log 127). -/
def Quota.default : Quota := { Quota.zero with transferCap := 15 }

def Tenant.reset : Tenant :=
  { state := .absent, enable := false, enableView := false, quota := Quota.default, freeBlocks := [], errSent := false
    errFrames := 0, errTime := 0, preempted := false }

def Mailbox.reset : Mailbox :=
  { cmd := zeros 4096, resp := zeros 4096, run := [], state := .booting, seq := 0, ie := false, vec := 0, rungIn := 0, taken := 0
    due := none, discard := false }

def EvtQueue.reset : EvtQueue := ⟨false, 0, 0, 0, 0, 0, false, [], none, false⟩

def MsixEntry.reset : MsixEntry := ⟨0, 0, true⟩

/-- Vectors of a function's MSI-X table (R372). -/
def msixCount (f : Nat) : Nat := if f = 0 then 64 else 8

def FnSt.reset (f : Nat) : FnSt :=
  { mbx := Mailbox.reset, waits := List.replicate 16 WaitSlot.idle, cause := 0, evq := EvtQueue.reset
    msix := List.replicate (msixCount f) MsixEntry.reset, pba := 0, msixDue := [], snap := none, hold := none
    wmkRemote := 0 }

/-- The block right after a cold reset: the cycle in which it leaves reset, PERST_N just risen (R397, R399). -/
def State.reset : State :=
  { pending := [], time := TimeSt.reset, boot := BootSt.reset, ports := List.replicate 8 PortSt.reset
    eth := List.replicate 2 ⟨0, 0, false⟩, endpoints := [], ctr := [], ctxs := [], freeCtx := List.range 256
    trhQ := [[], []], stats := [], banks := List.replicate 16 Bank.reset
    walkers := List.replicate 8 Walker.reset, progs := [], ridges := (List.range 68).map Ridge.reset, slots := []
    rows := [], restoring := [], crnPort := ⟨[], 0⟩, returned := [], disp := DispSt.reset, sensors := List.replicate 16 ⟨0, false, false⟩
    mem := MemSt.reset, models := [], nextModel := 0, load := none, feedback := [], refits := [], searches := []
    waymarks := [], wmkUnit := ⟨[], 0, 0, 0, 0⟩, dma := DmaSt.reset, zth := ZthSt.reset, tenants := List.replicate 32 Tenant.reset
    fns := (List.range 33).map FnSt.reset, taken := [], due := [], evBuf := [], evSeq := 0, evLog := []
    mismatches := 0, releasing := [], out := [], freeIdx := 0 }

end Sys2Proof.Machine
end

