-- ==== Sys2Proof/Machine/Ops.lean ====
section
/-! DEFINITION. The named operations every meaning is written over: sparse stores, counters, memory, events, interrupts, outputs, time and record contexts. -/

namespace Sys2Proof.Machine

/-! ## Sparse stores -/

/-- The entry of key `k`. -/
def kvGet {α : Type} : Kv α → Nat → Option α
  | [], _ => none
  | (a, v) :: r, k => if a = k then some v else kvGet r k

/-- Set key `k`, keeping the keys strictly rising. -/
def kvSet {α : Type} : Kv α → Nat → α → Kv α
  | [], k, v => [(k, v)]
  | (a, w) :: r, k, v =>
    if k < a then (k, v) :: (a, w) :: r else if k = a then (k, v) :: r else (a, w) :: kvSet r k v

/-- Remove key `k`. -/
def kvDel {α : Type} : Kv α → Nat → Kv α
  | [], _ => []
  | (a, w) :: r, k => if a = k then kvDel r k else (a, w) :: kvDel r k

/-- Set key `k` in a store whose unlisted keys read `d`: writing `d` removes the entry. -/
def kvPut {α : Type} [DecidableEq α] (d : α) (m : Kv α) (k : Nat) (v : α) : Kv α :=
  if v = d then kvDel m k else kvSet m k v

/-- Change an entry that exists. -/
def kvMod {α : Type} (m : Kv α) (k : Nat) (f : α → α) : Kv α :=
  m.map (fun p => if p.1 = k then (p.1, f p.2) else p)

/-- Insert into a rising list of numbers without repeats. -/
def setAdd : List Nat → Nat → List Nat
  | [], k => [k]
  | a :: r, k => if k < a then k :: a :: r else if k = a then a :: r else a :: setAdd r k

/-! ## Element access -/

def State.port (s : State) (l : Nat) : PortSt := s.ports.getD l PortSt.reset
def State.bank (s : State) (b : Nat) : Bank := s.banks.getD b Bank.reset
def State.walker (s : State) (w : Nat) : Walker := s.walkers.getD w Walker.reset
def State.ridge (s : State) (r : Nat) : Ridge := s.ridges.getD r (Ridge.reset r)
def State.saddle (s : State) (i : Nat) : Saddle := s.zth.saddles.getD i Saddle.reset
def State.tenant (s : State) (t : Nat) : Tenant := s.tenants.getD t Tenant.reset
def State.fn (s : State) (f : Nat) : FnSt := s.fns.getD f (FnSt.reset f)
def State.stream (s : State) (g : Nat) : Stream := s.dma.streams.getD g Stream.reset
def State.ctx? (s : State) (c : Nat) : Option RecCtx := kvGet s.ctxs c
def State.model? (s : State) (id : Nat) : Option Model := s.models.find? (·.id == id)
def State.waymark (s : State) (i : Nat) : Waymark := (kvGet s.waymarks i).getD Waymark.reset

def modPort (l : Nat) (f : PortSt → PortSt) (s : State) : State := { s with ports := s.ports.modify l f }
def modBank (b : Nat) (f : Bank → Bank) (s : State) : State := { s with banks := s.banks.modify b f }
def modWalker (w : Nat) (f : Walker → Walker) (s : State) : State := { s with walkers := s.walkers.modify w f }
def modRidge (r : Nat) (f : Ridge → Ridge) (s : State) : State := { s with ridges := s.ridges.modify r f }
def modZth (f : ZthSt → ZthSt) (s : State) : State := { s with zth := f s.zth }
def modSaddle (i : Nat) (f : Saddle → Saddle) (s : State) : State :=
  { s with zth := { s.zth with saddles := s.zth.saddles.modify i f } }
def modTenant (t : Nat) (f : Tenant → Tenant) (s : State) : State := { s with tenants := s.tenants.modify t f }
def modFn (i : Nat) (f : FnSt → FnSt) (s : State) : State := { s with fns := s.fns.modify i f }
def modMbx (i : Nat) (f : Mailbox → Mailbox) (s : State) : State := modFn i (fun x => { x with mbx := f x.mbx }) s
def modDma (f : DmaSt → DmaSt) (s : State) : State := { s with dma := f s.dma }
def modStream (g : Nat) (f : Stream → Stream) (s : State) : State :=
  { s with dma := { s.dma with streams := s.dma.streams.modify g f } }
def modCtx (c : Nat) (f : RecCtx → RecCtx) (s : State) : State := { s with ctxs := kvMod s.ctxs c f }
def setCtx (c : Nat) (r : RecCtx) (s : State) : State := { s with ctxs := kvSet s.ctxs c r }
def modModel (id : Nat) (f : Model → Model) (s : State) : State :=
  { s with models := s.models.map (fun m => if m.id = id then f m else m) }
def modDisp (f : DispSt → DispSt) (s : State) : State := { s with disp := f s.disp }
def modMem (f : MemSt → MemSt) (s : State) : State := { s with mem := f s.mem }
def modBoot (f : BootSt → BootSt) (s : State) : State := { s with boot := f s.boot }
def modRefit (id : Nat) (f : RefitSt → RefitSt) (s : State) : State :=
  { s with refits := s.refits.map (fun r => if r.model = id then f r else r) }

/-- Put a Waymark back, keeping the store canonical. -/
def putWaymark (i : Nat) (w : Waymark) (s : State) : State :=
  { s with waymarks := kvPut Waymark.reset s.waymarks i w }

/-- The loaded or loading model of a handle of a tenant that is not being replaced (R219). -/
def State.handle? (s : State) (t h : Nat) : Option Model :=
  s.models.find? (fun m => m.tenant == t && m.handle == h && !m.replaced)

/-- The data-plane windows of a function's BAR act: those of an ABSENT tenant behave as unimplemented offsets (R405, R12,
log 48). -/
def State.windowOpen (s : State) (f : Nat) : Bool := f == 0 || (s.tenant (f - 1)).state != .absent

/-! ## Counters (R436 to R438) -/

/-- Value of a counter, by its offset in physical function 0's window. -/
def State.counter (s : State) (k : Nat) : Nat := (kvGet s.ctr k).getD 0

/-- Add `n` to a 64-bit counter. -/
def count (k n : Nat) (s : State) : State :=
  if n = 0 then s else { s with ctr := kvPut 0 s.ctr k ((s.counter k + n) % 2 ^ 64) }

/-- Set a counter. -/
def setCounter (k n : Nat) (s : State) : State := { s with ctr := kvPut 0 s.ctr k (n % 2 ^ 64) }

/-- Counter `i` of a function's block: physical function 0's stands in its window, a virtual function's in a range of
its own (Table 20.6). -/
def cFn (f i : Nat) : Nat := if f = 0 then 8 * i else 0x20000 + 0x40 * f + 8 * i
def cMls (i : Nat) : Nat := 0x0100 + 8 * i
def cSgp (i : Nat) : Nat := 0x0180 + 8 * i
def cCrn (i : Nat) : Nat := 0x0200 + 8 * i
def cSmt (i : Nat) : Nat := 0x0240 + 8 * i
def cMsf (i : Nat) : Nat := 0x0300 + 8 * i
def cCol (i : Nat) : Nat := 0x0340 + 8 * i
def cWmk (i : Nat) : Nat := 0x0380 + 8 * i
def cDma (i : Nat) : Nat := 0x03C0 + 8 * i
def cZth (i : Nat) : Nat := 0x0400 + 8 * i
def cEngineDropped : Nat := 0x0480
def cDie (d i : Nat) : Nat := 0x0500 + 0x10 * d + 8 * i
def cTrh (p i : Nat) : Nat := 0x0600 + 0x40 * p + 8 * i
def cBank (b i : Nat) : Nat := 0x0700 + 0x20 * b + 8 * i
def cWalker (w : Nat) : Nat := 0x0900 + 8 * w
/-- Offset inside a logical port's block (Table 20.4). -/
def cPrt (l o : Nat) : Nat := 0x1000 + 0x100 * l + o
def cRdg (r i : Nat) : Nat := 0x2000 + 0x80 * r + 8 * i
def cSaddle (i k : Nat) : Nat := 0x4800 + 0x80 * i + 8 * k
/-- Offset inside a tenant's block (Table 20.5). -/
def cTen (t o : Nat) : Nat := 0x5000 + 0x100 * t + o
def cStr (g i : Nat) : Nat := 0x8000 + 0x40 * g + 8 * i

/-! ## Outputs -/

/-- Record an output. -/
def emit (o : Outp) (s : State) : State := { s with out := o :: s.out }

/-! ## Time (R248, R282) -/

/-- Core clock in units of 100 MHz at each point (Table 1.3). -/
def Point.clock : Point → Nat
  | .nominal => 16
  | .reduced => 12
  | .low => 8

/-- Code of a point (Table 20.7). -/
def Point.code : Point → Nat
  | .nominal => 0
  | .reduced => 1
  | .low => 2

/-- The point of a code. -/
def Point.ofCode : Nat → Point
  | 0 => .nominal
  | 1 => .reduced
  | _ => .low

/-- Absolute core cycle since reset. -/
def State.now (s : State) : Nat := s.time.tick * 1024 + s.time.cycle

/-- Let `n` core cycles of the device time counter pass (R282, log 3). -/
def passTime (n : Nat) (s : State) : State :=
  let total := s.time.sub + n
  let d := s.disp.point.clock
  { s with time := { s.time with time := (s.time.time + total / d) % 2 ^ 64, sub := total % d } }

/-! ## Interrupts (R432, R434) -/

/-- Set EVT_INT_CAUSE bits of a function. -/
def setCause (f mask : Nat) (s : State) : State := modFn f (fun x => { x with cause := x.cause ||| mask }) s

/-- A source fires vector `v` of function `f`: its message is due. -/
def fireVector (f v : Nat) (s : State) : State := modFn f (fun x => { x with msixDue := x.msixDue ++ [v] }) s

/-! ## Events (R412 to R414) -/

/-- Functions whose queues an event goes to: its tenant's, and physical function 0's (R413). -/
def eventFns (tenant : Nat) : List Nat := if tenant < 32 then [0, tenant + 1] else [0]

/-- Note a dropped event on a function's queue: LOST on its next entry, and EVT_LOST when it is enabled (R414). -/
def markLost (f : Nat) (s : State) : State :=
  modFn f (fun x => if x.evq.enabled then { x with evq := { x.evq with lost := true }, cause := x.cause ||| 4 } else x) s

/-- Raise an event: it takes the next sequence number and waits in the engine's buffer, or is dropped when 512 wait
(R413, R414). `tenant` is 0xFF when it carries none. -/
def raise (code tenant : Nat) (data : List Byte) (s : State) : State :=
  if s.evBuf.length < 512 then
    let e : Event := ⟨code, tenant, s.evSeq, s.time.tick, fitBytes data 16⟩
    { s with evBuf := s.evBuf ++ [e], evSeq := incMod 32 s.evSeq, evLog := (e :: s.evLog).take 1024 }
  else (eventFns tenant).foldl (fun s f => markLost f s) (count cEngineDropped 1 s)

/-- An event waiting to be raised: code, tenant, data. -/
abbrev Raised := Nat × Nat × List Byte

/-- Lexicographic order of data bytes (R413). -/
def bytesLt : List Byte → List Byte → Bool
  | [], [] => false
  | [], _ :: _ => true
  | _ :: _, [] => false
  | a :: x, b :: y => if a = b then bytesLt x y else a.toNat < b.toNat

/-- Same-cycle order of two events (R413). -/
def raisedLe (a b : Raised) : Bool :=
  a.1 < b.1 || (a.1 == b.1 && !bytesLt (fitBytes b.2.2 16) (fitBytes a.2.2 16))

/-- Insert an element into a list sorted by `le`. -/
def insertBy {α : Type} (le : α → α → Bool) (x : α) : List α → List α
  | [] => [x]
  | y :: r => if le x y then x :: y :: r else y :: insertBy le x r

/-- Insertion sort, stable. -/
def sortBy {α : Type} (le : α → α → Bool) : List α → List α
  | [] => []
  | x :: r => insertBy le x (sortBy le r)

/-- Raise the events of one cycle in the order of R413. -/
def raiseCycle (evs : List Raised) (s : State) : State :=
  (sortBy raisedLe evs).foldl (fun s e => raise e.1 e.2.1 e.2.2 s) s

/-- The 32 bytes of an event entry with given PHASE and LOST bits (Table 19.1). -/
def Event.bytes (e : Event) (phase lost : Nat) : List Byte :=
  leBytes 2 e.code ++ leBytes 1 (phase + 2 * lost) ++ leBytes 1 e.tenant ++ leBytes 4 e.seq ++ leBytes 8 e.tick ++
    fitBytes e.data 16

/-! ## On-chip memory (R226, R227, R239) -/

/-- The byte at a device address; a byte nothing has written reads 0 (log 11). -/
def memByte (m : MemSt) (a : Nat) : Byte := (kvGet m.cells a).getD 0

/-- `n` bytes from `a`. -/
def memBytes (m : MemSt) (a : Nat) : Nat → List Byte
  | 0 => []
  | n + 1 => memByte m a :: memBytes m (a + 1) n

/-- Write one byte, keeping the canonical form. -/
def memPutByte (m : MemSt) (a : Nat) (b : Byte) : MemSt := { m with cells := kvPut 0 m.cells a b }

/-- Write bytes from `a`. -/
def memPut (m : MemSt) (a : Nat) : List Byte → MemSt
  | [] => m
  | b :: bs => memPut (memPutByte m a b) (a + 1) bs

/-- Zero `n` bytes from `a`. -/
def memClear (m : MemSt) (a n : Nat) : MemSt :=
  { m with cells := m.cells.filter (fun p => p.1 < a || a + n ≤ p.1) }

/-- The canonical form of memory: addresses strictly rising, no entry 0. -/
def cellsWf : List Host.Cell → Bool
  | [] => true
  | [(_, b)] => b != 0
  | (a, b) :: (a', b') :: r => a < a' && b != 0 && cellsWf ((a', b') :: r)

/-- The canonical form holds. -/
def Memory.wf (m : MemSt) : Bool := cellsWf m.cells

/-- The word of an address is poisoned (R239). -/
def poisoned (m : MemSt) (a : Nat) : Bool := m.poison.contains (a / 8)

/-- Poison the word of an address. -/
def poison (m : MemSt) (a : Nat) : MemSt := { m with poison := setAdd m.poison (a / 8) }

/-- Clear the poison marks of the words from `a` over `n` bytes. -/
def unpoison (m : MemSt) (a n : Nat) : MemSt :=
  { m with poison := m.poison.filter (fun w => w < a / 8 || ceilDiv (a + n) 8 ≤ w) }

/-- First poisoned word address among `n` bytes from `a`. -/
def firstPoison (m : MemSt) (a n : Nat) : Option Nat :=
  (m.poison.find? (fun w => a / 8 ≤ w && w * 8 < a + n)).map (· * 8)

/-! ## Record contexts (R93) -/

/-- Release a context: it goes to the tail of the free list. -/
def releaseCtx (c : Nat) (s : State) : State :=
  { s with ctxs := kvDel s.ctxs c, freeCtx := s.freeCtx ++ [c] }

/-! ## Credits (R271, R272) -/

/-- A consumer returns credits: their producers can use them from the next cycle on. -/
def giveBack (cs : List Credit) (s : State) : State := { s with returned := s.returned ++ cs }

/-- Credits of one kind that have come back in this cycle and still count as taken. -/
def State.unusable (s : State) (c : Credit) : Nat := s.returned.countP (· == c)

/-- Bytes of a transmit queue that have come back in this cycle. -/
def State.txqUnusable (s : State) (l : Nat) : Nat :=
  (s.returned.map (fun c => match c with | .txq p n => if p = l then n else 0 | _ => 0)).sum

/-! ## Free values (log 8) -/

/-- The next free value, and the state with the index advanced. -/
def nextFree (w : Nat) (s : State) : Nat × State :=
  ((Config.freeValue s.freeIdx).toNat % 2 ^ w, { s with freeIdx := s.freeIdx + 1 })

/-! ## The energy cost table: prices in 1/16 nJ, their scaling by operating point, and charging (R261 to R263) -/

/-- A nominal price at an operating point, rounded down to 1/16 nJ (R262). -/
def scalePrice (p : Point) (n : Nat) : Nat :=
  match p with
  | .nominal => n
  | .reduced => n * 199 / 256
  | .low => n * 164 / 256

/-- A price at the point in force. -/
def State.price (s : State) (n : Nat) : Nat := scalePrice s.disp.point n

/-! ## Nominal prices in 1/16 nJ (Table 12.2) -/

def priceRecord : Nat := 48
def priceSearch : Nat := 12
def priceNext : Nat := 2
def priceWalk : Nat := 8
def priceWalkByte : Nat := 1
def priceSlot : Nat := 64
def priceWarmUnit : Nat := 40
def priceColdKib : Nat := 128
def priceRow : Nat := 4
def pricePark : Nat := 16
def priceParkChannel : Nat := 2
def priceSummit : Nat := 20
def priceTerms : Nat := 32
def priceDma : Nat := 24
def priceFeedback : Nat := 16
def priceProposal : Nat := 8
def pricePatrol : Nat := 2

/-- Charge energy to the tick and the epoch. -/
def charge (n : Nat) (s : State) : State :=
  modDisp (fun d => { d with charging := d.charging + n, epochCharge := d.epochCharge + n }) s

/-- Charge `k` units of work of a nominal price. -/
def chargeWork (k nominal : Nat) (s : State) : State := charge (k * s.price nominal) s

end Sys2Proof.Machine
end

