-- ==== Sys2Proof/Machine/Numbers.lean ====
section
/-! DEFINITION. Numbers, flags and rounding (chapter 3): exact fractions rounded once to a format, the arithmetic of FP32 and FP16, exp, logistic, softmax, fixed-order sums and stochastic rounding. -/

namespace Sys2Proof.Machine

/-! ## Exact fractions -/

/-- An exact fraction: numerator and a positive denominator. -/
abbrev Frac := Int × Nat

/-- A power of two times an integer. -/
def scaleTwo (n : Int) (e : Int) : Frac :=
  if 0 ≤ e then (n * (2 ^ e.toNat : Nat), 1) else (n, 2 ^ (-e).toNat)

def fracAdd (a b : Frac) : Frac := (a.1 * b.2 + b.1 * a.2, a.2 * b.2)
def fracNeg (a : Frac) : Frac := (-a.1, a.2)
def fracMul (a b : Frac) : Frac := (a.1 * b.1, a.2 * b.2)
/-- Quotient; the divisor is not 0. -/
def fracDiv (a b : Frac) : Frac := (a.1 * b.2 * b.1.sign, a.2 * b.1.natAbs)
def fracLt (a b : Frac) : Bool := a.1 * b.2 < b.1 * a.2
def fracLe (a b : Frac) : Bool := a.1 * b.2 ≤ b.1 * a.2

/-- Nearest natural number to `n / d`, ties to even. -/
def roundEvenNat (n d : Nat) : Nat :=
  let q := n / d
  let r := n % d
  if 2 * r < d then q else if d < 2 * r then q + 1 else q + q % 2

/-- Nearest integer, ties to even (R37, R45). -/
def roundEven (a : Frac) : Int :=
  let m : Int := roundEvenNat a.1.natAbs a.2
  if a.1 < 0 then -m else m

/-! ## Flags (Table 3.3) -/

def flagSat : Nat := 1
def flagUnf : Nat := 2
def flagPoi : Nat := 4
def flagEsc : Nat := 8

/-- A floating-point result: its bit pattern and the flags it sets. -/
abbrev FRes := Nat × Nat

/-! ## Formats: precision, exponent of the smallest unit, exponent of the unit of the largest value -/

/-- A binary format: precision in bits, least unit exponent, greatest unit exponent. -/
abbrev Fmt := Nat × Int × Int

def fmt32 : Fmt := (24, -149, 104)
def fmt16 : Fmt := (11, -24, 5)

/-- Sign bit of a format. -/
def signBit (f : Fmt) : Nat := if f.1 = 24 then 2 ^ 31 else 2 ^ 15

/-- Largest finite magnitude's pattern. -/
def maxPat (f : Fmt) : Nat := (f.2.2 - f.2.1).toNat * 2 ^ (f.1 - 1) + (2 ^ f.1 - 1)

/-- Exponent of the leading bit of a positive fraction. -/
def leadExp (n d : Nat) : Int :=
  let l : Int := (Nat.log2 n : Int) - (Nat.log2 d : Int)
  let p := scaleTwo 1 l
  if p.1.toNat * d ≤ n * p.2 then l else l - 1

/-- Exponent of the unit in which a positive magnitude is rounded, never below the format's least. -/
def unitExp (f : Fmt) (n d : Nat) : Int := max (leadExp n d - (f.1 - 1 : Nat)) f.2.1

/-- A magnitude in units of 2^u, as a fraction. -/
def inUnits (n d : Nat) (u : Int) : Nat × Nat :=
  if 0 ≤ u then (n, d * 2 ^ u.toNat) else (n * 2 ^ (-u).toNat, d)

/-- Pattern and flags of a magnitude rounded to `k` units of 2^u, given whether that was inexact (R47, R48). -/
def packMag (f : Fmt) (u : Int) (k : Nat) (inexact : Bool) : FRes :=
  let pat := (u - f.2.1).toNat * 2 ^ (f.1 - 1) + k
  if maxPat f < pat then (maxPat f, flagSat)
  else (pat, if inexact && decide (pat < 2 ^ (f.1 - 1)) then flagUnf else 0)

/-- Round a nonnegative magnitude to nearest, ties to even (R46 to R48). -/
def roundMag (f : Fmt) (n d : Nat) : FRes :=
  if n = 0 then (0, 0)
  else
    let u := unitExp f n d
    let q := inUnits n d u
    packMag f u (roundEvenNat q.1 q.2) (q.1 % q.2 != 0)

/-- Round a magnitude stochastically with draw `r` (R53). -/
def roundMagSr (f : Fmt) (n d r : Nat) : FRes :=
  if n = 0 then (0, 0)
  else
    let u := unitExp f n d
    let q := inUnits n d u
    let lo := q.1 / q.2
    let fr := q.1 % q.2 * 2 ^ 32 / q.2
    packMag f u (if fr ≠ 0 ∧ r < fr then lo + 1 else lo) (q.1 % q.2 != 0)

/-- Give a result a sign. -/
def withSign (f : Fmt) (neg : Bool) (x : FRes) : FRes := (if neg then x.1 + signBit f else x.1, x.2)

/-- Round a fraction; a zero fraction is +0. -/
def roundFrac (f : Fmt) (a : Frac) : FRes := withSign f (a.1 < 0) (roundMag f a.1.natAbs a.2)

/-! ## FP32 -/

/-- Sign of an FP32 pattern. -/
def f32Neg (x : Nat) : Bool := bit x 31

/-- Magnitude pattern. -/
def f32Abs (x : Nat) : Nat := x % 2 ^ 31

/-- The pattern is a NaN or an infinity. -/
def f32Special (x : Nat) : Bool := bits x 30 23 == 255

/-- The pattern is a NaN. -/
def f32IsNan (x : Nat) : Bool := f32Special x && bits x 22 0 != 0

/-- The pattern is a zero. -/
def f32IsZero (x : Nat) : Bool := f32Abs x == 0

/-- Value of a finite FP32 pattern. -/
def f32Val (x : Nat) : Frac :=
  let e := bits x 30 23
  let m : Int := if e = 0 then bits x 22 0 else 2 ^ 23 + bits x 22 0
  scaleTwo (if f32Neg x then -m else m) ((if e = 0 then 1 else e : Int) - 150)

/-- Negate a pattern. -/
def f32Minus (x : Nat) : Nat := if f32Neg x then x - 2 ^ 31 else x + 2 ^ 31

/-- +1.0. -/
def f32One : Nat := 0x3F800000
def f32Max : Nat := 0x7F7FFFFF

/-- Order of two finite patterns as real numbers. -/
def f32Lt (a b : Nat) : Bool := fracLt (f32Val a) (f32Val b)
def f32Le (a b : Nat) : Bool := fracLe (f32Val a) (f32Val b)

/-- A special pattern as the largest finite value of its sign (R38); any other as it is. -/
def f32Clamp (x : Nat) : Nat := if f32Special x then (if f32Neg x then 2 ^ 31 + f32Max else f32Max) else x

/-- Sign of an exact zero sum: −0 only when both operands are −0 (R49). -/
def zeroSum (a b : Nat) : FRes := (if f32Neg a && f32Neg b then 2 ^ 31 else 0, 0)

/-- FP32 add, rounded to nearest (R46 to R49). -/
def f32Add (a b : Nat) : FRes :=
  let v := fracAdd (f32Val a) (f32Val b)
  if v.1 = 0 then zeroSum a b else roundFrac fmt32 v

/-- FP32 add with stochastic rounding and draw `r` (R53). -/
def f32AddSr (a b r : Nat) : FRes :=
  let v := fracAdd (f32Val a) (f32Val b)
  if v.1 = 0 then zeroSum a b else withSign fmt32 (v.1 < 0) (roundMagSr fmt32 v.1.natAbs v.2 r)

/-- FP32 subtract. -/
def f32Sub (a b : Nat) : FRes := f32Add a (f32Minus b)

/-- FP32 multiply. -/
def f32Mul (a b : Nat) : FRes :=
  let v := fracMul (f32Val a) (f32Val b)
  withSign fmt32 (f32Neg a != f32Neg b) (roundMag fmt32 v.1.natAbs v.2)

/-- FP32 divide, with the results of R49 for a zero divisor. -/
def f32Div (a b : Nat) : FRes :=
  if f32IsZero b then
    if f32IsZero a then (0, 0) else withSign fmt32 (f32Neg a != f32Neg b) (f32Max, flagSat)
  else
    let v := fracDiv (f32Val a) (f32Val b)
    withSign fmt32 (f32Neg a != f32Neg b) (roundMag fmt32 v.1.natAbs v.2)

/-- An integer rounded to FP32 (R44). -/
def f32OfInt (n : Int) : FRes := roundFrac fmt32 (n, 1)

/-- FP32 to FP16 (R45). -/
def f32ToF16 (x : Nat) : FRes :=
  let v := f32Val x
  withSign fmt16 (f32Neg x) (roundMag fmt16 v.1.natAbs v.2)

/-- FP16 pattern widened to FP32 exactly; an infinity or NaN keeps its kind (R38). -/
def f16ToF32 (h : Nat) : Nat :=
  let s := if bit h 15 then 2 ^ 31 else 0
  let e := bits h 14 10
  let m := bits h 9 0
  if e = 31 then s + 0x7F800000 + m * 2 ^ 13
  else
    let v := scaleTwo (if e = 0 then (m : Int) else 1024 + m) ((if e = 0 then 1 else e : Int) - 25)
    s + (roundMag fmt32 v.1.natAbs v.2).1

/-- Limit an integer to a range, with SAT when limited. -/
def limitInt (lo hi k : Int) : Int × Nat := if k < lo then (lo, flagSat) else if hi < k then (hi, flagSat) else (k, 0)

/-- int8 score code of y with factor m and zero point z (R45). -/
def toInt8 (y m : Nat) (z : Int) : Int × Nat := limitInt (-128) 127 (roundEven (fracMul (f32Val y) (f32Val m)) + z)

/-- Q16 score of y with factor m (R45). -/
def toQ16 (y m : Nat) : Int × Nat := limitInt (-32768) 32767 (roundEven (fracMul (f32Val y) (f32Val m)))

/-! ## exp, logistic, softmax (R50) -/

/-- Fraction bits of the fixed-point exponential (log 13). -/
def expBits : Nat := 384

/-- Sum of the exponential's series in fixed point: term `t` is r^n / n!, `fuel` terms follow. -/
def expSeries (r : Int) : Nat → Nat → Int → Int → Int
  | 0, _, _, acc => acc
  | fuel + 1, n, t, acc =>
    let t' := t * r / ((2 ^ expBits : Nat) : Int) / ((n + 1 : Nat) : Int)
    expSeries r fuel (n + 1) t' (acc + t')

/-- Square a fixed-point number `n` times. -/
def squareTimes : Nat → Nat → Nat
  | 0, y => y
  | n + 1, y => squareTimes n (y * y / 2 ^ expBits)

/-- e^v for |v| ≤ 104, times 2^expBits, to far beyond FP32's precision. -/
def expFixed (v : Frac) : Nat :=
  let r : Int := v.1 * ((2 ^ expBits : Nat) : Int) / ((v.2 * 256 : Nat) : Int)
  squareTimes 8 (expSeries r 90 0 ((2 ^ expBits : Nat) : Int) ((2 ^ expBits : Nat) : Int)).toNat

/-- exp(x), the exact value rounded (R50). -/
def f32Exp (x : Nat) : FRes :=
  let v := f32Val x
  if v.1 = 0 then (f32One, 0)
  else if fracLe (89, 1) v then (f32Max, flagSat)
  else if fracLe v (-104, 1) then (0, flagUnf)
  else roundMag fmt32 (expFixed v) (2 ^ expBits)

/-- Logistic of x (R50). -/
def f32Logistic (x : Nat) : FRes :=
  let v := f32Val x
  if fracLe (88, 1) v then (f32One, 0)
  else if fracLe v (-88, 1) then (0, flagUnf)
  else roundMag fmt32 (2 ^ expBits) (2 ^ expBits + expFixed (fracNeg v))

/-! ## Fixed summation order (R51) -/

/-- One round of pairing: sums of neighbours, an odd last term carried up; flags gathered. -/
def pairRound (add : Nat → Nat → FRes) : List Nat → List Nat × Nat
  | a :: b :: r =>
    let x := add a b
    let y := pairRound add r
    (x.1 :: y.1, x.2 ||| y.2)
  | l => (l, 0)

/-- Rounds of pairing until one term is left. -/
def pairFuel (add : Nat → Nat → FRes) : Nat → List Nat → Nat → FRes
  | _, [], fl => (0, fl)
  | _, [x], fl => (x, fl)
  | 0, x :: _, fl => (x, fl)
  | n + 1, l, fl =>
    let r := pairRound add l
    pairFuel add n r.1 (fl ||| r.2)

/-- Pairwise FP32 sum in list order (R51). -/
def pairwise (l : List Nat) : FRes := pairFuel f32Add l.length l 0

/-- Largest of a list of finite patterns. -/
def f32Largest : List Nat → Nat
  | [] => 0
  | x :: r => r.foldl (fun m y => if f32Lt m y then y else m) x

/-- A result is subnormal or zero. -/
def f32Tiny (x : Nat) : Bool := f32Abs x < 2 ^ 23

/-- The exponential of an FP32 value is exact only at 0. -/
def expInexact (x : Nat) : Bool := !f32IsZero x

/-- e / S is not exactly the pattern `r`. -/
def divInexact (e sum r : Nat) : Bool :=
  let a := fracMul (f32Val r) (f32Val sum)
  let b := f32Val e
  a.1 * b.2 != b.1 * a.2

/-- Softmax over channels in index order: results with their flags (R50). -/
def softmax (xs : List Nat) : List FRes :=
  let m := f32Largest xs
  let ds := xs.map (fun x => (f32Sub x m).1)
  let es := ds.map (fun d => (f32Exp d).1)
  let sum := (pairwise es).1
  (ds.zip es).map (fun p =>
    let r := (f32Div p.2 sum).1
    (r, if f32Tiny r && (divInexact p.2 sum r || expInexact p.1) then flagUnf else 0))

/-! ## Stochastic rounding draws (R54, R55) -/

/-- h32 of R54. -/
def h32 (x : BitVec 32) : BitVec 32 :=
  let x := (x ^^^ (x >>> 16)) * 0x7feb352d#32
  let x := (x ^^^ (x >>> 15)) * 0x846ca68b#32
  x ^^^ (x >>> 16)

/-- sr_draw of R54. -/
def srDraw (seed recId site n : Nat) : Nat :=
  let x := h32 (BitVec.ofNat 32 seed ^^^ 0x9e3779b9#32)
  let x := h32 (x ^^^ BitVec.ofNat 32 recId)
  let x := h32 (x ^^^ BitVec.ofNat 32 (recId / 2 ^ 32))
  let x := h32 (x ^^^ BitVec.ofNat 32 site)
  (h32 (x ^^^ BitVec.ofNat 32 n)).toNat

/-- Stochastic rounding of a fraction to an integer with draw `r` (R53). -/
def srInt (a : Frac) (r : Nat) : Int :=
  let n := a.1.natAbs
  let f := n % a.2 * 2 ^ 32 / a.2
  let m : Int := if r < f then n / a.2 + 1 else n / a.2
  if a.1 < 0 then -m else m

/-! ## Q mode (R40 to R42) -/

/-- Saturate to the 48-bit slot range (R42). -/
def qSat (v : Int) : Int × Nat := limitInt (-(2 ^ 47)) (2 ^ 47 - 1) v

/-- Saturate to the Q16 range (R43). -/
def q16Sat (v : Int) : Int × Nat := limitInt (-32768) 32767 v

end Sys2Proof.Machine
end

