-- ==== Sys2Proof/Machine/Image.lean ====
section
/-! DEFINITION. Model images (chapter 10): parsing and validation in the order of R217, with the first field that failed. -/

namespace Sys2Proof.Machine

/-- A failed check: the section type and the image offset of the first field that failed (R217). Type 0x100 stands for
a bank the tenant does not own, which is refused with ERR_NOT_OWNER (R209). -/
abbrev IErr := Nat × Nat

/-- A check's outcome. -/
abbrev Chk := Except IErr

/-- Fail with a section type and an offset unless a condition holds. -/
def need (ok : Bool) (ty off : Nat) : Chk Unit := if ok then .ok () else .error (ty, off)

/-- Reserved bytes from `a` to before `b` must be 0; the failure is at the first that is not. -/
def needZero (bs : List Byte) (ty a b : Nat) : Chk Unit :=
  match firstNonzero (slice bs a (b - a)) with
  | none => .ok ()
  | some i => .error (ty, a + i)

/-- FP32, positive, finite and nonzero. -/
def posFinite (x : Nat) : Bool := 0 < x && x ≤ f32Max

/-- FP32, finite. -/
def finite (x : Nat) : Bool := !f32Special x

/-- Run a check over a list with each element's index. -/
def forIdx {α : Type} (f : Nat → α → Chk Unit) : Nat → List α → Chk Unit
  | _, [] => .ok ()
  | i, x :: xs => match f i x with
    | .ok _ => forIdx f (i + 1) xs
    | .error e => .error e

/-! ## Header and directory (R203 to R206) -/

/-- One base score: its check and value. -/
def baseScore (bs : List Byte) (fmode : Bool) (n c : Nat) : Chk Int := do
  let o := 128 + 8 * c
  if n ≤ c then
    need (leAt bs o 8 == 0) 0 o
    return 0
  else if fmode then
    need (finite (leAt bs o 4)) 0 o
    need (leAt bs (o + 4) 4 == 0) 0 (o + 4)
    return leAt bs o 4
  else
    let v := toSigned 64 (leAt bs o 8)
    need (decide (-(2 ^ 47) ≤ v ∧ v < 2 ^ 47)) 0 o
    return v

/-- Header fields the rest of the image is read by. -/
abbrev Head := Nat × Bool × Nat × Nat × Nat × List Int

/-- The header (Table 10.1): (D, F mode, channels, members, tree count, base scores). -/
def checkHeader (bs : List Byte) (size : Nat) : Chk Head := do
  need (slice bs 0 4 == [0x43, 0x4B, 0x4D, 0x49]) 0 0
  need (leAt bs 4 2 == 1) 0 4
  let d := leAt bs 6 2
  need (1 ≤ d && d ≤ 32) 0 6
  need (leAt bs 8 8 == size) 0 8
  let mode := byteAt bs 16
  need (mode ≤ 1) 0 16
  let n := byteAt bs 17
  need (1 ≤ n && n ≤ 64) 0 17
  let members := byteAt bs 18
  need (1 ≤ members && members ≤ 16) 0 18
  need (byteAt bs 19 ≤ 1) 0 19
  let qs := leAt bs 24 4
  need (if mode = 0 then posFinite qs else qs == 0) 0 24
  let trees := leAt bs 28 4
  need (1 ≤ trees && trees ≤ 2097152) 0 28
  needZero bs 0 32 128
  let base ← (List.range 64).mapM (baseScore bs (mode == 1) n)
  return (d, mode == 1, n, members, trees, base.take n)

/-- A directory entry: type, id, offset, length, count, and where the entry stands. -/
structure DirEnt where
  ty : Nat
  id : Nat
  off : Nat
  len : Nat
  cnt : Nat
  at_ : Nat
deriving DecidableEq, Repr

/-- Count and length of a section (Table 10.3). -/
def checkShape (h : Head) (e : DirEnt) : Chk Unit := do
  let lenAt := e.at_ + 8
  let cntAt := e.at_ + 12
  match e.ty with
  | 1 => need (e.len == 16 * e.cnt) 0xFF lenAt; need (1 ≤ e.cnt && e.cnt ≤ 512) 0xFF cntAt
  | 3 => need (e.len == 32 * e.cnt) 0xFF lenAt; need (1 ≤ e.cnt && e.cnt ≤ 16) 0xFF cntAt
  | 4 => pure ()
  | 6 => need (e.len % 1024 == 0) 0xFF lenAt; need (e.cnt == 0) 0xFF cntAt
  | 7 => need (e.len == 16 * e.cnt) 0xFF lenAt; need (e.cnt == h.2.2.2.2.1) 0xFF cntAt
  | 8 => need (e.len == 16 + 8 * h.2.2.1) 0xFF lenAt; need (e.cnt == 0) 0xFF cntAt
  | 9 => need (e.len == 160 * e.cnt) 0xFF lenAt; need (e.cnt == h.2.2.2.1) 0xFF cntAt
  | 10 => need (1 ≤ e.cnt && e.cnt ≤ 7) 0xFF cntAt
  | 11 => need (e.len == 64 + 24 * e.cnt) 0xFF lenAt
  | 12 => need (e.len == 32) 0xFF lenAt; need (e.cnt == 0) 0xFF cntAt
  | _ => need (e.cnt == 0) 0xFF cntAt

/-- One directory entry after those before it (R204, R205). -/
def checkEntry (h : Head) (size : Nat) (prev : List DirEnt) (e : DirEnt) : Chk Unit := do
  need (1 ≤ e.ty && e.ty ≤ 12 && (e.ty == 5 || prev.all (fun p => p.ty != e.ty))) 0xFF e.at_
  need (if e.ty = 5 then e.id ≤ 63 && prev.all (fun p => !(p.ty == 5 && p.id == e.id)) else e.id == 0) 0xFF (e.at_ + 2)
  need (e.off % 16 == 0 && 640 + 16 * h.1 ≤ e.off &&
    prev.all (fun p => p.off + p.len ≤ e.off || e.off + e.len ≤ p.off)) 0xFF (e.at_ + 4)
  need (e.off + e.len + 48 ≤ size) 0xFF (e.at_ + 8)
  checkShape h e

/-- The directory entries, read and checked in order. -/
def readDir (bs : List Byte) (h : Head) (size : Nat) : Nat → List DirEnt → Chk (List DirEnt)
  | 0, acc => .ok acc
  | k + 1, acc =>
    let o := 640 + 16 * (h.1 - (k + 1))
    if size < o + 16 + 48 then .error (0xFF, o)
    else
      let e : DirEnt := ⟨leAt bs o 2, leAt bs (o + 2) 2, leAt bs (o + 4) 4, leAt bs (o + 8) 4, leAt bs (o + 12) 4, o⟩
      match checkEntry h size acc e with
      | .ok _ => readDir bs h size k (acc ++ [e])
      | .error x => .error x

/-- Bytes outside every section are 0 (R203): from `from_`, over sections in ascending offset. -/
def checkGaps (bs : List Byte) (size : Nat) : Nat → List DirEnt → Chk Unit
  | a, [] => needZero bs 0xFF a (size - 48)
  | a, e :: r => match needZero bs 0xFF a e.off with
    | .ok _ => checkGaps bs size (e.off + e.len) r
    | .error x => .error x

/-- The directory (R203 to R205). -/
def checkDir (bs : List Byte) (h : Head) (size : Nat) : Chk (List DirEnt) := do
  let es ← readDir bs h size h.1 []
  need ([1, 6, 7, 8, 9].all (fun t => es.any (·.ty == t))) 0xFF 640
  checkGaps bs size (640 + 16 * h.1) (sortBy (fun a b => a.off ≤ b.off) es)
  return es

/-- The section of a type. -/
def secOf (es : List DirEnt) (t : Nat) : Option DirEnt := es.find? (·.ty == t)

/-! ## Schema and binning sections (R207, R208, R91, R92, R100) -/

/-- A raw descriptor: type, kind, options, first slot, flag count, table offset, threshold, image offset. -/
structure RawField where
  ty : Nat
  kind : Nat
  opts : Nat
  slot : Nat
  b : Nat
  tab : Nat
  t : Nat
  at_ : Nat
deriving DecidableEq, Repr

def FieldType.ofCode : Nat → FieldType
  | 0 => .int32
  | 1 => .uint32
  | 2 => .int64
  | 3 => .fp16
  | 4 => .fp32
  | 5 => .bitfield
  | 6 => .category
  | _ => .str

/-- Binning kinds a field type allows (Table 5.2). -/
def kindAllowed (ty kind : Nat) : Bool :=
  if ty ≤ 4 then kind ≤ 2 else if ty = 5 then kind == 5 else if ty = 6 then kind == 0 || kind == 3 else kind == 0 || kind == 4

/-- Slots a raw field feeds. -/
def RawField.slots (r : RawField) : List Nat :=
  if r.kind = 0 then [] else if r.kind = 5 then (List.range r.b).map (r.slot + ·) else [r.slot]

/-- Bytes a kept field may need (R100). -/
def RawField.keptBytes (r : RawField) : Nat := if bit r.opts 1 then (if r.ty = 7 then 256 else 8) else 0

def readField (bs : List Byte) (o : Nat) : RawField :=
  ⟨byteAt bs o, byteAt bs (o + 1), leAt bs (o + 2) 2, leAt bs (o + 4) 2, leAt bs (o + 6) 2, leAt bs (o + 8) 4,
    leAt bs (o + 12) 4, o⟩

/-- One field descriptor after those before it. `binLen` is the binning section's length, none when absent. -/
def checkField (binLen : Option Nat) (prev : List RawField) (r : RawField) : Chk Unit := do
  let o := r.at_
  need (r.ty ≤ 7) 1 o
  need (kindAllowed r.ty r.kind) 1 (o + 1)
  let tabled := 1 ≤ r.kind && r.kind ≤ 4
  need (!tabled || binLen.isSome) 1 (o + 1)
  need (r.opts < 4) 1 (o + 2)
  need (!bit r.opts 0 || r.kind == 1 || r.kind == 2 || r.kind == 3) 1 (o + 2)
  need (!(bit r.opts 1 && r.ty == 5)) 1 (o + 2)
  need ((prev.map RawField.keptBytes).sum + r.keptBytes ≤ 1024) 1 (o + 2)
  need (if r.kind = 0 then r.slot == 0 else
    r.slot ≤ 1023 && (r.kind != 5 || r.slot + r.b ≤ 1024) &&
      prev.all (fun p => p.slots.all (fun x => !r.slots.contains x))) 1 (o + 4)
  need (if r.ty = 5 then 1 ≤ r.b && r.b ≤ 256 else r.b == 0) 1 (o + 6)
  need (if tabled then r.tab % 8 == 0 && r.tab + 8 ≤ binLen.getD 0 else r.tab == 0) 1 (o + 8)
  need (tabled || r.t == 0) 1 (o + 12)

/-- The fields, checked in order. -/
def checkFields (bs : List Byte) (binLen : Option Nat) (off : Nat) : Nat → Nat → List RawField → Chk (List RawField)
  | 0, _, acc => .ok acc
  | k + 1, i, acc =>
    let r := readField bs (off + 16 * i)
    match checkField binLen acc r with
    | .ok _ => checkFields bs binLen off k (i + 1) (acc ++ [r])
    | .error x => .error x

/-- Read `n` little-endian numbers of `w` bytes from `o`. -/
def readNums (bs : List Byte) (o w n : Nat) : List Nat := (List.range n).map (fun i => leAt bs (o + w * i) w)

/-- Value of an edge in its field's domain (R96). -/
def edgeVal (ty raw : Nat) : Int := if ty = 0 then toSigned 32 raw else if ty = 2 then toSigned 64 raw else raw

/-- Order of two edges of a domain. -/
def edgeLt (isFp : Bool) (a b : Int) : Bool := if isFp then f32Lt a.toNat b.toNat else a < b

/-- Strictly ascending. -/
def ascending (lt : Int → Int → Bool) : List Int → Bool
  | a :: b :: r => lt a b && ascending lt (b :: r)
  | _ => true

/-- Strings of a dictionary record: `n` entries from `o`, ending no later than `fin`; none past it. -/
def readStrs (bs : List Byte) (fin : Nat) : Nat → Nat → List (Nat × List Byte) → Except Nat (List (Nat × List Byte))
  | 0, _, acc => .ok acc
  | n + 1, o, acc =>
    if fin ≤ o then .error o
    else
      let l := byteAt bs o
      if fin < o + 1 + l then .error o
      else
        let x := slice bs (o + 1) l
        if acc.any (·.2 == x) then .error o else readStrs bs fin n (o + 1 + l) (acc ++ [(o, x)])

/-- The binning of a raw field and the length of its record (R208). -/
def parseBin (bs : List Byte) (secOff secLen : Nat) (r : RawField) : Chk (Binning × Nat) := do
  let o := secOff + r.tab
  let fin := secOff + secLen
  match r.kind with
  | 1 =>
    let n := leAt bs o 2
    let w := if r.ty = 2 then 8 else 4
    let isFp := r.ty = 3 || r.ty = 4
    need (1 ≤ n && n ≤ 253 && o + 8 + w * n ≤ fin) 2 o
    needZero bs 2 (o + 2) (o + 8)
    let raws := readNums bs (o + 8) w n
    forIdx (fun i x => need (!isFp || finite x) 2 (o + 8 + w * i)) 0 raws
    let es := raws.map (edgeVal r.ty)
    forIdx (fun i (p : Int × Int) => need (edgeLt isFp p.1 p.2) 2 (o + 8 + w * (i + 1))) 0 (es.zip (es.drop 1))
    return (.edge isFp es, 8 + w * n)
  | 2 =>
    need (posFinite (leAt bs o 4)) 2 o
    need (byteAt bs (o + 4) ≤ 253) 2 (o + 4)
    needZero bs 2 (o + 5) (o + 8)
    return (.affine (leAt bs o 4) (byteAt bs (o + 4)), 8)
  | 3 =>
    let n := leAt bs o 2
    need (1 ≤ n && n ≤ 253 && o + 8 + 4 * n ≤ fin) 2 o
    need (byteAt bs (o + 2) ≤ 0xFE) 2 (o + 2)
    needZero bs 2 (o + 3) (o + 8)
    let ids := readNums bs (o + 8) 4 n
    forIdx (fun i (p : Nat × Nat) => need (p.1 < p.2) 2 (o + 12 + 4 * i)) 0 (ids.zip (ids.drop 1))
    return (.catMap (byteAt bs (o + 2)) ids, 8 + 4 * n)
  | 4 =>
    let n := leAt bs o 2
    need (1 ≤ n && n ≤ 253) 2 o
    need (byteAt bs (o + 2) ≤ 0xFE) 2 (o + 2)
    needZero bs 2 (o + 3) (o + 8)
    match readStrs bs fin n (o + 8) [] with
    | .ok xs => return (.dict (byteAt bs (o + 2)) (xs.map (·.2)), 8 + (xs.map (fun x => 1 + x.2.length)).sum)
    | .error x => .error (2, x)
  | 5 => return (.flags r.b, 0)
  | _ => return (.none, 0)

/-- A field with its binning. -/
def toField (secOff : Nat) (r : RawField) (b : Binning × Nat) : Field :=
  { type := FieldType.ofCode r.ty, binning := b.1, escape := bit r.opts 0, kept := bit r.opts 1, slot := r.slot
    flagCount := r.b, threshold := r.t, tabOff := if b.2 = 0 then 0 else secOff + r.tab, tabLen := b.2 }

/-- Slots a field feeds (Table 5.2). -/
def Field.slots (f : Field) : List Nat :=
  match f.binning with
  | .none => []
  | .flags b => (List.range b).map (f.slot + ·)
  | _ => [f.slot]

/-! ## Derivation program, entry records, pattern sets (R119 to R126, R209, R210) -/

/-- Widths a part's width byte may have, by kind (Table 6.5). -/
def partWidthOk (kind w : Nat) : Bool :=
  match kind with
  | 0 => 1 ≤ w && w ≤ 64
  | 1 => 1 ≤ w && w ≤ 19
  | 4 => 1 ≤ w && w ≤ 32
  | _ => w == 8

/-- Greatest source of a part kind. -/
def partSourceMax (kind : Nat) : Nat := if kind = 3 then 1023 else if kind = 4 then 14 else 511

/-- One key part of a step (R120). -/
def parsePart (bs : List Byte) (op po : Nat) : Chk KeyPart := do
  let w16 := leAt bs po 2
  let wb := byteAt bs (po + 2)
  let kind := w16 / 2 ^ 13
  let src := w16 % 2 ^ 13
  need (kind ≤ 4) 3 (po + 1)
  need (src ≤ partSourceMax kind) 3 po
  need (op != 2 || kind == 0 || kind == 3 || kind == 4) 3 (po + 1)
  need (op != 3 || kind == 1) 3 (po + 1)
  need (if op = 1 then partWidthOk kind wb else wb == 0) 3 (po + 2)
  return ⟨kind, src, wb⟩

/-- One step: legal values of Tables 6.4 to 6.6. -/
def parseStep (bs : List Byte) (o : Nat) : Chk Step := do
  let op := byteAt bs o
  need (1 ≤ op && op ≤ 4) 3 o
  let tgt := byteAt bs (o + 1)
  need (if op = 3 then tgt ≤ 63 else tgt ≤ 15) 3 (o + 1)
  let pc := byteAt bs (o + 2)
  need (if op = 1 then 1 ≤ pc && pc ≤ 4 else if op = 4 then pc == 0 else pc == 1) 3 (o + 2)
  need (byteAt bs (o + 3) ≤ 0xFE) 3 (o + 3)
  let parts ← (List.range pc).mapM (fun i => parsePart bs op (o + 4 + 3 * i))
  ((List.range 4).drop pc).forM (fun i => need (leAt bs (o + 4 + 3 * i) 3 == 0) 3 (o + 4 + 3 * i))
  let ds := (List.range 4).map (fun i => leAt bs (o + 16 + 2 * i) 2)
  forIdx (fun i d => need (bits d 12 10 ≤ 5 && bits d 14 13 == 0) 3 (o + 17 + 2 * i)) 0 ds
  needZero bs 3 (o + 24) (o + 32)
  return { op := op, target := tgt, miss := byteAt bs (o + 3), parts := parts
           dests := (ds.filter (fun d => bit d 15)).map (fun d => ⟨bits d 9 0, bits d 12 10⟩) }

/-- Entry records of section 0x04 (R210), from `o` to `fin`. -/
def parseEntries (bs : List Byte) (fin : Nat) : Nat → Nat → Chk (List EntryRec)
  | 0, _ => .ok []
  | n + 1, o => if o = fin then .ok [] else do
    need (o + 16 ≤ fin && byteAt bs o ≤ 15) 4 o
    let w := byteAt bs (o + 1)
    need ((w == 1 || w == 2 || w == 4) && o + 16 + 16 * w ≤ fin) 4 (o + 1)
    need (leAt bs (o + 2) 2 < 4096 / w) 4 (o + 2)
    forIdx (fun i b => need (b != (0xFF : Byte)) 4 (o + 4 + i)) 0 (slice bs (o + 4) 4)
    needZero bs 4 (o + 8) (o + 16)
    (List.range w).forM (fun u => needZero bs 4 (o + 16 + 16 * u + 10) (o + 32 + 16 * u))
    let units := (List.range w).foldl (fun a u => a + leAt bs (o + 16 + 16 * u) 10 * 2 ^ (80 * u)) 0
    let rest ← parseEntries bs fin n (o + 16 + 16 * w)
    return ⟨byteAt bs o, w, leAt bs (o + 2) 2, leAt bs (o + 4) 4, units, o⟩ :: rest

/-- A pattern set (Table 6.8, R126). -/
def parsePattern (bs : List Byte) (o len : Nat) : Chk PatternSet := do
  need (slice bs o 4 == [0x53, 0x47, 0x50, 0x41]) 5 o
  need (leAt bs (o + 4) 2 == 1) 5 (o + 4)
  let c := leAt bs (o + 6) 2
  need (1 ≤ c && c ≤ 256) 5 (o + 6)
  let n := leAt bs (o + 8) 4
  need (1 ≤ n && n ≤ 65536) 5 (o + 8)
  need (leAt bs (o + 12) 2 < n) 5 (o + 12)
  needZero bs 5 (o + 14) (o + 16)
  let a := leAt bs (o + 16) 4
  need (len == 320 + 4 * n + 2 * n * c + 8 * a) 5 (o + 16)
  needZero bs 5 (o + 20) (o + 64)
  let cmap := (slice bs (o + 64) 256).map BitVec.toNat
  forIdx (fun i x => need (x < c) 5 (o + 64 + i)) 0 cmap
  let info := (List.range n).map (fun i => leAt bs (o + 320 + 4 * i) 4)
  forIdx (fun i x => need (bits x 15 0 + bits x 23 16 ≤ a && bits x 31 24 == 0) 5 (o + 320 + 4 * i)) 0 info
  let tr := (List.range (n * c)).map (fun i => leAt bs (o + 320 + 4 * n + 2 * i) 2)
  forIdx (fun i x => need (x < n) 5 (o + 320 + 4 * n + 2 * i)) 0 tr
  let ao := o + 320 + 4 * n + 2 * n * c
  let acc := (List.range a).map (fun i => leAt bs (ao + 8 * i) 8)
  forIdx (fun i x => do
    need (bits x 31 25 == 0) 5 (ao + 8 * i + 3)
    need (bits x 39 32 < 0xFE) 5 (ao + 8 * i + 4)
    need (bits x 47 40 < 0xFE) 5 (ao + 8 * i + 5)
    need (bits x 63 48 == 0) 5 (ao + 8 * i + 6)) 0 acc
  return { classes := c, states := n, start := leAt bs (o + 12) 2, classMap := cmap
           info := info.map (fun x => (bits x 15 0, bits x 23 16)), next := tr
           accepts := acc.map (fun x => ⟨bits x 15 0, bits x 23 16, bit x 24, bits x 39 32, bits x 47 40⟩), off := o }

/-! ## Tree tables (R141 to R151) -/

/-- A flat-form node word (Table 7.4). -/
def parseNode (w f s e : Nat) : Option Node :=
  let feat := bits w 12 8
  if !bit w 15 then
    if feat < f && bits w 7 0 ≤ 0xFD then
      some ⟨if bit w 14 then .le (bits w 7 0) else .lt (bits w 7 0), feat, bit w 13, 0, 0⟩
    else none
  else if bits w 6 4 != 0 then none
  else match bits w 14 13 with
    | 0 => if feat < f && bits w 3 0 < s then some ⟨.set (bits w 3 0), feat, bit w 7, 0, 0⟩ else none
    | 1 => if feat < f && bits w 3 0 < e then some ⟨.exact (bits w 3 0), feat, bit w 7, 0, 0⟩ else none
    | 2 => if bits w 12 0 = 0 then some ⟨.pad, 0, false, 0, 0⟩ else none
    | _ => none

/-- Categorical sets: bit 0xFE must be 0 (R143). -/
def parseSets (bs : List Byte) (o n : Nat) : Chk (List Nat) := do
  let xs := readNums bs o 32 n
  forIdx (fun i x => need (!bit x 0xFE) 6 (o + 32 * i + 31)) 0 xs
  return xs

/-- One exact threshold (Table 7.6). -/
def parseExact (bs : List Byte) (o : Nat) : Chk Exact := do
  let isFp := byteAt bs (o + 8) == 1
  if isFp then
    need (finite (leAt bs o 4)) 6 o
    need (leAt bs (o + 4) 4 == 0) 6 (o + 4)
  need (byteAt bs (o + 8) ≤ 1) 6 (o + 8)
  need (byteAt bs (o + 9) ≤ 1) 6 (o + 9)
  need (byteAt bs (o + 10) ≤ 0xFD) 6 (o + 10)
  needZero bs 6 (o + 11) (o + 16)
  return ⟨if isFp then leAt bs o 4 else toSigned 64 (leAt bs o 8), isFp, byteAt bs (o + 9) == 1, byteAt bs (o + 10)⟩

/-- A linear leaf (R148); `f` features. -/
def parseLinear (bs : List Byte) (o f : Nat) : Chk Leaf := do
  need (byteAt bs (o + 2) < 8) 6 (o + 2)
  let ts := (List.range 4).map (fun i => bits (leAt bs (o + 3) 5) (10 * i + 9) (10 * i))
  forIdx (fun i t => need (if bit t 9 then bits t 4 0 < f else t == 0) 6 (o + 3 + 10 * i / 8)) 0 ts
  return ⟨toSigned 16 (leAt bs o 2), byteAt bs (o + 2),
    (ts.filter (fun t => bit t 9)).map (fun t => ⟨bits t 4 0, bits t 8 5⟩)⟩

/-- Bytes of a leaf by format. -/
def leafBytes (fmt : Nat) : Nat := if fmt = 0 then 2 else if fmt = 1 then 4 else 8

/-- One leaf value. -/
def parseLeaf (bs : List Byte) (fmt o f : Nat) : Chk Leaf :=
  if fmt = 2 then parseLinear bs o f
  else .ok ⟨if fmt = 0 then toSigned 16 (leAt bs o 2) else leAt bs o 4, 0, []⟩

/-- Map nodes, naming the offset of the first that is refused. -/
def parseNodes (f s e o : Nat) : List Nat → Nat → Chk (List Node)
  | [], _ => .ok []
  | w :: r, i => match parseNode w f s e with
    | none => .error (6, o + 2 * i)
    | some n => match parseNodes f s e o r (i + 1) with
      | .ok ns => .ok (n :: ns)
      | .error x => .error x

/-- Offsets of a flat-form table's bitmap, nodes, sets, exact thresholds and leaves, and its end T (Table 7.1). -/
def flatLayout (bs : List Byte) (o : Nat) : Nat × Nat × Nat × Nat × Nat × Nat :=
  let d := byteAt bs (o + 2)
  let bmO := alignUp (16 + 4 * byteAt bs (o + 3)) 16
  let nO := alignUp (bmO + max (2 ^ d / 8) 1) 16
  let sO := alignUp (nO + 2 * (2 ^ d - 1)) 16
  let eO := alignUp (sO + 32 * byteAt bs (o + 4)) 16
  let lO := alignUp (eO + 16 * byteAt bs (o + 5)) 16
  (bmO, nO, sO, eO, lO, lO + leAt bs (o + 8) 2 * leafBytes (byteAt bs (o + 6)))

/-- The header of a flat-form table (Table 7.2), and its unit count by R141. -/
def checkFlatHead (bs : List Byte) (o : Nat) : Chk Unit := do
  let units := byteAt bs (o + 1)
  let d := byteAt bs (o + 2)
  let l := leAt bs (o + 8) 2
  need (1 ≤ units && units ≤ 2) 6 (o + 1)
  need (1 ≤ d && d ≤ 8) 6 (o + 2)
  need (1 ≤ byteAt bs (o + 3) && byteAt bs (o + 3) ≤ 32) 6 (o + 3)
  need (byteAt bs (o + 4) ≤ 16) 6 (o + 4)
  need (byteAt bs (o + 5) ≤ 16) 6 (o + 5)
  need (byteAt bs (o + 6) ≤ 2) 6 (o + 6)
  need (byteAt bs (o + 7) ≤ 63) 6 (o + 7)
  need (1 ≤ l && l ≤ 256) 6 (o + 8)
  need (leAt bs (o + 10) 2 == 2 ^ d - 1) 6 (o + 10)
  needZero bs 6 (o + 12) (o + 16)
  need (ceilDiv (flatLayout bs o).2.2.2.2.2 1024 == units) 6 (o + 1)

/-- Feature `i` is named by an enabled term of a linear leaf of a table, whose leaves stand at image offset `o` (R148). -/
def termNames (bs : List Byte) (o l i : Nat) : Bool :=
  (List.range l).any (fun k => (List.range 4).any (fun j =>
    let t := bits (leAt bs (o + 8 * k + 3) 5) (10 * j + 9) (10 * j)
    bit t 9 && bits t 4 0 == i))

/-- A flat-form table at image offset `o` (Table 7.1). -/
def parseFlat (bs : List Byte) (o : Nat) : Chk Tree := do
  let units := byteAt bs (o + 1)
  let d := byteAt bs (o + 2)
  let f := byteAt bs (o + 3)
  let ns := byteAt bs (o + 4)
  let e := byteAt bs (o + 5)
  let fmt := byteAt bs (o + 6)
  let l := leAt bs (o + 8) 2
  checkFlatHead bs o
  let (bmO, nO, sO, eO, lO, fin) := flatLayout bs o
  let bmLen := max (2 ^ d / 8) 1
  let fm := readNums bs (o + 16) 4 f
  forIdx (fun i w => do
    need ((fm.take i).all (fun v => bits v 9 0 != bits w 9 0)) 6 (o + 16 + 4 * i)
    need (bits w 15 10 == 0) 6 (o + 17 + 4 * i)
    need (bits w 23 16 == 0 || (bits w 23 16 ≤ 253 && fmt == 2 && termNames bs (o + lO) l i)) 6 (o + 18 + 4 * i)
    need (bits w 31 24 == 0) 6 (o + 19 + 4 * i)) 0 fm
  needZero bs 6 (o + 16 + 4 * f) (o + bmO)
  let bm := leAt bs (o + bmO) bmLen
  needZero bs 6 (o + bmO + bmLen) (o + nO)
  let nodes ← parseNodes f ns e (o + nO) (readNums bs (o + nO) 2 (2 ^ d - 1)) 0
  needZero bs 6 (o + nO + 2 * (2 ^ d - 1)) (o + sO)
  let sets ← parseSets bs (o + sO) ns
  let exacts ← (List.range e).mapM (fun i => parseExact bs (o + eO + 16 * i))
  let leaves ← (List.range l).mapM (fun i => parseLeaf bs fmt (o + lO + leafBytes fmt * i) f)
  needZero bs 6 (o + fin) (o + 1024 * units)
  return { flat := true, units := units, depth := d, fmap := fm.map (fun w => (bits w 9 0, bits w 23 16)), bitmap := bm
           nodes := nodes, sets := sets, exacts := exacts, fmt := fmt, channel := byteAt bs (o + 7), leaves := leaves
           leafOff := lO }

/-- A trail-walk node record (R151); child indices are judged by R151's own check. -/
def parseWalkNode (bs : List Byte) (fmt s e : Nat) (o : Nat) : Chk Node := do
  let w := leAt bs o 2
  need (bits w 15 14 == 0) 6 (o + 1)
  let op := bits w 12 10
  let arg := byteAt bs (o + 2)
  need (op ≤ 3 || op == 7) 6 (o + 1)
  need (match op with
    | 2 => arg < s
    | 3 => arg < e
    | 7 => arg == 0
    | _ => arg ≤ 0xFD) 6 (o + 2)
  need (byteAt bs (o + 3) == 0) 6 (o + 3)
  let l := leAt bs (o + 4) 2
  let r := leAt bs (o + 6) 2
  if op = 7 then
    need (fmt == 1 || r == 0) 6 (o + 6)
    return ⟨.leaf (leAt bs (o + 4) 4), bits w 9 0, bit w 13, 0, 0⟩
  else
    let nop := match op with
      | 0 => NodeOp.lt arg
      | 1 => NodeOp.le arg
      | 2 => NodeOp.set arg
      | _ => NodeOp.exact arg
    return ⟨nop, bits w 9 0, bit w 13, l, r⟩

/-- End T of a trail-walk table (R151). -/
def walkEnd (bs : List Byte) (o : Nat) : Nat := 16 + 32 * byteAt bs (o + 4) + 16 * byteAt bs (o + 5) + 8 * leAt bs (o + 10) 2

/-- The header of a trail-walk table (Table 7.2), and its unit count. -/
def checkWalkHead (bs : List Byte) (o : Nat) : Chk Unit := do
  let units := byteAt bs (o + 1)
  let d := byteAt bs (o + 2)
  let l := leAt bs (o + 8) 2
  let n := leAt bs (o + 10) 2
  need (1 ≤ units && units ≤ 32) 6 (o + 1)
  need (1 ≤ d && d ≤ 16) 6 (o + 2)
  need (byteAt bs (o + 3) == 0) 6 (o + 3)
  need (byteAt bs (o + 4) ≤ 16) 6 (o + 4)
  need (byteAt bs (o + 5) ≤ 16) 6 (o + 5)
  need (byteAt bs (o + 6) ≤ 1) 6 (o + 6)
  need (byteAt bs (o + 7) ≤ 63) 6 (o + 7)
  need (1 ≤ l && l ≤ 2048) 6 (o + 8)
  need (3 ≤ n && n ≤ 4095) 6 (o + 10)
  needZero bs 6 (o + 12) (o + 16)
  need (ceilDiv (walkEnd bs o) 1024 == units) 6 (o + 1)

/-- A trail-walk table at image offset `o` (R151). -/
def parseWalk (bs : List Byte) (o : Nat) : Chk Tree := do
  let units := byteAt bs (o + 1)
  let d := byteAt bs (o + 2)
  let ns := byteAt bs (o + 4)
  let e := byteAt bs (o + 5)
  let fmt := byteAt bs (o + 6)
  let l := leAt bs (o + 8) 2
  let n := leAt bs (o + 10) 2
  checkWalkHead bs o
  let eO := 16 + 32 * ns
  let nO := eO + 16 * e
  let fin := walkEnd bs o
  let sets ← parseSets bs (o + 16) ns
  let exacts ← (List.range e).mapM (fun i => parseExact bs (o + eO + 16 * i))
  let nodes ← (List.range n).mapM (fun i => parseWalkNode bs fmt ns e (o + nO + 8 * i))
  needZero bs 6 (o + fin) (o + 1024 * units)
  return { flat := false, units := units, depth := d, fmap := [], bitmap := l, nodes := nodes, sets := sets
           exacts := exacts, fmt := fmt, channel := byteAt bs (o + 7), leaves := [], leafOff := nO }

/-- A table in either form. -/
def parseTree (bs : List Byte) (o : Nat) : Chk Tree :=
  if byteAt bs o = 1 then parseFlat bs o else if byteAt bs o = 2 then parseWalk bs o else .error (6, o)

/-- Leaf indices some assignment of outcomes reaches, PAD always left (R146): from heap index `h` at `level` levels
above the leaves. -/
def reachable (nodes : List Node) (d : Nat) : Nat → Nat → List Nat
  | 0, h => [h - 2 ^ d]
  | k + 1, h =>
    match (nodes.getD (h - 1) ⟨.pad, 0, false, 0, 0⟩).op with
    | .pad => reachable nodes d k (2 * h)
    | _ => reachable nodes d k (2 * h) ++ reachable nodes d k (2 * h + 1)

/-- Set bits of a number below 2^n. -/
def popBits (v n : Nat) : Nat := (List.range n).countP (fun i => bit v i)

/-- Offset of the bitmap in a flat table. -/
def Tree.bitmapOff (t : Tree) : Nat := alignUp (16 + 4 * t.fmap.length) 16
/-- Offset of the nodes. -/
def Tree.nodeOff (t : Tree) : Nat :=
  if t.flat then alignUp (t.bitmapOff + max (2 ^ t.depth / 8) 1) 16 else t.leafOff
/-- Offset of the exact entries. -/
def Tree.exactOff (t : Tree) : Nat :=
  if t.flat then alignUp (alignUp (t.nodeOff + 2 * t.nodes.length) 16 + 32 * t.sets.length) 16 else 16 + 32 * t.sets.length

/-- R146 for a flat table at image offset `o`. -/
def checkR146 (o : Nat) (t : Tree) : Chk Unit := do
  if t.flat then
    let marked := t.leaves.length
    need (popBits t.bitmap 256 == marked) 6 (o + 8)
    need (((reachable t.nodes t.depth t.depth 1).foldl (fun a i => a + 2 ^ i) 0) == t.bitmap) 6 (o + t.bitmapOff)

/-- R147: the leaf format and the leaves' values. -/
def checkR147 (fmode : Bool) (o : Nat) (t : Tree) : Chk Unit := do
  need (if fmode then t.fmt == 1 else t.fmt != 1) 6 (o + 6)
  if t.fmt = 1 then
    if t.flat then forIdx (fun i (x : Leaf) => need (finite x.raw.toNat) 6 (o + t.leafOff + 4 * i)) 0 t.leaves
    else forIdx (fun i (x : Node) => match x.op with
      | .leaf v => need (finite v) 6 (o + t.leafOff + 8 * i + 4)
      | _ => .ok ()) 0 t.nodes

/-- Number of internal nodes on the longest path from node `i` of a trail-walk table, with fuel. -/
def walkDepth (nodes : List Node) : Nat → Nat → Nat
  | 0, _ => 0
  | k + 1, i => match nodes[i]? with
    | none => 0
    | some n => match n.op with
      | .leaf _ => 0
      | _ => 1 + max (walkDepth nodes k n.left) (walkDepth nodes k n.rgt)

/-- Parents of each node of a trail-walk table. -/
def parents (nodes : List Node) (j : Nat) : Nat :=
  nodes.countP (fun n => match n.op with | .leaf _ => false | _ => n.left == j) +
  nodes.countP (fun n => match n.op with | .leaf _ => false | _ => n.rgt == j)

/-- R151 for a trail-walk table. -/
def checkR151 (o : Nat) (t : Tree) : Chk Unit := do
  if !t.flat then
    forIdx (fun i (n : Node) => match n.op with
      | .leaf _ => .ok ()
      | _ => do
        need (i < n.left && n.left < t.nodes.length) 6 (o + t.leafOff + 8 * i + 4)
        need (i < n.rgt && n.rgt < t.nodes.length) 6 (o + t.leafOff + 8 * i + 6)) 0 t.nodes
    forIdx (fun i (_ : Node) => need (i == 0 || parents t.nodes i == 1) 6 (o + t.leafOff + 8 * i)) 0 t.nodes
    need (t.nodes.countP (fun n => match n.op with | .leaf _ => true | _ => false) == t.bitmap) 6 (o + 8)
    need (walkDepth t.nodes 4095 0 ≤ t.depth) 6 (o + 2)

/-- How a slot is fed: none by a field with an exact domain, else whether it is FP32 and whether it may escape. -/
def slotDomain (fields : List Field) (slot : Nat) : Option (Bool × Bool) :=
  (fields.find? (fun f => f.slots.contains slot)).bind (fun f => match f.type with
    | .bitfield | .str => none
    | .fp16 | .fp32 => some (true, f.escape)
    | _ => some (false, f.escape))

/-- Slot a node compares. -/
def Tree.nodeSlot (t : Tree) (n : Node) : Nat := if t.flat then (t.fmap.getD n.feature (0, 0)).1 else n.feature

/-- R144 for a table. -/
def checkR144 (fields : List Field) (o : Nat) (t : Tree) : Chk Unit := do
  let w := if t.flat then 2 else 8
  forIdx (fun i (n : Node) =>
    let at_ := o + t.nodeOff + w * i
    match n.op with
    | .lt _ | .le _ => need (match slotDomain fields (t.nodeSlot n) with | some (_, e) => !e | none => true) 6 at_
    | .exact j => need (match slotDomain fields (t.nodeSlot n) with
        | some (isFp, _) => (t.exacts.getD j ⟨0, false, false, 0⟩).isFp == isFp
        | none => true) 6 (o + t.exactOff + 16 * j + 8)
    | _ => .ok ()) 0 t.nodes

/-! ## Placement plan, output stage, cost plan (R211 to R214) -/

/-- A placement record: table offset, member, Ridge, engine, units, pass, image offset. -/
structure PlaceRec where
  tab : Nat
  member : Nat
  ridge : Nat
  engine : Nat
  units : Nat
  pass : Nat
  at_ : Nat
deriving DecidableEq, Repr

def readPlace (bs : List Byte) (o : Nat) : PlaceRec :=
  ⟨leAt bs o 4, byteAt bs (o + 4), byteAt bs (o + 5), byteAt bs (o + 6), byteAt bs (o + 7), leAt bs (o + 8) 2, o⟩

/-- Legal values of a placement record (Table 10.6). -/
def checkPlace (bs : List Byte) (treeOff treeLen members : Nat) (p : PlaceRec) : Chk Unit := do
  need (p.tab % 1024 == 0 && p.tab < treeLen) 7 p.at_
  need (p.member < members) 7 (p.at_ + 4)
  need (p.ridge ≤ 63) 7 (p.at_ + 5)
  need (p.engine ≤ 63) 7 (p.at_ + 6)
  need (p.units == byteAt bs (treeOff + p.tab + 1)) 7 (p.at_ + 7)
  needZero bs 7 (p.at_ + 10) (p.at_ + 16)

/-- Lowest pass index of a member that holds no tree (R212). -/
def lowestEmpty (ps : List PlaceRec) (m : Nat) : Nat → Nat → Nat
  | 0, q => q
  | k + 1, q => if ps.any (fun p => p.member == m && p.pass == q) then lowestEmpty ps m k (q + 1) else q

/-- The record at which a failure of a member's pass numbering is reported (R212). -/
def badPass (ps : List PlaceRec) (m : Nat) : Option PlaceRec :=
  match ps.find? (fun p => p.member == m && p.pass == 65535) with
  | some p => some p
  | none => ps.find? (fun p => p.member == m && lowestEmpty ps m ps.length 0 < p.pass)

/-- R212 for one record against those before it, by its fields in order: its table, its place, its units, its pass. -/
def checkRecord (ps : List PlaceRec) (treeLen : Nat) (prev : List PlaceRec) (p : PlaceRec) : Chk Unit := do
  need (p.tab + 1024 * p.units ≤ treeLen && !prev.any (fun q =>
    q.tab < p.tab + 1024 * p.units && p.tab < q.tab + 1024 * q.units)) 7 p.at_
  need (!prev.any (fun q => q.member == p.member && q.pass == p.pass && q.ridge == p.ridge && q.engine == p.engine)) 7 (p.at_ + 4)
  need (((p :: prev).map (fun q =>
    if q.member = p.member ∧ q.ridge = p.ridge ∧ q.engine = p.engine then q.units else 0)).sum ≤ 32) 7 (p.at_ + 7)
  need (badPass ps p.member != some p) 7 (p.at_ + 8)

/-- R212 for the records, in order. -/
def checkRecords (ps : List PlaceRec) (treeLen : Nat) : List PlaceRec → List PlaceRec → Chk Unit
  | _, [] => .ok ()
  | prev, p :: r => do
    checkRecord ps treeLen prev p
    checkRecords ps treeLen (p :: prev) r

/-- Two checks of one rule over two sections, the section of the lower image offset first (R217). -/
def byOffset (a b : Nat) (x y : Chk Unit) : Chk Unit :=
  if a ≤ b then do
    x
    y
  else do
    y
    x

/-- R212: the records of section 0x07 and the channels of the tables of section 0x06, by image offset. -/
def checkR212 (ps : List PlaceRec) (trees : List (Nat × Tree)) (placeOff treeOff treeLen n : Nat) : Chk Unit :=
  byOffset placeOff treeOff (checkRecords ps treeLen [] ps)
    (trees.forM (fun x => need (x.2.channel < n) 6 (treeOff + x.1 + 7)))

/-- Legal values of the output stage (Table 9.1), and the pairing of loss and link. -/
def parseOut (bs : List Byte) (o n members : Nat) : Chk OutStage := do
  need (byteAt bs o ≤ 3) 8 o
  let fmt := byteAt bs (o + 1)
  need (fmt ≤ 3) 8 (o + 1)
  need (fmt == 2 || byteAt bs (o + 2) == 0) 8 (o + 2)
  need (byteAt bs (o + 3) ≤ 2) 8 (o + 3)
  need (posFinite (leAt bs (o + 4) 4)) 8 (o + 4)
  let w := byteAt bs (o + 8)
  need (if 1 < members then 1 ≤ w && w ≤ 16 else w == 0) 8 (o + 8)
  needZero bs 8 (o + 9) (o + 16)
  let chans := (List.range n).map (fun c => (leAt bs (o + 16 + 8 * c) 4, leAt bs (o + 20 + 8 * c) 4))
  forIdx (fun c (x : Nat × Nat) => do
    need (finite x.1 && !f32IsZero x.1) 8 (o + 16 + 8 * c)
    need (finite x.2) 8 (o + 20 + 8 * c)) 0 chans
  return ⟨byteAt bs o, fmt, toSigned 8 (byteAt bs (o + 2)), byteAt bs (o + 3), leAt bs (o + 4) 4, w, chans⟩

/-- A cost record (Table 10.7). -/
def parseCost (bs : List Byte) (o : Nat) : Chk Cost := do
  needZero bs 9 (o + 5) (o + 8)
  needZero bs 9 (o + 144) (o + 160)
  return ⟨leAt bs o 2, leAt bs (o + 2) 2, byteAt bs (o + 4), leAt bs (o + 8) 8, readNums bs (o + 16) 2 64⟩

/-- Ridge-slots of one pass's set on a Ridge from its tables (R152). -/
def setSlots (ts : List Tree) : Nat :=
  if ts.all (·.flat) then 1 else ceilDiv (3 * (ts.foldl (fun a t => if t.flat then a else max a t.depth) 0) + 1) 4

/-- Passes of a member. -/
def memberPasses (ps : List Placed) (m : Nat) : Nat := ps.foldl (fun a p => if p.member = m then max a (p.pass + 1) else a) 0

/-- Ridge-slots per record of a member on logical Ridge `j` (Table 10.7). -/
def memberSlots (ps : List Placed) (m j : Nat) : Nat :=
  ((List.range (memberPasses ps m)).map (fun q =>
    let ts := (ps.filter (fun p => p.member == m && p.pass == q && p.ridge == j)).map (·.tree)
    if ts.isEmpty then 0 else setSlots ts)).sum

/-- Summit cycles per record (R199). -/
def summitCycles (n link : Nat) : Nat := ceilDiv n 16 * (if link = 3 then 2 else 1)

/-- A member's cost record as R214 derives it. -/
def deriveCost (ps : List Placed) (n link steps m : Nat) : Cost :=
  ⟨memberPasses ps m, if m = 0 then summitCycles n link else 0, if m = 0 then steps else 0,
    1024 * (ps.foldl (fun a p => if p.member = m then a + p.tree.units else a) 0),
    (List.range 64).map (memberSlots ps m)⟩

/-- R214 for one member. -/
def checkR214 (o : Nat) (stored derived : Cost) : Chk Unit := do
  need (stored.passes == derived.passes) 9 o
  need (stored.summit == derived.summit) 9 (o + 2)
  need (stored.steps == derived.steps) 9 (o + 4)
  need (stored.tableBytes == derived.tableBytes) 9 (o + 8)
  forIdx (fun j (p : Nat × Nat) => need (p.1 == p.2) 9 (o + 16 + 2 * j)) 0 (stored.slots.zip derived.slots)

/-! ## Cascade, Detour, refit (R215, R363, R349) -/

/-- One cascade record's feeds. -/
def parseFeeds (bs : List Byte) (o k : Nat) : Chk (List Feed) :=
  (List.range k).mapM (fun i => do
    let p := o + 12 * i
    need (byteAt bs p ≤ 63) 10 p
    need (byteAt bs (p + 1) == 0) 10 (p + 1)
    need (leAt bs (p + 2) 2 ≤ 1023) 10 (p + 2)
    need (posFinite (leAt bs (p + 4) 4)) 10 (p + 4)
    need (byteAt bs (p + 8) ≤ 253) 10 (p + 8)
    needZero bs 10 (p + 9) (p + 12)
    return (⟨byteAt bs p, leAt bs (p + 2) 2, leAt bs (p + 4) 4, byteAt bs (p + 8)⟩ : Feed))

/-- The cascade's stages with their image offsets. -/
def parseStages (bs : List Byte) (fin : Nat) : Nat → Nat → Chk (List (Nat × Stage))
  | 0, _ => .ok []
  | n + 1, o => if o = fin then .ok [] else do
    need (o + 8 ≤ fin) 10 o
    let src := byteAt bs (o + 2)
    need (src == 1 || src == 2) 10 (o + 2)
    let k := byteAt bs (o + 3)
    need ((if src = 1 then k == 0 else 1 ≤ k && k ≤ 64) && o + 8 + 12 * k ≤ fin) 10 (o + 3)
    needZero bs 10 (o + 4) (o + 8)
    let feeds ← parseFeeds bs (o + 8) k
    let rest ← parseStages bs fin n (o + 8 + 12 * k)
    return (o, ⟨leAt bs o 2, src == 1, feeds⟩) :: rest

/-- What the previous stage of a cascade is compared by: mode, Q scale, channels. -/
abbrev StageKey := Bool × Nat × Nat

/-- The cascade's refusals (R215, R170): each stage against the one before it. `used` is every slot written so far. -/
def checkStages (s : State) (t : Nat) : StageKey → List Nat → List (Nat × Stage) → Chk Unit
  | _, _, [] => .ok ()
  | key, used, (o, st) :: r =>
    match s.handle? t st.handle with
    | none => .error (10, o)
    | some m => do
      need (m.state == .loaded && m.image.cascade.isEmpty && m.image.members == 1) 10 o
      let k : StageKey := (m.image.fmode, m.image.qscale, m.image.channels)
      need (!st.carry || k == key) 10 (o + 2)
      need (st.feeds.length ≤ key.2.2) 10 (o + 3)
      forIdx (fun i (f : Feed) => do
        need (f.chan < key.2.2) 10 (o + 8 + 12 * i)
        need (!used.contains f.slot && !((st.feeds.take i).map Feed.slot).contains f.slot) 10 (o + 10 + 12 * i)) 0 st.feeds
      checkStages s t k (used ++ st.feeds.map Feed.slot) r

/-- Interaction mask of allowed feature `i` (Table 16.5). -/
def interactionMask (trees : List Placed) (slots : List Nat) (slot : Nat) : Nat :=
  (slots.zipIdx).foldl (fun a p =>
    if trees.any (fun x =>
      let used := if x.tree.flat then x.tree.fmap.map (·.1) else
        (x.tree.nodes.filter (fun n => match n.op with | .leaf _ => false | _ => true)).map (·.feature)
      used.contains slot && used.contains p.1) then a + 2 ^ p.2 else a) 0

/-- The Detour configuration (Tables 16.4, 16.5). -/
def parseDetour (bs : List Byte) (o cnt : Nat) (written : List Nat) (trees : List Placed) : Chk DetourCfg := do
  need (byteAt bs o == 1) 11 o
  let f := byteAt bs (o + 1)
  need (1 ≤ f && f ≤ 64 && f == cnt) 11 (o + 1)
  need (1 ≤ byteAt bs (o + 2) && byteAt bs (o + 2) ≤ 8) 11 (o + 2)
  need (1 ≤ byteAt bs (o + 3) && byteAt bs (o + 3) ≤ 64) 11 (o + 3)
  need (1 ≤ leAt bs (o + 4) 2 && leAt bs (o + 4) 2 ≤ 4096) 11 (o + 4)
  need (leAt bs (o + 6) 2 ≤ 4096) 11 (o + 6)
  need (1 ≤ leAt bs (o + 8) 2) 11 (o + 8)
  needZero bs 11 (o + 10) (o + 12)
  need (posFinite (leAt bs (o + 16) 4)) 11 (o + 16)
  need (posFinite (leAt bs (o + 20) 4)) 11 (o + 20)
  need (posFinite (leAt bs (o + 24) 4) && leAt bs (o + 24) 4 ≤ f32One) 11 (o + 24)
  need (posFinite (leAt bs (o + 28) 4) && leAt bs (o + 28) 4 ≤ leAt bs (o + 20) 4) 11 (o + 28)
  needZero bs 11 (o + 32) (o + 64)
  let slots := (List.range f).map (fun i => leAt bs (o + 64 + 24 * i) 2)
  let feats ← (List.range f).mapM (fun i => do
    let p := o + 64 + 24 * i
    let sl := leAt bs p 2
    need (written.contains sl && (slots.take i).all (· < sl)) 11 p
    let lo := toSigned 16 (leAt bs (p + 2) 2)
    need (decide (-253 ≤ lo ∧ lo ≤ 0)) 11 (p + 2)
    let hi := toSigned 16 (leAt bs (p + 4) 2)
    need (decide (0 ≤ hi ∧ hi ≤ 253)) 11 (p + 4)
    needZero bs 11 (p + 6) (p + 8)
    need (posFinite (leAt bs (p + 8) 4)) 11 (p + 8)
    needZero bs 11 (p + 12) (p + 16)
    need (leAt bs (p + 16) 8 == interactionMask trees slots sl) 11 (p + 16)
    return (⟨sl, lo, hi, leAt bs (p + 8) 4, leAt bs (p + 16) 8⟩ : DetourFeat))
  return { width := byteAt bs (o + 2), inflight := byteAt bs (o + 3), steps := leAt bs (o + 4) 2
           patience := leAt bs (o + 6) 2, limit := leAt bs (o + 8) 2, seed := leAt bs (o + 12) 4
           lambda := leAt bs (o + 16) 4, t0 := leAt bs (o + 20) 4, alpha := leAt bs (o + 24) 4
           tmin := leAt bs (o + 28) 4, feats := feats }

/-- The refit configuration (Table 16.1). -/
def parseRefit (bs : List Byte) (o : Nat) : Chk RefitCfg := do
  need (byteAt bs o == 1) 12 o
  need (10 ≤ byteAt bs (o + 1) && byteAt bs (o + 1) ≤ 20) 12 (o + 1)
  need (posFinite (leAt bs (o + 4) 4) && leAt bs (o + 4) 4 ≤ f32One) 12 (o + 4)
  need (posFinite (leAt bs (o + 8) 4) && leAt bs (o + 8) 4 ≤ f32One) 12 (o + 8)
  need (leAt bs (o + 12) 4 ≤ f32Max || leAt bs (o + 12) 4 == 2 ^ 31) 12 (o + 12)
  need (leAt bs (o + 16) 4 ≤ f32Max || leAt bs (o + 16) 4 == 2 ^ 31) 12 (o + 16)
  need (posFinite (leAt bs (o + 20) 4)) 12 (o + 20)
  needZero bs 12 (o + 24) (o + 32)
  return ⟨byteAt bs (o + 1), leAt bs (o + 2) 2, leAt bs (o + 4) 4, leAt bs (o + 8) 4, leAt bs (o + 12) 4,
    leAt bs (o + 16) 4, leAt bs (o + 20) 4⟩

/-! ## Rules between sections (step 5 of R217) -/

/-- Widths of a ternary bank's key (R113). -/
def keyWidth (w : Nat) : Nat := if w = 1 then 32 else if w = 2 then 72 else 152

/-- Bits a part contributes to a key. -/
def KeyPart.bits (p : KeyPart) : Nat := if p.kind = 1 then 8 * p.width else p.width

/-- Kind of a kept field: none when not kept, else whether it is a string and whether it is FP. -/
def keptKind (fields : List Field) (i : Nat) : Option (Bool × Bool) :=
  (fields[i]?).bind (fun f => if f.kept then some (f.type == .str, f.type == .fp16 || f.type == .fp32) else none)

/-- Parts of a step against the schema and earlier steps (R119 to R121). -/
def checkParts (fields : List Field) (prev : List Step) (o : Nat) (st : Step) : Chk Unit :=
  forIdx (fun i (p : KeyPart) =>
    need (match p.kind with
      | 0 => match keptKind fields p.source with | some (isStr, _) => !isStr | none => false
      | 1 | 2 => match keptKind fields p.source with | some (isStr, _) => isStr | none => false
      | 3 => fields.any (fun f => f.slots.contains p.source) || prev.any (fun q => q.dests.any (·.slot == p.source))
      | _ => p.source < prev.length) 3 (o + 4 + 3 * i)) 0 st.parts

/-- Places, among the four destinations of the step at `o`, of those that are enabled. -/
def enabledAt (bs : List Byte) (o : Nat) : List Nat := (List.range 4).filter (fun i => bit (leAt bs (o + 16 + 2 * i) 2) 15)

/-- R119: rules between steps, and between steps and the schema. -/
def checkR119 (bs : List Byte) (fields : List Field) (off : Nat) : List Step → List Step → Chk Unit
  | _, [] => .ok ()
  | prev, st :: r => do
    let o := off + 32 * prev.length
    need (st.op != 4 || (match prev[st.target]? with | some q => q.op != 4 | none => false)) 3 (o + 1)
    checkParts fields prev o st
    forIdx (fun i (d : Dest) => need (
      !(prev.any (fun q => q.dests.any (·.slot == d.slot))) && !((st.dests.take i).any (·.slot == d.slot)) &&
      !(fields.any (fun f => f.slots.contains d.slot))) 3 (o + 16 + 2 * (enabledAt bs o).getD i 0)) 0 st.dests
    checkR119 bs fields off (prev ++ [st]) r

/-- Domain a range part's kind fixes (R120). -/
def partDomain (fields : List Field) (p : KeyPart) : Nat :=
  if p.kind = 0 then (match keptKind fields p.source with | some (_, true) => 1 | _ => 0) else 2

/-- The ternary and range content of an entry (R115) other than its result bytes. -/
def entryOk (range : Bool) (width domain units : Nat) : Bool :=
  if range then
    bits units 15 8 == 0 &&
      (if width = 1 then domain != 1 || (finite (bits units 47 16) && finite (bits units 79 48)) else bits units 159 144 == 0)
  else
    let k := keyWidth width
    bits units 15 8 == 0 && (bits units (15 + k) 16) &&& (2 ^ k - 1 - bits units (15 + 2 * k) (16 + k)) == 0

/-- R209 and R120 for the steps. -/
def checkProgram (s : State) (t : Nat) (fields : List Field) (pats : Kv PatternSet) (off : Nat) (prog : List Step) : Chk Unit :=
  forIdx (fun i (st : Step) =>
    let o := off + 32 * i
    match st.op with
    | 1 => do
      let b := s.bank st.target
      need (b.owner == some t) 0x100 (o + 1)
      need (!b.range) 3 (o + 1)
      need ((st.parts.map KeyPart.bits).sum ≤ keyWidth b.width) 3 (o + 4)
    | 2 => do
      let b := s.bank st.target
      need (b.owner == some t) 0x100 (o + 1)
      need b.range 3 (o + 1)
      need (st.parts.all (fun p => partDomain fields p == b.domain)) 3 (o + 4)
    | 3 => need (kvGet pats st.target).isSome 3 (o + 1)
    | _ => .ok ()) 0 prog

/-- R209, R210 and R115 for the entry records. -/
def checkEntryRecs (s : State) (t : Nat) (ents : List EntryRec) : Chk Unit :=
  ents.forM (fun e => do
    let b := s.bank e.bank
    need (b.owner == some t) 0x100 e.off
    need (b.width == e.width) 4 (e.off + 1)
    need (entryOk b.range b.width b.domain e.units) 4 (e.off + 16))

/-! ## The whole image -/

/-- Parse pattern sets in ascending offset. -/
def parsePatterns (bs : List Byte) : List DirEnt → Chk (Kv PatternSet)
  | [] => .ok []
  | e :: r => match parsePattern bs e.off e.len with
    | .error x => .error x
    | .ok p => match parsePatterns bs r with
      | .error x => .error x
      | .ok m => .ok (kvSet m e.id p)

/-- Distinct table offsets within the section, ascending. -/
def tableOffsets (treeLen : Nat) (ps : List PlaceRec) : List Nat :=
  ps.foldl (fun a p => if p.tab % 1024 = 0 ∧ p.tab < treeLen then setAdd a p.tab else a) []

/-- The units of a table lie within the section. -/
def tableInside (bs : List Byte) (treeOff treeLen o : Nat) : Bool := o + 1024 * byteAt bs (treeOff + o + 1) ≤ treeLen

/-- A table that extends past the section has its header examined here; the rest is R212's. -/
def checkTableHead (bs : List Byte) (o : Nat) : Chk Unit :=
  if byteAt bs o = 1 then checkFlatHead bs o else if byteAt bs o = 2 then checkWalkHead bs o else .error (6, o)

/-- The tables, examined in ascending offset, with those that lie within the section. -/
def parseTables (bs : List Byte) (treeOff treeLen : Nat) : List Nat → Chk (List (Nat × Tree))
  | [] => .ok []
  | o :: r => do
    if tableInside bs treeOff treeLen o then
      let x ← parseTree bs (treeOff + o)
      let xs ← parseTables bs treeOff treeLen r
      return (o, x) :: xs
    else
      checkTableHead bs (treeOff + o)
      parseTables bs treeOff treeLen r

/-- Examine an image of a tenant by steps 2 to 5 of R217. -/
def parseImage (s : State) (t : Nat) (bs : List Byte) (size : Nat) : Chk Image := do
  let h ← checkHeader bs size
  let fmode := h.2.1
  let n := h.2.2.1
  let members := h.2.2.2.1
  let es ← checkDir bs h size
  let sec := fun ty => (secOf es ty).getD ⟨ty, 0, 0, 0, 0, 0⟩
  let binSec := secOf es 2
  let raws ← checkFields bs (binSec.map (·.len)) (sec 1).off (sec 1).cnt 0 []
  let bins ← (raws.map (fun r => r)).mapM (fun r => parseBin bs (sec 2).off (sec 2).len r)
  let fields := (raws.zip bins).map (fun p => toField (sec 2).off p.1 p.2)
  let prog ← (List.range (sec 3).cnt).mapM (fun i => parseStep bs ((sec 3).off + 32 * i))
  let ents ← if (secOf es 4).isSome then parseEntries bs ((sec 4).off + (sec 4).len) ((sec 4).len / 16 + 1) (sec 4).off else pure []
  need (ents.length == (sec 4).cnt) 0xFF ((sec 4).at_ + 12)
  let pats ← parsePatterns bs (sortBy (fun a b => a.off ≤ b.off) (es.filter (·.ty == 5)))
  let places := (List.range (sec 7).cnt).map (fun i => readPlace bs ((sec 7).off + 16 * i))
  let trees ← parseTables bs (sec 6).off (sec 6).len (tableOffsets (sec 6).len places)
  places.forM (checkPlace bs (sec 6).off (sec 6).len members)
  let out ← parseOut bs (sec 8).off n members
  let costs ← (List.range members).mapM (fun m => parseCost bs ((sec 9).off + 160 * m))
  let written := (fields.map Field.slots).flatten ++ (prog.map (fun q => q.dests.map Dest.slot)).flatten
  let placed := places.filterMap (fun p => (trees.find? (fun x => x.1 == p.tab)).map (fun x =>
    (⟨x.2, p.tab, p.member, p.ridge, p.engine, p.pass⟩ : Placed)))
  let stages ← if (secOf es 10).isSome then
    parseStages bs ((sec 10).off + (sec 10).len) ((sec 10).len / 8 + 1) (sec 10).off else pure []
  need (stages.length == (sec 10).cnt) 0xFF ((sec 10).at_ + 12)
  need (stages.isEmpty || members == 1) 10 (sec 10).off
  checkStages s t (fmode, leAt bs 24 4, n) written stages
  let det ← if (secOf es 11).isSome then do
      need (members == 1 && stages.isEmpty) 11 (sec 11).off
      let d ← parseDetour bs (sec 11).off (sec 11).cnt written placed
      pure (some d)
    else pure none
  let ref ← if (secOf es 12).isSome then do
      let r ← parseRefit bs (sec 12).off
      need (out.loss != 0 && stages.isEmpty && placed.all (fun p => p.tree.flat && p.tree.fmt != 2)) 12 (sec 12).off
      pure (some r)
    else pure none
  raws.forM (fun r => need (!(r.kind == 1 && bit r.opts 0)) 1 (r.at_ + 2))
  checkR119 bs fields (sec 3).off [] prog
  trees.forM (fun x => checkR144 fields ((sec 6).off + x.1) x.2)
  trees.forM (fun x => checkR146 ((sec 6).off + x.1) x.2)
  trees.forM (fun x => checkR147 fmode ((sec 6).off + x.1) x.2)
  trees.forM (fun x => checkR151 ((sec 6).off + x.1) x.2)
  need (out.loss == 0 || (out.loss == 1 && out.link == 1) || (out.loss == 2 && out.link == 0)) 8 ((sec 8).off + 3)
  byOffset (sec 3).off (sec 4).off (checkProgram s t fields pats (sec 3).off prog) (checkEntryRecs s t ents)
  checkR212 places trees (sec 7).off (sec 6).off (sec 6).len n
  forIdx (fun m c => checkR214 ((sec 9).off + 160 * m) c (deriveCost placed n out.link prog.length m)) 0 costs
  return { size := size, fmode := fmode, channels := n, members := members, sr := byteAt bs 19 == 1, seed := leAt bs 20 4
           qscale := leAt bs 24 4, base := h.2.2.2.2.2.map (fun v => ofSigned 64 v), fields := fields, program := prog
           entries := ents, patterns := pats, trees := placed, treeOff := (sec 6).off, treeLen := (sec 6).len, out := out
           costs := costs, cascade := stages.map (·.2), refit := ref, detour := det }

end Sys2Proof.Machine
end

