-- ==== Sys2Proof/Machine/Memory.lean ====
section
/-! DEFINITION. Massif and its plots, ECC and poison, the Col cache, the patrol scrubber and self-heal (chapter 11). -/

namespace Sys2Proof.Machine

/-! ## Address map and plots (R226 to R231) -/

/-- Size of a plot. -/
def plotSize : Nat := 0x200000
/-- End of Massif. -/
def massifEnd : Nat := 952 * 0x200000
/-- First device address of Ridge SRAM. -/
def sramBase : Nat := 0x0100000000
/-- First device address of Trailhead table memory. -/
def tableBase : Nat := 0x0200000000

/-- The addresses that name memory (Table 11.1). -/
def mapped (a n : Nat) : Bool :=
  a + n ≤ massifEnd || (sramBase ≤ a && a + n ≤ sramBase + 68 * 0x200000) || (tableBase ≤ a && a + n ≤ tableBase + 0x100000)

/-- Kind and owner of a plot; unlisted plots are FREE. -/
def State.plot (s : State) (p : Nat) : PlotKind × Option Nat := (kvGet s.mem.plots p).getD (.free, none)

/-- Code of a plot kind (Table 19.2). -/
def PlotKind.code : PlotKind → Nat
  | .free => 0
  | .firmware => 1
  | .model => 2
  | .data => 3

/-- Set a plot's kind and owner. -/
def setPlot (p : Nat) (k : PlotKind × Option Nat) (s : State) : State :=
  modMem (fun m => { m with plots := kvPut (.free, none) m.plots p k }) s

/-- Allocate a plot: whatever the patrol found in it while it was FREE is cleared (R232, R243). -/
def takePlot (p : Nat) (k : PlotKind × Option Nat) (s : State) : State :=
  setPlot p k (modMem (fun m => unpoison (memClear m (p * plotSize) plotSize) (p * plotSize) plotSize) s)

/-- Free plots 0 to 911, lowest first (R228, R229). -/
def freePlots (s : State) : List Nat := (List.range 912).filter (fun p => (s.plot p).1 == .free)

/-- Plots a tenant owns, MODEL and DATA. -/
def plotsHeld (s : State) (t : Nat) : Nat := s.mem.plots.countP (fun p => p.2.2 == some t)

/-- Massif die of an address (R226). -/
def dieOf (a : Nat) : Nat := a / 256 % 4

/-- Device address of byte `off` of something laid over a list of plots. -/
def plotAddr (plots : List Nat) (off : Nat) : Nat := plots.getD (off / plotSize) 0 * plotSize + off % plotSize

/-- Kind code and plot field of an event's address (Table 19.3): 0xFF and 0xFFFF outside the plots. -/
def eventPlot (s : State) (a : Nat) : Nat × Nat :=
  if a < massifEnd then ((s.plot (a / plotSize)).1.code, a / plotSize) else (0xFF, 0xFFFF)

/-- Tenant of an event about an address: the plot's owner. -/
def ownerCode (s : State) (a : Nat) : Nat :=
  if a < massifEnd then ((s.plot (a / plotSize)).2).getD 0xFF else 0xFF

/-- Data of MSF_UE_READ, MSF_UE_RMW and MSF_UE_PATROL (Table 19.3). -/
def ueData (s : State) (a req : Nat) : List Byte :=
  leBytes 5 a ++ leBytes 1 (eventPlot s a).1 ++ leBytes 2 (eventPlot s a).2 ++ leBytes 1 req

/-- Refuse an access that breaks Table 11.4 (R231). `t` is the requester's tenant, 0xFF for none. -/
def ownerFault (req t a : Nat) (s : State) : State :=
  raise 0x0604 t (ueData s a req ++ leBytes 1 (ownerCode s a)) (count (cMsf 7) 1 s)

/-! ## Models in memory -/

/-- The model whose image plots hold a Massif address, with the image offset. -/
def modelAt (s : State) (a : Nat) : Option (Model × Nat) :=
  if a < massifEnd then
    (s.models.find? (fun m => m.plots.contains (a / plotSize))).map (fun m =>
      (m, (m.plots.findIdx (· == a / plotSize)) * plotSize + a % plotSize))
  else none

/-- A block of a model stands in the heal queue, or its host read is outstanding (R244). -/
def healPending (s : State) (id blk : Nat) : Bool :=
  (s.mem.healQ ++ s.mem.healReads).any (fun b => b.model == id && b.off == blk)

/-- Queue a heal block of a loaded self-heal model (R243, R244); events to raise are gathered. A block written and waiting
for the Milestone at which it counts as healed is queued again. -/
def queueHeal (a : Nat) (s : State) (evs : List Raised) : State × List Raised :=
  match modelAt s a with
  | none => (s, evs)
  | some (m, off) =>
    let blk := off / 4096 * 4096
    if !m.selfHeal || m.state == .loading || m.deadBlocks.contains blk || healPending s m.id blk then (s, evs)
    else if 256 ≤ s.mem.healQ.length then
      (modModel m.id (fun x => { x with deadBlocks := setAdd x.deadBlocks blk }) (count (cMsf 6) 1 s),
        evs ++ [(0x0606, m.tenant, leBytes 5 (plotAddr m.plots blk) ++ leBytes 1 0 ++ leBytes 2 (a / plotSize) ++ leBytes 2 m.handle)])
    else
      (modModel m.id (fun x => { x with healing := setAdd x.healing blk })
        (modMem (fun x => { x with healQ := x.healQ ++ [⟨m.id, blk⟩] }) s), evs)

/-- Device address of a feature's statistics record (R230). -/
def statAddr (m : Model) (slot : Nat) : Nat := 914 * plotSize + m.plots.headD 0 * 65536 + 64 * slot

/-! ## ECC (R238, R239) -/

/-- A correctable find, and an uncorrectable one, at word `i` of an access. -/
def findsCe (ecc : List EccFind) (i : Nat) : Bool := ecc.contains (.correctable i)
def findsUe (ecc : List EccFind) (i : Nat) : Bool := ecc.contains (.uncorrectable i)

/-- A word of Wiryn's working area, which firmware repairs from its own duplicate (Table 11.8). -/
def firmwareWord (a : Nat) : Bool := 943 * plotSize ≤ a && a < massifEnd

/-- The finds from word `k` of an access on, numbered from 0. -/
def shiftEcc (k : Nat) (ecc : List EccFind) : List EccFind :=
  ecc.filterMap (fun e => match e with
    | .correctable w => if k ≤ w then some (.correctable (w - k)) else none
    | .uncorrectable w => if k ≤ w then some (.uncorrectable (w - k)) else none)

/-- One word of a read at address `a`, word index `i` of the access (R238, R239); `patrol` raises MSF_UE_PATROL. -/
def readWord (ecc : List EccFind) (req : Nat) (patrol : Bool) (a i : Nat) (se : State × List Raised) : State × List Raised :=
  let s := se.1
  if poisoned s.mem a then (count (cMsf 0) 1 s, se.2)
  else if findsUe ecc i then
    let s1 := modMem (fun m => if firmwareWord a then m else poison m a) (if a < massifEnd then count (cDie (dieOf a) 1) 1 s else s)
    let ev : Raised := if patrol then (0x0602, ownerCode s a, leBytes 5 a ++ leBytes 1 (eventPlot s a).1 ++ leBytes 2 (eventPlot s a).2)
      else (0x0601, ownerCode s a, ueData s a req)
    queueHeal a s1 (se.2 ++ [ev])
  else if findsCe ecc i then (if a < massifEnd then count (cDie (dieOf a) 0) 1 s else s, se.2)
  else se

/-- The words of a read of `n` bytes from `a`. -/
def readWords (ecc : List EccFind) (req : Nat) (patrol : Bool) (a n : Nat) (s : State) : State × List Raised :=
  (List.range (ceilDiv (a + n) 8 - a / 8)).foldl
    (fun se i => readWord ecc req patrol ((a / 8 + i) * 8) i se) (s, [])

/-- A Massif or table-memory read: errors corrected, poisoned, counted and reported. -/
def readMem (ecc : List EccFind) (req a n : Nat) (s : State) : State :=
  let r := readWords ecc req false a n s
  raiseCycle r.2 r.1

/-- Firmware's read of words at a list of device addresses; its finds are named by device word, address / 8. -/
def readWordsAt (ecc : List EccFind) (as : List Nat) (s : State) : State :=
  let r := as.foldl (fun se a => readWord ecc 0 false a (a / 8) se) (s, [])
  raiseCycle r.2 r.1

/-- Addresses of the words of `n` bytes at an offset of what is laid over a list of plots. -/
def wordsAt (plots : List Nat) (off n : Nat) : List Nat :=
  (List.range (ceilDiv (off + n) 8 - off / 8)).map (fun i => plotAddr plots (8 * (off / 8 + i)))

/-- Addresses of the master copy's words of some tables of a model. -/
def masterWords (m : Model) (ps : List Placed) : List Nat :=
  ps.flatMap (fun p => wordsAt m.plots (m.image.treeOff + p.off) (1024 * p.tree.units))

/-- A patrol read. -/
def patrolRead (ecc : List EccFind) (a n : Nat) (s : State) : State :=
  let r := readWords ecc 10 true a n s
  raiseCycle r.2 r.1

/-! ## Writes (R241) -/

/-- Bytes of a write that fall in the word at address `w`: offset in the word and bytes. -/
def wordPart (a : Nat) (bs : List Byte) (w : Nat) : Nat × List Byte :=
  if a ≤ w then (0, slice bs (w - a) 8) else (a - w, bs.take (8 - (a - w)))

/-- Write one word's share of a write, index `i` of the access: whole words clear poison, partial words are read,
merged and written, or refused (Table 11.7). The result tells whether the word was written. -/
def writeWord (ecc : List EccFind) (req a : Nat) (bs : List Byte) (i : Nat) (s : State) : Bool × State :=
  let w := (a / 8 + i) * 8
  let p := wordPart a bs w
  if p.2.length = 8 then (true, modMem (fun m => unpoison (memPut m w p.2) w 8) s)
  else if poisoned s.mem w then
    (false, raise 0x0603 (ownerCode s w) (ueData s w req) (count (cMsf 2) 1 s))
  else if findsUe ecc i then
    (false, raise 0x0603 (ownerCode s w) (ueData s w req)
      (modMem (fun m => poison m w) (count (cDie (dieOf w) 1) 1 (count (cMsf 2) 1 s))))
  else
    let s := if findsCe ecc i then count (cMsf 1) 1 (count (cDie (dieOf w) 0) 1 s) else s
    (true, modMem (fun m => memPut m (w + p.1) p.2) s)

/-- Write bytes, every word in turn; the addresses of words that were refused. -/
def writeAll (ecc : List EccFind) (req a : Nat) (bs : List Byte) (s : State) : List Nat × State :=
  (List.range (ceilDiv (a + bs.length) 8 - a / 8)).foldl (fun r i =>
    let x := writeWord ecc req a bs i r.2
    (if x.1 then r.1 else r.1 ++ [(a / 8 + i) * 8], x.2)) ([], s)

/-- Write bytes until the first refused word, whose address is returned (R391). -/
def writeStop (ecc : List EccFind) (req a : Nat) (bs : List Byte) : Nat → Nat → State → Option Nat × State
  | 0, _, s => (none, s)
  | k + 1, i, s =>
    let x := writeWord ecc req a bs i s
    if x.1 then writeStop ecc req a bs k (i + 1) x.2 else (some ((a / 8 + i) * 8), x.2)

/-- Whole-word writes by firmware and hardware, which clear poison: bytes laid from `a`, a multiple of 8. -/
def writeWhole (a : Nat) (bs : List Byte) (s : State) : State :=
  modMem (fun m => unpoison (memPut m a bs) a bs.length) s

/-- Zero a range and clear its poison (R232). -/
def zeroRange (a n : Nat) (s : State) : State := modMem (fun m => unpoison (memClear m a n) a n) s

/-! ## Col cache (R234 to R236) -/

/-- The cache set of a line number. -/
def colSet (line : Nat) : Nat := line % 4096

/-- A fill of a line is outstanding. -/
def filling (s : State) (line : Nat) : Bool := s.mem.fills.any (·.line == line)

/-- A miss: a fill is asked for on behalf of its requester and model. -/
def colMiss (req model line : Nat) (s : State) : State :=
  count (cCol 1) 1 (modMem (fun m => { m with fills := m.fills ++ [⟨line, req, model⟩] }) s)

/-- A read of a line by a Ridge load (requester 1), table read (2) or walker (3) for a model: a hit, a merged miss or a new
miss (R234); a parity error on a hit turns it into a miss (R236). -/
def colRead (req model line : Nat) (s : State) : State :=
  let s := modMem (fun m => { m with refused := m.refused.filter (· != (line, model)) }) s
  match s.mem.col.find? (·.line == line) with
  | some c =>
    if c.parity then
      colMiss req model line (count (cCol 4) 1 (modMem (fun m => { m with col := m.col.filter (fun c => c.line != line) }) s))
    else
      count (cCol 0) 1 (modMem (fun m => { m with
        col := m.col.map (fun c => if c.line = line then { c with used := m.colClock } else c)
        colClock := m.colClock + 1 }) s)
  | none => if filling s line then count (cCol 2) 1 s else colMiss req model line s

/-- One of these lines was refused to a model (R231). -/
def colRefused (s : State) (model : Nat) (lines : List Nat) : Bool := lines.any (fun l => s.mem.refused.contains (l, model))

/-- A reader takes note of a refusal. -/
def clearRefused (model : Nat) (lines : List Nat) (s : State) : State :=
  modMem (fun m => { m with refused := m.refused.filter (fun x => !(x.2 == model && lines.contains x.1)) }) s

/-- The least recently used line of a set. -/
def colVictim (cs : List ColLine) (set : Nat) : Option ColLine :=
  (cs.filter (fun c => colSet c.line == set)).foldl (fun v c =>
    match v with
    | none => some c
    | some x => if c.used < x.used then some c else some x) none

/-- Insert a line with the poison bits its words have in Massif, replacing the least recently used of a full set (R234). -/
def colInsert (line : Nat) (m : MemSt) : MemSt :=
  let inSet := m.col.countP (fun c => colSet c.line == colSet line)
  let col := if inSet < 16 then m.col else
    match colVictim m.col (colSet line) with
    | some v => m.col.filter (fun c => c.line != v.line)
    | none => m.col
  { m with
    col := col ++ [⟨line, m.colClock, (List.range 32).filter (fun i => m.poison.contains (line * 32 + i)), false⟩]
    colClock := m.colClock + 1, fills := m.fills.filter (·.line != line) }

/-- Invalidate the lines of a byte range, counting those present (R235, COL_INVAL). -/
def colInvalidate (a n : Nat) (s : State) : State :=
  let hit := fun (c : ColLine) => a ≤ c.line * 256 && c.line * 256 < a + n
  count (cCol 3) (s.mem.col.countP hit) (modMem (fun m => { m with col := m.col.filter (fun c => !hit c) }) s)

/-- Free a plot: every word zeroed, every Col cache line invalidated (R232). -/
def freePlot (p : Nat) (s : State) : State :=
  setPlot p (.free, none) (colInvalidate (p * plotSize) plotSize (zeroRange (p * plotSize) plotSize s))

/-- Free a list of plots. -/
def releasePlots (ps : List Nat) (s : State) : State := ps.foldl (fun s p => freePlot p s) s

/-- A fill may be performed: its line lies in a MODEL plot of the plot list of the model being evaluated (Table 11.4). -/
def fillAllowed (s : State) (f : ColFill) : Bool :=
  let p := f.line * 256 / plotSize
  decide (f.line * 256 < massifEnd) && (s.plot p).1 == .model && (s.model? f.model).elim false (fun m => m.plots.contains p)

/-- COL_CACHE_FILL: the outstanding fill of a line is read from Massif and cached, serving the reads merged on it (R234); a
line that its model may not read is refused, and its readers meet a unit fault (R231). On a line that is cached, a parity
error stands in the cache from now on, and the next hit turns into a miss (R236). -/
def execColCacheFill (line : Nat) (ecc : List EccFind) (parityError : Bool) (s : State) : Host.Outcome State Fault Refusal :=
  let a := line * 256
  match s.mem.fills.find? (·.line == line) with
  | some f =>
    if fillAllowed s f then .next (modMem (colInsert line) (readMem ecc f.req a 256 s))
    else .next (modMem (fun m => { m with
        fills := m.fills.filter (·.line != line), refused := m.refused ++ [(line, f.model)] })
      (ownerFault f.req ((s.model? f.model).elim 0xFF (·.tenant)) a s))
  | none =>
    if parityError then
      .next (modMem (fun m => { m with col := m.col.map (fun c => if c.line = line then { c with parity := true } else c) }) s)
    else .next s

/-! ## Patrol (R242, R243) -/

/-- Lines of Massif, and of the Ridge SRAM of all 68 Ridges. -/
def massifLines : Nat := 7798784
def sramLines : Nat := 557056

/-- Step `steps` of a sweep of `lines` lines has fallen due: that many step intervals of the period have passed (R242). -/
def sweepDue (m : MemSt) (lines steps now : Nat) : Bool :=
  decide (steps * (m.period * 360000000000) ≤ (now - m.patrolFrom) * lines)

/-- The scheduled step of a sweep has fallen due, and it has waited a whole step interval: it is promoted (R233). -/
def patrolScheduled (s : State) (sram : Bool) : Bool :=
  if sram then sweepDue s.mem sramLines (s.mem.sramSteps + 1) s.time.time
  else sweepDue s.mem massifLines (s.mem.patrolSteps + 1) s.time.time
def patrolPromoted (s : State) (sram : Bool) : Bool :=
  if sram then sweepDue s.mem sramLines (s.mem.sramSteps + 2) s.time.time
  else sweepDue s.mem massifLines (s.mem.patrolSteps + 2) s.time.time

/-- The scheduled step may run: its line is due and nothing before it in R233 is outstanding, unless it is promoted; it is
BACKGROUND work that the plan grants, and a promoted step runs whatever the budget (R252, R257, R268). -/
def patrolMay (s : State) (sram busy : Bool) : Bool :=
  patrolPromoted s sram || (patrolScheduled s sram && !busy && s.disp.granted.contains (.patrol sram))

/-- The step's charge, unless the plan that granted it has taken it, and its request leaves the queue (R257, R263). -/
def patrolCharge (sram : Bool) (s : State) : State :=
  let s := if s.disp.granted.contains (.patrol sram) then s else chargeWork 1 pricePatrol s
  modDisp (fun d => { d with bg := d.bg.filter (· != .patrol sram), granted := d.granted.filter (· != .patrol sram) }) s

/-- A requester before the scrubber has an access outstanding on the die of a line (R233): a restore or a parking write, or
a Col cache fill. -/
def dieBusy (s : State) (line : Nat) : Bool :=
  !s.restoring.isEmpty || s.ctxs.any (fun p => p.2.parking) || s.mem.fills.any (fun f => f.line % 4 == line % 4)

/-- PATROL_STEP: the scrubber's scheduled step reads the next Massif line and moves on, wrapping at the end (R242). A step
that may not run yet leaves everything as it is. -/
def execPatrolStep (ecc : List EccFind) (s : State) : Host.Outcome State Fault Refusal :=
  let l := s.mem.patrol
  if !patrolMay s false (dieBusy s l) then .next s
  else
    let s := count (cMsf 3) 1 (patrolRead ecc (l * 256) 256 (patrolCharge false s))
    let s := modMem (fun m => { m with patrolSteps := m.patrolSteps + 1 }) s
    if l + 1 = massifLines then .next (count (cMsf 4) 1 (modMem (fun m => { m with patrol := 0 }) s))
    else .next (modMem (fun m => { m with patrol := l + 1 }) s)

/-! ## Self-heal (R244, R245) -/

/-- Bytes that the host image has of a heal block: 4 KiB, or what is left of the image. -/
def healLength (m : Model) (off : Nat) : Nat := min 4096 (m.image.size - off)

/-- A byte of the image belongs to a leaf that a commit has replaced: both copies read as the committed leaf (R361). -/
def overlaid (m : Model) (off : Nat) : Bool :=
  1 < m.versions.length && m.image.trees.any (fun p =>
    let o := m.image.treeOff + p.off + p.tree.leafOff
    p.member == m.member && o ≤ off && off < o + leafBytes p.tree.fmt * p.tree.leaves.length)

/-- Words of a block at image offset `off` that are not poisoned agree with the host copy, over the committed leaves
(R245, R361). -/
def healAgrees (m : Model) (mem : MemSt) (a off n : Nat) (host : List Byte) : Bool :=
  (List.range n).all (fun i =>
    poisoned mem (a + i) || overlaid m (off + i) || memByte mem (a + i) == host.getD i 0)

/-! ## Tables in Ridge SRAM (R139, R361) -/

/-- Device address of a table unit: physical Ridge, engine, unit. -/
def unitAddr (q e u : Nat) : Nat := sramBase + q * 0x200000 + e * 32768 + u * 1024

/-- The trees in force: those of the last commit, or of the image. -/
def Model.current (m : Model) : List Placed := m.versions.getLast?.getD m.image.trees

/-- Bytes of a leaf in its table. -/
def leafEncode (fmt : Nat) (l : Leaf) : List Byte :=
  if fmt = 0 then leBytes 2 (ofSigned 16 l.raw) else if fmt = 1 then leBytes 4 (ofSigned 32 l.raw) else zeros 8

/-- Bytes of the image in its master copy. -/
def masterBytes (s : State) (m : Model) (off n : Nat) : List Byte :=
  (List.range n).map (fun i => memByte s.mem (plotAddr m.plots (off + i)))

/-- A table read from the master copy, with committed leaves laid over it (R361). -/
def tableBytes (s : State) (m : Model) (p : Placed) : List Byte :=
  let bs := masterBytes s m (m.image.treeOff + p.off) (1024 * p.tree.units)
  if m.versions.length ≤ 1 ∨ p.tree.fmt = 2 ∨ !p.tree.flat then bs
  else overlay bs p.tree.leafOff (p.tree.leaves.flatMap (leafEncode p.tree.fmt))

/-- Write tables into their Ridge SRAM units: (Ridge, engine, first unit, count, tree index). -/
def writeUnits (m : Model) (us : List (Nat × Nat × Nat × Nat × Nat)) (s : State) : State :=
  us.foldl (fun s u => match m.current[u.2.2.2.2]? with
    | some p => writeWhole (unitAddr u.1 u.2.1 u.2.2.1) (tableBytes s m p) s
    | none => s) s

/-- Zero Ridge SRAM units. -/
def zeroUnits (us : List (Nat × Nat × Nat × Nat × Nat)) (s : State) : State :=
  us.foldl (fun s u => zeroRange (unitAddr u.1 u.2.1 u.2.2.1) (1024 * u.2.2.2.1) s) s

/-- Units whose poison mark a heal has made good are written again and lose the mark (R424). -/
def refreshUnits (id : Nat) (s : State) : State :=
  match s.model? id with
  | none => s
  | some m =>
    m.unitsHeld.foldl (fun s u => match m.current[u.2.2.2.2]? with
      | none => s
      | some p =>
        (List.range u.2.2.2.1).foldl (fun s i =>
          let mark := (u.2.1, u.2.2.1 + i)
          let off := m.image.treeOff + p.off + 1024 * i
          let bad := (List.range 128).any (fun k => poisoned s.mem (plotAddr m.plots (off + 8 * k)))
          if (s.ridge u.1).marks.contains mark && !bad then
            modRidge u.1 (fun x => { x with marks := x.marks.filter (· != mark) })
              (writeWhole (unitAddr u.1 u.2.1 (u.2.2.1 + i)) (slice (tableBytes s m p) (1024 * i) 1024) s)
          else s) s) s

/-- Ask for a heal block's host bytes: a fetch on stream 7 of physical function 0 (R245, R296). -/
def fetchBlock (m : Model) (off : Nat) (s : State) : State :=
  modDma (fun d => { d with fetches := d.fetches ++ [⟨.heal ⟨m.id, off⟩, m.iova + off, healLength m off⟩] }) s

/-- Take up to 64 queued blocks at an epoch's start and ask for their host bytes (R244). -/
def startHeals (s : State) : State :=
  let batch := s.mem.healQ.take 64
  let s := modMem (fun m => { m with healQ := m.healQ.drop 64, healReads := m.healReads ++ batch }) s
  batch.foldl (fun s b => match s.model? b.model with
    | some m => fetchBlock m b.off s
    | none => s) s

/-- A heal fails: the block is never to be healed, with its reason (R245). -/
def healFail (m : Model) (off reason : Nat) (s : State) : State :=
  let a := plotAddr m.plots off
  raise 0x0606 m.tenant (leBytes 5 a ++ leBytes 1 reason ++ leBytes 2 (a / plotSize) ++ leBytes 2 m.handle)
    (count (cMsf 6) 1 (modModel m.id (fun x => { x with
      deadBlocks := setAdd x.deadBlocks off, healing := x.healing.filter (· != off) }) s))

/-- The requests of a heal block's fetch have all been issued. -/
def healFetched (s : State) (b : HealBlock) : Bool := s.dma.fetches.all (fun f => f.what != .heal b)

/-- HEAL_BLOCK_READ_DONE: the oldest outstanding heal read returns its bytes, or fails; firmware compares the words of the
block that are not poisoned and writes all 512 (R245). What a block holds past the image's end is 0. -/
def execHealBlockReadDone (data : Option (List Byte)) (s : State) (ecc : List EccFind := []) :
    Host.Outcome State Fault Refusal :=
  match s.mem.healReads with
  | [] => .next s
  | b :: rest =>
    match s.model? b.model with
    | none => .next (modMem (fun m => { m with healReads := rest }) s)
    | some m =>
      let a := plotAddr m.plots b.off
      if data.isSome && !healFetched s b then .next s
      else match data with
      | none =>
        .next (healFail m b.off 1 (modDma (fun d => { d with fetches := d.fetches.filter (fun f => f.what != .heal b) })
          (modMem (fun m => { m with healReads := rest }) s)))
      | some d =>
        let s := modMem (fun m => { m with healReads := rest }) (readMem ecc 11 a 4096 s)
        let host := fitBytes (fitBytes d (healLength m b.off)) 4096
        if healAgrees m s.mem a b.off 4096 host then
          .next (refreshUnits m.id
            (modMem (fun x => { x with healed := x.healed ++ [b] }) (colInvalidate a 4096 (writeWhole a host s))))
        else .next (healFail m b.off 2 s)

/-- Blocks written count as healed from the first Milestone on: MSF_HEALED, in the order they were healed (R245). -/
def settleHeals (s : State) : State :=
  let done := s.mem.healed
  let s := modMem (fun m => { m with healed := [] }) s
  done.foldl (fun s b => match s.model? b.model with
    | none => s
    | some m =>
      let a := plotAddr m.plots b.off
      raise 0x0605 m.tenant (leBytes 5 a ++ leBytes 1 0 ++ leBytes 2 (a / plotSize) ++ leBytes 2 m.handle)
        (count (cMsf 5) 1 (if healPending s m.id b.off then s
          else modModel m.id (fun x => { x with healing := x.healing.filter (· != b.off) }) s))) s

/-- Image offset of a Massif word of a model's plots. -/
def imageWord (m : Model) (w : Nat) : Option Nat :=
  (m.plots.findIdx? (· == w * 8 / plotSize)).map (fun i => i * plotSize + w * 8 % plotSize)

/-- What poisoned Massif words mean to a range of a model's image: none in it, a block queued or being healed (false), or one
never to be healed (true) (R246). -/
def poisonState (m : Model) (off n : Nat) (words : List Nat) : Option Bool :=
  let hits := (words.filterMap (imageWord m)).filter (fun o => off ≤ o + 7 && o < off + n)
  if hits.isEmpty then none else some (hits.any (fun o => !m.healing.contains (o / 4096 * 4096)))

/-- Poison of a range of a model's image, as Massif holds it. -/
def imagePoison (s : State) (m : Model) (off n : Nat) : Option Bool := poisonState m off n s.mem.poison

/-- A word as a reader through the Col cache sees it: a cached line's own poison bit, else Massif's (R234). -/
def colPoisoned (m : MemSt) (w : Nat) : Bool :=
  match m.col.find? (·.line == w / 32) with
  | some c => c.poison.contains (w % 32)
  | none => m.poison.contains w

/-- Poison of a range of a model's image, as a reader through the Col cache meets it (R240). -/
def colPoison (s : State) (m : Model) (off n : Nat) : Option Bool :=
  poisonState m off n
    ((s.mem.poison ++ s.mem.col.flatMap (fun c => c.poison.map (c.line * 32 + ·))).filter (colPoisoned s.mem))

end Sys2Proof.Machine
end

