-- ==== Sys2Proof/Machine/Frames.lean ====
section
/-! DEFINITION. Ethernet framing and the Mavisum messages: what a received frame parses to, and how every frame the part sends is built (chapter 4). -/

namespace Sys2Proof.Machine

/-! ## Check sequences -/

/-- One byte of a reflected CRC-32 (IEEE 802.3 frame check sequence, Table 4.1). -/
def crcByte (poly crc : Nat) (b : Byte) : Nat :=
  (List.range 8).foldl (fun c _ => if c % 2 = 1 then Nat.xor (c / 2) poly else c / 2) (Nat.xor crc b.toNat)

/-- The frame check sequence of IEEE 802.3, sent least significant byte first. -/
def fcsOf (bs : List Byte) : List Byte :=
  leBytes 4 (Nat.xor (bs.foldl (crcByte 0xEDB88320) 0xFFFFFFFF) 0xFFFFFFFF)

/-- Sum of 16-bit words in network order; an odd last byte is padded with zero. -/
def sum16 : List Byte → Nat
  | a :: b :: r => a.toNat * 256 + b.toNat + sum16 r
  | [a] => a.toNat * 256
  | [] => 0

/-- Fold a sum into 16 bits in one's complement arithmetic. -/
def fold16 (n : Nat) : Nat :=
  let a := n % 65536 + n / 65536
  let b := a % 65536 + a / 65536
  b % 65536 + b / 65536

/-- The internet checksum of a byte list. -/
def inetSum (bs : List Byte) : Nat := 65535 - fold16 (sum16 bs)

/-- The pseudo-header of a UDP or ICMPv6 checksum. -/
def pseudoHeader (src dst : List Byte) (proto len : Nat) : List Byte :=
  if src.length = 4 then src ++ dst ++ beBytes 1 0 ++ beBytes 1 proto ++ beBytes 2 len
  else src ++ dst ++ beBytes 4 len ++ beBytes 4 proto

/-! ## Counter offsets of a logical port (Table 20.4) -/

def pFrames : Nat := 0x00
def pBytes : Nat := 0x08
def pFcs : Nat := 0x10
def pRunt : Nat := 0x18
def pOversize : Nat := 0x20
def pPause : Nat := 0x28
def pPfc : Nat := 0x30
def pClosed : Nat := 0x38
def pFiltered : Nat := 0x40
def pCtrl : Nat := 0x48
def pL3Err : Nat := 0x50
def pFrag : Nat := 0x58
def pUdpCsum : Nat := 0x60
def pBufDrop : Nat := 0x68
def pNotRecord : Nat := 0x70
def pMalformed : Nat := 0x78
def pAnswered : Nat := 0x80
def pRecords : Nat := 0x88
def pFeedback : Nat := 0x90
def pCtrlDrop : Nat := 0x98
def pReasonIgnored : Nat := 0xA0
def pTxScore : Nat := 0xA8
def pTxError : Nat := 0xB0
def pTxReason : Nat := 0xB8
def pTxLinkDown : Nat := 0xC0
def pTxPfc : Nat := 0xC8
def pFecCorr : Nat := 0xD0
def pFecUncorr : Nat := 0xD8
def pStallTxq : Nat := 0xE0
def pLatLast : Nat := 0xE8
def pLatMax : Nat := 0xF0

/-! ## The logical ports of a mode (R60) -/

/-- Sub-ports of an Ethernet port mode (Table 4.2). -/
def subPorts (mode : Nat) : Nat := if mode = 0 then 1 else if mode = 1 then 2 else 4

/-- Mode of the Ethernet port of a logical port. -/
def State.ethOf (s : State) (l : Nat) : EthSt := s.eth.getD (l / 4) ⟨0, 0, false⟩

/-- The logical port exists in its Ethernet port's mode. -/
def portExists (s : State) (l : Nat) : Bool := l % 4 < subPorts (s.ethOf l).mode

/-- Receive buffer of a logical port (R69). -/
def rxShare (s : State) (l : Nat) : Nat := 1048576 / subPorts (s.ethOf l).mode

/-! ## Layers 2 to 4 (Table 4.8 steps 5 to 8) -/

/-- What a received frame's headers say. `reply` has the endpoint's UDP port in place already. -/
structure Rx where
  reply : Reply
  msg : List Byte
  /-- The frame is exactly 64 bytes long, under raw Ethernet (R68). -/
  pad64 : Bool
deriving DecidableEq, Repr

/-- What steps 5 to 8 make of a frame. -/
inductive L2 where
  | drop (counter : Nat)
  | arp (vlan : Option (Nat × Nat)) (body : List Byte)
  | nd (vlan : Option (Nat × Nat)) (body : List Byte)
  | pass (rx : Rx)
deriving DecidableEq, Repr

/-- The solicited-node multicast MAC of an IPv6 address. -/
def solicitedMac (ip : List Byte) : List Byte := [0x33, 0x33, 0xFF] ++ ip.drop 13

/-- An IPv6 packet that is a neighbour discovery message: ICMPv6 types 133 to 137. -/
def isNd (et : Nat) (body : List Byte) : Bool :=
  et == 0x86DD && byteAt body 6 == 58 && 41 ≤ body.length && 133 ≤ byteAt body 40 && byteAt body 40 ≤ 137

/-- The MAC filter of R65. -/
def macOk (p : PortSt) (dst : List Byte) (et : Nat) (body : List Byte) : Bool :=
  dst == p.mac || (dst == List.replicate 6 0xFF && et == 0x0806) ||
    (isNd et body && p.ipv6.any (fun ip => solicitedMac ip == dst))

/-- The UDP datagram of an IP packet (R442, step 8); the receiver's ports stand in the reply. -/
def parseUdp (r : Reply) (src dst seg : List Byte) : L2 :=
  let ulen := beAt seg 4 2
  if seg.length < 8 ∨ ulen < 8 ∨ seg.length < ulen then .drop pL3Err
  else
    let csum := beAt seg 6 2
    let good := if csum = 0 then src.length == 4
      else fold16 (sum16 (pseudoHeader src dst 17 ulen ++ seg.take ulen)) == 65535
    if good then
      .pass ⟨{ r with srcPort := beAt seg 0 2, udpPort := beAt seg 2 2 }, slice seg 8 (ulen - 8), false⟩
    else .drop pUdpCsum

/-- An IPv4 packet (R442): fragments first (log 14), then every other header failure. -/
def parseIpv4 (r : Reply) (p : List Byte) : L2 :=
  let ihl := byteAt p 0 % 16 * 4
  let total := beAt p 2 2
  if 8 ≤ p.length ∧ (bit (beAt p 6 2) 13 ∨ beAt p 6 2 % 8192 ≠ 0) then .drop pFrag
  else if byteAt p 0 / 16 ≠ 4 ∨ ihl < 20 ∨ p.length < ihl ∨ fold16 (sum16 (p.take ihl)) ≠ 65535 ∨ total < ihl ∨
      p.length < total ∨ byteAt p 9 ≠ 17 then .drop pL3Err
  else
    let src := slice p 12 4
    let dst := slice p 16 4
    parseUdp { r with kind := 0, srcIp := src, dstIp := dst, dscp := byteAt p 1 / 4 } src dst (slice p ihl (total - ihl))

/-- An IPv6 packet (R442). -/
def parseIpv6 (r : Reply) (p : List Byte) : L2 :=
  let plen := beAt p 4 2
  if 40 ≤ p.length ∧ byteAt p 6 = 44 then .drop pFrag
  else if p.length < 40 ∨ byteAt p 0 / 16 ≠ 6 ∨ p.length < 40 + plen ∨ byteAt p 6 ≠ 17 then .drop pL3Err
  else
    let src := slice p 8 16
    let dst := slice p 24 16
    let tc := beAt p 0 2 / 16 % 256
    parseUdp { r with kind := 1, srcIp := src, dstIp := dst, dscp := tc / 4, flow := beAt p 0 4 % 1048576 } src dst
      (slice p 40 plen)

/-- Steps 5 to 8 on a frame (FCS included) that arrived on logical port `l`. -/
def parseFrame (p : PortSt) (l : Nat) (frame : List Byte) : L2 :=
  let dst := slice frame 0 6
  let src := slice frame 6 6
  let et0 := beAt frame 12 2
  let tagged := et0 == 0x8100
  let et := if tagged then beAt frame 16 2 else et0
  let body := (frame.take (frame.length - 4)).drop (if tagged then 18 else 14)
  let tci := beAt frame 14 2
  let vlan := if tagged then some (tci / 8192, tci % 4096) else none
  if !macOk p dst et body || et == 0x8100 || et == 0x88A8 then .drop pFiltered
  else if et = 0x0806 then .arp vlan body
  else if isNd et body then .nd vlan body
  else
    let r : Reply := ⟨l, src, vlan, 2, [], [], 0, 0, 0, 0, et⟩
    if et = 0x0800 then parseIpv4 r body
    else if et = 0x86DD then parseIpv6 r body
    else .pass ⟨r, body, frame.length == 64⟩

/-- An endpoint matches a frame's addressing (R66, step 9). -/
def epMatches (p : PortSt) (rx : Rx) (e : Endpoint) : Bool :=
  let r := rx.reply
  e.port == r.port && e.kind == r.kind && e.vlan == ((r.vlan.map (·.2)).getD 0xFFFF) &&
    (if r.kind = 2 then p.etherTypes.contains r.etherType && e.udp == r.etherType
     else e.ip == r.dstIp && e.udp == r.udpPort)

/-- The endpoint a frame matches. -/
def endpointOf (s : State) (rx : Rx) : Option Endpoint :=
  (s.endpoints.find? (fun x => epMatches (s.port rx.reply.port) rx x.2)).map (·.2)

/-! ## The Mavisum header (R70) -/

/-- The common header. -/
structure Hdr where
  version : Nat
  type : Nat
  tenantByte : Nat
  flags : Nat
  handle : Nat
  recId : Nat
  plen : Nat
  tword : Nat
  cookie : Nat
deriving DecidableEq, Repr

/-- Read the header; step 11 fails on a short message, a wrong magic or a type that is not a record or feedback frame. -/
def readHdr (m : List Byte) : Option Hdr :=
  if m.length < 24 ∨ beAt m 0 2 ≠ 0xA37E ∨ ¬ (byteAt m 3 = 1 ∨ byteAt m 3 = 3) then none
  else some ⟨byteAt m 2, byteAt m 3, byteAt m 4, byteAt m 5, beAt m 6 2, beAt m 8 8, beAt m 16 2, beAt m 18 2, beAt m 20 4⟩

/-- How a message's length must agree with what carries it: exactly, or at most (a raw frame of 64 bytes R68, a ring
element R302). -/
def lengthOk (exact : Bool) (carried plen : Nat) : Bool :=
  if exact then 24 + plen == carried else 24 + plen ≤ carried

/-- Step 12 without the length check: reason and offset of the fault at the lowest offset (R82, log 15). -/
def step12Head (h : Hdr) (tenant : Nat) : Option (Nat × Nat) :=
  if h.version ≠ 1 then some (1, 2)
  else if h.tenantByte / 32 ≠ 0 then some (3, 4)
  else if h.tenantByte % 32 ≠ tenant then some (4, 4)
  else if (h.type = 1 ∧ 8 ≤ h.flags) ∨ (h.type = 3 ∧ h.flags ≠ 0) then some (3, 5)
  else none

/-- Step 12 (R83): the fault at the lowest offset. -/
def step12 (h : Hdr) (tenant : Nat) (exact : Bool) (carried : Nat) : Option (Nat × Nat) :=
  match step12Head h tenant with
  | some f => some f
  | none =>
    if !lengthOk exact carried h.plen then some (5, 16)
    else if h.type = 3 ∧ h.tword ≠ 0 then some (3, 18)
    else none

/-! ## Building frames (R68) -/

/-- A Mavisum message: header and payload. -/
def mavisum (type tenant flags handle recId tword cookie : Nat) (payload : List Byte) : List Byte :=
  beBytes 2 0xA37E ++ beBytes 1 1 ++ beBytes 1 type ++ beBytes 1 tenant ++ beBytes 1 flags ++ beBytes 2 handle ++
    beBytes 8 recId ++ beBytes 2 payload.length ++ beBytes 2 tword ++ beBytes 4 cookie ++ payload

/-- An error score frame's message (R82). -/
def errorMsg (tenant handle recId cookie status reason offset : Nat) : List Byte :=
  mavisum 5 tenant 0 handle recId (status * 256 + reason) cookie (beBytes 2 offset ++ zeros 2)

/-- The C-tag of an answer, DEI 0. -/
def tagBytes (vlan : Option (Nat × Nat)) : List Byte :=
  match vlan with
  | none => []
  | some (pcp, vid) => beBytes 2 0x8100 ++ beBytes 2 (pcp * 8192 + vid)

/-- Pad to the 64-byte minimum and append the frame check sequence. -/
def finishFrame (bs : List Byte) : List Byte :=
  let b := bs ++ zeros (60 - bs.length)
  b ++ fcsOf b

/-- A UDP datagram with its checksum. -/
def udpDatagram (src dst : List Byte) (sport dport : Nat) (msg : List Byte) : List Byte :=
  let len := 8 + msg.length
  let head := fun c => beBytes 2 sport ++ beBytes 2 dport ++ beBytes 2 len ++ beBytes 2 c
  let c := inetSum (pseudoHeader src dst 17 len ++ head 0 ++ msg)
  head (if c = 0 then 65535 else c) ++ msg

/-- An IPv4 header by R68: TTL 64, DF, identification 0, no options. -/
def ipv4Header (src dst : List Byte) (dscp len : Nat) : List Byte :=
  let head := fun c => beBytes 1 0x45 ++ beBytes 1 (dscp * 4) ++ beBytes 2 (20 + len) ++ beBytes 2 0 ++ beBytes 2 0x4000 ++
    beBytes 1 64 ++ beBytes 1 17 ++ beBytes 2 c ++ src ++ dst
  head (inetSum (head 0))

/-- An IPv6 header. -/
def ipv6Header (src dst : List Byte) (tc flow len next hops : Nat) : List Byte :=
  beBytes 4 (6 * 2 ^ 28 + tc * 2 ^ 20 + flow) ++ beBytes 2 len ++ beBytes 1 next ++ beBytes 1 hops ++ src ++ dst

/-- The answer to a received frame: addressing swapped, tag and EtherType kept (R68). -/
def answerFrame (s : State) (r : Reply) (msg : List Byte) : List Byte :=
  let head := r.srcMac ++ (s.port r.port).mac ++ tagBytes r.vlan
  let udp := udpDatagram r.dstIp r.srcIp r.udpPort r.srcPort msg
  finishFrame (head ++
    (if r.kind = 0 then beBytes 2 0x0800 ++ ipv4Header r.dstIp r.srcIp r.dscp udp.length ++ udp
     else if r.kind = 1 then beBytes 2 0x86DD ++ ipv6Header r.dstIp r.srcIp (r.dscp * 4) r.flow udp.length 17 64 ++ udp
     else beBytes 2 r.etherType ++ msg))

/-- Priority of an answer: its C-tag's PCP, 0 untagged. -/
def Reply.pcp (r : Reply) : Nat := (r.vlan.map (·.1)).getD 0

/-- Hand a finished frame to its port's assembler queue. -/
def readyFrame (r : Reply) (kind : TxKind) (ctx : Option Nat) (msg : List Byte) (accepted : Nat) (scored : Bool)
    (s : State) : State :=
  modPort r.port (fun p => { p with ready := p.ready ++ [⟨kind, ctx, answerFrame s r msg, r.pcp, accepted, scored⟩] }) s

/-! ## ARP and neighbour discovery (R67) -/

/-- An ARP packet between the given addresses. -/
def arpPacket (op : Nat) (sha spa tha tpa : List Byte) : List Byte :=
  beBytes 2 1 ++ beBytes 2 0x0800 ++ beBytes 1 6 ++ beBytes 1 4 ++ beBytes 2 op ++ sha ++ spa ++ tha ++ tpa

/-- The ARP reply to a request body, sent to the source MAC of the request's frame. -/
def arpReply (smac mac : List Byte) (vlan : Option (Nat × Nat)) (body : List Byte) : List Byte :=
  finishFrame (smac ++ mac ++ tagBytes vlan ++ beBytes 2 0x0806 ++
    arpPacket 2 mac (slice body 24 4) (slice body 8 6) (slice body 14 4))

/-- The gratuitous ARP of an address. -/
def gratuitousArp (mac ip : List Byte) : List Byte :=
  finishFrame (List.replicate 6 0xFF ++ mac ++ beBytes 2 0x0806 ++ arpPacket 1 mac ip (zeros 6) ip)

/-- The all-nodes address ff02::1. -/
def allNodes : List Byte := [0xFF, 0x02] ++ zeros 13 ++ [1]

/-- A neighbour advertisement: flag bits, target and the link-layer address option. -/
def advertisement (dmac mac : List Byte) (vlan : Option (Nat × Nat)) (dst target : List Byte) (flags : Nat) : List Byte :=
  let body := fun c => beBytes 1 136 ++ beBytes 1 0 ++ beBytes 2 c ++ beBytes 4 (flags * 2 ^ 29) ++ target ++
    beBytes 1 2 ++ beBytes 1 1 ++ mac
  let c := inetSum (pseudoHeader target dst 58 32 ++ body 0)
  finishFrame (dmac ++ mac ++ tagBytes vlan ++ beBytes 2 0x86DD ++ ipv6Header target dst 0 0 32 58 255 ++ body c)

/-- The advertisement that answers a solicitation: Solicited and Override set. -/
def ndAnswer (mac smac : List Byte) (vlan : Option (Nat × Nat)) (body : List Byte) : List Byte :=
  let src := slice body 8 16
  let target := slice body 48 16
  if allZero src then advertisement [0x33, 0x33, 0, 0, 0, 1] mac vlan allNodes target 3
  else advertisement smac mac vlan src target 3

/-- The unsolicited advertisement of an address: Override set. -/
def ndUnsolicited (mac ip : List Byte) : List Byte :=
  advertisement [0x33, 0x33, 0, 0, 0, 1] mac none allNodes ip 1

/-- An ARP request for a configured IPv4 address. -/
def arpAsks (p : PortSt) (body : List Byte) : Bool :=
  28 ≤ body.length && beAt body 0 2 == 1 && beAt body 2 2 == 0x0800 && beAt body 4 2 == 0x0604 && beAt body 6 2 == 1 &&
    p.ipv4.contains (slice body 24 4)

/-- A valid neighbour solicitation (RFC 4861, PRESUMED log 16) for a configured IPv6 address. -/
def ndAsks (p : PortSt) (body : List Byte) : Bool :=
  let plen := beAt body 4 2
  let icmp := slice body 40 plen
  24 ≤ icmp.length && icmp.length == plen && byteAt icmp 0 == 135 && byteAt icmp 1 == 0 && byteAt body 7 == 255 &&
    fold16 (sum16 (pseudoHeader (slice body 8 16) (slice body 24 16) 58 plen ++ icmp)) == 65535 &&
    p.ipv6.contains (slice icmp 8 16)

/-- A control frame that would be answered, within 1,000 in the current second (log 17). -/
def ctlAdmit (l : Nat) (s : State) : Bool × State :=
  let p := s.port l
  let fresh := 100000000 ≤ s.time.time - p.ctlSecond
  let n := if fresh then 0 else p.ctlCount
  if n < 1000 then
    (true, modPort l (fun p => { p with ctlCount := n + 1, ctlSecond := if fresh then s.time.time else p.ctlSecond }) s)
  else (false, s)

/-- Step 6 for a frame: passed to firmware and counted; an unanswerable or excess one counts in PRT_RX_CTRL_DROP. -/
def receiveControl (l : Nat) (asks isArp : Bool) (frame : List Byte) (s : State) : State :=
  let s := count (cPrt l pCtrl) 1 s
  if !asks then count (cPrt l pCtrlDrop) 1 s
  else
    let r := ctlAdmit l s
    if r.1 then modPort l (fun p => if isArp then { p with arpQ := p.arpQ ++ [frame] } else { p with ndQ := p.ndQ ++ [frame] }) r.2
    else count (cPrt l pCtrlDrop) 1 r.2

/-- A control frame's tag and body. -/
def controlParts (p : PortSt) (l : Nat) (frame : List Byte) : Option (Nat × Nat) × List Byte :=
  match parseFrame p l frame with
  | .arp v b => (v, b)
  | .nd v b => (v, b)
  | _ => (none, [])

/-- Send a control frame that firmware formed. -/
def sendControl (l : Nat) (vlan : Option (Nat × Nat)) (bytes : List Byte) (s : State) : State :=
  modPort l (fun p => { p with ready := p.ready ++ [⟨.control, none, bytes, (vlan.map (·.1)).getD 0, 0, false⟩] }) s

/-- ARP_REPLY_SEND: firmware answers the oldest request passed to it, while the port is OPEN (R67). -/
def execArpReplySend (port : LPort) (s : State) : Host.Outcome State Fault Refusal :=
  let p := s.port port
  match p.arpQ with
  | [] => .next s
  | f :: rest =>
    let s := modPort port (fun p => { p with arpQ := rest }) s
    if p.mode = .opened then
      let c := controlParts p port f
      .next (sendControl port c.1 (arpReply (slice f 6 6) p.mac c.1 c.2) s)
    else .next (count (cPrt port pCtrlDrop) 1 s)

/-- NEIGHBOUR_ADVERTISEMENT_SEND: firmware answers the oldest solicitation passed to it, while the port is OPEN (R67). -/
def execNeighbourAdvertisementSend (port : LPort) (s : State) : Host.Outcome State Fault Refusal :=
  let p := s.port port
  match p.ndQ with
  | [] => .next s
  | f :: rest =>
    let s := modPort port (fun p => { p with ndQ := rest }) s
    if p.mode = .opened then
      let c := controlParts p port f
      .next (sendControl port c.1 (ndAnswer p.mac (slice f 6 6) c.1 c.2) s)
    else .next (count (cPrt port pCtrlDrop) 1 s)

end Sys2Proof.Machine
end

