-- ==== Sys2Proof/Machine/Fabric.lean ====
section
/-! DEFINITION. Fabric messages: their header, virtual channels, routing and refusal (chapter 15), shared by every unit that sends one. -/

namespace Sys2Proof.Machine

/-! ## Message fields (R330) -/

def msgOp (m : List Byte) : Nat := byteAt m 0
def msgLen (m : List Byte) : Nat := byteAt m 1
def msgSrc (m : List Byte) : Nat := byteAt m 2
def msgDst (m : List Byte) : Nat := byteAt m 3
def msgTenant (m : List Byte) : Nat := byteAt m 4 % 32
def msgFlags (m : List Byte) : Nat := byteAt m 5
def msgHops (m : List Byte) : Nat := byteAt m 6
def msgTag (m : List Byte) : Nat := beAt m 8 2
def msgOperand (m : List Byte) : Nat := beAt m 10 6

/-- MCAST, ADAPTIVE and LATENCY flags. -/
def msgMcast (m : List Byte) : Bool := bit (msgFlags m) 0
def msgAdaptive (m : List Byte) : Bool := bit (msgFlags m) 1
def msgLatency (m : List Byte) : Bool := bit (msgFlags m) 2

/-- Virtual channel of an opcode: 0 REQ, 1 RSP, 2 DATA, 3 MGMT (Table 15.4). -/
def vcOf (op : Nat) : Option Nat :=
  if op = 1 ∨ op = 2 ∨ op = 4 then some 0
  else if 0x20 ≤ op ∧ op ≤ 0x27 then some 1
  else if 0x40 ≤ op ∧ op ≤ 0x47 then some 2
  else if op = 0x60 ∨ op = 0x61 then some 3
  else none

/-- This chip's id; 0 while the fabric is not configured. -/
def State.chipId (s : State) : Nat := (s.zth.chip.map (·.1)).getD 0

/-- A message of this chip: header, then its body, padded with zeros to whole slots. -/
def mkMsg (s : State) (op dst tenant flags tag : Nat) (operand body : List Byte) : List Byte :=
  let len := ceilDiv (16 + body.length) 32
  fitBytes (beBytes 1 op ++ beBytes 1 len ++ beBytes 1 s.chipId ++ beBytes 1 dst ++ beBytes 1 tenant ++ beBytes 1 flags ++
    [0, 0] ++ beBytes 2 tag ++ operand ++ body) (32 * len)

/-! ## Routing (R332 to R336) -/

/-- Free credits of a channel on a Saddle (R328), modulo 2^16. -/
def freeCredits (x : Saddle) (ch : Nat) : Nat :=
  (x.pools.getD ch 0 + x.totals.getD ch 0 + 65536 - x.sent.getD ch 0) % 65536

/-- The Saddle of an adaptive mask with the most free DATA credits, the lower number on a tie (R334). -/
def adaptiveSaddle (s : State) (mask : Nat) : Option Nat :=
  (List.range 16).foldl (fun best i =>
    if bit mask i then
      match best with
      | none => some i
      | some b => if freeCredits (s.saddle b) 2 < freeCredits (s.saddle i) 2 then some i else some b
    else best) none

/-- Queue a message on a Saddle's output. -/
def queueOut (i : Nat) (m : Msg) (s : State) : State :=
  modSaddle i (fun x => { x with outq := x.outq ++ [{ m with since := s.now }] }) s

/-- Deliver a message to this chip. -/
def deliver (m : Msg) (s : State) : State := modZth (fun z => { z with local_ := z.local_ ++ [m] }) s

/-- Increase the hop count of a forwarded message. -/
def hopUp (from_ : Nat) (bs : List Byte) : List Byte :=
  if from_ = 16 then bs else overlay bs 6 (beBytes 1 (msgHops bs + 1))

/-- Route a message: a NAK reason when it is discarded without being sent, and the state after. -/
def routeMsg (m : Msg) (s : State) : Option Nat × State :=
  let bs := m.bytes
  if msgMcast bs then
    match kvGet s.zth.multicast (msgDst bs) with
    | none => (none, count (cZth 2) 1 s)
    | some (mask, here) =>
      let outs := (List.range 16).filter (fun i => bit mask i && i != m.from_)
      if mask = 0 ∧ !here then (none, count (cZth 2) 1 s)
      else
        let s := if here then deliver m s else s
        if outs.isEmpty then (none, s)
        else if m.from_ ≠ 16 ∧ msgHops bs = 31 then (some 0x11, count (cZth 1) 1 s)
        else (none, outs.foldl (fun s i => queueOut i { m with bytes := hopUp m.from_ bs } s) s)
  else if s.zth.chip.isSome ∧ msgDst bs = s.chipId then (none, deliver m s)
  else if m.from_ ≠ 16 ∧ msgHops bs = 31 then (some 0x11, count (cZth 1) 1 s)
  else
    match kvGet s.zth.unicast (msgDst bs) with
    | none => (some 0x10, count (cZth 2) 1 s)
    | some (det, mask) =>
      let out := if msgAdaptive bs && !m.fixed then (adaptiveSaddle s mask).getD det else det
      (none, queueOut out { m with bytes := hopUp m.from_ bs } s)

/-! ## Refusals (R331) -/

/-- The event of a refused message's owner at the sending chip (R288, R331). `dst` is the chip that refused. -/
def nakEvent (saddle op reason dst tag wmk tenant dtenant : Nat) (s : State) : State :=
  if op = 4 then raise 0x0702 tenant (leBytes 1 dst ++ leBytes 1 0 ++ leBytes 2 wmk ++ leBytes 1 dtenant ++ leBytes 1 reason) s
  else raise 0x0905 0xFF (leBytes 1 saddle ++ leBytes 1 op ++ leBytes 1 reason ++ leBytes 1 dst ++ leBytes 2 tag) s

/-- The tenant code of the sender of a remote signal that names this chip, tenant and Waymark: the function that last sent
one. -/
def signalSender (s : State) (chip dt n : Nat) : Nat :=
  (s.zth.signals.find? (fun g => g.2 == (chip, dt, n))).elim 0xFF (fun g => if g.1 = 0 then 0xFF else g.1 - 1)

/-- Refuse a message: a NAK goes to its source chip; a message of this chip raises its owner's event at once; a NAK is
never answered. -/
def refuseMsg (m : Msg) (reason : Nat) (s : State) : State :=
  let bs := m.bytes
  if msgOp bs = 0x27 then s
  else if m.from_ = 16 then
    nakEvent 0xFF (msgOp bs) reason (msgDst bs) (msgTag bs) (msgOperand bs / 2 ^ 32)
      (signalSender s (msgDst bs) (msgTenant bs) (msgOperand bs / 2 ^ 32)) (msgTenant bs) s
  else
    let nak := mkMsg s 0x27 (msgSrc bs) (msgTenant bs) 0 (msgTag bs)
      (beBytes 1 (msgOp bs) ++ beBytes 1 reason ++ zeros 4) (zeros 16)
    (routeMsg ⟨nak, 16, s.now, false, none, false, none⟩ s).2

/-- Route a message, refusing it when it cannot be routed. -/
def forwardMsg (m : Msg) (s : State) : State :=
  let r := routeMsg m s
  match r.1 with
  | none => r.2
  | some reason => refuseMsg m reason r.2

/-- Send a message of this chip. The result tells whether it waits on a Saddle or for this chip itself. -/
def sendMsg (bytes : List Byte) (ctx : Option Nat) (s : State) : Bool × State :=
  let m : Msg := ⟨bytes, 16, s.now, false, ctx, false, none⟩
  let r := routeMsg m s
  match r.1 with
  | none => (true, r.2)
  | some reason => (false, refuseMsg m reason r.2)

/-- Send a message that holds no record context. -/
def send (bytes : List Byte) (s : State) : State := (sendMsg bytes none s).2

/-- A chip lies inside a tenant's fabric scope (Table 17.9). -/
def inScope (s : State) (t chip : Nat) : Bool := bit (s.tenant t).quota.scope chip

end Sys2Proof.Machine
end

