-- ==== Sys2Proof/Machine/Records.lean ====
section
/-! DEFINITION. What ends a record: leaving its units, its context's release, its error answer, restarts and their limit, and the end of a Detour search (R93, R369, R370, R417, R418). -/

namespace Sys2Proof.Machine

/-! ## Counter offsets inside a tenant's block (Table 20.5) -/

def tStallBlock : Nat := 0x00
def tParks : Nat := 0x08
def tResumes : Nat := 0x10
def tRestarts : Nat := 0x18
def tXchipTimeouts : Nat := 0x20
def tWaitTimeouts : Nat := 0x28
def tErrLimited : Nat := 0x38
/-- RFT counter `i` of Table 16.6 order. -/
def tRft (i : Nat) : Nat := 0x40 + 8 * i
/-- DTR counter `i` of Table 16.6 order. -/
def tDtr (i : Nat) : Nat := 0x90 + 8 * i

/-! ## Switchback entries (R182) -/

/-- Device address of the Switchback entry of context `c`: plot 912. -/
def swbAddr (c : Nat) : Nat := 912 * plotSize + 8192 * c

/-! ## Leaving the units -/

/-- Give a record's Cairn block back to its tenant's free list (R168). -/
def returnBlock (c : Nat) (s : State) : State :=
  match s.ctx? c with
  | none => s
  | some r =>
    match r.block with
    | none => s
    | some b =>
      modCtx c (fun r => { r with block := none, blockReady := false, parking := false })
        (giveBack [.block r.tenant] (modTenant r.tenant (fun t => { t with freeBlocks := t.freeBlocks ++ [b] }) s))

/-- Take context `c` out of a Ridge's window, queues and pipeline. -/
def Ridge.drop (c : Nat) (r : Ridge) : Ridge :=
  { r with
    window := r.window.filter (· != c)
    bound := r.bound.filter (·.ctx != c)
    pipe := r.pipe.filter (·.ctx != c)
    transport := r.transport.filter (·.ctx != c) }

/-- Free the walker a context holds. -/
def Walker.drop (c : Nat) (w : Walker) : Walker := if w.holder = some c then { w with holder := none } else w

/-- Trailhead pipeline of a record. -/
def pipeOf (s : State) (r : RecCtx) : Nat :=
  match r.src with
  | .ring g _ _ => (s.stream g).pipeline
  | _ => r.reply.port / 4

/-- A record's values stand in the queue from Cairn to Summit and the Saddles (Table 12.4, log 75): from its final row until
its fused output, or until its TERM has left. A record that waits for other members' terms stands in its ensemble row. -/
def outQueued (s : State) (r : RecCtx) : Bool :=
  r.ended.isNone && (r.state == .remote ||
    (r.state == .summit && !r.fused && (s.model? r.model).elim false (fun m => m.image.members ≤ 1)))

/-- Credits a record gives back when it leaves every unit (R272). -/
def workCredits (c : Nat) (s : State) : List Credit :=
  (if s.progs.contains c then [.prog] else []) ++
    (s.walkers.zipIdx.filter (fun w => w.1.holder == some c)).map (fun w => .walker w.2) ++
    (s.rows.filter (·.ctx == c)).map (fun _ => .row) ++
    s.ridges.zipIdx.flatMap (fun x => (if x.1.window.contains c then [.window x.2] else []) ++
      (x.1.pipe.filter (fun e => e.ctx == c && e.queued ≤ s.now)).map (fun _ => .ridge x.2)) ++
    (s.ctx? c).elim [] (fun r => (if s.disp.inq.contains c then [.disp (pipeOf s r)] else []) ++
      (if outQueued s r then [.summit] else []))

/-- Take a record out of every unit: its program context and walker, its waiting place, its passes and rows, its block. -/
def dropWork (c : Nat) (s : State) : State :=
  let s := returnBlock c (giveBack (workCredits c s) s)
  let s := modCtx c (fun r => { r with prog := none, tableReads := [] }) s
  { s with
    rows := s.rows.filter (·.ctx != c)
    restoring := s.restoring.filter (· != c)
    crnPort := { transfers := s.crnPort.transfers.filter (·.1 != c)
                 burst := if s.crnPort.transfers.head?.elim false (·.1 == c) then 0 else s.crnPort.burst }
    progs := s.progs.filter (· != c)
    walkers := s.walkers.map (Walker.drop c)
    trhQ := s.trhQ.map (fun q => q.filter (· != c))
    ridges := s.ridges.map (Ridge.drop c)
    disp := { s.disp with
      inq := s.disp.inq.filter (· != c)
      waiting := s.disp.waiting.filter (· != c), replays := s.disp.replays.filter (·.ctx != c) } }

/-- A record context is released: it leaves every unit, goes to the tail of the free list, and its Switchback entry's
State word is written 0 (R93, R182). -/
def freeContext (c : Nat) (s : State) : State :=
  if (s.ctx? c).isSome then writeWhole (swbAddr c) (zeros 8) (releaseCtx c (dropWork c s)) else s

/-- Release a context that a frame or message may hold. -/
def freeContext? (c : Option Nat) (s : State) : State :=
  match c with
  | some c => freeContext c s
  | none => s

/-! ## Ring answers (R303) -/

/-- Staging bytes of an answer: its transfer units × 256 (R307). -/
def RingAnswer.size (a : RingAnswer) : Nat := 256 * ceilDiv a.bytes.length 256

/-- Answers in order take their place in a staging with `room` bytes left, until one does not fit: the answers, the bytes
they took, and the record contexts that are now answered. -/
def stageList : Nat → List RingAnswer → List RingAnswer × Nat × List Nat
  | _, [] => ([], 0, [])
  | room, a :: rest =>
    if a.staged then
      let r := stageList room rest
      (a :: r.1, r.2)
    else if a.size ≤ room then
      let r := stageList (room - a.size) rest
      ({ a with staged := true, ctx := none } :: r.1, a.size + r.2.1, a.ctx.toList ++ r.2.2)
    else (a :: rest, 0, [])

/-- Summit hands the answers that wait to their stream's staging while it has room; each record's context is then released
(R303). -/
def stageAnswers (g : Nat) (s : State) : State :=
  let x := s.stream g
  let r := stageList (x.staging - x.fill) x.answers
  r.2.2.foldl (fun s c => freeContext c s) (modStream g (fun x => { x with answers := r.1, fill := x.fill + r.2.1 }) s)

/-- Hand an answer to its stream: into staging, or behind those that wait for it. -/
def ringAnswer (g number element : Nat) (reason : Bool) (bytes : List Byte) (ctx : Option Nat) (s : State) : State :=
  stageAnswers g (modStream g (fun x => { x with
    answers := x.answers ++ [⟨number, element, reason, bytes, ctx, false, false⟩] }) s)

/-! ## Detour searches' ends (R369, R370) -/

/-- Moves of a state: slot, offset, code before and after (R88). -/
def reasonMoves (feats : List DetourFeat) (slots : Kv Nat) (offs : List Int) : List (Nat × Int × Nat × Nat) :=
  ((feats.zip offs).filter (fun p => p.2 != 0)).map (fun p =>
    let before := (kvGet slots p.1.slot).getD 0xFE
    (p.1.slot, p.2, before, ((before : Int) + p.2).toNat))

/-- The reason frame's message (R88). -/
def reasonMsg (x : Search) (feats : List DetourFeat) : List Byte :=
  let moves := reasonMoves feats x.slots x.best
  let body := beBytes 4 x.bestY ++ beBytes 4 x.req.threshold ++ beBytes 2 x.step ++ zeros 2 ++
    moves.flatMap (fun m => beBytes 2 m.1 ++ beBytes 2 (ofSigned 16 m.2.1) ++ beBytes 1 m.2.2.1 ++ beBytes 1 m.2.2.2 ++ zeros 2)
  mavisum 4 x.tenant 0 x.handle x.recId ((if x.bestReached then 0 else 9) * 256 + moves.length) x.cookie body

/-- Discard a search's candidates: their contexts are released and their requests removed (R93, R369). -/
def dropCandidates (slot : Nat) (s : State) : State :=
  let mine := s.ctxs.filter (fun p => match p.2.src with | .detour n _ => n == slot | _ => false)
  let s := mine.foldl (fun s p => freeContext p.1 s) s
  let keep := fun (b : BgReq) => match b with | .candidate n _ => n != slot | _ => true
  modDisp (fun d => { d with bg := d.bg.filter keep, granted := d.granted.filter keep }) s

/-- A search ends and reports its best state: one reason frame, after the score frame (R369). -/
def endSearch (slot : Nat) (timeLimit : Bool) (s : State) : State :=
  match kvGet s.searches slot with
  | none => s
  | some x =>
    let feats := ((s.model? x.model).bind (·.image.detour)).elim [] (·.feats)
    let msg := reasonMsg x feats
    let s := dropCandidates slot { s with searches := kvDel s.searches slot }
    let s := count (cTen x.tenant (tDtr (if x.bestReached then 1 else 2))) 1 s
    let s := if timeLimit then count (cTen x.tenant (tDtr 7)) 1 s else s
    match x.src with
    | .ring g number element => ringAnswer g number element true msg none s
    | _ => readyFrame x.reply .reason none msg 0 false s

/-- A search is dropped with no reason frame (R370, R387). -/
def dropSearch (slot : Nat) (s : State) : State := dropCandidates slot { s with searches := kvDel s.searches slot }

/-! ## Ending a record with an error answer (R197, R338, R417) -/

/-- The TERM of a member, with its status, reason and values (R338). -/
def termMsg (s : State) (dst homeCtx tenant handle member mode : Nat) (latency : Bool) (recId status reason : Nat)
    (vals : List Val) : List Byte :=
  let n := vals.length
  mkMsg s 0x46 dst tenant (if latency then 4 else 2) homeCtx
    (beBytes 2 handle ++ beBytes 1 member ++ beBytes 1 n ++ beBytes 1 mode ++ beBytes 1 0)
    (beBytes 8 recId ++ beBytes 1 status ++ beBytes 1 reason ++ zeros 6 ++
      fitBytes (vals.map (fun v => BitVec.ofNat 8 v.flags)) (alignUp n 8) ++
      vals.flatMap (fun v => beBytes 8 (ofSigned 64 v.v)))

/-- Send a member's TERM; its context is released when the message leaves, or at once when it cannot (R93, R338). -/
def sendTerm (c : Nat) (msg : List Byte) (s : State) : State :=
  let r := sendMsg msg (some c) (modCtx c (fun r => { r with state := .remote }) s)
  if r.1 then r.2 else freeContext c r.2

/-- A record received on a port. -/
def isEthernet (r : RecCtx) : Bool := match r.src with | .ethernet => true | _ => false

/-- A record has not passed step 18 of Table 4.8. -/
def beforeCommit (r : RecCtx) : Bool := r.state == .trailhead || r.state == .signpost

/-- End a record with an error answer by where it came from. A record of a port that ends before step 18 is counted in
PRT_RX_ANSWERED (Table 4.10). -/
def endRecord (c status reason : Nat) (s : State) : State :=
  match s.ctx? c with
  | none => s
  | some r =>
    let s := if isEthernet r && beforeCommit r then count (cPrt r.reply.port pAnswered) 1 s else s
    let s := modCtx c (fun r => { r with state := .summit, ended := some (status, reason) }) (dropWork c s)
    let msg := errorMsg r.tenant r.handle r.recId r.cookie status reason 0xFFFF
    match r.src with
    | .ethernet => readyFrame r.reply .error (some c) msg r.accepted false s
    | .ring g number element => ringAnswer g number element false msg (some c) s
    | .member chip ctx =>
      let m := s.model? r.model
      sendTerm c (termMsg s chip ctx r.tenant r.handle (m.elim 0 (·.member)) (m.elim 0 (fun m => if m.image.fmode then 1 else 0))
        (m.elim false (·.latency)) r.recId 2 reason []) s
    | .detour slot _ => endSearch slot false s

/-- Answer a record UNIT_FAULT. -/
def unitFault (c reason : Nat) (s : State) : State := endRecord c 5 reason s

/-! ## Replays and restarts (R417, R418) -/

/-- A fault that a policy repeats: the third of a record answers it UNIT_FAULT, with 0x41 when the fault is poison. -/
def repeatOr (c : Nat) (isPoison : Bool) (again : State → State) (s : State) : State :=
  match s.ctx? c with
  | none => s
  | some r =>
    if 2 ≤ r.replays then unitFault c (if isPoison then 0x41 else 0x40) (count (cMls 8) 1 s)
    else again (modCtx c (fun r => { r with replays := r.replays + 1 }) s)

/-- Run a record again from pass 0 of its first stage: its rows and block go, and it awaits its first pass (R169, R417). -/
def restartRecord (c : Nat) (s : State) : State :=
  let adm := (s.ctx? c).bind (·.admitted)
  let s := modCtx c (fun r => { r with
    state := .awaiting, stage := 0, nextBind := 0, nextAdd := 0, planned := 0, final := [], leaves := [] }) (dropWork c s)
  if adm.isSome then s else modDisp (fun d => { d with waiting := d.waiting ++ [c] }) s

/-- A Cairn fault, or an owner fault of a data-plane requester, on a record's work (Table 19.4). -/
def cairnFault (c : Nat) (s : State) : State :=
  match s.ctx? c with
  | none => s
  | some r =>
    match r.src with
    | .detour slot _ => endSearch slot false s
    | _ =>
      if (s.tenant r.tenant).quota.policy = .replay then repeatOr c false (restartRecord c) s
      else unitFault c 0x40 s

/-! ## Poisoned model blocks (R246) -/

/-- A record's work met a poisoned word of its model. `never` says that the block will not be healed. The record goes on
with the self-heal mark and POI, or is answered UNIT_FAULT 0x41. -/
def modelPoison (c : Nat) (never : Bool) (s : State) : State :=
  match s.ctx? c with
  | none => s
  | some r =>
    if never || (s.tenant r.tenant).quota.policy == .abort then unitFault c 0x41 s
    else modCtx c (fun r => { r with poi := true, heal := true }) s

end Sys2Proof.Machine
end

