-- ==== Sys2Proof/Machine/Trailhead.lean ====
section
/-! DEFINITION. Trailhead: binning, the body of a record, record contexts, commit and the receive check order (chapters 4 and 5). -/

namespace Sys2Proof.Machine

/-! ## Values and binning (R36 to R39, R96 to R103) -/

/-- A decoded numeric field value. -/
inductive Num where
  | int (v : Int)
  | fp (p : Nat)
  | nan
deriving DecidableEq, Repr

/-- An FP32 field value: infinities become the largest finite value of their sign (R38). -/
def numFp (p : Nat) : Num := if f32IsNan p then .nan else .fp (f32Clamp p)

/-- Decode a numeric field (Table 4.6). -/
def readNum (ty : FieldType) (raw : List Byte) : Num :=
  match ty with
  | .int32 => .int (toSigned 32 (beNat raw))
  | .int64 => .int (toSigned 64 (beNat raw))
  | .fp16 => numFp (f16ToF32 (beNat raw))
  | .fp32 => numFp (beNat raw)
  | _ => .int (beNat raw)

/-- The exact value of a number. -/
def Num.frac : Num → Frac
  | .int v => (v, 1)
  | .fp p => f32Val p
  | .nan => (0, 1)

/-- Absolute value as FP32, rounded toward larger magnitude (R103). -/
def Num.mag : Num → Nat
  | .int v =>
    let p := (f32OfInt v.natAbs).1
    if fracLt (f32Val p) (v.natAbs, 1) then p + 1 else p
  | .fp p => f32Abs p
  | .nan => 0

/-- What binning one value gave. -/
structure Binned where
  code : Nat
  clipped : Bool
  escaped : Bool
  nan : Bool
  side : Option (Bool × Int)
deriving DecidableEq, Repr

/-- A value that lands outside the codes: escaped with its exact value, or clipped to `code` (R37, R99). -/
def clipOr (escape : Bool) (code : Nat) (isFp : Bool) (v : Int) : Binned :=
  if escape then ⟨0xFF, false, true, false, some (isFp, v)⟩ else ⟨code, true, false, false, none⟩

/-- Bin a number (R36, R37). -/
def binNum (f : Field) (x : Num) : Binned :=
  match x, f.binning with
  | .nan, _ => ⟨0xFE, false, false, true, none⟩
  | .fp p, .edge _ edges => ⟨edges.countP (fun e => f32Le e.toNat p), false, false, false, none⟩
  | .int v, .edge _ edges => ⟨edges.countP (fun e => e ≤ v), false, false, false, none⟩
  | x, .affine scale z =>
    let c := roundEven (fracDiv x.frac (f32Val scale)) + z
    let held : Bool × Int := match x with | .fp p => (true, p) | .int v => (false, v) | .nan => (false, 0)
    if 0xFD < c then clipOr f.escape 0xFD held.1 held.2
    else if c < 0 then clipOr f.escape 0 held.1 held.2
    else ⟨c.toNat, false, false, false, none⟩
  | _, _ => ⟨0xFE, false, false, false, none⟩

/-- Bin a category id (R99). -/
def binCat (f : Field) (id : Nat) : Binned :=
  match f.binning with
  | .catMap d ids =>
    match ids.findIdx? (· == id) with
    | some i => ⟨i, false, false, false, none⟩
    | none => clipOr f.escape d false id
  | _ => ⟨0xFE, false, false, false, none⟩

/-- Bin a string (R99). -/
def binStr (f : Field) (s : List Byte) : Binned :=
  match f.binning with
  | .dict d strs =>
    match strs.findIdx? (· == s) with
    | some i => ⟨i, false, false, false, none⟩
    | none => ⟨d, true, false, false, none⟩
  | _ => ⟨0xFE, false, false, false, none⟩

/-- The 64-bit kept form of a number (R100). -/
def Num.kept : Num → Kept
  | .int v => .num false (ofSigned 64 v)
  | .fp p => .num true p
  | .nan => .nan

/-! ## The body of a record (R72 to R76) -/

/-- A statistics update of one feature: slot, magnitude, clipped, escaped, NaN (R103). -/
structure StatUpd where
  slot : Nat
  mag : Nat
  clipped : Bool
  escaped : Bool
  nan : Bool
deriving DecidableEq, Repr

/-- A parsed body: what the record context takes from it, and the fault at the lowest offset so far. -/
structure Body where
  preload : Option (List Int)
  reason : Option ReasonReq
  slots : Kv Nat
  side : List SideEntry
  kept : Kv Kept
  stats : List StatUpd
  /-- Fields whose tables were read, by index. -/
  tables : List Nat
  fault : Option (Nat × Nat)
deriving DecidableEq, Repr

def Body.empty : Body := ⟨none, none, [], [], [], [], [], none⟩

/-- Record a fault that does not hide the layout; the first found has the lowest offset. -/
def Body.flaw (b : Body) (reason off : Nat) : Body := if b.fault.isSome then b else { b with fault := some (reason, off) }

/-- The fault to report when the layout ends here: an earlier one, or this one. -/
def Body.stop (b : Body) (reason off : Nat) : Nat × Nat := b.fault.getD (reason, off)

/-- Write one binned feature: its slot, its escape in ascending slot order, its statistics; the 65th escape is a fault
at the field (R102). -/
def Body.feature (b : Body) (slot mag off : Nat) (stat : Bool) (x : Binned) : Body :=
  let b := { b with slots := kvPut 0xFE b.slots slot x.code }
  let b := if stat then { b with stats := b.stats ++ [⟨slot, mag, x.clipped, x.escaped, x.nan⟩] } else b
  match x.side with
  | none => b
  | some (isFp, v) =>
    if 64 ≤ b.side.length then b.flaw 0x0D off
    else { b with side := insertBy (fun p q => p.slot ≤ q.slot) ⟨slot, isFp, v⟩ b.side }

/-- Keep a field's value. -/
def Body.keep (b : Body) (f : Field) (i : Nat) (k : Kept) : Body :=
  if f.kept then { b with kept := kvSet b.kept i k } else b

/-- A field with a table and a slot was read. -/
def Body.table (b : Body) (f : Field) (i : Nat) : Body :=
  if f.tabLen = 0 ∨ f.slots.isEmpty then b else { b with tables := b.tables ++ [i] }

/-- Bytes of a fixed-width field. -/
def fixedSize (ty : FieldType) : Nat :=
  match ty with
  | .int64 => 8
  | .fp16 => 2
  | _ => 4

/-- One present field at position `p` of the payload: the position after it. A field in `bad`, whose table read met poison,
leaves its slot 0xFE (Table 11.6). -/
def parseBodyField (pay : List Byte) (bad : List Nat) (i : Nat) (f : Field) (p : Nat) (b : Body) :
    Except (Nat × Nat) (Nat × Body) :=
  let off := 24 + p
  match f.type with
  | .bitfield =>
    let n := ceilDiv f.flagCount 8
    if pay.length < p + n then .error (b.stop 5 off)
    else
      let raw := slice pay p n
      let b := if beNat raw % 2 ^ (8 * n - f.flagCount) ≠ 0 then b.flaw 7 off else b
      let slots := (List.range f.slots.length).foldl (fun m j =>
        kvPut 0xFE m (f.slot + j) (if bit (byteAt raw (j / 8)) (7 - j % 8) then 1 else 0)) b.slots
      .ok (p + n, { b with slots := slots })
  | .str =>
    let l := byteAt pay p
    if pay.length ≤ p ∨ pay.length < p + 1 + l then .error (b.stop 9 off)
    else
      let v := slice pay (p + 1) l
      let b := (b.keep f i (.str v)).table f i
      .ok (p + 1 + l, if f.slots.isEmpty || bad.contains i then b else b.feature f.slot 0 off true (binStr f v))
  | ty =>
    let n := fixedSize ty
    if pay.length < p + n then .error (b.stop 5 off)
    else
      let raw := slice pay p n
      let x := readNum ty raw
      let b := (b.keep f i x.kept).table f i
      let bin := if ty = .category then binCat f (beNat raw) else binNum f x
      .ok (p + n, if f.slots.isEmpty || bad.contains i then b
        else b.feature f.slot (if ty = .category then 0 else x.mag) off true bin)

/-- The field area. -/
def parseArea (pay : List Byte) (bad : List Nat) (present : Nat → Bool) : Nat → List Field → Nat → Body → Except (Nat × Nat) (Nat × Body)
  | _, [], p, b => .ok (p, b)
  | i, f :: fs, p, b =>
    if present i then
      match parseBodyField pay bad i f p b with
      | .ok r => parseArea pay bad present (i + 1) fs r.1 r.2
      | .error e => .error e
    else parseArea pay bad present (i + 1) fs p b

/-- One preload value, checked (R73). -/
def preloadValue (fmode : Bool) (raw : List Byte) : Option Int :=
  if fmode then
    if beNat raw / 2 ^ 32 = 0 ∧ finite (beNat raw) then some (beNat raw) else none
  else
    let v := toSigned 64 (beNat raw)
    if -(2 ^ 47) ≤ v ∧ v < 2 ^ 47 then some v else none

/-- The preload block (R73). -/
def parsePreload (pay : List Byte) (img : Image) (b : Body) : Except (Nat × Nat) (Nat × Body) :=
  let n := img.channels
  if 1 ≤ pay.length ∧ byteAt pay 0 ≠ n then .error (b.stop 0x0A 24)
  else if pay.length < 4 + 8 * n then .error (b.stop 5 24)
  else
    let b := match firstNonzero (slice pay 1 3) with | some _ => b.flaw 3 25 | none => b
    let vals := (List.range n).map (fun c => preloadValue img.fmode (slice pay (4 + 8 * c) 8))
    let b := match vals.findIdx? (·.isNone) with | some c => b.flaw 0x0B (28 + 8 * c) | none => b
    .ok (4 + 8 * n, { b with preload := some (vals.map (·.getD 0)) })

/-- The reason request block (R74). -/
def parseReason (pay : List Byte) (p : Nat) (img : Image) (b : Body) : Except (Nat × Nat) (Nat × Body) :=
  let off := 24 + p
  if pay.length < p + 8 then .error (b.stop 5 off)
  else
    let t := beAt pay p 4
    let ch := byteAt pay (p + 4)
    let dir := byteAt pay (p + 5)
    let b := if !finite t then b.flaw 0x0B off
      else if img.channels ≤ ch then b.flaw 0x0C (off + 4)
      else if 1 < dir then b.flaw 0x0C (off + 5)
      else if beAt pay (p + 6) 2 ≠ 0 then b.flaw 3 (off + 6) else b
    .ok (p + 8, { b with reason := some ⟨t, ch, dir == 1⟩ })

/-- The presence bitmap (R75): position after it and whether each field is present. -/
def parsePresence (pay : List Byte) (p count : Nat) (b : Body) : Except (Nat × Nat) (Nat × Nat × Body) :=
  let n := ceilDiv count 8
  if pay.length < p + n then .error (b.stop 5 (24 + p))
  else
    let raw := beNat (slice pay p n)
    let b := if raw % 2 ^ (8 * n - count) ≠ 0 then b.flaw 7 (24 + p) else b
    .ok (p + n, raw / 2 ^ (8 * n - count), b)

/-- The whole payload of a record frame with its flags, up to the last field. -/
def parseLayout (flags : Nat) (pay : List Byte) (img : Image) (bad : List Nat) : Except (Nat × Nat) (Nat × Body) := do
  let r ← if bit flags 1 then parsePreload pay img Body.empty else .ok (0, Body.empty)
  let r ← if bit flags 2 then parseReason pay r.1 img r.2 else .ok r
  let count := img.fields.length
  if bit flags 0 then
    let q ← parsePresence pay r.1 count r.2
    parseArea pay bad (fun i => bit q.2.1 (count - 1 - i)) 0 img.fields q.1 q.2.2
  else parseArea pay bad (fun _ => true) 0 img.fields r.1 r.2

/-- Step 17 for a record (R85): the body, or the reason and offset of the fault at the lowest offset. A payload longer than
its body disagrees with the header's payload length at offset 16, below every fault of the body (R82, log 28). -/
def parseBody (tword flags : Nat) (pay : List Byte) (img : Image) (bad : List Nat) : Except (Nat × Nat) Body :=
  if tword ≠ img.fields.length then .error (6, 18)
  else
    match parseLayout flags pay img bad with
    | .error e => .error e
    | .ok (p, b) => if p < pay.length then .error (5, 16) else b.fault.elim (.ok b) .error

/-- Step 17 for a feedback frame (R87): label and channel. -/
def parseFeedback (pay : List Byte) (img : Image) : Except (Nat × Nat) (Nat × Nat) :=
  let label := beAt pay 0 4
  let ch := byteAt pay 4
  if 8 < pay.length then .error (5, 16)
  else if pay.length < 4 then .error (5, 24)
  else if !finite label then .error (0x0B, 24)
  else if pay.length < 5 then .error (5, 28)
  else if img.channels ≤ ch then .error (0x0C, 28)
  else if pay.length < 8 then .error (5, 29)
  else if beAt pay 5 3 ≠ 0 then .error (3, 29)
  else .ok (label, ch)

/-! ## Statistics of a committed record (R103, R104) -/

/-- Key of a feature's statistics record. -/
def statKey (id slot : Nat) : Nat := id * 1024 + slot

/-- Apply one update to the running tick of a record. -/
def StatRec.update (x : StatRec) (u : StatUpd) : StatRec :=
  { x with
    cur := if u.nan then x.cur else max x.cur u.mag
    curClip := x.curClip + (if u.clipped then 1 else 0)
    curEsc := x.curEsc + (if u.escaped then 1 else 0)
    curNan := x.curNan + (if u.nan then 1 else 0)
    touched := true }

/-- Apply a record's updates, and count them in its pipeline (Table 5.5). -/
def applyStats (id pipe : Nat) (us : List StatUpd) (s : State) : State :=
  let s := { s with stats := us.foldl (fun m u => kvMod m (statKey id u.slot) (fun x => x.update u)) s.stats }
  count (cTrh pipe 5) (us.countP (·.clipped)) (count (cTrh pipe 6) (us.countP (·.escaped))
    (count (cTrh pipe 7) (us.countP (·.nan)) (count (cTrh pipe 4) 1 s)))

/-! ## Record contexts (R92, R93, R254) -/

/-- A context at allocation: every slot reads 0xFE. -/
def RecCtx.fresh (tenant model handle recId cookie : Nat) (src : CtxSrc) (reply : Reply) (accepted : Nat) : RecCtx :=
  { state := .trailhead, tenant := tenant, model := model, handle := handle, recId := recId, cookie := cookie, src := src
    reply := reply, slots := [], side := [], kept := [], preload := none, reason := none, accepted := accepted
    frameLen := 0, committed := false, poi := false, heal := false, replays := 0, body := none, tableReads := [], prog := none
    admitted := none, place := 0, stage := 0, nextBind := 0, nextAdd := 0, block := none, blockReady := false, version := 0
    parking := false, planned := 0, final := [], leaves := [], terms := [], mcAt := none, term0At := none, margins := []
    results := [], fused := false, ended := none, charged := false }

/-- A reply that leads nowhere, for records without a port. -/
def Reply.none_ : Reply := ⟨0, [], none, 0, [], [], 0, 0, 0, 0, 0⟩

/-- LATENCY in-flight count of a model (R221). -/
def Model.inFlight (m : Model) : Nat :=
  if !m.latency then 0
  else if 1 < m.image.members ∧ m.member = 0 then (2 + m.image.out.wait) * m.rate else 2 * m.rate

/-- Contexts a model holds. -/
def ctxsOf (s : State) (id : Nat) : Nat := s.ctxs.countP (fun p => p.2.model == id)

/-- Contexts a tenant holds. -/
def tenantCtxs (s : State) (t : Nat) : Nat := s.ctxs.countP (fun p => p.2.tenant == t)

/-- Free contexts kept for LATENCY models that hold fewer than their in-flight count (R254). -/
def reservedFree (s : State) : Nat :=
  (s.models.map (fun m => if m.latency && (m.standing || m.replaced) then m.inFlight - ctxsOf s m.id else 0)).sum

/-- Record elements that a list of streams has asked for and not delivered: each keeps a record context, a place under its
tenant's context quota and one in its THROUGHPUT queue (R302, R304). -/
def elementsOut (xs : List Stream) : Nat :=
  (xs.map (fun x => ((x.descs.filter (fun d => d.opcode == 1)).map (fun d => d.issued - d.elements)).sum)).sum

/-- The streams of a tenant. -/
def tenantStreams (s : State) (t : Nat) : List Stream := (s.dma.streams.drop (8 * (t + 1))).take 8

/-- Places under a tenant's context quota that are taken or kept for its rings. -/
def ctxPlaces (s : State) (t : Nat) : Nat := tenantCtxs s t + elementsOut (tenantStreams s t)

/-- An unreserved context is free (R254). -/
def unreservedFree (s : State) : Bool := reservedFree s + elementsOut s.dma.streams < s.freeCtx.length

/-- A context can be taken for a record of model `m` (R254). -/
def ctxFree (s : State) (m : Model) : Bool :=
  (m.latency && ctxsOf s m.id < m.inFlight && !s.freeCtx.isEmpty) || unreservedFree s

/-- Take the head of the free list. -/
def takeCtx (r : RecCtx) (s : State) : Option (Nat × State) :=
  match s.freeCtx with
  | [] => none
  | c :: rest => some (c, setCtx c r { s with freeCtx := rest })

/-- The model that step 14 finds (R223, R224). -/
def acceptingModel (s : State) (t h : Nat) : Option Model :=
  s.models.find? (fun m => m.tenant == t && m.handle == h && m.accepting)

/-! ## Early answers and the rate limit (R86) -/

/-- The rate limit lets a frame through, and the tenant's record of it. -/
def rateAllows (t : Nat) (s : State) : Bool × State :=
  let x := s.tenant t
  if !x.errSent || 1024 ≤ x.errFrames || 100000 ≤ s.time.time - x.errTime then
    (true, modTenant t (fun x => { x with errSent := true, errFrames := 0, errTime := s.time.time }) s)
  else (false, count (cTen t tErrLimited) 1 s)

/-- Answer a frame refused before it holds a context, or withhold the answer (R82, R86). -/
def earlyAnswer (t : Nat) (r : Reply) (h : Hdr) (status reason offset : Nat) (s : State) : State :=
  let s := count (cPrt r.port (if status = 4 then pMalformed else pAnswered)) 1 s
  let limited := status = 3 ∨ status = 4 ∨ status = 7 ∨ status = 8
  let a := if limited then rateAllows t s else (true, s)
  if a.1 then
    readyFrame r .error none (errorMsg (h.tenantByte % 32) h.handle h.recId h.cookie status reason offset) s.now false a.2
  else a.2

/-! ## Commit (R94, R104) -/

/-- Image offsets' Col lines of a table. -/
def imageLines (m : Model) (off n : Nat) : List Nat :=
  if n = 0 then [] else
    (List.range ((off + n - 1) / 256 + 1 - off / 256)).map (fun i => plotAddr m.plots ((off / 256 + i) * 256) / 256)

/-- A field of a model's schema. -/
def Model.field (m : Model) (i : Nat) : Field := m.image.fields.getD i ⟨.int32, .none, false, false, 0, 0, 0, 0, 0⟩

/-- A record commits: its context takes the body, its place in its pipeline's queue is open to Signpost, and its statistics
count (R94, R104). -/
def commitRecord (c pipe : Nat) (m : Model) (b : Body) (reason : Option ReasonReq) (s : State) : State :=
  applyStats m.id pipe b.stats (modCtx c (fun r => { r with
    slots := b.slots, side := b.side, kept := b.kept, preload := b.preload, reason := reason, committed := true
    body := none }) s)

/-- A record that fails step 17 is answered MALFORMED where it came from, and its context goes back (R82, R93, R302). -/
def malformed (c : Nat) (r : RecCtx) (reason offset : Nat) (s : State) : State :=
  let s := freeContext c s
  match r.src with
  | .ring g number element =>
    ringAnswer g number element false (errorMsg r.tenant r.handle r.recId r.cookie 4 reason offset) none s
  | _ => earlyAnswer r.tenant r.reply ⟨1, 1, r.tenant, 0, r.handle, r.recId, 0, 0, r.cookie⟩ 4 reason offset s

/-- A reason request that is checked and then ignored is counted on its port (R74), or on its stream when the descriptor has
no reason slots (R303). -/
def countIgnored (r : RecCtx) (b : BodyIn) (s : State) : State :=
  match r.src with
  | .ring g _ _ => if b.reasons then s else count (cStr g 6) 1 s
  | _ => count (cPrt r.reply.port pReasonIgnored) 1 s

/-- What SECDED finds in the table memory of a table-resident model while a field is binned: a newly uncorrectable word is
reported and stays until firmware rewrites it (R237, Table 19.5); where in table memory the word lies is left open, so its
address is a free value (log 125). -/
def tableFind (b : BodyIn) (m : Model) (i : Nat) (s : State) : State :=
  if findsUe b.tables i && !s.mem.tableBad.contains (b.pipe, m.id, i) then
    let a := nextFree 16 s
    raise 0x0601 m.tenant (ueData a.2 (tableBase + 0x80000 * b.pipe + 8 * a.1) 2)
      (modMem (fun x => { x with tableBad := x.tableBad ++ [(b.pipe, m.id, i)] }) a.2)
  else s

/-- What poison met in binning does to a committed record: POI, and R246 by the worst block (Table 11.6, R237). -/
def bodyPoison (c : Nat) (m : Model) (b : BodyIn) (tables : List Nat) (s : State) : State :=
  let worn := m.tableRes && tables.any (fun i => s.mem.tableBad.contains (b.pipe, m.id, i))
  if b.bad.isEmpty && !worn then s
  else modelPoison c (b.bad.any (·.2)) (modCtx c (fun r => { r with poi := true }) s)

/-- Step 17 of a record whose binning is done, and its commit (R85, R94). -/
def decideBody (c : Nat) (b : BodyIn) (s : State) : State :=
  match (s.ctx? c).bind (fun r => (s.model? r.model).map (fun m => (r, m))) with
  | none => freeContext c s
  | some (r, m) =>
    match parseBody b.tword b.flags b.pay m.image (b.bad.map (·.1)) with
    | .error e => malformed c r e.1 e.2 s
    | .ok x =>
      let ignored := x.reason.isSome && (!b.reasons || m.image.detour.isNone)
      let s := if ignored then countIgnored r b s else s
      let s := if m.tableRes then x.tables.foldl (fun s i => tableFind b m i s) s else s
      bodyPoison c m b x.tables (commitRecord c b.pipe m x (if ignored then none else x.reason) s)

/-- The first record of a pipeline that has not committed. -/
def laneHead (s : State) (pipe : Nat) : Option (Nat × RecCtx × BodyIn) :=
  (s.trhQ.getD pipe []).findSome? (fun c => (s.ctx? c).bind (fun r => r.body.map (fun b => (c, r, b))))

/-- The binning lane of a pipeline goes on, record by record in the order of arrival, while no table read holds it. -/
def drainLane : Nat → Nat → State → State
  | 0, _, s => s
  | n + 1, pipe, s =>
    match laneHead s pipe with
    | none => s
    | some (c, r, b) => if r.tableReads.isEmpty then drainLane n pipe (decideBody c b s) else s

/-- The lane goes on as far as it can. -/
def runLane (pipe : Nat) (s : State) : State := drainLane (s.trhQ.getD pipe []).length pipe s

/-- Table reads of a record's body, by field: none for a table-resident model. -/
def bodyReads (m : Model) (b : BodyIn) : List Nat :=
  if m.tableRes then []
  else match parseBody b.tword b.flags b.pay m.image [] with
    | .ok x => x.tables
    | .error _ => []

/-- Col cache lines of a field's table. -/
def fieldLines (m : Model) (i : Nat) : List Nat := imageLines m (m.field i).tabOff (m.field i).tabLen

/-- A record's last byte has come: its table reads go out and it takes its place in its pipeline's lane (R94, R107). -/
def enterLane (c : Nat) (m : Model) (b : BodyIn) (s : State) : State :=
  let reads := bodyReads m b
  let s := modCtx c (fun r => { r with body := some b, tableReads := reads }) s
  let s := reads.foldl (fun s i => (fieldLines m i).foldl (fun s l => colRead 2 m.id l s) s) s
  runLane b.pipe { s with trhQ := s.trhQ.modify b.pipe (fun q => q ++ [c]) }

/-- An owner fault of a record's read (R231, Table 19.4): under the replay policy the read is made again (log 126), under
the others the record is answered UNIT_FAULT 0x40. -/
def readRefused (c : Nat) (again : State → State) (s : State) : State :=
  match s.ctx? c with
  | none => s
  | some r => if (s.tenant r.tenant).quota.policy = .replay then repeatOr c false again s else unitFault c 0x40 s

/-- TRAILHEAD_TABLE_READ_DONE: the first table read of a record whose lines have been served returns; the slot of a poisoned
table takes 0xFE, and the record follows R246 once it commits (R107, Table 11.6). -/
def execTrailheadTableReadDone (ctx : CtxId) (s : State) : Host.Outcome State Fault Refusal :=
  match (s.ctx? ctx).bind (fun r => r.body.bind (fun b => (s.model? r.model).map (fun m => (r, b, m)))) with
  | none => .next s
  | some (r, b, m) =>
    match r.tableReads with
    | [] => .next (runLane b.pipe s)
    | i :: rest =>
      let lines := fieldLines m i
      if lines.any (filling s) then .next s
      else if colRefused s m.id lines then
        .next (runLane b.pipe (readRefused ctx (fun s => lines.foldl (fun s l => colRead 2 m.id l s) s)
          (clearRefused m.id lines s)))
      else
        let bad := (colPoison s m (m.field i).tabOff (m.field i).tabLen).toList.map (fun never => (i, never))
        .next (runLane b.pipe (modCtx ctx (fun r => { r with
          tableReads := rest, body := some { b with bad := b.bad ++ bad } }) s))

/-! ## Receive buffer and PFC (R69, log 18) -/

/-- Bytes of a port's receive buffer that records in Trailhead hold, of one priority or of all. -/
def rxOccupancy (s : State) (l : Nat) (pcp : Option Nat) : Nat :=
  (s.ctxs.map (fun p =>
    let r := p.2
    if isEthernet r && r.state == .trailhead && r.reply.port == l &&
        (match pcp with | some k => r.reply.pcp == k | none => true) then r.frameLen else 0)).sum

/-- Send a PFC frame. -/
def sendPfc (l pcp quanta : Nat) (s : State) : State := emit (.pfc l pcp quanta) (count (cPrt l pTxPfc) 1 s)

/-- XOFF when the occupancy of an enabled priority has risen above the threshold. -/
def checkXoff (l pcp : Nat) (s : State) : State :=
  let p := s.port l
  if bit p.pfcMask pcp && !p.xoffSent.contains pcp && p.xoff < rxOccupancy s l (some pcp) then
    sendPfc l pcp 0xFFFF (modPort l (fun p => { p with xoffSent := setAdd p.xoffSent pcp }) s)
  else s

/-- A received PFC frame pauses, or with quanta 0 resumes, each enabled priority of its mask. -/
def pfcAction (l : Nat) (mask : Nat) (quanta : List Nat) (s : State) : State :=
  (List.range 8).foldl (fun s k =>
    if bit mask k && bit (s.port l).pfcMask k then
      let q := quanta.getD k 0
      modPort l (fun p => { p with paused := if q = 0 then kvDel p.paused k else kvSet p.paused k q }) s
    else s) s

/-! ## The receive check order (Table 4.8) -/

/-- Steps 13 to 16 for a record, with the context taken at step 16. -/
def step13to16 (t : Nat) (r : Reply) (h : Hdr) (s : State) : Held × State :=
  if !(s.tenant t).enable then (.refused 7 0 0xFFFF, s)
  else
    match acceptingModel s t h.handle with
    | none => (.refused 3 0 0xFFFF, s)
    | some m =>
      if (s.tenant t).quota.contexts ≤ ctxPlaces s t then (.refused 8 0x30 0xFFFF, s)
      else if !ctxFree s m then (.refused 2 0x22 0xFFFF, s)
      else
        match takeCtx (RecCtx.fresh t m.id h.handle h.recId h.cookie .ethernet r s.now) s with
        | some (c, s') => (.allocated c, s')
        | none => (.refused 2 0x22 0xFFFF, s)

/-- Queue a valid feedback frame for refit, or discard it by cause (R201, R353). -/
def acceptFeedback (m : Model) (recId label channel : Nat) (s : State) : State :=
  if !m.traced then count (cTen m.tenant (tRft 6)) 1 s
  else if 64 ≤ s.feedback.length then count (cSmt 7) 1 s
  else modDisp (fun d => { d with bg := d.bg ++ [.feedback] })
    { s with feedback := s.feedback ++ [⟨m.id, m.tenant, recId, label, channel, false, none⟩] }

/-- Steps 13, 14 and 17 for a feedback frame. -/
def receiveFeedback (t : Nat) (r : Reply) (h : Hdr) (msg : List Byte) (s : State) : State :=
  if !(s.tenant t).enable then earlyAnswer t r h 7 0 0xFFFF s
  else
    match acceptingModel s t h.handle with
    | none => earlyAnswer t r h 3 0 0xFFFF s
    | some m =>
      match parseFeedback (slice msg 24 h.plen) m.image with
      | .error e => earlyAnswer t r h 4 e.1 e.2 s
      | .ok (label, ch) => acceptFeedback m h.recId label ch (count (cPrt r.port pFeedback) 1 s)

/-- A record frame's last byte, its context held: its body enters its pipeline's lane. -/
def receiveBody (c : Nat) (r : Reply) (h : Hdr) (msg : List Byte) (len : Nat) (k : FrameCheck) (s : State) : State :=
  match (s.ctx? c).bind (fun x => s.model? x.model) with
  | none => freeContext c s
  | some m =>
    let s := modCtx c (fun x => { x with reply := r, accepted := s.now, frameLen := len }) s
    checkXoff r.port r.pcp (enterLane c m ⟨r.port / 4, h.tword, h.flags, slice msg 24 h.plen, len, true, k.tables, []⟩ s)

/-- A context held since the header of a frame that goes no further is released. -/
def dropHeld (held : Option Held) (s : State) : State :=
  match held with
  | some (.allocated c) => freeContext c s
  | _ => s

/-- Steps 9 to 17 for a frame whose headers passed. A frame finds its priority's buffer space full when the whole share of
its logical port is taken, whatever the priorities of the records in it (R69, log 124). -/
def receiveMessage (rx : Rx) (len : Nat) (k : FrameCheck) (held : Option Held) (s : State) : State :=
  let l := rx.reply.port
  let giveUp := fun (k : Nat) => count (cPrt l k) 1 (dropHeld held s)
  match endpointOf s rx with
  | none => giveUp pFiltered
  | some e =>
    if rxShare s l < rxOccupancy s l none + len then giveUp pBufDrop
    else
      match readHdr rx.msg with
      | none => giveUp pNotRecord
      | some h =>
        let s := modTenant e.tenant (fun x => { x with errFrames := x.errFrames + 1 }) s
        match step12 h e.tenant (rx.reply.kind != 2 || !rx.pad64) rx.msg.length with
        | some f =>
          earlyAnswer e.tenant rx.reply h 4 f.1 f.2 (dropHeld held s)
        | none =>
          if h.type = 3 then receiveFeedback e.tenant rx.reply h rx.msg (dropHeld held s)
          else
            let d := match held with
              | some (.allocated c) => (Held.allocated c, s)
              | some (.refused a b o) => (Held.refused a b o, s)
              | _ => step13to16 e.tenant rx.reply h s
            match d.1 with
            | .refused status reason off => earlyAnswer e.tenant rx.reply h status reason off d.2
            | .allocated c => receiveBody c rx.reply h rx.msg len k d.2
            | .passed => d.2

/-- What every received frame adds to its port's counters: the frame, its bytes and its FEC codewords (Table 4.10). -/
def countFrame (l len : Nat) (k : FrameCheck) (s : State) : State :=
  count (cPrt l pFecUncorr) k.uncorrectable (count (cPrt l pFecCorr) k.corrected
    (count (cPrt l pFrames) 1 (count (cPrt l pBytes) len s)))

/-- A frame's last byte: the check order of Table 4.8 from step 1 (R83, R84). -/
def receiveFrame (l : Nat) (frame : List Byte) (k : FrameCheck) (s : State) : State :=
  let p := s.port l
  let len := frame.length
  let s := countFrame l len k (modPort l (fun p => { p with held := none }) s)
  let drop := fun (k : Nat) => count (cPrt l k) 1 (dropHeld p.held s)
  if !k.fcsOk then drop pFcs
  else if len < 64 then drop pRunt
  else if 9216 < len then drop pOversize
  else if beAt frame 12 2 = 0x8808 ∧ beAt frame 14 2 = 1 then drop pPause
  else if beAt frame 12 2 = 0x8808 ∧ beAt frame 14 2 = 0x0101 then
    pfcAction l (byteAt frame 17) ((List.range 8).map (fun k => beAt frame (18 + 2 * k) 2)) (drop pPfc)
  else if !p.openBit then drop pClosed
  else
    match parseFrame p l frame with
    | .drop k => drop k
    | .arp _ body => receiveControl l (arpAsks p body) true frame (dropHeld p.held s)
    | .nd _ body => receiveControl l (ndAsks p body) false frame (dropHeld p.held s)
    | .pass rx => receiveMessage rx len k p.held s

/-- Steps 5 to 7 on a frame that is still arriving, as far as its headers decide them: the addressing, as much of the
message as has come, and the UDP payload length where there is one. A frame that fails them, or goes to firmware, gives
nothing; its UDP checksum waits for the last byte (R84). -/
def parseHead (p : PortSt) (l : Nat) (head : List Byte) : Option (Rx × Option Nat) :=
  let tagged := beAt head 12 2 == 0x8100
  let o := if tagged then 18 else 14
  let et := beAt head (o - 2) 2
  let body := head.drop o
  let vlan := if tagged then some (beAt head 14 2 / 8192, beAt head 14 2 % 4096) else none
  let r : Reply := ⟨l, slice head 6 6, vlan, 2, [], [], 0, 0, 0, 0, et⟩
  let udp := fun (r : Reply) (u room : Nat) =>
    let n := beAt head (u + 4) 2
    if n < 8 ∨ room < n then none
    else some ((⟨{ r with srcPort := beAt head u 2, udpPort := beAt head (u + 2) 2 }, head.drop (u + 8), false⟩ : Rx), some (n - 8))
  if !macOk p (slice head 0 6) et body || et == 0x8100 || et == 0x88A8 || et == 0x0806 || isNd et body then none
  else if et = 0x0800 then
    let ihl := byteAt body 0 % 16 * 4
    let total := beAt body 2 2
    if bit (beAt body 6 2) 13 ∨ beAt body 6 2 % 8192 ≠ 0 ∨ byteAt body 0 / 16 ≠ 4 ∨ ihl < 20 ∨
        fold16 (sum16 (body.take ihl)) ≠ 65535 ∨ total < ihl ∨ byteAt body 9 ≠ 17 then none
    else
      udp { r with kind := 0, srcIp := slice body 12 4, dstIp := slice body 16 4, dscp := byteAt body 1 / 4 } (o + ihl) (total - ihl)
  else if et = 0x86DD then
    if byteAt body 0 / 16 ≠ 6 ∨ byteAt body 6 ≠ 17 then none
    else
      udp { r with kind := 1, srcIp := slice body 8 16, dstIp := slice body 24 16
                   dscp := beAt body 0 2 / 16 % 256 / 4, flow := beAt body 0 4 % 1048576 } (o + 40) (beAt body 4 2)
  else some (⟨r, body, false⟩, none)

/-! ## The commands -/

/-- RECORD_START: from the 24th header byte, steps 12 to 16 run and a context is taken; the outcome is held until the
last byte (R84, R93). A head that shows no record of an endpoint holds nothing: its frame is judged at its last byte. -/
def execRecordStart (port : LPort) (head : List Byte) (s : State) : Host.Outcome State Fault Refusal :=
  if (s.port port).held.isSome then .next s
  else
    match parseHead (s.port port) port head with
    | none => .next s
    | some (rx, carried) =>
      match endpointOf s rx, readHdr rx.msg with
      | some e, some h =>
        let bad : Bool := match carried with
          | some n => (step12 h e.tenant true n).isSome
          | none => (step12Head h e.tenant).isSome
        if h.type == 3 || bad then .next s
        else
          let d := step13to16 e.tenant rx.reply h s
          .next (modPort port (fun p => { p with held := some d.1 }) d.2)
      | _, _ => .next s

/-- RECORD_FRAME_RX: a record frame's last byte (R83). -/
def execRecordFrameRx (port : LPort) (frame : List Byte) (check : FrameCheck) (s : State) : Host.Outcome State Fault Refusal :=
  .next (receiveFrame port frame check s)

/-- FEEDBACK_FRAME_RX: a feedback frame's last byte (R87). -/
def execFeedbackFrameRx (port : LPort) (frame : List Byte) (check : FrameCheck) (s : State) : Host.Outcome State Fault Refusal :=
  .next (receiveFrame port frame check s)

/-- ARP_REQUEST_RX: an ARP frame's last byte (R67). -/
def execArpRequestRx (port : LPort) (frame : List Byte) (check : FrameCheck) (s : State) : Host.Outcome State Fault Refusal :=
  .next (receiveFrame port frame check s)

/-- NEIGHBOUR_SOLICITATION_RX: a neighbour discovery frame's last byte (R67). -/
def execNeighbourSolicitationRx (port : LPort) (frame : List Byte) (check : FrameCheck) (s : State) :
    Host.Outcome State Fault Refusal :=
  .next (receiveFrame port frame check s)

/-- Steps 1 to 3 of a flow-control frame whose FCS was good; `k` is its counter. The result tells whether it passed. -/
def receiveFlowControl (l length k : Nat) (s : State) : Bool × State :=
  let s := count (cPrt l pFrames) 1 (count (cPrt l pBytes) length s)
  if length < 64 then (false, count (cPrt l pRunt) 1 s)
  else if 9216 < length then (false, count (cPrt l pOversize) 1 s)
  else (true, count (cPrt l k) 1 s)

/-- PFC_FRAME_RX: counted, and its action taken in every port state (R69, step 3). -/
def execPfcFrameRx (port : LPort) (length : Nat) (mask : BitVec 8) (quanta : List Nat) (s : State) : Host.Outcome State Fault Refusal :=
  let r := receiveFlowControl port length pPfc s
  .next (if r.1 then pfcAction port mask.toNat quanta r.2 else r.2)

/-- PAUSE_FRAME_RX: counted and dropped (R59, step 3). -/
def execPauseFrameRx (port : LPort) (length : Nat) (s : State) : Host.Outcome State Fault Refusal :=
  .next (receiveFlowControl port length pPause s).2

/-- PFC_XOFF_REPEAT: XOFF is sent again while occupancy stays above XON (R69). -/
def execPfcXoffRepeat (port : LPort) (pcp : Fin 8) (s : State) : Host.Outcome State Fault Refusal :=
  let p := s.port port
  if p.xoffSent.contains pcp && p.xon < rxOccupancy s port (some pcp) then .next (sendPfc port pcp 0xFFFF s) else .next s

/-- PFC_XON_SEND: quanta 0 is sent once occupancy has fallen to XON or below (R69). -/
def execPfcXonSend (port : LPort) (pcp : Fin 8) (s : State) : Host.Outcome State Fault Refusal :=
  let p := s.port port
  if p.xoffSent.contains pcp && rxOccupancy s port (some pcp) ≤ p.xon then
    .next (sendPfc port pcp 0 (modPort port (fun p => { p with xoffSent := p.xoffSent.filter (· != pcp.val) }) s))
  else .next s

/-- PFC_PAUSE_EXPIRY: a received pause runs out, and frames of that priority may leave again (R69). -/
def execPfcPauseExpiry (port : LPort) (pcp : Fin 8) (s : State) : Host.Outcome State Fault Refusal :=
  .next (modPort port (fun p => { p with paused := kvDel p.paused pcp }) s)

/-- LINK_UP: the PHY holds link, whatever the port state (R62), unless the lanes are down for want of REFCLK_NET (R395). -/
def execLinkUp (port : LPort) (s : State) : Host.Outcome State Fault Refusal :=
  if s.boot.refclkNet then .next (modPort port (fun p => { p with link := true }) s) else .next s

/-- LINK_DOWN: the port keeps its state; a frame being received, of which `cut` bytes have come, is discarded and counted in
PRT_RX_FRAMES, PRT_RX_BYTES and PRT_RX_FCS_ERR, its context released (R64, R89, R93). That the bytes of a frame cut short
count in PRT_RX_BYTES is read from "all dispositions" (log 124). -/
def execLinkDown (port : LPort) (cut : Option Nat) (s : State) : Host.Outcome State Fault Refusal :=
  let held := (s.port port).held
  let s := dropHeld held (modPort port (fun p => { p with link := false, held := none }) s)
  .next (cut.elim s (fun n => count (cPrt port pFrames) 1 (count (cPrt port pBytes) n (count (cPrt port pFcs) 1 s))))

/-- No context holds a record of a port, and no reason frame of it is pending (R62); score, error and reason frames that are
finished and have not reached the MAC are still to be sent, so the port waits for them too (log 124). -/
def portIdle (s : State) (l : Nat) : Bool :=
  let p := s.port l
  s.ctxs.all (fun x => !(isEthernet x.2 && x.2.reply.port == l)) &&
    s.searches.all (fun x => x.2.reply.port != l || (match x.2.src with | .ethernet => false | _ => true)) &&
    p.ready.all (fun f => f.kind == .control) && p.txq.all (fun f => f.kind == .control)

/-- PORT_DRAIN_COMPLETE: a DRAINING port with nothing left becomes CLOSED (R62). A CLOSED port transmits nothing but PFC
frames, so the control frames that have not left are dropped. -/
def execPortDrainComplete (port : LPort) (s : State) : Host.Outcome State Fault Refusal :=
  if (s.port port).mode = .draining ∧ portIdle s port then
    .next (modPort port (fun p => { p with mode := .closed, ready := [], txq := [] }) s)
  else .next s

/-- FEC_LOCK_ATTEMPT_FAIL: counted in the port's FEC counters, which are PRT_FEC_CORR and PRT_FEC_UNCORR: one in each, as
the rule names neither alone (log 124); the link stays down (R61). -/
def execFecLockAttemptFail (port : LPort) (s : State) : Host.Outcome State Fault Refusal :=
  .next (modPort port (fun p => { p with link := false }) (count (cPrt port pFecCorr) 1 (count (cPrt port pFecUncorr) 1 s)))

/-! ## Host-ring elements (R302) -/

/-- Answer a ring record that holds no context. -/
def ringEarly (g number element : Nat) (msg : List Byte) (status reason offset : Nat) (s : State) : State :=
  ringAnswer g number element false
    (errorMsg (byteAt msg 4 % 32) (beAt msg 6 2) (beAt msg 8 8) (beAt msg 20 4) status reason offset) none s

/-- The step 12 faults of a ring element (R302): reason and offset. -/
def ringStep12 (t l0 : Nat) (msg : List Byte) : Option (Nat × Nat) :=
  if beAt msg 0 2 ≠ 0xA37E then some (5, 0)
  else
    match readHdr msg with
    | none => some (5, 3)
    | some h => step12 h t false l0

/-- A RECORDS element arrives in Trailhead: step 12 onward, answered through its ring (R90, R302). The context was kept for it
when its request was issued, so steps 15 and 16 find their places (R304); it is taken at the head of the free list before
the body is checked (R93). -/
def ringElement (g number element : Nat) (reasonSlots : Bool) (t : Nat) (msg : List Byte) (tables : List EccFind) (s : State) :
    State :=
  let feedback := byteAt msg 3 = 3 ∧ beAt msg 0 2 = 0xA37E
  let refuse := fun (status reason off : Nat) (s : State) =>
    if feedback then s else ringEarly g number element msg status reason off s
  match ringStep12 t msg.length msg with
  | some f => refuse 4 f.1 f.2 s
  | none =>
    match readHdr msg with
    | none => s
    | some h =>
      if !(s.tenant t).enable then refuse 7 0 0xFFFF s
      else
        match acceptingModel s t h.handle with
        | none => refuse 3 0 0xFFFF s
        | some m =>
          let pay := slice msg 24 h.plen
          if h.type = 3 then
            match parseFeedback pay m.image with
            | .error _ => s
            | .ok (label, ch) => acceptFeedback m h.recId label ch s
          else
            match takeCtx (RecCtx.fresh t m.id h.handle h.recId h.cookie (.ring g number element) Reply.none_ s.now) s with
            | none => refuse 2 0x22 0xFFFF s
            | some (c, s) =>
              enterLane c m ⟨(s.stream g).pipeline, h.tword, h.flags, pay, msg.length, reasonSlots, tables, []⟩ s

end Sys2Proof.Machine
end

