-- ==== Sys2Proof/Machine/Signpost.lean ====
section
/-! DEFINITION. Signpost: searches, the derivation program, walkers, the compare engine and fences (chapter 6, R426). -/

namespace Sys2Proof.Machine

/-! ## Searching a bank (R111 to R118) -/

/-- Entries of a bank (R111). -/
def Bank.size (b : Bank) : Nat := 4096 / b.width

/-- Bounds of a range entry as numbers of its domain (Table 6.3). -/
def rangeBounds (domain units : Nat) : Int × Int :=
  if domain = 0 then (toSigned 64 (bits units 79 16), toSigned 64 (bits units 143 80))
  else (bits units 47 16, bits units 79 48)

/-- The match test (R116); the key of a range bank is a signed integer, an FP32 pattern or an unsigned integer. -/
def entryMatches (b : Bank) (key : Int) (e : Entry) : Bool :=
  e.valid &&
    (if b.range then
      let r := rangeBounds b.domain e.units
      if b.domain = 1 then f32Le r.1.toNat key.toNat && f32Le key.toNat r.2.toNat else r.1 ≤ key && key ≤ r.2
    else
      let k := keyWidth b.width
      Nat.xor key.toNat (bits e.units (15 + k) 16) &&& bits e.units (15 + 2 * k) (16 + k) == 0)

/-- Rank order of two matches (R117). -/
def rankLe (position : Bool) (a b : Nat × Entry) : Bool :=
  let p := a.2.units % 256
  let q := b.2.units % 256
  if position then a.1 ≤ b.1 else q < p || (p == q && a.1 ≤ b.1)

/-- Every match of a key, in rank order. -/
def searchBank (b : Bank) (key : Int) : List Match :=
  (sortBy (rankLe b.position) (b.entries.filter (fun e => entryMatches b key e.2))).map (fun e => ⟨e.1, e.2.result⟩)

/-! ## Steps (R119 to R123) -/

/-- A miss byte in all four bytes. -/
def missWord (m : Nat) : Nat := m * 0x01010101

/-- Cycles from a step's issue to its result (Table 6.7); `len` is the length of the string an AUTOMATON step walks. -/
def stepCycles (op len : Nat) : Nat := if op = 4 then 4 else if op = 3 then 12 + len else 28

/-- The outcome of a missing step (R121). -/
def StepOut.missing_ (due : Nat) : StepOut := ⟨true, 0, 0, [], 0, false, due⟩

/-- The outcome of a search or walk: matches in rank order (R118, R122). -/
def StepOut.ofMatches (miss : Nat) (ms : List Match) (due : Nat) : StepOut :=
  match ms with
  | [] => ⟨false, missWord miss, 0, [], 0, false, due⟩
  | m :: _ => ⟨false, m.result, ms.length, ms.take 16, 1, true, due⟩

/-- What a destination of a step writes (R121, R122). -/
def destCode (st : Step) (o : StepOut) (sel : Nat) : Nat :=
  if o.missing then 0xFE
  else if sel = 4 then (if 2 ≤ o.count then 1 else 0)
  else if sel = 5 then min o.count 0xFD
  else if o.hit then o.word / 256 ^ sel % 256 else st.miss

/-- The slots a program's steps write, with their codes. -/
def programWrites (prog : List Step) (outs : List StepOut) : List (Nat × Nat) :=
  (prog.zip outs).flatMap (fun x => x.1.dests.map (fun d => (d.slot, destCode x.1 x.2 d.sel)))

/-- The code a kind 3 part reads: what an earlier step writes to the slot, or the slot as it stood (R120). -/
def slotCode (r : RecCtx) (prog : List Step) (outs : List StepOut) (slot : Nat) : Nat :=
  match (programWrites prog outs).find? (·.1 == slot) with
  | some w => w.2
  | none => (kvGet r.slots slot).getD 0xFE

/-- The value of a key part, none when it is missing (R120, R121). -/
def partValue (r : RecCtx) (prog : List Step) (outs : List StepOut) (p : KeyPart) : Option Nat :=
  match p.kind with
  | 0 => match kvGet r.kept p.source with
    | some (.num _ v) => some (if p.width = 0 then v else v % 2 ^ p.width)
    | _ => none
  | 1 => match kvGet r.kept p.source with
    | some (.str bs) => some (beNat (fitBytes bs p.width))
    | _ => none
  | 2 => match kvGet r.kept p.source with
    | some (.str bs) => some bs.length
    | _ => none
  | 3 =>
    let c := slotCode r prog outs p.source
    if 0xFE ≤ c then none else some c
  | _ =>
    match outs[p.source]? with
    | some o => if o.missing then none else some (if p.width = 0 then o.word else o.word % 2 ^ p.width)
    | none => none

/-- A ternary key: part 0 lowest (R120). -/
def ternaryKey (r : RecCtx) (prog : List Step) (outs : List StepOut) : List KeyPart → Option Nat
  | [] => some 0
  | p :: ps =>
    match partValue r prog outs p, ternaryKey r prog outs ps with
    | some v, some rest => some (v + 2 ^ p.bits * rest)
    | _, _ => none

/-- A range key in the bank's domain (R120). -/
def rangeKey (r : RecCtx) (prog : List Step) (outs : List StepOut) (domain : Nat) (ps : List KeyPart) : Option Int :=
  match ps with
  | p :: _ => (partValue r prog outs p).map (fun v => if domain = 0 then toSigned 64 v else (v : Int))
  | [] => none

/-- A step depends on step `j` (R125). -/
def dependsOn (prog : List Step) (st : Step) (j : Nat) : Bool :=
  (st.op == 4 && st.target == j) || st.parts.any (fun p =>
    (p.kind == 4 && p.source == j) ||
      (p.kind == 3 && (match prog[j]? with | some q => q.dests.any (·.slot == p.source) | none => false)))

/-- A step waits for an earlier step's result: one that it depends on, or, for an AUTOMATON step, an earlier walk on the
program's one walker (R124, R125, log 129). -/
def waitsOn (prog : List Step) (p : Prog) (st : Step) : Bool :=
  (List.range p.outs.length).any (fun j => !p.arrived.contains j &&
    (dependsOn prog st j || (st.op == 3 && (prog[j]?).elim false (·.op == 3))))

/-- The next step of a record's program, when it may issue: its index and the step. Steps issue in program order, at most
one in a cycle, each once every earlier step it depends on has its result (R125). -/
def nextStep? (s : State) (c : Nat) : Option (RecCtx × Prog × Model × Nat × Step) :=
  (s.ctx? c).bind (fun r => r.prog.bind (fun p => (s.model? r.model).bind (fun m =>
    let i := p.outs.length
    (m.image.program[i]?).bind (fun st =>
      if s.now < p.next || waitsOn m.image.program p st then none else some (r, p, m, i, st)))))

/-- The key of a search step, none when it is missing (R120, R121). -/
def searchKey (s : State) (r : RecCtx) (p : Prog) (m : Model) (st : Step) : Option Int :=
  if st.op = 1 then (ternaryKey r m.image.program p.outs st.parts).map (fun k => (k : Int))
  else rangeKey r m.image.program p.outs (s.bank st.target).domain st.parts

/-- A program's next step is a search that wants a bank in this cycle. -/
def wantsBank (s : State) (b c : Nat) : Bool :=
  match nextStep? s c with
  | some (r, p, m, _, st) => (st.op == 1 || st.op == 2) && st.target == b && (searchKey s r p m st).isSome
  | none => false

/-- A program may issue to a bank: the bank takes one search a cycle, and of the programs that reach it together the one
that entered Signpost first issues (R125). -/
def bankTurn (s : State) (b c : Nat) : Bool :=
  decide ((s.bank b).busy ≤ s.now) && !(s.progs.takeWhile (· != c)).any (wantsBank s b)

/-- Append a step's outcome. -/
def issueStep (c : Nat) (o : StepOut) (s : State) : State :=
  modCtx c (fun r => { r with prog := r.prog.map (fun p => { p with outs := p.outs ++ [o], next := s.now + 1 }) }) s

/-- A missing step issues and is counted (R121). Its result is due as that of a step that runs (log 129). -/
def missStep (c op : Nat) (s : State) : State := issueStep c (StepOut.missing_ (s.now + stepCycles op 0)) (count (cSgp 5) 1 s)

/-- A search issues to a bank: it takes the bank's cycle and is counted, with its multiple-match flag (R117, R125, Table
6.10). -/
def countSearch (b n : Nat) (s : State) : State :=
  let s := count (cBank b 0) 1 (modBank b (fun x => { x with busy := s.now + 1 }) s)
  if 2 ≤ n then count (cBank b 1) 1 s else s

/-- Run a search step with the given key, none when it is missing; a fenced bank ends the record (R136). -/
def runSearch (c : Nat) (st : Step) (key : Option Int) (s : State) : State :=
  match key with
  | none => missStep c st.op s
  | some k =>
    let b := s.bank st.target
    if b.fenced then unitFault c 0x40 s
    else if !bankTurn s st.target c then s
    else
      let ms := searchBank b k
      issueStep c (StepOut.ofMatches st.miss ms (s.now + stepCycles st.op 0)) (countSearch st.target ms.length s)

/-! ## Entry, steps and results -/

/-- A model's program has an AUTOMATON step. -/
def hasAutomaton (m : Model) : Bool := m.image.program.any (·.op == 3)

/-- The lowest-numbered walker that is free and not fenced; the manual does not say which one a record takes (R124, log 130). -/
def freeWalker (s : State) : Option Nat :=
  (List.range 8).find? (fun k => let w := s.walker k
    !w.fenced && w.holder.isNone && s.unusable (.walker k) == 0)

/-- A program context is free (R124, R272). -/
def progFree (s : State) : Bool := s.progs.length + s.unusable .prog < 32

/-- A pipeline's queue to the dispatcher has a free entry (Table 12.4). -/
def dispRoom (s : State) (pipe : Nat) : Bool :=
  s.disp.inq.countP (fun c => (s.ctx? c).elim false (fun r => pipeOf s r == pipe)) + s.unusable (.disp pipe) < 64

/-- A record's program has ended: every step has its result. -/
def programDone (m : Model) (r : RecCtx) : Bool :=
  match r.prog with
  | some p => p.arrived.length == m.image.program.length
  | none => false

/-- SIGNPOST_ENTRY: the oldest committed record of a pipeline takes a program context and, if its program walks, a free
walker; with every walker fenced such a record is answered UNIT_FAULT (R124, R426). -/
def execSignpostEntry (pipeline : Fin 2) (s : State) : Host.Outcome State Fault Refusal :=
  match s.trhQ.getD pipeline [] with
  | [] => .next s
  | c :: rest =>
    match (s.ctx? c).bind (fun r => (s.model? r.model).map (fun m => (r, m))) with
    | none => .next s
    | some (r, m) =>
      if !r.committed || m.image.program.isEmpty || !progFree s then .next s
      else if hasAutomaton m && s.walkers.all (·.fenced) then .next (unitFault c 0x40 s)
      else
        let w := if hasAutomaton m then freeWalker s else none
        if hasAutomaton m && w.isNone then .next s
        else
          let s := { s with trhQ := s.trhQ.set pipeline rest, progs := s.progs ++ [c] }
          let s := match w with | some k => modWalker k (fun x => { x with holder := some c }) s | none => s
          .next (modCtx c (fun r => { r with state := .signpost, prog := some ⟨w, [], [], none, 0⟩ }) s)

/-- TERNARY_STEP: a masked search with the step's key (R116). -/
def execTernaryStep (ctx : CtxId) (s : State) : Host.Outcome State Fault Refusal :=
  match nextStep? s ctx with
  | some (r, p, m, _, st) => if st.op = 1 then .next (runSearch ctx st (searchKey s r p m st) s) else .next s
  | none => .next s

/-- RANGE_STEP: an inclusive bound search (R116). -/
def execRangeStep (ctx : CtxId) (s : State) : Host.Outcome State Fault Refusal :=
  match nextStep? s ctx with
  | some (r, p, m, _, st) => if st.op = 2 then .next (runSearch ctx st (searchKey s r p m st) s) else .next s
  | none => .next s

/-- NEXT_STEP: the next match of the retained list of the step it continues (R123). -/
def execNextStep (ctx : CtxId) (s : State) : Host.Outcome State Fault Refusal :=
  match nextStep? s ctx with
  | some (_, p, _, _, st) =>
    if st.op = 4 then
      match p.outs[st.target]? with
      | none => .next s
      | some o =>
        if o.missing then .next (missStep ctx 4 s)
        else
          let out : StepOut := match o.matches_[o.taken]? with
            | some x => ⟨false, x.result, o.count, [], 0, true, s.now + 4⟩
            | none => ⟨false, missWord st.miss, o.count, [], 0, false, s.now + 4⟩
          let s := modCtx ctx (fun r => { r with prog := r.prog.map (fun p =>
            { p with outs := p.outs.modify st.target (fun x => { x with taken := x.taken + 1 }) }) }) s
          .next (issueStep ctx out s)
    else .next s
  | none => .next s

/-! ## Walkers (R126 to R128) -/

/-- Image offset of the transition of state `q` on class `k`. -/
def transOff (p : PatternSet) (q k : Nat) : Nat := p.off + 320 + 4 * p.states + 2 * (q * p.classes + k)

/-- The states a walk enters and the transitions it reads, in order (R127). -/
def walkStates (p : PatternSet) : List Byte → Nat → List (Nat × Nat)
  | [], _ => []
  | b :: r, q =>
    let k := p.classMap.getD b.toNat 0
    let q' := p.next.getD (q * p.classes + k) 0
    (transOff p q k, q') :: walkStates p r q'

/-- The accepts of a state. -/
def acceptsOf (p : PatternSet) (q : Nat) : List Accept :=
  let i := p.info.getD q (0, 0)
  (p.accepts.drop i.1).take i.2

/-- An accept event: priority, pattern id, end position and result word (R127). -/
structure AcceptEvent where
  prio : Nat
  id : Nat
  pos : Nat
  word : Nat
deriving DecidableEq, Repr

/-- The event of an accept at an end position. -/
def acceptEvent (a : Accept) (pos : Nat) : AcceptEvent := ⟨a.prio, a.id, pos, a.r0 + 256 * a.r1 + 65536 * min pos 0xFD⟩

/-- Accept events of a walk over a string, in order of occurrence (R127). -/
def walkEvents (p : PatternSet) (str : List Byte) : List AcceptEvent :=
  let st := (walkStates p str p.start).map (·.2)
  let mid := (st.zipIdx).flatMap (fun x => ((acceptsOf p x.1).filter (fun a => !a.isEnd)).map (fun a => acceptEvent a x.2))
  let last := st.getLast?.getD p.start
  mid ++ ((acceptsOf p last).filter (·.isEnd)).map (fun a => acceptEvent a (str.length - 1))

/-- Rank order of accept events; events equal in priority, pattern id and end position keep the order in which the walk
records them, END accepts last (R127, log 131). -/
def acceptLe (a b : AcceptEvent) : Bool :=
  b.prio < a.prio || (a.prio == b.prio && (a.id < b.id || (a.id == b.id && a.pos ≤ b.pos)))

/-- The matches of a walk in rank order. -/
def walkMatches (p : PatternSet) (str : List Byte) : List Match :=
  (sortBy acceptLe (walkEvents p str)).map (fun e => ⟨e.id, e.word⟩)

/-- The string an AUTOMATON step walks, none when it is missing. -/
def walkString (r : RecCtx) (st : Step) : Option (List Byte) :=
  match st.parts with
  | p :: _ => match kvGet r.kept p.source with
    | some (.str bs) => some bs
    | _ => none
  | [] => none

/-- The first transition of a walk that the walker's cache does not hold, as a Massif address (R128). -/
def firstMiss (cache : List Nat) (m : Model) (p : PatternSet) (str : List Byte) : Option Nat :=
  (((walkStates p str p.start).map (fun x => plotAddr m.plots x.1)).find? (fun a => !cache.contains a))

/-- Go on with the walk of step `i`: read the first transition that its walker's cache misses, or let its result come. -/
def continueWalk (c w i : Nat) (m : Model) (p : PatternSet) (str : List Byte) (s : State) : State :=
  match firstMiss (s.walker w).cache m p str with
  | some a =>
    modCtx c (fun r => { r with prog := r.prog.map (fun p => { p with reading := some (i, s.now) }) }) (colRead 3 m.id (a / 256) s)
  | none => modCtx c (fun r => { r with prog := r.prog.map (fun p => { p with reading := none }) }) s

/-- A derivation starts again from step 0 when a walker is free (Table 19.4): the record returns to the head of its queue. -/
def rerunDerivation (c : Nat) (s : State) : State :=
  match s.ctx? c with
  | none => s
  | some r =>
    let s := { s with progs := s.progs.filter (· != c), walkers := s.walkers.map (Walker.drop c)
                      trhQ := s.trhQ.modify (pipeOf s r) (fun q => c :: q) }
    modCtx c (fun r => { r with state := .trailhead, prog := none }) s

/-- A walker's parity fault fences it; its step is discarded and the record follows Table 19.4 (R426). -/
def fenceWalker (c w : Nat) (s : State) : State :=
  let left := s.walkers.countP (fun x => !x.fenced) - 1
  let s := modWalker w (fun x => { x with fenced := true, holder := none }) s
  let s := raise 0x0204 0xFF (leBytes 1 w ++ leBytes 1 left) s
  match s.ctx? c with
  | none => s
  | some r =>
    if (s.tenant r.tenant).quota.policy = .replay then repeatOr c false (rerunDerivation c) s else unitFault c 0x40 s

/-- A parity error of a cached transition: the first that the walk meets in the walker's cache leaves it and will be read
again, and SGP_WALK_PARITY counts it (Table 19.5). -/
def refillWalker (w : Nat) (m : Model) (p : PatternSet) (str : List Byte) (s : State) : State :=
  match ((walkStates p str p.start).map (fun x => plotAddr m.plots x.1)).find? (fun a => (s.walker w).cache.contains a) with
  | some a => count (cSgp 6) 1 (modWalker w (fun x => { x with cache := x.cache.filter (· != a) }) s)
  | none => s

/-- AUTOMATON_STEP: a walker takes one transition per byte of the string (R127); a parity fault of its state register or its
cache tags fences it (R426), one of a cached transition has it read again. -/
def execAutomatonStep (ctx : CtxId) (parity : WalkerParity) (s : State) : Host.Outcome State Fault Refusal :=
  match nextStep? s ctx with
  | some (r, p, m, i, st) =>
    match p.walker, kvGet m.image.patterns st.target with
    | some w, some pat =>
      if st.op ≠ 3 then .next s
      else if parity = .state then .next (fenceWalker ctx w s)
      else
        match walkString r st with
        | none => .next (missStep ctx 3 s)
        | some str =>
          let s := if parity = .data then refillWalker w m pat str s else s
          .next (continueWalk ctx w i m pat str (issueStep ctx (StepOut.ofMatches st.miss (walkMatches pat str) (s.now + stepCycles 3 str.length)) (count (cWalker w) 1 s)))
    | _, _ => .next s
  | none => .next s

/-- Transitions a 64 KiB walker cache holds (R128). -/
def walkerCacheSize : Nat := 32768

/-- A walk's transition read has returned: the result of its step is later by the cycles the read took (Table 6.7). -/
def lateBy (c i since : Nat) (s : State) : State :=
  modCtx c (fun r => { r with prog := r.prog.map (fun p =>
    { p with outs := p.outs.modify i (fun o => { o with due := o.due + (s.now - since) }) }) }) s

/-- The step of a poisoned transition is missing; it is no missing step of R121 and is not counted as one (R128). -/
def poisonWalk (c i : Nat) (s : State) : State :=
  modCtx c (fun r => { r with poi := true, prog := r.prog.map (fun p =>
    { p with outs := p.outs.modify i (fun o => StepOut.missing_ o.due), reading := none }) }) s

/-- WALKER_MISS_READ_DONE: the transition read returns. A poisoned word makes the step missing, sets POI and follows
R246; otherwise the transition is cached and the walk goes on (R128). A read that R231 refuses is a unit fault. -/
def execWalkerMissReadDone (ctx : CtxId) (s : State) : Host.Outcome State Fault Refusal :=
  match (s.ctx? ctx).bind (fun r => r.prog.bind (fun p => (s.model? r.model).map (fun m => (r, p, m)))) with
  | none => .next s
  | some (r, p, m) =>
    match p.walker, p.reading with
    | some w, some (i, since) =>
      match (m.image.program[i]?).bind (fun st => (kvGet m.image.patterns st.target).bind (fun pat =>
          (walkString r st).map (fun str => (pat, str)))) with
      | none => .next s
      | some (pat, str) =>
        match firstMiss (s.walker w).cache m pat str with
        | none => .next s
        | some a =>
          if filling s (a / 256) then .next s
          else if colRefused s m.id [a / 256] then
            .next (readRefused ctx (colRead 3 m.id (a / 256)) (clearRefused m.id [a / 256] s))
          else
            let s := lateBy ctx i since s
            let off := ((walkStates pat str pat.start).find? (fun x => plotAddr m.plots x.1 == a)).elim 0 (·.1)
            match colPoison s m off 2 with
            | some never => .next (modelPoison ctx never (poisonWalk ctx i s))
            | none =>
              .next (continueWalk ctx w i m pat str
                (modWalker w (fun x => { x with cache := (a :: x.cache).take walkerCacheSize }) s))
    | _, _ => .next s

/-! ## The record multicast (R337, R339, R340) -/

/-- The exponent of narrow values whose largest absolute value is `M` (R339). -/
def narrowExp (M : Frac) : Int :=
  if M.1 = 0 then -149
  else
    match (List.range 271).find? (fun i => fracLe M (scaleTwo 127 ((i : Int) - 149))) with
    | some i => (i : Int) - 149
    | none => 121

/-- The narrow code of a value at an exponent, and whether it was limited. -/
def narrowCode (v : Frac) (e : Int) : Int × Bool :=
  let k := roundEven (fracDiv v (scaleTwo 1 e))
  if k < -127 then (-127, true) else if 127 < k then (127, true) else (k, false)

/-- Largest of the last four completed ticks of a statistics record, untouched ticks as 0 (R104). -/
def fourTick (s : State) (x : StatRec) : Nat :=
  let age := s.time.tick - 1 - x.foldTick
  (x.last.take (4 - age)).foldl max 0

/-- The exact value of a kept number. -/
def keptFrac : Kept → Option Frac
  | .num true v => some (f32Val v)
  | .num false v => some (toSigned 64 v, 1)
  | _ => none

/-- One forwarded field: its 4 bytes and whether it was limited (R340). -/
def forwardField (s : State) (m : Model) (i : Nat) (k : Frac) : List Byte × Bool :=
  let slot := (m.image.fields[i]?).elim 0 (·.slot)
  let M := (kvGet s.stats (statKey m.id slot)).elim 0 (fourTick s)
  let e := narrowExp (f32Val M)
  let c := narrowCode k e
  (beBytes 2 i ++ beBytes 1 (ofSigned 8 e) ++ beBytes 1 (ofSigned 8 c.1), c.2)

/-- Kept numeric fields of a record in field order, up to 64 (R340, log 20). -/
def forwardable (r : RecCtx) : List (Nat × Frac) :=
  ((sortBy (fun a b => a.1 ≤ b.1) r.kept).filterMap (fun x => (keptFrac x.2).map (fun f => (x.1, f)))).take 64

/-- One more than the highest slot written, at least 1 (R337). -/
def slotCount (r : RecCtx) : Nat := max 1 (r.slots.foldl (fun a p => max a (p.1 + 1)) 0)

/-- The slot codes 0 to S − 1. -/
def slotBytes (r : RecCtx) (n : Nat) : List Byte := (List.range n).map (fun i => BitVec.ofNat 8 ((kvGet r.slots i).getD 0xFE))

/-- A side-list entry's 12 bytes (R77). -/
def SideEntry.bytes (e : SideEntry) : List Byte :=
  beBytes 2 e.slot ++ beBytes 1 (if e.isFp then 1 else 0) ++ [0] ++ beBytes 8 (ofSigned 64 e.value)

/-- Member 0 multicasts a record's codes, side list and forwarded fields to the model's group (R337). -/
def sendRecordMc (c : Nat) (s : State) : State :=
  match (s.ctx? c).bind (fun r => (s.model? r.model).map (fun m => (r, m))) with
  | none => s
  | some (r, m) =>
    if m.image.members ≤ 1 ∨ m.member ≠ 0 then s
    else
      let n := slotCount r
      let fw := (forwardable r).map (fun x => forwardField s m x.1 x.2)
      let body := beBytes 8 r.recId ++ beBytes 2 n ++ beBytes 1 r.side.length ++ beBytes 1 fw.length ++ zeros 4 ++
        fitBytes (slotBytes r n) (alignUp n 8) ++ r.side.flatMap SideEntry.bytes ++ fw.flatMap (·.1)
      let msg := mkMsg s 0x45 m.group r.tenant (if m.latency then 5 else 1) c (beBytes 2 r.handle ++ zeros 4) body
      let s := count (cZth 3) (fw.countP (·.2)) s
      modCtx c (fun r => { r with mcAt := some s.now }) (send msg s)

/-- The outstanding step whose result is due first; a walk that awaits a read has none (R125, Table 6.7). -/
def dueStep (p : Prog) : Option Nat :=
  ((List.range p.outs.length).filter (fun i => !p.arrived.contains i && p.reading.elim true (fun x => x.1 != i))).foldl
    (fun a i => match a with
      | none => some i
      | some j => if (p.outs[i]?).elim 0 (·.due) < (p.outs[j]?).elim 0 (·.due) then some i else a) none

/-- STEP_RESULT: the outstanding result of a record's program that is due first arrives. After the last, every destination
is written, the walker is free, and member 0 sends the record's multicast (R122, R125, R337). -/
def execStepResult (ctx : CtxId) (s : State) : Host.Outcome State Fault Refusal :=
  match (s.ctx? ctx).bind (fun r => r.prog.bind (fun p => (s.model? r.model).map (fun m => (p, m)))) with
  | none => .next s
  | some (p, m) =>
    match dueStep p with
    | none => .next s
    | some i =>
      let s := modCtx ctx (fun r => { r with prog := some { p with arrived := p.arrived ++ [i] } }) s
      if p.arrived.length + 1 < m.image.program.length then .next s
      else
        let s := modCtx ctx (fun r => { r with
          slots := (programWrites m.image.program p.outs).foldl (fun k w => kvPut 0xFE k w.1 w.2) r.slots }) s
        let s := giveBack ((p.walker.map Credit.walker).toList) { s with walkers := s.walkers.map (Walker.drop ctx) }
        .next (sendRecordMc ctx (count (cSgp 4) 1 s))

/-! ## The queue to the dispatcher (Table 12.4) -/

/-- A finished program hands its record to the dispatcher when the queue has an entry, and its program context is free. -/
def handOver (c : Nat) (s : State) : State :=
  match (s.ctx? c).bind (fun r => (s.model? r.model).map (fun m => (r, m))) with
  | none => s
  | some (r, m) =>
    if programDone m r && dispRoom s (pipeOf s r) then
      giveBack [.prog] (modDisp (fun d => { d with inq := d.inq ++ [c] }) { s with progs := s.progs.filter (· != c) })
    else s

/-- Committed records with no derivation program at the head of a pipeline's queue skip Signpost (R95, R122); member 0
multicasts each as it goes. -/
def passSkips : Nat → Nat → State → State
  | 0, _, s => s
  | n + 1, pipe, s =>
    match s.trhQ.getD pipe [] with
    | [] => s
    | c :: rest =>
      match (s.ctx? c).bind (fun r => (s.model? r.model).map (fun m => (r, m))) with
      | none => s
      | some (r, m) =>
        if r.committed && m.image.program.isEmpty && dispRoom s pipe then
          passSkips n pipe (sendRecordMc c (modDisp (fun d => { d with inq := d.inq ++ [c] }) { s with trhQ := s.trhQ.set pipe rest }))
        else s

/-- Every record that can passes from Signpost and Trailhead to the dispatcher. -/
def fillDispatch (s : State) : State :=
  let s := s.progs.foldl (fun s c => handOver c s) s
  (List.range 2).foldl (fun s p => passSkips (s.trhQ.getD p []).length p s) s

/-- The cause of a program's stall in a cycle, as its counter's number: the first of Table 6.10 that applies (R137). -/
def progStall (s : State) (c : Nat) : Option Nat :=
  (s.ctx? c).bind (fun r => r.prog.bind (fun p => (s.model? r.model).bind (fun m =>
    if p.reading.isSome then some 0
    else if programDone m r then some 3
    else (m.image.program[p.outs.length]?).bind (fun st =>
      if waitsOn m.image.program p st then some 2
      else if wantsBank s st.target c && !(s.bank st.target).fenced && !bankTurn s st.target c then some 1
      else none))))

/-! ## Shadow copy and compare (R133 to R136) -/

/-- Device address of word `i` of an entry's shadow: 24 bytes per unit in the bank's 96 KiB of plot 913 (log 21). -/
def shadowAddr (b width e i : Nat) : Nat := 913 * plotSize + b * 98304 + e * 24 * width + 8 * i

/-- An entry no command has written. -/
def Entry.none_ : Entry := ⟨0, 0, false, false⟩

/-- Fence a bank (R136). -/
def fenceBank (b cause : Nat) (s : State) : State :=
  raise 0x0203 0xFF (leBytes 1 b ++ leBytes 1 cause) (modBank b (fun x => { x with fenced := true }) s)

/-- Repair entry `e` of a bank from its shadow (R134, R136). -/
def restoreEntry (b e : Nat) (readBackBad : Bool) (s : State) : State :=
  let k := s.bank b
  let sh := (kvGet k.shadow e).getD Entry.none_
  let fixed := { sh with valid := sh.valid && !readBackBad, written := ((kvGet k.entries e).getD Entry.none_).written }
  let n := k.restores + 1
  let s := modBank b (fun x => { x with entries := kvPut Entry.none_ x.entries e fixed, restores := n }) s
  let s := raise 0x0201 (k.owner.getD 0xFF) (leBytes 1 b ++ [0] ++ leBytes 2 e) (count (cBank b 2) 1 s)
  if readBackBad then fenceBank b 0 s else if n = 16 then fenceBank b 1 s else s

/-- SHADOW_COMPARE: the engine compares the next entry of a bank with its shadow, repairing a mismatch, or skips it while
its shadow is uncorrectable, newly found or poisoned before (R133 to R135, R240); it holds the bank for w cycles. A fenced
bank is not compared. `found` is what the array holds, when an upset
changed it. -/
def execShadowCompare (bank : BankId) (found : Option FoundEntry) (shadow : List EccFind) (readBackBad : Bool) (s : State) :
    Host.Outcome State Fault Refusal :=
  let k := s.bank bank
  let e := k.ptr % k.size
  if k.fenced then .next s
  else
    let s := modBank bank (fun x => { x with ptr := (e + 1) % k.size, busy := max x.busy s.now + k.width }) s
    if k.shadowBad.contains e then .next s
    else
      let a := shadowAddr bank k.width e 0
      let r := readWords shadow 5 false a (24 * k.width) s
      match firstPoison r.1.mem a (24 * k.width) with
      | some w =>
        let ev : Raised := (0x0202, 0xFF, leBytes 1 bank ++ [0] ++ leBytes 2 e ++ zeros 4 ++ leBytes 5 w)
        .next (raiseCycle (r.2 ++ [ev]) (modBank bank (fun x => { x with shadowBad := setAdd x.shadowBad e }) r.1))
      | none =>
        let sh := (kvGet k.shadow e).getD Entry.none_
        let cur := (kvGet k.entries e).getD Entry.none_
        let held : FoundEntry := found.getD ⟨cur.units, cur.result, cur.valid⟩
        let s := raiseCycle r.2 r.1
        if held.units = sh.units ∧ held.result = sh.result ∧ held.valid = sh.valid then .next s
        else .next (restoreEntry bank e readBackBad s)

/-! ## Entry operations (R115, R129) -/

/-- One operation of an entry command: 1 INVALIDATE, 2 WRITE, 3 VALIDATE, 4 MOVE. -/
structure EntryOp where
  op : Nat
  entry : Nat
  dest : Nat
  result : Nat
  units : Nat
deriving DecidableEq, Repr

/-- No byte of a result word is 0xFF (R115). -/
def resultOk (w : Nat) : Bool := (List.range 4).all (fun i => w / 256 ^ i % 256 != 0xFF)

/-- Why an operation is refused: 1 bad entry, 2 entry state (R129). -/
def entryRefusal (b : Bank) (o : EntryOp) : Option Nat :=
  let e := (kvGet b.entries o.entry).getD Entry.none_
  let d := (kvGet b.entries o.dest).getD Entry.none_
  if o.op < 1 ∨ 4 < o.op ∨ b.size ≤ o.entry ∨ (o.op = 4 ∧ b.size ≤ o.dest) then some 1
  else if o.op = 2 ∧ !(entryOk b.range b.width b.domain o.units && resultOk o.result) then some 1
  else if (o.op = 2 ∧ e.valid) ∨ (o.op = 3 ∧ (e.valid ∨ !e.written)) ∨
      (o.op = 4 ∧ (!e.valid ∨ d.valid ∨ o.entry = o.dest)) then some 2
  else none

/-- Put an entry in the shadow and the bank. -/
def Bank.put (b : Bank) (i : Nat) (e : Entry) : Bank :=
  { b with entries := kvPut Entry.none_ b.entries i e, shadow := kvPut Entry.none_ b.shadow i { e with written := false } }

/-- Apply an operation whose preconditions hold (Table 6.9). -/
def entryApply (bank : Nat) (o : EntryOp) (s : State) : State :=
  let b := s.bank bank
  let e := (kvGet b.entries o.entry).getD Entry.none_
  let clean := fun (i : Nat) (s : State) =>
    modMem (fun m => unpoison m (shadowAddr bank b.width i 0) (24 * b.width))
      (modBank bank (fun x => { x with shadowBad := x.shadowBad.filter (· != i) }) s)
  match o.op with
  | 1 => modBank bank (fun x => x.put o.entry { e with valid := false, written := false }) s
  | 2 => clean o.entry (modBank bank (fun x => x.put o.entry ⟨o.units, o.result, false, true⟩) s)
  | 3 => modBank bank (fun x => x.put o.entry { e with valid := true }) s
  | _ => clean o.dest (modBank bank (fun x =>
      (x.put o.dest { e with valid := true, written := true }).put o.entry { e with valid := false, written := false }) s)

/-- Run an entry command's operations until the first refused one: its index and why, and the state (R131). -/
def runEntryOps (bank : Nat) : Nat → List EntryOp → State → Option (Nat × Nat) × State
  | _, [], s => (none, s)
  | i, o :: r, s =>
    match entryRefusal (s.bank bank) o with
    | some why => (some (i, why), s)
    | none => runEntryOps bank (i + 1) r (entryApply bank o s)

/-- A released bank: nothing valid, everything 0, the configuration of R111 (R112). Its fence stays until reset, and the compare engine's pace. -/
def releaseBank (b : Nat) (s : State) : State :=
  modMem (fun m => unpoison m (913 * plotSize + b * 98304) 98304)
    (modBank b (fun x => { Bank.reset with fenced := x.fenced, fencedView := x.fencedView, restores := x.restores, busy := x.busy }) s)

end Sys2Proof.Machine
end

