-- ==== Sys2Proof/Machine/Trees.lean ====
section
/-! DEFINITION. Tree evaluation: node outcomes, the path decoder, leaf values and the reduction of a pass to partials (chapter 7). -/

namespace Sys2Proof.Machine

/-! ## Gathered codes (R92, R150) -/

/-- The code a slot of the record reads. -/
def RecCtx.code (r : RecCtx) (slot : Nat) : Nat := (kvGet r.slots slot).getD 0xFE

/-- The exact value of the side-list entry of a slot (R39); a slot that holds 0xFF always has one (R102). -/
def RecCtx.sideFrac (r : RecCtx) (slot : Nat) : Frac :=
  match r.side.find? (·.slot == slot) with
  | some e => if e.isFp then f32Val e.value.toNat else (e.value, 1)
  | none => (0, 1)

/-- The exact value of an exact threshold (Table 7.6). -/
def Exact.frac (x : Exact) : Frac := if x.isFp then f32Val x.value.toNat else (x.value, 1)

/-! ## Node outcomes (R143, R144) -/

/-- Whether the relation of an EXACT node holds (Table 7.5). -/
def exactHolds (r : RecCtx) (slot g : Nat) (x : Exact) : Bool :=
  if g = 0xFF then
    (if x.le then fracLe (r.sideFrac slot) x.frac else fracLt (r.sideFrac slot) x.frac)
  else if x.le then g ≤ x.code else g < x.code

/-- The outcome bit of a node: false left, true right (Table 7.5, first row that applies). -/
def outcome (t : Tree) (r : RecCtx) (n : Node) : Bool :=
  let slot := t.nodeSlot n
  let g := r.code slot
  match n.op with
  | .pad => false
  | .leaf _ => false
  | .lt k => if g = 0xFE then n.right else !decide (g < k)
  | .le k => if g = 0xFE then n.right else !decide (g ≤ k)
  | .set i => if g = 0xFE then n.right else !bit (t.sets.getD i 0) g
  | .exact i => if g = 0xFE then n.right else !exactHolds r slot g (t.exacts.getD i ⟨0, false, false, 0⟩)

/-! ## The path decoder and leaves (R145 to R148) -/

/-- The heap index the path reaches after `d` levels from heap index `h`. -/
def pathTo (o : Nat → Bool) : Nat → Nat → Nat
  | 0, h => h
  | d + 1, h => pathTo o d (2 * h + (if o h then 1 else 0))

/-- The leaf index of the outcome bits `o` at depth `d` (R145). -/
def leafIndex (o : Nat → Bool) (d : Nat) : Nat := pathTo o d 1 - 2 ^ d

/-- What one engine's leaf stage delivers: the value, its flags and the leaf index (R149, R351). -/
structure LeafOut where
  value : Int
  flags : Nat
  index : Nat
deriving DecidableEq, Repr

/-- A term of a linear leaf (R43): missing and escaped codes contribute 0. -/
def linTerm (t : Tree) (r : RecCtx) (x : LinTerm) : Int :=
  let f := t.fmap.getD x.feature (0, 0)
  let g := r.code f.1
  if 0xFE ≤ g then 0 else toSigned 4 x.weight * ((g : Int) - f.2)

/-- The value of a leaf and whether it saturated (R43, R147). -/
def leafValue (t : Tree) (r : RecCtx) (l : Leaf) : Int × Nat :=
  if t.fmt = 2 then
    q16Sat (l.raw + ((l.terms.map (linTerm t r)).sum) * (2 ^ l.shift : Nat))
  else (l.raw, 0)

/-- The outcome at a heap index of a flat-form tree. -/
def Tree.at (t : Tree) (r : RecCtx) (h : Nat) : Bool :=
  match t.nodes[h - 1]? with
  | some n => outcome t r n
  | none => false

/-- A flat-form tree on a record: every node compared, the path decoded, the leaf read (R143 to R149). -/
def evalFlat (t : Tree) (r : RecCtx) : LeafOut :=
  let i := leafIndex (t.at r) t.depth
  let v := leafValue t r (t.leaves.getD (popBits t.bitmap i) ⟨0, 0, []⟩)
  ⟨v.1, v.2 ||| (if t.fmap.any (fun f => r.code f.1 == 0xFF) then flagEsc else 0), i⟩

/-- A trail-walk: one node per level from `i`; the flag tells whether a node on the path gathered 0xFF (R151, R152). -/
def walkTree (t : Tree) (r : RecCtx) : Nat → Nat → Bool → LeafOut
  | 0, i, esc => ⟨0, if esc then flagEsc else 0, i⟩
  | k + 1, i, esc =>
    match t.nodes[i]? with
    | none => ⟨0, if esc then flagEsc else 0, i⟩
    | some n =>
      match n.op with
      | .leaf v => ⟨if t.fmt = 0 then toSigned 16 v else v, if esc then flagEsc else 0, i⟩
      | _ => walkTree t r k (if outcome t r n then n.rgt else n.left) (esc || r.code (t.nodeSlot n) == 0xFF)

/-- One engine's tree on a record. -/
def evalTree (t : Tree) (r : RecCtx) : LeafOut :=
  if t.flat then evalFlat t r else walkTree t r (t.depth + 1) 0 false

/-! ## Reduction (R154, R155) -/

/-- The partial of one channel from its leaves in ascending engine index. -/
def reduceChannel (fmode : Bool) (ls : List LeafOut) : Val :=
  let fl := ls.foldl (fun a l => a ||| l.flags) 0
  if fmode then
    let x := pairwise (ls.map (fun l => l.value.toNat))
    ⟨x.1, fl ||| x.2⟩
  else ⟨(ls.map (·.value)).sum, fl⟩

/-- The channels present among placed trees, ascending. -/
def channelsOf (ps : List Placed) : List Nat := ps.foldl (fun a p => setAdd a p.tree.channel) []

/-- Placed trees of one Ridge in ascending engine index. -/
def byEngine (ps : List Placed) : List Placed := sortBy (fun a b => a.engine ≤ b.engine) ps

/-- The partials of a pass on one Ridge: one for each channel present among its tables. -/
def reducePass (fmode : Bool) (r : RecCtx) (ps : List Placed) : List Partial :=
  let ps := byEngine ps
  (channelsOf ps).map (fun c =>
    ⟨c, reduceChannel fmode ((ps.filter (·.tree.channel == c)).map (fun p => evalTree p.tree r))⟩)

/-! ## Tree sets (R138, R152) -/

/-- Trees of this chip's member under a leaf version (R360). -/
def Model.treesAt (m : Model) (v : Nat) : List Placed :=
  (m.versions.getD v m.image.trees).filter (·.member == m.member)

/-- The leaf version in force: one more entry stands for each commit. -/
def Model.version (m : Model) : Nat := m.versions.length - 1

/-- Trees of one pass. -/
def Model.passTrees (m : Model) (v pass : Nat) : List Placed := (m.treesAt v).filter (·.pass == pass)

/-- Trees of one pass on one logical Ridge. -/
def Model.setTrees (m : Model) (v pass j : Nat) : List Placed := (m.passTrees v pass).filter (·.ridge == j)

/-- Passes of this chip's member. -/
def Model.passCount (m : Model) : Nat := memberPasses m.image.trees m.member

/-- Logical Ridges of a pass, ascending. -/
def Model.passRidges (m : Model) (v pass : Nat) : List Nat := (m.passTrees v pass).foldl (fun a p => setAdd a p.ridge) []

/-- Ridge-slots of a pass on one logical Ridge (R152). -/
def Model.slotsOn (m : Model) (v pass j : Nat) : Nat := setSlots ((m.setTrees v pass j).map (·.tree))

/-- A channel's expected mask: the logical Ridges that produce a partial of it in the pass (R172). -/
def expectedMasks (ps : List Placed) : List (Nat × Nat) :=
  (channelsOf ps).map (fun c => (c, (ps.filter (·.tree.channel == c)).foldl (fun a p => a ||| 2 ^ p.ridge) 0))

/-- Cycles from a pass's issue to the end of its leaf stage, and to its entry in the output queue (Table 7.8, R152). -/
def passTiming (fmode : Bool) (ps : List Placed) : Nat × Nat :=
  let deep := ps.foldl (fun a p => if p.tree.flat then a else max a (3 * p.tree.depth + 3)) 0
  let leaf := max deep (if ps.any (fun p => p.tree.flat && p.tree.fmt == 2) then 11 else 9)
  (leaf, leaf + (if fmode then 12 else 6))

/-- Units of the largest table of a set. -/
def largestUnits (ps : List Placed) : Nat := ps.foldl (fun a p => max a p.tree.units) 0

end Sys2Proof.Machine
end

