-- ==== Sys2Proof/Machine/Energy.lean ====
section
/-! DEFINITION. The prices of steps, passes, loads and records, from the energy cost table (R261 to R263). -/

namespace Sys2Proof.Machine

/-- The price of a step: an AUTOMATON step walks `bytes` bytes. -/
def stepPrice (p : Point) (st : Step) (bytes : Nat) : Nat :=
  if st.op = 4 then scalePrice p priceNext
  else if st.op = 3 then scalePrice p priceWalk + bytes * scalePrice p priceWalkByte
  else scalePrice p priceSearch

/-- Price of the steps of a program; `bytes` gives the string bytes each AUTOMATON step walks. -/
def programPrice (p : Point) (prog : List Step) (bytes : Step → Nat) : Nat :=
  (prog.map (fun st => stepPrice p st (bytes st))).sum

/-- Bytes of the string a record's AUTOMATON step walks. -/
def walkedBytes (r : RecCtx) (st : Step) : Nat := (walkString r st).elim 0 (·.length)

/-- Ridge-slots of one pass of a model over its Ridges. -/
def Model.passSlots (m : Model) (v pass : Nat) : Nat := ((m.passRidges v pass).map (m.slotsOn v pass)).sum

/-- Price of one pass: its Ridge-slots and its row (R263). -/
def passPrice (p : Point) (m : Model) (v pass : Nat) : Nat :=
  m.passSlots v pass * scalePrice p priceSlot + scalePrice p priceRow

/-- Load price of a set on one Ridge: warm by the unit of its largest table, cold by the KiB (R258, Table 12.2). -/
def loadPriceOn (p : Point) (m : Model) (v pass j : Nat) : Nat :=
  let ts := m.setTrees v pass j
  if m.residency = 1 then largestUnits ts * scalePrice p priceWarmUnit
  else if m.residency = 2 then (ts.map (·.tree.units)).sum * scalePrice p priceColdKib
  else 0

/-- Load price of a pass's set on each of its Ridges. -/
def loadPrice (p : Point) (m : Model) (v pass : Nat) : Nat := ((m.passRidges v pass).map (loadPriceOn p m v pass)).sum

/-- Loaded models of a head's stages after the head (R215). -/
def stageModels (s : State) (m : Model) : List Model :=
  m.image.cascade.filterMap (fun st => s.handle? m.tenant st.handle)

/-- Transfer units of a ring record: its element's and its answer's, in 256 bytes (R307). -/
def ringUnits (s : State) (m : Model) (g number : Nat) : Nat :=
  let last := (stageModels s m).getLast?.getD m
  let l0 := ((s.stream g).descs.find? (·.number == number)).elim 0 (·.l0)
  max 1 (ceilDiv l0 256) + ceilDiv (28 + 8 * last.image.channels) 256

/-- Record-level price charged with pass 0 of a record: admission, the steps it ran, its Summit cycles (R263), and the
transfer units of a ring record (R307). A Detour candidate pays its Summit cycles alone (R366). -/
def recordLevel (s : State) (p : Point) (m : Model) (r : RecCtx) : Nat :=
  let summit := (if m.image.cascade.isEmpty then (m.image.costs.getD m.member ⟨0, 0, 0, 0, []⟩).summit
    else (stageModels s m).getLast?.elim 0 (fun x => summitCycles x.image.channels x.image.out.link)) * scalePrice p priceSummit
  match r.src with
  | .detour _ _ => summit
  | .ring g number _ => ringUnits s m g number * scalePrice p priceDma + scalePrice p priceRecord +
      programPrice p m.image.program (walkedBytes r) + summit
  | _ => scalePrice p priceRecord + (if m.member = 0 then programPrice p m.image.program (walkedBytes r) else 0) + summit

/-- Record price of a model's own passes for planning: with every pass, and one warm load per pass and Ridge (R263). -/
def stagePrice (p : Point) (m : Model) : Nat :=
  ((List.range m.passCount).map (fun q => passPrice p m m.version q +
    (if m.residency = 1 then loadPrice p m m.version q else 0))).sum

/-- The record price of a LATENCY model: a full AUTOMATON string, its stages, and its terms when it is distributed
(R263). `stages` are the loaded stage models of its cascade. -/
def recordPrice (p : Point) (m : Model) (stages : List Model) : Nat :=
  let cost := m.image.costs.getD m.member ⟨0, 0, 0, 0, []⟩
  let last := stages.getLast?.getD m
  scalePrice p priceRecord + (if m.member = 0 then programPrice p m.image.program (fun _ => 255) else 0) +
    (if stages.isEmpty then cost.summit else summitCycles last.image.channels last.image.out.link) * scalePrice p priceSummit +
    stagePrice p m + (stages.map (stagePrice p)).sum +
    (if 1 < m.image.members then (if m.member = 0 then m.image.members - 1 else 1) * scalePrice p priceTerms else 0)

/-- The record price of a model at a point. -/
def State.recordPrice (s : State) (p : Point) (m : Model) : Nat := Machine.recordPrice p m (stageModels s m)

/-- Ridge-slots per record that a model and its stages cost one physical Ridge, through each model's Ridge map (R253). -/
def ridgeSlots (ms : List Model) (phys : Nat) : Nat :=
  (ms.map (fun m =>
    let c := m.image.costs.getD m.member ⟨0, 0, 0, 0, []⟩
    ((c.slots.zip m.ridgeMap).map (fun x => if x.2 = phys ∧ x.1 ≠ 0 then x.1 else 0)).sum)).sum

/-- The model evaluated at a record's current stage: the head, or the stage's model (R215). -/
def stageModel (s : State) (r : RecCtx) : Option Model :=
  (s.model? r.model).bind (fun h =>
    if r.stage = 0 then some h else (h.image.cascade[r.stage - 1]?).bind (fun st => s.handle? r.tenant st.handle))

/-- Stages of a record's cascade, the head among them. -/
def stageCount (s : State) (r : RecCtx) : Nat := 1 + (s.model? r.model).elim 0 (·.image.cascade.length)

end Sys2Proof.Machine
end

