-- ==== Sys2Proof/Machine/Ridges.lean ====
section
/-! DEFINITION. Ridges: the record window, set loads, pass issue, partials, the canary, fencing and stand-ins (chapter 7, R420 to R425). -/

namespace Sys2Proof.Machine

/-! ## Which physical Ridge serves a logical one (R163, R420) -/

/-- A spare that stands in for a fenced Ridge and has not been remapped (R420). -/
def Ridge.standsIn (x : Ridge) : Bool := x.spare && x.logical.isSome

/-- The physical Ridge that does the work of physical Ridge `p`: itself, or its stand-in. -/
def serving (s : State) (p : Nat) : Option Nat :=
  let x := s.ridge p
  if 68 ≤ p then none
  else if !x.fenced then some p
  else x.logical.bind (fun l => (List.range 68).find? (fun q => !(s.ridge q).fenced && (s.ridge q).logical == some l))

/-- The physical Ridge that runs logical Ridge `j` of a model. -/
def servingOf (s : State) (m : Model) (j : Nat) : Option Nat := serving s (m.ridgeMap.getD j 0xFF)

/-- The lowest-numbered remaining spare (R23). -/
def freeSpare (s : State) (besides : Nat) : Option Nat :=
  (List.range 68).find? (fun q => q != besides && (s.ridge q).spare && (s.ridge q).logical.isNone && !(s.ridge q).fenced)

/-- Logical Ridges of a model's set that physical Ridge `q` runs in a pass. -/
def logicalOn (s : State) (m : Model) (v pass q : Nat) : List Nat :=
  (m.passRidges v pass).filter (fun j => servingOf s m j == some q)

/-! ## Tree sets on a Ridge (R156 to R158) -/

/-- The set a bound or issued pass needs, with its model. -/
def passSet (s : State) (ctx pass : Nat) : Option (Model × SetId) :=
  (s.ctx? ctx).bind (fun r => (stageModel s r).map (fun m => (m, ⟨m.id, pass, r.version⟩)))

/-- Trees of a set on physical Ridge `q`. -/
def treesOn (s : State) (id : SetId) (q : Nat) : List Placed :=
  match s.model? id.model with
  | none => []
  | some m => (m.passTrees id.version id.pass).filter (fun p => servingOf s m p.ridge == some q)

/-- A hot set stands in the active buffers and is never switched; a stand-in must load it first (R155, R420). -/
def residentHot (s : State) (id : SetId) (q : Nat) : Bool :=
  ((s.model? id.model).elim false (fun m => m.residency == 0)) && !(s.ridge q).standsIn

/-- The set's buffer is loaded on Ridge `q`. -/
def setReady (s : State) (id : SetId) (q : Nat) : Bool :=
  let x := s.ridge q
  residentHot s id q || (x.active.set == some id && x.active.loaded) || (x.inactive.set == some id && x.inactive.loaded)

/-- The set stands in a buffer, loaded or loading. -/
def setNamed (s : State) (id : SetId) (q : Nat) : Bool :=
  residentHot s id q || (s.ridge q).active.set == some id || (s.ridge q).inactive.set == some id

/-- Image ranges of a set's tables on a Ridge. -/
def setRanges (s : State) (id : SetId) (q : Nat) : List (Nat × Nat) :=
  match s.model? id.model with
  | none => []
  | some m => (treesOn s id q).map (fun p => (m.image.treeOff + p.off, 1024 * p.tree.units))

/-- A set loads from the master copy through the Col cache: a cold set, or any set on a stand-in, but for trail-walk
tables that firmware has written into its Ridge SRAM (R156, R420, R421). -/
def fromMaster (s : State) (id : SetId) (q : Nat) : Bool :=
  ((s.model? id.model).elim false (fun m => m.residency == 2)) ||
    ((s.ridge q).standsIn && (treesOn s id q).all (·.tree.flat))

/-- Firmware has written the model's units into this Ridge's SRAM. -/
def unitsWritten (s : State) (id : SetId) (q : Nat) : Bool :=
  (s.model? id.model).elim false (fun m => m.unitsHeld.any (fun u => u.1 == q))

/-- Read the master copy of a set's tables through the Col cache. -/
def readMaster (id : SetId) (q : Nat) (s : State) : State :=
  match s.model? id.model with
  | none => s
  | some m => (setRanges s id q).foldl (fun s x => (imageLines m x.1 x.2).foldl (fun s l => colRead 1 m.id l s) s) s

/-- Col cache lines of a set's tables. -/
def setLines (s : State) (id : SetId) (q : Nat) : List Nat :=
  match s.model? id.model with
  | none => []
  | some m => (setRanges s id q).flatMap (fun x => imageLines m x.1 x.2)

/-- Every line of a set's tables has been served. -/
def masterServed (s : State) (id : SetId) (q : Nat) : Bool := (setLines s id q).all (fun l => !filling s l)

/-- The poison a set's master tables hold: none, in blocks being healed (false), or never to be healed (true). -/
def setPoison (s : State) (id : SetId) (q : Nat) : Option Bool :=
  match s.model? id.model with
  | none => none
  | some m => (setRanges s id q).foldl (fun a x =>
      match a, colPoison s m x.1 x.2 with
      | some true, _ => some true
      | _, some true => some true
      | some false, _ => some false
      | none, p => p) none

/-- A table unit of the set carries a poison mark (R424); a set read from the master copy reads no unit. -/
def setMarked (s : State) (id : SetId) (q : Nat) : Bool :=
  match s.model? id.model with
  | none => false
  | some m => !fromMaster s id q && m.unitsHeld.any (fun u => u.1 == q &&
      (List.range u.2.2.2.1).any (fun i => (s.ridge q).marks.contains (u.2.1, u.2.2.1 + i)))

/-- Charge a load as it is done, at the warm or cold price; a stand-in's load counts as warm (R263, R421). -/
def chargeLoad (id : SetId) (q : Nat) (s : State) : State :=
  let ts := treesOn s id q
  if (s.model? id.model).elim false (fun m => m.residency == 2) then
    chargeWork ((ts.map (·.tree.units)).sum) priceColdKib s
  else chargeWork (largestUnits ts) priceWarmUnit s

/-! ## The record window (R159) -/

/-- BROADCAST_DONE: a record with a pass bound to the Ridge enters its window, unless all 16 entries are in use; a fenced
Ridge accepts no broadcast. -/
def execBroadcastDone (ctx : CtxId) (ridge : RidgeId) (s : State) : Host.Outcome State Fault Refusal :=
  let x := s.ridge ridge
  if x.fenced || x.window.contains ctx || 16 ≤ x.window.length + s.unusable (.window ridge) || !x.bound.any (·.ctx == ctx) then .next s
  else .next (modRidge ridge (fun x => { x with window := x.window ++ [ctx.val] }) s)

/-! ## Issue order (R259) -/

/-- Order of two bound passes: class; LATENCY passes in order of admission; THROUGHPUT passes by model and set in ascending
pass index. -/
def boundLe (s : State) (a b : Bound) : Bool :=
  if a.prio ≠ b.prio then a.prio < b.prio
  else if a.prio = 0 then (s.ctx? a.ctx).elim 0 (·.place) ≤ (s.ctx? b.ctx).elim 0 (·.place)
  else if a.prio = 2 then
    let ma := (passSet s a.ctx a.pass).elim 0 (·.2.model)
    let mb := (passSet s b.ctx b.pass).elim 0 (·.2.model)
    ma < mb || (ma == mb && a.pass ≤ b.pass)
  else true

/-- Bound passes of a Ridge in the order of R259. -/
def boundOrder (s : State) (q : Nat) : List Bound := sortBy (boundLe s) (s.ridge q).bound

/-- A pass may run in this tick (a replay runs in the tick after the fence). -/
def Bound.due (b : Bound) (s : State) : Bool := b.fromTick ≤ s.time.tick

/-- A pass is ready: its record is in the window and its set's buffer is loaded (R259). -/
def passReady (s : State) (q : Nat) (b : Bound) : Bool :=
  b.due s && (s.ridge q).window.contains b.ctx && (passSet s b.ctx b.pass).elim false (fun p => setReady s p.2 q)

/-- The output queue holds 2 entries: the oldest passes of the pipeline, once reduced (R155). -/
def queueFull (s : State) (q : Nat) : Bool :=
  2 ≤ (s.ridge q).pipe.countP (fun e => e.queued ≤ s.now) + s.unusable (.ridge q)

/-- The stall cause of a Ridge in a cycle, as its counter's number: the first of Table 7.9 that applies (R164). -/
def ridgeStall (s : State) (q : Nat) : Option Nat :=
  let x := s.ridge q
  let due := x.bound.filter (fun b => b.due s)
  if x.fenced || due.isEmpty then none
  else if queueFull s q then some 0
  else if due.any (passReady s q) then none
  else if due.any (fun b => (passSet s b.ctx b.pass).elim false (fun p => !setReady s p.2 q)) then some 1
  else some 2

/-! ## Set loads -/

/-- The set the dispatcher names next on a Ridge: the first bound pass whose set stands in no buffer. -/
def namedSet (s : State) (q : Nat) : Option (Bound × SetId) :=
  (boundOrder s q).findSome? (fun b =>
    match passSet s b.ctx b.pass with
    | some (_, id) => if b.due s && !setNamed s id q then some (b, id) else none
    | none => none)

/-- The inactive buffers may be overwritten: not loading, not awaited by a bound pass, and past the leaf stage of the last
pass that uses them (R156). -/
def bufferFree (s : State) (q : Nat) : Bool :=
  let b := (s.ridge q).inactive
  match b.set with
  | none => true
  | some id =>
    let uses := fun (c p : Nat) => (passSet s c p).elim false (fun x => x.2 == id)
    b.loaded && !(s.ridge q).bound.any (fun x => uses x.ctx x.pass) &&
      !(s.ridge q).pipe.any (fun e => s.now < e.leafEnd && uses e.ctx e.pass)

/-- SET_LOAD_START: the named set begins to load into the inactive buffers (R156). A set with a trail-walk table waits on
a stand-in until firmware has written it (R421). -/
def execSetLoadStart (ridge : RidgeId) (s : State) : Host.Outcome State Fault Refusal :=
  let q := ridge.val
  if (s.ridge q).fenced || !bufferFree s q then .next s
  else
    match namedSet s q with
    | none => .next s
    | some (_, id) =>
      let held := (s.ridge q).standsIn && !(treesOn s id q).all (·.tree.flat) && !unitsWritten s id q
      if held then .next s
      else
        let s := chargeLoad id q s
        let s := if fromMaster s id q then readMaster id q s else s
        .next (modRidge q (fun x => { x with inactive := ⟨some id, false, false⟩ }) s)

/-! ## Fencing (R162, R420, R422) -/

/-- Distinct sets of passes, in order, at most two: the two table buffers (R420). -/
def standInSets (s : State) (ps : List (Nat × Nat)) : List SetId :=
  ((ps.filterMap (fun p => (passSet s p.1 p.2).map (·.2))).foldl (fun a id => if a.contains id then a else a ++ [id]) []).take 2

/-- A candidate whose passes a fence discarded is requested again (R370). -/
def requestAgain (c slot k : Nat) (s : State) : State :=
  let s := freeContext c s
  let s := { s with searches := kvMod s.searches slot (fun x => { x with
    cands := x.cands.modify k (fun y => { y with granted := false }) }) }
  modDisp (fun d => { d with bg := d.bg ++ [.candidate slot k] }) s

/-- A record whose pass a fence discarded, by its policy; a candidate is requested again, or ends its search when no
stand-in remains (R370, R417, R422). -/
def lostPass (es : List QEntry) (replayable : Bool) (c : Nat) (s : State) : State :=
  match s.ctx? c with
  | none => s
  | some r =>
    match r.src with
    | .detour slot k => if replayable then requestAgain c slot k s else endSearch slot false s
    | _ =>
      if replayable && (s.tenant r.tenant).quota.policy == .replay then
        repeatOr c false (modDisp (fun d => { d with
          replays := d.replays ++ ((es.filter (·.ctx == c)).map (fun e => ⟨c, e.stage, e.pass, e.logical⟩)) })) s
      else unitFault c 0x40 s

/-- Contexts of a list without repeats, in order. -/
def distinct (cs : List Nat) : List Nat := cs.foldl (fun a c => if a.contains c then a else a ++ [c]) []

/-- Bind the stand-in of a fenced Ridge: its logical index, canary setting, bound passes and loads. -/
def bindStandIn (q : Nat) (x : Ridge) (sets : List SetId) (s : State) : State :=
  let load := fun (i : Nat) => match sets[i]? with | some id => (⟨some id, false, false⟩ : Buf) | none => Buf.empty
  let s := modRidge q (fun y => { y with
    logical := x.logical, canary := x.canary, bound := x.bound, active := load 0, inactive := load 1 }) s
  sets.foldl (fun s id => chargeLoad id q (readMaster id q s)) s

/-- Fence a Ridge: the passes whose partials have not left are discarded, a spare stands in, and the records follow their
policy (R162, R420, R422, R425). -/
def fenceRidge (r mask : Nat) (s : State) : State :=
  let x := s.ridge r
  if x.fenced then s
  else
    let lost := x.pipe
    let stand := if x.logical.isSome then freeSpare s r else none
    let sets := standInSets s (x.bound.map (fun b => (b.ctx, b.pass)) ++ lost.map (fun e => (e.ctx, e.pass)))
    let s := raise 0x0301 0xFF (leBytes 1 r ++ leBytes 1 mask ++ leBytes 1 lost.length ++ leBytes 1 (stand.getD 0xFF) ++
      leBytes 2 s.time.cycle) s
    let s := modRidge r (fun x => { x with
      fenced := true, window := [], bound := [], pipe := [], active := Buf.empty, inactive := Buf.empty
      fenceEpoch := s.time.epoch }) s
    match stand with
    | some q => (distinct (lost.map (·.ctx))).foldl (fun s c => lostPass lost true c s) (bindStandIn q x sets s)
    | none =>
      (distinct (lost.map (·.ctx) ++ x.bound.map (·.ctx))).foldl (fun s c => lostPass lost false c s)
        s

/-! ## Load completion -/

/-- What SECDED finds in the words of a Ridge SRAM read: corrected words are counted, an uncorrectable one fences the Ridge
(R140). The result tells whether it was fenced. -/
def sramRead (q words : Nat) (ecc : List EccFind) (s : State) : Bool × State :=
  let ix := List.range words
  let bad := ix.filter (findsUe ecc)
  let s := count (cRdg q 8) (ix.countP (fun i => findsCe ecc i && !bad.contains i)) s
  if bad.isEmpty then (false, s) else (true, fenceRidge q 4 s)

/-- Words of a set's tables on a Ridge. -/
def setWords (s : State) (id : SetId) (q : Nat) : Nat := 128 * ((treesOn s id q).map (·.tree.units)).sum

/-- A set's load met a line that R231 refuses: the buffers stay empty, and every record bound to the set meets a unit fault
(Table 19.4). -/
def loadRefused (id : SetId) (q : Nat) (s : State) : State :=
  let hit := ((s.ridge q).bound.filter (fun b => (passSet s b.ctx b.pass).elim false (fun p => p.2 == id))).map (·.ctx)
  let s := clearRefused id.model (setLines s id q) s
  let empty := fun (b : Buf) => if b.set == some id && !b.loaded then Buf.empty else b
  let s := modRidge q (fun x => { x with active := empty x.active, inactive := empty x.inactive }) s
  (distinct hit).foldl (fun s c => cairnFault c s) s

/-- SET_LOAD_DONE: the load of the inactive buffers completes; the buffer becomes active at the next pass issued on the
set. A warm load reads Ridge SRAM through SECDED; a load from Massif waits for its lines, and a poisoned word marks the
set (R140, R156 to R158). -/
def execSetLoadDone (ridge : RidgeId) (ecc : List EccFind) (s : State) : Host.Outcome State Fault Refusal :=
  let q := ridge.val
  let b := (s.ridge q).inactive
  match b.set with
  | none => .next s
  | some id =>
    if b.loaded || (s.ridge q).fenced then .next s
    else if fromMaster s id q then
      if colRefused s id.model (setLines s id q) then .next (loadRefused id q s)
      else if masterServed s id q then
        .next (count (cRdg q 6) 1 (modRidge q (fun x => { x with inactive := ⟨some id, true, (setPoison s id q).isSome⟩ }) s))
      else .next s
    else
      let r := sramRead q (setWords s id q) ecc s
      if r.1 then .next r.2
      else .next (count (cRdg q 5) 1 (modRidge q (fun x => { x with inactive := ⟨some id, true, false⟩ }) r.2))

/-- A loading buffer of a stand-in that completes. -/
def finishStandIn (s : State) (q : Nat) (b : Buf) : Buf :=
  match b.set with
  | none => b
  | some id => if b.loaded || !(treesOn s id q).all (·.tree.flat) then b else ⟨some id, true, (setPoison s id q).isSome⟩

/-- STAND_IN_LOAD_DONE: the sets a stand-in began to load at the fence are in its buffers (R420). -/
def execStandInLoadDone (ridge : RidgeId) (s : State) : Host.Outcome State Fault Refusal :=
  let q := ridge.val
  let x := s.ridge q
  let open_ : Buf → Bool := fun b => match b.set with | some id => !b.loaded && masterServed s id q | none => false
  if x.fenced || !x.standsIn || !(open_ x.active || open_ x.inactive) then .next s
  else
    match ([x.active, x.inactive].filterMap (·.set)).find? (fun id => colRefused s id.model (setLines s id q)) with
    | some id => .next (loadRefused id q s)
    | none =>
    let n := [x.active, x.inactive].countP (fun b => open_ b && (finishStandIn s q b).loaded)
    .next (count (cRdg q 6) n (modRidge q (fun x => { x with
      active := if open_ x.active then finishStandIn s q x.active else x.active
      inactive := if open_ x.inactive then finishStandIn s q x.inactive else x.inactive }) s))

/-! ## Pass issue (R149 to R161) -/

/-- The record has no later pass of its stage on this Ridge: it leaves the window (R159). -/
def lastOnRidge (s : State) (q : Nat) (r : RecCtx) (m : Model) (c pass : Nat) : Bool :=
  !(s.ridge q).bound.any (·.ctx == c) &&
    !(List.range m.passCount).any (fun p => r.nextBind ≤ p && p != pass && !(logicalOn s m r.version p q).isEmpty)

/-- The channel partials with POI set when the pass touched poison (R158, R424). -/
def withPoison (bad : Bool) (ps : List Partial) : List Partial :=
  if bad then ps.map (fun p => { p with val := { p.val with flags := p.val.flags ||| flagPoi } }) else ps

/-- Leaf index of each tree of a pass on a Ridge, by tree index (R351). -/
def passLeaves (m : Model) (r : RecCtx) (v pass j : Nat) : List (Nat × Nat) :=
  ((m.versions.getD v m.image.trees).zipIdx.filter (fun x =>
    x.1.member == m.member && x.1.pass == pass && x.1.ridge == j)).map (fun x => (x.2, (evalTree x.1.tree r).index))

/-- The entry a pass delivers to Cairn (R154, R155). -/
def passEntry (now : Nat) (m : Model) (r : RecCtx) (b : Bound) (bad : Bool) : QEntry :=
  { ctx := b.ctx, stage := b.stage, pass := b.pass, prio := b.prio, logical := b.logical
    partials := withPoison bad (reducePass m.image.fmode r (m.setTrees r.version b.pass b.logical))
    leaves := if m.traced then passLeaves m r r.version b.pass b.logical else []
    leafEnd := now + (passTiming m.image.fmode (m.setTrees r.version b.pass b.logical)).1
    queued := now + (passTiming m.image.fmode (m.setTrees r.version b.pass b.logical)).2 }

/-- Make the set's buffer active (R157). -/
def activate (id : SetId) (x : Ridge) : Ridge :=
  if x.active.set == some id && x.active.loaded then x
  else if x.inactive.set == some id && x.inactive.loaded then { x with active := x.inactive, inactive := x.active }
  else x

/-- Remove one bound pass. -/
def unbind (b : Bound) (x : Ridge) : Ridge := { x with bound := x.bound.erase b }

/-- Threshold of the canary tree's LT node at heap index `h` (R161). -/
def canaryThreshold (h : Nat) : Nat := let j := h.log2; (2 * (h - 2 ^ j) + 1) * 2 ^ (7 - j)

/-- The leaf the canary tree decodes for a code, compared as a plain byte; its value is its index (R161). -/
def canaryLeaf (g : Nat) : Nat := leafIndex (fun h => !decide (g < canaryThreshold h)) 8

/-- The check of pass number `p` of a Ridge fails: the canary engine's comparators or decoder were upset, or leaf and code
disagree (R161). -/
def canaryFails (p : Nat) (r : RecCtx) (upset : Bool) : Bool :=
  let g := r.code (p % 1024)
  upset || canaryLeaf g != g

/-- Fence cause mask of the faults of a cycle (Table 19.2): `check` is the canary engine's, and a pass reads Ridge SRAM only
on a trail-walk table. -/
def faultMask (check walk : Bool) (f : RidgeFaults) : Nat :=
  (if f.parity then 1 else 0) + (if check then 2 else 0) + (if walk && f.sram then 4 else 0)

/-- Ridge-slots of a bound pass (R152). -/
def boundSlots (s : State) (b : Bound) : Nat :=
  (passSet s b.ctx b.pass).elim 0 (fun p => p.1.slotsOn p.2.version b.pass b.logical)

/-- The cycle is an issue position that is free on the Ridge, and the `k` positions that a pass takes from it all lie in the
tick (R29, R153, R250). -/
def atPosition (s : State) (q k : Nat) : Bool :=
  let c := s.time.cycle
  c % 4 == 0 && decide (8 ≤ c) && decide (c + 4 * (k - 1) ≤ 1020) && decide ((s.ridge q).nextPos ≤ s.now)

/-- The pass takes its positions; a LATENCY pass is charged to the tick's LATENCY Ridge-slots (R29, R250). -/
def takePositions (q k : Nat) (b : Bound) (s : State) : State :=
  let s := modRidge q (fun x => { x with nextPos := s.now + 4 * k }) s
  if b.prio = 0 then modDisp (fun d => { d with latUsed := kvSet d.latUsed q ((kvGet d.latUsed q).getD 0 + k) }) s else s

/-- Issue one ready pass on a Ridge. -/
def issuePass (q : Nat) (b : Bound) (r : RecCtx) (m : Model) (id : SetId) (faults : RidgeFaults) (s : State) : State :=
  let x := s.ridge q
  let walk := !(m.setTrees r.version b.pass b.logical).all (·.tree.flat)
  let buf := if x.active.set == some id then x.active else x.inactive
  let loadBad := !residentHot s id q && buf.poisoned
  let bad := loadBad || setMarked s id q
  let never := setMarked s id q || setPoison s id q == some true
  let s := takePositions q (boundSlots s b) b s
  let s := modRidge q (fun x => { (unbind b (activate id x)) with
    passes := x.passes + 1, pipe := x.pipe ++ [passEntry s.now m r b bad] }) s
  let s := count (cRdg q 3) 1 (count (cRdg q 4) (if walk then 1 else 0) (count (cRdg q 7) (if x.canary then 1 else 0) s))
  let s := count (cRdg q 8) (if walk then faults.corrected else 0) s
  let s := if lastOnRidge s q r m b.ctx b.pass then
    giveBack [.window q] (modRidge q (fun x => { x with window := x.window.filter (· != b.ctx) }) s) else s
  let mask := faultMask (x.canary && canaryFails x.passes r faults.canary) walk faults
  if mask ≠ 0 then fenceRidge q mask s
  else if bad then
    match r.src with
    | .detour slot _ => endSearch slot false s
    | _ => modelPoison b.ctx never s
  else s

/-- PASS_ISSUE: at a free issue position the first ready pass of a Ridge issues, unless its output queue is full; a fault
found in the pass fences the Ridge (R153, R155, R162, R250, R259). -/
def execPassIssue (ridge : RidgeId) (faults : RidgeFaults) (s : State) : Host.Outcome State Fault Refusal :=
  let q := ridge.val
  if (s.ridge q).fenced || queueFull s q then .next s
  else
    match (boundOrder s q).find? (fun b => passReady s q b && atPosition s q (boundSlots s b)) with
    | none => .next s
    | some b =>
      match s.ctx? b.ctx, passSet s b.ctx b.pass with
      | some r, some (m, id) => .next (issuePass q b r m id faults s)
      | _, _ => .next s

/-- PARTIALS_LEAVE_RIDGE: the oldest entry of the output queue leaves for Cairn; it arrives whatever happens to the Ridge
after (R155, R162). -/
def execPartialsLeaveRidge (ridge : RidgeId) (s : State) : Host.Outcome State Fault Refusal :=
  match (s.ridge ridge).pipe with
  | [] => .next s
  | e :: rest =>
    if s.now < e.queued then .next s
    else .next (giveBack [.ridge ridge.val] (modRidge ridge (fun x => { x with pipe := rest, transport := x.transport ++ [e] }) s))

/-! ## Ridge SRAM patrol (R242) -/

/-- RIDGE_SRAM_PATROL_STEP: the scrubber's scheduled step reads the next line of the Ridge SRAM of all 68 Ridges, counting
what it corrects and fencing a Ridge on an uncorrectable word. A step that may not run yet leaves everything as it is. -/
def execRidgeSramPatrolStep (ecc : List EccFind) (s : State) : Host.Outcome State Fault Refusal :=
  let l := s.mem.sramPatrol
  if !patrolMay s true false then .next s
  else
    let s := modMem (fun m => { m with sramPatrol := (l + 1) % sramLines, sramSteps := m.sramSteps + 1 }) (patrolCharge true s)
    .next (sramRead (l / 8192) 32 ecc s).2

end Sys2Proof.Machine
end

