-- ==== Sys2Proof/Machine/Trace.lean ====
section
/-! DEFINITION. The refit areas of a traced model in memory: where they lie, the leaf trace and its lookup (R350 to R352). -/

namespace Sys2Proof.Machine

/-! ## Layout (R350) -/

/-- The refit state of a model. -/
def State.refit? (s : State) (id : Nat) : Option RefitSt := s.refits.find? (·.model == id)

/-- Trees that this chip's member evaluates, with their tree indices (R211). -/
def memberTrees (m : Model) (v : Nat) : List (Placed × Nat) :=
  (m.versions.getD v m.image.trees).zipIdx.filter (fun x => x.1.member == m.member)

/-- Channels a trace entry of this member holds: n′. -/
def traceChannels (m : Model) : Nat := if m.member = 0 then m.image.channels else 0

/-- Trees of this member: T. -/
def treeCount (m : Model) : Nat := m.image.trees.countP (·.member == m.member)

/-- Bytes of a trace entry. -/
def traceEntrySize (m : Model) : Nat := 64 * ceilDiv (32 + 4 * traceChannels m + treeCount m) 64

/-- Trace capacity N. -/
def traceCapacity (m : Model) : Nat := m.image.refit.elim 0 (fun r => 2 ^ r.k)

/-- Offset of ring position `i` of the trace. -/
def traceOff (m : Model) (i : Nat) : Nat := i * traceEntrySize m
/-- Offset of index word `q`. -/
def indexOff (m : Model) (q : Nat) : Nat := traceCapacity m * traceEntrySize m + 8 * q
/-- Offset of block `b` of the member's tree number `t`. -/
def blockOff (m : Model) (t b : Nat) : Nat := traceCapacity m * (traceEntrySize m + 8) + 1088 * t + 136 * b
/-- Offset of a leaf in the shadow leaf table. -/
def shadowOff (m : Model) (t l : Nat) : Nat :=
  traceCapacity m * (traceEntrySize m + 8) + 1088 * treeCount m + 1024 * t + 4 * l
/-- Offset of a leaf in the committed leaf table. -/
def committedOff (m : Model) (t l : Nat) : Nat := shadowOff m (treeCount m + t) l
/-- Bytes of all the areas. -/
def refitBytes (m : Model) : Nat := traceCapacity m * (traceEntrySize m + 8) + 3136 * treeCount m

/-- Plots the areas need. -/
def refitPlots (m : Model) : Nat := ceilDiv (refitBytes m) plotSize

/-- Bytes at an offset of the areas, which run on from plot to plot. -/
def areaBytes (s : State) (x : RefitSt) (off n : Nat) : List Byte :=
  (List.range n).map (fun i => memByte s.mem (plotAddr x.plots (off + i)))

/-- Write whole words at an offset of the areas. -/
def areaWrite (x : RefitSt) (off : Nat) (bs : List Byte) (s : State) : State :=
  (List.range (ceilDiv bs.length 8)).foldl (fun s i =>
    writeWhole (plotAddr x.plots (off + 8 * i)) (slice bs (8 * i) 8) s) s

/-- A word of a range of the areas is poisoned. -/
def areaPoisoned (s : State) (x : RefitSt) (off n : Nat) : Bool :=
  (List.range (ceilDiv (off + n) 8 - off / 8)).any (fun i => poisoned s.mem (plotAddr x.plots ((off / 8 + i) * 8)))

/-- A read of the areas by the leaf trace or the leaf refit unit: what SECDED finds is counted, poisoned and reported as in
every Massif read (R238, R239, R357). -/
def areaRead (ecc : List EccFind) (x : RefitSt) (off n : Nat) (s : State) : State :=
  let r := (List.range (ceilDiv (off + n) 8 - off / 8)).foldl (fun se i =>
    readWord ecc 8 false (plotAddr x.plots ((off / 8 + i) * 8)) i se) (s, [])
  raiseCycle r.2 r.1

/-! ## The trace (R351, R352) -/

/-- The index word of a record id. -/
def traceHash (n recId : Nat) : Nat :=
  if n = 0 then 0 else (h32 (BitVec.ofNat 32 recId ^^^ BitVec.ofNat 32 (recId / 2 ^ 32))).toNat % n

/-- The bytes of a trace entry (Table 16.2). -/
def traceBytes (m : Model) (recId version : Nat) (margins leaves : List Nat) : List Byte :=
  fitBytes (leBytes 8 recId ++ leBytes 2 version ++ leBytes 1 (traceChannels m) ++ zeros 5 ++ zeros 8 ++ zeros 8 ++
    (margins.take (traceChannels m)).flatMap (leBytes 4) ++ leaves.flatMap (leBytes 1)) (traceEntrySize m)

/-- Write a record into the trace: the entry at the write position with the commit count of this moment, when the record is
scored, its index word, and the position advances. -/
def traceWrite (m : Model) (r : RecCtx) (s : State) : State :=
  match s.refit? m.id with
  | none => s
  | some x =>
    let leaves := (memberTrees m r.version).map (fun t => (kvGet r.leaves t.2).getD 0)
    let n := traceCapacity m
    let s := areaWrite x (traceOff m x.w) (traceBytes m r.recId m.version r.margins leaves) s
    let s := areaWrite x (indexOff m (traceHash n r.recId)) (leBytes 8 (2 ^ 63 + x.w)) s
    modRefit m.id (fun x => { x with w := if n = 0 then 0 else (x.w + 1) % n }) s

/-- Look up a record id, on the bits as stored: through its index word to the offset of the entry that carries it. -/
def traceLookup (s : State) (m : Model) (x : RefitSt) (recId : Nat) : Option Nat :=
  let w := leNat (areaBytes s x (indexOff m (traceHash (traceCapacity m) recId)) 8)
  let off := traceOff m (w % 2 ^ 20)
  if bit w 63 && leNat (areaBytes s x off 8) == recId then some off else none

/-- The index word or the entry of a lookup is poisoned (R353). -/
def tracePoison (s : State) (m : Model) (x : RefitSt) (recId off : Nat) : Bool :=
  areaPoisoned s x (indexOff m (traceHash (traceCapacity m) recId)) 8 || areaPoisoned s x off (traceEntrySize m)

/-- Words a lookup reads: the index word, then the entry. -/
def lookupWords (m : Model) : Nat := 1 + traceEntrySize m / 8

/-- The reads of a lookup. -/
def lookupReads (ecc : List EccFind) (m : Model) (x : RefitSt) (recId : Nat) (s : State) : State :=
  let iOff := indexOff m (traceHash (traceCapacity m) recId)
  let w := leNat (areaBytes s x iOff 8)
  let s := areaRead ecc x iOff 8 s
  if bit w 63 then areaRead (shiftEcc 1 ecc) x (traceOff m (w % 2 ^ 20)) (traceEntrySize m) s else s

/-- A record may be traced: its model is traced and no channel carries POI (R352). -/
def traceable (m : Model) (vals : List Val) : Bool := m.traced && vals.all (fun v => v.flags &&& flagPoi == 0)

end Sys2Proof.Machine
end

