-- ==== Sys2Proof/Machine/Cairn.lean ====
section
/-! DEFINITION. Cairn: blocks, preload, pass rows, slot adds, parking and restore (chapter 8). -/

namespace Sys2Proof.Machine

/-! ## Slots and blocks (R165 to R169) -/

/-- A slot nothing has written: 0 with clear flags. -/
def Val.zero : Val := ⟨0, 0⟩

/-- The value and flags of a slot. -/
def State.slot (s : State) (i : Nat) : Val := (kvGet s.slots i).getD Val.zero

/-- The first `n` slots of a block. -/
def readBlock (s : State) (b n : Nat) : List Val := (List.range n).map (fun c => s.slot (b + c))

/-- Write one slot. -/
def putSlot (i : Nat) (v : Val) (s : State) : State := { s with slots := kvPut Val.zero s.slots i v }

/-- Write values into a block from its first slot. -/
def writeBlock (b : Nat) (vals : List Val) (s : State) : State :=
  (vals.zipIdx).foldl (fun s x => putSlot (b + x.2) x.1 s) s

/-- A block base is a block boundary inside a tenant's slot range (R166, R179). -/
def blockOk (q : Quota) (b : Nat) : Bool :=
  q.cairnBase ≤ b && b < q.cairnBase + q.blocks * q.stride && (b - q.cairnBase) % q.stride == 0

/-- The preload value of each channel: the record's own block on the head stage, zero on a member, else the base score
(Table 8.1). -/
def preloadValues (m : Model) (r : RecCtx) : List Val :=
  match r.preload, r.stage with
  | some vs, 0 => vs.map (fun v => ⟨v, 0⟩)
  | _, _ => m.image.base.map (fun (b : Nat) => ⟨if m.member ≠ 0 then 0 else if m.image.fmode then (b : Int) else toSigned 64 b, 0⟩)

/-- Preload a block (R169). -/
def preload (b : Nat) (m : Model) (r : RecCtx) (s : State) : State :=
  count (cCrn 5) 1 (writeBlock b (preloadValues m r) s)

/-- A Cairn range or ECC fault: CRN_RANGE_FAULT, and the record is a unit fault under its tenant's policy (R179). -/
def rangeFault (c slot pass cause : Nat) (s : State) : State :=
  match s.ctx? c with
  | none => s
  | some r =>
    cairnFault c (raise 0x0401 r.tenant (leBytes 2 slot ++ leBytes 2 pass ++ leBytes 1 cause ++ zeros 3 ++ leBytes 8 r.recId) s)

/-! ## Binding a pass (R168, R172, R173, R183) -/

/-- Passes of the stages before the current one. -/
def earlierPasses (s : State) (r : RecCtx) : Nat :=
  ((List.range r.stage).map (fun i => (stageModel s { r with stage := i }).elim 0 Model.passCount)).sum

/-- Passes bound so far, over all stages. -/
def boundPasses (s : State) (r : RecCtx) : Nat := earlierPasses s r + r.nextBind

/-- Passes of all the stages of a record. -/
def allPasses (s : State) (r : RecCtx) : Nat :=
  ((List.range (stageCount s r)).map (fun i => (stageModel s { r with stage := i }).elim 0 Model.passCount)).sum

/-- The next pass of a record may bind in this tick: a LATENCY record from the tick it is admitted to, any other by the
plan's grants; never for a preempted tenant (R186, R253, R258). -/
def mayBind (s : State) (r : RecCtx) (m : Model) : Bool :=
  (r.state == .awaiting || r.state == .bound || r.state == .parked) && !r.parking && r.ended.isNone &&
    decide (r.nextBind < m.passCount) && !(s.tenant r.tenant).preempted &&
    (match r.admitted with
     | some k => k ≤ s.time.tick
     | none => boundPasses s r < r.planned)

/-- Priority class of a record's passes (R259). -/
def passPrio (m : Model) (r : RecCtx) : Nat :=
  match r.src with
  | .detour _ _ => 3
  | _ => if m.latency then 0 else 2

/-- Passes of one pass bound on each Ridge that serves it. -/
def bindOn (c : Nat) (r : RecCtx) (m : Model) (prio : Nat) (s : State) : State :=
  (m.passRidges r.version r.nextBind).foldl (fun s j =>
    match servingOf s m j with
    | some q => modRidge q (fun x => { x with bound := x.bound ++ [⟨c, r.stage, r.nextBind, prio, j, s.time.tick⟩] }) s
    | none => s) s

/-- Port cycles of a spill or restore of `n` channels: 128 + 8n bytes, 64 in a cycle (R184). -/
def portCycles (n : Nat) : Nat := ceilDiv (128 + 8 * n) 64

/-- Ask for Cairn's port on behalf of a record's spill or restore (R184). -/
def askPort (c n : Nat) (s : State) : State :=
  { s with crnPort := { s.crnPort with transfers := s.crnPort.transfers ++ [(c, portCycles n)] } }

/-- A record's spill or restore has had all its port cycles. -/
def portDone (s : State) (c : Nat) : Bool := s.crnPort.transfers.all (fun x => x.1 != c)

/-- Take a block from the tenant's free list: a parked record's restore begins, any other record's block is preloaded. -/
def takeBlock (c : Nat) (r : RecCtx) (m : Model) (b : Nat) (s : State) : State :=
  let s := modTenant r.tenant (fun t => { t with freeBlocks := t.freeBlocks.drop 1 }) s
  if r.state = .parked then
    askPort c m.image.channels
      (modCtx c (fun r => { r with block := some b, blockReady := false }) { s with restoring := s.restoring ++ [c] })
  else preload b m r (modCtx c (fun r => { r with block := some b, blockReady := true }) s)

/-- Reserve the pass's row, bind it on its Ridges, charge it, and advance the record (R173, R263). -/
def bindPass (c : Nat) (s : State) : State :=
  match s.ctx? c with
  | none => s
  | some r =>
    match stageModel s r, s.model? r.model with
    | some m, some head =>
      let prio := passPrio head r
      let s := bindOn c r m prio s
      let s := { s with rows := s.rows ++ [⟨c, r.stage, r.nextBind, expectedMasks (m.passTrees r.version r.nextBind), [], prio⟩] }
      let level := if r.charged then 0 else recordLevel s s.disp.point head r
      let s := charge (passPrice s.disp.point m r.version r.nextBind + level) s
      let last := boundPasses s r + 1 = allPasses s r
      let s := if last then modDisp (fun d => { d with waiting := d.waiting.filter (· != c) }) s else s
      modCtx c (fun r => { r with state := .bound, nextBind := r.nextBind + 1, charged := true }) s
    | _, _ => s

/-- A record that cannot run because a logical Ridge of its pass has no physical one (R425). -/
def unplaced (c : Nat) (s : State) : State :=
  match (s.ctx? c).map RecCtx.src with
  | some (.detour slot _) => endSearch slot false s
  | _ => unitFault c 0x40 s

/-- A pass row is free, and the first block of a tenant's free list (R168, R173, R272). -/
def rowFree (s : State) : Bool := s.rows.length + s.unusable .row < 1024
def blockFree (s : State) (t : Nat) : Option Nat :=
  if (s.tenant t).freeBlocks.length ≤ s.unusable (.block t) then none else (s.tenant t).freeBlocks.head?

/-- PASS_BIND: the record's next pass binds when a pass row and a block are free (R173). -/
def execPassBind (ctx : CtxId) (s : State) : Host.Outcome State Fault Refusal :=
  match s.ctx? ctx with
  | none => .next s
  | some r =>
    match stageModel s r with
    | none => .next s
    | some m =>
      if !mayBind s r m || !rowFree s then .next s
      else if (m.passRidges m.version r.nextBind).any (fun j => (servingOf s m j).isNone) then .next (unplaced ctx s)
      else
        let s := if r.nextBind = 0 then modCtx ctx (fun r => { r with version := m.version }) s else s
        match r.block, blockFree s r.tenant with
        | some _, _ => .next (bindPass ctx s)
        | none, none => .next s
        | none, some b =>
          if blockOk (s.tenant r.tenant).quota b then .next (bindPass ctx (takeBlock ctx r m b s))
          else .next (rangeFault ctx b r.nextBind 0 s)

/-! ## Pass rows (R174, R175) -/

/-- Partials of a channel that have arrived, by ascending logical Ridge. -/
def Row.channel (x : Row) (c : Nat) : List (Nat × Val) :=
  sortBy (fun a b => a.1 ≤ b.1) ((x.got.filter (·.1 == c)).map (fun g => g.2))

/-- A channel is complete when every Ridge of its expected mask has delivered. -/
def Row.channelDone (x : Row) (e : Nat × Nat) : Bool :=
  (List.range 64).all (fun j => !bit e.2 j || x.got.any (fun g => g.1 == e.1 && g.2.1 == j))

/-- A row is complete when all its channels are (R176). -/
def Row.complete (x : Row) : Bool := x.expected.all x.channelDone

/-- A row's channel sum and flags. -/
def Row.sum (x : Row) (fmode : Bool) (c : Nat) : Val :=
  let vs := (x.channel c).map (·.2)
  let fl := vs.foldl (fun a v => a ||| v.flags) 0
  if fmode then
    let p := pairwise (vs.map (fun v => v.v.toNat))
    ⟨p.1, fl ||| p.2⟩
  else ⟨(vs.map (·.v)).sum, fl⟩

/-- Put a pass's partials into its row. -/
def Row.take (e : QEntry) (x : Row) : Row :=
  if x.ctx == e.ctx && x.stage == e.stage && x.pass == e.pass then
    { x with got := x.got ++ e.partials.map (fun p => (p.channel, e.logical, p.val)) }
  else x

/-- PARTIAL_ARRIVAL: the oldest entry on its way from a Ridge reaches its pass row (R174, R175). -/
def execPartialArrival (ridge : RidgeId) (s : State) : Host.Outcome State Fault Refusal :=
  match (s.ridge ridge).transport with
  | [] => .next s
  | e :: rest =>
    let s := modRidge ridge (fun x => { x with transport := rest }) s
    let s := { s with rows := s.rows.map (Row.take e) }
    .next (modCtx e.ctx (fun r => { r with leaves := e.leaves.foldl (fun k l => kvSet k l.1 l.2) r.leaves }) s)

/-! ## Row adds (R176 to R178) -/

/-- Add a row's channel into its slot: exact with saturation in Q mode, rounded in F mode, stochastically when the
model asks for it (R42, R53, R176). -/
def slotAdd (img : Image) (recId pass c : Nat) (old add : Val) : Val × Bool :=
  let x : Int × Nat :=
    if !img.fmode then qSat (old.v + add.v)
    else
      let y := if img.sr then f32AddSr old.v.toNat add.v.toNat (srDraw img.seed recId (0x01000000 + c) pass)
        else f32Add old.v.toNat add.v.toNat
      (y.1, y.2)
  (⟨x.1, old.flags ||| add.flags ||| x.2⟩, x.2 &&& flagSat != 0)

/-- Add a whole row into a block; SAT adds are counted. -/
def addRow (img : Image) (recId b : Nat) (x : Row) (s : State) : State :=
  x.expected.foldl (fun s e =>
    let y := slotAdd img recId x.pass e.1 (s.slot (b + e.1)) (x.sum img.fmode e.1)
    putSlot (b + e.1) y.1 (if y.2 then count (cCrn 7) 1 s else s)) s

/-- A channel's FP32 margin for a feed (R216). -/
def feedMargin (img : Image) (v : Int) : Nat := if img.fmode then v.toNat else (f32Mul (f32OfInt v).1 img.qscale).1

/-- A margin binned for a feed: affine, no escape (R37, R216). -/
def feedCode (margin scale zeroPoint : Nat) : Nat :=
  let c := roundEven (fracDiv (f32Val margin) (f32Val scale)) + zeroPoint
  if c < 0 then 0 else min c.toNat 0xFD

/-- The slots a FEED stage writes. -/
def feedSlots (img : Image) (st : Stage) (vals : List Val) (slots : Kv Nat) : Kv Nat :=
  st.feeds.foldl (fun k f => kvPut 0xFE k f.slot (feedCode (feedMargin img (vals.getD f.chan Val.zero).v) f.scale f.zeroPoint)) slots

/-- Go on to the next stage of a cascade (R170, R178, R216). A record whose feed slots changed is broadcast again. -/
def nextStage (c : Nat) (r : RecCtx) (m : Model) (st : Stage) (vals : List Val) (s : State) : State :=
  let step := fun (r : RecCtx) => { r with stage := r.stage + 1, nextBind := 0, nextAdd := 0 }
  if st.carry then modCtx c step s
  else
    let s := returnBlock c s
    let s := modCtx c (fun r => { (step r) with slots := feedSlots m.image st vals r.slots }) s
    let s := { s with ridges := s.ridges.map (fun x => { x with window := x.window.filter (· != c) }) }
    if vals.any (fun v => v.flags &&& flagPoi != 0) then
      match r.src with
      | .detour slot _ => endSearch slot false s
      | _ => modelPoison c false s
    else s

/-- A member's final values: its trace entry and its TERM to member 0; its block goes back to the free list when the TERM has
left (R178, R338, R352). -/
def memberDone (c : Nat) (r : RecCtx) (m : Model) (home homeCtx : Nat) (vals : List Val) (s : State) : State :=
  let s := chargeWork 1 priceTerms (if m.traced then traceWrite m r s else s)
  sendTerm c (termMsg s home homeCtx r.tenant r.handle m.member (if m.image.fmode then 1 else 0) m.latency r.recId
    (if r.heal then 1 else 0) 0 vals) s

/-- The queue from Cairn to Summit and the Saddles has a free entry: it holds 64 blocks (Table 12.4). -/
def outRoom (s : State) : Bool := s.ctxs.countP (fun p => outQueued s p.2) + s.unusable .summit < 64

/-- The final row of a stage has been added: its values go to Summit, to member 0 or into the next stage; without a credit
for Summit or a Saddle they wait in their block (R178). -/
def finalRow (c : Nat) (s : State) : State :=
  match s.ctx? c with
  | none => s
  | some r =>
    match stageModel s r, s.model? r.model with
    | some m, some head =>
      let vals := readBlock s (r.block.getD 0) m.image.channels
      match r.src, head.image.cascade[r.stage]? with
      | .member home homeCtx, _ => if outRoom s then memberDone c r m home homeCtx vals s else s
      | _, some st => nextStage c r m st vals s
      | _, none =>
        if !outRoom s then s
        else modCtx c (fun r => { r with state := .summit, final := vals, term0At := some s.now }) (returnBlock c s)
    | _, _ => s

/-- The row whose turn it is. -/
def turnRow (s : State) (c : Nat) (r : RecCtx) : Option Row :=
  s.rows.find? (fun x => x.ctx == c && x.stage == r.stage && x.pass == r.nextAdd)

/-- Every row of the record's last stage has been added, and its final values wait in their block for a credit (R178). -/
def outWaits (s : State) (r : RecCtx) : Bool :=
  r.state == .bound && r.ended.isNone && r.block.isSome &&
    (stageModel s r).elim false (fun m => decide (0 < m.passCount) && r.nextAdd == m.passCount)

/-- Final values that wait go out as far as the credits reach, the record admitted first going first (log 75). -/
def pumpOut (s : State) : State :=
  (sortBy (fun (a b : Nat × RecCtx) => a.2.place ≤ b.2.place) (s.ctxs.filter (fun p => outWaits s p.2))).foldl
    (fun s p => finalRow p.1 s) s

/-- ROW_ADD: the complete row whose turn has come adds into the record's slots, unless a spill or restore burst holds the
port; an ECC fault of a slot or row discards the operation (R176, R179, R184). -/
def execRowAdd (ctx : CtxId) (eccFault : Bool) (s : State) : Host.Outcome State Fault Refusal :=
  match s.ctx? ctx with
  | none => .next s
  | some r =>
    match turnRow s ctx r, r.block, stageModel s r with
    | some x, some b, some m =>
      if !x.complete || !r.blockReady || r.parking || 0 < s.crnPort.burst then .next s
      else if !blockOk (s.tenant r.tenant).quota b then .next (rangeFault ctx b x.pass 0 s)
      else if eccFault then .next (rangeFault ctx b x.pass 1 s)
      else
        let s := addRow m.image r.recId b x (count (cCrn 6) 1 s)
        let s := giveBack [.row] { s with rows := s.rows.erase x }
        let s := modCtx ctx (fun r => { r with nextAdd := r.nextAdd + 1 }) s
        .next (if r.nextAdd + 1 = m.passCount then finalRow ctx s else s)
    | _, _, _ => .next s

/-! ## Parking and restore (R181 to R185) -/

/-- The Switchback entry of a record (Table 8.4): bytes 0 to 127 and the value words of its channels. -/
def swbBytes (m : Model) (r : RecCtx) (vals : List Val) : List Byte :=
  leBytes 4 1 ++ leBytes 1 vals.length ++ leBytes 1 (if m.image.fmode then 1 else 0) ++ leBytes 2 m.handle ++
    leBytes 8 r.recId ++ leBytes 2 r.nextAdd ++ leBytes 1 r.tenant ++ leBytes 1 r.stage ++ zeros 44 ++
    fitBytes (vals.map (fun v => BitVec.ofNat 8 v.flags)) 64 ++
    vals.flatMap (fun v => leBytes 8 (ofSigned 64 v.v))

/-- PARK_ENTRY_WRITTEN: a parked record's entry is written and its block returns to the free list (R181, R184). -/
def execParkEntryWritten (ctx : CtxId) (s : State) : Host.Outcome State Fault Refusal :=
  match s.ctx? ctx with
  | none => .next s
  | some r =>
    match r.block, stageModel s r with
    | some b, some m =>
      if !r.parking || !portDone s ctx then .next s
      else
        let vals := readBlock s b m.image.channels
        let s := writeWhole (swbAddr ctx) (swbBytes m r vals) s
        let s := chargeWork vals.length priceParkChannel (chargeWork 1 pricePark s)
        let s := count (cTen r.tenant tParks) 1 (returnBlock ctx s)
        .next (modCtx ctx (fun r => { r with state := .parked, parking := false }) s)
    | _, _ => .next s

/-- A value and flags read back from a Switchback entry. -/
def swbVal (s : State) (c : Nat) (fmode : Bool) (i : Nat) : Val :=
  let w := leNat (memBytes s.mem (swbAddr c + 128 + 8 * i) 8)
  ⟨if fmode then (w % 2 ^ 32 : Nat) else toSigned 64 w, (memByte s.mem (swbAddr c + 64 + i)).toNat⟩

/-- Run a record again from pass 0 with its block preloaded again (R185). -/
def restartInBlock (c : Nat) (s : State) : State :=
  match s.ctx? c with
  | none => s
  | some r =>
    let b := r.block
    let s := restartRecord c (modCtx c (fun r => { r with block := none }) s)
    let s := count (cTen r.tenant tRestarts) 1 s
    match b, s.ctx? c with
    | some k, some r' =>
      match stageModel s r' with
      | some m => preload k m r' (modCtx c (fun r => { r with block := some k, blockReady := true }) s)
      | none => s
    | _, _ => s

/-- A restore meets a poisoned word: CRN_SWB_UE with the first, and the policy of R185. -/
def restoreFailed (c a : Nat) (evs : List Raised) (r : RecCtx) (s : State) : State :=
  let s := raiseCycle (evs ++ [(0x0402, r.tenant, leBytes 1 c ++ zeros 3 ++ leBytes 4 a ++ leBytes 8 r.recId)])
    { s with restoring := s.restoring.filter (· != c) }
  match r.src with
  | .detour slot _ => endSearch slot false s
  | _ =>
    if (s.tenant r.tenant).quota.policy = .abort then unitFault c 0x41 s
    else repeatOr c true (restartInBlock c) s

/-- RESTORE_DONE: a resumed record's entry is read into its block, or found poisoned (R183, R185). -/
def execRestoreDone (ctx : CtxId) (ecc : List EccFind) (s : State) : Host.Outcome State Fault Refusal :=
  match s.ctx? ctx with
  | none => .next s
  | some r =>
    match r.block, stageModel s r with
    | some b, some m =>
      if !s.restoring.contains ctx || !portDone s ctx then .next s
      else if !blockOk (s.tenant r.tenant).quota b then .next (rangeFault ctx b r.nextAdd 0 s)
      else
        let n := m.image.channels
        let x := readWords ecc 4 false (swbAddr ctx) (128 + 8 * n) s
        match firstPoison x.1.mem (swbAddr ctx) (128 + 8 * n) with
        | some a => .next (restoreFailed ctx a x.2 r x.1)
        | none =>
          let s := raiseCycle x.2 x.1
          let s := writeBlock b ((List.range n).map (swbVal s ctx m.image.fmode)) s
          let s := chargeWork n priceParkChannel (chargeWork 1 pricePark s)
          let s := count (cTen r.tenant tResumes) 1 { s with restoring := s.restoring.filter (· != ctx.val) }
          .next (modCtx ctx (fun r => { r with blockReady := true }) s)
    | _, _ => .next s

/-! ## Stall causes (R188) -/

/-- A record waits for a pass row, or for a block, with a pass ready to bind. -/
def waitsRow (s : State) (r : RecCtx) : Bool := !rowFree s && (stageModel s r).elim false (mayBind s r)
def waitsBlock (s : State) (r : RecCtx) : Bool :=
  rowFree s && r.block.isNone && (blockFree s r.tenant).isNone && (stageModel s r).elim false (mayBind s r)

/-- A complete row waits for its block's preload or restore; for an earlier pass. -/
def rowWaitsSlot (s : State) (x : Row) : Bool :=
  x.complete && (s.ctx? x.ctx).elim false (fun r => x.pass == r.nextAdd && !r.blockReady)
def rowWaitsOrder (s : State) (x : Row) : Bool :=
  x.complete && (s.ctx? x.ctx).elim false (fun r => x.pass != r.nextAdd)

/-- A row add waits for its turn at the port alone. -/
def rowWaitsPort (s : State) (x : Row) : Bool :=
  x.complete && (s.ctx? x.ctx).elim false (fun r => x.pass == r.nextAdd && x.stage == r.stage && r.blockReady && !r.parking)

/-- Cairn's port in one cycle: the burst under way moves on; between bursts a row add or a move that waits goes first, and
else the next transfer's burst of at most 8 cycles begins (R184). -/
def portCycle (s : State) : State :=
  let p := s.crnPort
  let p : CrnPort :=
    if p.burst = 0 then p
    else match p.transfers with
      | [] => ⟨[], 0⟩
      | (c, n) :: rest => if n ≤ 1 then ⟨rest, 0⟩ else ⟨(c, n - 1) :: rest, p.burst - 1⟩
  let waits := s.rows.any (rowWaitsPort s) || s.ctxs.any (fun x => outWaits s x.2 && outRoom s)
  { s with crnPort := if p.burst = 0 && !waits then { p with burst := p.transfers.head?.elim 0 (fun x => min 8 x.2) } else p }

/-- The device stall counter Cairn counts in a cycle: the first cause of Table 8.5 (R188). -/
def cairnStall (s : State) : Option Nat :=
  if s.rows.any (rowWaitsSlot s) then some 0
  else if 0 < s.crnPort.burst && s.rows.any (rowWaitsPort s) then some 1
  else if s.rows.any (rowWaitsOrder s) then some 2
  else if s.ctxs.any (fun p => outWaits s p.2) then some 3
  else if s.ctxs.any (fun p => waitsRow s p.2) then some 4
  else none

/-- Tenants with a ready pass that waits for a free block. -/
def blockStalls (s : State) : List Nat :=
  s.ctxs.foldl (fun a p => if waitsBlock s p.2 then setAdd a p.2.tenant else a) []

end Sys2Proof.Machine
end

