-- ==== Sys2Proof/Machine/Output.lean ====
section
/-! DEFINITION. The output stage's arithmetic: the cross-chip sum, margins, links and formats (R191, R195, R196). -/

namespace Sys2Proof.Machine

/-- Flags of a list of values. -/
def orFlags (vs : List Val) : Nat := vs.foldl (fun a v => a ||| v.flags) 0

/-- One channel's value from its terms in ascending member index (R191); a single term stands unchanged. -/
def ensembleSum (fmode : Bool) (terms : List Val) : Val :=
  match terms with
  | [v] => v
  | vs =>
    if fmode then
      let p := pairwise (vs.map (fun v => v.v.toNat))
      ⟨p.1, orFlags vs ||| p.2⟩
    else
      let p := qSat ((vs.map (·.v)).sum)
      ⟨p.1, orFlags vs ||| p.2⟩

/-- The margin of a channel and the flags its steps set (R195). -/
def marginOf (img : Image) (c : Nat) (v : Int) : FRes :=
  let sb := img.out.chans.getD c (0, 0)
  let x : FRes := if img.fmode then (v.toNat, 0)
    else
      let a := f32OfInt v
      let b := f32Mul a.1 img.qscale
      (b.1, a.2 ||| b.2)
  let y := f32Mul x.1 sb.1
  let z := f32Add y.1 sb.2
  (z.1, x.2 ||| y.2 ||| z.2)

/-- Flags set while softmax forms its sum, which go to every channel (R196). -/
def softmaxSumFlags (ms : List Nat) : Nat :=
  let m := f32Largest ms
  (pairwise (ms.map (fun x => (f32Exp (f32Sub x m).1).1))).2

/-- Channel results of the link with the flags it sets (R195). -/
def linkOut (link : Nat) (ms : List Nat) : List FRes :=
  if link = 3 then (softmax ms).map (fun y => (y.1, y.2 ||| softmaxSumFlags ms))
  else ms.map (fun x => if link = 0 then (x, 0) else if link = 1 then f32Logistic x else f32Exp x)

/-- Convert a result to the output format (R45): the value's wire pattern and flags. -/
def convertOut (o : OutStage) (y : Nat) : Int × Nat :=
  match o.format with
  | 0 => (y, 0)
  | 1 => ((f32ToF16 y).1, (f32ToF16 y).2)
  | 2 => toInt8 y o.m o.z
  | _ => toQ16 y o.m

/-- What the fused output gives one record: margins, results with their flag bytes, and the flags R195 set. -/
structure Fused where
  margins : List Nat
  results : List Val
  set_ : Nat
deriving DecidableEq, Repr

/-- The fused output over the channel values (R195, R196). -/
def fuse (img : Image) (vs : List Val) : Fused :=
  let ms := (vs.zipIdx).map (fun x => marginOf img x.2 x.1.v)
  let ys := linkOut img.out.link (ms.map (·.1))
  let os := ys.map (fun y => convertOut img.out y.1)
  let step := ((ms.zip ys).zip os).map (fun x => x.1.1.2 ||| x.1.2.2 ||| x.2.2)
  { margins := ms.map (·.1)
    results := ((vs.zip os).zip step).map (fun x => ⟨x.1.2.1, x.1.1.flags ||| x.2⟩)
    set_ := step.foldl (· ||| ·) 0 }

/-- A channel's FP32 result, from the margins (R197). -/
def resultOf (img : Image) (margins : List Nat) (c : Nat) : Nat := ((linkOut img.out.link margins).getD c (0, 0)).1

/-- A channel's value field of a score frame (R78). -/
def valueBytes (format : Nat) (v : Int) : List Byte :=
  match format with
  | 0 => beBytes 4 v.toNat
  | 1 => beBytes 4 (v.toNat % 65536)
  | 2 => zeros 3 ++ beBytes 1 (ofSigned 8 v)
  | _ => zeros 2 ++ beBytes 2 (ofSigned 16 v)

/-- A score frame's message (R78, R198). -/
def scoreMsg (r : RecCtx) (format : Nat) (traced pending : Bool) : List Byte :=
  mavisum 2 r.tenant ((if traced then 1 else 0) + (if pending then 2 else 0)) r.handle r.recId
    ((if r.heal then 256 else 0) + r.results.length) r.cookie
    (beBytes 1 format ++ zeros 3 ++ r.results.flatMap (fun v => beBytes 1 v.flags ++ zeros 3 ++ valueBytes format v.v))

end Sys2Proof.Machine
end

