-- ==== Sys2Proof/Machine/Detour.lean ====
section
/-! DEFINITION. The Detour engine: a search's states, energies, candidates, move choice and end (R363 to R370). -/

namespace Sys2Proof.Machine

/-! ## Energy (R365) -/

/-- The Detour configuration of a search's model. -/
def searchCfg (s : State) (x : Search) : Option DetourCfg := (s.model? x.model).bind (·.image.detour)

/-- Cost of a state: the pairwise sum of cost times distance. -/
def stateCost (feats : List DetourFeat) (offs : List Int) : Nat :=
  (pairwise ((feats.zip offs).map (fun p => (f32Mul p.1.cost (f32OfInt p.2.natAbs).1).1))).1

/-- Margin of a result against a request. -/
def stateMargin (q : ReasonReq) (y : Nat) : Nat :=
  if q.above then (if f32Lt y q.threshold then (f32Sub q.threshold y).1 else 0)
  else (if f32Lt q.threshold y then (f32Sub y q.threshold).1 else 0)

/-- Energy of a state. -/
def stateEnergy (d : DetourCfg) (q : ReasonReq) (offs : List Int) (y : Nat) : Nat :=
  (f32Add (f32Mul d.lambda (stateMargin q y)).1 (stateCost d.feats offs)).1

/-- A state has reached the target. -/
def reached (q : ReasonReq) (y : Nat) : Bool := f32IsZero (stateMargin q y)

/-! ## Candidates (R366) -/

/-- The offset list with one move applied. -/
def moveBy (offs : List Int) (i : Nat) (up : Bool) : List Int := offs.modify i (fun o => if up then o + 1 else o - 1)

/-- A move is live. -/
def moveLive (slots : Kv Nat) (f : DetourFeat) (o : Int) : Bool :=
  let g := (kvGet slots f.slot).getD 0xFE
  g < 0xFE && f.lo ≤ o && o ≤ f.hi && 0 ≤ (g : Int) + o && (g : Int) + o ≤ 0xFD

/-- The candidates of a state, in ascending feature with −1 before +1. -/
def candidatesOf (d : DetourCfg) (slots : Kv Nat) (offs : List Int) : List Cand :=
  (((d.feats.zip offs).zipIdx).flatMap (fun x =>
    [⟨x.2, false, moveLive slots x.1.1 (x.1.2 - 1), false, none⟩,
     ⟨x.2, true, moveLive slots x.1.1 (x.1.2 + 1), false, none⟩])).take 128

/-- The number under which the combined state of a parallel step is evaluated (R368). -/
def recheckCand : Nat := 128

/-- Offsets a candidate evaluates. -/
def candOffs (x : Search) (k : Nat) : List Int :=
  match x.cands[k]? with
  | some c => moveBy x.offs c.feat c.up
  | none => x.offs

/-- Slot codes of a candidate: the record's codes with the offsets applied. -/
def candSlots (d : DetourCfg) (x : Search) (k : Nat) : Kv Nat :=
  (d.feats.zip (candOffs x k)).foldl (fun m p =>
    if p.2 = 0 then m else kvPut 0xFE m p.1.slot ((((kvGet x.slots p.1.slot).getD 0xFE : Nat) : Int) + p.2).toNat) x.slots

/-- Request a step's live candidates, and the combined state's evaluation when one is due, as BACKGROUND work. -/
def requestCands (slot : Nat) (x : Search) (s : State) : State :=
  let ks := ((x.cands.zipIdx.filter (·.1.live)).map (·.2)) ++ (if x.recheck.isSome then [recheckCand] else [])
  modDisp (fun d => { d with bg := d.bg ++ ks.map (fun k => .candidate slot k) }) s

/-! ## Best state (R369) -/

/-- Visit a state: the best state and the count of steps without a new best reached state. -/
def visit (d : DetourCfg) (offs : List Int) (y : Nat) (x : Search) : Search :=
  let e := stateEnergy d x.req offs y
  let hit := reached x.req y
  if hit && (!x.bestReached || f32Lt e x.bestE) then
    { x with best := offs, bestY := y, bestE := e, bestReached := true, sinceBest := 0 }
  else if x.bestReached then { x with sinceBest := x.sinceBest + 1 }
  else if f32Lt e x.bestE then { x with best := offs, bestY := y, bestE := e }
  else x

/-- The patience of a search has run out. -/
def patienceOver (d : DetourCfg) (x : Search) : Bool := x.bestReached && d.patience ≤ x.sinceBest

/-- Begin a step from the current state, or end the search when no candidate is live. -/
def beginStep (slot : Nat) (d : DetourCfg) (x : Search) (s : State) : State :=
  let x := { x with cands := candidatesOf d x.slots x.offs }
  let s := { s with searches := kvSet s.searches slot x }
  if x.cands.any (·.live) then requestCands slot x s else endSearch slot false s

/-- Start a search for a scored record, when its model allows it and a search slot is free (R364). The start state's
result is `y`. The search of a model that has stopped since the record passed step 14 ends with its start state (R370, log 139). -/
def startSearch (slot : Nat) (d : DetourCfg) (m : Model) (r : RecCtx) (req : ReasonReq) (y : Nat) (s : State) : State :=
  let zero := d.feats.map (fun _ => (0 : Int))
  let x : Search :=
    { model := m.id, tenant := r.tenant, handle := r.handle, recId := r.recId, cookie := r.cookie, src := r.src
      reply := r.reply, slots := r.slots, side := r.side, req := req, startTick := s.time.tick, step := 0, temp := d.t0
      offs := zero, y := y, best := zero, bestY := y, bestE := stateEnergy d req zero y, bestReached := reached req y
      sinceBest := 0, cands := [], recheck := none }
  let s := count (cTen r.tenant (tDtr 0)) 1 { s with searches := kvSet s.searches slot x }
  if x.bestReached || m.state == .stopping then endSearch slot false s else beginStep slot d x s

/-! ## Candidate results -/

/-- The time limit of a search, cycle 0 of tick start + limit, lies behind (R369). -/
def limitPast (s : State) (d : DetourCfg) (x : Search) : Bool := 1024 * (x.startTick + d.limit) < s.now

/-- CANDIDATE_RESULT: a candidate's FP32 result goes to its search, or ends it when a channel carries POI; its context is
released (R197, R366, R370). A result that comes after the expiry cycle of the time limit is discarded (R369). -/
def execCandidateResult (ctx : CtxId) (s : State) : Host.Outcome State Fault Refusal :=
  match s.ctx? ctx with
  | none => .next s
  | some r =>
    match r.src, s.model? r.model with
    | .detour slot k, some m =>
      if !r.fused then .next s
      else
        match kvGet s.searches slot with
        | none => .next (freeContext ctx s)
        | some x =>
          let y := resultOf m.image r.margins x.req.channel
          let late := (searchCfg s x).elim false (fun d => limitPast s d x)
          let poi := r.results.any (fun v => v.flags &&& flagPoi != 0)
          let s := count (cTen r.tenant (tDtr 4)) 1 (freeContext ctx s)
          if late then .next s
          else if poi then .next (endSearch slot false s)
          else
            let x := if k = recheckCand then { x with recheck := some (some y) }
              else { x with cands := x.cands.modify k (fun c => { c with y := some y }) }
            .next { s with searches := kvSet s.searches slot x }
    | _, _ => .next s

/-! ## The move (R367, R368) -/

/-- Weights of the candidates of a draw: 0 for those that are not live. -/
def moveWeights (de : List (Option Nat)) (t : Nat) : List Nat :=
  let lo := de.foldl (fun m e => match e with | some v => if f32Lt v m then v else m | none => m) f32Max
  de.map (fun e => match e with
    | some v => (f32Exp (f32Minus (f32Div (f32Sub v lo).1 t).1)).1
    | none => 0)

/-- The running sum of R367: the first live candidate at which it passes the target, or the last of positive weight. -/
def pickMove (target : Nat) : List (Option Nat × Nat) → Nat → Nat → Option Nat → Option Nat
  | [], _, _, last => last
  | (none, _) :: r, j, sum, last => pickMove target r (j + 1) sum last
  | (some _, w) :: r, j, sum, last =>
    let sum' := (f32Add sum w).1
    let last' := if f32Lt 0 w then some j else last
    if f32Lt target sum' then some j else pickMove target r (j + 1) sum' last'

/-- One draw of R367 over the energy differences of the candidates it may choose from. -/
def chooseMove (de : List (Option Nat)) (t r : Nat) : Option Nat :=
  let ws := moveWeights de t
  let u := (roundMag fmt32 (r / 256) (2 ^ 24)).1
  pickMove (f32Mul (pairwise ws).1 u).1 (de.zip ws) 0 0 none

/-- Energy difference of every live candidate. -/
def moveDeltas (d : DetourCfg) (x : Search) : List (Option Nat) :=
  let e0 := stateEnergy d x.req x.offs x.y
  x.cands.zipIdx.map (fun p =>
    match p.1.live, p.1.y with
    | true, some y => some (f32Sub (stateEnergy d x.req (candOffs x p.2) y) e0).1
    | _, _ => none)

/-- Draw up to `n` moves: each over the live candidates whose feature no earlier draw chose (R368). -/
def drawMoves (d : DetourCfg) (x : Search) : Nat → Nat → List (Option Nat) → List Nat
  | 0, _, _ => []
  | n + 1, k, de =>
    match chooseMove de x.temp (srDraw d.seed x.recId (0x04000000 + x.step) k) with
    | none => []
    | some j =>
      let feat := (x.cands.getD j ⟨0, false, false, false, none⟩).feat
      let rest := (de.zip x.cands).map (fun p => if p.2.feat = feat then none else p.1)
      j :: drawMoves d x n (k + 1) rest

/-- The drawn moves that are applied, in ascending slot order: those whose feature's interaction mask names no feature
already moved (R368). -/
def applicable (d : DetourCfg) (x : Search) : List Nat → List Nat → List Nat
  | [], _ => []
  | j :: r, moved =>
    let f := (x.cands.getD j ⟨0, false, false, false, none⟩).feat
    let mask := (d.feats.getD f ⟨0, 0, 0, 0, 0⟩).mask
    if moved.any (fun g => bit mask g) then applicable d x r moved else j :: applicable d x r (f :: moved)

/-- The next temperature (R367). -/
def nextTemp (d : DetourCfg) (t : Nat) : Nat :=
  let u := (f32Mul t d.alpha).1
  if f32Lt u d.tmin then d.tmin else u

/-- Every result a step waits for has returned. -/
def stepReady (x : Search) : Bool :=
  x.cands.all (fun c => !c.live || c.y.isSome) && x.recheck != some none

/-- Take a step's choice: the moves, the new state and temperature. A state of more than one move has its result
evaluated with the next step's candidates. -/
def takeMoves (d : DetourCfg) (x : Search) : Search × Nat :=
  let drawn := sortBy (fun a b => a ≤ b) (drawMoves d x d.width 0 (moveDeltas d x))
  let moves := applicable d x drawn []
  let offs := moves.foldl (fun o j => match x.cands[j]? with | some c => moveBy o c.feat c.up | none => o) x.offs
  let x' := { x with offs := offs, step := x.step + 1, temp := nextTemp d x.temp, recheck := none }
  let skipped := drawn.length - moves.length
  match moves with
  | [j] =>
    let y := ((x.cands[j]?).bind (·.y)).getD x.y
    (visit d offs y { x' with y := y }, skipped)
  | [] => (x', skipped)
  | _ => ({ x' with recheck := some none }, skipped)

/-- The choice of a step whose results are in: the engine moves, and requests the next candidates, or ends the search with
`timeLimit` when its time is over (R366 to R369). -/
def stepChoice (slot : Nat) (d : DetourCfg) (x : Search) (timeLimit : Bool) (s : State) : State :=
  let x := match x.recheck with
    | some (some y) => visit d x.offs y { x with y := y, recheck := none }
    | _ => x
  if patienceOver d x then endSearch slot false { s with searches := kvSet s.searches slot x }
  else
    let r := takeMoves d x
    let s := count (cTen x.tenant (tDtr 3)) 1 (count (cTen x.tenant (tDtr 6)) r.2 s)
    let s := { s with searches := kvSet s.searches slot r.1 }
    if d.steps ≤ r.1.step || patienceOver d r.1 then endSearch slot false s
    else if timeLimit then endSearch slot true s
    else beginStep slot d r.1 s

/-- MOVE_CHOICE: the step's results are in; the engine chooses, and requests the next candidates or ends (R366 to R369). -/
def execMoveChoice (slot : Fin 16) (s : State) : Host.Outcome State Fault Refusal :=
  match kvGet s.searches slot with
  | none => .next s
  | some x =>
    match searchCfg s x with
    | none => .next s
    | some d => if stepReady x then .next (stepChoice slot d x (limitPast s d x) s) else .next s

/-- DETOUR_TIME_LIMIT: the search's time limit has expired, at cycle 0 of tick start + limit. Where a result of the expiry cycle
or before completed the step, the choice runs first and the step counts (R284, R369). -/
def execDetourTimeLimit (slot : Fin 16) (s : State) : Host.Outcome State Fault Refusal :=
  match kvGet s.searches slot with
  | none => .next s
  | some x =>
    match searchCfg s x with
    | none => .next s
    | some d =>
      if !limitPast s d x then .next s
      else if stepReady x then .next (stepChoice slot d x true s)
      else .next (endSearch slot true s)

end Sys2Proof.Machine
end

