-- ==== Sys2Proof/Machine/Summit.lean ====
section
/-! DEFINITION. Summit: the fused output, score frames, the transmit path, cross-chip waits and feedback gradients (chapter 9, R79, R32). -/

namespace Sys2Proof.Machine

/-! ## The ensemble row (R189 to R192) -/

/-- Members whose terms are missing, as a mask, member 0 among them (R192). -/
def missingMembers (m : Model) (r : RecCtx) : Nat :=
  (List.range m.image.members).foldl (fun a k =>
    if k = 0 then (if r.term0At.isNone then a + 1 else a)
    else if (kvGet r.terms k).isNone then a + 2 ^ k else a) 0

/-- Every member's term has arrived. -/
def termsDone (m : Model) (r : RecCtx) : Bool := r.term0At.isSome && missingMembers m r == 0

/-- Channel values of a record from its ensemble row. -/
def channelValues (m : Model) (r : RecCtx) : List Val :=
  (r.final.zipIdx).map (fun x =>
    ensembleSum m.image.fmode (x.1 :: ((List.range m.image.members).filterMap (fun k =>
      if k = 0 then none else (kvGet r.terms k).bind (fun vs => vs[x.2]?)))))

/-- POI of a record whose tables or walk met poison outside a pass (R246). -/
def markPoison (r : RecCtx) (vs : List Val) : List Val :=
  if r.poi then vs.map (fun v => { v with flags := v.flags ||| flagPoi }) else vs

/-- Size of a port's transmit queue. -/
def txqSize : Nat := 65536

/-- Bytes in a transmit queue. -/
def txqBytes (p : PortSt) : Nat := (p.txq.map (·.bytes.length)).sum

/-- The oldest finished frame of a port finds no room in the transmit queue: the wait SMT_STALL_TXQ counts (R198, R272). -/
def txStalled (s : State) (l : Nat) : Bool :=
  let p := s.port l
  match p.ready with
  | [] => false
  | f :: _ => p.link && txqSize < txqBytes p + s.txqUnusable l + f.bytes.length

/-- An answer finds its stream's staging full and Summit waits: the wait SMT_STALL_RING counts (R303). -/
def ringStall (x : Stream) : Bool := x.answers.any (fun a => !a.staged)

/-- The assembler a record's answer goes through holds a finished frame that cannot leave, so Summit stalls: there is one
for each Ethernet port and one for host rings (R79, R198, R199, R303). A candidate's result goes through none. -/
def assemblerStalled (s : State) (r : RecCtx) : Bool :=
  match r.src with
  | .ethernet => (List.range 4).any (fun i => txStalled s (r.reply.port / 4 * 4 + i))
  | .ring _ _ _ => s.dma.streams.any ringStall
  | _ => false

/-- SUMMIT_FUSED_OUTPUT: the cross-chip sum, scale, bias, link and conversion of a record whose terms are all in (R191,
R195, R196). While the record's assembler is stalled, Summit stalls (R79). -/
def execSummitFusedOutput (ctx : CtxId) (s : State) : Host.Outcome State Fault Refusal :=
  match s.ctx? ctx with
  | none => .next s
  | some r =>
    match stageModel s r, s.model? r.model with
    | some m, some head =>
      if r.state ≠ .summit ∨ r.fused ∨ r.ended.isSome ∨ !termsDone head r ∨ assemblerStalled s r then .next s
      else
        let f := fuse m.image (markPoison r (channelValues m r))
        let s := count (cSmt 3) 1 (count (cSmt 4) (if f.set_ &&& flagSat ≠ 0 then 1 else 0)
          (count (cSmt 5) (if f.set_ &&& flagUnf ≠ 0 then 1 else 0) s))
        let s := giveBack (if outQueued s r then [.summit] else []) s
        .next (modCtx ctx (fun r => { r with margins := f.margins, results := f.results, fused := true }) s)
    | _, _ => .next s

/-! ## Score frames (R198, R352, R364) -/

/-- A search slot that is free, lowest first. -/
def freeSearch (s : State) : Option Nat := (List.range 16).find? (fun i => (kvGet s.searches i).isNone)

/-- The search a scored record asks for: its slot, configuration and request, when one can start. A held model starts none
(R389). -/
def searchFor (s : State) (m : Model) (r : RecCtx) : Option (Nat × DetourCfg × ReasonReq) :=
  if m.detourHold then none
  else match r.reason, m.image.detour, freeSearch s with
  | some q, some d, some i => some (i, d, q)
  | _, _, _ => none

/-- Hand a score message to its destination; the context stays held until it leaves (R197, R198, R303). -/
def sendScore (c : Nat) (r : RecCtx) (msg : List Byte) (s : State) : State :=
  match r.src with
  | .ring g number element => ringAnswer g number element false msg (some c) s
  | _ => readyFrame r.reply .score (some c) msg r.accepted true s

/-- SCORE_FRAME_ASSEMBLY: the score frame of a fused record is built, its trace entry written and its Detour search
started; a search that ends at once sends its reason frame after the score frame (R198, R352, R364). -/
def execScoreFrameAssembly (ctx : CtxId) (s : State) : Host.Outcome State Fault Refusal :=
  match s.ctx? ctx with
  | none => .next s
  | some r =>
    match r.src, stageModel s r, s.model? r.model with
    | .detour _ _, _, _ => .next s
    | _, some m, some head =>
      if !r.fused || r.ended.isSome || assemblerStalled s r then .next s
      else
        let traced := traceable head r.results && (s.refit? head.id).isSome
        let s := if traced then traceWrite head r s else s
        let want := r.reason.isSome && head.image.detour.isSome
        let find := if want then searchFor s head r else none
        let s := if want && find.isNone then count (cTen r.tenant (tDtr 5)) 1 s else s
        let s := modCtx ctx (fun r => { r with ended := some (if r.heal then 1 else 0, 0) }) s
        let s := sendScore ctx r (scoreMsg r m.image.out.format traced find.isSome) s
        match find with
        | none => .next s
        | some (i, d, q) => .next (startSearch i d head r q (resultOf m.image r.margins q.channel) s)
    | _, _, _ => .next s

/-! ## Transmit queue and MAC (R64, R79, R32) -/

/-- A frame that falls due while the link is down is discarded and counted; a control frame is not sent (R64). -/
def linkDownDrop (l : Nat) (f : TxFrame) (s : State) : State :=
  if f.kind = .control then s else count (cPrt l pTxLinkDown) 1 s

/-- TRANSMIT_QUEUE_ENTRY: the oldest finished frame of a port enters its transmit queue and its record's context is
released; with the link down it is discarded (R64, R79). A CLOSED port sends nothing: a frame that is left for one is
dropped (R62). -/
def execTransmitQueueEntry (port : LPort) (s : State) : Host.Outcome State Fault Refusal :=
  let p := s.port port
  match p.ready with
  | [] => .next s
  | f :: rest =>
    if p.mode = .closed then .next (freeContext? f.ctx (modPort port (fun p => { p with ready := rest }) s))
    else if !p.link then
      .next (freeContext? f.ctx (linkDownDrop port f (modPort port (fun p => { p with ready := rest }) s)))
    else if txStalled s port then .next s
    else .next (freeContext? f.ctx (modPort port (fun p => { p with ready := rest, txq := p.txq ++ [{ f with ctx := none }] }) s))

/-- The counter of a frame handed to the MAC (Table 4.10). -/
def txCounter : TxKind → Option Nat
  | .score => some pTxScore
  | .error => some pTxError
  | .reason => some pTxReason
  | .control => none

/-- Update the latency counters of R32. -/
def latency (l n : Nat) (s : State) : State :=
  setCounter (cPrt l pLatMax) (max n (s.counter (cPrt l pLatMax))) (setCounter (cPrt l pLatLast) n s)

/-- TX_MAC_HANDOFF: the first frame whose priority is not paused goes to the transmit MAC; an answer with status OK or
DEGRADED updates the latency counters (R32, R69). -/
def execTxMacHandoff (port : LPort) (s : State) : Host.Outcome State Fault Refusal :=
  let p := s.port port
  match p.txq.find? (fun f => (kvGet p.paused f.pcp).isNone) with
  | none => .next s
  | some f =>
    let s := giveBack [.txq port.val f.bytes.length] (modPort port (fun p => { p with txq := p.txq.erase f }) s)
    if p.mode = .closed then .next s
    else if !p.link then .next (linkDownDrop port f s)
    else
      let s := emit (.frame port f.kind f.bytes) s
      let s := match txCounter f.kind with | some k => count (cPrt port k) 1 s | none => s
      .next (if f.scored then latency port (s.now - f.accepted) s else s)

/-! ## The cross-chip wait (R192) -/

/-- XCHIP_WAIT_EXPIRY: w ticks after the multicast a term is still missing: the event, and UNIT_FAULT under every policy. A
term that arrives in the cycle of expiry has arrived, so the wait ends once that cycle has passed. -/
def execXchipWaitExpiry (ctx : CtxId) (s : State) : Host.Outcome State Fault Refusal :=
  match s.ctx? ctx with
  | none => .next s
  | some r =>
    match s.model? r.model, r.mcAt with
    | some m, some t0 =>
      if r.ended.isSome || termsDone m r || s.now ≤ t0 + m.image.out.wait * 1024 then .next s
      else
        let s := raise 0x0501 r.tenant (leBytes 2 r.handle ++ leBytes 2 (missingMembers m r) ++ zeros 4 ++ leBytes 8 r.recId) s
        .next (unitFault ctx 0x40 (count (cTen r.tenant tXchipTimeouts) 1 s))
    | _, _ => .next s

/-! ## Feedback gradients (R200, R201) -/

/-- Label of a logistic loss limited to [0, 1], and whether it was. -/
def limitLabel (y : Nat) : Nat × Bool :=
  if f32Lt y 0 then (0, true) else if f32Lt f32One y then (f32One, true) else (y, false)

/-- Gradient, hessian, g's SAT flag and whether the label was limited (Table 9.4). -/
def gradient (loss zm label : Nat) : (Nat × Nat × Bool) × Bool :=
  if loss = 1 then
    let y := limitLabel label
    let p := (f32Logistic zm).1
    let g := f32Sub p y.1
    ((g.1, (f32Mul p (f32Sub f32One p).1).1, g.2 &&& flagSat != 0), y.2)
  else
    let g := f32Sub zm label
    ((g.1, f32One, g.2 &&& flagSat != 0), false)

/-- Why a granted feedback frame is discarded, as the number of its RFT counter: the first of R353 that applies. -/
def feedbackFault (s : State) (m : Model) (x : RefitSt) (f : Feedback) : Option Nat :=
  match traceLookup s m x f.recId with
  | none => some 2
  | some off =>
    let e := areaBytes s x off (traceEntrySize m)
    if leAt e 8 2 ≠ m.version % 65536 then some 3
    else if bit (leAt e 16 8) f.channel then some 4
    else if tracePoison s m x f.recId off then some 5
    else none

/-- A record is ready to enter the fused output: it goes ahead of feedback (R201). -/
def fusedWaiting (s : State) : Bool :=
  s.ctxs.any (fun p => p.2.state == .summit && !p.2.fused && p.2.ended.isNone &&
    (s.model? p.2.model).elim false (fun m => termsDone m p.2))

/-- The first granted feedback frame whose gradient is to be computed. -/
def nextGradient (s : State) : Option (Nat × Feedback × Model × RefitSt × Nat) :=
  (s.feedback.zipIdx).findSome? (fun p =>
    if p.1.granted && p.1.gh.isNone then
      match s.model? p.1.model, s.refit? p.1.model with
      | some m, some x =>
        if (feedbackFault s m x p.1).isSome then none
        else (traceLookup s m x p.1.recId).map (fun off => (p.2, p.1, m, x, off))
      | _, _ => none
    else none)

/-- Largest of two magnitudes. -/
def magMax (a b : Nat) : Nat := max (f32Abs a) (f32Abs b)

/-- FEEDBACK_GRADIENT: with no record ready, Summit computes g and h of a granted feedback frame from its trace entry
(R200, R201). -/
def execFeedbackGradient (s : State) : Host.Outcome State Fault Refusal :=
  if fusedWaiting s then .next s
  else
    match nextGradient s with
    | none => .next s
    | some (i, f, m, x, off) =>
      let zm := leNat (areaBytes s x (off + 32 + 4 * f.channel) 4)
      let r := gradient m.image.out.loss zm f.label
      let s := count (cSmt 6) 1 (if r.2 then count (cSmt 8) 1 s else s)
      let s := modRefit m.id (fun x => { x with
        gMax := x.gMax.modify 0 (magMax r.1.1), hMax := x.hMax.modify 0 (magMax r.1.2.1) }) s
      .next { s with feedback := s.feedback.modify i (fun f => { f with gh := some r.1 }) }

end Sys2Proof.Machine
end

