-- ==== Sys2Proof/Machine/Admission.lean ====
section
/-! DEFINITION. Admission at step 18: LATENCY reservations, the THROUGHPUT queue limit and thermal shedding (R253 to R256, R268). -/

namespace Sys2Proof.Machine

/-! ## Standing reservations (R253, R255) -/

/-- An action that ends a model's reservation when it lands: its stop, or its tenant disabled, preempted or released. -/
def endsReservation (m : Model) : Due → Bool
  | .modelStop id => id == m.id
  | .tenantState t op => t == m.tenant && (op == 2 || op == 3 || op == 5)
  | .disableTenant t => t == m.tenant
  | _ => false

/-- The reservation of a model stands in the current tick for records not yet admitted; an image being replaced keeps its
reservation for those it admitted before the switch (R255). -/
def standsNow (s : State) (m : Model) : Bool := m.standing && !m.replaced && (s.tenant m.tenant).state == .enabled

/-- The reservation stands in the next tick as well: nothing due at the next Milestone ends it. -/
def standsNext (s : State) (m : Model) : Bool :=
  standsNow s m && !s.due.any (fun d => d.1 < s.time.epoch && endsReservation m d.2)

/-- Records of a model admitted to a tick. -/
def admittedIn (s : State) (m : Model) (tick : Nat) : Nat :=
  ((s.disp.admittedAt.filter (fun a => a.1 == m.id && a.2.1 == tick)).map (fun a => a.2.2)).sum

/-- Count one more record of a model admitted to a tick. -/
def admitTo (m : Model) (tick : Nat) (s : State) : State :=
  let n := admittedIn s m tick
  modDisp (fun d => { d with
    admittedAt := d.admittedAt.filter (fun a => !(a.1 == m.id && a.2.1 == tick)) ++ [(m.id, tick, n + 1)] }) s

/-! ## The current tick (R253 point 1) -/

/-- Cycles of a broadcast to a Ridge's window (Table 2.1). -/
def broadcastCycles : Nat := 20

/-- The models of all the stages of a head. -/
def allStages (s : State) (m : Model) : List Model := m :: stageModels s m

/-- Ridge-slots of one record of a model and its stages on physical Ridge `q`, as it is served now. -/
def recordSlotsOn (s : State) (m : Model) (q : Nat) : Nat :=
  ((allStages s m).map (fun x => ((List.range x.passCount).map (fun p =>
    ((logicalOn s x x.version p q).map (x.slotsOn x.version p)).sum)).sum)).sum

/-- LATENCY Ridge-slots bound on physical Ridge `q` and not issued. -/
def latencyBoundOn (s : State) (q : Nat) : Nat :=
  (((s.ridge q).bound.filter (fun b => b.prio == 0)).map (fun b =>
    (passSet s b.ctx b.pass).elim 0 (fun p => p.1.slotsOn p.2.version b.pass b.logical))).sum

/-- First issue position at which a record whose broadcast starts now could issue: on the grid of R29, not before 8. -/
def firstIssue (s : State) : Nat := alignUp (max 8 (s.time.cycle + broadcastCycles)) 4

/-- The last issue cycle of a record on every Ridge it uses is 1,020 or earlier. -/
def fitsTick (s : State) (m : Model) : Bool :=
  (List.range 68).all (fun q =>
    let own := recordSlotsOn s m q
    own == 0 || firstIssue s + 4 * (latencyBoundOn s q + own - 1) ≤ 1020)

/-- The tick a LATENCY record is admitted to, none when it is shed. -/
def latencyTick (s : State) (m : Model) : Option Nat :=
  let k := s.time.tick
  if standsNow s m && fitsTick s m && admittedIn s m k < m.rate then some k
  else if standsNext s m && admittedIn s m (k + 1) < m.rate then some (k + 1)
  else none

/-! ## Shedding -/

/-- Answer a record SHED with reason 0x20 (thermal) or 0x21 (slots), counted (R268, Table 12.5). -/
def shedRecord (c reason : Nat) (s : State) : State :=
  endRecord c 2 reason (count (cMls (if reason = 0x20 then 3 else 2)) 1 s)

/-- Waiting THROUGHPUT records of a tenant. -/
def waitingOf (s : State) (t : Nat) : Nat :=
  s.disp.waiting.countP (fun c => (s.ctx? c).elim false (fun r => r.tenant == t))

/-- A record that came from a host ring. -/
def isRing (r : RecCtx) : Bool := match r.src with | .ring _ _ _ => true | _ => false

/-- A record passes step 18 and takes its place in the order of admission: it awaits its passes. -/
def passAdmission (c : Nat) (r : RecCtx) (tick : Option Nat) (s : State) : State :=
  let s := if isEthernet r then count (cPrt r.reply.port pRecords) 1 s else s
  modDisp (fun d => { d with nextPlace := d.nextPlace + 1 })
    (modCtx c (fun r => { r with state := .awaiting, admitted := tick, prog := none, place := s.disp.nextPlace }) s)

/-- Step 18 of Table 4.8 for one record: preemption, then heat, then the class's own rule (R253, R255, R256, R268). -/
def takeIn (c : Nat) (r : RecCtx) (m : Model) (s : State) : State :=
  if (s.tenant r.tenant).preempted then shedRecord c 0x21 s
  else if m.latency then
    if 3 ≤ s.disp.level then shedRecord c 0x20 s
    else
      match latencyTick s m with
      | none => shedRecord c 0x21 s
      | some k =>
        let s := count (cMls 0) 1 (count (cMls 1) (if s.time.tick < k then 1 else 0) s)
        passAdmission c r (some k) (admitTo m k s)
  else if 2 ≤ s.disp.level && !isRing r then shedRecord c 0x20 s
  else if !isRing r && (s.tenant r.tenant).quota.tpQueue ≤ waitingOf s r.tenant then shedRecord c 0x21 s
  else modDisp (fun d => { d with waiting := d.waiting ++ [c] }) (passAdmission c r none s)

/-- A member's record has no program to run (R338). -/
def isMember (r : RecCtx) : Bool := match r.src with | .member _ _ => true | _ => false

/-- A record's multicast still waits on a Saddle: the credits there hold back the dispatcher's input (Table 12.6). -/
def multicastWaits (s : State) (c : Nat) : Bool :=
  s.zth.saddles.any (fun x => x.outq.any (fun m => m.from_ == 16 && msgOp m.bytes == 0x45 && msgTag m.bytes == c))

/-- A record is the first of its pipeline in the queue to the dispatcher. -/
def firstInQueue (s : State) (c : Nat) (r : RecCtx) : Bool :=
  s.disp.inq.find? (fun k => (s.ctx? k).elim false (fun x => pipeOf s x == pipeOf s r)) == some c

/-- DISPATCHER_ADMISSION: the first record of a pipeline's queue to the dispatcher, or a record that came to a member, is
admitted or shed; a record whose multicast has not left waits (R253 to R256, R271). -/
def execDispatcherAdmission (ctx : CtxId) (s : State) : Host.Outcome State Fault Refusal :=
  let s := fillDispatch s
  match (s.ctx? ctx).bind (fun r => (s.model? r.model).map (fun m => (r, m))) with
  | none => .next s
  | some (r, m) =>
    if r.ended.isSome then .next s
    else if isMember r then (if r.state = .signpost then .next (takeIn ctx r m s) else .next s)
    else if firstInQueue s ctx r && !multicastWaits s ctx then
      .next (takeIn ctx r m (giveBack [.disp (pipeOf s r)] (modDisp (fun d => { d with inq := d.inq.filter (· != ctx.val) }) s)))
    else .next s

end Sys2Proof.Machine
end

