-- ==== Sys2Proof/Machine/Refit.lean ====
section
/-! DEFINITION. The leaf refit unit: feedback, statistics, decay, proposal and commit (R57, R353 to R362). -/

namespace Sys2Proof.Machine

/-! ## Statistics blocks (R57, R355) -/

/-- A statistics block: 64 mantissas, its exponent and its flags ([0] SAT, [1] POISONED). -/
structure Block where
  ms : List Int
  e : Int
  flags : Nat
deriving DecidableEq, Repr

/-- Read a block of 136 bytes. -/
def Block.ofBytes (bs : List Byte) : Block :=
  ⟨(List.range 64).map (fun i => toSigned 16 (leAt bs (2 * i) 2)), toSigned 8 (byteAt bs 128), byteAt bs 129⟩

/-- The bytes of a block. -/
def Block.bytes (b : Block) : List Byte :=
  b.ms.flatMap (fun m => leBytes 2 (ofSigned 16 m)) ++ leBytes 1 (ofSigned 8 b.e) ++ leBytes 1 b.flags ++ zeros 6

/-- The exact value of mantissa `j`. -/
def Block.value (b : Block) (j : Nat) : Frac := scaleTwo (b.ms.getD j 0) b.e

/-- Steps 1 and 2 of R57: round, and on overflow raise the exponent, halve the other mantissas and round again. `rescale`
gives the draw of a halved mantissa. -/
def Block.round (j : Nat) (v : Frac) (draw : Nat) (rescale : Nat → Nat) : Nat → Block → Block
  | 0, b => b
  | k + 1, b =>
    let m := srInt (fracDiv v (scaleTwo 1 b.e)) draw
    if m.natAbs ≤ 32767 then { b with ms := b.ms.set j m }
    else if b.e < 127 then
      Block.round j v draw rescale k
        { b with ms := b.ms.zipIdx.map (fun x => if x.2 = j then x.1 else srInt (x.1, 2) (rescale x.2)), e := b.e + 1 }
    else { b with ms := b.ms.set j (if m < 0 then -32767 else 32767), flags := b.flags ||| 1 }

/-- Step 3 of R57. -/
def Block.settle (b : Block) : Block :=
  if -128 < b.e ∧ b.ms.all (fun m => m.natAbs ≤ 16383) then { b with ms := b.ms.map (2 * ·), e := b.e - 1 } else b

/-- Write the exact value `v` to mantissa `j` of block `b` of the tree with index `tree` (R57, R355). -/
def Block.write (seed recId tree b j : Nat) (v : Frac) (x : Block) : Block :=
  let leaf := fun (i : Nat) => tree * 256 + 64 * (b % 4) + i
  let site := if b < 4 then 0x02000000 else 0x03000000
  (Block.round j v (srDraw seed recId site (leaf j)) (fun i => srDraw seed recId (site + 1) (leaf i)) 256 x).settle

/-- Set flags of a block in place. -/
def blockFlags (x : RefitSt) (off fl : Nat) (s : State) : State :=
  let a := plotAddr x.plots (off + 129)
  modMem (fun m => memPutByte m a (memByte m a ||| BitVec.ofNat 8 fl)) s

/-- Words of a statistics block. -/
def blockWords : Nat := 17

/-- One statistics write: block `b` of the member's tree number `t`, tree index `tree`, mantissa `j`. A poisoned word
skips it and sets POISONED (R357). -/
def statWrite (ecc : List EccFind) (m : Model) (x : RefitSt) (recId t tree b j : Nat) (f : Frac → Frac) (sat : Bool) (s : State) :
    State :=
  let off := blockOff m t b
  let s := areaRead ecc x off 136 s
  if areaPoisoned s x off 136 then blockFlags x off 2 s
  else
    let k := Block.ofBytes (areaBytes s x off 136)
    let k := k.write m.image.seed recId tree b j (f (k.value j))
    areaWrite x off ({ k with flags := if sat then k.flags ||| 1 else k.flags }).bytes s

/-- Zero the statistics with whole words, clearing poison and flags (R357). -/
def zeroStats (m : Model) (x : RefitSt) (s : State) : State :=
  (List.range (treeCount m)).foldl (fun s t =>
    (List.range 8).foldl (fun s b => areaWrite x (blockOff m t b) (zeros 136) s) s) s

/-! ## Applying feedback (R353 to R355) -/

/-- Mark channel `c` of a trace entry labelled, with one whole-word write. -/
def setLabelled (x : RefitSt) (off c : Nat) (s : State) : State :=
  areaWrite x (off + 16) (leBytes 8 (leAt (areaBytes s x (off + 16) 8) 0 8 ||| 2 ^ c)) s

/-- Add g and h to the leaves that a trace entry names, for each tree of channel `c` in ascending index; the finds of a tree's
two writes follow those of the tree before. -/
def applyPair (ecc : List EccFind) (m : Model) (x : RefitSt) (off recId c : Nat) (g h : Frac) (sat : Bool) (s : State) : State :=
  let e := areaBytes s x off (traceEntrySize m)
  (((memberTrees m m.version).zipIdx.filter (fun p => p.1.1.tree.channel == c)).zipIdx).foldl (fun s q =>
    let p := q.1
    let l := byteAt e (32 + 4 * traceChannels m + p.2)
    let ecc := shiftEcc (2 * blockWords * q.2) ecc
    let s := statWrite ecc m x recId p.2 p.1.2 (l / 64) (l % 64) (fracAdd · g) sat s
    statWrite (shiftEcc blockWords ecc) m x recId p.2 p.1.2 (4 + l / 64) (l % 64) (fracAdd · h) false s) s

/-- Steps 4 and 5 of R353: the label, and the statistics unless accumulation is paused. -/
def applyFeedback (ecc : List EccFind) (m : Model) (x : RefitSt) (off recId c : Nat) (g h : Frac) (sat : Bool) (s : State) : State :=
  let s := setLabelled x off c s
  if x.paused then count (cTen m.tenant (tRft 1)) 1 s
  else count (cTen m.tenant (tRft 0)) 1 (applyPair ecc m x off recId c g h sat s)

/-! ## Gradients to other members (R339, R340, R362) -/

/-- The largest magnitude of the four completed ticks. -/
def lastFour (xs : List Nat) : Nat := (xs.drop 1).foldl max 0

/-- One REFIT_GH entry's 12 bytes and the number of its values that were limited. -/
def ghEntry (eg eh : Int) (p : Nat × Nat × Nat × Nat) : List Byte × Nat :=
  let g := narrowCode (f32Val p.2.2.1) eg
  let h := narrowCode (f32Val p.2.2.2) eh
  (beBytes 8 p.1 ++ beBytes 1 p.2.1 ++ beBytes 1 (ofSigned 8 g.1) ++ beBytes 1 (ofSigned 8 h.1) ++ [0],
    (if g.2 then 1 else 0) + (if h.2 then 1 else 0))

/-- Send the pending pairs of a model to its group. -/
def sendGh (id : Nat) (s : State) : State :=
  match s.model? id, s.refit? id with
  | some m, some x =>
    if x.ghPending.isEmpty then s
    else
      let eg := narrowExp (f32Val (lastFour x.gMax))
      let eh := narrowExp (f32Val (lastFour x.hMax))
      let es := x.ghPending.map (ghEntry eg eh)
      let body := beBytes 1 es.length ++ beBytes 1 (ofSigned 8 eg) ++ beBytes 1 (ofSigned 8 eh) ++ zeros 13 ++ es.flatMap (·.1)
      let msg := mkMsg s 0x47 m.group m.tenant (if m.latency then 5 else 1) 0 (beBytes 2 m.handle ++ zeros 4) body
      send msg (count (cZth 3) ((es.map (·.2)).sum) (modRefit id (fun x => { x with ghPending := [] }) s))
  | _, _ => s

/-- Hold an applied pair of member 0 for the other members; sixteen are sent at once. -/
def queueGh (m : Model) (recId c g h : Nat) (s : State) : State :=
  if m.image.members ≤ 1 ∨ m.member ≠ 0 then s
  else
    let s := modRefit m.id (fun x => { x with ghPending := x.ghPending ++ [(recId, c, g, h)] }) s
    if 16 ≤ (s.refit? m.id).elim 0 (·.ghPending.length) then sendGh m.id s else s

/-- FEEDBACK_PROCESS: the first granted feedback frame is discarded by cause, or applied once Summit has its gradient
(R353). -/
def execFeedbackProcess (s : State) (ecc : List EccFind := []) : Host.Outcome State Fault Refusal :=
  match s.feedback.zipIdx.find? (fun p => p.1.granted) with
  | none => .next s
  | some (f, i) =>
    let gone := { s with feedback := s.feedback.eraseIdx i }
    match s.model? f.model, s.refit? f.model with
    | some m, some x =>
      if (feedbackFault s m x f).isNone && f.gh.isNone then .next s
      else
        let s := lookupReads ecc m x f.recId gone
        match feedbackFault s m x f, traceLookup s m x f.recId, f.gh with
        | none, some off, some (g, h, sat) =>
          let s := applyFeedback (shiftEcc (lookupWords m) ecc) m x off f.recId f.channel (f32Val g) (f32Val h) sat s
          .next (if x.paused then s else queueGh m f.recId f.channel g h s)
        | k, _, _ => .next (count (cTen m.tenant (tRft (k.getD 5))) 1 s)
    | _, _ => .next gone

/-! ## Decay (R356) -/

/-- Sweep one block: each mantissa in turn takes β times its value; a block that meets poison is skipped (R357). -/
def decayBlock (ecc : List EccFind) (m : Model) (x : RefitSt) (recId beta t tree b : Nat) (s : State) : State :=
  let off := blockOff m t b
  let s := areaRead ecc x off 136 s
  if areaPoisoned s x off 136 then blockFlags x off 2 s
  else
    let k := (List.range 64).foldl (fun (k : Block) j => k.write m.image.seed recId tree b j (fracMul (f32Val beta) (k.value j)))
      (Block.ofBytes (areaBytes s x off 136))
    areaWrite x off k.bytes s

/-- Background work granted in full. -/
def takeGrant (b : BgReq) (s : State) : State := modDisp (fun d => { d with granted := d.granted.erase b }) s

/-- Blocks that the plans have still to grant to a model's decay sweep, none when none is under way. -/
def decayLeft (s : State) (id : Nat) : Option Nat :=
  if s.disp.granted.contains (.decay id 0) then some 0
  else s.disp.bg.findSome? (fun b => match b with | .decay m l => if m = id then some l else none | _ => none)

/-- Block pairs that the plans have still to grant to a model's proposal pass. -/
def proposalLeft (s : State) (id : Nat) : Option Nat :=
  if s.disp.granted.contains (.proposal id 0) then some 0
  else s.disp.bg.findSome? (fun b => match b with | .proposal m l => if m = id then some l else none | _ => none)

/-- A unit of a sweep or pass of a member: the member's tree number, its tree and tree index, and block `u % k` of `k`. -/
def sweepUnit (m : Model) (k u : Nat) : Option (Nat × Placed × Nat × Nat) :=
  ((memberTrees m m.version)[u / k]?).map (fun p => (u / k, p.1, p.2, u % k))

/-- DECAY_SWEEP: the blocks that the plans have granted so far, in ascending address order, are scaled by β; with the last one
the sweep ends (R356). The n-th block has words 17n to 17n + 16 of the finds. -/
def execDecaySweep (tenant : Tid) (handle : Nat) (s : State) (ecc : List EccFind := []) :
    Host.Outcome State Fault Refusal :=
  match s.handle? tenant handle with
  | none => .next s
  | some m =>
    match s.refit? m.id, m.image.refit, decayLeft s m.id with
    | some x, some cfg, some left =>
      let upto := 8 * treeCount m - left
      let s := (List.range (upto - x.decayed)).foldl (fun s n =>
        (sweepUnit m 8 (x.decayed + n)).elim s (fun u =>
          decayBlock (shiftEcc (blockWords * n) ecc) m x (0xFFFFFFFF00000000 + x.sweeps) cfg.beta u.1 u.2.2.1 u.2.2.2 s)) s
      if left = 0 then
        .next (count (cTen m.tenant (tRft 7)) 1 (modRefit m.id (fun x => { x with sweeps := x.sweeps + 1, decayed := 0 })
          (takeGrant (.decay m.id 0) s)))
      else .next (modRefit m.id (fun x => { x with decayed := max x.decayed upto }) s)
    | _, _, _ => .next s

/-! ## Proposal (R359) -/

/-- The step of one leaf in margin units, limited to Δmax. -/
def marginStep (c : RefitCfg) (g h : Nat) : Nat :=
  let dm := f32Minus (f32Mul c.eta (f32Div g (f32Add h c.lambda).1).1).1
  if f32Lt c.dmax dm then c.dmax else if f32Lt dm (f32Minus c.dmax) then f32Minus c.dmax else dm

/-- The new value of a leaf and whether it saturated. -/
def proposeLeaf (m : Model) (c : RefitCfg) (chan : Nat) (old : Int) (g h : Nat) : Int × Bool :=
  if f32Lt h c.hmin then (old, false)
  else
    let dm := marginStep c g h
    let sc := (m.image.out.chans.getD chan (0, 0)).1
    if m.image.fmode then
      let y := f32Add old.toNat (f32Div dm sc).1
      ((y.1 : Nat), y.2 &&& flagSat != 0)
    else
      let k := roundEven (f32Val (f32Div dm (f32Mul m.image.qscale sc).1).1)
      let y := q16Sat (old + k)
      (y.1, y.2 &&& flagSat != 0)

/-- Reachable leaf indices of a flat tree, with the position of each value. -/
def leafSlots (t : Tree) : List (Nat × Nat) := ((List.range (2 ^ t.depth)).filter (bit t.bitmap)).zipIdx

/-- The statistics of a block pair, or none when either is poisoned. -/
def blockPair (m : Model) (x : RefitSt) (t b : Nat) (s : State) : Option (Block × Block) :=
  let g := areaBytes s x (blockOff m t b) 136
  let h := areaBytes s x (blockOff m t (4 + b)) 136
  let bad := areaPoisoned s x (blockOff m t b) 136 || areaPoisoned s x (blockOff m t (4 + b)) 136
  if bad || bit (byteAt g 129) 1 || bit (byteAt h 129) 1 then none else some (Block.ofBytes g, Block.ofBytes h)

/-- The shadow words of block pair `b` of one tree: leaf index, new value and whether it saturated. -/
def proposeTree (m : Model) (x : RefitSt) (c : RefitCfg) (t : Nat) (p : Placed) (b : Nat) (s : State) : List (Nat × Int × Bool) :=
  ((leafSlots p.tree).filter (fun l => l.1 / 64 == b)).map (fun l =>
    let old := (p.tree.leaves.getD l.2 ⟨0, 0, []⟩).raw
    match blockPair m x t (l.1 / 64) s with
    | none => (l.1, old, false)
    | some (g, h) =>
      let r := proposeLeaf m c p.tree.channel old (roundFrac fmt32 (g.value (l.1 % 64))).1 (roundFrac fmt32 (h.value (l.1 % 64))).1
      (l.1, r.1, r.2))

/-- Read a block as the pass does: a poisoned word sets its POISONED flag (R357). -/
def statRead (ecc : List EccFind) (m : Model) (x : RefitSt) (t b : Nat) (s : State) : State :=
  let off := blockOff m t b
  let s := areaRead ecc x off 136 s
  if areaPoisoned s x off 136 then blockFlags x off 2 s else s

/-- Write words of a tree's shadow table in whole words; other leaves keep their bytes. -/
def writeShadow (m : Model) (x : RefitSt) (t : Nat) (ls : List (Nat × Int × Bool)) (s : State) : State :=
  let page := ls.foldl (fun bs l => overlay bs (4 * l.1) (leBytes 4 (ofSigned 32 l.2.1))) (areaBytes s x (shadowOff m t 0) 1024)
  areaWrite x (shadowOff m t 0) page s

/-- One block pair of the proposal pass: it is read once, and its leaves' shadow words are written (R359). The result counts
the leaves that saturated. -/
def proposePair (ecc : List EccFind) (m : Model) (x : RefitSt) (c : RefitCfg) (u : Nat × Placed × Nat × Nat) (a : Nat × State) :
    Nat × State :=
  let s := statRead (shiftEcc blockWords ecc) m x u.1 (4 + u.2.2.2) (statRead ecc m x u.1 u.2.2.2 a.2)
  let ls := proposeTree m x c u.1 u.2.1 u.2.2.2 s
  (a.1 + ls.countP (fun l => l.2.2), writeShadow m x u.1 ls s)

/-- PROPOSAL_PASS_END: the block pairs that the plans have granted so far are read and their shadow words written, in ascending
tree; with the last one the shadow leaf table is complete and RFT_PROPOSAL_DONE is raised (R359). The n-th pair has words 34n
to 34n + 33 of the finds. -/
def execProposalPassEnd (tenant : Tid) (handle : Nat) (s : State) (ecc : List EccFind := []) :
    Host.Outcome State Fault Refusal :=
  match s.handle? tenant handle with
  | none => .next s
  | some m =>
    match s.refit? m.id, m.image.refit, proposalLeft s m.id with
    | some x, some cfg, some left =>
      let upto := 4 * treeCount m - left
      let r := (List.range (upto - x.proposed)).foldl (fun (a : Nat × State) n =>
        (sweepUnit m 4 (x.proposed + n)).elim a (fun u => proposePair (shiftEcc (2 * blockWords * n) ecc) m x cfg u a)) (x.passSat, s)
      if left = 0 then
        let s := modRefit m.id (fun x => { x with shadowState := .valid, shadowSat := r.1, proposed := 0, passSat := 0 })
          (takeGrant (.proposal m.id 0) r.2)
        .next (raise 0x0A01 m.tenant (leBytes 2 m.handle ++ zeros 2 ++ leBytes 4 r.1) (count (cTen m.tenant (tRft 8)) 1 s))
      else .next (modRefit m.id (fun x => { x with proposed := max x.proposed upto, passSat := r.1 }) r.2)
    | _, _, _ => .next s

/-! ## Commit (R360) -/

/-- The first poisoned word of the shadow leaf table. -/
def shadowPoison (s : State) (m : Model) (x : RefitSt) : Option Nat :=
  ((List.range (128 * treeCount m)).find? (fun i => poisoned s.mem (plotAddr x.plots (shadowOff m 0 0 + 8 * i)))).map
    (fun i => plotAddr x.plots (shadowOff m 0 0 + 8 * i))

/-- A tree with its leaves replaced from the shadow table. -/
def shadowTree (s : State) (m : Model) (x : RefitSt) (t : Nat) (p : Placed) : Placed :=
  let word := fun (l : Nat) => leNat (areaBytes s x (shadowOff m t l) 4)
  let leaves := (leafSlots p.tree).map (fun l =>
    (⟨if m.image.fmode then (word l.1 : Int) else toSigned 32 (word l.1), 0, []⟩ : Leaf))
  { p with tree := { p.tree with leaves := leaves } }

/-- The trees of the next leaf version. -/
def commitTrees (s : State) (m : Model) (x : RefitSt) : List Placed :=
  let mine := (memberTrees m m.version).zipIdx
  (m.versions.getD m.version m.image.trees).zipIdx.map (fun p =>
    match mine.find? (fun q => q.1.2 == p.2) with
    | some q => shadowTree s m x q.2 p.1
    | none => p.1)

/-- The commit Milestone: the new tables, the committed leaf table, the statistics, the shadow state, RFT_COMMITTED. -/
def commitModel (id : Nat) (s : State) : State :=
  match s.model? id, s.refit? id with
  | some m, some x =>
    let ts := commitTrees s m x
    let v := m.version
    let next := m.otherUnits.filter (·.1 == v + 1)
    let s := (List.range (treeCount m)).foldl (fun s t =>
      areaWrite x (committedOff m t 0) (areaBytes s x (shadowOff m t 0) 1024) s) s
    let s := modModel id (fun m => { m with
      versions := m.versions ++ [ts]
      unitsHeld := if next.isEmpty then m.unitsHeld else next.map (·.2)
      otherUnits := if next.isEmpty then m.otherUnits
        else m.otherUnits.filter (·.1 != v + 1) ++ m.unitsHeld.map (fun u => (v, u)) }) s
    let s := match s.model? id with
      | some m' => writeUnits m' m'.unitsHeld s
      | none => s
    let s := modRefit id (fun x => { x with shadowState := .invalid, commitRunning := false }) (zeroStats m x s)
    let s := (s.searches.filter (fun x => x.2.model == id)).foldl (fun s x => endSearch x.1 false s) s
    raise 0x0A02 m.tenant (leBytes 2 m.handle ++ leBytes 2 ((v + 1) % 65536)) (count (cTen m.tenant (tRft 9)) 1 s)
  | _, _ => s

/-- Block pairs of a model's statistics: the units a proposal is granted by. -/
def pairCount (m : Model) : Nat := 4 * treeCount m

/-- A refit operation takes effect at its Milestone (Table 16.3). -/
def refitEffect (id op : Nat) (s : State) : State :=
  match s.model? id, s.refit? id with
  | some m, some x =>
    match op with
    | 1 => modRefit id (fun x => { x with paused := true }) s
    | 2 => modRefit id (fun x => { x with paused := false }) s
    | 3 => zeroStats m x s
    | 4 => modDisp (fun d => { d with bg := d.bg ++ [.proposal id (pairCount m)] })
        (modRefit id (fun x => { x with shadowState := .proposing, proposed := 0, passSat := 0 }) s)
    | 5 => modRefit id (fun x => { x with shadowState := if x.shadowState = .proposing then .proposing else .invalid }) s
    | 6 => commitModel id s
    | _ => s
  | _, _ => s

/-- Old units are freed when no record of the model refers to their version (R360). -/
def freeOldUnits (s : State) : State :=
  { s with models := s.models.map (fun m =>
      { m with otherUnits := m.otherUnits.filter (fun u =>
          m.version < u.1 || s.ctxs.any (fun c => c.2.version == u.1 && (stageModel s c.2).elim false (·.id == m.id))) }) }

/-- Models whose decay falls due at the first Milestone of the epoch request their sweep (R356). -/
def requestDecay (s : State) : State :=
  s.refits.foldl (fun s x =>
    match s.model? x.model with
    | none => s
    | some m =>
      let p := m.image.refit.elim 0 (·.period)
      if p = 0 ∨ s.time.epoch < x.lastSweep + p then s
      else modDisp (fun d => { d with bg := d.bg ++ [.decay m.id (2 * pairCount m)] })
        (modRefit m.id (fun x => { x with lastSweep := s.time.epoch }) s)) s

/-- The Milestone moves the largest gradients into the completed ticks and sends the pairs that wait (R340, R362). -/
def refitTick (s : State) : State :=
  let s : State := { s with refits := s.refits.map (fun x => { x with gMax := (0 :: x.gMax).take 5, hMax := (0 :: x.hMax).take 5 }) }
  (s.refits.map (·.model)).foldl (fun s id => sendGh id s) s

end Sys2Proof.Machine
end

