-- ==== Sys2Proof/Machine/Command.lean ====
section
/-! DEFINITION. Mailbox commands in common: the doorbell, firmware's checks in their order, responses and their posting (R375 to R381). -/

namespace Sys2Proof.Machine

/-! ## Status codes (Table 17.4) -/

def errBadOpcode : Nat := 1
def errNotPermitted : Nat := 2
def errBadLength : Nat := 3
def errReserved : Nat := 4
def errNoTenant : Nat := 5
def errBadConfig : Nat := 6
def errBusy : Nat := 7
def errNotOwner : Nat := 8
def errNoModel : Nat := 9
def errTimeout : Nat := 10
def errNoFit : Nat := 0x10
def errQuota : Nat := 0x11
def errBadImage : Nat := 0x12
def errBadDigest : Nat := 0x13
def errDmaFault : Nat := 0x14
def errPoisoned : Nat := 0x15
def errBadEntry : Nat := 0x18
def errEntryState : Nat := 0x19

/-- A refusal: its status code and its detail payload. -/
abbrev Refused := Nat × List Byte

/-- A refusal that names the payload field at offset `o`. -/
def atField (code o : Nat) : Refused := (code, leBytes 2 (32 + o))
/-- A refusal with no detail. -/
def bare (code : Nat) : Refused := (code, [])
/-- The 24-byte detail of R222. -/
def fitDetail (res loc needed avail : Nat) : List Byte :=
  leBytes 1 res ++ zeros 3 ++ leBytes 4 loc ++ leBytes 8 needed ++ leBytes 8 avail
/-- A locator that names no place. -/
def noPlace : Nat := 0xFFFFFFFF

/-- The first refusal of a list of checks, in order. -/
def firstRefusal : List (Option Refused) → Option Refused
  | [] => none
  | some r :: _ => some r
  | none :: l => firstRefusal l

/-- Refuse unless a condition holds. -/
def unless_ (ok : Bool) (r : Refused) : Option Refused := if ok then none else some r

/-! ## The command tables (Tables 17.5 to 17.13) -/

/-- The From column: 0 PF0, 1 Own, 2 Any, 3 the stream commands, 4 SIGNPOST_BANK (PF0 for ops 1 and 2, else Own). -/
structure CmdSpec where
  source : Nat
  tenant : Bool
  length : Nat
  reserved : List (Nat × Nat)
deriving DecidableEq, Repr

/-- Reserved bytes `o` to `o + n − 1` of a payload, as (offset, mask). -/
def rz (o n : Nat) : List (Nat × Nat) := (List.range n).map (fun i => (o + i, 0xFF))

/-- Reserved bits of FABRIC_CONFIG. -/
def fabricReserved : List (Nat × Nat) :=
  rz 1 1 ++ rz 6 2 ++ (List.range 256).map (fun c => (8 + 4 * c, 0xFE)) ++
    (List.range 256).flatMap (fun g => [(1034 + 4 * g, 0xFE), (1035 + 4 * g, 0xFF)])

/-- Reserved bytes of one operation of SIGNPOST_ENTRIES at payload offset `o` (R383): none beyond an unknown op code. -/
def entryOpReserved (s : State) (pl : List Byte) (o : Nat) : List (Nat × Nat) :=
  let op := byteAt pl o
  let w := (s.bank (byteAt pl 0)).width
  if op < 1 ∨ 4 < op then []
  else rz (o + 1) 1 ++ (if op = 4 then [] else rz (o + 4) 2) ++ rz (o + 6) 2 ++ (if op = 2 then [] else rz (o + 8) 4) ++
    rz (o + 12) 4 ++ (if op = 2 then (if byteAt pl 0 < 16 then rz (o + 16 + 16 * w) (64 - 16 * w) else []) else rz (o + 16) 64)

/-- Reserved bits of a SIGNPOST_SEARCH key (R132). -/
def searchReserved (s : State) (pl : List Byte) : List (Nat × Nat) :=
  let b := s.bank (byteAt pl 0)
  if 16 ≤ byteAt pl 0 then []
  else if b.range then (if b.domain = 0 then [] else rz 12 4) ++ rz 16 16
  else rz (8 + keyWidth b.width / 8) (24 - keyWidth b.width / 8)

/-- The layout of a command: its From column, its T mark, its payload length and its reserved bits. -/
def cmdSpec (s : State) (op : Nat) (pl : List Byte) : Option CmdSpec :=
  match op with
  | 0x0101 => some ⟨2, false, 0, []⟩
  | 0x0102 => some ⟨0, false, 0, []⟩
  | 0x0103 => some ⟨0, false, 4, rz 1 3⟩
  | 0x0104 => some ⟨0, false, 4, rz 2 2⟩
  | 0x0105 => some ⟨0, false, 2056, fabricReserved⟩
  | 0x0106 => some ⟨0, true, 8, rz 4 4⟩
  | 0x0201 => some ⟨0, true, 160, [(2, 0xFE), (6, 0xF8), (7, 0xFF)] ++ rz 12 4⟩
  | 0x0202 => some ⟨0, true, 4, rz 2 2⟩
  | 0x0203 => some ⟨1, true, 4, rz 2 2⟩
  | 0x0204 => some ⟨1, true, 8, rz 6 2⟩
  | 0x0205 => some ⟨1, true, 12, (8, 0xFC) :: rz 9 3⟩
  | 0x0206 => some ⟨4, true, 8, rz 6 2⟩
  | 0x0207 => some ⟨1, true, 16 + 80 * leAt pl 2 2, rz 1 1 ++ rz 4 12 ++
      (List.range (min 50 (leAt pl 2 2))).flatMap (fun i => entryOpReserved s pl (16 + 80 * i))⟩
  | 0x0301 => some ⟨0, false, 8, (3, 0xFE) :: rz 4 4⟩
  | 0x0302 => some ⟨0, false, 104, rz 1 1 ++ rz 93 3⟩
  | 0x0303 => some ⟨0, false, 4, rz 2 2⟩
  | 0x0304 => some ⟨0, true, 32, rz 6 2 ++ rz 26 6⟩
  | 0x0305 => some ⟨0, false, 4, rz 1 3⟩
  | 0x0401 => some ⟨0, true, 64, rz 30 2⟩
  | 0x0402 => some ⟨0, true, 4, rz 1 3⟩
  | 0x0403 => some ⟨1, true, 0, []⟩
  | 0x0501 => some ⟨1, true, 8, []⟩
  | 0x0502 => some ⟨1, true, 4, rz 2 2⟩
  | 0x0601 => some ⟨3, false, 24, rz 20 4⟩
  | 0x0602 => some ⟨3, false, 4, rz 3 1⟩
  | 0x0603 => some ⟨1, true, 8, rz 1 1 ++ rz 6 2⟩
  | 0x0701 => some ⟨1, true, 8, rz 3 1⟩
  | 0x0801 => some ⟨1, true, 4, rz 3 1⟩
  | 0x0901 => some ⟨0, false, 16, [(0, 0xE0)] ++ rz 3 1 ++ rz 10 2⟩
  | 0x0902 => some ⟨0, false, 0, []⟩
  | 0x0A01 => some ⟨2, false, 16, (10, 0xFE) :: rz 11 5⟩
  | 0x0A02 => some ⟨0, false, 8, rz 4 4⟩
  | 0x0B01 => some ⟨0, false, 16, rz 10 6⟩
  | 0x0B02 => some ⟨0, false, 16 + leAt pl 8 2, rz 10 6⟩
  | 0x0B03 => some ⟨1, true, 4, rz 1 3⟩
  | 0x0B04 => some ⟨1, true, 32, rz 1 1 ++ rz 4 4 ++ searchReserved s pl⟩
  | 0x0B05 => some ⟨0, false, 0, []⟩
  | _ => none

/-- The payload offset of a command's op field and its legal values, for the commands that have one. -/
def opField (op : Nat) : Option (Nat × List Nat) :=
  match op with
  | 0x0106 => some (0, [1, 2])
  | 0x0206 => some (1, [1, 2, 3])
  | 0x0303 => some (1, [1, 2])
  | 0x0304 => some (0, [1, 2])
  | 0x0402 => some (0, [1, 2, 3, 4, 5])
  | 0x0501 => some (4, [1, 2, 4, 5])
  | 0x0602 => some (2, [1, 2])
  | 0x0603 => some (0, [1, 2])
  | 0x0701 => some (2, [1, 2, 3, 4, 5, 6, 7])
  | 0x0801 => some (2, [1, 2, 3, 4])
  | _ => none

/-! ## The header's fields (Table 17.2) -/

def pageOp (pg : List Byte) : Nat := leAt pg 0 2
def pageLen (pg : List Byte) : Nat := leAt pg 2 2
def pageSeq (pg : List Byte) : Nat := leAt pg 4 4
def pageTenant (pg : List Byte) : Nat := byteAt pg 8
def pageDeadline (pg : List Byte) : Nat := leAt pg 10 2
/-- The payload area, 4,064 bytes. -/
def pageArea (pg : List Byte) : List Byte := slice pg 32 4064
/-- The payload named by the header's length. -/
def pagePayload (pg : List Byte) : List Byte := slice pg 32 (pageLen pg)

/-! ## Firmware's checks (R381) -/

/-- The function may issue the command (the From column, R389 for the stream commands). -/
def permitted (f : Nat) (sp : CmdSpec) (pg : List Byte) : Bool :=
  let own := f == 0 || pageTenant pg + 1 == f
  match sp.source with
  | 0 => f == 0
  | 1 => own
  | 3 => if f = 0 then !(byteAt pg 32 == 0 && byteAt pg 33 == 7) else byteAt pg 32 == f
  | 4 => if byteAt pg 33 = 1 ∨ byteAt pg 33 = 2 then f == 0 else own
  | _ => true

/-- Page offset of the first nonzero reserved byte (R11, R381). -/
def firstReserved (sp : CmdSpec) (pg : List Byte) : Option Nat :=
  let rs := sp.reserved.filter (fun (r : Nat × Nat) => r.1 < sp.length)
  (((9, 0xFF) :: rz 12 20) ++ rs.map (fun (r : Nat × Nat) => (32 + r.1, r.2))).findSome?
    (fun (r : Nat × Nat) => if byteAt pg r.1 &&& r.2 ≠ 0 then some r.1 else none)

/-- A deadline has passed when the command was taken, in epoch `taken`, after a doorbell of epoch `rung` (R379). -/
def deadlinePassed (rung taken d : Nat) : Bool := d != 0 && rung + d < taken

/-- Checks 1 to 7 of R381, the first failure. The mailbox of an ABSENT tenant answers every command but IDENTIFY with
ERR_NO_TENANT (R373). A length above 4,064 is refused also where a layout's own count asks for it; the detail is then the low 16
bits of that length (log 137). -/
def commonCheck (s : State) (f : Nat) (m : Mailbox) : Option Refused :=
  let pg := m.run
  let op := pageOp pg
  if f ≠ 0 ∧ op ≠ 0x0101 ∧ (s.tenant (f - 1)).state = .absent then some (bare errNoTenant)
  else
    match cmdSpec s op (pageArea pg) with
    | none => some (bare errBadOpcode)
    | some sp =>
      let t := pageTenant pg
      firstRefusal [
        unless_ (permitted f sp pg) (bare errNotPermitted),
        unless_ (pageLen pg == sp.length && sp.length ≤ 4064) (errBadLength, leBytes 2 sp.length),
        (firstReserved sp pg).map (fun o => (errReserved, leBytes 2 o)),
        unless_ (if sp.tenant then t < 32 else t == 0xFF) (errBadConfig, leBytes 2 8),
        unless_ (!(sp.tenant && op != 0x0401 && (s.tenant t).state == .absent)) (bare errNoTenant),
        unless_ (!(sp.tenant && op != 0x0403 && (s.tenant t).state == .releasing)) (errBusy, leBytes 2 8),
        unless_ (!deadlinePassed m.rungIn m.taken (pageDeadline pg)) (bare errTimeout)]

/-! ## Responses (R378, R380) -/

/-- The response page (Table 17.3). -/
def responsePage (pg : List Byte) (status epoch : Nat) (payload : List Byte) : List Byte :=
  fitBytes (leBytes 2 (pageOp pg) ++ leBytes 2 payload.length ++ leBytes 4 (pageSeq pg) ++ leBytes 2 status ++ zeros 2 ++
    leBytes 4 epoch ++ zeros 16 ++ payload) 4096

/-- Post a function's response: the whole page, then DONE, its cause bit and its message; a response that a reset
discarded is not written (R374, R376, R432). -/
def postResponse (f status : Nat) (payload : List Byte) (s : State) : State :=
  let m := (s.fn f).mbx
  if m.discard then modMbx f (fun m => { m with discard := false, due := none }) s
  else
    let s := modMbx f (fun m => { m with
      resp := responsePage m.run status s.time.epoch payload, state := .done, due := none }) s
    let s := setCause f 1 s
    if m.ie then fireVector f m.vec s else s

/-- The command has acted: the next command taken runs. -/
def endTaken (f : Nat) (s : State) : State := { s with taken := s.taken.filter (· != f) }

/-- A class I response, and every refusal. -/
def respond (f status : Nat) (payload : List Byte) (s : State) : State := endTaken f (postResponse f status payload s)

/-- Refuse a command. -/
def refuse (f : Nat) (r : Refused) (s : State) : State := respond f r.1 r.2 s

/-- A class M response, posted after the Milestone at which the effect lands. -/
def respondMilestone (f : Nat) (payload : List Byte) (s : State) : State :=
  endTaken f (modMbx f (fun m => { m with due := some (.milestone s.time.epoch, leBytes 2 0 ++ payload) }) s)

/-- A class W response, posted when its wait has ended. -/
def respondWait (f : Nat) (payload : List Byte) (s : State) : State :=
  endTaken f (modMbx f (fun m => { m with due := some (.wait, leBytes 2 0 ++ payload) }) s)

/-- An effect that lands at the first Milestone at or after the end of the current epoch (R20, R377). -/
def later (d : Due) (s : State) : State := { s with due := s.due ++ [(s.time.epoch, d)] }

/-- An effect that lands at the next Milestone. -/
def soon (d : Due) (s : State) : State := { s with due := s.due ++ [(s.time.epoch - 1, d)] }

/-- The responses due after the Milestone that the epoch's effects landed at. -/
def postDue (s : State) : State :=
  (List.range 33).foldl (fun s f =>
    match (s.fn f).mbx.due with
    | some (.milestone e, bs) => if e < s.time.epoch then postResponse f (leAt bs 0 2) (bs.drop 2) s else s
    | _ => s) s

/-- The response of a waiting command of an opcode whose payload meets a condition is posted. -/
def postWaiting (op : Nat) (mine : List Byte → Nat → Bool) (status : Nat) (payload : List Byte) (s : State) : State :=
  (List.range 33).foldl (fun s f =>
    let m := (s.fn f).mbx
    match m.due with
    | some (.wait, _) =>
      if pageOp m.run = op ∧ mine (pagePayload m.run) (pageTenant m.run) then postResponse f status payload s else s
    | _ => s) s

/-! ## Running a command -/

/-- The command of function `f` is the next to run, and is the one this row stands for. -/
def commandReady (s : State) (f op : Nat) (mine : List Byte → Bool) : Bool :=
  let m := (s.fn f).mbx
  s.taken.head? == some f && pageOp m.run == op && mine (pageArea m.run)

/-- Run a taken command: its checks 1 to 7, then its own rules (`check`), then its action on its payload and header
tenant. -/
def runCommand (f op : Nat) (mine : List Byte → Bool) (check : State → List Byte → Nat → Option Refused)
    (act : List Byte → Nat → State → State) (s : State) : Host.Outcome State Fault Refusal :=
  if !commandReady s f op mine then .next s
  else
    let m := (s.fn f).mbx
    match commonCheck s f m with
    | some r => .next (refuse f r s)
    | none =>
      let pl := pagePayload m.run
      let t := pageTenant m.run
      match check s pl t with
      | some r => .next (refuse f r s)
      | none => .next (act pl t s)

/-- Any payload: the row stands for every command of its opcode. -/
def anyOp : List Byte → Bool := fun _ => true
/-- The op byte at payload offset `o` is `v`. -/
def opIs (o v : Nat) : List Byte → Bool := fun pl => byteAt pl o == v
/-- No rules beyond the common ones. -/
def noRules : State → List Byte → Nat → Option Refused := fun _ _ _ => none

/-! ## The doorbell (R376) -/

/-- A write of MBX_DOORBELL (R376). -/
def ringDoorbell (f value : Nat) (s : State) : State :=
  if !bit value 0 then s
  else
    match (s.fn f).mbx.state with
    | .booting => count (cFn f 0) 1 s
    | .pending | .running => count (cFn f 1) 1 s
    | .ready | .done => modMbx f (fun m => { m with state := .pending, seq := pageSeq m.cmd % 65536, rungIn := s.time.epoch }) s

/-- MBX_DOORBELL_RING: a write of MBX_DOORBELL with RING set (R376). -/
def execMbxDoorbellRing (fn : Fn) (value : Nat) (s : State) : Host.Outcome State Fault Refusal := .next (ringDoorbell fn value s)

end Sys2Proof.Machine
end

