-- ==== Sys2Proof/Machine/Digest.lean ====
section
/-! DEFINITION. SHA-384, the digest of model images and firmware images (R206, R401). The manual names the algorithm; its constants
are computed here from what they stand for. -/

namespace Sys2Proof.Machine

/-! ## Constants -/

/-- The first 80 primes. -/
def digestPrimes : List Nat :=
  (List.range 410).filter (fun n => decide (2 ≤ n) && (List.range 19).all (fun i => decide (n ≤ i + 2) || n % (i + 2) != 0))

/-- Add to `r` the `b` low bits of the whole part of the `k`-th root of `n`. -/
def rootFrom (k n : Nat) : Nat → Nat → Nat
  | 0, r => r
  | b + 1, r => rootFrom k n b (if (r + 2 ^ b) ^ k ≤ n then r + 2 ^ b else r)

/-- The first 64 bits after the binary point of the `k`-th root of a number below 2^10. -/
def rootFraction (k p : Nat) : BitVec 64 := BitVec.ofNat 64 (rootFrom k (p * 2 ^ (64 * k)) 69 0)

/-- The round constants come from the cube roots of the primes. -/
def roundConstants : List (BitVec 64) := digestPrimes.map (rootFraction 3)

/-! ## The working registers -/

/-- Four registers through which words move, one place in each round. -/
structure ShiftFour where
  s0 : BitVec 64
  s1 : BitVec 64
  s2 : BitVec 64
  s3 : BitVec 64
deriving DecidableEq, Repr

/-- Move every word on and take a new first one. -/
def ShiftFour.push (q : ShiftFour) (x : BitVec 64) : ShiftFour := ⟨x, q.s0, q.s1, q.s2⟩

/-- Word-wise sum. -/
def ShiftFour.add (q r : ShiftFour) : ShiftFour := ⟨q.s0 + r.s0, q.s1 + r.s1, q.s2 + r.s2, q.s3 + r.s3⟩

def ShiftFour.bytes (q : ShiftFour) : List Byte := [q.s0, q.s1, q.s2, q.s3].flatMap (fun x => beBytes 8 x.toNat)

/-- The chaining value: two groups of registers. -/
abbrev Chain := ShiftFour × ShiftFour

/-- The chaining value before the first block: the square roots of the ninth to sixteenth primes. -/
def chainStart : Chain :=
  let h := fun (i : Nat) => rootFraction 2 (digestPrimes.getD (8 + i) 0)
  (⟨h 0, h 1, h 2, h 3⟩, ⟨h 4, h 5, h 6, h 7⟩)

/-- Exclusive or of three rotations to the right. -/
def mixRot (i j k : Nat) (x : BitVec 64) : BitVec 64 := x.rotateRight i ^^^ x.rotateRight j ^^^ x.rotateRight k

/-- Exclusive or of two rotations and a shift to the right. -/
def mixShift (i j k : Nat) (x : BitVec 64) : BitVec 64 := x.rotateRight i ^^^ x.rotateRight j ^^^ x >>> k

/-- One round with the sum `kw` of its constant and its schedule word. -/
def digestRound (c : Chain) (kw : BitVec 64) : Chain :=
  let x := c.1
  let y := c.2
  let choice := y.s2 ^^^ y.s0 &&& (y.s1 ^^^ y.s2)
  let majority := x.s0 &&& (x.s1 ||| x.s2) ||| x.s1 &&& x.s2
  let t := kw + y.s3 + choice + mixRot 14 18 41 y.s0
  (x.push (t + majority + mixRot 28 34 39 x.s0), y.push (t + x.s3))

/-! ## Blocks -/

/-- `n` more words of the schedule, whose words so far stand newest first. -/
def moreWords : Nat → List (BitVec 64) → List (BitVec 64)
  | 0, w => w
  | n + 1, w =>
    let at_ := fun (back : Nat) => w.getD (back - 1) 0
    moreWords n ((at_ 16 + mixShift 1 8 7 (at_ 15) + at_ 7 + mixShift 19 61 6 (at_ 2)) :: w)

/-- The 80 schedule words of a block. -/
def schedule (block : List Byte) : List (BitVec 64) :=
  (moreWords 64 ((List.range 16).foldl (fun w i => BitVec.ofNat 64 (beAt block (8 * i) 8) :: w) [])).reverse

/-- One block. -/
def digestBlock (ks : List (BitVec 64)) (c : Chain) (block : List Byte) : Chain :=
  let r := (List.zipWith (· + ·) ks (schedule block)).foldl digestRound c
  (c.1.add r.1, c.2.add r.2)

/-- `n` blocks of 128 bytes. -/
def digestBlocks (ks : List (BitVec 64)) : Nat → Chain → List Byte → Chain
  | 0, c, _ => c
  | n + 1, c, bs => digestBlocks ks n (digestBlock ks c (bs.take 128)) (bs.drop 128)

/-- The message with its end marker and its length in bits, in whole blocks. -/
def digestPad (bs : List Byte) : List Byte :=
  let gap := (128 - (bs.length + 17) % 128) % 128
  bs ++ 0x80 :: zeros gap ++ beBytes 16 (8 * bs.length)

/-- The 48-byte SHA-384 digest. -/
def sha384 (bs : List Byte) : List Byte :=
  let p := digestPad bs
  let c := digestBlocks roundConstants (p.length / 128) chainStart p
  (c.1.bytes ++ c.2.bytes).take 48

end Sys2Proof.Machine
end

