-- ==== Sys2Proof/Machine/Fit.lean ====
section
/-! DEFINITION. The fit check: what a model load needs and what is available, row by row (R218 to R222, R443). -/

namespace Sys2Proof.Machine

/-! ## The load command's fields (Table 17.6) -/

def loadHandle (pl : List Byte) : Nat := leAt pl 0 2
def loadReplace (pl : List Byte) : Bool := bit (byteAt pl 2) 0
def loadClass (pl : List Byte) : Nat := byteAt pl 3
def loadResidency (pl : List Byte) : Nat := byteAt pl 4
def loadMember (pl : List Byte) : Nat := byteAt pl 5
def loadOptions (pl : List Byte) : Nat := leAt pl 6 2
def loadRate (pl : List Byte) : Nat := leAt pl 8 2
def loadWaymarks (pl : List Byte) : Nat := byteAt pl 10
def loadGroup (pl : List Byte) : Nat := byteAt pl 11
def loadIova (pl : List Byte) : Nat := leAt pl 16 8
def loadSize (pl : List Byte) : Nat := leAt pl 24 8
def loadDigest (pl : List Byte) : List Byte := slice pl 32 48
def loadRidgeMap (pl : List Byte) : List Nat := (slice pl 80 64).map (·.toNat)
def loadChips (pl : List Byte) : List Nat := (slice pl 144 16).map (·.toNat)

/-! ## What stands already -/

/-- A physical Ridge is active: neither fenced nor a spare (R219). -/
def ridgeActive (s : State) (q : Nat) : Bool :=
  q < 68 && !(s.ridge q).fenced && !(s.ridge q).spare && (s.ridge q).logical.isSome

/-- Trees of the member this chip evaluates. -/
def memberPlaced (img : Image) (member : Nat) : List Placed := img.trees.filter (·.member == member)

/-- Engines a member names, as (physical Ridge, engine), ascending. -/
def namedEngines (map : List Nat) (ts : List Placed) : List (Nat × Nat) :=
  let keys := ts.foldl (fun a p => setAdd a (map.getD p.ridge 0xFF * 64 + p.engine)) []
  keys.map (fun k => (k / 64, k % 64))

/-- Engines a model names. -/
def Model.engines (m : Model) : List (Nat × Nat) := namedEngines m.ridgeMap (memberPlaced m.image m.member)

/-- A hot model holds the engine (R218). -/
def engineHot (s : State) (q e : Nat) : Bool := s.models.any (fun m => m.residency == 0 && m.engines.contains (q, e))

/-- Ridge SRAM units of an engine in use, by any leaf version of any model. -/
def unitsUsed (s : State) (q e : Nat) : List Nat :=
  s.models.flatMap (fun m =>
    (m.unitsHeld ++ m.otherUnits.map (·.2)).flatMap (fun u =>
      if u.1 = q ∧ u.2.1 = e then (List.range u.2.2.2.1).map (u.2.2.1 + ·) else []))

/-- The engine is the canary engine of its Ridge (R160). -/
def isCanary (s : State) (q e : Nat) : Bool := e == 63 && (s.ridge q).canary

/-- Free units of an engine: none on a hot engine and none on a canary engine (R443). -/
def freeUnits (s : State) (q e : Nat) : List Nat :=
  if engineHot s q e || isCanary s q e then []
  else
    let used := unitsUsed s q e
    (List.range 32).filter (fun u => !used.contains u)

/-- A table of an engine stands in one of its Ridge's table buffers, as a cold or warm set's can (R138, R157). -/
def bufferHolds (s : State) (q e : Nat) : Bool :=
  [(s.ridge q).active, (s.ridge q).inactive].any (fun b => (b.set.bind (fun i => (s.model? i.model).map (fun m => (i, m)))).elim false
    (fun x => (memberPlaced x.2.image x.2.member).any (fun p =>
      p.pass == x.1.pass && p.engine == e && x.2.ridgeMap.getD p.ridge 0xFF == q)))

/-- A named engine is free for a hot model: active, not canary, holding no table and no unit (row 0x01). -/
def engineFree (s : State) (q e : Nat) : Bool := ridgeActive s q && (freeUnits s q e).length == 32 && !bufferHolds s q e

/-- A LATENCY image whose reservation counts: standing, or about to. -/
def reserving (m : Model) : Bool := m.latency && (m.standing || m.state == .loading)

/-- A tenant's LATENCY in-flight total (R221). -/
def latTotal (s : State) (t : Nat) : Nat :=
  (s.models.map (fun m => if m.tenant = t ∧ (m.standing ∨ m.replaced ∨ m.state = .loading) then m.inFlight else 0)).sum

/-- LATENCY Ridge-slots reserved on a physical Ridge, by a tenant or by all. -/
def reservedSlots (s : State) (t : Option Nat) (q : Nat) : Nat :=
  (s.models.map (fun m => if reserving m && (t.isNone || t == some m.tenant) then m.rate * ridgeSlots (allStages s m) q else 0)).sum

/-- LATENCY planned energy of a model at nominal prices. -/
def plannedEnergy (s : State) (m : Model) : Nat := if m.latency then m.rate * s.recordPrice .nominal m else 0

/-- LATENCY planned energy reserved, by a tenant or by all. -/
def reservedEnergy (s : State) (t : Option Nat) : Nat :=
  (s.models.map (fun m => if reserving m && (t.isNone || t == some m.tenant) then plannedEnergy s m else 0)).sum

/-- The device planned-energy limit at a cap of `c` watts, in 1/16 nJ (R267). -/
def energyLimit (c : Nat) : Nat := 7680 * (c - 95)

/-- Trailhead table memory a model's fields take (Table 5.3). -/
def fieldTable (f : Field) : Nat :=
  16 + (match f.binning with
    | .edge _ es => (if f.type = .int64 then 8 else 4) * es.length
    | .affine _ _ => 8
    | .catMap _ ids => 4 * ids.length + 4
    | .dict _ ss => (ss.map (fun x => 1 + x.length)).sum + 4
    | _ => 0)

def tableMemory (img : Image) : Nat := (img.fields.map fieldTable).sum

/-- Hot engines a tenant's models hold. -/
def hotEnginesHeld (s : State) (t : Nat) : Nat :=
  (s.models.map (fun m => if m.tenant = t ∧ m.residency = 0 then m.engines.length else 0)).sum

/-- Waymark numbers a tenant's models hold (R277). -/
def waymarksHeld (s : State) (t : Nat) : List Nat := s.models.flatMap (fun m => if m.tenant = t then m.waymarks else [])

/-- Waymark numbers that a tenant's streams hold: a descriptor fetched and not done waits on one, or will signal one. -/
def streamWaymarks (s : State) (t : Nat) : List Nat :=
  ((s.dma.streams.drop (8 * (t + 1))).take 8).flatMap (fun x => (x.descs.filter (fun d => !d.done)).flatMap (fun d =>
    d.signalWmk.toList ++ (if d.waiting.isSome && !d.started then [d.waitWmk] else [])))

/-- Free Waymarks of a tenant's range, lowest first: no model and no stream holds them (R277). -/
def waymarksFree (s : State) (t : Nat) : List Nat :=
  let q := (s.tenant t).quota
  let held := waymarksHeld s t ++ streamWaymarks s t
  ((List.range q.wmkCount).map (q.wmkBase + ·)).filter (fun n => !held.contains n)

/-! ## Placing warm tables (R443) -/

/-- The lowest run of `n` free units. -/
def findRun (free : List Nat) (n : Nat) : Option Nat :=
  (List.range 32).find? (fun u => (List.range n).all (fun i => free.contains (u + i)))

/-- Place one engine's tables, in placement-record order: (first unit, count, tree index). -/
def placeEngine : List Nat → List (Nat × Nat) → Option (List (Nat × Nat × Nat))
  | _, [] => some []
  | free, (n, t) :: r =>
    match findRun free n with
    | none => none
    | some u => (placeEngine (free.filter (fun x => x < u || u + n ≤ x)) r).map (fun l => (u, n, t) :: l)

/-- The tables a list of trees puts on an engine: units and tree index. -/
def engineTables (map : List Nat) (ts : List (Placed × Nat)) (q e : Nat) : List (Nat × Nat) :=
  (ts.filter (fun p => map.getD p.1.ridge 0xFF == q && p.1.engine == e)).map (fun p => (p.1.tree.units, p.2))

/-- Place trees over their engines in ascending order: the units taken, or the first engine that cannot hold its tables
with the units needed and free there. -/
def placeUnits (s : State) (map : List Nat) (ts : List (Placed × Nat)) :
    List (Nat × Nat) → Except (Nat × Nat × Nat × Nat) (List (Nat × Nat × Nat × Nat × Nat))
  | [] => .ok []
  | (q, e) :: r =>
    let tabs := engineTables map ts q e
    let free := freeUnits s q e
    match placeEngine free tabs with
    | none => .error (q, e, (tabs.map (·.1)).sum, free.length)
    | some l =>
      match placeUnits s map ts r with
      | .error x => .error x
      | .ok rest => .ok (l.map (fun x => (q, e, x.1, x.2.1, x.2.2)) ++ rest)

/-! ## Rows (R222, Table 10.9) -/

/-- A row with a device limit alone. -/
def deviceRow (res loc needed avail : Nat) : Option Refused :=
  if avail < needed then some (errNoFit, fitDetail res loc needed avail) else none

/-- A row with a tenant quota and a device limit: ERR_QUOTA when the quota is the smaller or equal limit. -/
def quotaRow (res qloc dloc needed quota avail : Nat) : Option Refused :=
  if quota ≤ avail then
    (if quota < needed then some (errQuota, fitDetail res qloc needed quota) else none)
  else deviceRow res dloc needed avail

/-- Locator of an engine, or of a whole Ridge. -/
def engineLoc (q e : Nat) : Nat := 256 * q + e
def ridgeLoc (q : Nat) : Nat := 256 * q + 0xFF

/-- Row 0x03: Massif plots. -/
def plotRow (s : State) (t needed : Nat) : Option Refused :=
  quotaRow 3 noPlace noPlace needed ((s.tenant t).quota.plots - plotsHeld s t) (freePlots s).length

/-- Row 0x01: hot engines. -/
def hotRow (s : State) (m : Model) : Option Refused :=
  if m.residency ≠ 0 then none
  else
    let es := m.engines
    let busy := es.filter (fun e => !engineFree s e.1 e.2)
    let loc := match busy with | e :: _ => engineLoc e.1 e.2 | [] => noPlace
    quotaRow 1 noPlace loc es.length ((s.tenant m.tenant).quota.hotEngines - hotEnginesHeld s m.tenant) (es.length - busy.length)

/-- Row 0x02: Ridge SRAM units of a warm model; a cold model's engines must be neither hot nor canary engines. -/
def unitRow (s : State) (m : Model) : Option Refused :=
  let ts := m.image.trees.zipIdx.filter (fun p => p.1.member == m.member)
  if m.residency = 1 then
    match placeUnits s m.ridgeMap ts m.engines with
    | .ok _ => none
    | .error (q, e, n, a) => some (errNoFit, fitDetail 2 (engineLoc q e) n a)
  else if m.residency = 2 then
    match m.engines.find? (fun e => engineHot s e.1 e.2 || isCanary s e.1 e.2) with
    | none => none
    | some (q, e) => some (errNoFit, fitDetail 2 (engineLoc q e) ((engineTables m.ridgeMap ts q e).map (·.1)).sum 0)
  else none

/-- Bytes of table memory in each pipeline. -/
def tableCapacity : Nat := 524288

/-- Row 0x04: Trailhead table memory, alike in both pipelines. -/
def tableRow (s : State) (m : Model) : Option Refused :=
  if !m.tableRes then none
  else
    let used := (s.models.map (fun x => if x.tableRes then tableMemory x.image else 0)).sum
    deviceRow 4 0 (tableMemory m.image) (tableCapacity - used)

/-- Row 0x05: pattern sets. -/
def patternRow (s : State) (m : Model) : Option Refused :=
  deviceRow 5 noPlace m.image.patterns.length (64 - (s.models.map (·.image.patterns.length)).sum)

/-- Row 0x06: Signpost entries that are invalid, each named once. -/
def entryRow (s : State) (m : Model) : Option Refused :=
  let keys := m.image.entries.foldl (fun a e =>
    if ((kvGet (s.bank e.bank).entries e.index).elim false (·.valid)) then a else setAdd a (e.bank * 4096 + e.index)) []
  deviceRow 6 noPlace m.image.entries.length keys.length

/-- Row 0x07: channels against the stride, then the in-flight total against the block count. -/
def cairnRow (s : State) (m : Model) : Option Refused :=
  let q := (s.tenant m.tenant).quota
  firstRefusal [deviceRow 7 noPlace m.image.channels q.stride, deviceRow 7 noPlace (latTotal s m.tenant + m.inFlight) q.blocks]

/-- Row 0x08: Waymarks. -/
def waymarkRow (s : State) (m : Model) (n : Nat) : Option Refused := deviceRow 8 noPlace n (waymarksFree s m.tenant).length

/-- Row 0x09: record contexts. -/
def contextRow (s : State) (m : Model) : Option Refused :=
  let others := ((List.range 32).map (fun t => if t = m.tenant then 0 else latTotal s t)).sum
  quotaRow 9 noPlace noPlace (latTotal s m.tenant + m.inFlight) (s.tenant m.tenant).quota.contexts (256 - others)

/-- Row 0x0A: Ridge-slots, on each physical Ridge in turn. -/
def slotRow (s : State) (m : Model) : Option Refused :=
  if !m.latency then none
  else firstRefusal ((List.range 68).map (fun q =>
    let needed := m.rate * ridgeSlots (allStages s m) q
    if needed = 0 then none
    else quotaRow 0x0A (ridgeLoc q) (ridgeLoc q) needed
      ((s.tenant m.tenant).quota.latSlots - reservedSlots s (some m.tenant) q) (240 - reservedSlots s none q)))

/-- Row 0x0B: energy, at nominal prices. -/
def energyRow (s : State) (m : Model) : Option Refused :=
  if !m.latency then none
  else quotaRow 0x0B noPlace noPlace (plannedEnergy s m)
    ((s.tenant m.tenant).quota.latEnergy - reservedEnergy s (some m.tenant)) (energyLimit s.disp.cap - reservedEnergy s none)

/-- Every row of Table 10.9 of step 5, in table order, for a model that holds its image plots already. -/
def fitRows (s : State) (m : Model) (waymarks : Nat) : Option Refused :=
  firstRefusal [if m.traced then plotRow s m.tenant (refitPlots m) else none, hotRow s m, unitRow s m, tableRow s m,
    patternRow s m, entryRow s m, cairnRow s m, waymarkRow s m waymarks, contextRow s m, slotRow s m, energyRow s m]

/-! ## The command against the image (R218, R220, R349) -/

/-- Traced entries a tenant's models would hold. -/
def tracedEntries (s : State) (t : Nat) : Nat :=
  (s.models.map (fun m => if m.tenant = t ∧ m.traced then traceCapacity m else 0)).sum

/-- Every logical Ridge that the member uses has an active physical one, lowest first. -/
def sortedMapCheck (s : State) (m : Model) : Option Refused :=
  firstRefusal ((List.range 64).map (fun j =>
    unless_ (ridgeActive s (m.ridgeMap.getD j 0xFF) || !(memberPlaced m.image m.member).any (·.ridge == j)) (atField errBadConfig (80 + j))))

/-- Checks of the command that need the validated image, in the order of its fields. -/
def imageChecks (s : State) (m : Model) (pl : List Byte) : Option Refused :=
  let stages := stageModels s m
  firstRefusal ([
    unless_ (stages.all (fun x => x.latency == m.latency)) (atField errBadConfig 3),
    unless_ (m.residency != 0 || ((List.range m.image.members).all (fun k => memberPasses m.image.trees k == 1) &&
      m.image.trees.all (·.tree.flat))) (atField errBadConfig 4),
    unless_ (m.residency != 2 || m.image.trees.all (·.tree.flat)) (atField errBadConfig 4),
    unless_ (m.member < m.image.members) (atField errBadConfig 5),
    unless_ (!m.traced || (m.image.refit.isSome && m.residency != 2 && tracedEntries s m.tenant + traceCapacity m ≤ 2 ^ 20))
      (atField errBadConfig 6)] ++
    [sortedMapCheck s m] ++
    ((loadChips pl).zipIdx.map (fun c => unless_ (c.2 < m.image.members || c.1 == 0) (atField errBadConfig (144 + c.2)))))

/-! ## Step 1 of R220 -/

/-- A load or unload runs (R220). -/
def loadRunning (s : State) : Bool :=
  s.load.isSome || s.models.any (fun m => m.state == .loading || ((m.state == .stopping || m.state == .zeroising) && !m.replaced))

/-- The loaded model of a handle. -/
def loadedModel (s : State) (t h : Nat) : Option Model :=
  s.models.find? (fun m => m.tenant == t && m.handle == h && !m.replaced && m.state == .loaded)

/-- Entries of the Ridge map: distinct active physical Ridges, or 0xFF. -/
def mapCheck (s : State) (map : List Nat) : Option Refused :=
  firstRefusal (map.zipIdx.map (fun p =>
    unless_ (p.1 == 0xFF || (ridgeActive s p.1 && !(map.take p.2).contains p.1)) (atField errBadConfig (80 + p.2))))

/-- The load command's own rules, in the order of its fields (R219, R220, R223). -/
def loadChecks (s : State) (pl : List Byte) (t : Nat) : Option Refused :=
  let old := loadedModel s t (loadHandle pl)
  let r := loadRate pl
  firstRefusal [
    unless_ (!loadRunning s) (atField errBusy 0),
    unless_ (old.isNone || loadReplace pl) (atField errBusy 0),
    unless_ (old.isSome || !loadReplace pl) (bare errNoModel),
    unless_ (loadClass pl == 1 || loadClass pl == 2) (atField errBadConfig 3),
    unless_ (loadResidency pl ≤ 2 && !(loadResidency pl == 2 && loadClass pl == 1)) (atField errBadConfig 4),
    unless_ (loadMember pl ≤ 15) (atField errBadConfig 5),
    unless_ (if loadClass pl = 1 then 1 ≤ r && r ≤ 256 else r == 0) (atField errBadConfig 8),
    unless_ (loadWaymarks pl ≤ 64) (atField errBadConfig 10),
    unless_ (loadIova pl % 4096 == 0) (atField errBadConfig 16),
    unless_ (loadSize pl % 16 == 0 && 1024 ≤ loadSize pl && loadSize pl ≤ 1073741824) (atField errBadConfig 24),
    mapCheck s (loadRidgeMap pl),
    plotRow s t (ceilDiv (loadSize pl) plotSize)]

end Sys2Proof.Machine
end

