-- ==== Sys2Proof/Machine/Degrade.lean ====
section
/-! DEFINITION. What firmware does about fenced units: the stand-in's units, the remap, lost Ridges, degraded placements and lost walkers (R225, R423 to R426). -/

namespace Sys2Proof.Machine

/-! ## Remap (R423) -/

/-- The stand-in that serves a fenced Ridge's logical index, before the remap. -/
def standInOf (s : State) (r : Nat) : Option Nat :=
  (s.ridge r).logical.bind (fun l => (List.range 68).find? (fun q =>
    q != r && !(s.ridge q).fenced && (s.ridge q).standsIn && (s.ridge q).logical == some l))

/-- Poisoned table units of a table's master copy: their numbers inside the table. -/
def poisonedUnits (s : State) (m : Model) (p : Placed) : List Nat :=
  (List.range p.tree.units).filter (fun i =>
    (List.range 128).any (fun k => poisoned s.mem (plotAddr m.plots (m.image.treeOff + p.off + 1024 * i + 8 * k))))

/-- Ask the host for the heal blocks of a self-heal model's poisoned table units, outside the heal queue (R424). -/
def healUnits (m : Model) (p : Placed) (is : List Nat) (s : State) : State :=
  if !m.selfHeal then s
  else is.foldl (fun s i =>
    let blk := (m.image.treeOff + p.off + 1024 * i) / 4096 * 4096
    let dead := (s.model? m.id).elim true (fun x => x.deadBlocks.contains blk)
    if dead || s.mem.healReads.any (fun b => b.model == m.id && b.off == blk) then s
    else
      fetchBlock m blk
        (modModel m.id (fun x => { x with healing := setAdd x.healing blk })
          (modMem (fun x => { x with healReads := x.healReads ++ [⟨m.id, blk⟩] }) s))) s

/-- Copy one model's units from fenced Ridge `r` to stand-in `q`, marking the units whose master copy is poisoned. -/
def copyUnits (ecc : List EccFind) (id r q : Nat) (s : State) : State :=
  match s.model? id with
  | none => s
  | some m =>
    let us := (m.unitsHeld.filter (fun u => u.1 == r)).map (fun u => (q, u.2))
    let s := readWordsAt ecc (masterWords m (us.filterMap (fun u => m.current[u.2.2.2.2]?))) s
    let s := modModel id (fun x => { x with unitsHeld := x.unitsHeld.filter (fun u => u.1 != q) ++ us }) (writeUnits m us s)
    us.foldl (fun s u => match m.current[u.2.2.2.2]? with
      | none => s
      | some p =>
        let bad := poisonedUnits s m p
        let s := modRidge q (fun x => { x with marks := x.marks ++ bad.map (fun i => (u.2.1, u.2.2.1 + i)) }) s
        healUnits m p bad s) s

/-- Firmware's work in the epoch after a fence that a stand-in covers: its units, and the remap it will make. -/
def prepareRemap (ecc : List EccFind) (r q : Nat) (s : State) : State :=
  later (.remap r q) ((s.models.map (·.id)).foldl (fun s id => copyUnits ecc id r q s) s)

/-- Spares that remain: neither fenced, mapped nor standing in. -/
def sparesLeft (s : State) : Nat :=
  (List.range 68).countP (fun q => (s.ridge q).spare && (s.ridge q).logical.isNone && !(s.ridge q).fenced)

/-- The remap: the stand-in becomes the active Ridge of the logical index and every Ridge map records it. -/
def remapEffect (r q : Nat) (s : State) : State :=
  if (s.ridge q).fenced || !(s.ridge q).standsIn || (s.ridge r).logical != (s.ridge q).logical then s
  else
    let s := { s with models := s.models.map (fun m => { m with
      ridgeMap := m.ridgeMap.map (fun p => if p = r then q else p)
      unitsHeld := m.unitsHeld.filter (fun u => u.1 != r) }) }
    let s := modRidge q (fun x => { x with spare := false }) (modRidge r (fun x => { x with logical := none }) s)
    raise 0x0302 0xFF (leBytes 1 r ++ leBytes 1 q ++ leBytes 1 (sparesLeft s)) s

/-! ## Degraded placement (R425) -/

/-- The member's trees on a logical Ridge, with their tree indices. -/
def lostTrees (m : Model) (j : Nat) : List (Placed × Nat) :=
  m.current.zipIdx.filter (fun p => p.1.member == m.member && p.1.ridge == j)

/-- A physical Ridge can host a lost logical Ridge's trees. -/
def hostOk (s : State) (m : Model) (j q : Nat) : Bool :=
  let ts := lostTrees m j
  let engines := ts.foldl (fun a p => setAdd a p.1.engine) []
  ridgeActive s q && engines.all (fun e => !engineHot s q e && !isCanary s q e &&
    (placeEngine (freeUnits s q e) ((ts.filter (fun p => p.1.engine == e)).map (fun p => (p.1.tree.units, p.2)))).isSome)

/-- The host of a degraded placement: the lowest-numbered that can take it. -/
def hostFor (s : State) (m : Model) (j : Nat) : Option Nat := (List.range 68).find? (hostOk s m j)

/-- Move the trees of logical Ridge `j` to new last passes: one for each pass the Ridge took part in, in order. -/
def movePasses (m : Model) (j : Nat) (ts : List Placed) : List Placed :=
  let last := m.passCount
  let ps := (lostTrees m j).foldl (fun a p => setAdd a p.1.pass) []
  ts.map (fun p => if p.member = m.member ∧ p.ridge = j then { p with pass := last + ps.findIdx (· == p.pass) } else p)

/-- A model as a degraded placement leaves it, but for its units. -/
def degradedModel (m : Model) (j host rate : Nat) : Model :=
  let trees := movePasses m j m.image.trees
  let cost := deriveCost trees m.image.channels m.image.out.link m.image.program.length m.member
  { m with
    image := { m.image with trees := trees, costs := m.image.costs.set m.member cost }
    versions := m.versions.map (movePasses m j)
    ridgeMap := m.ridgeMap.set j host
    residency := if m.residency = 0 then 1 else m.residency
    rate := rate, fitLost := true }

/-- The state with a model left out, against which a new rate is fitted. -/
def without (id : Nat) (s : State) : State := { s with models := s.models.filter (·.id != id) }

/-- The largest rate up to the present one that rows 0x0A and 0x0B allow at the new cost. -/
def degradedRate (s : State) (m : Model) (j host : Nat) : Nat :=
  ((List.range m.rate).map (fun i => m.rate - i)).findSome? (fun r =>
    let x := degradedModel m j host r
    if (slotRow (without m.id s) x).isNone && (energyRow (without m.id s) x).isNone then some r else none) |>.getD 0

/-- The host and rate of a degraded placement, none when there is none. -/
def degradedPlan (s : State) (m : Model) (j : Nat) : Option (Nat × Nat) :=
  (hostFor s m j).bind (fun q =>
    let r := degradedRate s m j q
    if m.latency ∧ r = 0 then none else some (q, r))

/-- FIT_LOST's event (Table 19.3). -/
def raiseFitLost (m : Model) (logical cause newRate : Nat) (s : State) : State :=
  raise 0x0303 m.tenant (leBytes 2 m.handle ++ leBytes 1 logical ++ leBytes 1 cause ++ leBytes 2 m.rate ++ leBytes 2 newRate) s

/-- A model loses a logical Ridge with no spare: FIT_LOST, and the degraded placement when one exists. -/
def loseRidge (id j cause : Nat) (s : State) : State :=
  match s.model? id with
  | none => s
  | some m =>
    let plan := degradedPlan s m j
    let s := modModel id (fun x => { x with fitLost := true, lostRidges := setAdd x.lostRidges j }) s
    let s := raiseFitLost m j cause (plan.elim 0 (·.2)) s
    match plan with
    | some (q, r) => later (.degraded id j q r) s
    | none => s

/-- A degraded placement takes effect: its passes, its Ridge map, its rate and its units. A hot model becomes warm, with
units on every engine it names. -/
def degradedEffect (ecc : List EccFind) (id j host rate : Nat) (s : State) : State :=
  match s.model? id with
  | none => s
  | some m =>
    let m' := degradedModel m j host rate
    let s' := modModel id (fun _ => m') s
    let all := m'.current.zipIdx.filter (fun p => p.1.member == m'.member)
    let ts := if m.residency = 0 then all else lostTrees m' j
    let places := if m'.residency = 2 then .ok [] else placeUnits s' m'.ridgeMap ts (namedEngines m'.ridgeMap (ts.map (·.1)))
    match places with
    | .error _ => s
    | .ok us =>
      let s' := readWordsAt ecc (masterWords m' (if m'.residency = 2 then [] else ts.map (·.1))) s'
      writeUnits m' us (modModel id (fun x => { x with
        unitsHeld := x.unitsHeld.filter (fun u => !us.any (fun v => v.2.2.2.2 == u.2.2.2.2)) ++ us
        lostRidges := x.lostRidges.filter (· != j) }) s')

/-- Models in ascending tenant and then handle. -/
def modelOrder (s : State) : List Model :=
  sortBy (fun a b => a.tenant < b.tenant || (a.tenant == b.tenant && a.handle ≤ b.handle)) s.models

/-- Logical Ridges of a model that a physical Ridge served. -/
def logicalsOf (m : Model) (r : Nat) : List Nat :=
  (List.range 64).filter (fun j => m.ridgeMap.getD j 0xFF == r && !(lostTrees m j).isEmpty)

/-- Firmware learns of a fenced Ridge at an epoch's start: R423 with a stand-in, R425 without. A stand-in that was itself fenced
leaves the Ridge it stood in for, which the Ridge maps still name, to the next one, or lost (R23). A logical Ridge that a
model has lost already is not lost again (R225). -/
def fenceFollowUp (ecc : List EccFind) (r : Nat) (s : State) : State :=
  let olds := (List.range 68).filter (fun p =>
    (s.ridge p).fenced && !(s.ridge p).spare && (s.ridge p).logical == (s.ridge r).logical)
  match standInOf s r with
  | some q => olds.foldl (fun s p => prepareRemap ecc p q s) s
  | none =>
    let lost := (modelOrder s).filter (fun m => m.state != .loading)
    lost.foldl (fun s m => (((olds ++ [r]).eraseDups.flatMap (logicalsOf m)).filter (fun j => !m.lostRidges.contains j)).foldl
      (fun s j => loseRidge m.id j 0 s) s) s

/-! ## Walkers (R426) -/

/-- The eighth walker is fenced: FIT_LOST with cause 1 for every loaded model that walks. The manual states no new rate
for this cause: it is a free value (log 8). -/
def loseWalkers (s : State) : State :=
  ((modelOrder s).filter (fun m => m.state == .loaded && hasAutomaton m)).foldl (fun s m =>
    let r := nextFree 16 s
    modModel m.id (fun x => { x with fitLost := true }) (raiseFitLost m 0xFF 1 r.1 r.2)) s

/-! ## The audit of the two views (R427) -/

/-- Firmware saw the event of a fence. -/
def eventSeen (s : State) (code unit : Nat) : Bool :=
  s.evLog.any (fun e => e.code == code && byteAt e.data 0 == unit)

/-- STATE_MISMATCH: the event, and the count of mismatches. -/
def mismatch (kind index : Nat) (path view adopted : Bool) (s : State) : State :=
  let b := fun (x : Bool) => leBytes 1 (if x then 1 else 0)
  raise 0x0D01 0xFF (leBytes 1 kind ++ leBytes 1 index ++ b path ++ b view ++ b adopted)
    { s with mismatches := s.mismatches + 1 }

/-- Ridge fences: firmware follows up a fence it has not seen before, by its event or by the audit. -/
def auditRidge (ecc : List EccFind) (s : State) (r : Nat) : State :=
  let x := s.ridge r
  if x.fenced && !x.fencedView then
    let s := if eventSeen s 0x0301 r then s else mismatch 0 r true false true s
    fenceFollowUp ecc r (modRidge r (fun x => { x with fencedView := true }) s)
  else if !x.fenced && x.fencedView then soon (.fenceView r) (mismatch 0 r false true true s)
  else s

/-- Bank fences. -/
def auditBank (s : State) (b : Nat) : State :=
  let x := s.bank b
  if x.fenced && !x.fencedView then
    let s := if eventSeen s 0x0203 b then s else mismatch 1 b true false true s
    modBank b (fun x => { x with fencedView := true }) s
  else if !x.fenced && x.fencedView then
    modBank b (fun x => { x with fenced := true }) (mismatch 1 b false true true s)
  else s

/-- Walker fences. -/
def auditWalker (s : State) (w : Nat) : State :=
  let x := s.walker w
  if x.fenced && !x.fencedView then
    let s := if eventSeen s 0x0204 w then s else mismatch 2 w true false true s
    modWalker w (fun x => { x with fencedView := true }) s
  else if !x.fenced && x.fencedView then
    modWalker w (fun x => { x with fenced := true }) (mismatch 2 w false true true s)
  else s

/-- Port-open bits. -/
def auditPort (s : State) (l : Nat) : State :=
  let x := s.port l
  if x.openBit && !x.openView then soon (.closePort l) (mismatch 3 l true false false s)
  else if !x.openBit && x.openView then
    modPort l (fun x => { x with openView := false, mode := .closed }) (mismatch 3 l false true false s)
  else s

/-- Tenant-enable bits. -/
def auditTenant (s : State) (t : Nat) : State :=
  let x := s.tenant t
  if x.enable && !x.enableView then soon (.disableTenant t) (mismatch 4 t true false false s)
  else if !x.enable && x.enableView then
    modTenant t (fun x => { x with enableView := false, state := .disabled }) (mismatch 4 t false true false s)
  else s

/-- Firmware's audit and its handling of fences, at an epoch's start. -/
def audit (ecc : List EccFind) (s : State) : State :=
  let walkersBefore := s.walkers.all (·.fencedView)
  let s := (List.range 68).foldl (auditRidge ecc) s
  let s := (List.range 16).foldl auditBank s
  let s := (List.range 8).foldl auditWalker s
  let s := if !walkersBefore && s.walkers.all (·.fencedView) then loseWalkers s else s
  (List.range 32).foldl auditTenant ((List.range 8).foldl auditPort s)

end Sys2Proof.Machine
end

