-- ==== Sys2Proof/Machine/Waymarks.lean ====
section
/-! DEFINITION. Waymarks: their operations, waits and wait slots (chapter 13). -/

namespace Sys2Proof.Machine

/-! ## Naming (R276) -/

/-- The Waymark a function's local index names, none outside its tenant's range; physical function 0 uses numbers. -/
def wmkIndex (s : State) (f i : Nat) : Option Nat :=
  if f = 0 then (if i < 4096 then some i else none)
  else
    let q := (s.tenant (f - 1)).quota
    if i < q.wmkCount then some (q.wmkBase + i) else none

/-- The tenant whose range holds Waymark `n`, or 0xFF. -/
def wmkOwner (s : State) (n : Nat) : Nat :=
  (s.tenants.findIdx? (fun t => t.quota.wmkBase ≤ n && n < t.quota.wmkBase + t.quota.wmkCount)).getD 255

/-- A write outside the range is ignored and counted in the tenant's WMK_RANGE_DROPS (R276). -/
def wmkRangeDrop (f : Nat) (s : State) : State := if f = 0 then s else count (cTen (f - 1) 0x30) 1 s

/-! ## Waits (R280 to R282) -/

/-- The condition of R280. -/
def waitHolds (w : Waymark) (target : Nat) : Bool :=
  if w.barrier then
    let d := (w.gen + 65536 - target % 65536) % 65536
    1 ≤ d && d ≤ 32767
  else target ≤ w.count

/-- How an evaluation after an update completes a wait, by the order of R281. -/
def waitOutcome (w : Waymark) (wasReset : Bool) (target : Nat) : Option WaitState :=
  if w.err then some .error else if wasReset then some .reset
  else if waitHolds w target then some .satisfied else none

/-- How arming completes a wait, if it does at once (R280, R281). -/
def armOutcome (w : Waymark) (target : Nat) : Option WaitState :=
  if w.err then some .error
  else if w.barrier && target / 65536 != 0 then some .refused
  else if waitHolds w target then some .satisfied else none

/-- A timeout armed at (tick, time) has expired by the given cycle (R282). -/
def timeoutDue (timeout armTick armTime : Nat) (t : TimeSt) : Bool :=
  let v := timeout % 2 ^ 31
  if v = 0 then false
  else if bit timeout 31 then armTime + v ≤ t.time
  else armTick + v < t.tick || (armTick + v == t.tick && 6 ≤ t.cycle)

/-- The timeout expired in an earlier cycle than the current one. -/
def timeoutPast (timeout armTick armTime : Nat) (t : TimeSt) : Bool :=
  let v := timeout % 2 ^ 31
  if v = 0 then false
  else if bit timeout 31 then armTime + v < t.time || (armTime + v == t.time && t.sub != 0)
  else armTick + v < t.tick || (armTick + v == t.tick && 6 < t.cycle)

/-- Code of a wait state (Table 13.4). -/
def WaitState.code : WaitState → Nat
  | .idle => 0
  | .waiting => 1
  | .satisfied => 2
  | .timeout => 3
  | .error => 4
  | .reset => 5
  | .refused => 6

/-- How a slot's wait completes when an update of Waymark `n` that arrived at `t` is evaluated: a timeout that expired in
an earlier cycle was applied before the update (R283, R284). -/
def slotOutcome (n : Nat) (w : Waymark) (wasReset : Bool) (t : TimeSt) (x : WaitSlot) : Option WaitState :=
  if x.state = .waiting ∧ x.wmk = n then
    if timeoutPast x.timeout x.armTick x.armTime t then some .timeout else waitOutcome w wasReset x.target
  else none

/-- Evaluate the wait slots of one function after an update: the slots, the cause bits set and the vectors fired. -/
def evalSlots (n : Nat) (w : Waymark) (wasReset : Bool) (t : TimeSt) : Nat → List WaitSlot → List WaitSlot × Nat × List Nat
  | _, [] => ([], 0, [])
  | j, x :: xs =>
    let r := evalSlots n w wasReset t (j + 1) xs
    match slotOutcome n w wasReset t x with
    | some st => ({ x with state := st } :: r.1, 2 ^ (16 + j) ||| r.2.1, (if x.ie then [x.vec] else []) ++ r.2.2)
    | none => (x :: r.1, r.2.1, r.2.2)

/-- Evaluate a function's waits on Waymark `n` (R280, R286, R432). -/
def evalFn (n : Nat) (w : Waymark) (wasReset : Bool) (t : TimeSt) (x : FnSt) : FnSt :=
  let r := evalSlots n w wasReset t 0 x.waits
  { x with waits := r.1, cause := x.cause ||| r.2.1, msixDue := x.msixDue ++ r.2.2 }

/-- Evaluate a descriptor's wait on Waymark `n` (R315); a timeout that expired in an earlier cycle has ended it. -/
def evalDesc (n : Nat) (w : Waymark) (wasReset : Bool) (t : TimeSt) (d : Desc) : Desc :=
  match d.waiting, d.waitRes with
  | some (k, c), none =>
    if timeoutPast d.timeout k c t then { d with waitRes := some .timeout }
    else if d.waitWmk = n then { d with waitRes := waitOutcome w wasReset d.target } else d
  | _, _ => d

/-- Waits of function `f` on Waymark `n` that timed out before an update that arrived at `t`. -/
def timedOut (s : State) (n : Nat) (t : TimeSt) (f : Nat) : Nat :=
  (s.fn f).waits.countP (fun x => x.state == .waiting && x.wmk == n && timeoutPast x.timeout x.armTick x.armTime t)

/-- Count waits of function `f` that completed TIMEOUT (R295). -/
def countTimeouts (f k : Nat) (s : State) : State := if f = 0 then s else count (cTen (f - 1) 0x28) k s

/-- Every wait pending on Waymark `n`, in wait slots and descriptors, is evaluated after an update that arrived at `t`. -/
def evalWaits (n : Nat) (wasReset : Bool) (t : TimeSt) (s : State) : State :=
  let w := s.waymark n
  let s := (List.range 33).foldl (fun s f => countTimeouts f (timedOut s n t f) s) s
  { s with
    fns := s.fns.map (evalFn n w wasReset t)
    dma := { s.dma with
      streams := s.dma.streams.map (fun g => { g with descs := g.descs.map (evalDesc n w wasReset t) }) } }

/-! ## Operations (Table 13.1) -/

/-- An update of Waymark `n` that arrived at `t`: counted, applied, and every wait on it evaluated before the next (R283,
R295). -/
def wmkUpdate (t : TimeSt) (n : Nat) (f : Waymark → Waymark) (wasReset : Bool) (s : State) : State :=
  evalWaits n wasReset t (putWaymark n (f (s.waymark n)) (count (cWmk 0) 1 s))

/-- SIGNAL n, e on the Waymark itself (R278, R279). -/
def Waymark.signal (w : Waymark) (n : Nat) (e : Bool) : Waymark :=
  let c := w.count + n
  let w := { w with err := w.err || e }
  if w.barrier then
    if w.a = 0 then { w with count := c }
    else { w with count := c % w.a, gen := (w.gen + c / w.a) % 2 ^ 16 }
  else { w with count := min c 0xFFFFFFFF, ovf := w.ovf || decide (0xFFFFFFFF < c) }

/-- Openings a SIGNAL of n makes (R279). -/
def Waymark.trips (w : Waymark) (n : Nat) : Nat := if w.barrier then (w.count + n) / w.a else 0

/-- A SIGNAL with n = 0 and e = 0, and an ARM BARRIER with A = 0, are ignored: they are no updates (R278, R285). -/
def WmkOp.ignored : WmkOp → Bool
  | .signal n e => n == 0 && !e
  | .arm a => a == 0
  | _ => false

/-- What an operation does to its Waymark (Table 13.1). -/
def WmkOp.on : WmkOp → Waymark → Waymark
  | .signal n e, w => w.signal n e
  | .reset, w => { w with barrier := false, count := 0, err := false, ovf := false }
  | .arm a, w => { w with barrier := true, count := 0, a := a, err := false, ovf := false }
  | .clearErr, w => { w with err := false }
  | .remote on, w => { w with remoteOk := on }

/-- RESET and ARM BARRIER complete every wait pending on the Waymark (R278). -/
def WmkOp.resets : WmkOp → Bool
  | .reset => true
  | .arm _ => true
  | _ => false

/-- An operation that arrived at `t` is applied to Waymark `i`: a barrier's openings are counted, and the first overflow
since RESET or ARM raises WMK_OVERFLOW (R278, R279). -/
def wmkApply (t : TimeSt) (i : Nat) (op : WmkOp) (s : State) : State :=
  if op.ignored then s
  else
    let w := s.waymark i
    let s := match op with
      | .signal n _ => count (cWmk 1) (w.trips n) s
      | _ => s
    let s := wmkUpdate t i op.on op.resets s
    if !w.ovf && (op.on w).ovf then raise 0x0701 (wmkOwner s i) (leBytes 2 i) s else s

/-! ## The unit's order (R283) -/

/-- The unit applies an update of Waymark `n` from source `src` in the cycle it arrives: nothing waits before it, the cycle
has room for it, and it comes no earlier in the cycle's order than the last one applied (log 121). -/
def wmkTakes (s : State) (n src : Nat) : Bool :=
  let u := s.wmkUnit
  u.queue.isEmpty && (u.cycle != s.now || u.applied == 0 ||
    (decide (u.applied < 4) && (decide (u.lastN < n) || (u.lastN == n && decide (u.lastSrc ≤ src)))))

/-- The order of two queued updates: by arrival cycle, then Waymark, then source (R283). -/
def WmkUpd.le (a b : WmkUpd) : Bool :=
  let ka := a.arrived.tick * 1024 + a.arrived.cycle
  let kb := b.arrived.tick * 1024 + b.arrived.cycle
  ka < kb || (ka == kb && (a.n < b.n || (a.n == b.n && a.src ≤ b.src)))

/-- Note the update that the unit has applied in the current cycle. -/
def wmkNote (n src : Nat) (s : State) : State :=
  { s with wmkUnit := { s.wmkUnit with
      cycle := s.now, applied := (if s.wmkUnit.cycle = s.now then s.wmkUnit.applied else 0) + 1, lastN := n, lastSrc := src } }

/-- An update reaches the unit: it is applied at once, or waits in the input queue in its place (R283). Source 2 of Table 13.2
posts none: no rule says which Waymark a host-ring answer signals (log 141). -/
def wmkPost (src n : Nat) (op : WmkOp) (s : State) : State :=
  if op.ignored then s
  else if wmkTakes s n src then wmkNote n src (wmkApply s.time n op s)
  else { s with wmkUnit := { s.wmkUnit with queue := insertBy WmkUpd.le ⟨n, src, op, s.time⟩ s.wmkUnit.queue } }

/-- The first `k` updates of the input queue are applied. -/
def wmkDrain (k : Nat) (s : State) : State :=
  let now := s.wmkUnit.queue.take k
  now.foldl (fun s u => wmkApply u.arrived u.n u.op s)
    { s with wmkUnit := { s.wmkUnit with queue := s.wmkUnit.queue.drop k } }

/-- Every update of the input queue is applied: what a BAR read, an arm or firmware meets is the state after every update
ordered before it (R283, R285, R289). -/
def wmkFlush (s : State) : State := wmkDrain s.wmkUnit.queue.length s

/-- Firmware's operation on a Waymark, after the updates that reached the unit before it (Table 13.2, source 4). -/
def wmkFirmware (i : Nat) (op : WmkOp) (s : State) : State :=
  let s := wmkFlush s
  wmkApply s.time i op s

/-- Apply a window operation of function `f` at local index `i` (R276). -/
def wmkWindow (f i : Nat) (op : Nat → State → State) (s : State) : State :=
  if !s.windowOpen f then s
  else
    match wmkIndex s f i with
    | some n => op n s
    | none => wmkRangeDrop f s

/-- A release's end of a range: pending waits complete RESET and every field is 0 (R294). -/
def wmkZero (n : Nat) (s : State) : State :=
  let s := wmkFlush s
  putWaymark n Waymark.reset (evalWaits n true s.time (putWaymark n Waymark.reset s))

/-! ## Wait slots (R286) -/

/-- A slot's wait completes: its state, its cause bit, and its vector when IE is set. -/
def completeSlot (f j : Nat) (st : WaitState) (s : State) : State :=
  modFn f (fun x =>
    let w := x.waits.getD j WaitSlot.idle
    { x with
      waits := x.waits.set j { w with state := st }
      cause := x.cause ||| 2 ^ (16 + j)
      msixDue := x.msixDue ++ (if w.ie then [w.vec] else []) }) s

/-- Write the RW fields of WMK_WAIT_CTRL. -/
def slotFields (ctrl : Nat) (w : WaitSlot) : WaitSlot :=
  { w with index := bits ctrl 11 0, vec := bits ctrl 18 16, ie := bit ctrl 19 }

/-- CANCEL: a waiting slot returns to IDLE. -/
def slotCancel (f j : Nat) (s : State) : State :=
  modFn f (fun x =>
    let w := x.waits.getD j WaitSlot.idle
    if w.state = .waiting then { x with waits := x.waits.set j { w with state := .idle } } else x) s

/-- ARM: evaluate the wait at once, or leave it WAITING; ignored in a WAITING slot (R280, R281, R286). -/
def slotArm (f j : Nat) (s : State) : State :=
  let w := (s.fn f).waits.getD j WaitSlot.idle
  if w.state = .waiting then s
  else
    match wmkIndex s f w.index with
    | none => completeSlot f j .refused s
    | some n =>
      match armOutcome (s.waymark n) w.target with
      | some st => completeSlot f j st s
      | none =>
        modFn f (fun x =>
          { x with waits := x.waits.set j
                     { w with state := .waiting, wmk := n, armTick := s.time.tick, armTime := s.time.time } }) s

/-- A write of WMK_WAIT_CTRL: the fields, then CANCEL, then ARM (log 12). One that names an index outside the range and
does not arm is ignored and counted; one that arms ends as REFUSED (R276, log 122). -/
def writeWaitCtrl (f j ctrl : Nat) (s : State) : State :=
  if !s.windowOpen f then s
  else if !bit ctrl 15 && (wmkIndex s f (bits ctrl 11 0)).isNone then wmkRangeDrop f s
  else
  let s := modFn f (fun x => { x with waits := x.waits.modify j (slotFields ctrl) }) (wmkFlush s)
  let s := if bit ctrl 13 then slotCancel f j s else s
  if bit ctrl 15 then slotArm f j s else s

/-- Every slot of a function IDLE with its fields 0 (R294, R435). -/
def idleSlots (f : Nat) (s : State) : State := modFn f (fun x => { x with waits := List.replicate 16 WaitSlot.idle }) s

/-- Waits pending on Waymark `n` over all functions, in wait slots and in descriptors (R280, R315, Table 17.10). -/
def pendingWaits (s : State) (n : Nat) : Nat :=
  (s.fns.map (fun x => x.waits.countP (fun w => w.state = .waiting ∧ w.wmk = n))).sum +
    (s.dma.streams.map (fun g => g.descs.countP (fun d => d.waiting.isSome ∧ d.waitRes.isNone ∧ d.waitWmk = n))).sum

/-! ## The commands -/

/-- WMK_SIGNAL_WRITE (R278, R279, R285). -/
def execWmkSignalWrite (fn : Fn) (index n : Nat) (e : Bool) (s : State) : Host.Outcome State Fault Refusal :=
  .next (wmkWindow fn index (fun i s => wmkPost 0 i (.signal n e) s) s)

/-- WMK_RESET (R278, op 1). -/
def execWmkReset (fn : Fn) (index : Nat) (s : State) : Host.Outcome State Fault Refusal :=
  .next (wmkWindow fn index (fun i s => wmkPost 0 i .reset s) s)

/-- WMK_ARM_BARRIER (R278, op 2). -/
def execWmkArmBarrier (fn : Fn) (index a : Nat) (s : State) : Host.Outcome State Fault Refusal :=
  .next (wmkWindow fn index (fun i s => wmkPost 0 i (.arm a) s) s)

/-- WMK_CLEAR_ERR (R278, op 3). -/
def execWmkClearErr (fn : Fn) (index : Nat) (s : State) : Host.Outcome State Fault Refusal :=
  .next (wmkWindow fn index (fun i s => wmkPost 0 i .clearErr s) s)

/-- WMK_REMOTE_ON (R278, op 4). -/
def execWmkRemoteOn (fn : Fn) (index : Nat) (s : State) : Host.Outcome State Fault Refusal :=
  .next (wmkWindow fn index (fun i s => wmkPost 0 i (.remote true) s) s)

/-- WMK_REMOTE_OFF (R278, op 5). -/
def execWmkRemoteOff (fn : Fn) (index : Nat) (s : State) : Host.Outcome State Fault Refusal :=
  .next (wmkWindow fn index (fun i s => wmkPost 0 i (.remote false) s) s)

/-- WAIT_ARM: a write of WMK_WAIT_CTRL with ARM set (R286). -/
def execWaitArm (fn : Fn) (slot : Fin 16) (ctrl : Nat) (s : State) : Host.Outcome State Fault Refusal :=
  .next (writeWaitCtrl fn slot ctrl s)

/-- WAIT_CANCEL: a write of WMK_WAIT_CTRL with CANCEL set (R286). -/
def execWaitCancel (fn : Fn) (slot : Fin 16) (ctrl : Nat) (s : State) : Host.Outcome State Fault Refusal :=
  .next (writeWaitCtrl fn slot ctrl s)

/-- WAIT_TIMEOUT_EXPIRY: the timeout engine is the last source of a cycle, so a wait that every update of its expiry cycle
has left pending completes TIMEOUT once that cycle has passed, counted per tenant (R282, R284). -/
def execWaitTimeoutExpiry (fn : Fn) (slot : Fin 16) (s : State) : Host.Outcome State Fault Refusal :=
  let s := wmkFlush s
  let w := (s.fn fn).waits.getD slot WaitSlot.idle
  if w.state = .waiting ∧ timeoutPast w.timeout w.armTick w.armTime s.time then
    .next (countTimeouts fn 1 (completeSlot fn slot .timeout s))
  else .next s

end Sys2Proof.Machine
end

