-- ==== Sys2Proof/Machine/Models.lean ====
section
/-! DEFINITION. Model load, replacement and unload, and the model and Signpost commands (R219 to R225, R383). -/

namespace Sys2Proof.Machine

/-! ## Load (R220) -/

/-- Image option bits. -/
def newModel (s : State) (t : Nat) (pl : List Byte) (img : Image) (plots : List Nat) : Model :=
  { id := s.nextModel, tenant := t, handle := loadHandle pl, state := .loading, latency := loadClass pl == 1
    residency := loadResidency pl, member := loadMember pl, tableRes := bit (loadOptions pl) 0
    selfHeal := bit (loadOptions pl) 1, traced := bit (loadOptions pl) 2, rate := loadRate pl, group := loadGroup pl
    iova := loadIova pl, ridgeMap := loadRidgeMap pl, chipIds := loadChips pl, waymarks := [], plots := plots, image := img
    unitsHeld := [], otherUnits := [], versions := [img.trees], fitLost := false, replaced := false, deadBlocks := []
    healing := [], detourHold := false, standing := false, accepting := false, lostRidges := [] }

/-- A fresh statistics record of a field's slot, armed with the image's threshold (R105, log 31). -/
def freshStat (f : Field) : StatRec :=
  { cur := 0, last := [], foldTick := 0, clipped := 0, escaped := 0, nan := 0, curClip := 0, curEsc := 0, curNan := 0
    touched := false, sat := 0, satEpoch := 0, t := f.threshold, armed := true, resetBit := false, restoreDue := false }

/-- Statistics records of every slot a model bins. -/
def addStats (m : Model) (s : State) : State :=
  { s with stats := m.image.fields.foldl (fun k f =>
      f.slots.foldl (fun k sl => kvSet k (statKey m.id sl) (freshStat f)) k) s.stats }

/-- Write an image's entries into its tenant's banks, each by WRITE and VALIDATE (R210). -/
def writeEntries (es : List EntryRec) (s : State) : State :=
  es.foldl (fun s e => (runEntryOps e.bank 0 [⟨2, e.index, 0, e.result, e.units⟩, ⟨3, e.index, 0, 0, 0⟩] s).2) s

/-- Give a model its warm units. -/
def takeUnits (m : Model) (s : State) : Model :=
  if m.residency ≠ 1 then m
  else match placeUnits s m.ridgeMap (m.image.trees.zipIdx.filter (fun p => p.1.member == m.member)) m.engines with
    | .ok us => { m with unitsHeld := us }
    | .error _ => m

/-- Give a traced model its refit areas (R350). -/
def takeAreas (m : Model) (s : State) : State :=
  if !m.traced then s
  else
    let ps := (freePlots s).take (refitPlots m)
    let s := ps.foldl (fun s p => takePlot p (.data, some m.tenant) s) s
    { s with refits := s.refits ++ [{ model := m.id, plots := ps, w := 0, shadowSat := 0, shadowState := .invalid
                                      commitRunning := false, paused := false, sweeps := 0, lastSweep := s.time.epoch, decayed := 0, proposed := 0, passSat := 0
                                      ghPending := [], gMax := [0, 0, 0, 0, 0], hMax := [0, 0, 0, 0, 0] }] }

/-- The load's writes (step 6): tables, Waymarks, refit areas, statistics and entries. -/
def writeModel (m : Model) (n : Nat) (s : State) : State :=
  let wmks := (waymarksFree s m.tenant).take n
  let m := { (takeUnits m s) with waymarks := wmks }
  let s := wmks.foldl (fun s i => wmkFirmware i .reset s) s
  let s := takeAreas m { s with models := s.models ++ [m], nextModel := s.nextModel + 1 }
  writeEntries m.image.entries (addStats m (writeUnits m m.unitsHeld s))

/-- Plots a handle holds: its images' plots and refit areas, the replaced image's and those of an image being fetched among them
(R223). -/
def handlePlots (s : State) (t h : Nat) : Nat :=
  s.load.elim 0 (fun j => if pageTenant j.page = t ∧ loadHandle (pagePayload j.page) = h then j.plots.length else 0) +
  ((s.models.filter (fun m => m.tenant == t && m.handle == h)).map (fun m =>
    m.plots.length + (s.refit? m.id).elim 0 (·.plots.length))).sum

/-- Local indices of a model's Waymarks in 64 places, 0xFFFF unused. -/
def waymarkBytes (s : State) (m : Model) : List Byte :=
  (List.range 64).flatMap (fun i => leBytes 2 ((m.waymarks[i]?).elim 0xFFFF (· - (s.tenant m.tenant).quota.wmkBase)))

/-- The load's response (Table 17.6). -/
def loadResponse (s : State) (m : Model) : List Byte :=
  leBytes 2 (handlePlots s m.tenant m.handle) ++ leBytes 1 m.waymarks.length ++ zeros 1 ++ waymarkBytes s m

/-- MODEL_LOAD: its own checks, its plots, and the fetch of its image on stream 7 of physical function 0. -/
def execModelLoad (fn : Fn) (s : State) : Host.Outcome State Fault Refusal :=
  runCommand fn 0x0201 anyOp loadChecks (fun pl t s =>
    let ps := (freePlots s).take (ceilDiv (loadSize pl) plotSize)
    let s := ps.foldl (fun s p => takePlot p (.model, some t) s) s
    respondWait fn [] (modDma (fun d => { d with fetches := d.fetches ++ [⟨.image, loadIova pl, loadSize pl⟩] })
      { s with load := some ⟨fn, (s.fn fn).mbx.run, ps, [], []⟩ })) s

/-- A load ends refused: its plots are zeroised and freed. -/
def failLoad (j : LoadJob) (r : Refused) (s : State) : State :=
  postResponse j.fn r.1 r.2 (releasePlots j.plots
    (modDma (fun d => { d with fetches := d.fetches.filter (fun f => f.what != .image) }) { s with load := none }))

/-- The refusal of a failed image check (R217, Table 17.4). -/
def imageRefusal (e : IErr) : Refused :=
  if e.1 = 0x100 then (errNotOwner, leBytes 2 48 ++ zeros 2 ++ leBytes 8 e.2)
  else (errBadImage, leBytes 1 e.1 ++ zeros 3 ++ leBytes 8 e.2)

/-- Lay an image over its plots. -/
def layImage (plots : List Nat) (image : List Byte) (s : State) : State :=
  plots.zipIdx.foldl (fun s p => writeWhole (p.1 * plotSize) (slice image (p.2 * plotSize) plotSize) s) s

/-- The digest of the fetched bytes equals the trailer and the command's digest (R206). -/
def digestOk (pl image : List Byte) : Bool :=
  let d := sha384 (image.take (image.length - 48))
  d == image.drop (image.length - 48) && d == loadDigest pl

/-- Steps 4 and 5 of R220 on a fetched image: the refusal, or the model. -/
def checkImage (t : Nat) (pl image : List Byte) (plots : List Nat) (s : State) : Except Refused Model :=
  if !digestOk pl image then .error (bare errBadDigest)
  else
    match parseImage s t image (loadSize pl) with
    | .error e => .error (imageRefusal e)
    | .ok img =>
      let m := newModel s t pl img plots
      match firstRefusal [imageChecks s m pl, fitRows s m (loadWaymarks pl)] with
      | some r => .error r
      | none => .ok m

/-- Tables that firmware copies from the master copy at step 6: into Ridge SRAM, or a hot model's engines. -/
def copiedTables (m : Model) : List Placed := if m.residency = 2 then [] else memberPlaced m.image m.member

/-- Image offsets of the 4 KiB blocks of the copied tables that hold a poisoned word, ascending. -/
def poisonedBlocks (s : State) (m : Model) : List Nat :=
  ((copiedTables m).flatMap (fun p => (List.range (128 * p.tree.units + 1)).map (fun i =>
    (m.image.treeOff + p.off) / 8 * 8 + 8 * i))).foldl (fun a o =>
      if poisoned s.mem (plotAddr m.plots o) then setAdd a (o / 4096 * 4096) else a) []

/-- Step 6 of R220: firmware reads the tables it copies. A block with a poisoned word is fetched again from the host image
first (Table 11.6); with none left the model is written, and its load completes. -/
def loadStepSix (ecc : List EccFind) (j : LoadJob) (pl image : List Byte) (m : Model) (s : State) : State :=
  let s := readWordsAt ecc (masterWords m (copiedTables m)) s
  let blocks := poisonedBlocks s m
  if blocks.isEmpty then
    let s := writeModel m (loadWaymarks pl) { s with load := none }
    respondMilestone j.fn ((s.model? m.id).elim [] (loadResponse s)) (later (.modelLoaded m.id) s)
  else
    let fs := blocks.map (fun o => ⟨.image, loadIova pl + o, min 4096 (loadSize pl - o)⟩)
    modDma (fun d => { d with fetches := d.fetches ++ fs }) { s with load := some { j with image := image, blocks := blocks } }

/-- The requests of the image's fetch have all been issued (R296). -/
def imageFetched (s : State) : Bool := s.dma.fetches.all (fun f => f.what != .image)

/-- Blocks fetched again after poison: each is compared with the host's bytes and, where its other words agree, written whole
(R245). None when one differs. -/
def repairBlocks (m : Model) (size : Nat) (host : List Byte) (blocks : List Nat) (s : State) : Option State :=
  blocks.zipIdx.foldl (fun (a : Option State) b => a.bind (fun s =>
    let n := min 4096 (size - b.1)
    let bs := slice host (4096 * b.2) n
    if healAgrees m s.mem (plotAddr m.plots b.1) b.1 n bs then some (writeWhole (plotAddr m.plots b.1) bs s) else none)) (some s)

/-- The refusal of a load whose poison cannot be made good: the first poisoned word of its blocks. -/
def poisonRefusal (s : State) (j : LoadJob) : Refused :=
  let ws := j.blocks.filterMap (fun o => firstPoison s.mem (plotAddr j.plots o) 4096)
  (errPoisoned, leBytes 8 (ws.head?.getD 0))

/-- IMAGE_FETCH_DONE: the fetched image is validated, fitted and written, or the load is refused (R206, R217, R220). When blocks
were fetched again, `image` holds them in order, 4,096 bytes each. The finds are named by device word. -/
def execImageFetchDone (failedAt : Option Nat) (image : List Byte) (s : State) (ecc : List EccFind := []) :
    Host.Outcome State Fault Refusal :=
  match s.load with
  | none => .next s
  | some j =>
    let pl := pagePayload j.page
    let t := pageTenant j.page
    match failedAt, j.blocks with
    | some off, [] => .next (failLoad j (errDmaFault, leBytes 8 off) s)
    | some _, _ :: _ => .next (failLoad j (poisonRefusal s j) s)
    | none, [] =>
      if !imageFetched s then .next s
      else
        let image := fitBytes image (loadSize pl)
        let s := layImage j.plots image s
        match checkImage t pl image j.plots s with
        | .error r => .next (failLoad j r s)
        | .ok m => .next (loadStepSix ecc j pl image m s)
    | none, _ :: _ =>
      if !imageFetched s then .next s
      else
        match checkImage t pl j.image j.plots s with
        | .error r => .next (failLoad j r s)
        | .ok m =>
          match repairBlocks m (loadSize pl) image j.blocks s with
          | none => .next (failLoad j (poisonRefusal s j) s)
          | some s => .next (loadStepSix ecc j pl j.image m s)

/-- Ridges of a loading model's map that have been fenced take their stand-ins, or are lost (R225). -/
def substituteRidges (ecc : List EccFind) (id : Nat) (s : State) : State :=
  match s.model? id with
  | none => s
  | some m =>
    (List.range 64).foldl (fun s j =>
      let p := m.ridgeMap.getD j 0xFF
      if p < 68 && (s.ridge p).fenced && !(lostTrees m j).isEmpty then
        match standInOf s p with
        | some q => copyUnits ecc id p q s
        | none => loseRidge id j 2 s
      else s) s

/-- A model becomes loaded, taking the place of the image it replaces (R223). -/
def modelLoadedEffect (ecc : List EccFind) (id : Nat) (s : State) : State :=
  match s.model? id with
  | none => s
  | some m =>
    let s := { s with models := s.models.map (fun x =>
      if x.id = id then { x with state := .loaded, accepting := true, standing := x.latency }
      else if x.tenant = m.tenant ∧ x.handle = m.handle then { x with replaced := true, accepting := false }
      else x) }
    substituteRidges ecc id (modRefit id (fun x => { x with lastSweep := s.time.epoch }) s)

/-! ## Unload (R224) -/

/-- A loaded cascade head of the tenant names the handle. -/
def headNames (s : State) (t h : Nat) : Bool :=
  s.models.any (fun m => m.tenant == t && m.state == .loaded && m.image.cascade.any (fun st => st.handle == h))

/-- MODEL_UNLOAD's own rules. -/
def unloadCheck (s : State) (pl : List Byte) (t : Nat) : Option Refused :=
  firstRefusal [
    unless_ (!loadRunning s) (atField errBusy 0),
    unless_ (loadedModel s t (leAt pl 0 2)).isSome (bare errNoModel),
    unless_ (!headNames s t (leAt pl 0 2)) (atField errBusy 0)]

/-- MODEL_UNLOAD: the model stops at the Milestone and is then drained and zeroised. -/
def execModelUnload (fn : Fn) (s : State) : Host.Outcome State Fault Refusal :=
  runCommand fn 0x0202 anyOp unloadCheck
    (fun pl t s =>
      match loadedModel s t (leAt pl 0 2) with
      | none => s
      | some m => respondWait fn [] (later (.modelStop m.id) (modModel m.id (fun x => { x with state := .stopping }) s))) s

/-- Searches of a model end and report (R370). -/
def endSearches (id : Nat) (timeLimit : Bool) (s : State) : State :=
  (s.searches.filter (fun x => x.2.model == id)).foldl (fun s x => endSearch x.1 timeLimit s) s

/-- The stop Milestone: the handle is no longer accepted, its reservations end, its queued heals are dropped and its
searches end (R224, R245, R370). Blocks whose heal is under way stay so. -/
def modelStopEffect (id : Nat) (s : State) : State :=
  let running := (s.mem.healReads ++ s.mem.healed).filter (fun b => b.model == id)
  let s := modModel id (fun x => { x with
    accepting := false, standing := false, healing := x.healing.filter (fun o => running.any (fun b => b.off == o)) }) s
  endSearches id false (modMem (fun m => { m with healQ := m.healQ.filter (fun b => b.model != id) }) s)

/-- Drop a model's queued work: feedback, background requests, heals. -/
def dropModelWork (id : Nat) (s : State) : State :=
  let keep := fun (b : BgReq) => match b with
    | .proposal m _ => m != id
    | .decay m _ => m != id
    | _ => true
  let s := modDisp (fun d => { d with bg := d.bg.filter keep, granted := d.granted.filter keep }) s
  let s := modMem (fun m => { m with
    healQ := m.healQ.filter (fun b => b.model != id), healReads := m.healReads.filter (fun b => b.model != id)
    healed := m.healed.filter (fun b => b.model != id) }) s
  { s with feedback := s.feedback.filter (fun f => f.model != id) }

/-- Write 0 over every resource of a model and forget it (R224). -/
def zeroiseModel (id : Nat) (s : State) : State :=
  match s.model? id with
  | none => s
  | some m =>
    let s := dropModelWork id s
    let s := releasePlots ((s.refit? id).elim [] (·.plots)) (releasePlots m.plots s)
    let s := zeroUnits (m.unitsHeld ++ m.otherUnits.map (·.2)) s
    let s := m.waymarks.foldl (fun s i => wmkFirmware i .reset s) s
    let s := ((s.stats.filter (fun p => p.1 / 1024 == id)).map (fun p => statAddr m (p.1 % 1024))).foldl
      (fun s a => writeWhole a (zeros 64) s) s
    let s := modMem (fun x => { x with tableBad := x.tableBad.filter (fun b => b.2.1 != id) }) s
    let clear := fun (b : Buf) => if b.set.elim false (·.model == id) then Buf.empty else b
    { s with
      ridges := s.ridges.map (fun x => { x with active := clear x.active, inactive := clear x.inactive })
      stats := s.stats.filter (fun p => p.1 / 1024 != id)
      refits := s.refits.filter (fun x => x.model != id)
      models := s.models.filter (fun x => x.id != id) }

/-- No record context references an image, and no search of it runs (R224, R370). -/
def drained (s : State) (id : Nat) : Bool :=
  s.searches.all (fun x => x.2.model != id) && s.ctxs.all (fun p => p.2.model != id && (stageModel s p.2).elim true (fun m => m.id != id))

/-- The model of a handle that is being unloaded. -/
def stoppedModel (s : State) (t h : Nat) (st : ModelState) : Option Model :=
  s.models.find? (fun m => m.tenant == t && m.handle == h && !m.replaced && m.state == st && !m.accepting)

/-- MODEL_DRAIN_DONE: no record context references a stopped image, and its zeroisation begins (R224). -/
def execModelDrainDone (tenant : Tid) (handle : Nat) (s : State) : Host.Outcome State Fault Refusal :=
  match stoppedModel s tenant handle .stopping with
  | none => .next s
  | some m =>
    if drained s m.id then .next (modModel m.id (fun x => { x with state := .zeroising }) (dropModelWork m.id s)) else .next s

/-- MODEL_ZEROISE_DONE: every resource of a drained image is zero; the unload's response is posted (R224). -/
def execModelZeroiseDone (tenant : Tid) (handle : Nat) (s : State) : Host.Outcome State Fault Refusal :=
  match stoppedModel s tenant handle .zeroising with
  | none => .next s
  | some m =>
    .next (postWaiting 0x0202 (fun pl t => t == tenant.val && leAt pl 0 2 == handle) 0 [] (zeroiseModel m.id s))

/-- OLD_IMAGE_RETIRE: a replaced image that no record context references, and whose reservation has ended, is unloaded
(R223). -/
def execOldImageRetire (tenant : Tid) (handle : Nat) (s : State) : Host.Outcome State Fault Refusal :=
  match s.models.find? (fun m => m.tenant == tenant.val && m.handle == handle && m.replaced) with
  | none => .next s
  | some m =>
    if m.standing then .next s
    else
      let s := endSearches m.id false s
      if drained s m.id then .next (zeroiseModel m.id s) else .next s

/-! ## Queries (R383) -/

/-- The load that runs for a handle that is not loaded. -/
def loadingHandle (s : State) (t h : Nat) : Bool :=
  s.load.elim false (fun j => pageTenant j.page == t && loadHandle (pagePayload j.page) == h) ||
    s.models.any (fun m => m.tenant == t && m.handle == h && m.state == .loading)

/-- Code of a model's state. -/
def ModelState.code : ModelState → Nat
  | .loading => 1
  | .loaded => 2
  | .stopping => 3
  | .zeroising => 3

/-- MODEL_QUERY's flag byte. -/
def modelFlags (s : State) (m : Model) : Nat :=
  let b := fun (x : Bool) (k : Nat) => if x then 2 ^ k else 0
  b m.fitLost 0 + b m.selfHeal 1 + b m.traced 2 + b m.tableRes 3 + b (!m.deadBlocks.isEmpty) 4 +
    b (m.state == .loaded && loadingHandle s m.tenant m.handle) 5

/-- MODEL_QUERY's response. -/
def queryModel (s : State) (m : Model) : List Byte :=
  leBytes 1 m.state.code ++ leBytes 1 (if m.latency then 1 else 2) ++ leBytes 1 m.residency ++ leBytes 1 (modelFlags s m) ++
    leBytes 2 m.rate ++ leBytes 2 (m.version % 65536) ++ leBytes 4 (handlePlots s m.tenant m.handle) ++ zeros 4 ++
    m.ridgeMap.flatMap (leBytes 1) ++ waymarkBytes s m

/-- MODEL_QUERY of a handle whose first image is still being fetched: the fields its command names. -/
def queryLoading (pl : List Byte) (plots : Nat) : List Byte :=
  let o := loadOptions pl
  leBytes 1 1 ++ leBytes 1 (loadClass pl) ++ leBytes 1 (loadResidency pl) ++
    leBytes 1 ((if bit o 1 then 2 else 0) + (if bit o 2 then 4 else 0) + (if bit o 0 then 8 else 0)) ++
    leBytes 2 (loadRate pl) ++ zeros 2 ++ leBytes 4 plots ++ zeros 4 ++ (loadRidgeMap pl).flatMap (leBytes 1) ++
    (List.range 64).flatMap (fun _ => leBytes 2 0xFFFF)

/-- The model a query names: the one in force, else the one loading. -/
def queryTarget (s : State) (t h : Nat) : Option Model := s.handle? t h

/-- MODEL_QUERY's own rule. -/
def queryCheck (s : State) (pl : List Byte) (t : Nat) : Option Refused :=
  unless_ ((queryTarget s t (leAt pl 0 2)).isSome || loadingHandle s t (leAt pl 0 2)) (bare errNoModel)

/-- MODEL_QUERY. -/
def execModelQuery (fn : Fn) (s : State) : Host.Outcome State Fault Refusal :=
  runCommand fn 0x0203 anyOp queryCheck
    (fun pl t s =>
      match queryTarget s t (leAt pl 0 2), s.load with
      | some m, _ => respond fn 0 (queryModel s m) s
      | none, some j => respond fn 0 (queryLoading (pagePayload j.page) j.plots.length) s
      | none, none => s) s

/-- The four-tick figure of a record at the last completed fold: untouched ticks count 0. -/
def lastTick (s : State) (x : StatRec) : Nat := if x.foldTick + 1 = s.time.tick then x.last.headD 0 else 0

/-- The saturation counter as it is read: 0 when it was last written in an earlier epoch (R104, R105). -/
def satNow (s : State) (x : StatRec) : Nat := if x.satEpoch = s.time.epoch then x.sat else 0

/-- One statistics record of MODEL_STATS (Table 17.7). -/
def statBytes (s : State) (x : StatRec) : List Byte :=
  leBytes 4 (lastTick s x) ++ leBytes 4 (fourTick s x) ++ leBytes 8 x.clipped ++ leBytes 8 x.escaped ++ leBytes 8 x.nan ++
    leBytes 4 (satNow s x) ++ leBytes 4 x.t ++ leBytes 1 ((if x.armed then 1 else 0) + (if x.resetBit then 2 else 0)) ++ zeros 23

/-- A handle loaded for a tenant and accepted by its commands. -/
def commandModel (s : State) (t h : Nat) : Option Model :=
  (s.handle? t h).bind (fun m => if m.state == .loading then none else some m)

/-- A slot that the model bins. -/
def binsSlot (s : State) (m : Model) (slot : Nat) : Bool := (kvGet s.stats (statKey m.id slot)).isSome

/-- MODEL_STATS's own rules. -/
def statsCheck (s : State) (pl : List Byte) (t : Nat) : Option Refused :=
  match commandModel s t (leAt pl 0 2) with
  | none => some (bare errNoModel)
  | some m => firstRefusal [
      unless_ (binsSlot s m (leAt pl 2 2)) (atField errBadConfig 2),
      unless_ (1 ≤ leAt pl 4 2 && leAt pl 4 2 ≤ 60 &&
        (List.range (leAt pl 4 2)).all (fun i => binsSlot s m (leAt pl 2 2 + i))) (atField errBadConfig 4)]

/-- MODEL_STATS. -/
def execModelStats (fn : Fn) (s : State) : Host.Outcome State Fault Refusal :=
  runCommand fn 0x0204 anyOp statsCheck
    (fun pl t s => match commandModel s t (leAt pl 0 2) with
      | none => s
      | some m => respond fn 0 ((List.range (leAt pl 4 2)).flatMap (fun i =>
          (kvGet s.stats (statKey m.id (leAt pl 2 2 + i))).elim (zeros 64) (statBytes s))) s) s

/-- MODEL_CALIBRATE's own rules. -/
def calibrateCheck (s : State) (pl : List Byte) (t : Nat) : Option Refused :=
  match commandModel s t (leAt pl 0 2) with
  | none => some (bare errNoModel)
  | some m => unless_ (binsSlot s m (leAt pl 2 2)) (atField errBadConfig 2)

/-- MODEL_CALIBRATE: applied by the fold of the next Milestone (R105). -/
def execModelCalibrate (fn : Fn) (s : State) : Host.Outcome State Fault Refusal :=
  runCommand fn 0x0205 anyOp calibrateCheck
    (fun pl t s => match commandModel s t (leAt pl 0 2) with
      | none => s
      | some m => respond fn 0 [] (soon (.calibrate m.id (leAt pl 2 2) (leAt pl 4 4) (byteAt pl 8)) s)) s

/-! ## Signpost commands (R111, R112, R129 to R132) -/

/-- A loaded model references a bank, by a step or an entry record. -/
def bankReferenced (s : State) (b : Nat) : Bool :=
  s.models.any (fun m => m.image.program.any (fun st => (st.op == 1 || st.op == 2) && st.target == b))

/-- A bank configuration keeps Table 6.1, by the payload fields in order. -/
def bankConfigCheck (pl : List Byte) : Option Refused :=
  let ty := byteAt pl 2
  let w := byteAt pl 3
  let d := byteAt pl 5
  firstRefusal [
    unless_ (ty ≤ 1) (atField errBadConfig 2),
    unless_ (w == 1 || w == 2 || (w == 4 && ty == 0)) (atField errBadConfig 3),
    unless_ (byteAt pl 4 ≤ 1) (atField errBadConfig 4),
    unless_ (if ty = 0 then d == 0 else d ≤ 2 && (if d = 0 then w == 2 else w == 1)) (atField errBadConfig 5)]

/-- The own rules of SIGNPOST_BANK op 1. -/
def bankAssignCheck (s : State) (pl : List Byte) (_ : Nat) : Option Refused :=
  firstRefusal [
    unless_ (byteAt pl 0 < 16) (atField errBadConfig 0),
    unless_ ((s.bank (byteAt pl 0)).owner.isNone && !s.due.any (fun d => match d.2 with
      | .bankAssign b _ => b == byteAt pl 0
      | _ => false)) (atField errBusy 0)]

/-- SIGNPOST_BANK op 1: assign a bank to the header tenant at the Milestone. -/
def execSignpostBankAssign (fn : Fn) (s : State) : Host.Outcome State Fault Refusal :=
  runCommand fn 0x0206 (opIs 1 1) bankAssignCheck
    (fun pl t s => respondMilestone fn [] (later (.bankAssign (byteAt pl 0) t) s)) s

/-- The own rules of SIGNPOST_BANK op 2. -/
def bankReleaseCheck (s : State) (pl : List Byte) (t : Nat) : Option Refused :=
  firstRefusal [
    unless_ (byteAt pl 0 < 16) (atField errBadConfig 0),
    unless_ ((s.bank (byteAt pl 0)).owner == some t) (atField errNotOwner 0),
    unless_ (!bankReferenced s (byteAt pl 0)) (atField errBusy 0)]

/-- SIGNPOST_BANK op 2: release, which clears the bank and its shadow; posted once it is done (R112). -/
def execSignpostBankRelease (fn : Fn) (s : State) : Host.Outcome State Fault Refusal :=
  runCommand fn 0x0206 (opIs 1 2) bankReleaseCheck
    (fun pl _ s => respond fn 0 [] (releaseBank (byteAt pl 0) s)) s

/-- Configure a bank: no entry of it counts as written (R112), no shadow word of it stands poisoned, and the compare engine
begins with its first entry (R133, R135). -/
def configureBank (b : Nat) (pl : List Byte) (s : State) : State :=
  modBank b (fun x => { x with
    ptr := 0, shadowBad := []
    range := byteAt pl 2 == 1, width := byteAt pl 3, position := byteAt pl 4 == 1, domain := byteAt pl 5
    entries := x.entries.map (fun e => (e.1, { e.2 with written := false })) }) s

/-- The own rules of SIGNPOST_BANK op 3. R112 names no status for a bank in use: ERR_BUSY at the bank field, after the checks of
Table 6.1 (log 134). -/
def bankConfigureCheck (s : State) (pl : List Byte) (t : Nat) : Option Refused :=
  firstRefusal [
    unless_ (byteAt pl 0 < 16) (atField errBadConfig 0),
    unless_ ((s.bank (byteAt pl 0)).owner == some t) (atField errNotOwner 0),
    bankConfigCheck pl,
    unless_ (!bankReferenced s (byteAt pl 0) && !(s.bank (byteAt pl 0)).entries.any (fun e => e.2.valid)) (atField errBusy 0)]

/-- SIGNPOST_BANK op 3: configure a bank with no valid entry that no loaded model references (R112). -/
def execSignpostBankConfigure (fn : Fn) (s : State) : Host.Outcome State Fault Refusal :=
  runCommand fn 0x0206 (opIs 1 3) bankConfigureCheck
    (fun pl _ s => respond fn 0 [] (configureBank (byteAt pl 0) pl s)) s

/-- One operation of an entry command at payload offset `o`; the containers join to one number of 80 bits a unit. -/
def entryOpAt (pl : List Byte) (o : Nat) : EntryOp :=
  ⟨byteAt pl o, leAt pl (o + 2) 2, leAt pl (o + 4) 2, leAt pl (o + 8) 4,
    (List.range 4).foldl (fun a i => a + leAt pl (o + 16 + 16 * i) 10 * 2 ^ (80 * i)) 0⟩

/-- A container's bytes 10 to 15 are 0 in a WRITE (R113). -/
def containersOk (s : State) (pl : List Byte) (o : Nat) : Bool :=
  byteAt pl o != 2 || (List.range (s.bank (byteAt pl 0)).width).all (fun i => allZero (slice pl (o + 26 + 16 * i) 6))

/-- SIGNPOST_ENTRIES' own rules. -/
def entriesCheck (s : State) (pl : List Byte) (t : Nat) : Option Refused :=
  firstRefusal [
    unless_ (byteAt pl 0 < 16) (atField errBadConfig 0),
    unless_ ((s.bank (byteAt pl 0)).owner == some t) (atField errNotOwner 0),
    unless_ (1 ≤ leAt pl 2 2 && leAt pl 2 2 ≤ 50) (atField errBadConfig 2)]

/-- SIGNPOST_ENTRIES: the operations in list order until the first refused one (R129 to R131). Nonzero container bytes 10 to 15
of a WRITE answer ERR_BAD_ENTRY at that operation's turn (log 135). -/
def execSignpostEntries (fn : Fn) (s : State) : Host.Outcome State Fault Refusal :=
  runCommand fn 0x0207 anyOp entriesCheck
    (fun pl _ s =>
      let ops := (List.range (leAt pl 2 2)).map (fun i => entryOpAt pl (16 + 80 * i))
      let bad := (List.range (leAt pl 2 2)).findIdx? (fun i => !containersOk s pl (16 + 80 * i))
      let r := runEntryOps (byteAt pl 0) 0 (ops.take (bad.getD ops.length)) s
      match r.1, bad with
      | some (i, why), _ => respond fn (if why = 1 then errBadEntry else errEntryState) (leBytes 2 i) r.2
      | none, some i => respond fn errBadEntry (leBytes 2 i) r.2
      | none, none => respond fn 0 (leBytes 2 ops.length ++ zeros 2) r.2) s

/-- The key of a diagnostic search (R132). -/
def diagKey (b : Bank) (pl : List Byte) : Int :=
  if b.range then (if b.domain = 0 then toSigned 64 (leAt pl 8 8) else (leAt pl 8 4 : Nat))
  else ((leAt pl 8 24 % 2 ^ keyWidth b.width : Nat) : Int)

/-- SIGNPOST_SEARCH's own rules. -/
def searchCheck (s : State) (pl : List Byte) (t : Nat) : Option Refused :=
  let b := s.bank (byteAt pl 0)
  firstRefusal [
    unless_ (byteAt pl 0 < 16) (atField errBadConfig 0),
    unless_ (b.owner == some t) (atField errNotOwner 0),
    unless_ (!(b.range && b.domain == 1 && f32Special (leAt pl 8 4))) (atField errBadConfig 8)]

/-- SIGNPOST_SEARCH: one key against one bank as an ordinary search (R132), of a fenced bank too: R136 stops program steps alone
(log 136). -/
def execSignpostSearch (fn : Fn) (s : State) : Host.Outcome State Fault Refusal :=
  runCommand fn 0x0B04 anyOp searchCheck
    (fun pl _ s =>
      let ms := searchBank (s.bank (byteAt pl 0)) (diagKey (s.bank (byteAt pl 0)) pl)
      let page := (ms.drop (leAt pl 2 2)).take 128
      respond fn 0 (leBytes 2 (min ms.length 4096) ++ leBytes 2 page.length ++ zeros 4 ++
        page.flatMap (fun m => leBytes 2 m.index ++ zeros 2 ++ leBytes 4 m.result)) (countSearch (byteAt pl 0) ms.length s)) s

end Sys2Proof.Machine
end

