-- ==== Sys2Proof/Machine/Streams.lean ====
section
/-! DEFINITION. Streams and descriptors in common: elements, translations, page faults, tasks, status words and completion (chapter 14). -/

namespace Sys2Proof.Machine

/-! ## Streams and their functions (R296) -/

/-- Function of a global stream. -/
def fnOf (g : Nat) : Nat := g / 8
/-- Tenant of a global stream, 0xFF for physical function 0. -/
def tenantOf (g : Nat) : Nat := if g < 8 then 0xFF else g / 8 - 1
/-- Global streams of a function. -/
def streamsOf (f : Nat) : List Nat := (List.range 8).map (8 * f + ·)

/-! ## Descriptors (R299, R301) -/

/-- Elements of a descriptor; a NOP has none. -/
def Desc.total (d : Desc) : Nat := d.n1 * d.n2
/-- Elements after which it ends. -/
def Desc.limit (d : Desc) : Nat := d.cut.getD d.total
/-- Its last element is behind it: only its completion is left. -/
def Desc.over (d : Desc) : Bool := (d.started || d.cut.isSome) && d.limit ≤ d.elements
/-- Transfer units of an element (R307). -/
def Desc.units (d : Desc) : Nat := max 1 (ceilDiv d.l0 256)
/-- Transfer slots it holds while outstanding (R306). -/
def Desc.slots (d : Desc) : Nat := if d.l0 < 256 then 2 else 1
def Desc.isEnd (d : Desc) : Bool := bit d.flags 0
def Desc.reasonSlots (d : Desc) : Bool := bit d.flags 1
/-- Size of an answer slot. -/
def Desc.answerSlot (d : Desc) : Nat := if d.reasonSlots then 1152 else 576
/-- Host address of element `k`, modulo 2^64. -/
def Desc.addr (d : Desc) (k : Nat) : Nat :=
  ofSigned 64 ((d.host : Int) + (k / d.n1 : Nat) * d.s2 + (k % d.n1 : Nat) * d.s1)
/-- Answer slot of element `k`. -/
def Desc.answerAddr (d : Desc) (k : Nat) : Nat := (d.second + k * d.answerSlot) % 2 ^ 64
/-- Started and not done. -/
def Desc.inFlight (d : Desc) : Bool := d.started && !d.done
/-- The host side of its elements is read: RECORDS and COPY_IN. -/
def Desc.inbound (d : Desc) : Bool := d.opcode == 1 || d.opcode == 2
/-- Ordering attribute of a copy's Massif side (Table 13.5): 0 PLAIN, 1 ACQUIRE, 2 RELEASE, 3 FENCED. -/
def Desc.order (d : Desc) : Nat := bits d.flags 3 2
/-- A copy out of Massif: its accesses are loads. -/
def Desc.isLoad (d : Desc) : Bool := d.opcode == 3
/-- A copy. -/
def Desc.isCopy (d : Desc) : Bool := d.opcode == 2 || d.opcode == 3

def State.desc? (s : State) (g n : Nat) : Option Desc := (s.stream g).descs.find? (·.number == n)

/-- Change a descriptor. -/
def modDesc (g n : Nat) (f : Desc → Desc) (s : State) : State :=
  modStream g (fun x => { x with descs := x.descs.map (fun d => if d.number = n then f d else d) }) s

/-- Ring index of a descriptor. -/
def ringIndex (x : Stream) (n : Nat) : Nat := n % 2 ^ x.sizeExp

/-- Host address of a descriptor's status bytes 48 to 63. -/
def statusAddr (s : State) (g n : Nat) : Nat := (s.stream g).ringBase + 64 * ringIndex (s.stream g) n + 48

/-- Bytes 48 to 63 of a descriptor. -/
def statusBytes (d : Desc) (done halted : Bool) : List Byte :=
  let b := fun (x : Bool) (v : Nat) => if x then v else 0
  leBytes 4 (min d.elements d.limit) ++ leBytes 4 (d.firstFlagged.getD 0xFFFFFFFF) ++ leBytes 1 d.status ++
    leBytes 1 (b done 1 + b halted 2 + b d.answersLost 4) ++ zeros 6

/-- Transfer slots a function's descriptors hold (R306). -/
def transferUsed (s : State) (f : Nat) : Nat :=
  ((streamsOf f).map (fun g => (((s.stream g).descs.filter Desc.inFlight).map Desc.slots).sum)).sum

/-- Transfer slots of a function's share. -/
def transferShare (s : State) (f : Nat) : Nat := if f = 0 then 16 else (s.tenant (f - 1)).quota.transferCap

/-! ## Writes and reads of host memory -/

/-- The requests of an access of `n` bytes at `a`, by offset and length: none is longer than `m` bytes, and none crosses a
4 KiB boundary of host address (R301). The first argument bounds their number. -/
def requests (a m : Nat) : Nat → Nat → Nat → List (Nat × Nat)
  | 0, _, _ => []
  | fuel + 1, off, n =>
    if n = 0 then []
    else
      let k := min (min n (max 1 m)) (4096 - (a + off) % 4096)
      (off, k) :: requests a m fuel (off + k) (n - k)

/-- The requests of an access, in ascending address. -/
def requestsOf (a n m : Nat) : List (Nat × Nat) := requests a m (n / max 1 m + n / 4096 + 2) 0 n

/-- An IOTLB entry covers a page of a function. -/
def Iotlb.covers (e : Iotlb) (f page : Nat) : Bool := e.fn == f && e.page ≤ page && page < e.page + e.size

/-- The address that goes out for an IOVA: translated while ATS is enabled (R309). An entry that an Invalidate Request has
removed grants nothing any more, and still serves the requests issued under it (R310). -/
def sentAddr (s : State) (f a : Nat) : Nat :=
  let a := a % 2 ^ 64
  if !s.dma.ats.contains f then a
  else ((s.dma.iotlb.find? (fun e => e.covers f (a / 4096) && (e.read || e.write))).orElse
    (fun _ => s.dma.iotlb.find? (fun e => e.covers f (a / 4096)))).elim a (fun e => (e.target + (a / 4096 - e.page)) * 4096 + a % 4096)

/-- Write to a function's host memory, counted in DMA_BYTES_OUT; `bad` tells which requests carry poison. -/
def hostWriteBy (f a : Nat) (bs : List Byte) (bad : Nat → Nat → Bool) (s : State) : State :=
  (requestsOf a bs.length ((kvGet s.dma.maxPayload f).getD 128)).foldl
    (fun s p => emit (.hostWrite f (sentAddr s f (a + p.1)) (slice bs p.1 p.2) (bad p.1 p.2)) s) (count (cDma 1) bs.length s)

/-- A write whose requests all carry poison, or none. -/
def hostWrite (f a : Nat) (bs : List Byte) (poisoned : Bool) (s : State) : State := hostWriteBy f a bs (fun _ _ => poisoned) s

/-- Read a function's host memory, counted in DMA_BYTES_IN. -/
def hostRead (f a n : Nat) (s : State) : State :=
  (requestsOf a n ((kvGet s.dma.maxRead f).getD 512)).foldl
    (fun s p => emit (.hostRead f (sentAddr s f (a + p.1)) p.2) s) (count (cDma 0) n s)

/-! ## Translations (R309) -/

/-- Host pages of 4 KiB that `n` bytes at `a` touch. -/
def pagesOf (a n : Nat) : List Nat :=
  if n = 0 then [] else (List.range ((a + n - 1) / 4096 + 1 - a / 4096)).map (fun i => (a / 4096 + i) % 2 ^ 52)

/-- An IOTLB entry covers a page of a function with a right. -/
def Iotlb.grants (e : Iotlb) (f page : Nat) (write : Bool) : Bool := e.covers f page && (if write then e.write else e.read)

/-- The access may be sent: ATS is off, or the page is translated with the right. -/
def granted (s : State) (f page : Nat) (write : Bool) : Bool :=
  !s.dma.ats.contains f || s.dma.iotlb.any (fun e => e.grants f page write)

/-- Send a Translation Request, unless it is outstanding or 64 are. -/
def askTranslation (f page : Nat) (s : State) : State :=
  if s.dma.xlate.contains (f, page) ∨ 64 ≤ s.dma.xlate.length then s
  else emit (.translationRequest f page) (modDma (fun d => { d with xlate := d.xlate ++ [(f, page)] }) s)

/-- Look a page up: a hit is counted and made the most recent; a miss is counted and asks for the translation. -/
def lookupPage (f : Nat) (p : Nat × Bool) (s : State) : State :=
  if !s.dma.ats.contains f then s
  else if granted s f p.1 p.2 then
    count (cDma 2) 1 (modDma (fun d => { d with
      iotlb := d.iotlb.map (fun e => if e.grants f p.1 p.2 then { e with used := d.tlbClock } else e)
      tlbClock := d.tlbClock + 1 }) s)
  else askTranslation f p.1 (count (cDma 3) 1 s)

/-- Look up every page of an access. The result tells whether all are granted. -/
def lookup (f : Nat) (ps : List (Nat × Bool)) (s : State) : Bool × State :=
  (ps.all (fun p => granted s f p.1 p.2), ps.foldl (fun s p => lookupPage f p s) s)

/-- Insert a translation, replacing the least recently used of a full set of 8 (log 34). -/
def insertTranslation (f page target size : Nat) (read write : Bool) (s : State) : State :=
  modDma (fun d =>
    let same := fun (e : Iotlb) => e.fn == f && e.page == page
    let kept := d.iotlb.filter (fun e => !same e)
    let set := kept.filter (fun e => e.page % 256 == page % 256)
    let victim := (set.foldl (fun v e => match v with
      | none => some e
      | some x => if e.used < x.used then some e else some x) (none : Option Iotlb))
    let kept := if set.length < 8 then kept else match victim with
      | some v => kept.filter (fun e => e != v)
      | none => kept
    { d with iotlb := kept ++ [⟨f, page, target, size, read, write, d.tlbClock⟩], tlbClock := d.tlbClock + 1 }) s

/-- Pages of element `k` of a descriptor, with the right each needs: the host side, and a record's answer slot. -/
def elementPages (d : Desc) (k : Nat) : List (Nat × Bool) :=
  (pagesOf (d.addr k) d.l0).map (fun p => (p, !d.inbound)) ++
    (if d.opcode = 1 then (pagesOf (d.answerAddr k) d.answerSlot).map (fun p => (p, true)) else [])

/-- Page of a descriptor's status word. -/
def statusPage (s : State) (g n : Nat) : Nat := statusAddr s g n / 4096

/-- The first answer of a stream, its descriptor and its host address. -/
def answerPlace (s : State) (g : Nat) : Option (RingAnswer × Desc × Nat) :=
  match (s.stream g).answers with
  | [] => none
  | a :: _ => (s.desc? g a.number).map (fun d => (a, d, d.answerAddr a.element + (if a.reason then 576 else 0)))

/-- Pages the first answer of a stream is written to. -/
def answerPages (s : State) (g : Nat) : List (Nat × Bool) :=
  (answerPlace s g).elim [] (fun x => (pagesOf x.2.2 x.1.bytes.length).map (fun p => (p, true)))

/-- An element or an answer of a function in progress touches a page of a range. -/
def rangeBusy (s : State) (f page size : Nat) : Bool :=
  let hit := fun (p : Nat × Bool) => decide (page ≤ p.1) && decide (p.1 < page + size)
  (streamsOf f).any (fun g =>
    (s.stream g).descs.any (fun d => (List.range (d.issued - d.elements)).any (fun i => (elementPages d (d.elements + i)).any hit)) ||
      ((s.stream g).answers.head?.elim false (·.issued) && (answerPages s g).any hit))

/-- An IOTLB entry lies in a range of pages of a function. -/
def Iotlb.meets (e : Iotlb) (f page size : Nat) : Bool := e.fn == f && e.page < page + size && page < e.page + e.size

/-- Send the Invalidate Completions whose requests have all completed, and forget the entries they removed (R310). -/
def settleInvals (s : State) : State :=
  let ready := s.dma.invals.filter (fun (v : Nat × Nat × Nat) => !rangeBusy s v.1 v.2.1 v.2.2)
  let left := s.dma.invals.filter (fun (v : Nat × Nat × Nat) => rangeBusy s v.1 v.2.1 v.2.2)
  ready.foldl (fun s v => emit (.invalidateDone v.1) s)
    (modDma (fun d => { d with
      invals := left
      iotlb := d.iotlb.filter (fun e => e.read || e.write || left.any (fun v => e.meets v.1 v.2.1 v.2.2)) }) s)

/-! ## Status words while a descriptor runs (R311, R441) -/

/-- Write a HALTED status word, or leave it due until its page is translated. -/
def writeHalted (g n : Nat) (s : State) : State :=
  match s.desc? g n with
  | none => s
  | some d =>
    let f := fnOf g
    let r := lookup f [(statusPage s g n, true)] s
    if r.1 then hostWrite f (statusAddr s g n) (statusBytes { d with elements := d.haltedAt, cut := some d.haltedAt, firstFlagged := none, status := 0 } false true) false
      (modDesc g n (fun d => { d with statusDue := false }) r.2)
    else modDesc g n (fun d => { d with statusDue := true }) r.2

/-! ## Tasks (R314) -/

/-- The numbers of the descriptors of `d`'s task among those fetched: from the first after the last END before it to the
next END. The Bool tells whether the END is among them. -/
def taskOf (ds : List Desc) (d : Desc) : List Nat × Bool :=
  let same := ds.filter (fun x => x.tag == d.tag)
  let before := (same.takeWhile (fun x => x.number != d.number)).reverse.takeWhile (fun x => !x.isEnd)
  let rest := same.dropWhile (fun x => x.number != d.number)
  let upto := rest.takeWhile (fun x => !x.isEnd)
  let last := (rest.dropWhile (fun x => !x.isEnd)).head?
  (before.map (·.number) ++ upto.map (·.number) ++ last.toList.map (·.number), last.isSome)

/-- Drop the page faults of a descriptor's elements. -/
def dropFaults (g n : Nat) (s : State) : State :=
  modDma (fun d => { d with pris := d.pris.filter (fun w => w.who != .element g n) }) s

/-- A descriptor ends at its next element boundary with a status: one not started moves nothing. -/
def stopDesc (g n status : Nat) (s : State) : State :=
  dropFaults g n (modDesc g n (fun d => { d with
    cut := some (if d.started then min d.limit d.issued else 0), status := status, halted := false, statusDue := false }) s)

/-- A failed descriptor ends its task: every other one that is not DONE takes TASK_ABORTED, and DMA_TASK_ABORT is raised. -/
def endTask (g n status : Nat) (s : State) : State :=
  match s.desc? g n with
  | none => s
  | some d =>
    let ds := (s.stream g).descs
    let t := taskOf ds d
    let others := if d.tag = 0 then [] else t.1.filter (fun k => k != n && (ds.find? (·.number == k)).elim false (fun x => !x.done))
    let s := others.foldl (fun s k => stopDesc g k 3 s) s
    let s := if d.tag ≠ 0 ∧ !t.2 then modStream g (fun x => { x with failed := setAdd x.failed d.tag }) s else s
    raise 0x0802 (tenantOf g) (leBytes 2 g ++ leBytes 2 d.tag ++ leBytes 2 (ringIndex (s.stream g) n) ++ leBytes 1 status) s

/-! ## Elements -/

/-- An element is behind the descriptor: counted, its staging given back; `flagged` marks a device-side error (R317). -/
def elementDone (g n : Nat) (flagged : Bool) (s : State) : State :=
  match s.desc? g n with
  | none => s
  | some d =>
    let s := count (cStr g 3) 1 (count (cStr g 4) d.units s)
    let s := stageAnswers g (modStream g (fun x => { x with fill := x.fill - 256 * d.units }) s)
    settleInvals (modDesc g n (fun d => { d with
      elements := d.elements + 1
      firstFlagged := if flagged && d.firstFlagged.isNone then some d.elements else d.firstFlagged
      status := if flagged && d.status == 0 then 6 else d.status }) s)

/-- A device-side error of the element in progress (R317): the first one is reported. -/
def flagElement (g n : Nat) (s : State) : State :=
  modDesc g n (fun d => { d with
    firstFlagged := if d.firstFlagged.isNone then some d.elements else d.firstFlagged
    status := if d.status = 0 then 6 else d.status }) s

/-- An access of the element in progress was refused by R231: the descriptor ends there, and its task. -/
def ownerStop (g n : Nat) (s : State) : State :=
  match s.desc? g n with
  | none => s
  | some d =>
    let s := modStream g (fun x => { x with fill := x.fill - 256 * d.units * (d.issued - d.elements) }) s
    settleInvals (endTask g n 7 (modDesc g n (fun d => { d with
      cut := some d.elements, issued := d.elements, firstFlagged := some d.elements, status := 7 }) s))

/-! ## The memory a copy names (R305, R341) -/

/-- What a copy's allocation id names. -/
inductive CopyTarget where
  | massif (plots : List Nat)
  | window (home window : Nat) (plots : Option (List Nat))
deriving DecidableEq, Repr

/-- The target of a copy: a DATA allocation, a Commons window homed here, or one of another chip (log 33). -/
def copyTarget (s : State) (t id : Nat) : Option CopyTarget :=
  let find := fun (l : List DataAlloc) => l.find? (fun a => a.tenant == t && a.id == id)
  match find s.dma.allocs, find s.zth.windows with
  | some a, _ => some (.massif a.plots)
  | none, some w => some (.window s.chipId w.id (some w.plots))
  | none, none => (Config.commonsTarget t id).map (fun x => .window x.1 x.2 none)

/-- Bytes an allocation holds; the size of another chip's window is not known here: its address field bounds it. -/
def CopyTarget.size : CopyTarget → Nat
  | .massif ps => plotSize * ps.length
  | .window _ _ (some ps) => plotSize * ps.length
  | .window _ _ none => 2 ^ 40

/-- Allocation id and byte offset of a copy's second address. -/
def Desc.alloc (d : Desc) : Nat := d.second / 2 ^ 48
def Desc.offset (d : Desc) : Nat := d.second % 2 ^ 48

/-- Words of Massif that elements `k` on of a copy to an allocation would touch are poisoned (R313); those of a Commons window
of this chip too, in its plots (log 128). -/
def poisonRest (d : Desc) (plots : List Nat) (k : Nat) (s : State) : State :=
  let a := d.offset + k * d.l0
  let b := d.offset + d.total * d.l0
  (List.range (ceilDiv b 8 - a / 8)).foldl (fun s i => modMem (fun m => poison m (plotAddr plots (8 * (a / 8 + i)))) s) s

/-! ## A failed PRI (R312, R313) -/

/-- DMA_PRI_FAIL. -/
def raisePriFail (g n k iova : Nat) (s : State) : State :=
  raise 0x0801 (tenantOf g) (leBytes 2 g ++ leBytes 2 (ringIndex (s.stream g) n) ++ leBytes 4 k ++ leBytes 8 iova) (count (cDma 5) 1 s)

/-- The error answer of an element whose page failed under mark. -/
def faultAnswer (g n k : Nat) (s : State) : State :=
  ringAnswer g n k false (errorMsg (tenantOf g) 0 0 0 6 0x50 0xFFFF) none s

/-- The fault mode acts after a failed PRI at element `k` (Table 14.4). -/
def faultMode (g n k : Nat) (s : State) : State :=
  match s.desc? g n with
  | none => s
  | some d =>
    let x := s.stream g
    let s := modStream g (fun x => { x with fill := x.fill - 256 * d.units * (d.issued - k) }) s
    let s := settleInvals (dropFaults g n (modDesc g n (fun d => { d with
      cut := some k, issued := min d.issued k, firstFlagged := some k, status := if x.abort then 2 else 1, halted := false
      statusDue := false }) s))
    if x.abort then endTask g n 2 s
    else if d.opcode = 1 then (List.range (d.total - k)).foldl (fun s i => faultAnswer g n (k + i) s) s
    else if d.opcode = 2 then
      match copyTarget s (tenantOf g) d.alloc with
      | some (.massif ps) => poisonRest d ps k s
      | some (.window _ _ (some ps)) => poisonRest d ps k s
      | _ => s
    else s

/-- The PRI of the element a descriptor halted at fails. -/
def failElement (g n : Nat) (s : State) : State :=
  match s.desc? g n with
  | none => s
  | some d =>
    let bad := ((elementPages d d.issued).find? (fun p => !granted s (fnOf g) p.1 p.2)).elim 0 (·.1)
    let iova := if bad = d.addr d.issued / 4096 then d.addr d.issued else bad * 4096
    faultMode g n d.issued (raisePriFail g n d.issued iova s)

/-- An answer whose own slot fails its PRI is dropped and counted lost, and FIRST_FLAGGED names its element unless an earlier
one stands there; under abort the descriptor ends ABORTED with that element in ELEMENTS, and its task (R313). -/
def failAnswer (g : Nat) (s : State) : State :=
  match (s.stream g).answers with
  | [] => s
  | a :: rest =>
    match s.desc? g a.number with
    | none => s
    | some d =>
      let slot := d.answerAddr a.element + (if a.reason then 576 else 0)
      let s := raisePriFail g a.number a.element slot s
      let s := stageAnswers g (freeContext? a.ctx (modStream g (fun x => { x with
        answers := rest, fill := x.fill - (if a.staged then a.size else 0) }) (count (cStr g 5) 1 s)))
      let k := d.firstFlagged.elim a.element (min a.element)
      let s := modDesc g a.number (fun d => { d with answersLost := true, firstFlagged := some k, halted := false, statusDue := false }) s
      if (s.stream g).abort && d.cut.isNone then
        let s := modStream g (fun x => { x with fill := x.fill - 256 * d.units * (d.issued - d.elements) }) s
        settleInvals (endTask g a.number 2 (dropFaults g a.number (modDesc g a.number (fun d => { d with
          cut := some a.element, issued := d.elements, status := 2 }) s)))
      else s

/-! ## Completion (R316) -/

/-- No answer of a descriptor's elements is still to come. -/
def answersDone (s : State) (g n : Nat) : Bool :=
  let mine := fun (src : CtxSrc) => match src with | .ring h k _ => h == g && k == n | _ => false
  s.ctxs.all (fun p => !mine p.2.src) && s.searches.all (fun p => !mine p.2.src) &&
    (s.stream g).answers.all (fun a => a.number != n)

/-- Every write of a descriptor has been performed. -/
def writesDone (s : State) (g n : Nat) : Bool :=
  answersDone s g n && s.zth.reqs.all (fun r => !(r.stream == g && r.number == n))

/-- HEAD passes the completed descriptors in order from the oldest (R298). -/
def advanceHead (g : Nat) (s : State) : State :=
  modStream g (fun x =>
    let k := (x.descs.takeWhile (·.done)).length
    { x with descs := x.descs.drop k, head := (x.head + k) % 2 ^ 32 }) s

/-- A stopping stream with nothing in flight is STOPPED, and its stop command is answered (R318, R389). -/
def settleStop (g : Nat) (s : State) : State :=
  let x := s.stream g
  if x.stopDue && x.descs.isEmpty then
    postWaiting 0x0602 (fun pl _ => byteAt pl 2 == 2 && 8 * byteAt pl 0 + byteAt pl 1 == g) 0 []
      (modStream g (fun x => { x with mode := .stopped, stopDue := false, fill := (x.answers.map (fun a => if a.staged then a.size else 0)).sum }) s)
  else s

/-- The error bit of a completion's SIGNAL. -/
def Desc.signalError (d : Desc) : Bool := !(d.status == 0 || (d.status == 1 && (d.opcode == 1 || d.opcode == 2)))

/-- The descriptor is DONE: counted, its Waymark signalled as source 1, and HEAD advanced. `failed` says that its status
word could not be written (R441). -/
def finishDesc (g n : Nat) (failed : Bool) (s : State) : State :=
  match s.desc? g n with
  | none => s
  | some d =>
    let s := modDesc g n (fun d => { d with done := true }) (count (cStr g 2) 1 s)
    let s := match d.signalWmk with
      | some i =>
        wmkPost 1 i (.signal (if bit d.flags 4 then d.elements else 1) (failed || d.signalError)) s
      | none => s
    settleStop g (advanceHead g s)

/-- The PRI of a descriptor's status word fails (R441). -/
def failStatus (g n : Nat) (s : State) : State :=
  let s := raisePriFail g n 0xFFFFFFFF (statusAddr s g n) s
  match s.desc? g n with
  | none => s
  | some d => if d.over then finishDesc g n true s else modDesc g n (fun d => { d with statusDue := false }) s

/-! ## Stops (R318, R374, R387) -/

/-- The stop of a stream takes effect. -/
def streamStopEffect (g : Nat) (s : State) : State :=
  let ns := ((s.stream g).descs.filter (fun d => d.inFlight && !(d.cut.isSome && d.status != 0))).map (·.number)
  let s := ns.foldl (fun s n => stopDesc g n 8 s) s
  settleStop g (modStream g (fun x => { x with descs := x.descs.filter (fun d => d.started || d.over), stopDue := true }) s)

/-- A stream of a released or reset function stops unreported: no status word and no answer is written. Its descriptors in
flight complete all the same: counted, signalled with e = 1, and passed by HEAD, which is left at the oldest not started
(R318). -/
def streamCut (g : Nat) (s : State) : State :=
  let ctxs := (s.stream g).answers.filterMap (·.ctx)
  let s := ctxs.foldl (fun s c => freeContext c s) s
  let flying := ((s.stream g).descs.filter (fun d => (d.started || d.over) && !d.done)).map (·.number)
  let s := flying.foldl (fun s n => finishDesc g n true s) (flying.foldl (fun s n => modDesc g n (fun d => { d with status := 8 }) s) s)
  let s := { s with
    dma := { s.dma with pris := s.dma.pris.filter (fun w => match w.who with
      | .element h _ => h != g
      | .answer h => h != g
      | .status h _ => h != g
      | .event _ => true
      | .fetch => true) }
    zth := { s.zth with reqs := s.zth.reqs.filter (fun r => r.stream != g) } }
  settleStop g (settleInvals (modStream g (fun x => { x with
    mode := .stopped, descs := [], answers := [], fill := 0, failed := [], stopDue := x.stopDue }) s))

end Sys2Proof.Machine
end

