-- ==== Sys2Proof/Machine/Commons.lean ====
section
/-! DEFINITION. Commons: windows, the home's directory and transactions, the requester's cache, evictions and accesses (R341 to R346). -/

namespace Sys2Proof.Machine

/-! ## Lines and windows (R341) -/

/-- Line address of a Commons address. -/
def lineOf (a : Nat) : Nat := a / 256 * 256

/-- The window homed here that holds a line, with its offset in the window. -/
def windowAt (s : State) (a : Nat) : Option (DataAlloc × Nat) :=
  (s.zth.windows.find? (fun w => w.id == a / 2 ^ 40)).bind (fun w =>
    let off := a % 2 ^ 40
    if off + 256 ≤ plotSize * w.plots.length then some (w, off) else none)

/-- Device address of a line homed here. -/
def homeAddr (s : State) (a : Nat) : Option Nat := (windowAt s (lineOf a)).map (fun w => plotAddr w.1.plots w.2)

/-- Poison mask of the 32 words from a device address. -/
def poisonMask (m : MemSt) (a : Nat) : Nat :=
  ((List.range 32).map (fun w => if poisoned m (a + 8 * w) then 2 ^ w else 0)).sum

/-- Turn each 8-byte word of a line between memory order and network order. -/
def swapWords (bs : List Byte) : List Byte := (List.range 32).flatMap (fun w => (slice bs (8 * w) 8).reverse)

/-- Body of a line message: its poison mask, then the line with each word in network byte order (Table 15.4). -/
def lineBody (data : List Byte) (mask : Nat) : List Byte := beBytes 4 mask ++ zeros 12 ++ swapWords (fitBytes data 256)

/-- The line and poison mask of a line message. -/
def msgLine (bs : List Byte) : List Byte × Nat := (swapWords (slice bs 32 256), beAt bs 16 4)

/-- Write a line with the poison bits it carries (R345). -/
def writeLine (a : Nat) (data : List Byte) (mask : Nat) (s : State) : State :=
  (List.range 32).foldl (fun s w => if bit mask w then modMem (fun m => poison m (a + 8 * w)) s else s) (writeWhole a data s)

/-! ## Performing an access (R342, R345) -/

/-- Words of a line that bytes `off` to `off + n − 1` touch. -/
def wordsOf (off n : Nat) : List Nat := if n = 0 then [] else (List.range ((off + n - 1) / 8 + 1 - off / 8)).map (off / 8 + ·)

/-- A load of bytes of a line: they go to the host, as a poisoned TLP when a word they touch is poisoned. -/
def loadFrom (r : CReq) (data : List Byte) (mask : Nat) (s : State) : State :=
  let bad := (wordsOf r.offset r.len).any (bit mask)
  let s := hostWrite (fnOf r.stream) r.host (slice data r.offset r.len) bad s
  if bad then flagElement r.stream r.number s else s

/-- A word is merged: it is written whole, or is not poisoned. -/
def storable (off n mask w : Nat) : Bool := (off ≤ 8 * w && 8 * w + 8 ≤ off + n) || !bit mask w

/-- A store into a line: the line and mask after, and whether a partial word met poison. -/
def storeInto (r : CReq) (data : List Byte) (mask : Nat) : List Byte × Nat × Bool :=
  let ws := wordsOf r.offset r.len
  let put := fun (i : Nat) => r.offset ≤ i && i < r.offset + r.len && storable r.offset r.len mask (i / 8)
  let data' := (List.range 256).map (fun i => if put i then r.store.getD (i - r.offset) 0 else data.getD i 0)
  let mask' := ((List.range 32).map (fun w =>
    if bit mask w && !(r.offset ≤ 8 * w && 8 * w + 8 ≤ r.offset + r.len) then 2 ^ w else 0)).sum
  (data', mask', ws.any (fun w => !storable r.offset r.len mask w))

/-- The accesses of a descriptor's element in progress have all been performed or have failed: the element is done. -/
def settleElement (g n : Nat) (s : State) : State :=
  if s.zth.reqs.any (fun r => r.stream == g && r.number == n) then s else elementDone g n false s

/-- An access leaves the list of those outstanding. -/
def dropReq (tag : Nat) (s : State) : State := modZth (fun z => { z with reqs := z.reqs.filter (fun r => r.tag != tag) }) s

/-! ## Time limits (R346) -/

/-- 4 ms of the device time counter. -/
def commonsLimit : Nat := 400000

/-- The limit of what was sent at a device time is over: an answer of the cycle in which it expires still counts. -/
def commonsLate (s : State) (sentAt : Nat) : Bool := sentAt + commonsLimit < s.time.time

/-! ## The requester's cache (R342) -/

/-- A line held in the cache. -/
def cached (s : State) (home a : Nat) : Option CLine := s.zth.cache.find? (fun l => l.home == home && l.addr == a)

/-- A line held in the eviction buffer. -/
def evicting (s : State) (home a : Nat) : Option CLine := s.zth.evict.find? (fun l => l.home == home && l.addr == a)

/-- Cache set of a line. -/
def cacheSet (a : Nat) : Nat := a / 256 % 64

/-- Send a Commons message about a line. -/
def sendCommons (op dst tenant tag a : Nat) (body : List Byte) (s : State) : State :=
  send (mkMsg s op dst tenant 0 tag (beBytes 6 a) body) s

/-- Move a line to the eviction buffer and tell its home. -/
def evictLine (l : CLine) (s : State) : State :=
  let e := ((List.range 16).find? (fun i => s.zth.evict.all (fun x => x.entry != i))).getD 0
  let dirty := l.state == .m
  let s := modZth (fun z => { z with
    cache := z.cache.filter (fun x => !(x.home == l.home && x.addr == l.addr))
    evict := z.evict ++ [{ l with entry := e, sentAt := s.time.time }] }) s
  if dirty then sendCommons 0x44 l.home l.tenant e l.addr (lineBody l.data l.poison) s
  else sendCommons 0x25 l.home l.tenant e l.addr (zeros 16) s

/-- Ways of a line's set that are taken or promised to a request, the line itself apart. -/
def setTaken (s : State) (home a : Nat) : Nat :=
  s.zth.cache.countP (fun l => cacheSet l.addr == cacheSet a && !(l.home == home && l.addr == a)) +
    s.zth.reqs.countP (fun r => r.sent && cacheSet r.addr == cacheSet a && !(r.home == home && r.addr == a) &&
      (cached s r.home r.addr).isNone)

/-- The least recently used line of a set, the line itself apart. -/
def cacheVictim (s : State) (home a : Nat) : Option CLine :=
  (s.zth.cache.filter (fun l => cacheSet l.addr == cacheSet a && !(l.home == home && l.addr == a))).foldl (fun v l =>
    match v with
    | none => some l
    | some x => if l.used < x.used then some l else some x) none

/-- Ask the home for a line, unless the line is being evicted or asked for already, or no way and no eviction entry is
free (log 35). -/
def trySend (r : CReq) (s : State) : State :=
  if (evicting s r.home r.addr).isSome || s.zth.reqs.any (fun x => x.sent && x.home == r.home && x.addr == r.addr) then s
  else
    let full := 16 ≤ setTaken s r.home r.addr
    let room := !full || (s.zth.evict.length < 16 && (cacheVictim s r.home r.addr).isSome)
    if !room then s
    else
      let s := if full then (cacheVictim s r.home r.addr).elim s (fun v => evictLine v s) else s
      let ord := ((s.desc? r.stream r.number).elim 0 (fun d => bits d.flags 3 2)) * 8
      send (mkMsg s (if r.exclusive then 2 else 1) r.home r.tenant ord r.tag (beBytes 6 r.addr) (zeros 16))
        (modZth (fun z => { z with
          reqs := z.reqs.map (fun x => if x.tag = r.tag then { x with sent := true, sentAt := s.time.time } else x) }) s)

/-- The line held allows the access. -/
def hit (r : CReq) (l : CLine) : Bool := !r.exclusive || l.state != .s

/-- Perform an access on a held line. -/
def performOn (r : CReq) (l : CLine) (s : State) : State :=
  let s := dropReq r.tag s
  let put := fun (l' : CLine) (s : State) => modZth (fun z => { z with
    cache := z.cache.map (fun x => if x.home = l.home ∧ x.addr = l.addr then { l' with used := z.clock } else x)
    clock := z.clock + 1 }) s
  if r.exclusive then
    let w := storeInto r l.data l.poison
    let s := put { l with data := w.1, poison := w.2.1, state := .m } s
    settleElement r.stream r.number (if w.2.2 then flagElement r.stream r.number s else s)
  else settleElement r.stream r.number (loadFrom r l.data l.poison (put l s))

/-- An access may issue beside the earlier ones of its element: PLAIN accesses to different lines have no order; an ACQUIRE
load lets no later access issue before it has returned, a RELEASE store follows every earlier access, and FENCED does both
(R291). -/
def reqMay (s : State) (r : CReq) : Bool :=
  (s.zth.reqs.takeWhile (·.tag != r.tag)).all (fun e => e.stream != r.stream || e.number != r.number) ||
    (s.desc? r.stream r.number).elim true (fun d => d.order == 0 || d.order == (if d.isLoad then 2 else 1))

/-- Serve or send the accesses that wait, oldest first. -/
def retryReqs (s : State) : State :=
  (s.zth.reqs.filter (fun r => !r.sent && r.home != s.chipId)).foldl (fun s r =>
    if !reqMay s r then s
    else match cached s r.home r.addr with
      | some l => if hit r l then performOn r l s else trySend r s
      | none => trySend r s) s

/-- A line arrives in a state: it takes its way, and the access it was asked for is performed. -/
def lineArrives (home a tag : Nat) (st : LineState) (data : List Byte) (mask : Nat) (s : State) : State :=
  match s.zth.reqs.find? (fun r => r.sent && r.tag == tag && r.home == home && r.addr == a && !commonsLate s r.sentAt) with
  | none => count (cZth 7) 1 s
  | some r =>
    let l : CLine := ⟨home, a, r.tenant, st, data, mask, s.zth.clock, 0, 0⟩
    let s := modZth (fun z => { z with
      cache := z.cache.filter (fun x => !(x.home == home && x.addr == a)) ++ [l], clock := z.clock + 1
      reqs := z.reqs.map (fun x => if x.tag = tag then { x with sent := false } else x) }) s
    retryReqs (if hit r l then performOn r l s else s)

/-- An access fails: a device-side error of its descriptor (R346). -/
def failReq (r : CReq) (s : State) : State :=
  settleElement r.stream r.number (dropReq r.tag (flagElement r.stream r.number s))

/-! ## The home (R343, R344) -/

def dirOf (s : State) (a : Nat) : Dir := (kvGet s.zth.dir a).getD .uncached
def setDir (a : Nat) (d : Dir) (s : State) : State := modZth (fun z => { z with dir := kvPut .uncached z.dir a d }) s

/-- Remove a chip from a line's directory entry, if it is listed. -/
def dirRemove (a chip : Nat) (s : State) : State :=
  match dirOf s a with
  | .shared xs =>
    let ys := xs.filter (· != chip)
    setDir a (if ys.isEmpty then .uncached else .shared ys) s
  | .exclusive x => if x = chip then setDir a .uncached s else s
  | .uncached => s

/-- Chips a line's directory lists. -/
def Dir.chips : Dir → List Nat
  | .uncached => []
  | .shared xs => xs
  | .exclusive x => [x]

def txnOf (s : State) (tag : Nat) : Option Txn := s.zth.txns.find? (·.tag == tag)
def modTxn (tag : Nat) (f : Txn → Txn) (s : State) : State :=
  modZth (fun z => { z with txns := z.txns.map (fun t => if t.tag = tag then f t else t) }) s

/-- Directory after a request is served, and the message that serves it (Table 15.6). -/
def served (t : Txn) (d : Dir) : Nat × Dir :=
  if t.exclusive then (0x42, if t.own then .uncached else .exclusive t.requester)
  else if t.snooped ∨ d.chips ≠ [] then
    (0x40, if t.own then d else .shared (setAdd d.chips t.requester))
  else (0x41, if t.own then .uncached else .exclusive t.requester)

/-- The home's own access on a line of its Massif. -/
def performHome (r : CReq) (a : Nat) (s : State) : State :=
  let data := memBytes s.mem a 256
  let mask := poisonMask s.mem a
  let s := dropReq r.tag s
  if r.exclusive then
    let w := storeInto r data mask
    settleElement r.stream r.number (let s := writeLine a w.1 w.2.1 s; if w.2.2 then flagElement r.stream r.number s else s)
  else settleElement r.stream r.number (loadFrom r data mask s)

/-- A transaction is complete: the line is read and sent, or the home's own access is performed. -/
def completeTxn (ecc : List EccFind) (t : Txn) (s : State) : State :=
  let v := served t (dirOf s t.addr)
  let s := modZth (fun z => { z with txns := z.txns.filter (fun x => x.tag != t.tag) }) (setDir t.addr v.2 s)
  match homeAddr s t.addr with
  | none => s
  | some a =>
    let s := readMem ecc 9 a 256 s
    if t.own then
      match s.zth.reqs.find? (·.tag == t.reqTag) with
      | some r => performHome r a s
      | none => s
    else sendCommons v.1 t.requester t.tenant t.reqTag t.addr (lineBody (memBytes s.mem a 256) (poisonMask s.mem a)) s

/-- A transaction's snoops: to whom, by directory state. -/
def snoopsFor (t : Txn) (d : Dir) : List Nat :=
  match d with
  | .uncached => []
  | .shared xs => if t.exclusive then xs.filter (fun x => t.own || x != t.requester) else []
  | .exclusive x => [x]

/-- Start serving a transaction: snoop, or complete at once. -/
def startTxn (ecc : List EccFind) (t : Txn) (s : State) : State :=
  let xs := snoopsFor t (dirOf s t.addr)
  if xs.isEmpty then completeTxn ecc { t with started := true } s
  else
    let s := modTxn t.tag (fun t => { t with started := true, awaiting := xs, sentAt := s.time.time, snooped := true }) s
    xs.foldl (fun s x => sendCommons (if t.exclusive then 0x21 else 0x20) x t.tenant t.tag t.addr (zeros 16) (count (cZth 5) 1 s)) s

/-- Serve the transactions at the head of their lines: each start can complete and free the next. -/
def serveTxns (ecc : List EccFind) : Nat → State → State
  | 0, s => s
  | n + 1, s =>
    match s.zth.txns.find? (fun t => !t.started && !s.zth.txns.any (fun x => x.started && x.addr == t.addr)) with
    | none => s
    | some t => serveTxns ecc n (startTxn ecc t s)

/-- A new transaction number of the home. -/
def freshTag (s : State) : Nat :=
  ((List.range (s.zth.txns.length + s.zth.reqs.length + 1)).find? (fun i =>
    let t := (s.zth.nextTag + i) % 65536
    s.zth.txns.all (fun x => x.tag != t) && s.zth.reqs.all (fun r => r.tag != t))).elim 0 (fun i => (s.zth.nextTag + i) % 65536)

/-- Add a transaction of a line, or say that the table is full. -/
def addTxn (ecc : List EccFind) (a tenant requester reqTag : Nat) (exclusive own : Bool) (s : State) : Bool × State :=
  if 512 ≤ s.zth.txns.length then (false, s)
  else
    let tag := freshTag s
    let t : Txn := ⟨tag, a, tenant, requester, reqTag, exclusive, [], [], none, s.time.time, false, false, own⟩
    (true, serveTxns ecc 513 (modZth (fun z => { z with txns := z.txns ++ [t], nextTag := incMod 16 tag }) s))

/-! ## Removing a window (R382) -/

/-- Recall the lines of a window being removed that no transaction recalls yet, while the table has room. -/
def recallWindow (id : Nat) (s : State) : State :=
  let lines := (s.zth.dir.map (·.1)).filter (fun a => a / 2 ^ 40 == id && s.zth.txns.all (fun t => t.addr != a))
  lines.foldl (fun s a => (addTxn [] a 0 s.chipId 0x10000 true true s).2) s

/-- A window with no cached line left is zeroised, and its removal is answered. -/
def settleWindow (id : Nat) (s : State) : State :=
  if s.zth.dir.any (fun p => p.1 / 2 ^ 40 == id) || s.zth.txns.any (fun t => t.addr / 2 ^ 40 == id) then s
  else
    let mine := fun (w : DataAlloc) => w.id == id
    let plots := (s.zth.windows.filter mine).flatMap (·.plots) ++ (s.zth.dirPlots.filter mine).flatMap (·.plots)
    let s := modZth (fun z => { z with
      windows := z.windows.filter (fun w => !mine w), dirPlots := z.dirPlots.filter (fun w => !mine w)
      removing := z.removing.filter (· != id) }) (releasePlots plots s)
    postWaiting 0x0106 (fun pl _ => byteAt pl 0 == 2 && byteAt pl 1 == id) 0 [] s

/-- A releasing tenant with no window left is ABSENT with quotas 0, and its release is answered (R387). -/
def finishRelease (t : Nat) (s : State) : State :=
  if s.zth.windows.any (·.tenant == t) then s
  else
    postWaiting 0x0402 (fun pl u => byteAt pl 0 == 5 && u == t) 0 []
      (modTenant t (fun _ => { Tenant.reset with quota := Quota.zero }) { s with releasing := s.releasing.filter (· != t) })

/-- Go on with the removals and releases under way. -/
def settleRemovals (s : State) : State :=
  let s := s.zth.removing.foldl (fun s id => settleWindow id (recallWindow id s)) s
  s.releasing.foldl (fun s t => finishRelease t s) s

/-! ## Starting an access (R342) -/

/-- Accesses of this chip's own streams to windows homed here that no transaction serves yet. -/
def waitingOwn (s : State) : List CReq :=
  s.zth.reqs.filter (fun r => r.home == s.chipId && !s.zth.txns.any (fun t => t.own && t.reqTag == r.tag))

/-- Serve an access at its home, here: a window that is gone fails it. -/
def serveOwn (ecc : List EccFind) (r : CReq) (s : State) : State :=
  if !reqMay s r then s
  else if (windowAt s r.addr).isNone then failReq r s
  else (addTxn ecc r.addr r.tenant r.home r.tag r.exclusive true s).2

/-- A transaction's last answer may have come: complete it, serve the line's next, and go on with what waited for room. -/
def settleTxn (ecc : List EccFind) (tag : Nat) (s : State) : State :=
  match txnOf s tag with
  | none => s
  | some t =>
    if t.started && t.awaiting.isEmpty && t.evicting.isEmpty then
      let s := settleRemovals (serveTxns [] 513 (completeTxn ecc t s))
      (waitingOwn s).foldl (fun s r => serveOwn [] r s) s
    else s

/-- Note an access of a copy stream to a line. -/
def addAccess (r : CReq) (s : State) : State :=
  let tag := freshTag s
  modZth (fun z => { z with reqs := z.reqs ++ [{ r with tag := tag }], nextTag := incMod 16 tag }) s

/-- Serve an access: from the cache, at the home, or by a request. -/
def serveAccess (ecc : List EccFind) (r : CReq) (s : State) : State :=
  if r.home = s.chipId then serveOwn ecc r s
  else if !reqMay s r then s
  else
    match cached s r.home r.addr with
    | some l => if hit r l then performOn r l s else trySend r s
    | none => trySend r s

/-- The accesses of one element: all are noted, then each is served. -/
def commonsAccesses (ecc : List EccFind) (rs : List CReq) (s : State) : State :=
  let s := rs.foldl (fun s r => addAccess r s) s
  let mine := s.zth.reqs.filter (fun r => rs.any (fun x => x.stream == r.stream && x.number == r.number))
  mine.foldl (fun s r => serveAccess ecc r s) s

end Sys2Proof.Machine
end

