-- ==== Sys2Proof/Machine/Links.lean ====
section
/-! DEFINITION. Zuoth links: flits, training and INIT, retry, NOT_READY, retrains, credits, and sending (R320 to R329). -/

namespace Sys2Proof.Machine

/-! ## Flits (R321) -/

/-- CRC-32 of a flit's bytes 0 to 239, in network order (log 36). -/
def flitCrc (bs : List Byte) : List Byte := (fcsOf (bs.take 240)).reverse

/-- The ack a Saddle sends: the last sequence accepted in order, 0xFFFF before any (log 36). -/
def ackOf (x : Saddle) : Nat := (x.rxSeq + 65535) % 65536

/-- The FEC parity bytes 244 to 255 of a flit: free values, as the manual does not give the code's field (log 59). -/
def flitParity (bs : List Byte) : List Byte := beBytes 12 (Config.fecParity bs).toNat

/-- Close a flit's bytes 0 to 239 with its CRC and its FEC parity. -/
def sealFlit (head : List Byte) : List Byte := head ++ flitCrc head ++ flitParity (head ++ flitCrc head)

/-- A flit of a Saddle with its present ack and credit totals (Table 15.1). -/
def mkFlit (x : Saddle) (kind seq : Nat) (body : List Byte) : List Byte :=
  let head := beBytes 1 kind ++ [0] ++ beBytes 2 seq ++ beBytes 2 (ackOf x) ++ zeros 2 ++ x.freed.flatMap (beBytes 2) ++
    fitBytes body 224
  sealFlit head

/-- Send a flit. -/
def sendFlit (i : Nat) (bs : List Byte) (s : State) : State := emit (.flit i bs) s

/-- Send an IDLE flit: it carries the ack and the credit totals. -/
def sendIdle (i : Nat) (s : State) : State :=
  if (s.saddle i).mode = .active then sendFlit i (mkFlit (s.saddle i) 2 0 []) s else s

/-- Send RETRY_REQ for the expected sequence (R323). -/
def sendRetryReq (i : Nat) (s : State) : State := sendFlit i (mkFlit (s.saddle i) 0x12 0 (beBytes 2 (s.saddle i).rxSeq)) s

/-- What a receiver makes of a flit: its bytes, or none when it is bad; corrections and bad flits are counted (R322). -/
def openFlit (i : Nat) (flit : List Byte) (fec : FecOutcome) (s : State) : Option (List Byte) × State :=
  let s := if fec = .corrected then count (cSaddle i 2) 1 s else s
  if fec ≠ .uncorrectable ∧ slice flit 240 4 = flitCrc flit then (some flit, s) else (none, count (cSaddle i 3) 1 s)

def flitKind (bs : List Byte) : Nat := byteAt bs 0
def flitSeq (bs : List Byte) : Nat := beAt bs 2 2
def flitAck (bs : List Byte) : Nat := beAt bs 4 2
def flitTotals (bs : List Byte) : List Nat := (List.range 4).map (fun c => beAt bs (8 + 2 * c) 2)
/-- Sequence that RETRY_REQ and NOT_READY name. -/
def flitNamed (bs : List Byte) : Nat := beAt bs 16 2

/-- A total moves forward only: both ack and credits are cumulative (R322). -/
def forwardTotal (old new : Nat) : Nat := if (new + 65536 - old) % 65536 < 32768 then new else old

/-- The ack and credit totals of a flit: acknowledged flits leave the retry buffer (R323, R326). -/
def takeAck (bs : List Byte) (now : Nat) (x : Saddle) : Saddle :=
  let keep := x.retry.filter (fun f => !((flitAck bs + 65536 - f.seq) % 65536 < 64))
  let moved := keep.length < x.retry.length
  { x with
    retry := keep, ackSince := if moved then now else x.ackSince, notReady := if moved then 0 else x.notReady
    totals := (x.totals.zip (flitTotals bs)).map (fun p => forwardTotal p.1 p.2) }

/-! ## Sending (R323, R328, R329) -/

/-- A retry-buffer flit as it is sent now. -/
def refresh (x : Saddle) (f : RetryFlit) : List Byte := mkFlit x 1 f.seq (slice f.bytes 16 224)

/-- Send DATA flits. -/
def sendData (i : Nat) (fs : List RetryFlit) (s : State) : State :=
  fs.foldl (fun s f => count (cSaddle i 0) 1 (sendFlit i (refresh (s.saddle i) f) s)) s

/-- Replay the retry buffer from a sequence, counted once (R323). -/
def replayFrom (i q : Nat) (s : State) : State :=
  let fs := (s.saddle i).retry.dropWhile (fun f => f.seq != q)
  if fs.isEmpty then s
  else modSaddle i (fun x => { x with ackSince := s.time.time }) (sendData i fs (count (cSaddle i 4) 1 s))

/-- A message's channel; unknown opcodes have none. -/
def Msg.vc (m : Msg) : Nat := (vcOf (msgOp m.bytes)).getD 4

/-- Slots of a message. -/
def Msg.slots (m : Msg) : Nat := m.bytes.length / 32

/-- Class of a message in the order of R329. -/
def Msg.class_ (m : Msg) : Nat :=
  match m.vc with
  | 3 => 0
  | 1 => 1
  | 0 => 3
  | _ => if msgLatency m.bytes then 2 else 4

/-- Credits cover every slot of the message (R328). -/
def hasCredit (x : Saddle) (m : Msg) : Bool := m.slots ≤ freeCredits x m.vc

/-- The message a Saddle starts next: the first of the first class whose head has its credits (R329). -/
def nextMessage (x : Saddle) : Option Msg :=
  (List.range 5).findSome? (fun c => (x.outq.find? (fun m => m.class_ == c)).bind (fun m => if hasCredit x m then some m else none))

/-- The DATA flits of a message, seven slots each (log 36). -/
def dataFlits (x : Saddle) (m : Msg) : List RetryFlit :=
  (List.range (ceilDiv m.slots 7)).map (fun k =>
    let body := slice m.bytes (224 * k) 224
    let seq := (x.txSeq + k) % 65536
    ⟨seq, mkFlit x 1 seq body, m.vc, body.length / 32, k == 0⟩)

/-- Add to a channel's element of a list of four. -/
def addAt (xs : List Nat) (c n : Nat) : List Nat := xs.modify c (fun v => (v + n) % 65536)

/-- A message that arrived on a Saddle has left it: when no copy is left, its slots' credit is returned (R328, R336). -/
def leaveBuffer (m : Msg) (s : State) : State :=
  match m.hold with
  | none => s
  | some k =>
    let same := fun (x : Msg) => x.from_ == m.from_ && x.hold == some k
    if s.zth.saddles.any (fun y => y.outq.any same) || s.zth.local_.any same then s
    else if m.vc < 4 then sendIdle m.from_ (modSaddle m.from_ (fun x => { x with freed := addAt x.freed m.vc m.slots }) s)
    else s

/-- MESSAGE_SEND: a Saddle starts its next message; its flits enter the retry buffer and go out, and a record context that
waited for it is released (R323, R328, R329). -/
def execMessageSend (saddle : SaddleId) (s : State) : Host.Outcome State Fault Refusal :=
  let x := s.saddle saddle
  match nextMessage x with
  | none => .next s
  | some m =>
    let fs := dataFlits x m
    if x.mode ≠ .active ∨ x.backoff.isSome ∨ 64 < x.retry.length + fs.length then .next s
    else
      let s := modSaddle saddle (fun x => { x with
        outq := x.outq.erase m, retry := x.retry ++ fs, txSeq := (x.txSeq + fs.length) % 65536
        sent := addAt x.sent m.vc m.slots, ackSince := if x.retry.isEmpty then s.time.time else x.ackSince }) s
      .next (leaveBuffer m (freeContext? m.ctx (sendData saddle fs s)))

/-- A Saddle with a message that waits for credits on a channel in this cycle: the head of a class of that channel (R329). -/
def creditStall (x : Saddle) (c : Nat) : Bool :=
  x.mode == .active &&
    (List.range 5).any (fun k => (x.outq.find? (fun m => m.class_ == k)).elim false (fun m => m.vc == c && !hasCredit x m))

/-! ## Training and INIT (R324, R325) -/

/-- Slots this chip advertises, by channel (R325). -/
def ownPools : List Nat := [64, 128, 512, 8]

/-- The INIT flit of a Saddle (Table 15.2). -/
def initFlit (s : State) (i : Nat) : List Byte :=
  let x := s.saddle i
  let last := if x.resume then (if x.accepted then ackOf x else 0xFFFF) else 0
  let head := beBytes 1 0x10 ++ zeros 15 ++ fitBytes (beBytes 1 1 ++ beBytes 1 (if s.zth.chip.isSome then 1 else 0) ++
    beBytes 1 s.chipId ++ beBytes 1 i ++ beBytes 2 ((s.zth.chip.map (·.2)).getD 0) ++ ownPools.flatMap (beBytes 2) ++
    beBytes 1 (if x.resume then 1 else 0) ++ [0] ++ beBytes 2 last) 224
  sealFlit head

/-- Send this end's INIT, built anew. -/
def sendInit (i : Nat) (s : State) : State :=
  let f := initFlit s i
  sendFlit i f (modSaddle i (fun x => { x with initTx := some f }) s)

/-- A Saddle's lanes train: in TRAINING, or while firmware initialises, when the board block it applies may name a Saddle that
is still DOWN here (R403, R411, log 107). -/
def trains (s : State) (i : Nat) : Bool :=
  (s.saddle i).mode == .training || ((s.saddle i).mode == .down && s.boot.phase == .firmwareInit)

/-- LINK_TRAINING_DONE: training completes and the link enters UP, or a lane has failed and it stays DOWN; without
REFCLK_NET no lane trains (R324, R320, R395). -/
def execLinkTrainingDone (saddle : SaddleId) (ok : Bool) (s : State) : Host.Outcome State Fault Refusal :=
  if !trains s saddle then .next s
  else if ok && s.boot.refclkNet then
    .next (sendInit saddle (modSaddle saddle (fun x => { x with mode := .up, init := none }) s))
  else .next (modSaddle saddle (fun x => { x with mode := .down }) s)

/-- Fields of a partner's INIT. -/
def initValid (bs : List Byte) : Bool := byteAt bs 17 == 1
def initFabric (bs : List Byte) : Nat := beAt bs 20 2
def initPools (bs : List Byte) : List Nat := (List.range 4).map (fun c => beAt bs (22 + 2 * c) 2)

/-- The partner's INIT has been received with a valid chip id. -/
def initDone (x : Saddle) : Bool := x.init.elim false initValid

/-- INIT_RESEND: every 10 µs in UP, until the partner's INIT is there (R324). -/
def execInitResend (saddle : SaddleId) (s : State) : Host.Outcome State Fault Refusal :=
  let x := s.saddle saddle
  if x.mode = .up ∧ !initDone x then .next (x.initTx.elim (sendInit saddle s) (fun f => sendFlit saddle f s)) else .next s

/-- A pool is large enough (R325). -/
def poolsOk (ps : List Nat) : Bool := ps.all (2 ≤ ·) && 80 ≤ ps.getD 2 0

/-- The two ends do not agree: version, pools, or the fabric ids once both are known. -/
def initMismatch (s : State) (bs : List Byte) : Bool :=
  byteAt bs 16 != 1 || !poolsOk (initPools bs) ||
    (initValid bs && s.zth.chip.elim false (fun c => c.2 != initFabric bs))

/-- Messages that a retry buffer holds: one for each that begins in it, and one that began before it. -/
def retryMessages (fs : List RetryFlit) : Nat :=
  fs.countP (·.first) + (match fs with | f :: _ => if f.first then 0 else 1 | [] => 0)

/-- The retry buffer's flits renumbered from 0. -/
def renumber (fs : List RetryFlit) : List RetryFlit := fs.zipIdx.map (fun p => { p.1 with seq := p.2 % 65536 })

/-- Slots of a channel in a list of flits. -/
def slotsIn (fs : List RetryFlit) (c : Nat) : Nat := ((fs.filter (fun f => f.vc == c)).map (·.slots)).sum

/-- Messages that came over a Saddle owe no credit after it enters ACTIVE again: totals start at 0 (R325). -/
def dropHolds (i : Nat) (s : State) : State :=
  let f := fun (m : Msg) => if m.from_ = i then { m with hold := none } else m
  modZth (fun z => { z with
    local_ := z.local_.map f, saddles := z.saddles.map (fun x => { x with outq := x.outq.map f, inq := x.inq.map f }) }) s

/-- The link becomes ACTIVE: both ends resume, and what the partner has not accepted is sent again with new sequences, or
the retry buffer is discarded (R325, R327). -/
def linkActive (i : Nat) (bs : List Byte) (s : State) : State :=
  let x := s.saddle i
  let partner := byteAt bs 18
  let both := x.resume && byteAt bs 30 == 1 && x.partner == some partner
  let kept := if both then renumber (x.retry.filter (fun f => !((beAt bs 32 2 + 65536 - f.seq) % 65536 < 64))) else []
  let s := if both then s else count (cZth 0) (retryMessages x.retry) s
  let s := modSaddle i (fun x => { x with
    mode := .active, retry := kept, txSeq := kept.length, rxSeq := 0, accepted := false, retryOut := false
    pools := initPools bs, totals := [0, 0, 0, 0], sent := (List.range 4).map (slotsIn kept)
    rcvd := [0, 0, 0, 0], freed := [0, 0, 0, 0], partner := some partner, resume := true, notReady := 0, backoff := none
    refusing := none, heldSince := none, ackSince := s.time.time, asm := if both then x.asm else [], mismatchAt := none }) s
  sendData i kept (dropHolds i s)

/-- Both INIT flits are there: ACTIVE, DOWN on a mismatch, or still UP while a chip id is not valid (R325). -/
def settleInit (i : Nat) (s : State) : State :=
  let x := s.saddle i
  match x.init with
  | none => s
  | some bs =>
    if x.mode ≠ .up then s
    else if initMismatch s bs then
      raise 0x0903 0xFF (leBytes 1 i ++ leBytes 1 (byteAt bs 16) ++ leBytes 2 (initFabric bs))
        (modSaddle i (fun x => { x with mode := .down, init := none, mismatchAt := some s.time.time }) s)
    else if initValid bs && s.zth.chip.isSome then linkActive i bs s
    else s

/-- INIT_FLIT_RX: the partner's INIT; in ACTIVE it shows that the partner still lacks ours, which is sent again (R324,
R325, log 37). -/
def execInitFlitRx (saddle : SaddleId) (flit : List Byte) (fec : FecOutcome) (s : State) : Host.Outcome State Fault Refusal :=
  let x := s.saddle saddle
  if x.mode ≠ .up ∧ x.mode ≠ .active then .next s
  else
    match openFlit saddle flit fec s with
    | (none, s) => .next s
    | (some bs, s) =>
      if flitKind bs ≠ 0x10 then .next s
      else if x.mode = .active then .next (x.initTx.elim s (fun f => sendFlit saddle f s))
      else .next (settleInit saddle (modSaddle saddle (fun x => { x with init := some bs }) s))

/-- FABRIC_MISMATCH_RETRY: 1 s after a mismatch the link trains again (R325). -/
def execFabricMismatchRetry (saddle : SaddleId) (s : State) : Host.Outcome State Fault Refusal :=
  let x := s.saddle saddle
  match x.mismatchAt with
  | some t =>
    if x.mode = .down ∧ x.enabled ∧ t + 100000000 ≤ s.time.time then
      .next (modSaddle saddle (fun x => { x with mode := .training, mismatchAt := none }) s)
    else .next s
  | none => .next s

/-! ## Retrains and held messages (R326, R327) -/

/-- The link leaves ACTIVE for a state: its retry buffer and its record of what it accepted stay. -/
def leaveActive (i : Nat) (target : LinkMode) (s : State) : State :=
  modSaddle i (fun x => { x with
    mode := target, init := none, initTx := none, retryOut := false, backoff := none, refusing := none, notReady := 0
    heldSince := if x.mode = .active then some s.time.time else x.heldSince, mismatchAt := none }) s

/-- Retrain a link, counted and reported with its cause. -/
def retrain (i cause : Nat) (s : State) : State :=
  raise 0x0901 0xFF (leBytes 1 i ++ leBytes 1 cause) (count (cSaddle i 8) 1 (leaveActive i .training s))

/-- ZUOTH_LANE_LOSS: a lane fault takes the link into retraining (R327). -/
def execZuothLaneLoss (saddle : SaddleId) (s : State) : Host.Outcome State Fault Refusal :=
  let m := (s.saddle saddle).mode
  if m = .active ∨ m = .up then .next (retrain saddle 2 s) else .next s

/-- LINK_HOLD_EXPIRY: messages held 4 ms for a link that is not ACTIVE are discarded, counted and reported (R327). -/
def execLinkHoldExpiry (saddle : SaddleId) (s : State) : Host.Outcome State Fault Refusal :=
  let x := s.saddle saddle
  if x.mode = .active ∨ x.outq.isEmpty ∨ s.time.time < x.heldSince.getD 0 + 400000 then .next s
  else
    let n := x.outq.length
    let s := modSaddle saddle (fun x => { x with outq := [] }) (count (cZth 0) n s)
    let s := x.outq.foldl (fun s m => leaveBuffer m (freeContext? m.ctx s)) s
    .next (raise 0x0902 0xFF (leBytes 1 saddle ++ zeros 3 ++ leBytes 4 n) s)

/-! ## Receiving DATA (R322, R323, R326, R328) -/

/-- Claimed slots of a message whose first slot is `b`. -/
def claimed (b : List Byte) : Nat := max 1 (msgLen b)

/-- Assemble messages from slots, after the slots of one that continues: those completed, in order, and the rest. -/
def assemble : List (List Byte) → List Byte → List (List Byte) → List (List Byte) × List Byte
  | [], asm, done => (done, asm)
  | b :: bs, asm, done =>
    if asm.isEmpty && byteAt b 0 == 0 then assemble bs [] done
    else
      let asm := asm ++ b
      if 32 * claimed asm ≤ asm.length then assemble bs [] (done ++ [asm]) else assemble bs asm done

/-- A message has arrived whole: its channel is charged, and an overrun of this end's pool is noted (R328, R331). -/
def arriveMsg (i : Nat) (bs : List Byte) (s : State) : State :=
  let x := s.saddle i
  let vc := (vcOf (msgOp bs)).getD 4
  let used := (x.rcvd.getD vc 0 + bs.length / 32) % 65536
  let tooMany := vc < 4 && ownPools.getD vc 0 < (used + 65536 - x.freed.getD vc 0) % 65536
  let m : Msg := ⟨bs, i, s.now, false, none, tooMany, some s.zth.clock⟩
  modZth (fun z => { z with clock := z.clock + 1 }) (modSaddle i (fun x => { x with
    rcvd := addAt x.rcvd vc (bs.length / 32), inq := x.inq ++ [m] }) s)

/-- The seven slots of a DATA flit. -/
def flitSlots (bs : List Byte) : List (List Byte) := (List.range 7).map (fun k => slice bs (16 + 32 * k) 32)

/-- A DATA flit is accepted in order. -/
def acceptData (i : Nat) (bs : List Byte) (s : State) : State :=
  let r := assemble (flitSlots bs) (s.saddle i).asm []
  let s := modSaddle i (fun x => { x with
    rxSeq := (x.rxSeq + 1) % 65536, accepted := true, retryOut := false, asm := r.2 }) (count (cSaddle i 1) 1 s)
  sendIdle i (r.1.foldl (fun s m => arriveMsg i m s) s)

/-- A sequence has been accepted already. -/
def isDuplicate (x : Saddle) (q : Nat) : Bool := x.accepted && (x.rxSeq + 65535 - q) % 65536 < 64

/-- Ask for the expected sequence, unless that stands asked (R323). -/
def askRetry (i : Nat) (s : State) : State :=
  if (s.saddle i).retryOut then s else sendRetryReq i (modSaddle i (fun x => { x with retryOut := true }) s)

/-- A chip that is not fabric-ready refuses the first DATA flit, and each replay of it (R326). -/
def refuseData (i q : Nat) (s : State) : State :=
  match (s.saddle i).refusing with
  | some p => if p = q then sendFlit i (mkFlit (s.saddle i) 0x13 0 (beBytes 2 q)) (count (cSaddle i 5) 1 s) else s
  | none =>
    sendFlit i (mkFlit (s.saddle i) 0x13 0 (beBytes 2 q))
      (modSaddle i (fun x => { x with refusing := some q }) (count (cSaddle i 5) 1 s))

/-- DATA_FLIT_RX (R322, R323, R326). -/
def execDataFlitRx (saddle : SaddleId) (flit : List Byte) (fec : FecOutcome) (s : State) : Host.Outcome State Fault Refusal :=
  let x := s.saddle saddle
  if x.mode ≠ .up ∧ x.mode ≠ .active then .next s
  else
    match openFlit saddle flit fec s with
    | (none, s) => .next (if x.mode = .active then askRetry saddle s else s)
    | (some bs, s) =>
      if flitKind bs ≠ 1 then .next s
      else if s.zth.chip.isNone then .next (refuseData saddle (flitSeq bs) s)
      else if x.mode ≠ .active then .next s
      else if isDuplicate x (flitSeq bs) then .next s
      else
        let s := modSaddle saddle (takeAck bs s.time.time) s
        if flitSeq bs = x.rxSeq then .next (acceptData saddle bs s) else .next (askRetry saddle s)

/-- A control flit of a kind received in ACTIVE: its ack and totals are taken, then what it asks is done. -/
def controlFlit (i kind : Nat) (flit : List Byte) (fec : FecOutcome) (act : Nat → State → State) (s : State) : State :=
  let m := (s.saddle i).mode
  if m ≠ .active ∧ m ≠ .up then s
  else
    match openFlit i flit fec s with
    | (none, s) => s
    | (some bs, s) =>
      if flitKind bs ≠ kind ∨ m ≠ .active then s else act (flitNamed bs) (modSaddle i (takeAck bs s.time.time) s)

/-- IDLE_FLIT_RX: the cumulative ack and credit totals (R322). -/
def execIdleFlitRx (saddle : SaddleId) (flit : List Byte) (fec : FecOutcome) (s : State) : Host.Outcome State Fault Refusal :=
  .next (controlFlit saddle 2 flit fec (fun _ s => s) s)

/-- RETRY_REQ_RX: replay from the named sequence; in a back-off only IDLE flits go out (R323, R326). -/
def execRetryReqRx (saddle : SaddleId) (flit : List Byte) (fec : FecOutcome) (s : State) : Host.Outcome State Fault Refusal :=
  .next (controlFlit saddle 0x12 flit fec (fun q s =>
    if (s.saddle saddle).backoff.isSome then s else replayFrom saddle q s) s)

/-- RETRY_REQ_REPEAT: every 1 µs until the expected sequence arrives (R323). -/
def execRetryReqRepeat (saddle : SaddleId) (s : State) : Host.Outcome State Fault Refusal :=
  let x := s.saddle saddle
  if x.mode = .active ∧ x.retryOut then .next (sendRetryReq saddle s) else .next s

/-- ACK_TIMEOUT: 2 µs without an advance of the ack replay from the oldest flit (R323). -/
def execAckTimeout (saddle : SaddleId) (s : State) : Host.Outcome State Fault Refusal :=
  let x := s.saddle saddle
  match x.retry with
  | [] => .next s
  | f :: _ =>
    if x.mode ≠ .active ∨ x.backoff.isSome ∨ s.time.time < x.ackSince + 200 then .next s
    else .next (replayFrom saddle f.seq s)

/-- NOT_READY_RX: 1 ms of back-off; the 64th with no DATA flit accepted in between retrains the link (R326). -/
def execNotReadyRx (saddle : SaddleId) (flit : List Byte) (fec : FecOutcome) (s : State) : Host.Outcome State Fault Refusal :=
  .next (controlFlit saddle 0x13 flit fec (fun q s =>
    let s := modSaddle saddle (fun x => { x with notReady := x.notReady + 1, backoff := some q }) (count (cSaddle saddle 6) 1 s)
    if 64 ≤ (s.saddle saddle).notReady then retrain saddle 0 s else s) s)

/-- NOT_READY_BACKOFF_EXPIRY: after 1 ms of IDLE flits the sender replays from the refused sequence (R326). -/
def execNotReadyBackoffExpiry (saddle : SaddleId) (s : State) : Host.Outcome State Fault Refusal :=
  match (s.saddle saddle).backoff with
  | none => .next s
  | some q => .next (replayFrom saddle q (modSaddle saddle (fun x => { x with backoff := none }) s))

/-! ## The fabric command (R332, R382) -/

/-- Links named by a mask that are not enabled yet start training. -/
def enableLinks (mask : Nat) (s : State) : State :=
  (List.range 16).foldl (fun s i =>
    if bit mask i && !(s.saddle i).enabled then
      modSaddle i (fun x => { x with enabled := true, mode := if x.mode = .down then .training else x.mode }) s
    else s) s

/-- The unicast entries of a FABRIC_CONFIG payload that are valid. -/
def unicastOf (pl : List Byte) : Kv (Nat × Nat) :=
  (List.range 256).filterMap (fun c =>
    if bit (byteAt pl (8 + 4 * c)) 0 then some (c, byteAt pl (9 + 4 * c), leAt pl (10 + 4 * c) 2) else none)

/-- The multicast groups of a FABRIC_CONFIG payload that forward or deliver. -/
def multicastOf (pl : List Byte) : Kv (Nat × Bool) :=
  (List.range 256).filterMap (fun g =>
    let mask := leAt pl (1032 + 4 * g) 2
    let here := bit (byteAt pl (1034 + 4 * g)) 0
    if mask = 0 ∧ !here then none else some (g, mask, here))

/-- FABRIC_CONFIG lands: ids and tables apply, links whose bit is clear go DOWN, links that wait in UP send an INIT with the
chip id, and a new identity retrains the links that carry the old one (R332, R326, R382, log 37). -/
def fabricEffect (pl : List Byte) (s : State) : State :=
  let id := (byteAt pl 0, leAt pl 2 2)
  let moved := s.zth.chip.isSome && s.zth.chip != some id
  let s := modZth (fun z => { z with chip := some id, unicast := unicastOf pl, multicast := multicastOf pl }) s
  (List.range 16).foldl (fun s i =>
    let x := s.saddle i
    if !bit (leAt pl 4 2) i then
      if x.enabled || x.mode != .down then leaveActive i .down (modSaddle i (fun x => { x with enabled := false }) s) else s
    else if x.mode = .active then (if moved then retrain i 3 s else s)
    else if x.mode = .up then settleInit i (sendInit i s)
    else s) s

/-- A distributed model is held (R382). -/
def hasDistributed (s : State) : Bool := s.models.any (fun m => 1 < m.image.members)

/-- FABRIC_CONFIG's own rules: the identity, then the Saddle of each valid unicast entry. -/
def fabricCheck (s : State) (pl : List Byte) (_ : Nat) : Option Refused :=
  let fixed := !s.zth.windows.isEmpty || hasDistributed s
  firstRefusal ([
    unless_ (!(fixed && s.zth.chip.elim false (fun c => c.1 != byteAt pl 0))) (atField errBusy 0),
    unless_ (!(fixed && s.zth.chip.elim false (fun c => c.2 != leAt pl 2 2))) (atField errBusy 2)] ++
    (List.range 256).map (fun c =>
      unless_ (!bit (byteAt pl (8 + 4 * c)) 0 || byteAt pl (9 + 4 * c) < 16) (atField errBadConfig (9 + 4 * c))))

/-- FABRIC_CONFIG (R332, R382). -/
def execFabricConfig (fn : Fn) (s : State) : Host.Outcome State Fault Refusal :=
  runCommand fn 0x0105 anyOp fabricCheck (fun pl _ s =>
    respondMilestone fn [] (later (.fabric pl) (enableLinks (leAt pl 4 2) s))) s

end Sys2Proof.Machine
end

