-- ==== Sys2Proof/Machine/Messages.lean ====
section
/-! DEFINITION. Zuoth messages: forwarding, violations, Commons requests, snoops and answers, record multicasts, terms, gradients, remote signals and Commons windows (R330 to R347). -/

namespace Sys2Proof.Machine

/-! ## Violations (R331) -/

/-- Slots a message of RECORD_MC needs, by its counts (R337). -/
def mcSlots (bs : List Byte) : Nat :=
  ceilDiv (32 + alignUp (beAt bs 24 2) 8 + 12 * byteAt bs 26 + 4 * byteAt bs 27) 32

/-- The length Table 15.4 gives a message, in slots; none when its own counts are out of range. -/
def lengthOf (bs : List Byte) : Option Nat :=
  let op := msgOp bs
  if op = 0x45 then
    if 1 ≤ beAt bs 24 2 ∧ beAt bs 24 2 ≤ 1024 ∧ byteAt bs 26 ≤ 64 ∧ byteAt bs 27 ≤ 64 then some (mcSlots bs) else none
  else if op = 0x46 then some (ceilDiv (32 + alignUp (byteAt bs 13) 8 + 8 * byteAt bs 13) 32)
  else if op = 0x47 then
    if 1 ≤ byteAt bs 16 ∧ byteAt bs 16 ≤ 16 then some (ceilDiv (32 + 12 * byteAt bs 16) 32) else none
  else if 0x40 ≤ op ∧ op ≤ 0x44 then some 9
  else some 1

/-- Bytes `o` to `o + n − 1` of a message are 0. -/
def zeroAt (bs : List Byte) (o n : Nat) : Bool := allZero (slice bs o n)

/-- The reserved fields of the header and of an opcode's own layout are 0. -/
def reservedOk (bs : List Byte) : Bool :=
  let op := msgOp bs
  byteAt bs 4 < 32 && byteAt bs 5 < 32 && byteAt bs 7 == 0 &&
    (if op = 4 then zeroAt bs 13 3 && byteAt bs 12 % 128 == 0 && zeroAt bs 20 12
     else if 0x40 ≤ op ∧ op ≤ 0x44 then zeroAt bs 20 12
     else if op = 0x45 then zeroAt bs 12 4 && zeroAt bs 28 4 &&
       (List.range (byteAt bs 26)).all (fun i => byteAt bs (35 + alignUp (beAt bs 24 2) 8 + 12 * i) == 0)
     else if op = 0x46 then zeroAt bs 15 1 && zeroAt bs 26 6
     else if op = 0x47 then zeroAt bs 12 4 && zeroAt bs 19 13 && (List.range (byteAt bs 16)).all (fun i => byteAt bs (43 + 12 * i) == 0)
     else true)

/-- The values a TERM's status and reason may have (R338). -/
def termOk (bs : List Byte) : Bool :=
  let st := byteAt bs 24
  let why := byteAt bs 25
  if st = 2 then [0x20, 0x21, 0x22, 0x40, 0x41].contains why && byteAt bs 13 == 0 else st < 2 && why == 0

/-- Offset of a RECORD_MC's forwarded fields. -/
def mcForward (bs : List Byte) : Nat := 32 + alignUp (beAt bs 24 2) 8 + 12 * byteAt bs 26

/-- No narrow code is −128 (R339). -/
def codesOk (bs : List Byte) : Bool :=
  if msgOp bs = 0x45 then (List.range (byteAt bs 27)).all (fun i => byteAt bs (mcForward bs + 4 * i + 3) != 0x80)
  else if msgOp bs = 0x47 then
    (List.range (byteAt bs 16)).all (fun i => byteAt bs (41 + 12 * i) != 0x80 && byteAt bs (42 + 12 * i) != 0x80)
  else true

/-- Why a received message is a violation, as its NAK reason. -/
def violationOf (m : Msg) : Option Nat :=
  let bs := m.bytes
  if m.overrun then some 1
  else if (vcOf (msgOp bs)).isNone then some 2
  else if lengthOf bs ≠ some (msgLen bs) ∨ !reservedOk bs ∨ !codesOk bs ∨ (msgOp bs = 0x46 ∧ !termOk bs) then some 3
  else none

/-- The first message of a Saddle's input buffer. -/
def frontMsg (i : Nat) (s : State) : Option Msg := (s.saddle i).inq.head?
/-- Take it out. -/
def popMsg (i : Nat) (s : State) : State := modSaddle i (fun x => { x with inq := x.inq.drop 1 }) s

/-- MESSAGE_VIOLATION: discarded, NAKed, reported and counted; the 16th of an epoch retrains the link (R331). -/
def execMessageViolation (saddle : SaddleId) (s : State) : Host.Outcome State Fault Refusal :=
  match frontMsg saddle s with
  | none => .next s
  | some m =>
    match violationOf m with
    | none => .next s
    | some r =>
      let s := leaveBuffer m (popMsg saddle s)
      let s := raise 0x0904 0xFF (leBytes 1 saddle ++ leBytes 1 (msgOp m.bytes) ++ leBytes 1 r ++ leBytes 1 (msgSrc m.bytes))
        (refuseMsg m r s)
      let s := modSaddle saddle (fun x => { x with violations := x.violations + 1 }) (count (cSaddle saddle 7) 1 s)
      .next (if (s.saddle saddle).violations = 16 then retrain saddle 1 s else s)

/-- MESSAGE_FORWARD: a message for another chip or for a group is routed or dropped (R332 to R336). -/
def execMessageForward (saddle : SaddleId) (s : State) : Host.Outcome State Fault Refusal :=
  match frontMsg saddle s with
  | none => .next s
  | some m =>
    if (violationOf m).isSome || (!msgMcast m.bytes && msgDst m.bytes == s.chipId) then .next s
    else .next (leaveBuffer m (forwardMsg m (popMsg saddle s)))

/-- Take a message of an opcode for this chip that came from a port: the first delivered one, or a Saddle's front. -/
def takeMsg (port : MsgPort) (op : Nat) (s : State) : Option (Msg × State) :=
  match s.zth.local_.find? (fun m => m.from_ == port.val) with
  | some m =>
    if msgOp m.bytes = op then some (m, leaveBuffer m (modZth (fun z => { z with local_ := z.local_.erase m }) s)) else none
  | none =>
    if port.val = 16 then none
    else
      (frontMsg port s).bind (fun m =>
        if (violationOf m).isNone && !msgMcast m.bytes && msgDst m.bytes == s.chipId && msgOp m.bytes == op then
          some (m, leaveBuffer m (popMsg port s))
        else none)

/-- Run a message row: the message is taken, and its effect performed. -/
def onMessage (port : MsgPort) (op : Nat) (act : Msg → State → State) (s : State) : Host.Outcome State Fault Refusal :=
  match takeMsg port op s with
  | none => .next s
  | some (m, s) => .next (act m s)

/-! ## Adaptive routes (R334) -/

/-- A message may fall back: it has waited 256 cycles, with no credit on any masked Saddle. -/
def fallsBack (s : State) (m : Msg) : Bool :=
  msgAdaptive m.bytes && !m.fixed && m.since + 256 ≤ s.now &&
    (kvGet s.zth.unicast (msgDst m.bytes)).elim false (fun (e : Nat × Nat) =>
      (List.range 16).all (fun i => !bit e.2 i || !hasCredit (s.saddle i) m))

/-- ADAPTIVE_ROUTE_FALLBACK: the message takes the deterministic Saddle for the rest of its path (R334). -/
def execAdaptiveRouteFallback (saddle : SaddleId) (s : State) : Host.Outcome State Fault Refusal :=
  match (s.saddle saddle).outq.find? (fallsBack s) with
  | none => .next s
  | some m =>
    let det := ((kvGet s.zth.unicast (msgDst m.bytes)).map (·.1)).getD 0
    let m' := { m with bytes := overlay m.bytes 5 (beBytes 1 (msgFlags m.bytes - 2)), fixed := true }
    .next (queueOut det m' (modSaddle saddle (fun x => { x with outq := x.outq.erase m }) s))

/-! ## Remote Waymark signals (R288, R347) -/

/-- WMK_SIGNAL: applied as source 3, or NAKed with reason 0x21. -/
def execWmkSignal (port : MsgPort) (s : State) : Host.Outcome State Fault Refusal :=
  onMessage port 4 (fun m s =>
    let n := msgOperand m.bytes / 2 ^ 32
    let q := (s.tenant (msgTenant m.bytes)).quota
    if q.wmkBase ≤ n ∧ n < q.wmkBase + q.wmkCount ∧ (s.waymark n).remoteOk then
      wmkPost 3 n (.signal (beAt m.bytes 16 4) (bit (msgOperand m.bytes) 31)) (count (cWmk 2) 1 s)
    else refuseMsg m 0x21 (count (cWmk 3) 1 s)) s

/-- The fields of WMK_REMOTE: its reserved bits [30:25] stay 0 (R11, R288). -/
def remoteFields (v : Nat) : Nat := bits v 63 31 * 2 ^ 31 + bits v 24 0

/-- A committed write of WMK_REMOTE by function `f`. -/
def remoteSignal (f v : Nat) (s : State) : State :=
  let chip := bits v 7 0
  let n := bits v 19 8
  let dt := bits v 24 20
  if !s.windowOpen f then s
  else
  let s := modFn f (fun x => { x with wmkRemote := remoteFields v }) s
  if f ≠ 0 ∧ !inScope s (f - 1) chip then
    raise 0x0702 (f - 1) (leBytes 1 chip ++ zeros 1 ++ leBytes 2 n ++ leBytes 1 dt ++ leBytes 1 0x20) s
  else
    let s := modZth (fun z => { z with signals := (f, chip, dt, n) :: z.signals.filter (· != (f, chip, dt, n)) }) s
    send (mkMsg s 4 chip dt 0 0 (beBytes 2 n ++ beBytes 4 (if bit v 31 then 2 ^ 31 else 0)) (beBytes 4 (bits v 63 32) ++ zeros 12)) s

/-- WMK_REMOTE_WRITE: a remote signal is sent, or refused outside the tenant's fabric scope (R288, log 38). -/
def execWmkRemoteWrite (fn : Fn) (value : Nat) (s : State) : Host.Outcome State Fault Refusal := .next (remoteSignal fn value s)

/-! ## Requests at the home (R341, R343) -/

/-- The home refuses a request: no window here, not its owner, being removed, or a source outside the tenant's scope. -/
def requestRefused (s : State) (m : Msg) : Bool :=
  match windowAt s (lineOf (msgOperand m.bytes)) with
  | none => true
  | some (w, _) => w.tenant != msgTenant m.bytes || s.zth.removing.contains w.id || !inScope s w.tenant (msgSrc m.bytes)

/-- RD_S and RD_M at the home. -/
def homeRequest (ecc : List EccFind) (exclusive : Bool) (m : Msg) (s : State) : State :=
  let a := lineOf (msgOperand m.bytes)
  if requestRefused s m then refuseMsg m 0x20 s
  else
    match addTxn ecc a (msgTenant m.bytes) (msgSrc m.bytes) (msgTag m.bytes) exclusive false s with
    | (true, s) => count (cZth 4) 1 s
    | (false, s) => refuseMsg m 0x22 s

/-- RD_S (R343). -/
def execRdS (port : MsgPort) (ecc : List EccFind) (s : State) : Host.Outcome State Fault Refusal :=
  onMessage port 1 (homeRequest ecc false) s

/-- RD_M (R343). -/
def execRdM (port : MsgPort) (ecc : List EccFind) (s : State) : Host.Outcome State Fault Refusal :=
  onMessage port 2 (homeRequest ecc true) s

/-! ## Snoops at a chip (R343, R344) -/

/-- Answer a snoop to its home. -/
def answerSnoop (op : Nat) (m : Msg) (body : List Byte) (s : State) : State :=
  sendCommons op (msgSrc m.bytes) (msgTenant m.bytes) (msgTag m.bytes) (msgOperand m.bytes) body s

/-- A chip answers a snoop from its cache or its eviction buffer; the line is left S or I. -/
def snoop (inval : Bool) (m : Msg) (s : State) : State :=
  let home := msgSrc m.bytes
  let a := msgOperand m.bytes
  let after := fun (s : State) => modZth (fun z => { z with
    cache := if inval then z.cache.filter (fun l => !(l.home == home && l.addr == a))
      else z.cache.map (fun l => if l.home = home ∧ l.addr = a then { l with state := .s } else l) }) s
  match cached s home a, evicting s home a with
  | some l, _ =>
    let s := if l.state == .m then answerSnoop 0x43 m (lineBody l.data l.poison) (after s) else answerSnoop 0x23 m (zeros 16) (after s)
    retryReqs s
  | none, some l =>
    if l.state == .m then answerSnoop 0x24 m (zeros 16) (count (cZth 6) 1 s) else answerSnoop 0x22 m (zeros 16) s
  | none, none => answerSnoop 0x22 m (zeros 16) s

/-- SNP_SHARE (R343). -/
def execSnpShare (port : MsgPort) (s : State) : Host.Outcome State Fault Refusal := onMessage port 0x20 (snoop false) s

/-- SNP_INV (R343). -/
def execSnpInv (port : MsgPort) (s : State) : Host.Outcome State Fault Refusal := onMessage port 0x21 (snoop true) s

/-! ## Snoop answers at the home (R343, R344) -/

/-- Acknowledge an eviction. -/
def ackEviction (chip entry tenant a : Nat) (s : State) : State := sendCommons 0x26 chip tenant entry a (zeros 16) s

/-- Write an eviction's line to Massif, take its chip out of the directory, and acknowledge it. -/
def takeEviction (chip entry tenant a : Nat) (data : List Byte) (mask : Nat) (s : State) : State :=
  let s := (homeAddr s a).elim s (fun d => writeLine d data mask s)
  ackEviction chip entry tenant a (dirRemove a chip s)

/-- Directory after a chip has answered that it holds, or held, the line. -/
def dirAnswered (t : Txn) (chip : Nat) (s : State) : State :=
  if t.exclusive then dirRemove t.addr chip s
  else
    match dirOf s t.addr with
    | .exclusive x => if x = chip then setDir t.addr (.shared [x]) s else s
    | _ => s

/-- A snoop answer: matched to its transaction, or discarded as late (R346). `act` is what it does to the line. -/
def snoopAnswer (ecc : List EccFind) (act : Txn → Msg → State → State) (m : Msg) (s : State) : State :=
  let x := msgSrc m.bytes
  match txnOf s (msgTag m.bytes) with
  | none => count (cZth 7) 1 s
  | some t =>
    if t.addr ≠ msgOperand m.bytes ∨ !t.awaiting.contains x ∨ commonsLate s t.sentAt then count (cZth 7) 1 s
    else
      let s := modTxn t.tag (fun t => { t with awaiting := t.awaiting.filter (· != x) }) s
      settleTxn ecc t.tag (act t m s)

/-- SNP_RSP_INVALID (R343, R344). -/
def execSnpRspInvalid (port : MsgPort) (ecc : List EccFind) (s : State) : Host.Outcome State Fault Refusal :=
  onMessage port 0x22 (snoopAnswer ecc (fun t m s => dirRemove t.addr (msgSrc m.bytes) s)) s

/-- SNP_RSP_ACK (R343). -/
def execSnpRspAck (port : MsgPort) (ecc : List EccFind) (s : State) : Host.Outcome State Fault Refusal :=
  onMessage port 0x23 (snoopAnswer ecc (fun t m s => dirAnswered t (msgSrc m.bytes) s)) s

/-- SNP_RSP_EVICTING: the crossing EVICT_DIRTY, held or still to come, is the snoop's data (R344). -/
def execSnpRspEvicting (port : MsgPort) (ecc : List EccFind) (s : State) : Host.Outcome State Fault Refusal :=
  onMessage port 0x24 (snoopAnswer ecc (fun t m s =>
    let x := msgSrc m.bytes
    match t.heldEvict with
    | some (c, e, data, mask) =>
      if c = x then takeEviction x e t.tenant t.addr data mask (modTxn t.tag (fun t => { t with heldEvict := none }) s)
      else modTxn t.tag (fun t => { t with evicting := setAdd t.evicting x }) s
    | none => modTxn t.tag (fun t => { t with evicting := setAdd t.evicting x }) s)) s

/-- SNP_RSP_DATA: the dirty line is written to Massif (R343). -/
def execSnpRspData (port : MsgPort) (ecc : List EccFind) (s : State) : Host.Outcome State Fault Refusal :=
  onMessage port 0x43 (snoopAnswer ecc (fun t m s =>
    let l := msgLine m.bytes
    dirAnswered t (msgSrc m.bytes) ((homeAddr s t.addr).elim s (fun d => writeLine d l.1 l.2 s)))) s

/-- EVICT_CLEAN: always acknowledged, and the chip leaves the directory (R343, R344). -/
def execEvictClean (port : MsgPort) (_ecc : List EccFind) (s : State) : Host.Outcome State Fault Refusal :=
  onMessage port 0x25 (fun m s =>
    let a := msgOperand m.bytes
    settleRemovals (ackEviction (msgSrc m.bytes) (msgTag m.bytes) (msgTenant m.bytes) a (dirRemove a (msgSrc m.bytes) s))) s

/-- EVICT_DIRTY: the line is written and acknowledged; while a snoop answer of its chip is awaited it is held (R343,
R344). -/
def execEvictDirty (port : MsgPort) (ecc : List EccFind) (s : State) : Host.Outcome State Fault Refusal :=
  onMessage port 0x44 (fun m s =>
    let x := msgSrc m.bytes
    let a := msgOperand m.bytes
    let l := msgLine m.bytes
    match s.zth.txns.find? (fun t => t.started && t.addr == a) with
    | some t =>
      if t.evicting.contains x then
        settleTxn ecc t.tag (takeEviction x (msgTag m.bytes) t.tenant a l.1 l.2
          (modTxn t.tag (fun t => { t with evicting := t.evicting.filter (· != x) }) s))
      else if t.awaiting.contains x then
        modTxn t.tag (fun t => { t with heldEvict := some (x, msgTag m.bytes, l.1, l.2) }) s
      else ackEviction x (msgTag m.bytes) (msgTenant m.bytes) a (count (cZth 7) 1 s)
    | none =>
      if dirOf s a = .exclusive x then
        settleRemovals (takeEviction x (msgTag m.bytes) (msgTenant m.bytes) a l.1 l.2 s)
      else ackEviction x (msgTag m.bytes) (msgTenant m.bytes) a (count (cZth 7) 1 s)) s

/-! ## Answers at the requester (R342, R346) -/

/-- EVICT_ACK: the eviction buffer's entry is free, and what waited for it goes on (R342). -/
def execEvictAck (port : MsgPort) (s : State) : Host.Outcome State Fault Refusal :=
  onMessage port 0x26 (fun m s =>
    let mine := fun (l : CLine) => l.home == msgSrc m.bytes && l.entry == msgTag m.bytes && l.addr == msgOperand m.bytes &&
      !commonsLate s l.sentAt
    if s.zth.evict.any mine then
      retryReqs (modZth (fun z => { z with evict := z.evict.filter (fun l => !mine l) }) s)
    else count (cZth 7) 1 s) s

/-- A line message at its requester. -/
def lineMessage (st : LineState) (m : Msg) (s : State) : State :=
  let l := msgLine m.bytes
  lineArrives (msgSrc m.bytes) (msgOperand m.bytes) (msgTag m.bytes) st l.1 l.2 s

/-- DATA_S (R342). -/
def execDataS (port : MsgPort) (s : State) : Host.Outcome State Fault Refusal := onMessage port 0x40 (lineMessage .s) s

/-- DATA_E (R342). -/
def execDataE (port : MsgPort) (s : State) : Host.Outcome State Fault Refusal := onMessage port 0x41 (lineMessage .e) s

/-- DATA_M (R342). -/
def execDataM (port : MsgPort) (s : State) : Host.Outcome State Fault Refusal := onMessage port 0x42 (lineMessage .m) s

/-! ## NAKs (R331, R343) -/

/-- The remote signals that a NAK can mean: those sent to its source chip for the tenant it names, or for any tenant. -/
def nakSignals (s : State) (m : Msg) : List (Nat × Nat × Nat × Nat) :=
  let sent := s.zth.signals.filter (fun g => g.2.1 == msgSrc m.bytes)
  let exact := sent.filter (fun g => g.2.2.1 == msgTenant m.bytes)
  if exact.isEmpty then sent else exact

/-- A refused remote signal: WMK_REMOTE_NAK names its chip, Waymark and tenant, and goes to its sender (R288). A NAK carries the
tag 0 of every signal, so which of several sent to that chip it means is a free choice (log 54). -/
def remoteNak (m : Msg) (reason : Nat) (s : State) : State :=
  let ev := fun (g : Nat × Nat × Nat × Nat) (s : State) =>
    nakEvent 0xFF 4 reason (msgSrc m.bytes) 0 g.2.2.2 (if g.1 = 0 then 0xFF else g.1 - 1) g.2.2.1 s
  match nakSignals s m with
  | [] =>
    let w := nextFree 12 s
    let d := nextFree 5 w.2
    nakEvent 0xFF 4 reason (msgSrc m.bytes) 0 w.1 0xFF d.1 d.2
  | [g] => ev g s
  | g :: gs =>
    let k := nextFree 16 s
    ev ((g :: gs).getD (k.1 % (gs.length + 1)) g) k.2

/-- NAK: the refused message owner's event. A full home's request is sent again later (log 39). -/
def execNak (port : MsgPort) (s : State) : Host.Outcome State Fault Refusal :=
  onMessage port 0x27 (fun m s =>
    let op := byteAt m.bytes 10
    let reason := byteAt m.bytes 11
    let s := if op = 4 then remoteNak m reason s
      else nakEvent port op reason (msgSrc m.bytes) (msgTag m.bytes) 0 (msgTenant m.bytes) 0 s
    if reason = 0x22 ∧ (op = 1 ∨ op = 2) then
      modZth (fun z => { z with reqs := z.reqs.map (fun r =>
        if r.sent ∧ r.tag = msgTag m.bytes then { r with naked := true, sentAt := s.time.time } else r) }) s
    else s) s

/-- COMMONS_NAK_RETRY: 1 µs after a NAK 0x22 the request goes out again (R343). -/
def execCommonsNakRetry (tag : Nat) (s : State) : Host.Outcome State Fault Refusal :=
  match s.zth.reqs.find? (fun r => r.sent && r.naked && r.tag == tag) with
  | none => .next s
  | some r =>
    if s.time.time < r.sentAt + 100 then .next s
    else
      let ord := ((s.desc? r.stream r.number).elim 0 (fun d => bits d.flags 3 2)) * 8
      .next (send (mkMsg s (if r.exclusive then 2 else 1) r.home r.tenant ord r.tag (beBytes 6 r.addr) (zeros 16))
        (modZth (fun z => { z with reqs := z.reqs.map (fun x =>
          if x.tag = tag then { x with naked := false, sentAt := s.time.time } else x) }) s))

/-! ## Time limits (R346) -/

/-- Data of ZTH_CMN_TIMEOUT. -/
def cmnTimeout (a home kind : Nat) : List Byte := leBytes 6 a ++ leBytes 1 home ++ leBytes 1 kind

/-- COMMONS_REQUEST_TIMEOUT: a request fails as a device-side error of its descriptor; an eviction frees its entry. -/
def execCommonsRequestTimeout (eviction : Bool) (tag : Nat) (s : State) : Host.Outcome State Fault Refusal :=
  if eviction then
    match s.zth.evict.find? (fun l => l.entry == tag && commonsLate s l.sentAt) with
    | none => .next s
    | some l =>
      let s := raise 0x0906 l.tenant (cmnTimeout l.addr l.home 1) s
      .next (retryReqs (modZth (fun z => { z with evict := z.evict.filter (fun x => x.entry != tag) }) s))
  else
    match s.zth.reqs.find? (fun r => r.sent && r.tag == tag && commonsLate s r.sentAt) with
    | none => .next s
    | some r => .next (retryReqs (failReq r (raise 0x0906 r.tenant (cmnTimeout r.addr r.home 0) s)))

/-- COMMONS_SNOOP_TIMEOUT: the line is poisoned at home, its directory UNCACHED, the loss reported for each silent chip, and
the transaction completed; an eviction held for it is acknowledged. -/
def execCommonsSnoopTimeout (tag : Nat) (ecc : List EccFind) (s : State) : Host.Outcome State Fault Refusal :=
  match txnOf s tag with
  | none => .next s
  | some t =>
    let silent := t.awaiting ++ t.evicting
    if !t.started || silent.isEmpty || !commonsLate s t.sentAt then .next s
    else
      let s := (homeAddr s t.addr).elim s (fun d => writeLine d (memBytes s.mem d 256) (2 ^ 32 - 1) s)
      let s := setDir t.addr .uncached s
      let s := raiseCycle (silent.map (fun x => (0x0907, t.tenant, leBytes 6 t.addr ++ leBytes 1 x))) s
      let s := t.heldEvict.elim s (fun (h : Nat × Nat × List Byte × Nat) => ackEviction h.1 h.2.1 t.tenant t.addr s)
      .next (settleTxn ecc tag (modTxn tag (fun t => { t with
        awaiting := [], evicting := [], heldEvict := none, snooped := false }) s))

/-! ## Distributed ensembles (R337, R338) -/

/-- Side-list entries of a RECORD_MC. -/
def mcSide (bs : List Byte) : List SideEntry :=
  let o := 32 + alignUp (beAt bs 24 2) 8
  (List.range (byteAt bs 26)).map (fun i =>
    let e := slice bs (o + 12 * i) 12
    let fp := byteAt e 2 == 1
    ⟨beAt e 0 2, fp, if fp then beAt e 4 8 else toSigned 64 (beAt e 4 8)⟩)

/-- The FP32 pattern of a narrow value c × 2^e, which is exact (R339). -/
def narrowValue (c e : Nat) : Nat := (roundFrac fmt32 (scaleTwo (toSigned 8 c) (toSigned 8 e))).1

/-- Forwarded fields of a RECORD_MC, as the member's kept values (R340). -/
def mcKept (bs : List Byte) : Kv Kept :=
  (List.range (byteAt bs 27)).foldl (fun k i =>
    let o := mcForward bs + 4 * i
    kvSet k (beAt bs o 2) (.num true (narrowValue (byteAt bs (o + 3)) (byteAt bs (o + 2))))) []

/-- Slot codes of a RECORD_MC. -/
def mcCodes (bs : List Byte) : Kv Nat :=
  (List.range (beAt bs 24 2)).foldl (fun k i => kvPut 0xFE k i (byteAt bs (32 + i))) []

/-- A member cannot take the record: its TERM with FAIL. The member number and mode of a model it does not hold are free. -/
def failTerm (m : Msg) (model : Option Model) (reason : Nat) (s : State) : State :=
  let bs := m.bytes
  let a := if model.isSome then (0, s) else nextFree 4 s
  let b := if model.isSome then (0, a.2) else nextFree 1 a.2
  let member := model.elim (1 + a.1 % 15) (·.member)
  let mode := model.elim b.1 (fun x => if x.image.fmode then 1 else 0)
  send (termMsg b.2 (msgSrc bs) (msgTag bs) (msgTenant bs) (beAt bs 10 2) member mode (msgLatency bs) (beAt bs 16 8) 2 reason []) b.2

/-- RECORD_MC: a member takes a context for the record and it awaits admission, or its TERM says why not (R338). -/
def execRecordMc (port : MsgPort) (s : State) : Host.Outcome State Fault Refusal :=
  onMessage port 0x45 (fun m s =>
    let bs := m.bytes
    let t := msgTenant bs
    match acceptingModel s t (beAt bs 10 2) with
    | none => failTerm m none 0x40 s
    | some x =>
      if !(s.tenant t).enable then failTerm m (some x) 0x40 s
      else if (s.tenant t).quota.contexts ≤ ctxPlaces s t || !ctxFree s x then failTerm m (some x) 0x22 s
      else
        let r := { RecCtx.fresh t x.id x.handle (beAt bs 16 8) 0 (.member (msgSrc bs) (msgTag bs)) Reply.none_ s.now with
          state := .signpost, committed := true, slots := mcCodes bs, side := mcSide bs, kept := mcKept bs }
        match takeCtx r s with
        | some (_, s) => s
        | none => failTerm m (some x) 0x22 s) s

/-- Values of a TERM, in channel order. -/
def termVals (bs : List Byte) : List Val :=
  let n := byteAt bs 13
  (List.range n).map (fun i =>
    let o := 32 + alignUp n 8 + 8 * i
    ⟨if byteAt bs 14 = 1 then (beAt bs (o + 4) 4 : Nat) else toSigned 64 (beAt bs o 8), byteAt bs (32 + i)⟩)

/-- The record context waits for a member's term (R193): the wait has begun, and its expiry cycle is not past (R192). -/
def awaitsTerm (s : State) (r : RecCtx) (bs : List Byte) : Bool :=
  let k := byteAt bs 12
  r.recId == beAt bs 16 8 && r.ended.isNone && 1 ≤ k && (kvGet r.terms k).isNone &&
    (s.model? r.model).elim false (fun m => decide (k < m.image.members) &&
      r.mcAt.elim false (fun t0 => decide (s.now ≤ t0 + m.image.out.wait * 1024)))

/-- TERM: added to the ensemble row, or the wait ends at once on FAIL; a term that nothing waits for is discarded and
counted (R193, R338). -/
def execTerm (port : MsgPort) (s : State) : Host.Outcome State Fault Refusal :=
  onMessage port 0x46 (fun m s =>
    let bs := m.bytes
    let c := msgTag bs
    match s.ctx? c with
    | none => count (cSmt 2) 1 s
    | some r =>
      if !awaitsTerm s r bs then count (cSmt 2) 1 s
      else if byteAt bs 24 = 2 then
        endRecord c (if byteAt bs 25 < 0x30 then 2 else 5) (byteAt bs 25) s
      else
        let s := chargeWork 1 priceTerms s
        let s := modCtx c (fun r => { r with
          terms := kvSet r.terms (byteAt bs 12) (termVals bs), heal := r.heal || byteAt bs 24 == 1 }) s
        match s.ctx? c, s.model? r.model with
        | some r', some x =>
          if termsDone x r' then count (cSmt 1) (s.now - r'.term0At.getD s.now) s else s
        | _, _ => s) s

/-! ## Gradients of member 0 (R340, R362) -/

/-- One entry of a REFIT_GH at a member: discarded by cause, or applied (R353). -/
def applyGh (ecc : List EccFind) (id : Nat) (eg eh : Nat) (e : List Byte) (s : State) : State :=
  match s.model? id, s.refit? id with
  | some m, some x =>
    let recId := beAt e 0 8
    let c := byteAt e 8
    let f : Feedback := ⟨m.id, m.tenant, recId, 0, c, true, none⟩
    let s := lookupReads ecc m x recId s
    match feedbackFault s m x f, traceLookup s m x recId with
    | some k, _ => count (cTen m.tenant (tRft k)) 1 s
    | none, some off =>
      applyFeedback (shiftEcc (lookupWords m) ecc) m x off recId c (scaleTwo (toSigned 8 (byteAt e 9)) (toSigned 8 eg))
        (scaleTwo (toSigned 8 (byteAt e 10)) (toSigned 8 eh)) false s
    | none, none => s
  | _, _ => s

/-- REFIT_GH: a member decodes member 0's narrow gradients and applies them to its traced leaves (R340, R362). The finds of entry
`i` are numbered from `i` × 2^20 on. -/
def execRefitGh (port : MsgPort) (s : State) (ecc : List EccFind := []) : Host.Outcome State Fault Refusal :=
  onMessage port 0x47 (fun m s =>
    let bs := m.bytes
    match s.handle? (msgTenant bs) (beAt bs 10 2) with
    | none => s
    | some x =>
      if x.member = 0 then s
      else (List.range (byteAt bs 16)).foldl (fun s i =>
        applyGh (shiftEcc (2 ^ 20 * i) ecc) x.id (byteAt bs 17) (byteAt bs 18) (slice bs (32 + 12 * i) 12) s) s) s

/-! ## PING and PONG -/

/-- PING: answered with a PONG that echoes its tag and operand (R330). -/
def execPing (port : MsgPort) (s : State) : Host.Outcome State Fault Refusal :=
  onMessage port 0x60 (fun m s =>
    send (mkMsg s 0x61 (msgSrc m.bytes) (msgTenant m.bytes) 0 (msgTag m.bytes) (slice m.bytes 10 6) (zeros 16)) s) s

/-- PONG: received (R330). -/
def execPong (port : MsgPort) (s : State) : Host.Outcome State Fault Refusal := onMessage port 0x61 (fun _ s => s) s

/-! ## Commons windows (R341, R382) -/

/-- COMMONS_WINDOW create lands: the window stands with its directory. -/
def windowCreateEffect (t id : Nat) (plots dir : List Nat) (s : State) : State :=
  modZth (fun z => { z with windows := z.windows ++ [⟨t, id, plots⟩], dirPlots := z.dirPlots ++ [⟨t, id, dir⟩] }) s

/-- COMMONS_WINDOW remove lands: every cached line is recalled, then the plots are zeroised. -/
def windowRemoveEffect (id : Nat) (s : State) : State :=
  settleRemovals (modZth (fun z => { z with removing := setAdd z.removing id }) s)

/-- A window id is in use, or its creation is on its way. -/
def windowUsed (s : State) (id : Nat) : Bool :=
  s.zth.windows.any (·.id == id) || s.due.any (fun d => match d.2 with | .windowCreate _ i _ _ => i == id | _ => false)

/-- COMMONS_WINDOW create's own rules. -/
def windowCreateCheck (s : State) (pl : List Byte) (t : Nat) : Option Refused :=
  let n := leAt pl 2 2
  firstRefusal [
    unless_ (!windowUsed s (byteAt pl 1)) (atField errBusy 1),
    unless_ (1 ≤ n && n ≤ 912) (atField errBadConfig 2),
    if 1 ≤ n ∧ n ≤ 912 then plotRow s t (n + ceilDiv n 4) else none]

/-- COMMONS_WINDOW create (R382): the plots are taken at once, the window stands from the Milestone. -/
def execCommonsWindowCreate (fn : Fn) (s : State) : Host.Outcome State Fault Refusal :=
  runCommand fn 0x0106 (opIs 0 1) windowCreateCheck (fun pl t s =>
    let n := leAt pl 2 2
    let ps := (freePlots s).take (n + ceilDiv n 4)
    let s := ps.foldl (fun s p => takePlot p (.data, some t) s) s
    respondMilestone fn [] (later (.windowCreate t (byteAt pl 1) (ps.take n) (ps.drop n)) s)) s

/-- COMMONS_WINDOW remove's own rules. -/
def windowRemoveCheck (s : State) (pl : List Byte) (t : Nat) : Option Refused :=
  unless_ (s.zth.windows.any (fun w => w.id == byteAt pl 1 && w.tenant == t) && !s.zth.removing.contains (byteAt pl 1))
    (atField errBusy 1)

/-- COMMONS_WINDOW remove (R382). -/
def execCommonsWindowRemove (fn : Fn) (s : State) : Host.Outcome State Fault Refusal :=
  runCommand fn 0x0106 (opIs 0 2) windowRemoveCheck (fun pl t s =>
    respondWait fn [] (later (.windowRemove t (byteAt pl 1)) s)) s

end Sys2Proof.Machine
end

