-- ==== Sys2Proof/Machine/Dma.lean ====
section
/-! DEFINITION. Host DMA: tails, descriptors, request issue, elements, translations, page faults, answers, completion and the stream commands (chapter 14, R389). -/

namespace Sys2Proof.Machine

/-! ## Tails (R297, R298) -/

/-- A write of a stream's tail: accepted, or ignored and counted (R298). -/
def writeTail (f j value : Nat) (s : State) : State :=
  let g := 8 * f + j
  let x := s.stream g
  let v := value % 2 ^ 32
  let posted := (v + 2 ^ 32 - x.head) % 2 ^ 32
  if !s.windowOpen f then s
  else if x.mode = .stopped ∨ 2 ^ x.sizeExp < posted ∨ posted < (x.tail + 2 ^ 32 - x.head) % 2 ^ 32 then count (cStr g 7) 1 s
  else modStream g (fun x => { x with tail := v }) s

/-- DMA_RING_TAIL_WRITE (R298). -/
def execDmaRingTailWrite (fn : Fn) (stream : Fin 8) (value : Nat) (s : State) : Host.Outcome State Fault Refusal :=
  .next (writeTail fn stream value s)

/-! ## Fetching and starting descriptors (R298 to R300, R306, R315) -/

/-- A fetched descriptor (Table 14.3). -/
def parseDesc (s : State) (g n : Nat) (bs : List Byte) : Desc :=
  let f := fnOf g
  let w := leAt bs 40 2
  let sg := leAt bs 42 2
  { number := n, opcode := byteAt bs 0, flags := byteAt bs 1, tag := leAt bs 2 2, l0 := leAt bs 4 4, n1 := leAt bs 8 2
    n2 := leAt bs 10 2, timeout := leAt bs 12 4, host := leAt bs 16 8, s1 := toSigned 32 (leAt bs 24 4)
    s2 := toSigned 32 (leAt bs 28 4), second := leAt bs 32 8
    waitWmk := (wmkIndex s f (bits w 11 0)).getD 0
    signalWmk := if bit sg 15 then wmkIndex s f (bits sg 11 0) else none
    target := leAt bs 44 4, issued := 0, elements := 0, firstFlagged := none, status := 0, started := false, halted := false
    statusDue := false, waiting := none, waitRes := none, answersLost := false, cut := none, done := false, haltedAt := 0 }

/-- The opcode suits the stream's kind. -/
def opcodeSuits (copy : Bool) (op : Nat) : Bool := op == 4 || (if copy then op == 2 || op == 3 else op == 1)

/-- L0, N1 and N2 are legal for the opcode. -/
def sizesOk (d : Desc) : Bool :=
  if d.opcode = 4 then d.l0 == 0 && d.n1 == 0 && d.n2 == 0
  else 1 ≤ d.n1 && 1 ≤ d.n2 && (if d.opcode = 1 then 24 ≤ d.l0 && d.l0 ≤ 9216 else 1 ≤ d.l0 && d.l0 ≤ 65536)

/-- An enabled Waymark field names a Waymark of the function. -/
def wmkFieldOk (s : State) (f w : Nat) : Bool := !bit w 15 || (wmkIndex s f (bits w 11 0)).isSome

/-- A copy names an allocation its tenant holds and stays inside it. -/
def copyFits (s : State) (g : Nat) (d : Desc) : Bool :=
  (copyTarget s (tenantOf g) d.alloc).elim false (fun x => d.offset + d.total * d.l0 ≤ x.size)

/-- The descriptor is refused as BAD_DESC (R300). -/
def badDesc (s : State) (g : Nat) (bs : List Byte) (d : Desc) : Bool :=
  let f := fnOf g
  bits d.flags 7 5 != 0 || bits (leAt bs 40 2) 14 12 != 0 || bits (leAt bs 42 2) 14 12 != 0 ||
    !opcodeSuits (s.stream g).copy d.opcode || !sizesOk d || !wmkFieldOk s f (leAt bs 40 2) || !wmkFieldOk s f (leAt bs 42 2) ||
    ((d.opcode == 2 || d.opcode == 3) && !copyFits s g d) || (d.opcode == 1 && d.second % 64 != 0)

/-- The stream's ring may be read: its tenant is enabled and not preempted, and a record stream waits out HOT105 (R255, R268,
R386, log 44). -/
def ringsRead (s : State) (g : Nat) : Bool :=
  (g < 8 || ((s.tenant (tenantOf g)).enable && !(s.tenant (tenantOf g)).preempted)) && ((s.stream g).copy || s.disp.level < 2)

/-- A descriptor's wait fails: no data moves, and under abort its task ends (R315). -/
def waitFailed (g n : Nat) (st : WaitState) (s : State) : State :=
  let s := if st = .timeout ∧ 8 ≤ g then count (cTen (tenantOf g) tWaitTimeouts) 1 s else s
  let s := modDesc g n (fun d => { d with cut := some 0, status := 4, waitRes := some st }) s
  if (s.stream g).abort then endTask g n 4 s else s

/-- In-flight room and transfer slots are there (R298, R306). -/
def inflightRoom (x : Stream) : Bool := x.descs.countP Desc.inFlight < x.inflight
def slotRoom (s : State) (g : Nat) (d : Desc) : Bool := transferUsed s (fnOf g) + d.slots ≤ transferShare s (fnOf g)

/-- Start a fetched descriptor if its wait, in-flight room and transfer slots allow (R298). -/
def tryStart (g n : Nat) (s : State) : State :=
  match s.desc? g n with
  | none => s
  | some d =>
    let go := fun (s : State) =>
      if inflightRoom (s.stream g) && slotRoom s g d then modDesc g n (fun d => { d with started := true }) s else s
    match d.waiting, d.waitRes with
    | none, _ => go s
    | some _, some .satisfied => go s
    | some _, some st => waitFailed g n st s
    | some (k, c), none => if timeoutPast d.timeout k c s.time then waitFailed g n .timeout s else s

/-- Arm a descriptor's wait (R280, R315). -/
def armDesc (g n : Nat) (bs : List Byte) (s : State) : State :=
  if !bit (leAt bs 40 2) 15 then s
  else modDesc g n (fun d => { d with
    waiting := some (s.time.tick, s.time.time), waitRes := armOutcome (s.waymark d.waitWmk) d.target }) s

/-- Fetch the next descriptor of a ring: one of a failed task, or an illegal one, completes without moving data. -/
def fetchDesc (g : Nat) (bs : List Byte) (s : State) : State :=
  let x := s.stream g
  let n := (x.head + x.descs.length) % 2 ^ 32
  let d := parseDesc s g n bs
  let s := hostRead (fnOf g) (x.ringBase + 64 * ringIndex x n) 48 (modStream g (fun x => { x with descs := x.descs ++ [d] }) s)
  if d.tag ≠ 0 ∧ x.failed.contains d.tag then
    stopDesc g n 3 (if d.isEnd then modStream g (fun x => { x with failed := x.failed.filter (· != d.tag) }) s else s)
  else if badDesc s g bs d then
    endTask g n 5 (modDesc g n (fun d => { d with cut := some 0, status := 5 }) s)
  else tryStart g n (armDesc g n bs s)

/-- DESCRIPTOR_START: the newest fetched descriptor starts if it now can; with none waiting, the ring's next is fetched
(R298, log 40). -/
def execDescriptorStart (stream : StreamId) (descriptor : List Byte) (s : State) : Host.Outcome State Fault Refusal :=
  let g := stream.val
  let s := wmkFlush s
  let x := s.stream g
  if x.mode ≠ .running ∨ x.stopDue ∨ !ringsRead s g then .next s
  else
    match x.descs.getLast? with
    | some d =>
      if !d.started && !d.over then .next (tryStart g d.number s)
      else if (x.head + x.descs.length) % 2 ^ 32 = x.tail then .next s
      else .next (fetchDesc g descriptor s)
    | none => if x.head = x.tail then .next s else .next (fetchDesc g descriptor s)

/-- The stream's next descriptor waits for transfer slots in this cycle (R306, DMA_STALL_SLOT). -/
def slotStall (s : State) (g : Nat) : Bool :=
  let x := s.stream g
  match x.descs.getLast? with
  | some d => !d.started && !d.over && (d.waiting.isNone || d.waitRes == some .satisfied) && inflightRoom x && !slotRoom s g d
  | none => false

/-! ## Issuing requests (R304, R308) -/

/-- An access waits for a Translation Completion. -/
def awaitsPages (s : State) (f : Nat) (ps : List (Nat × Bool)) : Bool :=
  ps.any (fun p => !granted s f p.1 p.2 && s.dma.xlate.contains (f, p.1))

/-- Places in the THROUGHPUT queue that a tenant's ring records take or will take. -/
def ringPlaces (s : State) (t : Nat) : Nat :=
  waitingOf s t + elementsOut (tenantStreams s t) +
    s.ctxs.countP (fun p => p.2.tenant == t && isRing p.2 && (p.2.state == .trailhead || p.2.state == .signpost))

/-- An unreserved record context, a place under the context quota and one in the THROUGHPUT queue are free for one more ring
record: it keeps them from its request on (R254, R302, R304). -/
def recordGate (s : State) (g : Nat) : Bool :=
  ringsRead s g && unreservedFree s &&
    (g < 8 ||
      (let t := tenantOf g
       ctxPlaces s t < (s.tenant t).quota.contexts && ringPlaces s t < (s.tenant t).quota.tpQueue))

/-- A descriptor's next request can be issued: staging room, a record's places, its translations not on their way. -/
def descReady (s : State) (g : Nat) (d : Desc) : Bool :=
  let x := s.stream g
  d.started && !d.over && !d.halted && d.issued < d.limit && !awaitsPages s (fnOf g) (elementPages d d.issued) &&
    (!d.inbound || x.fill + 256 * d.units ≤ x.staging) && (d.opcode != 1 || recordGate s g)

/-- A request that a stream has ready: a firmware fetch's next one (R296), the write of its first answer, or an element's. -/
inductive StreamReq where
  | fetch (f : Fetch)
  | answer
  | element (d : Desc)
deriving DecidableEq, Repr

/-- The first answer of a stream stands in staging and its write can be issued. -/
def answerReady (s : State) (g : Nat) : Bool :=
  (s.stream g).answers.head?.elim false (fun a => a.staged && !a.issued) && (answerPlace s g).isSome &&
    !awaitsPages s (fnOf g) (answerPages s g) && s.dma.pris.all (fun w => w.who != .answer g)

/-- The request a stream issues next: an answer goes ahead of an element (log 133). -/
def streamReq (s : State) (g : Nat) : Option StreamReq :=
  if answerReady s g then some .answer else ((s.stream g).descs.find? (descReady s g)).map .element

/-- Pages of a firmware fetch's next request. -/
def fetchPages (f : Fetch) : List (Nat × Bool) := [((f.addr % 2 ^ 64) / 4096, false)]

/-- Firmware's fetch has a request ready: the oldest one only (R296). -/
def fetchReady (s : State) : Option StreamReq :=
  match s.dma.fetches with
  | [] => none
  | f :: _ => if awaitsPages s 0 (fetchPages f) || s.dma.pris.any (fun w => w.who == .fetch) then none else some (.fetch f)

/-- Every request ready, by stream: firmware's fetches are stream 7's, as bulk (R296). -/
def readyReqs (s : State) : List (Nat × StreamReq) :=
  (List.range 264).flatMap (fun g => ((streamReq s g).map (fun r => (g, r))).toList ++
    (if g = 7 then (fetchReady s).toList.map (fun r => (7, r)) else []))

/-- The drain rate at which a request competes: 0 is bulk. -/
def reqRate (s : State) (g : Nat) : StreamReq → Nat
  | .fetch _ => 0
  | _ => (s.stream g).rate

/-- Nanoseconds until a stream's buffer is empty, for an inbound request, or full (R308). -/
def timeLeft (x : Stream) : StreamReq → Nat
  | .element d => (if d.inbound then x.fill else x.staging - x.fill) * 1000 / x.rate
  | _ => (x.staging - x.fill) * 1000 / x.rate

/-- The request R308 chooses, with its stream, and whether it is bulk. -/
def chooseStream (s : State) : Option (Nat × StreamReq × Bool) :=
  let ready := readyReqs s
  let rated := ready.filter (fun p => reqRate s p.1 p.2 != 0)
  let bulk := ready.filter (fun p => reqRate s p.1 p.2 == 0)
  match rated.foldl (fun best p =>
      match best with
      | none => some p
      | some b => if timeLeft (s.stream p.1) p.2 < timeLeft (s.stream b.1) b.2 then some p else some b)
      (none : Option (Nat × StreamReq)) with
  | some p => some (p.1, p.2, false)
  | none =>
    match bulk.find? (fun p => s.dma.bulkPtr ≤ p.1), bulk.head? with
    | some p, _ => some (p.1, p.2, true)
    | none, some p => some (p.1, p.2, true)
    | none, none => none

/-- Issue the next request of a descriptor: its pages are looked up, and with all of them granted it is on its way. -/
def issueElement (g : Nat) (d : Desc) (s : State) : State :=
  let r := lookup (fnOf g) (elementPages d d.issued) s
  if !r.1 then r.2
  else
    let s := modStream g (fun x => { x with fill := x.fill + 256 * d.units })
      (modDesc g d.number (fun d => { d with issued := d.issued + 1 }) r.2)
    if d.inbound then hostRead (fnOf g) (d.addr d.issued) d.l0 s else s

/-- Mark a stream's first answer as issued, or not. -/
def markAnswer (g : Nat) (on : Bool) (s : State) : State :=
  modStream g (fun x => { x with answers := match x.answers with
    | [] => []
    | a :: rest => { a with issued := on } :: rest }) s

/-- Issue the write of a stream's first answer, once its pages are granted. -/
def issueAnswer (g : Nat) (s : State) : State :=
  let r := lookup (fnOf g) (answerPages s g) s
  if r.1 then markAnswer g true r.2 else r.2

/-- Issue the next request of firmware's first fetch: at most a Max Read Request, inside a page (R296, R301). -/
def issueFetch (f : Fetch) (s : State) : State :=
  let r := lookup 0 (fetchPages f) s
  if !r.1 then r.2
  else
    let n := min (min f.left ((kvGet s.dma.maxRead 0).getD 512)) (4096 - f.addr % 4096)
    let next : Fetch := { f with addr := f.addr + n, left := f.left - n }
    modDma (fun d => { d with fetches := (if next.left = 0 then [] else [next]) ++ d.fetches.drop 1 }) (hostRead 0 f.addr n r.2)

/-- Issue a request. -/
def issueReq (g : Nat) (r : StreamReq) (s : State) : State :=
  match r with
  | .fetch f => issueFetch f s
  | .answer => issueAnswer g s
  | .element d => issueElement g d s

/-- DMA_REQUEST_ISSUE: one issue opportunity (R308). -/
def execDmaRequestIssue (s : State) : Host.Outcome State Fault Refusal :=
  match chooseStream s with
  | none => .next (modDma (fun d => { d with chosen := none }) s)
  | some (g, r, bulk) =>
    let others := ((List.range 264).filter (fun h => h != g && (readyReqs s).any (fun p => p.1 == h)))
    let s' := others.foldl (fun s h => count (cStr h 1) 1 s) s
    .next (issueReq g r (modDma (fun d => { d with chosen := some g, bulkPtr := if bulk then (g + 1) % 264 else d.bulkPtr }) s'))

/-! ## The order of a stream's Massif and Commons accesses (R291 to R293) -/

/-- A copy's elements whose accesses have not all been performed. -/
def Desc.unperformed (d : Desc) : Bool := d.isCopy && d.elements < d.limit

/-- Words of an allocation that elements `k` up to `n` of a copy touch: first, and one past the last. -/
def Desc.words (d : Desc) (k n : Nat) : Nat × Nat := ((d.offset + k * d.l0) / 8, ceilDiv (d.offset + n * d.l0) 8)

/-- Accesses of an earlier descriptor still to come and element `k` of a later one conflict: a word of both, stored by one. -/
def conflicts (e d : Desc) (k : Nat) : Bool :=
  let a := e.words e.elements e.limit
  let b := d.words k (k + 1)
  e.alloc == d.alloc && a.1 < b.2 && b.1 < a.2 && !(e.isLoad && d.isLoad)

/-- Element `k` of a copy may access memory beside the earlier descriptors of its stream: a full fence and a RELEASE store
follow every earlier access, an earlier ACQUIRE or FENCED load holds every later one back, and accesses to one word take
effect in the stream's order (R291, R292). -/
def mayAccess (s : State) (g : Nat) (d : Desc) (k : Nat) : Bool :=
  let earlier := ((s.stream g).descs.takeWhile (·.number != d.number)).filter Desc.unperformed
  earlier.isEmpty ||
    (d.order != 3 && (d.order != 2 || d.isLoad) &&
      earlier.all (fun e => !(e.isLoad && (e.order == 1 || e.order == 3)) && !conflicts e d k))

/-! ## Elements (R301, R302, R305, R313, R317) -/

/-- The pieces of `n` bytes at offset `o` of an allocation that lie in one plot each: device address, offset of the piece in
the element, length. -/
def pieces (plots : List Nat) : Nat → Nat → Nat → Nat → List (Nat × Nat × Nat)
  | 0, _, _, _ => []
  | fuel + 1, o, done, n =>
    if n = 0 then []
    else
      let k := min n (plotSize - o % plotSize)
      (plotAddr plots o, done, k) :: pieces plots fuel (o + k) (done + k) (n - k)

/-- The plot at a device address is a DATA plot of the tenant (Table 11.4). -/
def ownsPlot (s : State) (t a : Nat) : Bool := s.plot (a / plotSize) == (.data, some t)

/-- One Commons access per line of an element (R342). -/
def lineAccesses (g : Nat) (d : Desc) (k home window : Nat) (data : List Byte) : List CReq :=
  let o := d.offset + k * d.l0
  (List.range ((o + d.l0 - 1) / 256 + 1 - o / 256)).map (fun i =>
    let line := (o / 256 + i) * 256
    let a := max o line
    let b := min (o + d.l0) (line + 256)
    { tag := 0, home := home, addr := window * 2 ^ 40 + line, tenant := tenantOf g, exclusive := d.opcode == 2, sentAt := 0
      sent := false, naked := false, stream := g, number := d.number, host := (d.addr k + (a - o)) % 2 ^ 64
      offset := a - line, len := b - a, store := slice data (a - o) (b - a) })

/-- COPY_IN of an element into a DATA allocation. -/
def copyIn (g : Nat) (d : Desc) (k : Nat) (plots : List Nat) (data : List Byte) (ecc : List EccFind) (s : State) : State :=
  let o := d.offset + k * d.l0
  let ps := pieces plots 2 o 0 d.l0
  match ps.find? (fun (p : Nat × Nat × Nat) => !ownsPlot s (tenantOf g) p.1) with
  | some p => ownerStop g d.number (ownerFault 7 (tenantOf g) p.1 s)
  | none =>
    let r := ps.foldl (fun (x : Bool × State) (p : Nat × Nat × Nat) =>
      let w := writeAll (shiftEcc ((o + p.2.1) / 8 - o / 8) ecc) 7 p.1 (slice data p.2.1 p.2.2) x.2
      (x.1 || !w.1.isEmpty, w.2)) (false, s)
    elementDone g d.number r.1 r.2

/-- COPY_OUT of an element from a DATA allocation: a poisoned word goes out as a poisoned TLP. -/
def copyOut (g : Nat) (d : Desc) (k : Nat) (plots : List Nat) (ecc : List EccFind) (s : State) : State :=
  let o := d.offset + k * d.l0
  let ps := pieces plots 2 o 0 d.l0
  match ps.find? (fun (p : Nat × Nat × Nat) => !ownsPlot s (tenantOf g) p.1) with
  | some p => ownerStop g d.number (ownerFault 7 (tenantOf g) p.1 s)
  | none =>
    let s := ps.foldl (fun s (p : Nat × Nat × Nat) => readMem (shiftEcc ((o + p.2.1) / 8 - o / 8) ecc) 7 p.1 p.2.2 s) s
    let bad := fun (x n : Nat) => (ps.any (fun (p : Nat × Nat × Nat) =>
      let a := max x p.2.1
      let b := min (x + n) (p.2.1 + p.2.2)
      a < b && (firstPoison s.mem (p.1 + (a - p.2.1)) (b - a)).isSome))
    let bs := ps.flatMap (fun (p : Nat × Nat × Nat) => memBytes s.mem p.1 p.2.2)
    elementDone g d.number (bad 0 d.l0) (hostWriteBy (fnOf g) (d.addr k) bs bad s)

/-- DMA_ELEMENT: the oldest issued element of a descriptor is delivered to Trailhead, Massif or the Commons, or written to the
host (R301, R302, R305). -/
def execDmaElement (stream : StreamId) (number : Nat) (data : List Byte) (ecc : List EccFind) (s : State)
    (tables : List EccFind := []) :
    Host.Outcome State Fault Refusal :=
  let g := stream.val
  match s.desc? g number with
  | none => .next s
  | some d =>
    let k := d.elements
    let bs := fitBytes data d.l0
    if d.issued ≤ k ∨ d.limit ≤ k ∨ s.zth.reqs.any (fun r => r.stream == g && r.number == number) then .next s
    else if d.opcode = 1 then .next (elementDone g number false (ringElement g number k d.reasonSlots (tenantOf g) bs tables s))
    else if !mayAccess s g d k then .next s
    else
      match copyTarget s (tenantOf g) d.alloc with
      | some (.massif ps) => .next (if d.opcode = 2 then copyIn g d k ps bs ecc s else copyOut g d k ps ecc s)
      | some (.window home w _) => .next (commonsAccesses ecc (lineAccesses g d k home w bs) s)
      | none => .next s

/-- COMPLETION_TIMEOUT: with ATS disabled, a read that fails is a failed PRI at its element (R309). -/
def execCompletionTimeout (stream : StreamId) (number : Nat) (s : State) : Host.Outcome State Fault Refusal :=
  let g := stream.val
  match s.desc? g number with
  | none => .next s
  | some d =>
    if s.dma.ats.contains (fnOf g) || !d.inbound || d.issued ≤ d.elements || d.limit ≤ d.elements then .next s
    else .next (faultMode g number d.elements (raisePriFail g number d.elements (d.addr d.elements) s))

/-! ## Page faults (R311, R312, R441) -/

/-- Firmware's first fetch fails: its load is refused with the image offset it had reached, or its block is never healed
(R220, R245). DMA_PRI_FAIL names stream 7; a fetch has no ring index and no element, and no rule states them (log 133). -/
def failFetch (s : State) : State :=
  match s.dma.fetches with
  | [] => s
  | f :: rest =>
    let idx := nextFree 16 s
    let k := nextFree 32 idx.2
    let s := raise 0x0801 0xFF (leBytes 2 7 ++ leBytes 2 idx.1 ++ leBytes 4 k.1 ++ leBytes 8 f.addr) (count (cDma 5) 1 k.2)
    let s := modDma (fun d => { d with fetches := rest }) s
    match f.what with
    | .image => s.load.elim s (fun j => failLoad j (errDmaFault, leBytes 8 (loadSize (pagePayload j.page) - f.left)) s)
    | .heal b =>
      let s := modMem (fun m => { m with healReads := m.healReads.erase b }) s
      (s.model? b.model).elim s (fun m => healFail m b.off 1 s)

/-- What waited fails its PRI. -/
def failWho (w : PriWait) (s : State) : State :=
  match w.who with
  | .element g n => failElement g n s
  | .answer g => failAnswer g s
  | .status g n => failStatus g n s
  | .event f =>
    markLost f (count (cFn f 3) 1 (count (cDma 5) 1
      (modFn f (fun x => { x with evq := { x.evq with waiting := x.evq.waiting.drop 1 } }) s)))
  | .fetch => failFetch s

/-- Send the Page Requests of a function that wait, in order, while its Outstanding Page Request Allocation has room (R311). -/
def pumpPri (f : Nat) (s : State) : State :=
  (s.dma.pris.filter (fun w => w.fn == f && !w.sent)).foldl (fun s w =>
    if s.dma.pris.countP (fun x => x.fn == f && x.sent && !x.again) < (kvGet s.dma.priAlloc f).getD 0 then
      emit (.pageRequest f w.page) (count (cDma 4) 1 (modDma (fun d => { d with
        pris := d.pris.map (fun x => if x.who = w.who then { x with sent := true, since := s.time.time } else x) }) s))
    else s) s

/-- Ask for a page with a Page Request, or fail what waits for it where PRI is not enabled (R311, R312). -/
def requestPri (who : PriWho) (f page : Nat) (write : Bool) (s : State) : State :=
  let w : PriWait := ⟨who, f, page, write, false, s.time.time, false⟩
  if s.dma.pris.any (fun x => x.who == who) then s
  else if s.dma.pri.contains f then pumpPri f (modDma (fun d => { d with pris := d.pris ++ [w] }) s)
  else failWho w s

/-- Take page faults off the list and act on each. -/
def forPris (sel : PriWait → Bool) (act : PriWait → State → State) (s : State) : State :=
  let xs := s.dma.pris.filter sel
  xs.foldl (fun s w => act w s) (modDma (fun d => { d with pris := d.pris.filter (fun w => !sel w) }) s)

/-- A page fault still holds a descriptor: of its element, or of the stream's first answer, which is its own. -/
def heldByPri (s : State) (g n : Nat) : Bool :=
  s.dma.pris.any (fun w => w.who == .element g n ||
    (w.who == .answer g && (s.stream g).answers.head?.elim false (·.number == n)))

/-- A descriptor goes on once no page fault holds it. -/
def resumeDesc (g n : Nat) (s : State) : State :=
  if heldByPri s g n then s else modDesc g n (fun d => { d with halted := false, statusDue := false }) s

/-- A page translated again is granted: what waited goes on. -/
def resumeWho (w : PriWait) (s : State) : State :=
  match w.who with
  | .element g n => resumeDesc g n s
  | .answer g => ((s.stream g).answers.head?).elim s (fun a => resumeDesc g a.number s)
  | _ => s

/-- A descriptor halts at element `k` and asks for a page, the element's own or its answer's (R311, R441). -/
def haltDesc (who : PriWho) (g n k page : Nat) (write : Bool) (s : State) : State :=
  let s := if (s.desc? g n).elim true (·.halted) then s
    else writeHalted g n (modDesc g n (fun d => { d with halted := true, haltedAt := k }) s)
  requestPri who (fnOf g) page write s

/-- Page of the first waiting entry of an event queue. -/
def eventPage (s : State) (f : Nat) : Nat :=
  let q := (s.fn f).evq
  (q.base + 32 * (q.tail % 2 ^ q.k)) / 4096

/-- New page faults of a function on the pages of a completion: at the next elements of descriptors, first answers, status
words, firmware's fetch and event entries. -/
def newFaults (f page size : Nat) (s : State) : State :=
  let hit := fun (s : State) (p : Nat × Bool) => page ≤ p.1 && p.1 < page + size && !granted s f p.1 p.2
  let s := (streamsOf f).foldl (fun s g =>
    (s.stream g).descs.foldl (fun s d =>
      if d.started && !d.over && !d.halted && d.issued < d.limit then
        ((elementPages d d.issued).find? (hit s)).elim s (fun (p : Nat × Bool) =>
          haltDesc (.element g d.number) g d.number d.issued p.1 p.2 s)
      else s) s) s
  let s := (streamsOf f).foldl (fun s g =>
    (answerPlace s g).elim s (fun (x : RingAnswer × Desc × Nat) =>
      if !x.1.staged || x.1.issued then s
      else ((answerPages s g).find? (hit s)).elim s (fun (p : Nat × Bool) =>
        haltDesc (.answer g) g x.1.number x.1.element p.1 true s))) s
  let s := (streamsOf f).foldl (fun s g =>
    (s.stream g).descs.foldl (fun s d =>
      if (d.statusDue || (d.over && !d.done)) && hit s (statusPage s g d.number, true) then
        requestPri (.status g d.number) f (statusPage s g d.number) true s
      else s) s) s
  let s := if f ≠ 0 then s
    else (s.dma.fetches.head?).elim s (fun x => ((fetchPages x).find? (hit s)).elim s (fun (p : Nat × Bool) =>
      requestPri .fetch 0 p.1 false s))
  if !(s.fn f).evq.waiting.isEmpty && hit s (eventPage s f, true) then requestPri (.event f) f (eventPage s f) true s else s

/-- Status words with HALTED whose page is there now. -/
def writeDueStatus (f : Nat) (s : State) : State :=
  (streamsOf f).foldl (fun s g =>
    (s.stream g).descs.foldl (fun s d =>
      if d.statusDue && granted s f (statusPage s g d.number) true then writeHalted g d.number s else s) s) s

/-- TRANSLATION_COMPLETION: it fills the IOTLB; what was asked again resumes or fails, and a page that grants too little is a
page fault (R309, R311, R312). -/
def execTranslationCompletion (fn : Fn) (page sizeLog2 : Nat) (read write : Bool) (s : State) (target : Nat := page) :
    Host.Outcome State Fault Refusal :=
  let f := fn.val
  if !s.dma.xlate.contains (f, page) then .next s
  else
    let size := 2 ^ (sizeLog2 - 12)
    let base := page / size * size
    let s := modDma (fun d => { d with xlate := d.xlate.filter (fun x => x != (f, page)) }) s
    let s := if read || write then insertTranslation f base (target / size * size) size read write s else s
    let s := forPris (fun w => w.again && w.fn == f && base ≤ w.page && w.page < base + size)
      (fun w s => if granted s f w.page w.write then resumeWho w s else failWho w s) s
    let s := newFaults f base size (writeDueStatus f s)
    .next (pumpPri f (s.dma.pris.foldl (fun s w => if w.again then askTranslation w.fn w.page s else s) s))

/-- The PRI limit of what waits, in counts of 10 ns: its stream's, or 100 ms for an event entry (R312, R441). -/
def priLimit (s : State) (w : PriWait) : Nat :=
  match w.who with
  | .element g _ => (s.stream g).priMs * 100000
  | .answer g => (s.stream g).priMs * 100000
  | .status g _ => (s.stream g).priMs * 100000
  | .event _ => 10000000
  | .fetch => (s.stream 7).priMs * 100000

/-- A Page Request sent, unanswered, whose limit is over: a response of the cycle in which it expires still counts (R312). -/
def priLate (s : State) (w : PriWait) : Bool := w.sent && !w.again && decide (w.since + priLimit s w < s.time.time)

/-- PAGE_REQUEST_RESPONSE: Success translates the page again; any other response, or one past the limit, fails the PRI (R311,
R312). -/
def execPageRequestResponse (fn : Fn) (page : Nat) (response : PriResponse) (s : State) : Host.Outcome State Fault Refusal :=
  let mine := fun (w : PriWait) => w.fn == fn.val && w.page == page && w.sent && !w.again
  let s := forPris (fun w => mine w && priLate s w) failWho s
  if !s.dma.pris.any mine then .next (pumpPri fn s)
  else if response = .success then
    .next (pumpPri fn (askTranslation fn page (modDma (fun d => { d with
      pris := d.pris.map (fun w => if mine w then { w with again := true } else w) }) s)))
  else .next (pumpPri fn (forPris mine failWho s))

/-- PRI_LIMIT_EXPIRY: no response within the limit fails the PRI (R312). -/
def execPriLimitExpiry (fn : Fn) (page : Nat) (s : State) : Host.Outcome State Fault Refusal :=
  .next (pumpPri fn (forPris (fun w => w.fn == fn.val && w.page == page && priLate s w) failWho s))

/-- ATS_INVALIDATE_REQUEST: matching entries grant nothing any more; the completion follows the requests issued under them
(R310). -/
def execAtsInvalidateRequest (fn : Fn) (page sizeLog2 : Nat) (s : State) : Host.Outcome State Fault Refusal :=
  let size := 2 ^ (sizeLog2 - 12)
  .next (settleInvals (modDma (fun d => { d with
    iotlb := d.iotlb.map (fun e => if e.meets fn page size then { e with read := false, write := false } else e)
    invals := d.invals ++ [(fn.val, page, size)] }) s))

/-! ## Answers and completion (R303, R316) -/

/-- RING_ANSWER_WRITE: the stream's first answer, once issued, is written: bytes 8 onward and then bytes 0 to 7. Its staging is
free from the next cycle on (R272, R303). With its translation gone meanwhile it is issued again (R310, R441). -/
def execRingAnswerWrite (stream : StreamId) (s : State) : Host.Outcome State Fault Refusal :=
  let g := stream.val
  match (s.stream g).answers with
  | [] => .next s
  | a :: rest =>
    match answerPlace s g with
    | none =>
      .next (stageAnswers g (freeContext? a.ctx
        (modStream g (fun x => { x with answers := rest, fill := x.fill - (if a.staged then a.size else 0) }) s)))
    | some (_, _, slot) =>
      if !a.issued then .next s
      else if !(answerPages s g).all (fun p => granted s (fnOf g) p.1 p.2) then .next (settleInvals (markAnswer g false s))
      else
        let s := hostWrite (fnOf g) slot (a.bytes.take 8) false (hostWrite (fnOf g) (slot + 8) (a.bytes.drop 8) false s)
        .next (settleInvals (giveBack [.ring g a.size] (count (cStr g 4) (ceilDiv a.bytes.length 256)
          (modStream g (fun x => { x with answers := rest }) s))))

/-- DESCRIPTOR_COMPLETE: with every write performed, the status word is written with DONE, the Waymark is signalled and HEAD
advances (R316). -/
def execDescriptorComplete (stream : StreamId) (number : Nat) (s : State) : Host.Outcome State Fault Refusal :=
  let g := stream.val
  match s.desc? g number with
  | none => .next s
  | some d =>
    if !d.over || d.done || !writesDone s g number || s.dma.pris.any (fun w => w.who == .status g number) then .next s
    else
      let r := lookup (fnOf g) [(statusPage s g number, true)] s
      if r.1 then
        .next (finishDesc g number false (hostWrite (fnOf g) (statusAddr s g number) (statusBytes d true false) false r.2))
      else .next r.2

/-! ## The stream commands (R389) -/

/-- Staging of every other configured stream. -/
def stagingUsed (s : State) (g : Nat) : Nat :=
  (s.dma.streams.zipIdx.map (fun (p : Stream × Nat) => if p.2 = g then 0 else p.1.staging)).sum

/-- The staging asked for fits the device's 4 MiB (R296). -/
def stagingFits (s : State) (pl : List Byte) : Bool :=
  stagingUsed s (8 * byteAt pl 0 + byteAt pl 1) + 4096 * byteAt pl 16 ≤ 0x400000

/-- Function and stream fields name a stream. -/
def streamNamed (pl : List Byte) : List (Option Refused) :=
  [unless_ (byteAt pl 0 ≤ 32) (atField errBadConfig 0), unless_ (byteAt pl 1 ≤ 7) (atField errBadConfig 1)]

/-- STREAM_CONFIG's own rules, in field order; staging that does not fit is answered by the action. -/
def streamConfigCheck (s : State) (pl : List Byte) (_ : Nat) : Option Refused :=
  let fits := stagingFits s pl
  firstRefusal (streamNamed pl ++ [
    unless_ ((s.stream (8 * byteAt pl 0 + byteAt pl 1)).mode == .stopped) (atField errBusy 1),
    unless_ (byteAt pl 2 ≤ 1) (atField errBadConfig 2),
    unless_ (4 ≤ byteAt pl 3 && byteAt pl 3 ≤ 16) (atField errBadConfig 3),
    unless_ (byteAt pl 2 == 1 || byteAt pl 4 ≤ 1) (atField errBadConfig 4),
    unless_ (byteAt pl 5 ≤ 1) (atField errBadConfig 5),
    unless_ (leAt pl 8 8 % 4096 == 0) (atField errBadConfig 8),
    unless_ (1 ≤ byteAt pl 16 && byteAt pl 16 ≤ 64) (atField errBadConfig 16),
    unless_ (!fits || (1 ≤ byteAt pl 17 && byteAt pl 17 ≤ 16)) (atField errBadConfig 17),
    unless_ (!fits || (1 ≤ leAt pl 18 2 && leAt pl 18 2 ≤ 1000)) (atField errBadConfig 18)])

/-- The configuration of Table 14.1. -/
def Stream.configure (pl : List Byte) (x : Stream) : Stream :=
  { x with
    configured := true, copy := byteAt pl 2 == 1, sizeExp := byteAt pl 3, pipeline := byteAt pl 4, abort := byteAt pl 5 == 1
    rate := leAt pl 6 2, ringBase := leAt pl 8 8, staging := 4096 * byteAt pl 16, inflight := byteAt pl 17
    priMs := leAt pl 18 2 }

/-- STREAM_CONFIG (R296, R389); the resource code of a staging refusal is a free value (log 41). -/
def execStreamConfig (fn : Fn) (s : State) : Host.Outcome State Fault Refusal :=
  runCommand fn 0x0601 anyOp streamConfigCheck (fun pl _ s =>
    let g := 8 * byteAt pl 0 + byteAt pl 1
    if stagingFits s pl then respond fn 0 [] (modStream g (Stream.configure pl) s)
    else
      let r := nextFree 8 s
      refuse fn (errNoFit, fitDetail r.1 noPlace (4096 * byteAt pl 16) (0x400000 - stagingUsed s g)) r.2) s

/-- The own rules of STREAM_STATE START and STOP. -/
def startCheck (s : State) (pl : List Byte) (_ : Nat) : Option Refused :=
  firstRefusal (streamNamed pl ++ [unless_ (s.stream (8 * byteAt pl 0 + byteAt pl 1)).configured (atField errBadConfig 1)])
def stopCheck (_ : State) (pl : List Byte) (_ : Nat) : Option Refused := firstRefusal (streamNamed pl)

/-- STREAM_STATE START (R389). -/
def execStreamStart (fn : Fn) (s : State) : Host.Outcome State Fault Refusal :=
  runCommand fn 0x0602 (opIs 2 1) startCheck
    (fun pl _ s => respondMilestone fn [] (later (.streamStart (8 * byteAt pl 0 + byteAt pl 1)) s)) s

/-- The start of a stream takes effect. -/
def streamStartEffect (g : Nat) (s : State) : State := modStream g (fun x => { x with mode := .running }) s

/-- STREAM_STATE STOP (R318, R389). -/
def execStreamStop (fn : Fn) (s : State) : Host.Outcome State Fault Refusal :=
  runCommand fn 0x0602 (opIs 2 2) stopCheck
    (fun pl _ s => respondWait fn [] (later (.streamStop (8 * byteAt pl 0 + byteAt pl 1)) s)) s

/-- A DATA allocation of a tenant. -/
def allocOf (s : State) (t id : Nat) : Option DataAlloc := s.dma.allocs.find? (fun a => a.tenant == t && a.id == id)

/-- DATA_ALLOC allocate's own rules. -/
def allocateCheck (s : State) (pl : List Byte) (t : Nat) : Option Refused :=
  let n := leAt pl 4 2
  firstRefusal [
    unless_ (allocOf s t (leAt pl 2 2)).isNone (atField errBusy 2),
    unless_ (1 ≤ n && n ≤ 912) (atField errBadConfig 4),
    if 1 ≤ n ∧ n ≤ 912 then plotRow s t n else none]

/-- DATA_ALLOC allocate (R228, R389). -/
def execDataAllocAllocate (fn : Fn) (s : State) : Host.Outcome State Fault Refusal :=
  runCommand fn 0x0603 (opIs 0 1) allocateCheck (fun pl t s =>
    let ps := (freePlots s).take (leAt pl 4 2)
    let s := ps.foldl (fun s p => takePlot p (.data, some t) s) s
    respond fn 0 [] (modDma (fun d => { d with allocs := d.allocs ++ [⟨t, leAt pl 2 2, ps⟩] }) s)) s

/-- DATA_ALLOC free's own rules. -/
def freeCheck (s : State) (pl : List Byte) (t : Nat) : Option Refused :=
  firstRefusal [
    unless_ (allocOf s t (leAt pl 2 2)).isSome (atField errBadConfig 2),
    unless_ ((streamsOf (t + 1)).all (fun g => !(s.stream g).copy || (s.stream g).mode == .stopped)) (atField errBusy 2)]

/-- Free a DATA allocation: its plots are zeroised and FREE (R232). -/
def freeAlloc (a : DataAlloc) (s : State) : State :=
  modDma (fun d => { d with allocs := d.allocs.filter (fun x => x != a) }) (releasePlots a.plots s)

/-- DATA_ALLOC free (R232, R389). -/
def execDataAllocFree (fn : Fn) (s : State) : Host.Outcome State Fault Refusal :=
  runCommand fn 0x0603 (opIs 0 2) freeCheck (fun pl t s =>
    respond fn 0 [] ((allocOf s t (leAt pl 2 2)).elim s (fun a => freeAlloc a s))) s

end Sys2Proof.Machine
end

