-- ==== Sys2Proof/Machine/Ports.lean ====
section
/-! DEFINITION. The port commands and what they do at their Milestone (R60 to R67, R384). -/

namespace Sys2Proof.Machine

/-! ## Effects at the Milestone -/

/-- The mode, FEC and training of an Ethernet port (R60, R61). A logical port the mode does not create has no link. -/
def portModeEffect (e mode fec : Nat) (train : Bool) (s : State) : State :=
  { s with
    eth := s.eth.set e ⟨mode, fec, train⟩
    ports := s.ports.zipIdx.map (fun (p : PortSt × Nat) =>
      if p.2 / 4 = e ∧ ¬ p.2 % 4 < subPorts mode then { p.1 with link := false } else p.1) }

/-- The addresses, EtherTypes and flow control of a logical port (R65, R69). -/
def portAddressEffect (l : Nat) (pl : List Byte) (s : State) : State :=
  let used := fun (bs : List Byte) => !allZero bs
  modPort l (fun p => { p with
    mac := slice pl 2 6
    ipv4 := ((List.range 4).map (fun i => slice pl (8 + 4 * i) 4)).filter used
    ipv6 := ((List.range 4).map (fun i => slice pl (24 + 16 * i) 16)).filter used
    etherTypes := ((List.range 2).map (fun i => leAt pl (88 + 2 * i) 2)).filter (· != 0)
    pfcMask := byteAt pl 92, xoff := leAt pl 96 4, xon := leAt pl 100 4, xoffSent := [] }) s

/-- A port enters OPEN: its bit is set, and firmware announces each of its addresses (R62, R67). -/
def portOpenEffect (l : Nat) (s : State) : State :=
  let s := modPort l (fun p => { p with mode := .opened, openBit := true, openView := true }) s
  let p := s.port l
  let s := p.ipv4.foldl (fun s ip => sendControl l none (gratuitousArp p.mac ip) s) s
  p.ipv6.foldl (fun s ip => sendControl l none (ndUnsolicited p.mac ip) s) s

/-- A port enters DRAINING: its bit is cleared (R62). -/
def portDrainEffect (l : Nat) (s : State) : State :=
  modPort l (fun p => { p with mode := .draining, openBit := false, openView := false }) s

/-! ## Rules of the commands (R384) -/

/-- The logical port at payload offset `o` exists. -/
def portNamed (s : State) (pl : List Byte) (o : Nat) : Option Refused :=
  unless_ (byteAt pl o < 8 && portExists s (byteAt pl o)) (atField errBadConfig o)

def portModeCheck (s : State) (pl : List Byte) (_ : Nat) : Option Refused :=
  firstRefusal [
    unless_ (byteAt pl 0 ≤ 1) (atField errBadConfig 0),
    unless_ ((List.range 4).all (fun i => (s.port (4 * byteAt pl 0 + i)).mode == .closed)) (atField errBusy 0),
    unless_ (byteAt pl 1 ≤ 2) (atField errBadConfig 1),
    unless_ (byteAt pl 2 ≤ 1) (atField errBadConfig 2)]

def portAddressCheck (s : State) (pl : List Byte) (_ : Nat) : Option Refused :=
  let mac := slice pl 2 6
  let et := fun (o : Nat) => unless_ ([0, 0x88B5, 0x88B6].contains (leAt pl o 2)) (atField errBadConfig o)
  firstRefusal [
    portNamed s pl 0,
    unless_ ((s.port (byteAt pl 0)).mode == .closed) (atField errBusy 0),
    unless_ (!(bit (byteAt mac 0) 0 || allZero mac)) (atField errBadConfig 2),
    et 88, et 90,
    unless_ (popBits (byteAt pl 92) 8 ≤ 2) (atField errBadConfig 92),
    unless_ (leAt pl 96 4 ≤ rxShare s (byteAt pl 0)) (atField errBadConfig 96),
    unless_ (leAt pl 100 4 < leAt pl 96 4) (atField errBadConfig 100)]

/-- A transition other than CLOSED to OPEN with a MAC configured, or OPEN to DRAINING, is refused. -/
def portStateCheck (s : State) (pl : List Byte) (_ : Nat) : Option Refused :=
  let p := s.port (byteAt pl 0)
  firstRefusal [
    portNamed s pl 0,
    unless_ (if byteAt pl 1 = 1 then p.mode == .closed && !allZero p.mac else p.mode == .opened) (atField errBusy 0)]

/-- The endpoint a payload binds. -/
def endpointAt (pl : List Byte) (t : Nat) : Endpoint :=
  let kind := byteAt pl 3
  ⟨t, byteAt pl 2, kind, leAt pl 4 2, if kind = 0 then slice pl 8 4 else if kind = 1 then slice pl 8 16 else [], leAt pl 24 2⟩

/-- Two endpoints bind the same address. -/
def sameBinding (a b : Endpoint) : Bool :=
  a.port == b.port && a.kind == b.kind && a.vlan == b.vlan && a.ip == b.ip && a.udp == b.udp

def endpointAddCheck (s : State) (pl : List Byte) (t : Nat) : Option Refused :=
  let e := endpointAt pl t
  let p := s.port e.port
  firstRefusal [
    unless_ (byteAt pl 1 < 64) (atField errBadConfig 1),
    unless_ (kvGet s.endpoints (byteAt pl 1)).isNone (atField errBusy 1),
    portNamed s pl 2,
    unless_ (e.kind ≤ 2) (atField errBadConfig 3),
    unless_ (e.vlan ≤ 4094 || e.vlan == 0xFFFF) (atField errBadConfig 4),
    unless_ (e.kind != 0 || p.ipv4.contains e.ip) (atField errBadConfig 8),
    unless_ (e.kind != 1 || p.ipv6.contains e.ip) (atField errBadConfig 8),
    unless_ (e.kind != 2 || p.etherTypes.contains e.udp) (atField errBadConfig 24),
    unless_ (!s.endpoints.any (fun x => sameBinding x.2 e)) (atField errBusy 1)]

/-- A remove names an endpoint of the header tenant (log 32). -/
def endpointRemoveCheck (s : State) (pl : List Byte) (t : Nat) : Option Refused :=
  let e := kvGet s.endpoints (byteAt pl 1)
  firstRefusal [
    unless_ (byteAt pl 1 < 64 && e.isSome) (atField errBadConfig 1),
    unless_ (e.elim true (fun e => e.tenant == t)) (atField errNotOwner 1)]

/-! ## The commands -/

/-- PORT_MODE. -/
def execPortMode (fn : Fn) (s : State) : Host.Outcome State Fault Refusal :=
  runCommand fn 0x0301 anyOp portModeCheck (fun pl _ s =>
    respondMilestone fn [] (later (.portMode (byteAt pl 0) (byteAt pl 1) (byteAt pl 2) (bit (byteAt pl 3) 0)) s)) s

/-- PORT_ADDRESS. -/
def execPortAddress (fn : Fn) (s : State) : Host.Outcome State Fault Refusal :=
  runCommand fn 0x0302 anyOp portAddressCheck (fun pl _ s =>
    respondMilestone fn [] (later (.portAddress (byteAt pl 0) pl) s)) s

/-- PORT_STATE with target OPEN. -/
def execPortStateOpen (fn : Fn) (s : State) : Host.Outcome State Fault Refusal :=
  runCommand fn 0x0303 (opIs 1 1) portStateCheck (fun pl _ s =>
    respondMilestone fn [] (later (.portOpen (byteAt pl 0)) s)) s

/-- PORT_STATE with target DRAINING. -/
def execPortStateDraining (fn : Fn) (s : State) : Host.Outcome State Fault Refusal :=
  runCommand fn 0x0303 (opIs 1 2) portStateCheck (fun pl _ s =>
    respondMilestone fn [] (later (.portDrain (byteAt pl 0)) s)) s

/-- ENDPOINT add. -/
def execEndpointAdd (fn : Fn) (s : State) : Host.Outcome State Fault Refusal :=
  runCommand fn 0x0304 (opIs 0 1) endpointAddCheck (fun pl t s =>
    respondMilestone fn [] (later (.endpointAdd (byteAt pl 1) (endpointAt pl t)) s)) s

/-- ENDPOINT remove. -/
def execEndpointRemove (fn : Fn) (s : State) : Host.Outcome State Fault Refusal :=
  runCommand fn 0x0304 (opIs 0 2) endpointRemoveCheck (fun pl _ s =>
    respondMilestone fn [] (later (.endpointRemove (byteAt pl 1)) s)) s

/-- Code of a port state (Table 17.8). -/
def PortMode.code : PortMode → Nat
  | .closed => 0
  | .opened => 1
  | .draining => 2

/-- Mask of the endpoints on a port. -/
def endpointMask (s : State) (l : Nat) : Nat := (s.endpoints.map (fun e => if e.2.port = l then 2 ^ e.1 else 0)).sum

/-- PORT_QUERY's own rule. -/
def portQueryCheck (s : State) (pl : List Byte) (_ : Nat) : Option Refused := portNamed s pl 0

/-- PORT_QUERY's response. FEC is locked exactly while the link is up (log 32). -/
def portReport (s : State) (l : Nat) : List Byte :=
  let up := if (s.port l).link then 1 else 0
  leBytes 1 (s.port l).mode.code ++ leBytes 1 up ++ leBytes 1 up ++ leBytes 1 (s.ethOf l).mode ++ leBytes 1 (s.ethOf l).fec ++
    zeros 3 ++ leBytes 8 (endpointMask s l)

/-- PORT_QUERY. -/
def execPortQuery (fn : Fn) (s : State) : Host.Outcome State Fault Refusal :=
  runCommand fn 0x0305 anyOp portQueryCheck (fun pl _ s => respond fn 0 (portReport s (byteAt pl 0)) s) s

end Sys2Proof.Machine
end

