-- ==== Sys2Proof/Machine/Tenants.lean ====
section
/-! DEFINITION. Tenants and functions: quotas, tenant states, release, Function Level Reset, queries, and the Waymark commands (R372 to R374, R385 to R388). -/

namespace Sys2Proof.Machine

/-! ## The quota block (Table 17.9) -/

def Policy.code : Policy → Nat
  | .mark => 0
  | .abort => 1
  | .replay => 2

def Policy.ofCode : Nat → Policy
  | 0 => .mark
  | 1 => .abort
  | _ => .replay

/-- The quotas of a TENANT_SET payload. -/
def parseQuota (pl : List Byte) : Quota :=
  { hotEngines := leAt pl 0 2, plots := leAt pl 2 2, contexts := leAt pl 4 2, latSlots := leAt pl 6 2, latEnergy := leAt pl 8 4
    tpSlots := leAt pl 12 4, tpQueue := leAt pl 16 2, transferCap := leAt pl 18 2, cairnBase := leAt pl 20 2
    stride := byteAt pl 22, policy := Policy.ofCode (byteAt pl 23), blocks := leAt pl 24 2, wmkBase := leAt pl 26 2
    wmkCount := leAt pl 28 2, scope := leAt pl 32 32 }

/-- The quota block of a tenant. -/
def quotaBytes (q : Quota) : List Byte :=
  leBytes 2 q.hotEngines ++ leBytes 2 q.plots ++ leBytes 2 q.contexts ++ leBytes 2 q.latSlots ++ leBytes 4 q.latEnergy ++
    leBytes 4 q.tpSlots ++ leBytes 2 q.tpQueue ++ leBytes 2 q.transferCap ++ leBytes 2 q.cairnBase ++ leBytes 1 q.stride ++
    leBytes 1 q.policy.code ++ leBytes 2 q.blocks ++ leBytes 2 q.wmkBase ++ leBytes 2 q.wmkCount ++ zeros 2 ++ leBytes 32 q.scope

/-- A Cairn range: base and size in slots, none without a stride. -/
def Quota.cairn (q : Quota) : Option (Nat × Nat × Nat) := if q.stride = 0 then none else some (q.cairnBase, q.stride, q.blocks)

/-- Two tenants' Cairn ranges overlap. -/
def cairnOverlap (a b : Quota) : Bool :=
  a.stride != 0 && b.stride != 0 && a.cairnBase < b.cairnBase + b.stride * b.blocks && b.cairnBase < a.cairnBase + a.stride * a.blocks

/-- Two tenants' Waymark ranges overlap. -/
def wmkOverlap (a b : Quota) : Bool :=
  a.wmkCount != 0 && b.wmkCount != 0 && a.wmkBase < b.wmkBase + b.wmkCount && b.wmkBase < a.wmkBase + a.wmkCount

/-- Quotas of the other tenants that are not ABSENT. -/
def otherQuotas (s : State) (t : Nat) : List Quota :=
  ((List.range 32).filter (fun u => u != t && (s.tenant u).state != .absent)).map (fun u => (s.tenant u).quota)

/-- A tenant holds a Cairn block or a parked record. -/
def holdsBlock (s : State) (t : Nat) : Bool :=
  s.ctxs.any (fun p => p.2.tenant == t && (p.2.block.isSome || p.2.state == .parked))

/-- The largest LATENCY reservation of a tenant on any Ridge. -/
def largestReservation (s : State) (t : Nat) : Nat := (List.range 68).foldl (fun a q => max a (reservedSlots s (some t) q)) 0

/-- A field of the quota block lies in its range. -/
def quotaField (pl : List Byte) (o w lo hi : Nat) : Option Refused :=
  unless_ (lo ≤ leAt pl o w && leAt pl o w ≤ hi) (atField errBadConfig o)

/-- The Cairn range changes while the tenant holds a block or a parked record (R166). -/
def cairnBusy (s : State) (t : Nat) (q : Quota) : Option Refused :=
  unless_ (q.cairn == (s.tenant t).quota.cairn || !holdsBlock s t) (atField errBusy 20)

/-- The Waymark range changes while the tenant holds a Waymark (R385). -/
def wmkBusy (s : State) (t : Nat) (q : Quota) : Option Refused :=
  let cur := (s.tenant t).quota
  unless_ ((q.wmkBase == cur.wmkBase && q.wmkCount == cur.wmkCount) || (waymarksHeld s t).isEmpty) (atField errBusy 26)

/-- A range changes while the tenant holds something in it. -/
def rangeBusyRules (s : State) (t : Nat) (q : Quota) : List (Option Refused) := [cairnBusy s t q, wmkBusy s t q]

/-- The Cairn range of a quota block is a legal one by itself. -/
def cairnLegal (q : Quota) : Bool :=
  q.stride ≤ 64 && (if q.stride = 0 then q.blocks == 0 else 1 ≤ q.blocks && q.cairnBase + q.stride * q.blocks ≤ 16384)

/-- The rules of the quota block in the order of its fields (R166, R276, R385). What joins several fields (a base's alignment,
an overlap) is answered at its range's base, and tested only where the later fields are legal by themselves (log 138). -/
def quotaRules (s : State) (t : Nat) (pl : List Byte) (q : Quota) : List (Option Refused) :=
  let ok := quotaField pl
  [ok 0 2 0 4096, ok 2 2 0 912, ok 4 2 0 256, ok 6 2 0 240, ok 12 4 0 16256, ok 16 2 0 256, ok 18 2 1 496,
    unless_ (q.stride == 0 || (q.cairnBase < 16384 && (64 < q.stride || q.cairnBase % q.stride == 0))) (atField errBadConfig 20),
    unless_ (!cairnLegal q || !(otherQuotas s t).any (cairnOverlap q)) (atField errBadConfig 20),
    if cairnLegal q then cairnBusy s t q else none,
    ok 22 1 0 64, ok 23 1 0 2, unless_ (cairnLegal q) (atField errBadConfig 24),
    unless_ (q.wmkCount == 0 || 4096 < q.wmkCount || q.wmkBase + q.wmkCount ≤ 4096) (atField errBadConfig 26),
    unless_ (4096 < q.wmkCount || !(otherQuotas s t).any (wmkOverlap q)) (atField errBadConfig 26),
    if q.wmkCount ≤ 4096 then wmkBusy s t q else none,
    ok 28 2 0 4096]

/-- A quota below what the tenant holds or reserves, rows in the order of Table 10.9 and then transfer slots; of a row checked per
Ridge, the lowest-numbered physical Ridge that fails (R222, R385). -/
def loweredRules (s : State) (t : Nat) (q : Quota) : List (Option Refused) :=
  let channels := s.models.foldl (fun a m => if m.tenant = t then max a m.image.channels else a) 0
  let used := transferUsed s (t + 1)
  let caps := q.transferCap + ((otherQuotas s t).map (·.transferCap)).sum
  [deviceRow 3 noPlace (plotsHeld s t) q.plots, deviceRow 1 noPlace (hotEnginesHeld s t) q.hotEngines,
    deviceRow 7 noPlace channels q.stride, deviceRow 7 noPlace (latTotal s t) q.blocks,
    deviceRow 8 noPlace (waymarksHeld s t).length q.wmkCount, deviceRow 9 noPlace (max (tenantCtxs s t) (latTotal s t)) q.contexts,
    firstRefusal ((List.range 68).map (fun r => deviceRow 0x0A (ridgeLoc r) (reservedSlots s (some t) r) q.latSlots)), deviceRow 0x0B noPlace (reservedEnergy s (some t)) q.latEnergy,
    deviceRow 0x0C noPlace used q.transferCap, deviceRow 0x0C noPlace caps 496]

/-- TENANT_SET's own rules. -/
def tenantSetCheck (s : State) (pl : List Byte) (t : Nat) : Option Refused :=
  let q := parseQuota pl
  firstRefusal (quotaRules s t pl q ++ loweredRules s t q)

/-- TENANT_SET: quotas and policy land at the Milestone (R385). -/
def execTenantSet (fn : Fn) (s : State) : Host.Outcome State Fault Refusal :=
  runCommand fn 0x0401 anyOp tenantSetCheck (fun pl t s =>
    respondMilestone fn [] (later (.tenantSet t (parseQuota pl)) s)) s

/-- Zero a Cairn range (R187). -/
def zeroCairn (q : Quota) (s : State) : State :=
  let n := q.stride * q.blocks
  { s with slots := s.slots.filter (fun p => p.1 < q.cairnBase || q.cairnBase + n ≤ p.1) }

/-- Contexts whose Switchback entry holds a parked record of a tenant: State 1 and its tenant field (R182). -/
def parkedEntries (s : State) (t : Nat) : List Nat :=
  (List.range 256).filter (fun c =>
    leNat (memBytes s.mem (swbAddr c) 4) == 1 && (memByte s.mem (swbAddr c + 18)).toNat == t)

/-- Zero the whole of Switchback entries (R187). -/
def zeroEntries (cs : List Nat) (s : State) : State := cs.foldl (fun s c => zeroRange (swbAddr c) 8192 s) s

/-- Reset a Waymark range and the wait slots of its tenant's function (R294). -/
def zeroWaymarks (t : Nat) (q : Quota) (s : State) : State :=
  idleSlots (t + 1) ((List.range q.wmkCount).foldl (fun s i => wmkZero (q.wmkBase + i) s) s)

/-- Blocks of a Cairn range, in order. -/
def blocksOf (q : Quota) : List Nat := (List.range q.blocks).map (fun i => q.cairnBase + i * q.stride)

/-- The quotas land. A range that came into use since the command was taken keeps everything as it was, and the response is
ERR_BUSY (log 42). -/
def tenantSetEffect (t : Nat) (q : Quota) (s : State) : State :=
  match firstRefusal (rangeBusyRules s t q) with
  | some r => modMbx 0 (fun m => { m with due := m.due.map (fun d => (d.1, leBytes 2 r.1 ++ r.2)) }) s
  | none =>
    let cur := (s.tenant t).quota
    let s := if q.cairn = cur.cairn then s
      else modTenant t (fun x => { x with freeBlocks := blocksOf q }) (zeroEntries (parkedEntries s t) (zeroCairn cur s))
    let s := if q.wmkBase = cur.wmkBase ∧ q.wmkCount = cur.wmkCount then s else zeroWaymarks t cur s
    modTenant t (fun x => { x with quota := q, state := if x.state = .absent then .disabled else x.state }) s

/-! ## Tenant states (R386) -/

/-- TENANT_STATE's own rule: the tenant is in one of the operation's states. -/
def stateCheck (accepted : List TenantState) (s : State) (_ : List Byte) (t : Nat) : Option Refused :=
  unless_ (accepted.contains (s.tenant t).state) (errBusy, leBytes 2 8)

/-- A TENANT_STATE operation from one of its states; another gives ERR_BUSY on the header's tenant field. -/
def stateCommand (fn : Fn) (op : Nat) (accepted : List TenantState) (wait : Bool) (s : State) : Host.Outcome State Fault Refusal :=
  runCommand fn 0x0402 (opIs 0 op) (stateCheck accepted)
    (fun _ t s =>
      let s := later (.tenantState t op) s
      if wait then respondWait fn [] s else respondMilestone fn [] s) s

/-- TENANT_STATE ENABLE. -/
def execTenantEnable (fn : Fn) (s : State) : Host.Outcome State Fault Refusal := stateCommand fn 1 [.disabled] false s

/-- TENANT_STATE DISABLE. -/
def execTenantDisable (fn : Fn) (s : State) : Host.Outcome State Fault Refusal := stateCommand fn 2 [.enabled, .preempted] false s

/-- TENANT_STATE PREEMPT. -/
def execTenantPreempt (fn : Fn) (s : State) : Host.Outcome State Fault Refusal := stateCommand fn 3 [.enabled] false s

/-- TENANT_STATE RESUME. -/
def execTenantResume (fn : Fn) (s : State) : Host.Outcome State Fault Refusal := stateCommand fn 4 [.preempted] false s

/-- TENANT_STATE RELEASE. -/
def execTenantRelease (fn : Fn) (s : State) : Host.Outcome State Fault Refusal :=
  stateCommand fn 5 [.disabled, .enabled, .preempted] true s

/-! ## Release (R387) -/

/-- Step 2: every record context of the tenant ends with no answer, its frames and terms that wait go with it, and its
searches are dropped. A record of a port that ends before step 18 is counted in PRT_RX_ANSWERED, for its frame has no other
disposition (R89, log 124). -/
def releaseRecords (t : Nat) (s : State) : State :=
  let s := (s.searches.filter (fun x => x.2.tenant == t)).foldl (fun s x => dropSearch x.1 s) s
  let own := s.ctxs.filter (fun p => p.2.tenant == t)
  let s := own.foldl (fun s p => count (cPrt p.2.reply.port pAnswered) (if isEthernet p.2 && beforeCommit p.2 then 1 else 0) s) s
  let mine := own.map (·.1)
  let holds := fun (c : Option Nat) => c.elim false mine.contains
  let s := { s with
    ports := s.ports.map (fun p => { p with
      ready := p.ready.filter (fun f => !holds f.ctx)
      held := match p.held with
        | some (.allocated c) => if mine.contains c then none else p.held
        | h => h })
    zth := { s.zth with saddles := s.zth.saddles.map (fun x => { x with outq := x.outq.filter (fun m => !holds m.ctx) }) }
    feedback := s.feedback.filter (fun f => f.tenant != t) }
  mine.foldl (fun s c => freeContext c s) s

/-- Step 3: the streams stop, and a command pending in the mailbox completes with ERR_NO_TENANT. -/
def releaseStreams (t : Nat) (s : State) : State :=
  let f := t + 1
  let s := (streamsOf f).foldl (fun s g => streamCut g s) s
  if (s.fn f).mbx.state = .pending then
    postResponse f errNoTenant [] (modMbx f (fun m => { m with run := m.cmd }) s)
  else s

/-- A function's event queue is set anew: pointers 0, entries that waited for their page dropped (R433). -/
def resetQueue (f : Nat) (q : EvtQueue) (s : State) : State :=
  modDma (fun d => { d with pris := d.pris.filter (fun w => w.who != .event f) })
    (modFn f (fun x => { x with evq := { q with lastMsg := x.evq.lastMsg } }) s)

/-- Step 4: the endpoints go, and the event queue is disabled. -/
def releaseEndpoints (t : Nat) (s : State) : State :=
  resetQueue (t + 1) EvtQueue.reset { s with endpoints := s.endpoints.filter (fun e => e.2.tenant != t) }

/-- Steps 5 and 6: models, Cairn slots and the Switchback entries that held parked records when the release began, Waymarks and
wait slots, banks, allocations; the recall of the Commons windows begins. -/
def releaseResources (t : Nat) (entries : List Nat) (s : State) : State :=
  let q := (s.tenant t).quota
  let s := (s.models.filter (fun m => m.tenant == t)).foldl (fun s m => zeroiseModel m.id s) s
  let s := zeroWaymarks t q (zeroEntries entries (zeroCairn q s))
  let s := (List.range 16).foldl (fun s b => if (s.bank b).owner = some t then releaseBank b s else s) s
  let s := (s.dma.allocs.filter (fun a => a.tenant == t)).foldl (fun s a => freeAlloc a s) s
  let ids := (s.zth.windows.filter (fun w => w.tenant == t)).map (·.id)
  modZth (fun z => { z with removing := ids.foldl setAdd z.removing }) s

/-- A release from its Milestone: the steps in order; the tenant is ABSENT once its Commons windows are recalled. -/
def releaseEffect (t : Nat) (s : State) : State :=
  let s := modTenant t (fun x => { x with state := .releasing, enable := false, enableView := false, preempted := false }) s
  let entries := parkedEntries s t
  let s := releaseResources t entries (releaseEndpoints t (releaseStreams t (releaseRecords t s)))
  settleRemovals { s with releasing := s.releasing ++ [t] }

/-- A TENANT_STATE operation lands at its Milestone (R386). -/
def tenantStateEffect (t op : Nat) (s : State) : State :=
  let set := fun (st : TenantState) (en pre : Bool) =>
    modTenant t (fun x => { x with state := st, enable := en, enableView := en, preempted := pre }) s
  match op with
  | 1 => set .enabled true false
  | 2 => set .disabled false false
  | 3 => set .preempted true true
  | 4 => set .enabled true false
  | _ => releaseEffect t s

/-! ## Function Level Reset of a virtual function (R374) -/

/-- What R435 adds to the reset: MBX_CTRL, EVT_INT_CAUSE, the MSI-X table and its pending bits, and the event queue. -/
def resetFnPage (f : Nat) (s : State) : State :=
  resetQueue f EvtQueue.reset (modFn f (fun x => { x with
    mbx := { x.mbx with ie := false, vec := 0 }, cause := 0, pba := 0, msixDue := []
    msix := List.replicate (msixCount f) MsixEntry.reset }) s)

/-- The reset of virtual function `t + 1` acts at once (R374, R435). A tenant that is ABSENT, which TENANT_SET alone creates
(R373), or RELEASING, whose release ends in ABSENT (R387), keeps its state (log 127). -/
def vfReset (t : Nat) (s : State) : State :=
  let f := t + 1
  let s := modMbx f (fun m =>
    if m.state = .booting then m
    else { m with state := .ready, discard := m.discard || m.due.isSome || s.taken.contains f }) s
  let s := resetFnPage f (idleSlots f ((streamsOf f).foldl (fun s g => streamCut g s) s))
  modTenant t (fun x => match x.state with
    | .absent => x
    | .releasing => x
    | _ => { x with state := .disabled, enable := false, enableView := false, preempted := false }) s

/-- VF_FUNCTION_LEVEL_RESET: `vf` is the tenant of the virtual function (R374). -/
def execVfFunctionLevelReset (vf : Tid) (s : State) : Host.Outcome State Fault Refusal := .next (vfReset vf s)

/-- VF_ENABLE_CLEAR: a reset of every virtual function (R374). -/
def execVfEnableClear (s : State) : Host.Outcome State Fault Refusal :=
  .next ((List.range 32).foldl (fun s t => vfReset t s) s)

/-! ## Queries (R388) -/

/-- Code of a tenant state (Table 17.10). -/
def TenantState.code : TenantState → Nat
  | .absent => 0
  | .disabled => 1
  | .enabled => 2
  | .preempted => 3
  | .releasing => 4

/-- A mask from a predicate over `n` bits. -/
def maskOf (n : Nat) (p : Nat → Bool) : Nat := ((List.range n).map (fun i => if p i then 2 ^ i else 0)).sum

/-- TENANT_QUERY's response (Table 17.10). -/
def tenantReport (s : State) (t : Nat) : List Byte :=
  quotaBytes (s.tenant t).quota ++ leBytes 2 (hotEnginesHeld s t) ++ leBytes 2 (plotsHeld s t) ++ leBytes 2 (tenantCtxs s t) ++
    leBytes 2 (latTotal s t) ++ leBytes 2 (largestReservation s t) ++ zeros 2 ++ leBytes 4 (reservedEnergy s (some t)) ++
    leBytes 1 (s.tenant t).state.code ++ zeros 1 ++ leBytes 2 (maskOf 16 (fun b => (s.bank b).owner == some t)) ++
    leBytes 4 (s.models.countP (fun m => m.tenant == t && m.accepting)) ++ zeros 8

/-- TENANT_QUERY. -/
def execTenantQuery (fn : Fn) (s : State) : Host.Outcome State Fault Refusal :=
  runCommand fn 0x0403 anyOp noRules (fun _ t s => respond fn 0 (tenantReport s t) s) s

/-! ## Waymark commands (R388) -/

/-- Indices a function may name (R276). -/
def wmkLimit (s : State) (f t : Nat) : Nat := if f = 0 then 4096 else (s.tenant t).quota.wmkCount

/-- Waymark number of an index a command names. -/
def wmkNumber (s : State) (f t i : Nat) : Nat := if f = 0 then i else (s.tenant t).quota.wmkBase + i

/-- The index and the count of WAYMARK_INIT. -/
def wmkRangeRules (f : Nat) (s : State) (pl : List Byte) (t : Nat) : List (Option Refused) :=
  let lim := wmkLimit s f t
  let n := leAt pl 2 2
  [unless_ (leAt pl 0 2 < lim) (atField errBadConfig 0),
    unless_ (1 ≤ n && n ≤ 4096 && leAt pl 0 2 + n ≤ lim) (atField errBadConfig 2)]

/-- WAYMARK_INIT's own rules: the index, the count, and A, which only ARM BARRIER carries (log 43). -/
def wmkInitCheck (f : Nat) (s : State) (pl : List Byte) (t : Nat) : Option Refused :=
  firstRefusal (wmkRangeRules f s pl t ++ [
    unless_ (if byteAt pl 4 = 2 then leAt pl 5 3 != 0 else leAt pl 5 3 == 0) (atField errBadConfig 5)])

/-- Apply an operation to the Waymarks a command names, in ascending number. -/
def wmkInit (fn : Fn) (op : Nat) (act : List Byte → Nat → State → State) (s : State) : Host.Outcome State Fault Refusal :=
  runCommand fn 0x0501 (opIs 4 op) (wmkInitCheck fn) (fun pl t s =>
    respond fn 0 [] ((List.range (leAt pl 2 2)).foldl (fun s i => act pl (wmkNumber s fn t (leAt pl 0 2 + i)) s) s)) s

/-- WAYMARK_INIT RESET. -/
def execWaymarkInitReset (fn : Fn) (s : State) : Host.Outcome State Fault Refusal := wmkInit fn 1 (fun _ n s => wmkFirmware n .reset s) s

/-- WAYMARK_INIT ARM BARRIER. -/
def execWaymarkInitArmBarrier (fn : Fn) (s : State) : Host.Outcome State Fault Refusal :=
  wmkInit fn 2 (fun pl n s => wmkFirmware n (.arm (leAt pl 5 3)) s) s

/-- WAYMARK_INIT REMOTE_ON. -/
def execWaymarkInitRemoteOn (fn : Fn) (s : State) : Host.Outcome State Fault Refusal :=
  wmkInit fn 4 (fun _ n s => wmkFirmware n (.remote true) s) s

/-- WAYMARK_INIT REMOTE_OFF. -/
def execWaymarkInitRemoteOff (fn : Fn) (s : State) : Host.Outcome State Fault Refusal :=
  wmkInit fn 5 (fun _ n s => wmkFirmware n (.remote false) s) s

/-- The value of WMK_STATE (Table 13.3). -/
def Waymark.stateValue (w : Waymark) : Nat :=
  let b := fun (x : Bool) (k : Nat) => if x then 2 ^ k else 0
  w.gen + b w.barrier 16 + b w.err 17 + b w.ovf 18 + b w.remoteOk 19

/-- Handle of the model that holds a Waymark, or 0xFFFF. -/
def wmkHolder (s : State) (n : Nat) : Nat := ((s.models.find? (fun m => m.waymarks.contains n)).map (·.handle)).getD 0xFFFF

/-- WAYMARK_QUERY's own rule. -/
def wmkQueryCheck (f : Nat) (s : State) (pl : List Byte) (t : Nat) : Option Refused :=
  unless_ (leAt pl 0 2 < wmkLimit s f t) (atField errBadConfig 0)

/-- WAYMARK_QUERY's response. -/
def wmkReport (s : State) (n : Nat) : List Byte :=
  let w := s.waymark n
  leBytes 4 w.count ++ leBytes 4 w.stateValue ++ leBytes 4 w.a ++ leBytes 2 (pendingWaits s n) ++ leBytes 2 (wmkHolder s n)

/-- WAYMARK_QUERY. -/
def execWaymarkQuery (fn : Fn) (s : State) : Host.Outcome State Fault Refusal :=
  runCommand fn 0x0502 anyOp (wmkQueryCheck fn)
    (fun pl t s => respond fn 0 (wmkReport s (wmkNumber s fn t (leAt pl 0 2))) s) s

end Sys2Proof.Machine
end

