-- ==== Sys2Proof/Machine/Management.lean ====
section
/-! DEFINITION. The remaining mailbox commands: device, canary, refit, Detour, power, events and diagnostics (R382, R389 to R391). -/

namespace Sys2Proof.Machine

/-! ## Device commands (R382) -/

/-- IDENTIFY's response: part code, stepping, interface level, firmware version, serial, function and tenant (R17). -/
def identity (s : State) (f : Nat) : List Byte :=
  leBytes 2 0x6404 ++ leBytes 1 0x43 ++ leBytes 1 3 ++ leBytes 4 s.boot.fwVersion ++ leBytes 8 Config.serial.toNat ++
    leBytes 1 f ++ leBytes 1 (if f = 0 then 0xFF else f - 1) ++ zeros 2

/-- IDENTIFY. -/
def execIdentify (fn : Fn) (s : State) : Host.Outcome State Fault Refusal :=
  runCommand fn 0x0101 anyOp noRules (fun _ _ s => respond fn 0 (identity s fn) s) s

/-- State and logical index of a physical Ridge as DEVICE_STATUS reports them: a fenced Ridge keeps its index until its
remap, or until firmware has found no stand-in for it (R420, R423, log 45). -/
def ridgeReport (s : State) (r : Nat) : List Byte :=
  let x := s.ridge r
  let index := leBytes 1 (x.logical.getD 0xFF)
  if x.fenced then
    if x.logical.isNone || (x.fencedView && (standInOf s r).isNone) then leBytes 1 2 ++ leBytes 1 0xFF
    else leBytes 1 (if x.spare then 1 else 0) ++ index
  else leBytes 1 (if x.spare then 1 else 0) ++ index

/-- DEVICE_STATUS's response (Table 17.5). -/
def deviceReport (s : State) : List Byte :=
  leBytes 8 s.time.epoch ++ leBytes 8 s.time.tick ++ leBytes 1 s.disp.point.code ++ leBytes 1 s.disp.level ++
    leBytes 1 (sparesLeft s) ++ zeros 13 ++ (List.range 68).flatMap (ridgeReport s)

/-- DEVICE_STATUS. -/
def execDeviceStatus (fn : Fn) (s : State) : Host.Outcome State Fault Refusal :=
  runCommand fn 0x0102 anyOp noRules (fun _ _ s => respond fn 0 (deviceReport s) s) s

/-- MEMORY_CONFIG's own rule. -/
def periodCheck (_ : State) (pl : List Byte) (_ : Nat) : Option Refused :=
  unless_ (1 ≤ byteAt pl 0 && byteAt pl 0 ≤ 168) (atField errBadConfig 0)

/-- MEMORY_CONFIG: the patrol period in hours (R242). -/
def execMemoryConfig (fn : Fn) (s : State) : Host.Outcome State Fault Refusal :=
  runCommand fn 0x0103 anyOp periodCheck
    (fun pl _ s => respond fn 0 [] (modMem (fun m => { m with
      period := byteAt pl 0, patrolFrom := s.time.time, patrolSteps := 0, sramSteps := 0 }) s)) s

/-- Engine 63 of a Ridge holds a table of a model (R160). -/
def lastEngineHeld (s : State) (r : Nat) : Bool :=
  s.models.any (fun m => m.engines.contains (r, 63)) || !(unitsUsed s r 63).isEmpty

/-- RIDGE_CANARY's own rules. -/
def canaryCheck (s : State) (pl : List Byte) (_ : Nat) : Option Refused :=
  let r := byteAt pl 0
  firstRefusal [
    unless_ (r < 68 && !(s.ridge r).fenced && !(s.ridge r).spare) (atField errBadConfig 0),
    unless_ (!lastEngineHeld s r) (atField errBusy 0),
    unless_ (byteAt pl 1 ≤ 1) (atField errBadConfig 1)]

/-- RIDGE_CANARY: the setting takes effect at the next Milestone, and its response follows that one (R160). -/
def execRidgeCanary (fn : Fn) (s : State) : Host.Outcome State Fault Refusal :=
  runCommand fn 0x0104 anyOp canaryCheck (fun pl _ s =>
    endTaken fn (modMbx fn (fun m => { m with due := some (.milestone (s.time.epoch - 1), leBytes 2 0) })
      (soon (.canary (byteAt pl 0) (byteAt pl 1 == 1)) s))) s

/-- The canary setting lands. -/
def canaryEffect (r : Nat) (on : Bool) (s : State) : State := modRidge r (fun x => { x with canary := on }) s

/-! ## Refit (R354, R358 to R360, Table 16.3) -/

/-- A proposal of a model runs, or starts at the coming Milestone. -/
def proposing (s : State) (x : RefitSt) : Bool :=
  x.shadowState == .proposing || s.due.any (fun d => d.2 == .refit x.model 4)

/-- The refit areas a command names. -/
def refitNamed (s : State) (t h : Nat) : Option (Model × RefitSt) :=
  (commandModel s t h).bind (fun m => (s.refit? m.id).map (fun x => (m, x)))

/-- The rules of every REFIT operation, then those of one operation on the model. -/
def refitCheck (own : State → Model → RefitSt → Option Refused) (s : State) (pl : List Byte) (t : Nat) : Option Refused :=
  match commandModel s t (leAt pl 0 2) with
  | none => some (bare errNoModel)
  | some m =>
    match s.refit? m.id with
    | none => some (atField errBadConfig 0)
    | some x => if m.traced then own s m x else some (atField errBadConfig 0)

/-- No proposal runs. -/
def idleProposal (s : State) (_ : Model) (x : RefitSt) : Option Refused := unless_ (!proposing s x) (atField errBusy 0)

/-- Units each tree of a model needs for a new leaf version. -/
def commitPlaces (s : State) (m : Model) : Except (Nat × Nat × Nat × Nat) (List (Nat × Nat × Nat × Nat × Nat)) :=
  if m.residency = 1 then
    let ts := m.current.zipIdx.filter (fun p => p.1.member == m.member)
    placeUnits s m.ridgeMap ts (namedEngines m.ridgeMap (ts.map (·.1)))
  else .ok []

/-- COMMIT needs a valid shadow table, no proposal and no commit under way, and fresh units (R360). -/
def commitCheck (s : State) (m : Model) (x : RefitSt) : Option Refused :=
  if x.shadowState != .valid || proposing s x || x.commitRunning then some (atField errBusy 0)
  else match commitPlaces s m with
    | .ok _ => none
    | .error (q, e, n, a) => some (errNoFit, fitDetail 2 (engineLoc q e) n a)

/-- A REFIT operation that lands at its Milestone. -/
def refitCommand (fn : Fn) (op : Nat) (own : State → Model → RefitSt → Option Refused) (s : State) :
    Host.Outcome State Fault Refusal :=
  runCommand fn 0x0701 (opIs 2 op) (refitCheck own) (fun pl t s =>
    match refitNamed s t (leAt pl 0 2) with
    | none => s
    | some (m, _) => respondMilestone fn [] (later (.refit m.id op) s)) s

/-- No rule of its own. -/
def anyRefit (_ : State) (_ : Model) (_ : RefitSt) : Option Refused := none

/-- PAUSE: step 5 of R353 stops. -/
def execRefitPause (fn : Fn) (s : State) : Host.Outcome State Fault Refusal := refitCommand fn 1 anyRefit s

/-- RESUME. -/
def execRefitResume (fn : Fn) (s : State) : Host.Outcome State Fault Refusal := refitCommand fn 2 anyRefit s

/-- RESET_STATS. -/
def execResetStats (fn : Fn) (s : State) : Host.Outcome State Fault Refusal := refitCommand fn 3 idleProposal s

/-- PROPOSE. -/
def execPropose (fn : Fn) (s : State) : Host.Outcome State Fault Refusal := refitCommand fn 4 idleProposal s

/-- DISCARD. -/
def execDiscard (fn : Fn) (s : State) : Host.Outcome State Fault Refusal := refitCommand fn 5 anyRefit s

/-- Words that firmware reads for a commit: the shadow leaf table, and the master copy of every table it rewrites. -/
def commitWords (m : Model) (x : RefitSt) : List Nat :=
  wordsAt x.plots (shadowOff m 0 0) (1024 * treeCount m) ++ masterWords m ((memberTrees m m.version).map (·.1))

/-- COMMIT: the fresh units are taken now, a poisoned shadow word refuses it, and the tables switch at the Milestone. What SECDED
finds in firmware's reads is named by device word. -/
def execCommit (fn : Fn) (s : State) (ecc : List EccFind := []) : Host.Outcome State Fault Refusal :=
  runCommand fn 0x0701 (opIs 2 6) (refitCheck commitCheck) (fun pl t s =>
    match refitNamed s t (leAt pl 0 2) with
    | none => s
    | some (m, x) =>
      let s := readWordsAt ecc (commitWords m x) s
      match shadowPoison s m x, commitPlaces s m with
      | some a, _ => refuse fn (errPoisoned, leBytes 8 a) s
      | none, .ok us =>
        let s := modModel m.id (fun y => { y with otherUnits := y.otherUnits ++ us.map (fun u => (m.version + 1, u)) }) s
        respondMilestone fn [] (later (.refit m.id 6) (modRefit m.id (fun y => { y with commitRunning := true }) s))
      | none, .error _ => s) s

/-- Code of a shadow state (Table 17.11). -/
def ShadowState.code : ShadowState → Nat
  | .invalid => 0
  | .proposing => 1
  | .valid => 2

/-- QUERY's response: commit count, states, counters, and the flag bytes of blocks 0 to 7 of up to 496 trees. -/
def refitReport (s : State) (m : Model) (x : RefitSt) (first : Nat) : List Byte :=
  let k := min 496 (treeCount m - first)
  let flags := (if x.paused then 1 else 0) + (if x.shadowSat = 0 then 0 else 2) + (if x.commitRunning then 4 else 0)
  leBytes 2 (m.version % 65536) ++ leBytes 1 x.shadowState.code ++ leBytes 1 flags ++ leBytes 4 k ++
    (List.range 10).flatMap (fun i => leBytes 8 (s.counter (cTen m.tenant (tRft i)))) ++
    (List.range k).flatMap (fun t => (List.range 8).flatMap (fun b => areaBytes s x (blockOff m (first + t) b + 129) 1))

/-- QUERY. -/
def execRefitQuery (fn : Fn) (s : State) : Host.Outcome State Fault Refusal :=
  runCommand fn 0x0701 (opIs 2 7) (refitCheck anyRefit) (fun pl t s =>
    match refitNamed s t (leAt pl 0 2) with
    | none => s
    | some (m, x) => respond fn 0 (refitReport s m x (leAt pl 4 4)) s) s

/-! ## Detour (R389) -/

/-- The handle is loaded and its model has a Detour configuration. -/
def detourCheck (s : State) (pl : List Byte) (t : Nat) : Option Refused :=
  match commandModel s t (leAt pl 0 2) with
  | none => some (bare errNoModel)
  | some m => unless_ m.image.detour.isSome (atField errBadConfig 0)

/-- One search slot of QUERY: zeros for a slot that is free or another tenant's. -/
def searchReport (s : State) (t i : Nat) : List Byte :=
  match kvGet s.searches i with
  | some x =>
    if x.tenant = t then leBytes 8 x.recId ++ leBytes 2 x.step ++ leBytes 2 x.handle ++ leBytes 1 x.tenant ++ zeros 3
    else zeros 16
  | none => zeros 16

/-- DETOUR QUERY's response. -/
def detourReport (s : State) (m : Model) (t : Nat) : List Byte :=
  leBytes 1 (if m.detourHold then 1 else 0) ++ leBytes 1 s.searches.length ++ zeros 2 ++ (List.range 16).flatMap (searchReport s t)

/-- DETOUR QUERY. -/
def execDetourQuery (fn : Fn) (s : State) : Host.Outcome State Fault Refusal :=
  runCommand fn 0x0801 (opIs 2 1) detourCheck (fun pl t s =>
    match commandModel s t (leAt pl 0 2) with
    | none => s
    | some m => respond fn 0 (detourReport s m t) s) s

/-- A DETOUR operation that lands at its Milestone. -/
def detourCommand (fn : Fn) (op : Nat) (s : State) : Host.Outcome State Fault Refusal :=
  runCommand fn 0x0801 (opIs 2 op) detourCheck (fun pl t s =>
    match commandModel s t (leAt pl 0 2) with
    | none => s
    | some m => respondMilestone fn [] (later (.detour m.id op) s)) s

/-- DETOUR HOLD: no new searches of the model. -/
def execDetourHold (fn : Fn) (s : State) : Host.Outcome State Fault Refusal := detourCommand fn 2 s

/-- DETOUR UNHOLD. -/
def execDetourUnhold (fn : Fn) (s : State) : Host.Outcome State Fault Refusal := detourCommand fn 3 s

/-- DETOUR END_ALL. -/
def execDetourEndAll (fn : Fn) (s : State) : Host.Outcome State Fault Refusal := detourCommand fn 4 s

/-- A Detour operation takes effect: END_ALL ends every search of the model as a time limit does (R369). -/
def detourEffect (id op : Nat) (s : State) : State :=
  match op with
  | 2 => modModel id (fun m => { m with detourHold := true }) s
  | 3 => modModel id (fun m => { m with detourHold := false }) s
  | _ => endSearches id true s

/-! ## Power (R264, R267, R269, R390) -/

/-- The cap a POWER payload leaves in force. -/
def capAfter (s : State) (pl : List Byte) : Nat := min (if bit (byteAt pl 0) 0 then leAt pl 4 2 else s.disp.driverCap) s.boot.boardCap

/-- The largest LATENCY reservation on any Ridge. -/
def largestOnAny (s : State) : Nat := (List.range 68).foldl (fun a q => max a (reservedSlots s none q)) 0

/-- POWER's own rules: field ranges in order, then the cap against the reserved energy, then the floor. -/
def powerCheck (s : State) (pl : List Byte) (_ : Nat) : Option Refused :=
  let has := bit (byteAt pl 0)
  let limit := energyLimit (capAfter s pl)
  let energy := reservedEnergy s none
  firstRefusal [
    unless_ (!has 3 || byteAt pl 1 ≤ 2) (atField errBadConfig 1),
    unless_ (!has 4 || byteAt pl 2 ≤ 1) (atField errBadConfig 2),
    unless_ (!has 0 || (120 ≤ leAt pl 4 2 && leAt pl 4 2 ≤ 350)) (atField errBadConfig 4),
    unless_ (!has 1 || leAt pl 6 2 ≤ 100) (atField errBadConfig 6),
    unless_ (!has 2 || leAt pl 8 2 ≤ 254) (atField errBadConfig 8),
    if has 0 then deviceRow 0x0B noPlace energy limit else none,
    if has 2 then deviceRow 0x0A noPlace (leAt pl 8 2 + largestOnAny s) 240 else none,
    if has 2 then deviceRow 0x0B noPlace (leAt pl 12 4 + energy) limit else none]

/-- POWER: the fields of its mask apply together at the Milestone. -/
def execPower (fn : Fn) (s : State) : Host.Outcome State Fault Refusal :=
  runCommand fn 0x0901 anyOp powerCheck (fun pl _ s => respondMilestone fn [] (later (.power pl) s)) s

/-- A power command's fields land, but for the operating point, which changes at cycle 0 of the same Milestone. -/
def powerEffect (pl : List Byte) (s : State) : State :=
  let has := bit (byteAt pl 0)
  modDisp (fun d => { d with
    driverCap := if has 0 then leAt pl 4 2 else d.driverCap
    allowance := if has 1 then leAt pl 6 2 else d.allowance
    floorSlots := if has 2 then leAt pl 8 2 else d.floorSlots
    floorEnergy := if has 2 then leAt pl 12 4 else d.floorEnergy
    topPoint := if has 3 then Point.ofCode (byteAt pl 1) else d.topPoint
    autoStep := if has 4 then byteAt pl 2 == 1 else d.autoStep }) s

/-- A sensor's reading as SENSORS and SMBus report it. -/
def sensorWord (x : Sensor) : List Byte := leBytes 2 (if x.valid then ofSigned 16 x.reading else 0x8000)

/-- SENSORS' response: every sensor's reading, the measured power and P. -/
def sensorsReport (s : State) : List Byte :=
  s.sensors.flatMap sensorWord ++ leBytes 4 (s.disp.measuredMw.getD 0xFFFFFFFF) ++ leBytes 4 s.disp.fixedMw ++ zeros 4

/-- SENSORS. -/
def execSensors (fn : Fn) (s : State) : Host.Outcome State Fault Refusal :=
  runCommand fn 0x0902 anyOp noRules (fun _ _ s => respond fn 0 (sensorsReport s) s) s

/-! ## Event commands (R390, R433) -/

/-- EVENT_QUEUE's own rules, tested when the command enables the queue (log 46). -/
def eventQueueCheck (f : Nat) (_ : State) (pl : List Byte) (_ : Nat) : Option Refused :=
  if !bit (byteAt pl 10) 0 then none
  else firstRefusal [
    unless_ (leAt pl 0 8 % 4096 == 0) (atField errBadConfig 0),
    unless_ (6 ≤ byteAt pl 8 && byteAt pl 8 ≤ 16) (atField errBadConfig 8),
    unless_ (byteAt pl 9 < msixCount f) (atField errBadConfig 9)]

/-- EVENT_QUEUE: the queue is enabled or disabled with both pointers at 0. -/
def execEventQueue (fn : Fn) (s : State) : Host.Outcome State Fault Refusal :=
  runCommand fn 0x0A01 anyOp (eventQueueCheck fn) (fun pl _ s =>
    let q : EvtQueue := if bit (byteAt pl 10) 0
      then { EvtQueue.reset with enabled := true, base := leAt pl 0 8, k := byteAt pl 8, vec := byteAt pl 9 }
      else EvtQueue.reset
    respond fn 0 [] (resetQueue fn q s)) s

/-- EVENT_LOG's response: the newest sequence, and up to 120 entries from the first wanted. -/
def logReport (s : State) (first : Nat) : List Byte :=
  let es := (s.evLog.reverse.filter (fun e => first ≤ e.seq)).take 120
  leBytes 4 ((s.evLog.head?.map (·.seq)).getD 0xFFFFFFFF) ++ leBytes 2 es.length ++ zeros 2 ++ es.flatMap (fun e => e.bytes 0 0)

/-- EVENT_LOG. -/
def execEventLog (fn : Fn) (s : State) : Host.Outcome State Fault Refusal :=
  runCommand fn 0x0A02 anyOp noRules (fun pl _ s => respond fn 0 (logReport s (leAt pl 0 4)) s) s

/-! ## Diagnostics (R391) -/

/-- `n` free bytes. -/
def freeBytes : Nat → State → List Byte × State
  | 0, s => ([], s)
  | n + 1, s =>
    let b := nextFree 8 s
    let r := freeBytes n b.2
    (BitVec.ofNat 8 b.1 :: r.1, r.2)

/-- The bytes of a diagnostic read. Plots 913 to 951 and Trailhead table memory hold the device's own arrangements, which
the manual does not give: their bytes are free values (log 47). -/
def diagnosticBytes (s : State) (a n : Nat) : List Byte × State :=
  if (913 * plotSize < a + n && a < massifEnd) || tableBase ≤ a then freeBytes n s
  else (memBytes s.mem a n, s)

/-- MEM_READ's own rules. -/
def memReadCheck (_ : State) (pl : List Byte) (_ : Nat) : Option Refused :=
  let a := leAt pl 0 8
  let n := leAt pl 8 2
  firstRefusal [
    unless_ (a % 8 == 0 && mapped a 1) (atField errBadConfig 0),
    unless_ (n % 8 == 0 && 8 ≤ n && n ≤ 4000 && mapped a n) (atField errBadConfig 8)]

/-- What SECDED finds in a diagnostic read: Ridge SRAM answers to R140, every other memory to R238 and R239. -/
def diagnosticFinds (ecc : List EccFind) (a n : Nat) (s : State) : State :=
  if sramBase ≤ a && a < tableBase then
    (List.range (n / 8)).foldl (fun s i => (sramRead ((a + 8 * i - sramBase) / 0x200000) 1 (shiftEcc i ecc) s).2) s
  else readMem ecc 0 a n s

/-- The first word of a diagnostic read that cannot be delivered: poisoned, found now or before, or uncorrectable in Ridge SRAM,
which keeps no poison bit (Table 11.6, log 140). -/
def diagnosticBad (ecc : List EccFind) (a n : Nat) (s : State) : Option Nat :=
  if sramBase ≤ a && a < tableBase then ((List.range (n / 8)).find? (findsUe ecc)).map (fun i => a + 8 * i)
  else firstPoison s.mem a n

/-- MEM_READ: a word that cannot be delivered gives ERR_POISONED with its address, and no data. -/
def execMemRead (fn : Fn) (ecc : List EccFind) (s : State) : Host.Outcome State Fault Refusal :=
  runCommand fn 0x0B01 anyOp memReadCheck (fun pl _ s =>
    let a := leAt pl 0 8
    let n := leAt pl 8 2
    let s := diagnosticFinds ecc a n s
    match diagnosticBad ecc a n s with
    | some w => refuse fn (errPoisoned, leBytes 8 w) s
    | none =>
      let r := diagnosticBytes s a n
      respond fn 0 r.1 r.2) s

/-- Every plot of a range of Massif is a DATA plot. -/
def allData (s : State) (a n : Nat) : Bool :=
  a + n ≤ massifEnd &&
    (List.range ((a + n - 1) / plotSize + 1 - a / plotSize)).all (fun i => (s.plot (a / plotSize + i)).1 == .data)

/-- MEM_WRITE's own rules: its address names a DATA plot, its length is legal, and so is every byte of its range. -/
def memWriteCheck (s : State) (pl : List Byte) (_ : Nat) : Option Refused :=
  let a := leAt pl 0 8
  let n := leAt pl 8 2
  firstRefusal [
    unless_ (allData s a 1) (bare errNotPermitted),
    unless_ (1 ≤ n && n ≤ 4000) (atField errBadConfig 8),
    unless_ (allData s a n) (bare errNotPermitted)]

/-- MEM_WRITE: words in turn until the first that is refused (R241). -/
def execMemWrite (fn : Fn) (ecc : List EccFind) (s : State) : Host.Outcome State Fault Refusal :=
  runCommand fn 0x0B02 anyOp memWriteCheck (fun pl _ s =>
    let a := leAt pl 0 8
    let n := leAt pl 8 2
    let r := writeStop ecc 0 a (slice pl 16 n) (ceilDiv (a + n) 8 - a / 8) 0 s
    match r.1 with
    | some w => refuse fn (errPoisoned, leBytes 8 w) r.2
    | none => respond fn 0 [] r.2) s

/-- Code of a context's state (Table 17.14). -/
def CtxState.code : CtxState → Nat
  | .free => 0
  | .trailhead => 1
  | .signpost => 2
  | .awaiting => 3
  | .bound => 4
  | .parked => 5
  | .summit => 6
  | .remote => 7

/-- Source code and the port or stream of a context: 0 for a record that has neither. -/
def CtxSrc.report (r : Reply) : CtxSrc → Nat × Nat
  | .ethernet => (0, r.port)
  | .ring g _ _ => (1, g)
  | .member _ _ => (2, 0)
  | .detour _ _ => (3, 0)

/-- The block base a dump and a descriptor show. -/
def blockField (r : RecCtx) : List Byte := leBytes 2 (r.block.getD 0xFFFF)

/-- One pass descriptor of a dump (Tables 8.2 and 17.14). -/
def passDescriptor (m : Model) (r : RecCtx) (lastStage : Bool) (p : Nat) : List Byte :=
  let final := p + 1 == m.passCount
  let home := match r.src with | .member _ _ => false | _ => true
  let flag := fun (b : Bool) (k : Nat) => if b then 2 ^ k else 0
  let mask := (expectedMasks (m.passTrees r.version p)).foldl (fun a x => a ||| x.2) 0
  leBytes 1 r.tenant ++ leBytes 1 r.stage ++ leBytes 2 p ++ blockField r ++ leBytes 1 m.image.channels ++
    leBytes 1 (flag final 0 + flag (lastStage && home) 1 + flag m.image.fmode 2 + flag (m.image.fmode && m.image.sr) 3) ++
    leBytes 4 m.image.seed ++ zeros 4 ++ leBytes 8 mask ++ zeros 8

/-- The next pass descriptors of a record that awaits passes, has passes bound, or is parked: up to 8. -/
def nextDescriptors (s : State) (r : RecCtx) : List (List Byte) :=
  match r.state, stageModel s r with
  | .awaiting, some m | .bound, some m | .parked, some m =>
    ((List.range (m.passCount - r.nextAdd)).take 8).map (fun i => passDescriptor m r (r.stage + 1 == stageCount s r) (r.nextAdd + i))
  | _, _ => []

/-- Slots shown: one more than the highest slot written. -/
def dumpSlots (r : RecCtx) : Nat := r.slots.foldl (fun a p => max a (p.1 + 1)) 0

/-- The dump of a record context (Table 17.14). -/
def dumpBytes (s : State) (c : Nat) : List Byte :=
  match s.ctx? c with
  | none => zeros 24 ++ leBytes 2 0xFFFF ++ zeros 6
  | some r =>
    let n := dumpSlots r
    let ds := nextDescriptors s r
    let src := r.src.report r.reply
    leBytes 1 r.state.code ++ leBytes 1 r.tenant ++ leBytes 2 r.handle ++ leBytes 4 r.cookie ++ leBytes 8 r.recId ++
      leBytes 1 src.1 ++ zeros 1 ++ leBytes 2 src.2 ++ leBytes 2 n ++ leBytes 1 r.side.length ++ leBytes 1 ds.length ++
      blockField r ++ leBytes 1 r.stage ++ leBytes 1 (if r.heal then 1 else 0) ++ zeros 4 ++
      fitBytes (slotBytes r n) (alignUp n 8) ++ r.side.flatMap SideEntry.bytes ++ ds.flatten

/-- CONTEXT_DUMP's own rule: a virtual function may not name another tenant's context. -/
def dumpCheck (f : Nat) (s : State) (pl : List Byte) (t : Nat) : Option Refused :=
  unless_ (f == 0 || (s.ctx? (byteAt pl 0)).elim true (fun r => r.tenant == t)) (atField errNotOwner 0)

/-- CONTEXT_DUMP. -/
def execContextDump (fn : Fn) (s : State) : Host.Outcome State Fault Refusal :=
  runCommand fn 0x0B03 anyOp (dumpCheck fn)
    (fun pl _ s => respond fn 0 (dumpBytes s (byteAt pl 0)) s) s

/-- STATE_AUDIT's response: both views of every bit (Table 17.13). -/
def auditReport (s : State) : List Byte :=
  leBytes 16 (maskOf 68 (fun r => (s.ridge r).fenced)) ++ leBytes 16 (maskOf 68 (fun r => (s.ridge r).fencedView)) ++
    leBytes 1 (maskOf 8 (fun l => (s.port l).openBit)) ++ leBytes 1 (maskOf 8 (fun l => (s.port l).openView)) ++
    leBytes 2 (maskOf 16 (fun b => (s.bank b).fenced)) ++ leBytes 2 (maskOf 16 (fun b => (s.bank b).fencedView)) ++
    leBytes 1 (maskOf 8 (fun w => (s.walker w).fenced)) ++ leBytes 1 (maskOf 8 (fun w => (s.walker w).fencedView)) ++
    leBytes 4 (maskOf 32 (fun t => (s.tenant t).enable)) ++ leBytes 4 (maskOf 32 (fun t => (s.tenant t).enableView)) ++
    leBytes 4 s.mismatches

/-- STATE_AUDIT. -/
def execStateAudit (fn : Fn) (s : State) : Host.Outcome State Fault Refusal :=
  runCommand fn 0x0B05 anyOp noRules (fun _ _ s => respond fn 0 (auditReport s) s) s

/-! ## Taking commands (R377, R379) -/

/-- Check 8 of R381 on the payload fields that stand before a command's op field. -/
def fieldsBeforeOp (s : State) (f op : Nat) (pl : List Byte) (t : Nat) : Option Refused :=
  match op with
  | 0x0206 => unless_ (byteAt pl 0 < 16) (atField errBadConfig 0)
  | 0x0303 => portNamed s pl 0
  | 0x0501 => firstRefusal (wmkRangeRules f s pl t)
  | 0x0602 => firstRefusal (streamNamed pl)
  | 0x0701 => refitCheck anyRefit s pl t
  | 0x0801 => detourCheck s pl t
  | _ => none

/-- Why firmware answers a command as it takes it: an unknown opcode, or an op code that no command has, which is refused after
the fields before it. -/
def unknownCommand (s : State) (f : Nat) (m : Mailbox) : Option Refused :=
  match cmdSpec s (pageOp m.run) (pageArea m.run), opField (pageOp m.run) with
  | none, _ => some ((commonCheck s f m).getD (bare errBadOpcode))
  | some _, some (o, legal) =>
    if legal.contains (byteAt (pageArea m.run) o) then none
    else some ((firstRefusal [commonCheck s f m, fieldsBeforeOp s f (pageOp m.run) (pagePayload m.run) (pageTenant m.run)]).getD
      (atField errBadConfig o))
  | some _, none => none

/-- Firmware takes one PENDING mailbox. -/
def takeCommand (s : State) (f : Nat) : State :=
  let s := modMbx f (fun m => { m with state := .running, run := m.cmd, taken := s.time.epoch }) s
  match unknownCommand s f (s.fn f).mbx with
  | some r => refuse f r s
  | none => { s with taken := s.taken ++ [f] }

/-- PENDING mailboxes in the order firmware takes them; one whose reset command still runs waits (log 30). -/
def pendingBoxes (s : State) : List Nat :=
  (List.range 33).filter (fun f => (s.fn f).mbx.state == .pending && (s.fn f).mbx.due.isNone && !s.taken.contains f)

/-- Take up to 8 commands, and refuse those left whose deadline is this epoch's start. -/
def takeCommands (s : State) : State :=
  let boxes := pendingBoxes s
  let s' := (boxes.take 8).foldl takeCommand s
  (boxes.drop 8).foldl (fun s f =>
    let m := (s.fn f).mbx
    let d := pageDeadline m.cmd
    if d ≠ 0 ∧ m.rungIn + d ≤ s.time.epoch then
      let s := modMbx f (fun m => { m with run := m.cmd, taken := m.rungIn + d + 1 }) s
      refuse f ((commonCheck s f (s.fn f).mbx).getD (bare errTimeout)) s
    else s) s'

end Sys2Proof.Machine
end

