-- ==== Sys2Proof/Machine/Registers.lean ====
section
/-! DEFINITION. Interrupts, event queues and the registers of BAR0 (R9, R412 to R415, R430 to R440). -/

namespace Sys2Proof.Machine

/-! ## MSI-X (R434) -/

/-- The message of a vector leaves: its pending bit clears. -/
def sendVector (f v : Nat) (s : State) : State :=
  let e := (s.fn f).msix.getD v MsixEntry.reset
  emit (.msix f v e.addr e.data) (modFn f (fun x => { x with pba := if bit x.pba v then x.pba - 2 ^ v else x.pba }) s)

/-- A due message goes out, or sets its vector's pending bit while the vector is masked; a vector beyond the function's
table names no entry (log 9). -/
def deliverVector (f v : Nat) (s : State) : State :=
  if msixCount f ≤ v then s
  else if ((s.fn f).msix.getD v MsixEntry.reset).masked then
    modFn f (fun x => { x with pba := x.pba ||| 2 ^ v }) s
  else sendVector f v s

/-- MSIX_MESSAGE: the function's first due message (R287). -/
def execMsixMessage (fn : Fn) (s : State) : Host.Outcome State Fault Refusal :=
  match (s.fn fn).msixDue with
  | [] => .next s
  | v :: rest => .next (deliverVector fn v (modFn fn (fun x => { x with msixDue := rest }) s))

/-- A write of one dword of an MSI-X entry, in the PCIe layout; unmasking a pending vector sends its message (log 9). -/
def writeMsix (f i dword value : Nat) (s : State) : State :=
  let v := value % 2 ^ 32
  let set := fun (g : MsixEntry → MsixEntry) => modFn f (fun x => { x with msix := x.msix.modify i g }) s
  match dword with
  | 0 => set (fun e => { e with addr := e.addr / 2 ^ 32 * 2 ^ 32 + v / 4 * 4 })
  | 1 => set (fun e => { e with addr := v * 2 ^ 32 + e.addr % 2 ^ 32 })
  | 2 => set (fun e => { e with data := v })
  | _ =>
    let s := set (fun e => { e with masked := bit v 0 })
    if !bit v 0 && bit (s.fn f).pba i then sendVector f i s else s

/-- BAR0 offset of the MSI-X table. -/
def msixBase : Nat := 0x5000

/-- A BAR0 offset lies in a function's MSI-X table. -/
def inMsix (f o : Nat) : Bool := msixBase ≤ o && o < msixBase + 16 * msixCount f

/-- MSIX_TABLE_WRITE: an aligned 32-bit write inside the table; `offset` is from BAR0. -/
def execMsixTableWrite (fn : Fn) (offset value : Nat) (s : State) : Host.Outcome State Fault Refusal :=
  if inMsix fn offset && offset % 4 == 0 then
    .next (writeMsix fn ((offset - msixBase) / 16) ((offset - msixBase) % 16 / 4) value s)
  else .next s

/-! ## Event queues (R412 to R415, R433, R441) -/

/-- The vector of a queue fires after an entry: at once, or 2 µs after the queue's last message (R415). -/
def signalQueue (f : Nat) (s : State) : State :=
  let q := (s.fn f).evq
  let set := fun (g : EvtQueue → EvtQueue) => modFn f (fun x => { x with evq := g x.evq }) s
  if q.msgDue then s
  else if q.lastMsg.elim true (fun t => t + 200 ≤ s.time.time) then
    fireVector f q.vec (set (fun q => { q with lastMsg := some s.time.time }))
  else set (fun q => { q with msgDue := true })

/-- An entry is written at TAIL: bytes 8 to 31 and then bytes 0 to 7, its cause bit and its message (R412, R413). -/
def writeEntry (f : Nat) (e : Event) (s : State) : State :=
  let q := (s.fn f).evq
  let phase := 1 - q.tail / 2 ^ q.k % 2
  let bs := e.bytes phase (if q.lost then 1 else 0)
  let a := q.base + 32 * (q.tail % 2 ^ q.k)
  let s := hostWrite f a (bs.take 8) false (hostWrite f (a + 8) (bs.drop 8) false s)
  signalQueue f (setCause f 2 (modFn f (fun x => { x with evq := { x.evq with tail := incMod 32 x.evq.tail, lost := false } }) s))

/-- The queue is full (R433). -/
def evtFull (q : EvtQueue) : Bool := (q.tail + 2 ^ 32 - q.head) % 2 ^ 32 == 2 ^ q.k

/-- An event meets a function's queue: dropped when it is full, held while entries wait or its page is not translated,
written otherwise. A queue that is not enabled takes nothing (R414, R441). -/
def offerEntry (e : Event) (f : Nat) (s : State) : State :=
  let q := (s.fn f).evq
  let hold := fun (s : State) => modFn f (fun x => { x with evq := { x.evq with waiting := x.evq.waiting ++ [e] } }) s
  if !q.enabled then s
  else if !q.waiting.isEmpty then hold s
  else if evtFull q then markLost f (count (cFn f 3) 1 s)
  else
    let r := lookup f [(eventPage s f, true)] s
    if r.1 then writeEntry f e r.2 else hold r.2

/-- The first entry that waits in a function's queue is written once its page is translated. -/
def drainQueue (s : State) (f : Nat) : State :=
  let q := (s.fn f).evq
  match q.waiting with
  | [] => s
  | e :: rest =>
    let pop := fun (s : State) => modFn f (fun x => { x with evq := { x.evq with waiting := rest } }) s
    if s.dma.pris.any (fun w => w.who == .event f) then s
    else if evtFull q then markLost f (count (cFn f 3) 1 (pop s))
    else
      let r := lookup f [(eventPage s f, true)] s
      if r.1 then writeEntry f e (pop r.2) else r.2

/-- EVENT_ENTRY_WRITE: entries that waited for their page, then the oldest event of the engine's buffer (R413). -/
def execEventEntryWrite (s : State) : Host.Outcome State Fault Refusal :=
  let s := (List.range 33).foldl drainQueue s
  match s.evBuf with
  | [] => .next s
  | e :: rest => .next ((eventFns e.tenant).foldl (fun s f => offerEntry e f s) { s with evBuf := rest })

/-- EVENT_MSIX_COALESCE: 2 µs after the queue's last message, one message covers the entries written since (R415). -/
def execEventMsixCoalesce (fn : Fn) (s : State) : Host.Outcome State Fault Refusal :=
  let q := (s.fn fn).evq
  if q.msgDue && q.lastMsg.elim true (fun t => t + 200 ≤ s.time.time) then
    .next (fireVector fn q.vec (modFn fn (fun x => { x with
      evq := { x.evq with msgDue := false, lastMsg := some s.time.time } }) s))
  else .next s

/-- A write of EVT_QUEUE_HEAD: accepted when it moves neither back nor past the tail, else ignored and counted (R433). -/
def writeHead (f value : Nat) (s : State) : State :=
  let q := (s.fn f).evq
  let h := value % 2 ^ 32
  if q.enabled && (h + 2 ^ 32 - q.head) % 2 ^ 32 ≤ (q.tail + 2 ^ 32 - q.head) % 2 ^ 32 then
    modFn f (fun x => { x with evq := { x.evq with head := h } }) s
  else count (cFn f 4) 1 s

/-- EVT_QUEUE_HEAD_WRITE. -/
def execEvtQueueHeadWrite (fn : Fn) (value : Nat) (s : State) : Host.Outcome State Fault Refusal := .next (writeHead fn value s)

/-- A write of EVT_INT_CAUSE: each 1 clears its bit (R10, R432). -/
def writeCause (f value : Nat) (s : State) : State :=
  modFn f (fun x => { x with cause := x.cause &&& (2 ^ 32 - 1 - value % 2 ^ 32) }) s

/-- EVT_INT_CAUSE_WRITE. -/
def execEvtIntCauseWrite (fn : Fn) (value : Nat) (s : State) : Host.Outcome State Fault Refusal := .next (writeCause fn value s)

/-! ## Reading BAR0 (Tables 20.1 to 20.7) -/

/-- Low or high half of a 64-bit value, by the offset's place in it. -/
def half (v o : Nat) : Nat := if o % 8 = 0 then v % 2 ^ 32 else v / 2 ^ 32 % 2 ^ 32

/-- Code of MBX_STATUS.STATE (Table 17.1). -/
def MbxState.code : MbxState → Nat
  | .booting => 0
  | .ready => 1
  | .pending => 2
  | .running => 3
  | .done => 4

/-- Code of PHASE (Table 18.8). -/
def Phase.code : Phase → Nat
  | .rom => 0
  | .firmwareInit => 1
  | .ready => 2
  | .failed => 3

/-- A bit at a place. -/
def bitAt (b : Bool) (k : Nat) : Nat := if b then 2 ^ k else 0

/-- MBX_BOOT_STATUS (Table 18.8). -/
def bootStatus (b : BootSt) : Nat :=
  b.phase.code + b.errA * 2 ^ 8 + b.errB * 2 ^ 16 + bitAt b.slotB 24 + bitAt b.initFail 25

/-- MBX_FUNCTION (Table 20.2). -/
def functionWord (f : Nat) : Nat := f + (if f = 0 then 0xFF else f - 1) * 2 ^ 8 + 3 * 2 ^ 16 + 0x43 * 2 ^ 24

/-- The function control page (Table 20.2). -/
def controlWord (s : State) (f o : Nat) : Nat :=
  let x := s.fn f
  match o with
  | 0x000 => functionWord f
  | 0x008 => half s.time.tick 0
  | 0x00C => half s.time.tick 4
  | 0x010 => half s.time.time 0
  | 0x014 => half s.time.time 4
  | 0x024 => x.mbx.state.code + x.mbx.seq * 2 ^ 16
  | 0x028 => bitAt x.mbx.ie 0 + x.mbx.vec * 2 ^ 8
  | 0x02C => bootStatus s.boot
  | 0x040 => x.evq.tail
  | 0x044 => x.evq.head
  | 0x048 => bitAt x.evq.enabled 0 + x.evq.k * 2 ^ 8
  | 0x050 => x.cause
  | _ => 0

/-- A descriptor of a stream awaits PRI: for an element, an answer or its status word (Table 14.2, R311, R441). -/
def awaitsPri (s : State) (g : Nat) : Bool :=
  (s.stream g).descs.any (·.halted) || s.dma.pris.any (fun w => match w.who with
    | .element h _ | .answer h | .status h _ => h == g
    | .event _ | .fetch => false)

/-- A stream's registers (Table 14.2). -/
def streamWord (s : State) (g o : Nat) : Nat :=
  let x := s.stream g
  match o with
  | 0 => x.tail
  | 4 => x.head
  | 8 => (if x.mode = .stopped then 0 else if awaitsPri s g then 2 else 1) + x.descs.countP (·.inFlight) * 2 ^ 8
  | _ => 0

/-- A wait slot's registers (Table 13.4): TARGET and TIMEOUT of a slot whose index lies outside the range read 0 (R276,
log 122). -/
def waitWord (s : State) (f : Nat) (w : WaitSlot) (o : Nat) : Nat :=
  match o with
  | 0 => if (wmkIndex s f w.index).isNone then 0 else w.target
  | 4 => if (wmkIndex s f w.index).isNone then 0 else w.timeout
  | 8 => w.index + w.vec * 2 ^ 16 + bitAt w.ie 19
  | _ => w.state.code

/-- An MSI-X entry's dwords. -/
def msixWord (e : MsixEntry) (o : Nat) : Nat :=
  match o with
  | 0 => half e.addr 0
  | 4 => half e.addr 4
  | 8 => e.data
  | _ => bitAt e.masked 0

/-- A Waymark window entry's registers; 0 outside the range (Table 13.3, R276). -/
def windowWord (s : State) (f o : Nat) : Nat :=
  match wmkIndex s f (o / 16) with
  | none => 0
  | some n =>
    let w := s.waymark n
    match o % 16 with
    | 0 => w.count
    | 12 => w.stateValue
    | _ => 0

/-- The counter slot at an offset of a function's window, as an offset in the counter store; none for an instance that
does not exist (R436 to R438). -/
def counterKey (s : State) (f o : Nat) : Option Nat :=
  let k := o / 8 * 8
  if f = 0 then
    if 0x1000 ≤ k ∧ k < 0x1800 then (if portExists s ((k - 0x1000) / 0x100) then some k else none) else some k
  else if k < 0x40 then some (cFn f (k / 8))
  else if 0x100 ≤ k ∧ k < 0x200 then some (cTen (f - 1) (k - 0x100))
  else if 0x200 ≤ k ∧ k < 0x400 then some (cStr (8 * f + (k - 0x200) / 0x40) ((k - 0x200) % 0x40 / 8))
  else none

/-- A half of a counter. -/
def counterWord (s : State) (f o : Nat) : Nat := half ((counterKey s f o).elim 0 s.counter) o

/-- Code of a link state (Table 20.7). -/
def LinkMode.code : LinkMode → Nat
  | .down => 0
  | .training => 1
  | .up => 2
  | .active => 3

/-- ZTH_LINK_STATE. -/
def linkStates (s : State) : Nat := ((List.range 16).map (fun i => (s.saddle i).mode.code * 4 ^ i)).sum

/-- The fence bits of the Ridges. -/
def fenceBits (s : State) : Nat := maskOf 68 (fun r => (s.ridge r).fenced)

/-- The device register page (Table 20.7). -/
def deviceWord (s : State) (o : Nat) : Nat :=
  let d := s.disp
  match o with
  | 0x000 => d.budget % 2 ^ 32
  | 0x004 => d.charged % 2 ^ 32
  | 0x008 => d.debt % 2 ^ 32
  | 0x00C => d.fixedMw % 2 ^ 32
  | 0x010 => if s.boot.phase = .ready then d.cap else 0
  | 0x014 => d.tempMax.elim 0x8000 (ofSigned 16)
  | 0x018 => d.level
  | 0x01C => d.point.code
  | 0x020 => linkStates s
  | 0x040 => half (fenceBits s) 0
  | 0x044 => half (fenceBits s) 4
  | 0x048 => half (fenceBits s / 2 ^ 64) 0
  | _ => 0

/-- The aligned 32-bit word at a BAR0 offset, live (Table 20.1). WMK_REMOTE, which has no access code, reads the last value
written (DESIGN CHOICE, log 123). -/
def word32 (s : State) (f o : Nat) : Nat :=
  let x := s.fn f
  if o < 0x1000 then controlWord s f o
  else if o < 0x2000 then leAt x.mbx.cmd (o - 0x1000) 4
  else if o < 0x3000 then leAt x.mbx.resp (o - 0x2000) 4
  else if inMsix f o then msixWord (x.msix.getD ((o - msixBase) / 16) MsixEntry.reset) ((o - msixBase) % 16)
  else if o = 0x5800 ∨ o = 0x5804 then half x.pba o
  else if 0x30000 ≤ o ∧ o < 0x31000 then (if f = 0 then deviceWord s (o - 0x30000) else 0)
  else if !s.windowOpen f then 0
  else if 0x3000 ≤ o ∧ o < 0x3200 then streamWord s (8 * f + (o - 0x3000) / 0x40) ((o - 0x3000) % 0x40)
  else if 0x4000 ≤ o ∧ o < 0x4100 then waitWord s f (x.waits.getD ((o - 0x4000) / 16) WaitSlot.idle) ((o - 0x4000) % 16)
  else if o = 0x4100 ∨ o = 0x4104 then half x.wmkRemote o
  else if 0x10000 ≤ o ∧ o < 0x20000 then windowWord s f (o - 0x10000)
  else if 0x20000 ≤ o ∧ o < 0x30000 then counterWord s f (o - 0x20000)
  else 0

/-- The bytes at a BAR0 offset, with no side effect (R431). -/
def barPeek (s : State) (f o n : Nat) : List Byte :=
  (List.range n).map (fun i => BitVec.ofNat 8 (word32 s f ((o + i) / 4 * 4) / 256 ^ ((o + i) % 4)))

/-- A BAR0 offset names a 64-bit register. -/
def isReg64 (f o : Nat) : Bool :=
  let k := o / 8 * 8
  k == 0x008 || k == 0x010 || k == 0x4100 || k == 0x5800 || (0x20000 ≤ k && k < 0x30000) ||
    (f == 0 && (k == 0x30040 || k == 0x30048))

/-- The offset of PRT_LAT_MAX_CYC, the one RC field, when a read of physical function 0 names it (R436). -/
def latMaxKey (s : State) (f o : Nat) : Option Nat :=
  let k := o / 8 * 8 - 0x20000
  if f = 0 ∧ 0x21000 ≤ o ∧ o < 0x21800 ∧ k % 0x100 = pLatMax ∧ portExists s ((k - 0x1000) / 0x100) then some k else none

/-- The RC field is cleared by the access that returns its low half. -/
def clearRc (f o : Nat) (s : State) : State := (latMaxKey s f o).elim s (fun k => setCounter k 0 s)

/-- A naturally aligned 32-bit read (R9, R431): at +0 of a 64-bit register the high half is captured, and the next read at
+4 returns the snapshot. -/
def read32 (f o : Nat) (s : State) : List Byte × State :=
  if !isReg64 f o then (barPeek s f o 4, s)
  else if o % 8 = 0 then
    (barPeek s f o 4, clearRc f o (modFn f (fun x => { x with snap := some (o, word32 s f (o + 4)) }) s))
  else
    match (s.fn f).snap with
    | some (b, h) =>
      if b + 4 = o then (leBytes 4 h, modFn f (fun x => { x with snap := none }) s) else (barPeek s f o 4, s)
    | none => (barPeek s f o 4, s)

/-- A BAR0 read of `n` bytes: an aligned 32-bit or 64-bit access, or the bytes with no side effect (R431). -/
def readBar (f o n : Nat) (s : State) : List Byte × State :=
  if n = 4 ∧ o % 4 = 0 then read32 f o s
  else if n = 8 ∧ o % 8 = 0 then
    if isReg64 f o then (barPeek s f o 8, clearRc f o s)
    else
      let a := read32 f o s
      let b := read32 f (o + 4) a.2
      (a.1 ++ b.1, b.2)
  else (barPeek s f o n, s)

/-- A BAR0 read: its value leaves, with the side effects of its access. It returns the state after every Waymark update
ordered before it (R285, R289). -/
def readOut (f o n : Nat) (s : State) : State :=
  let r := readBar f o n (wmkFlush s)
  emit (.barRead f o r.1) r.2

/-- COUNTER_RC_READ: a read of `size` bytes at a BAR0 offset; PRT_LAT_MAX_CYC clears with its low half (R436). -/
def execCounterRcRead (fn : Fn) (offset size : Nat) (s : State) : Host.Outcome State Fault Refusal :=
  .next (readOut fn offset size s)

/-- REG64_LOW_READ: a 32-bit read at a BAR0 offset (R9). -/
def execReg64LowRead (fn : Fn) (offset : Nat) (s : State) : Host.Outcome State Fault Refusal := .next (readOut fn offset 4 s)

/-! ## Writing BAR0 (R10 to R12, R431) -/

/-- A 32-bit write at +0 of the one writable 64-bit register is held for the write at +4 (R9, R288); a 64-bit write between
the two leaves it held (DESIGN CHOICE, log 108). -/
def holdLow (f value : Nat) (s : State) : State :=
  if s.windowOpen f then modFn f (fun x => { x with hold := some (0x4100, value % 2 ^ 32) }) s else s

/-- The write at +4 commits both halves: the held low half, or the live one (R9). -/
def commitHigh (f value : Nat) (s : State) : State :=
  let x := s.fn f
  let low := (x.hold.map (·.2)).getD (x.wmkRemote % 2 ^ 32)
  remoteSignal f (value % 2 ^ 32 * 2 ^ 32 + low) (modFn f (fun x => { x with hold := none }) s)

/-- REG64_LOW_WRITE: read-only 64-bit registers and counters ignore it. -/
def execReg64LowWrite (fn : Fn) (offset value : Nat) (s : State) : Host.Outcome State Fault Refusal :=
  .next (if offset = 0x4100 then holdLow fn value s else s)

/-- REG64_HIGH_WRITE. -/
def execReg64HighWrite (fn : Fn) (offset value : Nat) (s : State) : Host.Outcome State Fault Refusal :=
  .next (if offset = 0x4104 then commitHigh fn value s else s)

/-- A write of the command page: any length; ignored and counted while the page is locked (R376, R431). -/
def writeCommandPage (f o : Nat) (data : List Byte) (s : State) : State :=
  match (s.fn f).mbx.state with
  | .pending | .running => count (cFn f 2) 1 s
  | _ => modMbx f (fun m => { m with cmd := overlay m.cmd o data }) s

/-- A write of MBX_CTRL; a virtual function's VEC has 3 bits (Table 17.1, R372). -/
def writeMbxCtrl (f value : Nat) (s : State) : State :=
  modMbx f (fun m => { m with ie := bit value 0, vec := if f = 0 then bits value 13 8 else bits value 10 8 }) s

/-- A 32-bit write of a wait slot's register (Table 13.4). -/
def writeWait (f o value : Nat) (s : State) : State :=
  let j := o / 16
  let set := fun (g : WaitSlot → WaitSlot) => modFn f (fun x => { x with waits := x.waits.modify j g }) s
  if !s.windowOpen f then s
  else
    let inside := (wmkIndex s f ((s.fn f).waits.getD j WaitSlot.idle).index).isSome
    match o % 16 with
    | 0 => if inside then set (fun w => { w with target := value }) else wmkRangeDrop f s
    | 4 => if inside then set (fun w => { w with timeout := value }) else wmkRangeDrop f s
    | 8 => writeWaitCtrl f j value s
    | _ => s

/-- A write of a Waymark inside the range, by its register and operation (Table 13.3). -/
def windowOp (o value n : Nat) (s : State) : State :=
  let a := bits value 31 8
  match o % 16 with
  | 4 => wmkPost 0 n (.signal (bits value 30 0) (bit value 31)) s
  | 8 =>
    match bits value 2 0 with
    | 1 => if a = 0 then wmkPost 0 n .reset s else s
    | 2 => wmkPost 0 n (.arm a) s
    | 3 => if a = 0 then wmkPost 0 n .clearErr s else s
    | 4 => if a = 0 then wmkPost 0 n (.remote true) s else s
    | 5 => if a = 0 then wmkPost 0 n (.remote false) s else s
    | _ => s
  | _ => s

/-- A 32-bit write of a Waymark window entry; outside the range it is ignored and counted (R276). -/
def writeWindow (f o value : Nat) (s : State) : State := wmkWindow f (o / 16) (fun n s => windowOp o value n s) s

/-- An aligned 32-bit write at a BAR0 offset: it acts by its access code, or is ignored (R10, R12, R436). -/
def write32 (f o value : Nat) (s : State) : State :=
  if o = 0x020 then ringDoorbell f value s
  else if o = 0x028 then writeMbxCtrl f value s
  else if o = 0x044 then writeHead f value s
  else if o = 0x050 then writeCause f value s
  else if 0x3000 ≤ o ∧ o < 0x3200 ∧ o % 0x40 = 0 then writeTail f ((o - 0x3000) / 0x40) value s
  else if 0x4000 ≤ o ∧ o < 0x4100 then writeWait f (o - 0x4000) value s
  else if o = 0x4100 then holdLow f value s
  else if o = 0x4104 then commitHigh f value s
  else if inMsix f o then writeMsix f ((o - msixBase) / 16) ((o - msixBase) % 16 / 4) value s
  else if 0x10000 ≤ o ∧ o < 0x20000 then writeWindow f (o - 0x10000) value s
  else s

/-- A BAR0 write: the command page takes any length, registers take aligned 32-bit and 64-bit writes (R431). -/
def writeBar (f o : Nat) (data : List Byte) (s : State) : State :=
  if 0x1000 ≤ o ∧ o < 0x2000 then writeCommandPage f (o - 0x1000) data s
  else if data.length = 4 ∧ o % 4 = 0 then write32 f o (leNat data) s
  else if data.length = 8 ∧ o % 8 = 0 then
    if o = 0x4100 then remoteSignal f (leNat data) s
    else if isReg64 f o then s
    else write32 f (o + 4) (leAt data 4 4) (write32 f o (leAt data 0 4) s)
  else s

/-- REGISTER_WRITE (R431). -/
def execRegisterWrite (fn : Fn) (offset : Nat) (data : List Byte) (s : State) : Host.Outcome State Fault Refusal :=
  .next (writeBar fn offset data s)

end Sys2Proof.Machine
end

