-- ==== Sys2Proof/Machine/Boot.lean ====
section
/-! DEFINITION. Resets, signed boot, readiness, SMBus, boundary scan and the thermal trip (chapter 18). -/

namespace Sys2Proof.Machine

/-! ## Resets (R397 to R399, Table 18.4) -/

/-- Everything outside the always-on domain at its reset value, with the boot state `b`; what the model itself keeps (its
queue, its record of outputs, its count of free values) stays. -/
def resetDevice (b : BootSt) (s : State) : State :=
  { State.reset with
    pending := s.pending, out := s.out, freeIdx := s.freeIdx, boot := b
    time := { TimeSt.reset with clockOn := b.powerGood && b.perstN && !b.straps.testEn && !b.thermTrip }
    disp := { DispSt.reset with boardCap := b.boardCap } }

/-- The boot state after a reset that keeps the always-on domain. -/
def keptBoot (s : State) (cause : Nat) (link : Bool) : BootSt :=
  { BootSt.reset with
    powerGood := s.boot.powerGood, perstN := s.boot.perstN, straps := s.boot.straps, thermTrip := s.boot.thermTrip
    resetCause := cause, boardCap := s.boot.boardCap, smbusUp := s.boot.smbusUp, pcieLink := link, jtagIr := s.boot.jtagIr }

/-- VDD_AUX_RISE: a cold reset, the always-on domain included; POWER_GOOD and PERST_N are low (R392, R397). -/
def execVddAuxRise (s : State) : Host.Outcome State Fault Refusal :=
  .next (resetDevice { BootSt.reset with powerGood := false, perstN := false, smbusUp := false, pcieLink := false } s)

/-- POWER_GOOD_RISE: the straps are latched (R396). -/
def execPowerGoodRise (straps : Straps) (s : State) : Host.Outcome State Fault Refusal :=
  if s.boot.powerGood then .next s
  else .next (resetDevice { (keptBoot s s.boot.resetCause s.boot.perstN) with powerGood := true, straps := straps } s)

/-- POWER_GOOD_FALL: a power reset; the straps and THERMTRIP_N are let go, and the cause of a thermal trip stays (R396,
R397, R409, log 49). -/
def execPowerGoodFall (s : State) : Host.Outcome State Fault Refusal :=
  if !s.boot.powerGood then .next s
  else .next (resetDevice { (keptBoot s (if s.boot.thermTrip then 4 else 1) false) with
    powerGood := false, straps := Straps.zero, thermTrip := false, smbusUp := false } s)

/-- PERST_N_FALL: a fundamental reset (R397, R398). While THERMTRIP_N is latched its cause stays (log 49). -/
def execPerstNFall (s : State) : Host.Outcome State Fault Refusal :=
  if !s.boot.perstN then .next s
  else .next (resetDevice { (keptBoot s (if s.boot.thermTrip then 4 else 2) false) with perstN := false } s)

/-- PERST_N_RISE: the device leaves reset, unless POWER_GOOD is low, TEST_EN is set or the trip is latched (R396, R399). -/
def execPerstNRise (s : State) : Host.Outcome State Fault Refusal :=
  if s.boot.perstN then .next s
  else .next (resetDevice { (keptBoot s s.boot.resetCause s.boot.powerGood) with perstN := true } s)

/-- A function 0 or watchdog reset: as fundamental, with the PCIe link kept. -/
def linkKeptReset (cause : Nat) (s : State) : State := resetDevice (keptBoot s cause s.boot.pcieLink) s

/-- PF0_FUNCTION_LEVEL_RESET (R397). -/
def execPf0FunctionLevelReset (s : State) : Host.Outcome State Fault Refusal :=
  if s.time.clockOn && s.boot.pcieLink then .next (linkKeptReset 3 s) else .next s

/-- WATCHDOG_EXPIRY: firmware that runs has missed its watchdog (R397). -/
def execWatchdogExpiry (s : State) : Host.Outcome State Fault Refusal :=
  if s.time.clockOn && s.boot.fwRunning then .next (linkKeptReset 5 s) else .next s

/-- THERMAL_TRIP: the core clock stops, THERMTRIP_N is latched low and the cause recorded, whatever the sensor's reading
and state (R409, R428). -/
def execThermalTrip (_sensor : Fin 16) (s : State) : Host.Outcome State Fault Refusal :=
  if s.boot.powerGood then
    .next (modBoot (fun b => { b with thermTrip := true, resetCause := 4 }) { s with time := { s.time with clockOn := false } })
  else .next s

/-! ## Boot from flash (R400 to R402) -/

/-- A slot header's fields, but for its security version (Table 18.6). -/
def headerLegal (h : List Byte) : Bool :=
  let len := leAt h 12 4
  h.length == 4096 && slice h 0 4 == [0x4D, 0x46, 0x57, 0x53] && leAt h 4 2 == 1 && leAt h 6 2 ≤ 3 &&
    len % 4096 == 0 && 4096 ≤ len && len ≤ 8384512 && allZero (slice h 20 12) && allZero (slice h 129 31) && allZero (slice h 304 3792)

/-- The header's security version, and whether it reaches the fused minimum. -/
def headerVersion (h : List Byte) : Nat := leAt h 8 4
def versionLegal (h : List Byte) : Bool := Config.minSecurityVersion ≤ headerVersion h

/-- The result code of a slot (Table 18.8), in the order of R401 (log 50). -/
def slotResult (r : SlotRead) : Nat :=
  let h := r.header
  let key := slice h 32 97
  if r.readError then 6
  else if !headerLegal h then 1
  else if !versionLegal h then 3
  else if Config.keyRevoked (leAt h 6 2) || sha384 key != Config.fusedKeyDigest (leAt h 6 2) then 2
  else if !Config.ecdsaP384Verify key (sha384 (h.take 208)) (slice h 208 96) then 5
  else if sha384 r.image != slice h 160 48 then 4
  else 0

/-- The slots that BOOT_SEL allows. -/
def allowedSlots (sel : Nat) : List Slot :=
  match sel with
  | 0 => [.a, .b]
  | 1 => [.a]
  | 2 => [.b]
  | _ => []

/-- Under BOOT_SEL 00 the slot of the higher security version among legal headers comes first, slot A on a tie. -/
def firstSlot (r : SlotRead) : Slot :=
  let other : Slot := if r.slot = .a then .b else .a
  let rank := fun (h : List Byte) => if headerLegal h && versionLegal h then headerVersion h + 1 else 0
  let mine := rank r.header
  let theirs := rank r.otherHeader
  if theirs < mine then r.slot else if mine < theirs then other else .a

/-- The slot the boot ROM reads next. -/
def nextSlot (s : State) (r : SlotRead) : Option Slot :=
  let left := (allowedSlots s.boot.straps.bootSel).filter (fun x => !s.boot.tried.contains x)
  match left with
  | [.a, .b] => some (firstSlot r)
  | x :: _ => some x
  | [] => none

/-- The boot ROM is at work. -/
def inRom (s : State) : Bool := s.time.clockOn && !s.boot.fwRunning && !s.boot.configReady

/-- BOOT_SLOT_READ_DONE: the slot runs when it is valid, and its result is reported when it is not (R401, R404). -/
def execBootSlotReadDone (read : SlotRead) (s : State) : Host.Outcome State Fault Refusal :=
  if !inRom s || nextSlot s read != some read.slot then .next s
  else
    let code := slotResult read
    .next (modBoot (fun b =>
      let b := { b with
        tried := b.tried ++ [read.slot]
        errA := if read.slot = .a then code else b.errA
        errB := if read.slot = .b then code else b.errB }
      if code = 0 then { b with fwRunning := true, slotB := read.slot == .b, fwVersion := leAt read.header 16 4 } else b) s)

/-- Firmware runs, or no slot is left to try. -/
def romDone (s : State) : Bool :=
  s.boot.fwRunning || (allowedSlots s.boot.straps.bootSel).all s.boot.tried.contains

/-- CONFIG_READY: FIRMWARE_INIT, or FAILED when no slot was valid (R402, R405). -/
def execConfigReady (s : State) : Host.Outcome State Fault Refusal :=
  if s.time.clockOn && !s.boot.configReady && romDone s then
    .next (modBoot (fun b => { b with configReady := true, phase := if b.fwRunning then .firmwareInit else .failed }) s)
  else .next s

/-! ## The board configuration block (R403) -/

/-- Why a board block is ignored: 0 magic, 1 version, 2 CRC, 3 a field (Table 19.3). -/
def boardFlaw (b : List Byte) : Option Nat :=
  let eth := fun (o : Nat) => byteAt b o ≤ 2 && byteAt b (o + 1) ≤ 1 && byteAt b (o + 2) ≤ 1
  if slice b 0 4 ≠ [0x43, 0x4B, 0x42, 0x43] then some 0
  else if byteAt b 4 ≠ 1 then some 1
  else if fcsOf (b.take 28) ≠ slice b 28 4 then some 2
  else if eth 5 && eth 8 && byteAt b 11 == 0 && 120 ≤ leAt b 14 2 && leAt b 14 2 ≤ 350 && leAt b 16 2 ≤ 100 &&
      allZero (slice b 18 10) then none
  else some 3

/-- Firmware applies the block's defaults. -/
def applyBoard (b : List Byte) (s : State) : State :=
  let port := fun (e o : Nat) (s : State) => { s with eth := s.eth.set e ⟨byteAt b o, byteAt b (o + 1), byteAt b (o + 2) == 1⟩ }
  let s := port 1 8 (port 0 5 s)
  let s := modDisp (fun d => { d with driverCap := leAt b 14 2, allowance := leAt b 16 2 }) s
  if s.boot.refclkNet then enableLinks (leAt b 12 2) s else s

/-- Firmware has written 0 to all of Massif, which clears every poison bit, and the Col cache holds no line of what was there
(R232, R405). -/
def zeroMassif (s : State) : State :=
  modMem (fun m => { m with
    cells := m.cells.filter (fun c => massifEnd ≤ c.1), poison := m.poison.filter (fun w => massifEnd ≤ 8 * w), col := [] }) s

/-- MAILBOX_READY: memory is zero, the firmware plots are laid out, the SerDes calibrated and the board block applied;
every mailbox becomes READY in one cycle. Without REFCLK_NET every lane stays down (R229, R232, R395, R402, R405). -/
def execMailboxReady (board : List Byte) (refclkNet initOk : Bool) (s : State) : Host.Outcome State Fault Refusal :=
  if s.boot.phase ≠ .firmwareInit then .next s
  else if !initOk then .next (modBoot (fun b => { b with phase := .failed, initFail := true }) s)
  else
    let s := modBoot (fun b => { b with phase := .ready, refclkNet := refclkNet, readyEpoch := s.time.epoch }) s
    let s := (List.range 40).foldl (fun s i => setPlot (912 + i) (.firmware, none) s) (zeroMassif s)
    let s := if refclkNet then s else { s with ports := s.ports.map (fun p => { p with link := false }) }
    let s := { s with fns := s.fns.map (fun x => { x with mbx := { x.mbx with state := .ready } }) }
    let flaw := boardFlaw board
    let s := if flaw.isNone then applyBoard board s else s
    let lost : List Raised := if refclkNet then [] else [(0x0C01, 0xFF, [])]
    let bad : List Raised := (flaw.map (fun c => ((0x0D02, 0xFF, leBytes 1 c) : Raised))).toList
    .next (raiseCycle (lost ++ bad) s)

/-! ## PCIe configuration (R405, R309, R312) -/

/-- PCIE_CONFIG_REQUEST: answered with Retry Status before config ready; a write takes effect once it is
answered normally. -/
def execPcieConfigRequest (fn : Fn) (write : Option CfgWrite) (s : State) : Host.Outcome State Fault Refusal :=
  let put := fun (on : Bool) (l : List Nat) => if on then setAdd l fn else l.filter (· != fn.val)
  if !s.boot.pcieLink || !s.time.clockOn then .next s
  else if !s.boot.configReady then .next (emit (.cfg fn true) s)
  else
    let s := match write with
      | some (.ats on) => modDma (fun d => { d with ats := put on d.ats }) s
      | some (.pri on) => modDma (fun d => { d with pri := put on d.pri }) s
      | some (.priAllocation n) => modDma (fun d => { d with priAlloc := kvPut 0 d.priAlloc fn n }) s
      | some (.maxPayload n) => modDma (fun d => { d with maxPayload := kvPut 128 d.maxPayload fn n }) s
      | some (.maxRead n) => modDma (fun d => { d with maxRead := kvPut 512 d.maxRead fn n }) s
      | none => s
    .next (emit (.cfg fn false) (pumpPri fn s))

/-! ## SMBus (R406, R407) -/

/-- SMBUS_AVAILABLE: 50 ms after the rise of POWER_GOOD the device answers its address (R406). -/
def execSmbusAvailable (s : State) : Host.Outcome State Fault Refusal :=
  if s.boot.powerGood then .next (modBoot (fun b => { b with smbusUp := true }) s) else .next s

/-- The hottest valid sensor: its number and reading, the lowest number on a tie. -/
def hottest (s : State) : Option (Nat × Int) :=
  s.sensors.zipIdx.foldl (fun (a : Option (Nat × Int)) (p : Sensor × Nat) =>
    if !p.1.valid then a
    else match a with
      | some (i, t) => if t < p.1.reading then some (p.2, p.1.reading) else some (i, t)
      | none => some (p.2, p.1.reading)) none

/-- A block read carries its byte count first. -/
def blockRead (bs : List Byte) : List Byte := leBytes 1 bs.length ++ bs

/-- The bytes of an SMBus register, none for an unknown code (Table 18.9). -/
def smbusBytes (s : State) (code : Nat) : Option (List Byte) :=
  let ready : Bool := s.boot.phase == .ready
  match code with
  | 0x00 => some (blockRead (leBytes 2 0x6404 ++ leBytes 1 0x43 ++ leBytes 1 3 ++ leBytes 8 Config.serial.toNat))
  | 0x01 => some (blockRead (leBytes 4 (bootStatus s.boot)))
  | 0x02 => some (leBytes 1 s.boot.resetCause)
  | 0x10 => some (leBytes 2 ((hottest s).elim 0x8000 (fun x => ofSigned 16 x.2)))
  | 0x11 => some (blockRead (s.sensors.flatMap sensorWord))
  | 0x12 => some (leBytes 1 (if ready then s.disp.level else 0xFF))
  | 0x20 => some (blockRead (leBytes 4 (s.disp.measuredMw.getD 0xFFFFFFFF)))
  | 0x21 => some (leBytes 2 s.boot.boardCap)
  | 0x22 => some (leBytes 2 (if ready then s.disp.cap else 0))
  | _ => none

/-- The device answers an SMBus address (R396, R406). -/
def smbusMine (s : State) (addr : Nat) : Bool := s.boot.smbusUp && addr == 0x58 + s.boot.straps.smbAddr.val

/-- SMBUS_READ: a register's bytes, or a NACK. -/
def execSmbusRead (addr code : Nat) (s : State) : Host.Outcome State Fault Refusal :=
  .next (emit (.smbus (if smbusMine s addr then smbusBytes s code else none)) s)

/-- SMBUS_BOARD_CAP_WRITE: B from 120 to 350 W takes effect at the first Milestone at or after the next epoch boundary; a
bad PEC discards the write, another value is NACKed (R406, R408). -/
def execSmbusBoardCapWrite (addr value : Nat) (pec : Pec) (s : State) : Host.Outcome State Fault Refusal :=
  if !smbusMine s addr ∨ value < 120 ∨ 350 < value then .next (emit (.smbus none) s)
  else if pec = .bad then .next s
  else
    let s := emit (.smbus (some [])) (modBoot (fun b => { b with boardCap := value }) s)
    .next (if s.time.clockOn then later (.boardCap value) s else modDisp (fun d => { d with boardCap := value }) s)

/-- SMBUS_BUS_TIMEOUT: the device releases the bus; a transaction is a single command here, so none is left behind (R406). -/
def execSmbusBusTimeout (s : State) : Host.Outcome State Fault Refusal := .next (emit .smbusRelease s)

/-! ## Boundary scan (R410) -/

/-- The instructions that take hold of the pins. -/
def JtagIr.drivesPins : JtagIr → Bool
  | .extest => true
  | .extestPulse => true
  | .extestTrain => true
  | .clamp => true
  | .highz => true
  | _ => false

/-- The instruction in force: one that drives pins acts as BYPASS unless POWER_GOOD is high and PERST_N is low. -/
def jtagInForce (s : State) : JtagIr :=
  if s.boot.jtagIr.drivesPins && !(s.boot.powerGood && !s.boot.perstN) then .bypass else s.boot.jtagIr

/-- Load a JTAG instruction. -/
def loadIr (i : JtagIr) (s : State) : State := modBoot (fun b => { b with jtagIr := i }) s

/-- BYPASS: the bypass register captures 0. -/
def execBypass (s : State) : Host.Outcome State Fault Refusal := .next (emit (.tdo (some 0)) (loadIr .bypass s))

/-- IDCODE. -/
def execIdcode (s : State) : Host.Outcome State Fault Refusal := .next (emit (.tdo (some 0x36404557)) (loadIr .idcode s))

/-- SAMPLE/PRELOAD. -/
def execSamplePreload (s : State) : Host.Outcome State Fault Refusal := .next (loadIr .samplePreload s)

/-- An instruction that drives pins is loaded: out of force it acts as BYPASS, whose register captures 0. -/
def loadPins (i : JtagIr) (s : State) : State :=
  let s := loadIr i s
  if jtagInForce s = .bypass then emit (.tdo (some 0)) s else s

/-- EXTEST. -/
def execExtest (s : State) : Host.Outcome State Fault Refusal := .next (loadPins .extest s)

/-- EXTEST_PULSE. -/
def execExtestPulse (s : State) : Host.Outcome State Fault Refusal := .next (loadPins .extestPulse s)

/-- EXTEST_TRAIN. -/
def execExtestTrain (s : State) : Host.Outcome State Fault Refusal := .next (loadPins .extestTrain s)

/-- CLAMP. -/
def execClamp (s : State) : Host.Outcome State Fault Refusal := .next (loadPins .clamp s)

/-- HIGHZ. -/
def execHighz (s : State) : Host.Outcome State Fault Refusal := .next (loadPins .highz s)

end Sys2Proof.Machine
end

