-- ==== Sys2Proof/Machine/Milestone.lean ====
section
/-! DEFINITION. Ticks and epochs: the boundary actions of a Milestone, the plan, the energy budget, heat, operating points and the start of an epoch (chapter 12, R104, R105, R377). -/

namespace Sys2Proof.Machine

/-! ## Junction sensors (R265, R428) -/

/-- A reading that the sensor vouches for: its self-test passed and it reads from −40 °C to 150 °C. -/
def readingValid (quarterDegrees : Int) (selfTestOk : Bool) : Bool :=
  selfTestOk && decide (-160 ≤ quarterDegrees) && decide (quarterDegrees ≤ 600)

/-- Sensors that read validly. -/
def validSensors (s : State) : Nat := s.sensors.countP (·.valid)

/-- SENSOR_READING: the sensor's latest reading; the first invalid one raises PWR_SENSOR_INVALID. -/
def execSensorReading (sensor : Fin 16) (quarterDegrees : Int) (selfTestOk : Bool) (s : State) :
    Host.Outcome State Fault Refusal :=
  let ok := readingValid quarterDegrees selfTestOk
  let before := (s.sensors.getD sensor.val ⟨0, false, false⟩).raised
  let s : State := { s with sensors := s.sensors.set sensor.val ⟨quarterDegrees, ok, !ok⟩ }
  if ok || before then .next s
  else .next (raise 0x0B02 0xFF (leBytes 1 sensor.val ++ leBytes 1 (validSensors s)) s)

/-! ## The budget (R264 to R266) -/

/-- Tick length in ns, as a fraction: 1,024 core cycles. -/
def tickNs (p : Point) : Nat × Nat :=
  match p with
  | .nominal => (640, 1)
  | .reduced => (2560, 3)
  | .low => (1280, 1)

/-- E in 1/16 nJ of a cap in W, a fixed power in mW, a point and a thermal factor: formed exactly and rounded down once. -/
def budgetOf (cap fixedMw : Nat) (p : Point) (f : Nat) : Nat :=
  16 * (1000 * cap - fixedMw) * (tickNs p).1 * f / (1000 * (tickNs p).2 * 256)

/-- The thermal factor of a latched reading in 0.25 °C; with no valid sensor it is the least (log 51). -/
def thermalFactor (t : Option Int) : Nat :=
  match t with
  | none => 96
  | some q => if q < 380 then 256 else if 420 ≤ q then 96 else 256 - 16 * ((q / 4).toNat - 94)

/-- E_nom of the tick that ends. -/
def nominalBudget (s : State) : Nat := budgetOf s.disp.cap s.disp.fixedMw s.disp.point 256

/-- The previous tick's charges are closed and its debt is formed, held to E_nom; the excess is dropped and counted. -/
def closeTick (s : State) : State :=
  let d := s.disp.charging - s.disp.budget
  let e := nominalBudget s
  count (cMls 9) (d - e) (modDisp (fun x => { x with charged := x.charging, debt := min d e, charging := 0 }) s)

/-! ## Thermal levels (R265, R428, R429) -/

/-- Threshold of a level in 0.25 °C (Table 12.3). -/
def levelThreshold : Nat → Int
  | 1 => 380
  | 2 => 420
  | _ => 440

/-- The level that a reading alone gives: the highest level entered, or not yet left. -/
def readingLevel (old : Nat) (t : Option Int) : Nat :=
  match t with
  | none => old
  | some q => [1, 2, 3].foldl (fun a k =>
      if levelThreshold k ≤ q ∨ (k ≤ old ∧ levelThreshold k - 8 ≤ q) then k else a) 0

/-- The least level that missing sensors force. -/
def forcedLevel (valid : Nat) : Nat := if valid = 0 then 3 else if valid < 12 then 2 else 0

/-- Records admitted forward into the tick in which HOT110 is entered are shed (R268). -/
def shedForward (s : State) : State :=
  (s.ctxs.filter (fun p => p.2.admitted == some s.time.tick && p.2.state == .awaiting && p.2.ended.isNone)).foldl
    (fun s p => shedRecord p.1 0x20 s) s

/-- The thermal level is updated from the latched reading; each change raises one PWR_THERMAL. -/
def updateLevel (s : State) : State :=
  let base := readingLevel s.disp.baseLevel s.disp.tempMax
  let old := s.disp.level
  let new := max base (forcedLevel (validSensors s))
  let hot := hottest s
  let s := modDisp (fun d => { d with level := new, baseLevel := base, allHot := d.allHot && decide (2 ≤ new) }) s
  if new = old then s
  else
    let s := raise 0x0B01 0xFF (leBytes 1 old ++ leBytes 1 new ++
      leBytes 2 (hot.elim 0x8000 (fun x => ofSigned 16 x.2)) ++ leBytes 1 (hot.elim 0xFF (·.1))) s
    if 3 ≤ new ∧ old < 3 then shedForward s else s

/-- The hottest valid reading is latched at cycle 0. -/
def latchReading (s : State) : State :=
  let t := (hottest s).map (·.2)
  modDisp (fun d => { d with tempMax := t, allCool := d.allCool && t.elim false (fun q => decide (q < 360)) }) s

/-! ## Operating points (R269) -/

/-- One point lower, and one higher. -/
def Point.down : Point → Point
  | .nominal => .reduced
  | .reduced => .low
  | .low => .low
def Point.up : Point → Point
  | .nominal => .nominal
  | .reduced => .nominal
  | .low => .reduced

/-- The point that a POWER command accepted before the current epoch names, the last when there are several. -/
def powerPoint (s : State) : Option Point :=
  ((s.due.filterMap (fun d => match d.2 with
    | .power pl => if d.1 < s.time.epoch && bit (byteAt pl 0) 3 then some (Point.ofCode (byteAt pl 1)) else none
    | _ => none)).getLast?)

/-- The point to change to at this Milestone: the command's, or auto-step's. -/
def duePoint (s : State) : Option Point :=
  match powerPoint s with
  | some p => some p
  | none => s.disp.pointDue

/-- A due operating-point change takes effect at cycle 0; VSEL then names the point's voltage (R394). -/
def changePoint (s : State) : State :=
  match duePoint s with
  | none => s
  | some p =>
    modBoot (fun b => { b with vsel := p.code }) (modDisp (fun d => { d with
      coolEpochs := if p = d.point then d.coolEpochs else 0
      point := p, pointDue := none, voltageUp := false }) s)

/-- The higher point of which firmware now requests the voltage: a command's that is about to land, or the step up that
the epoch now ending completes. -/
def risingPoint (s : State) : Option Point :=
  let asked := ((s.due.filterMap (fun d => match d.2 with
    | .power pl => if bit (byteAt pl 0) 3 then some (Point.ofCode (byteAt pl 1)) else none
    | _ => none)).getLast?)
  match asked with
  | some p => if p.code < s.disp.point.code then some p else none
  | none =>
    if s.disp.autoStep && s.disp.allCool && 100 ≤ s.disp.coolEpochs + 1 && decide (s.disp.topPoint.code < s.disp.point.code) then
      some s.disp.point.up
    else none

/-- VOLTAGE_UP_REQUEST: VSEL requests the voltage of the point that the coming epoch steps up to. -/
def execVoltageUpRequest (s : State) : Host.Outcome State Fault Refusal :=
  if !s.time.clockOn then .next s
  else
    match risingPoint s with
    | none => .next s
    | some p => .next (modBoot (fun b => { b with vsel := p.code }) (modDisp (fun d => { d with voltageUp := true }) s))

/-! ## Actions due from an epoch boundary (R20) -/

/-- The cap in force: the smaller of the driver's and the board's, 0 before mailbox ready (R408, R439). -/
def capInForce (s : State) : Nat := if s.boot.phase = .ready then min s.disp.driverCap s.disp.boardCap else 0

/-- PWR_BOARD_CAP, when a board cap lands that the reserved LATENCY energy does not fit (R408). -/
def boardCapEffect (b : Nat) (s : State) : State :=
  let old := s.disp.cap
  let s := modDisp (fun d => { d with boardCap := b }) s
  let new := capInForce s
  if old ≠ new ∧ energyLimit new < reservedEnergy s none then raise 0x0B03 0xFF (leBytes 2 old ++ leBytes 2 new) s else s

/-- Give a bank to a tenant, or take it back (R111). -/
def assignBank (b t : Nat) (s : State) : State := modBank b (fun x => { x with owner := if t < 32 then some t else none }) s

/-- MODEL_CALIBRATE's change of T and of the armed state, applied by the fold (R105). -/
def calibrateStat (t flags : Nat) (x : StatRec) : StatRec :=
  { x with t := if bit flags 0 then t else x.t, armed := x.armed || bit flags 1 }

/-- One due action takes effect. A change of T or of the armed state is left to the statistics fold. -/
def dueEffect (ecc : List EccFind) (d : Due) (s : State) : State :=
  match d with
  | .portMode e m f t => portModeEffect e m f t s
  | .portAddress l pl => portAddressEffect l pl s
  | .portOpen l => portOpenEffect l s
  | .portDrain l => portDrainEffect l s
  | .endpointAdd i e => { s with endpoints := kvSet s.endpoints i e }
  | .endpointRemove i => { s with endpoints := kvDel s.endpoints i }
  | .tenantSet t q => tenantSetEffect t q s
  | .tenantState t op => tenantStateEffect t op s
  | .canary r on => canaryEffect r on s
  | .fabric pl => fabricEffect pl s
  | .bankAssign b t => assignBank b t s
  | .modelLoaded id => modelLoadedEffect ecc id s
  | .modelStop id => modelStopEffect id s
  | .streamStart g => streamStartEffect g s
  | .streamStop g => streamStopEffect g s
  | .refit id op => refitEffect id op s
  | .detour id op => detourEffect id op s
  | .power pl => powerEffect pl s
  | .boardCap b => boardCapEffect b s
  | .windowCreate t id ps ds => windowCreateEffect t id ps ds s
  | .windowRemove _ id => windowRemoveEffect id s
  | .remap r q => remapEffect r q s
  | .degraded id j h r => degradedEffect ecc id j h r s
  | .fenceView r => fenceRidge r 0 s
  | .closePort l => portDrainEffect l s
  | .disableTenant t => tenantStateEffect t 2 s
  | .calibrate id slot t fl =>
    { s with stats := kvMod s.stats (statKey id slot) (fun x => { (calibrateStat t fl x) with touched := true }) }

/-- An image that was replaced at the last switch no longer keeps its reservation (R255). -/
def endReplaced (s : State) : State :=
  { s with models := s.models.map (fun m => if m.replaced then { m with standing := false } else m) }

/-- Every action asked for before the current epoch takes effect, in the order asked. -/
def latchDue (ecc : List EccFind) (s : State) : State :=
  let now := s.due.filter (fun d => d.1 < s.time.epoch)
  now.foldl (fun s d => dueEffect ecc d.2 s) (endReplaced { s with due := s.due.filter (fun d => s.time.epoch ≤ d.1) })

/-! ## Statistics fold (R104, R105) -/

/-- Fold the completed tick into a record: `bad` when it is poisoned, `base` its saturation counter so far. -/
def StatRec.fold (tick base : Nat) (bad : Bool) (x : StatRec) : StatRec :=
  let n := x.curClip + x.curEsc
  let gap := tick - 1 - x.foldTick
  let past := if bad then [] else (List.replicate (min 4 gap) 0 ++ x.last)
  { x with
    last := (x.cur :: past).take 4, foldTick := tick
    clipped := (if bad then 0 else x.clipped) + x.curClip
    escaped := (if bad then 0 else x.escaped) + x.curEsc
    nan := (if bad then 0 else x.nan) + x.curNan
    cur := 0, curClip := 0, curEsc := 0, curNan := 0, touched := false
    sat := (if bad then 0 else base) + n
    resetBit := x.resetBit || bad, restoreDue := x.restoreDue || bad }

/-- CAL_DRIFT's event (Table 19.3). -/
def calDrift (m : Model) (slot : Nat) (x : StatRec) : List Byte :=
  leBytes 2 m.handle ++ leBytes 2 slot ++ leBytes 4 x.sat ++ leBytes 4 x.t ++ leBytes 4 (x.last.foldl max 0)

/-- The fold's read of a record: MSF_UE_READ when a word of it is poisoned, newly found or before (R239, R240). The result
tells whether one is. -/
def foldRead (a : Nat) (ecc : List EccFind) (s : State) : Bool × State :=
  let worn := (firstPoison s.mem a 64).map (fun w => ((0x0601, ownerCode s w, ueData s w 6) : Raised))
  let r := (List.range 8).foldl (fun se i => readWord ecc 6 false (a + 8 * i) (a / 8 + i) se) (s, [])
  let bad := (firstPoison r.1.mem a 64).isSome
  (bad, raiseCycle (worn.toList ++ r.2) (if bad then modMem (fun mem => unpoison mem a 64) r.1 else r.1))

/-- Fold one touched record and test it; `first` at the first Milestone of an epoch, when its counter then resets. -/
def foldStat (first : Bool) (ecc : List EccFind) (key : Nat) (s : State) : State :=
  match kvGet s.stats key, s.model? (key / 1024) with
  | some x, some m =>
    if !x.touched then s
    else
      let slot := key % 1024
      let read := foldRead (statAddr m slot) ecc s
      let bad := read.1
      let s := read.2
      let old : Nat := if first then s.time.epoch - 1 else s.time.epoch
      let x := x.fold (s.time.tick - 1) (if x.satEpoch = old then x.sat else 0) bad
      let fires := x.armed && 0 < x.t && decide (x.t ≤ x.sat) && !x.restoreDue
      let s := if fires then raise 0x0101 m.tenant (calDrift m slot x) s else s
      let x := { x with armed := x.armed && !fires, sat := if first then 0 else x.sat, satEpoch := s.time.epoch }
      { s with stats := kvSet s.stats key x }
  | _, _ => s

/-- The fold of every record that the completed tick updated, in ascending slot; what SECDED finds is named by device word. -/
def foldStats (first : Bool) (ecc : List EccFind) (s : State) : State :=
  ((s.stats.filter (fun p => p.2.touched)).map (·.1)).foldl (fun s k => foldStat first ecc k s) s

/-! ## The plan (R258) -/

/-- A plan under construction: Ridge-slots left on each physical Ridge, energy left, sets whose load is charged, and the
THROUGHPUT Ridge-slots each tenant has used. -/
structure Plan where
  free : List Nat
  energy : Int
  sets : List SetId
  used : List Nat
deriving DecidableEq, Repr

/-- What one pass asks of a plan: Ridge-slots by physical Ridge, its price, its set and the set's load price. -/
structure PassNeed where
  slots : List (Nat × Nat)
  price : Nat
  set : SetId
  load : Nat
deriving DecidableEq, Repr

/-- Ridge-slots of a need. -/
def PassNeed.total (n : PassNeed) : Nat := (n.slots.map (·.2)).sum

/-- A need's price in a plan: its own, and its set's load when the plan holds no pass of the set yet. -/
def PassNeed.cost (n : PassNeed) (p : Plan) : Nat := n.price + (if p.sets.contains n.set then 0 else n.load)

/-- A pass fits when each Ridge it uses still has the Ridge-slots it costs, and its energy remains. -/
def fits (p : Plan) (n : PassNeed) : Bool :=
  n.slots.all (fun x => x.2 ≤ p.free.getD x.1 0) && decide ((n.cost p : Int) ≤ p.energy)

/-- Take a pass's Ridge-slots and energy. -/
def take (p : Plan) (n : PassNeed) : Plan :=
  { p with
    free := n.slots.foldl (fun f x => f.modify x.1 (· - x.2)) p.free
    energy := p.energy - (n.cost p : Int)
    sets := if p.sets.contains n.set then p.sets else n.set :: p.sets }

/-- Ridge-slots of a pass on each physical Ridge that serves it. -/
def slotsByRidge (s : State) (m : Model) (v pass : Nat) : List (Nat × Nat) :=
  (List.range 68).filterMap (fun q =>
    let n := ((logicalOn s m v pass q).map (m.slotsOn v pass)).sum
    if n = 0 then none else some (q, n))

/-- The passes of all the stages of a record, in order: model, leaf version, pass. -/
def recordPasses (s : State) (r : RecCtx) : List (Model × Nat × Nat) :=
  (List.range (stageCount s r)).flatMap (fun i =>
    match stageModel s { r with stage := i } with
    | some m => (List.range m.passCount).map (fun p => (m, (if i = r.stage ∧ 0 < r.nextBind then r.version else m.version), p))
    | none => [])

/-- What the pass of number `g` of a record asks; the record-level costs come with the first (R263). -/
def passNeed (s : State) (r : RecCtx) (g : Nat) : Option PassNeed :=
  (recordPasses s r)[g]?.map (fun x =>
    let level := if r.charged || g ≠ 0 then 0 else (s.model? r.model).elim 0 (fun h => recordLevel s s.disp.point h r)
    { slots := slotsByRidge s x.1 x.2.1 x.2.2
      price := passPrice s.disp.point x.1 x.2.1 x.2.2 + level
      set := ⟨x.1.id, x.2.2, x.2.1⟩
      load := loadPrice s.disp.point x.1 x.2.1 x.2.2 })

/-! ### LATENCY and replays -/

/-- The reservation of a LATENCY model stands in the tick: loaded, or replaced at this Milestone, with its tenant neither
preempted nor disabled (R253, R255). -/
def reserves (s : State) (m : Model) : Bool := m.latency && m.standing && (s.tenant m.tenant).state == .enabled

/-- Take a standing LATENCY model's reservation; the energy may go below 0. -/
def reserve (s : State) (m : Model) (p : Plan) : Plan :=
  { p with
    free := p.free.mapIdx (fun q f => f - m.rate * recordSlotsOn s m q)
    energy := p.energy - ((m.rate * s.recordPrice s.disp.point m : Nat) : Int) }

/-- The plan before any grant: 254 Ridge-slots on each active Ridge, the budget less the debt, less the reservations. -/
def openPlan (s : State) : Plan :=
  let free := (List.range 68).map (fun q => if ridgeActive s q then 254 else 0)
  let e : Int := (s.disp.budget : Int) - (s.disp.debt : Int)
  (s.models.filter (reserves s)).foldl (fun p m => reserve s m p) ⟨free, e, [], List.replicate 32 0⟩

/-- Plan one replay pass: it binds on the Ridge that now serves its logical index and runs in this tick. -/
def planReplay (a : State × Plan) (x : Replay) : State × Plan :=
  let s := a.1
  let p := a.2
  match s.ctx? x.ctx with
  | none => (s, p)
  | some r =>
    match stageModel s r with
    | none => (s, p)
    | some m =>
      match servingOf s m x.logical with
      | none => (unplaced x.ctx s, p)
      | some q =>
        let n := m.slotsOn r.version x.pass x.logical
        let price := n * s.price priceSlot + s.price priceRow
        let s := modRidge q (fun y => { y with bound := y.bound ++ [⟨x.ctx, x.stage, x.pass, 1, x.logical, s.time.tick⟩] }) s
        (charge price (count (cMls 7) 1 s), { p with free := p.free.modify q (· - n), energy := p.energy - (price : Int) })

/-- Plan the replays, in order of discard. -/
def planReplays (a : State × Plan) : State × Plan :=
  let xs := a.1.disp.replays
  xs.foldl planReplay (modDisp (fun d => { d with replays := [] }) a.1, a.2)

/-! ### THROUGHPUT -/

/-- The oldest waiting record of a tenant with a pass left to plan. -/
def nextThroughput (s : State) (t : Nat) : Option (Nat × RecCtx) :=
  if (s.tenant t).preempted then none
  else s.disp.waiting.findSome? (fun c => (s.ctx? c).bind (fun r =>
    if r.tenant == t && r.ended.isNone && decide (r.planned < allPasses s r) then some (c, r) else none))

/-- One tenant's turn in a round: its next pass is planned when it fits and its quota allows. -/
def tenantTurn (t : Nat) (a : State × Plan × Bool) : State × Plan × Bool :=
  let s := a.1
  let p := a.2.1
  match nextThroughput s t with
  | none => a
  | some (c, r) =>
    match passNeed s r r.planned with
    | none => a
    | some n =>
      if fits p n && decide (p.used.getD t 0 + n.total ≤ (s.tenant t).quota.tpSlots) then
        (modCtx c (fun r => { r with planned := r.planned + 1 }) s,
          { (take p n) with used := p.used.modify t (· + n.total) }, true)
      else a

/-- Rounds over the 32 tenants from the round-robin pointer, until one grants nothing. -/
def throughputRounds : Nat → State × Plan → State × Plan
  | 0, a => a
  | n + 1, a =>
    let r := (List.range 32).foldl (fun b i => tenantTurn ((a.1.disp.tpPtr + i) % 32) b) (a.1, a.2, false)
    if r.2.2 then throughputRounds n (r.1, r.2.1) else (r.1, r.2.1)

/-- Rounds that can grant: no more than there are passes waiting. -/
def roundLimit (s : State) : Nat := 1 + (s.disp.waiting.map (fun c => (s.ctx? c).elim 0 (allPasses s))).sum

/-! ### BACKGROUND -/

/-- Plan passes of a record as one: none when any does not fit. -/
def planAll (s : State) (r : RecCtx) (gs : List Nat) (p : Plan) : Option Plan :=
  gs.foldl (fun (a : Option Plan) g => a.bind (fun p => (passNeed s r g).bind (fun n =>
    if fits p n then some (take p n) else none))) (some p)

/-- A Detour candidate in a context whose passes are not all bound. -/
def unfinished (s : State) (r : RecCtx) : Bool :=
  match r.src with
  | .detour _ _ => r.ended.isNone && decide (r.planned < allPasses s r) && (r.state == .awaiting || r.state == .bound || r.state == .parked)
  | _ => false

/-- Plan what is left of a candidate that has a context. -/
def planCandidate (c : Nat) (a : State × Plan) : State × Plan :=
  match a.1.ctx? c with
  | none => a
  | some r =>
    let total := allPasses a.1 r
    if (a.1.tenant r.tenant).preempted then a
    else match planAll a.1 r ((List.range total).drop r.planned) a.2 with
      | none => a
      | some p => (modCtx c (fun r => { r with planned := total }) a.1, p)

/-- Candidates of a search that hold a context. -/
def inFlightOf (s : State) (slot : Nat) : Nat :=
  s.ctxs.countP (fun p => match p.2.src with | .detour n _ => n == slot | _ => false)

/-- Grant a candidate: an unreserved context, and all its passes (R366). It carries no preload block: its passes start from
the base score (log 132). -/
def grantCandidate (slot k : Nat) (a : State × Plan) : Option (State × Plan) :=
  let s := a.1
  match kvGet s.searches slot with
  | none => some a
  | some x =>
    match searchCfg s x with
    | none => some a
    | some d =>
      let r := { RecCtx.fresh x.tenant x.model x.handle x.recId x.cookie (.detour slot k) Reply.none_ s.now with
        state := .awaiting, committed := true, slots := candSlots d x k, side := x.side, place := s.disp.nextPlace }
      if (s.tenant x.tenant).preempted || d.inflight ≤ inFlightOf s slot || !unreservedFree s then none
      else
        let total := allPasses s r
        match planAll s r (List.range total) a.2 with
        | none => none
        | some p =>
          (takeCtx { r with planned := total } s).map (fun y =>
            (modDisp (fun d => { d with nextPlace := d.nextPlace + 1 })
              { y.2 with searches := kvMod y.2.searches slot (fun x => { x with
                  cands := x.cands.modify k (fun c => { c with granted := true }) }) }, p))

/-- Grant units of one price while energy remains: how many, and the plan after. -/
def grantUnits (price n : Nat) (p : Plan) : Nat × Plan :=
  let k := if p.energy < (price : Int) then 0 else if price = 0 then n else min n (p.energy.toNat / price)
  (k, { p with energy := p.energy - ((k * price : Nat) : Int) })

/-- Put a request back with what is left of it, or move it to the granted work. -/
def keepOrGrant (left : Nat) (b : Nat → BgReq) (s : State) : State :=
  modDisp (fun d => if left = 0 then { d with granted := d.granted ++ [b 0] } else { d with bg := d.bg ++ [b left] }) s

/-- Serve one request; what is not granted in full goes back to the queue in its place. -/
def grantOne (a : State × Plan) (b : BgReq) : State × Plan :=
  let s := a.1
  match b with
  | .candidate slot k =>
    match grantCandidate slot k a with
    | some r => r
    | none => (modDisp (fun d => { d with bg := d.bg ++ [b] }) s, a.2)
  | .proposal m left =>
    let g := grantUnits (s.price priceProposal) left a.2
    (keepOrGrant (left - g.1) (.proposal m) (chargeWork g.1 priceProposal s), g.2)
  | .decay m left =>
    let g := grantUnits (s.price priceProposal) left a.2
    (keepOrGrant (left - g.1) (.decay m) (chargeWork g.1 priceProposal s), g.2)
  | .patrol sram =>
    let g := grantUnits (s.price pricePatrol) 1 a.2
    if g.1 = 0 then (modDisp (fun d => { d with bg := d.bg ++ [b] }) s, a.2)
    else (modDisp (fun d => { d with granted := d.granted ++ [.patrol sram] }) (chargeWork 1 pricePatrol s), g.2)
  | .feedback =>
    match s.feedback.findIdx? (fun f => !f.granted) with
    | none => a
    | some i =>
      let g := grantUnits (s.price priceFeedback) 1 a.2
      if g.1 = 0 then (modDisp (fun d => { d with bg := d.bg ++ [b] }) s, a.2)
      else ({ (chargeWork 1 priceFeedback s) with feedback := s.feedback.modify i (fun f => { f with granted := true }) }, g.2)

/-- BACKGROUND work in order of request: candidates that already hold a context, then the queue. -/
def grantBackground (a : State × Plan) : State × Plan :=
  let held := (a.1.ctxs.filter (fun p => unfinished a.1 p.2)).map (·.1)
  let a := held.foldl (fun a c => planCandidate c a) a
  a.1.disp.bg.foldl grantOne (modDisp (fun d => { d with bg := [] }) a.1, a.2)

/-- The BACKGROUND floor: grants within its Ridge-slots per Ridge and its energy, before THROUGHPUT (R257). -/
def grantFloor (a : State × Plan) : State × Plan :=
  let d := a.1.disp
  let p := a.2
  let lim : Plan := { p with free := p.free.map (min d.floorSlots), energy := min p.energy (d.floorEnergy : Int) }
  let r := grantBackground (a.1, lim)
  (r.1, { p with
    free := p.free.mapIdx (fun q f => f - (lim.free.getD q 0 - r.2.free.getD q 0))
    energy := p.energy - (lim.energy - r.2.energy), sets := r.2.sets })

/-- BACKGROUND demand that the plan has left. -/
def demandLeft (s : State) : Bool := !s.disp.bg.isEmpty || s.ctxs.any (fun p => unfinished s p.2)

/-! ### The whole plan -/

/-- The patrol's scheduled steps ask for their place in the plan (R252, R257); at HOT105 and above a step that has not run
loses its grant (R268). -/
def askPatrol (s : State) : State :=
  let hot := decide (2 ≤ s.disp.level)
  let granted := s.disp.granted.filter (fun b => !(hot && (b == .patrol false || b == .patrol true)))
  let asks := [false, true].filter (fun k => patrolScheduled s k && !granted.contains (.patrol k) && !s.disp.bg.contains (.patrol k))
  modDisp (fun d => { d with granted := granted, bg := d.bg ++ asks.map .patrol }) s

/-- A new plan begins: grants that bound nothing lapse. -/
def clearPlan (s : State) : State :=
  let frames := s.feedback.countP (fun f => !f.granted)
  let bg := s.disp.bg.foldl (fun (a : List BgReq × Nat) b =>
    if b = .feedback then (if a.2 < frames then (a.1 ++ [b], a.2 + 1) else a) else (a.1 ++ [b], a.2)) ([], 0)
  modDisp (fun d => { d with
      bg := bg.1, admittedAt := d.admittedAt.filter (fun a => s.time.tick ≤ a.2.1) })
    { s with ctxs := s.ctxs.map (fun p => (p.1, { p.2 with planned := boundPasses s p.2 })) }

/-- Waiting THROUGHPUT records of which the plan binds no pass. -/
def throttled (s : State) : Nat :=
  s.disp.waiting.countP (fun c => (s.ctx? c).elim false (fun r => decide (r.planned ≤ boundPasses s r)))

/-- The dispatcher builds the plan. At HOT105 and above it holds LATENCY work and replays alone (R268). -/
def buildPlan (s : State) : State :=
  let s := clearPlan (askPatrol s)
  let a := planReplays (s, openPlan s)
  let cool := decide (s.disp.level < 2)
  let s := if cool then
      let a := grantFloor a
      let a := throughputRounds (roundLimit a.1) a
      (grantBackground a).1
    else a.1
  let s := count (cMls 4) (throttled s) (count (cMls 5) (if demandLeft s then 1 else 0) s)
  modDisp (fun d => { d with tpPtr := (d.tpPtr + 1) % 32 }) s

/-! ## Parking (R181, R186) -/

/-- A record is parked at this Milestone: it holds a block, no pass of it has a reserved row, and the plan binds none of
its passes, or its tenant is being preempted. -/
def parks (s : State) (c : Nat) (r : RecCtx) : Bool :=
  r.block.isSome && r.ended.isNone && !r.parking && (r.state == .bound || r.state == .awaiting) &&
    s.rows.all (fun x => x.ctx != c) && !s.restoring.contains c && !outWaits s r &&
    ((s.tenant r.tenant).preempted || (r.admitted.isNone && decide (r.planned ≤ boundPasses s r)))

/-- Parking begins for every record that meets R181: its spill asks for Cairn's port. -/
def beginParking (s : State) : State :=
  let t : State := { s with ctxs := s.ctxs.map (fun p => if parks s p.1 p.2 then (p.1, { p.2 with parking := true }) else p) }
  (s.ctxs.filter (fun p => parks s p.1 p.2)).foldl (fun t p =>
    askPort p.1 ((stageModel s p.2).elim 0 (·.image.channels)) t) t

/-! ## Stalls of standing waits (R164, R188, R272) -/

/-- The stall of a Trailhead pipeline in a cycle, as its counter's number (Table 5.5): its oldest committed record waits for
a program context or a walker, or for the dispatcher's credit, or its binning lane for table reads. -/
def trailheadStall (s : State) (pipe : Nat) : Option Nat :=
  ((s.trhQ.getD pipe []).head?.bind (fun c => s.ctx? c)).bind (fun r => (s.model? r.model).bind (fun m =>
    if r.committed then
      if m.image.program.isEmpty then some 1
      else if !progFree s || (hasAutomaton m && (freeWalker s).isNone) then some 0 else none
    else if (laneHead s pipe).elim false (fun h => !h.2.1.tableReads.isEmpty) then some 2 else none))

/-- A bound pass's broadcast waits for a window entry (Table 12.5). -/
def windowStall (s : State) : Bool :=
  s.ridges.zipIdx.any (fun x => 16 ≤ x.1.window.length + s.unusable (.window x.2) &&
    x.1.bound.any (fun b => !x.1.window.contains b.ctx))

/-- The counters that count the present cycle, one for each unit or program that waits in it. -/
def stallCounters (s : State) : List Nat :=
  (List.range 2).filterMap (fun p => (trailheadStall s p).map (cTrh p)) ++
    s.progs.filterMap (fun c => (progStall s c).map cSgp) ++
    (if windowStall s then [cMls 6] else []) ++
    (List.range 68).filterMap (fun q => (ridgeStall s q).map (cRdg q)) ++
    ((cairnStall s).map cCrn).toList ++
    (blockStalls s).map (fun t => cTen t tStallBlock) ++
    (List.range 264).filterMap (fun g => if slotStall s g then some (cStr g 0) else none) ++
    (if s.dma.streams.any ringStall then [cSmt 0] else []) ++
    (List.range 8).filterMap (fun l => if txStalled s l then some (cPrt l pStallTxq) else none) ++
    (List.range 16).flatMap (fun i => (List.range 4).filterMap (fun v =>
      if creditStall (s.saddle i) v then some (cSaddle i (9 + v)) else none))

/-- `n` core cycles pass, and every wait that stands counts in each. -/
def countCycles (n : Nat) (s : State) : State :=
  let s := passTime n ((stallCounters s).foldl (fun t k => count k n t) s)
  { s with time := { s.time with cycle := s.time.cycle + n } }

/-- Staging that answers have left is free again, and answers that wait take their place in it (R272, R303). -/
def freeStaging (s : State) : State :=
  s.returned.foldl (fun s c => match c with
    | .ring g n => stageAnswers g (modStream g (fun x => { x with fill := x.fill - n }) s)
    | _ => s) s

/-- What the end of a cycle does by itself: the credits returned in it become usable (R272), Cairn's port and the Waymark
unit move on (R184, R283), and what waited for a credit goes ahead. -/
def endCycle (s : State) : State :=
  let s := freeStaging s
  fillDispatch (pumpOut (portCycle (wmkDrain 4 { s with returned := [] })))

/-- One core cycle passes. -/
def cycle (s : State) : State := endCycle (countCycles 1 s)

/-- The end of a cycle would change nothing any more, and no wait ends with time alone. -/
def steady (s : State) : Bool :=
  s.returned.isEmpty && s.crnPort.transfers.isEmpty && s.wmkUnit.queue.isEmpty &&
    s.banks.all (fun b => b.busy ≤ s.now) && s.ridges.all (fun x => x.pipe.all (fun e => e.queued ≤ s.now))

/-- `n` more cycles pass: one by one until nothing but the standing waits is left. -/
def restCycles : Nat → State → State
  | 0, s => s
  | n + 1, s => if steady s then countCycles (n + 1) s else restCycles n (cycle s)

/-- `n` core cycles pass. -/
def idleCycles : Nat → State → State
  | 0, s => s
  | n + 1, s => restCycles n (cycle s)

/-- What one step does on an empty queue: one core cycle of the tick passes. The last cycle of a tick is left by MILESTONE
alone, and with the core clock stopped nothing happens (log 3). -/
def idle (s : State) : State := if s.time.clockOn && decide (s.time.cycle < 1023) then cycle s else s

/-! ## The Milestone (R249, Table 12.1) -/

/-- Cycle 0: the tick number rises, charges close, and a due point change and the hottest reading are taken. -/
def boundaryStart (first : Bool) (s : State) : State :=
  let s := closeTick s
  latchReading (if first then changePoint s else s)

/-- Cycle 1: P and C come into force and what is due lands. -/
def boundaryLatch (first : Bool) (ecc : List EccFind) (s : State) : State :=
  let s := latchDue ecc s
  let s := if first then { s with
      zth := { s.zth with saddles := s.zth.saddles.map (fun x => { x with violations := 0 }) }
      banks := s.banks.map (fun b => { b with restores := 0 }) } else s
  modDisp (fun d => { d with fixedMw := if first then d.fixedNext else d.fixedMw, cap := capInForce s }) s

/-- Cycle 2: the budget, the level, the statistics fold and what the other units do at a Milestone. -/
def boundaryBudget (first : Bool) (ecc : List EccFind) (s : State) : State :=
  let d := s.disp
  let s := modDisp (fun x => { x with budget := budgetOf d.cap d.fixedMw d.point (thermalFactor d.tempMax) }) s
  let s := foldStats first ecc (updateLevel s)
  let s := settleHeals (if first then requestDecay s else s)
  freeOldUnits (refitTick s)

/-- MILESTONE: the rest of the tick's cycles pass, and the boundary actions run in cycles 0 to 7 of the new one; the first
issue position follows at cycle 8. `ecc` is what SECDED finds in the records the statistics fold reads. -/
def execMilestone (s : State) (ecc : List EccFind := []) : Host.Outcome State Fault Refusal :=
  if !s.time.clockOn then .next s
  else
    let first := !s.time.firstMilestoneDone
    let s := idleCycles (1024 - s.time.cycle) s
    let s := { s with time := { s.time with tick := (s.time.tick + 1) % 2 ^ 64, cycle := 0 } }
    let s := modDisp (fun d => { d with latUsed := [] }) s
    let s := boundaryBudget first ecc (boundaryLatch first ecc (boundaryStart first s))
    let s := idleCycles 8 (postDue (beginParking (buildPlan s)))
    .next { s with time := { s.time with firstMilestoneDone := true } }

/-! ## The start of an epoch (R20, R264, R269, R377) -/

/-- Auto-step at the end of an epoch: one point down after an epoch at HOT105 or above throughout, one up after 100 cool
ones, never above the point last named. -/
def autoStep (s : State) : State :=
  let d := s.disp
  let cool := if d.allCool then d.coolEpochs + 1 else 0
  let due : Option Point :=
    if !d.autoStep then none
    else if d.allHot && d.point ≠ .low then some d.point.down
    else if 100 ≤ cool && decide (d.topPoint.code < d.point.code) then some d.point.up
    else none
  modDisp (fun d => { d with coolEpochs := cool, allHot := true, allCool := true, pointDue := due }) s

/-- P for the new epoch: the measured power, less the charges of the last epoch over 1 ms, plus the board allowance. -/
def fixedPower (measuredMw : Nat) (s : State) : Nat := measuredMw + 1000 * s.disp.allowance - s.disp.epochCharge / 16000

/-- Firmware rewrites the words of Trailhead table memory that were found uncorrectable (R237). -/
def rewriteTables (s : State) : State := modMem (fun m => { m with tableBad := [] }) s

/-- Firmware restores T and the armed state of records written afresh (R105). -/
def restoreStats (s : State) : State := { s with stats := s.stats.map (fun p => (p.1, { p.2 with restoreDue := false })) }

/-- EPOCH_START: firmware sets P, steps the point, audits its view, starts heals and takes commands. `measuredMw` is the
device's measured power over the epoch that ends, in mW; `ecc` what SECDED finds in the master copies firmware reads, by device
word. -/
def execEpochStart (measuredMw : Nat) (s : State) (ecc : List EccFind := []) : Host.Outcome State Fault Refusal :=
  if !s.time.clockOn then .next s
  else
    let ended := s.time.epoch
    let s : State := { s with time := { s.time with epoch := (ended + 1) % 2 ^ 64, firstMilestoneDone := false } }
    if s.boot.phase ≠ .ready then .next (modDisp (fun d => { d with epochCharge := 0 }) s)
    else
      let measured : Option Nat := if s.boot.readyEpoch < ended then some measuredMw else none
      let s := modDisp (fun d => { d with
        fixedNext := fixedPower measuredMw s, measuredMw := measured, epochCharge := 0 }) s
      .next (takeCommands (startHeals (audit ecc (restoreStats (rewriteTables (autoStep s))))))

end Sys2Proof.Machine
end

