-- ==== Sys2Proof/Machine/Dispatch.lean ====
section
/-! DEFINITION. One arm per command: its meaning, or its row rejected by name. -/

namespace Sys2Proof.Machine

/-- The effect of a command on everything but the queue. -/
def exec (i : Instr) (s : State) : Host.Outcome State Fault Refusal :=
  match i with
  | .vddAuxRise => Sys2Proof.Machine.execVddAuxRise s
  | .powerGoodRise straps => Sys2Proof.Machine.execPowerGoodRise straps s
  | .powerGoodFall => Sys2Proof.Machine.execPowerGoodFall s
  | .perstNFall => Sys2Proof.Machine.execPerstNFall s
  | .perstNRise => Sys2Proof.Machine.execPerstNRise s
  | .pf0FunctionLevelReset => Sys2Proof.Machine.execPf0FunctionLevelReset s
  | .watchdogExpiry => Sys2Proof.Machine.execWatchdogExpiry s
  | .thermalTrip sensor => Sys2Proof.Machine.execThermalTrip sensor s
  | .bootSlotReadDone read => Sys2Proof.Machine.execBootSlotReadDone read s
  | .configReady => Sys2Proof.Machine.execConfigReady s
  | .mailboxReady board refclkNet initOk => Sys2Proof.Machine.execMailboxReady board refclkNet initOk s
  | .pcieConfigRequest fn write => Sys2Proof.Machine.execPcieConfigRequest fn write s
  | .vfFunctionLevelReset vf => Sys2Proof.Machine.execVfFunctionLevelReset vf s
  | .vfEnableClear => Sys2Proof.Machine.execVfEnableClear s
  | .smbusRead addr code => Sys2Proof.Machine.execSmbusRead addr code s
  | .smbusBoardCapWrite addr value pec => Sys2Proof.Machine.execSmbusBoardCapWrite addr value pec s
  | .smbusBusTimeout => Sys2Proof.Machine.execSmbusBusTimeout s
  | .bypass => Sys2Proof.Machine.execBypass s
  | .idcode => Sys2Proof.Machine.execIdcode s
  | .samplePreload => Sys2Proof.Machine.execSamplePreload s
  | .extest => Sys2Proof.Machine.execExtest s
  | .extestPulse => Sys2Proof.Machine.execExtestPulse s
  | .extestTrain => Sys2Proof.Machine.execExtestTrain s
  | .clamp => Sys2Proof.Machine.execClamp s
  | .highz => Sys2Proof.Machine.execHighz s
  | .milestone ecc => Sys2Proof.Machine.execMilestone s ecc
  | .epochStart measuredMw ecc => Sys2Proof.Machine.execEpochStart measuredMw s ecc
  | .voltageUpRequest => Sys2Proof.Machine.execVoltageUpRequest s
  | .sensorReading sensor quarterDegrees selfTestOk => Sys2Proof.Machine.execSensorReading sensor quarterDegrees selfTestOk s
  | .linkUp port => Sys2Proof.Machine.execLinkUp port s
  | .linkDown port cut => Sys2Proof.Machine.execLinkDown port cut s
  | .recordStart port head => Sys2Proof.Machine.execRecordStart port head s
  | .recordFrameRx port frame check => Sys2Proof.Machine.execRecordFrameRx port frame check s
  | .feedbackFrameRx port frame check => Sys2Proof.Machine.execFeedbackFrameRx port frame check s
  | .pfcFrameRx port length mask quanta => Sys2Proof.Machine.execPfcFrameRx port length mask quanta s
  | .pauseFrameRx port length => Sys2Proof.Machine.execPauseFrameRx port length s
  | .arpRequestRx port frame check => Sys2Proof.Machine.execArpRequestRx port frame check s
  | .neighbourSolicitationRx port frame check => Sys2Proof.Machine.execNeighbourSolicitationRx port frame check s
  | .arpReplySend port => Sys2Proof.Machine.execArpReplySend port s
  | .neighbourAdvertisementSend port => Sys2Proof.Machine.execNeighbourAdvertisementSend port s
  | .pfcXoffRepeat port pcp => Sys2Proof.Machine.execPfcXoffRepeat port pcp s
  | .pfcXonSend port pcp => Sys2Proof.Machine.execPfcXonSend port pcp s
  | .trailheadTableReadDone ctx => Sys2Proof.Machine.execTrailheadTableReadDone ctx s
  | .portDrainComplete port => Sys2Proof.Machine.execPortDrainComplete port s
  | .signpostEntry pipeline => Sys2Proof.Machine.execSignpostEntry pipeline s
  | .ternaryStep ctx => Sys2Proof.Machine.execTernaryStep ctx s
  | .rangeStep ctx => Sys2Proof.Machine.execRangeStep ctx s
  | .automatonStep ctx parity => Sys2Proof.Machine.execAutomatonStep ctx parity s
  | .nextStep ctx => Sys2Proof.Machine.execNextStep ctx s
  | .stepResult ctx => Sys2Proof.Machine.execStepResult ctx s
  | .walkerMissReadDone ctx => Sys2Proof.Machine.execWalkerMissReadDone ctx s
  | .shadowCompare bank found shadow readBackBad => Sys2Proof.Machine.execShadowCompare bank found shadow readBackBad s
  | .dispatcherAdmission ctx => Sys2Proof.Machine.execDispatcherAdmission ctx s
  | .passBind ctx => Sys2Proof.Machine.execPassBind ctx s
  | .broadcastDone ctx ridge => Sys2Proof.Machine.execBroadcastDone ctx ridge s
  | .setLoadStart ridge => Sys2Proof.Machine.execSetLoadStart ridge s
  | .setLoadDone ridge ecc => Sys2Proof.Machine.execSetLoadDone ridge ecc s
  | .passIssue ridge faults => Sys2Proof.Machine.execPassIssue ridge faults s
  | .standInLoadDone ridge => Sys2Proof.Machine.execStandInLoadDone ridge s
  | .partialsLeaveRidge ridge => Sys2Proof.Machine.execPartialsLeaveRidge ridge s
  | .ridgeSramPatrolStep ecc => Sys2Proof.Machine.execRidgeSramPatrolStep ecc s
  | .partialArrival ridge => Sys2Proof.Machine.execPartialArrival ridge s
  | .rowAdd ctx eccFault => Sys2Proof.Machine.execRowAdd ctx eccFault s
  | .parkEntryWritten ctx => Sys2Proof.Machine.execParkEntryWritten ctx s
  | .restoreDone ctx ecc => Sys2Proof.Machine.execRestoreDone ctx ecc s
  | .summitFusedOutput ctx => Sys2Proof.Machine.execSummitFusedOutput ctx s
  | .scoreFrameAssembly ctx => Sys2Proof.Machine.execScoreFrameAssembly ctx s
  | .transmitQueueEntry port => Sys2Proof.Machine.execTransmitQueueEntry port s
  | .txMacHandoff port => Sys2Proof.Machine.execTxMacHandoff port s
  | .xchipWaitExpiry ctx => Sys2Proof.Machine.execXchipWaitExpiry ctx s
  | .feedbackGradient => Sys2Proof.Machine.execFeedbackGradient s
  | .feedbackProcess ecc => Sys2Proof.Machine.execFeedbackProcess s ecc
  | .decaySweep tenant handle ecc => Sys2Proof.Machine.execDecaySweep tenant handle s ecc
  | .proposalPassEnd tenant handle ecc => Sys2Proof.Machine.execProposalPassEnd tenant handle s ecc
  | .candidateResult ctx => Sys2Proof.Machine.execCandidateResult ctx s
  | .moveChoice slot => Sys2Proof.Machine.execMoveChoice slot s
  | .detourTimeLimit slot => Sys2Proof.Machine.execDetourTimeLimit slot s
  | .colCacheFill line ecc parityError => Sys2Proof.Machine.execColCacheFill line ecc parityError s
  | .patrolStep ecc => Sys2Proof.Machine.execPatrolStep ecc s
  | .healBlockReadDone data ecc => Sys2Proof.Machine.execHealBlockReadDone data s ecc
  | .dmaRingTailWrite fn stream value => Sys2Proof.Machine.execDmaRingTailWrite fn stream value s
  | .descriptorStart stream descriptor => Sys2Proof.Machine.execDescriptorStart stream descriptor s
  | .dmaRequestIssue => Sys2Proof.Machine.execDmaRequestIssue s
  | .dmaElement stream number data ecc tables => Sys2Proof.Machine.execDmaElement stream number data ecc s tables
  | .translationCompletion fn page sizeLog2 read write target => Sys2Proof.Machine.execTranslationCompletion fn page sizeLog2 read write s target
  | .pageRequestResponse fn page response => Sys2Proof.Machine.execPageRequestResponse fn page response s
  | .priLimitExpiry fn page => Sys2Proof.Machine.execPriLimitExpiry fn page s
  | .descriptorComplete stream number => Sys2Proof.Machine.execDescriptorComplete stream number s
  | .ringAnswerWrite stream => Sys2Proof.Machine.execRingAnswerWrite stream s
  | .atsInvalidateRequest fn page sizeLog2 => Sys2Proof.Machine.execAtsInvalidateRequest fn page sizeLog2 s
  | .linkTrainingDone saddle ok => Sys2Proof.Machine.execLinkTrainingDone saddle ok s
  | .initResend saddle => Sys2Proof.Machine.execInitResend saddle s
  | .initFlitRx saddle flit fec => Sys2Proof.Machine.execInitFlitRx saddle flit fec s
  | .fabricMismatchRetry saddle => Sys2Proof.Machine.execFabricMismatchRetry saddle s
  | .dataFlitRx saddle flit fec => Sys2Proof.Machine.execDataFlitRx saddle flit fec s
  | .idleFlitRx saddle flit fec => Sys2Proof.Machine.execIdleFlitRx saddle flit fec s
  | .retryReqRx saddle flit fec => Sys2Proof.Machine.execRetryReqRx saddle flit fec s
  | .retryReqRepeat saddle => Sys2Proof.Machine.execRetryReqRepeat saddle s
  | .ackTimeout saddle => Sys2Proof.Machine.execAckTimeout saddle s
  | .notReadyRx saddle flit fec => Sys2Proof.Machine.execNotReadyRx saddle flit fec s
  | .notReadyBackoffExpiry saddle => Sys2Proof.Machine.execNotReadyBackoffExpiry saddle s
  | .zuothLaneLoss saddle => Sys2Proof.Machine.execZuothLaneLoss saddle s
  | .linkHoldExpiry saddle => Sys2Proof.Machine.execLinkHoldExpiry saddle s
  | .messageSend saddle => Sys2Proof.Machine.execMessageSend saddle s
  | .messageForward saddle => Sys2Proof.Machine.execMessageForward saddle s
  | .messageViolation saddle => Sys2Proof.Machine.execMessageViolation saddle s
  | .rdS port ecc => Sys2Proof.Machine.execRdS port ecc s
  | .rdM port ecc => Sys2Proof.Machine.execRdM port ecc s
  | .wmkSignal port => Sys2Proof.Machine.execWmkSignal port s
  | .snpShare port => Sys2Proof.Machine.execSnpShare port s
  | .snpInv port => Sys2Proof.Machine.execSnpInv port s
  | .snpRspInvalid port ecc => Sys2Proof.Machine.execSnpRspInvalid port ecc s
  | .snpRspAck port ecc => Sys2Proof.Machine.execSnpRspAck port ecc s
  | .snpRspEvicting port ecc => Sys2Proof.Machine.execSnpRspEvicting port ecc s
  | .snpRspData port ecc => Sys2Proof.Machine.execSnpRspData port ecc s
  | .evictClean port ecc => Sys2Proof.Machine.execEvictClean port ecc s
  | .evictDirty port ecc => Sys2Proof.Machine.execEvictDirty port ecc s
  | .evictAck port => Sys2Proof.Machine.execEvictAck port s
  | .dataS port => Sys2Proof.Machine.execDataS port s
  | .dataE port => Sys2Proof.Machine.execDataE port s
  | .dataM port => Sys2Proof.Machine.execDataM port s
  | .nak port => Sys2Proof.Machine.execNak port s
  | .commonsNakRetry tag => Sys2Proof.Machine.execCommonsNakRetry tag s
  | .commonsRequestTimeout eviction tag => Sys2Proof.Machine.execCommonsRequestTimeout eviction tag s
  | .commonsSnoopTimeout tag ecc => Sys2Proof.Machine.execCommonsSnoopTimeout tag ecc s
  | .recordMc port => Sys2Proof.Machine.execRecordMc port s
  | .term port => Sys2Proof.Machine.execTerm port s
  | .refitGh port ecc => Sys2Proof.Machine.execRefitGh port s ecc
  | .ping port => Sys2Proof.Machine.execPing port s
  | .pong port => Sys2Proof.Machine.execPong port s
  | .wmkSignalWrite fn index n e => Sys2Proof.Machine.execWmkSignalWrite fn index n e s
  | .wmkReset fn index => Sys2Proof.Machine.execWmkReset fn index s
  | .wmkArmBarrier fn index a => Sys2Proof.Machine.execWmkArmBarrier fn index a s
  | .wmkClearErr fn index => Sys2Proof.Machine.execWmkClearErr fn index s
  | .wmkRemoteOn fn index => Sys2Proof.Machine.execWmkRemoteOn fn index s
  | .wmkRemoteOff fn index => Sys2Proof.Machine.execWmkRemoteOff fn index s
  | .waitArm fn slot ctrl => Sys2Proof.Machine.execWaitArm fn slot ctrl s
  | .waitCancel fn slot ctrl => Sys2Proof.Machine.execWaitCancel fn slot ctrl s
  | .waitTimeoutExpiry fn slot => Sys2Proof.Machine.execWaitTimeoutExpiry fn slot s
  | .wmkRemoteWrite fn value => Sys2Proof.Machine.execWmkRemoteWrite fn value s
  | .msixMessage fn => Sys2Proof.Machine.execMsixMessage fn s
  | .msixTableWrite fn offset value => Sys2Proof.Machine.execMsixTableWrite fn offset value s
  | .eventEntryWrite => Sys2Proof.Machine.execEventEntryWrite s
  | .eventMsixCoalesce fn => Sys2Proof.Machine.execEventMsixCoalesce fn s
  | .evtQueueHeadWrite fn value => Sys2Proof.Machine.execEvtQueueHeadWrite fn value s
  | .evtIntCauseWrite fn value => Sys2Proof.Machine.execEvtIntCauseWrite fn value s
  | .counterRcRead fn offset size => Sys2Proof.Machine.execCounterRcRead fn offset size s
  | .reg64LowRead fn offset => Sys2Proof.Machine.execReg64LowRead fn offset s
  | .reg64LowWrite fn offset value => Sys2Proof.Machine.execReg64LowWrite fn offset value s
  | .reg64HighWrite fn offset value => Sys2Proof.Machine.execReg64HighWrite fn offset value s
  | .registerWrite fn offset data => Sys2Proof.Machine.execRegisterWrite fn offset data s
  | .mbxDoorbellRing fn value => Sys2Proof.Machine.execMbxDoorbellRing fn value s
  | .identify fn => Sys2Proof.Machine.execIdentify fn s
  | .deviceStatus fn => Sys2Proof.Machine.execDeviceStatus fn s
  | .memoryConfig fn => Sys2Proof.Machine.execMemoryConfig fn s
  | .ridgeCanary fn => Sys2Proof.Machine.execRidgeCanary fn s
  | .fabricConfig fn => Sys2Proof.Machine.execFabricConfig fn s
  | .commonsWindowCreate fn => Sys2Proof.Machine.execCommonsWindowCreate fn s
  | .commonsWindowRemove fn => Sys2Proof.Machine.execCommonsWindowRemove fn s
  | .modelLoad fn => Sys2Proof.Machine.execModelLoad fn s
  | .imageFetchDone failedAt image ecc => Sys2Proof.Machine.execImageFetchDone failedAt image s ecc
  | .modelUnload fn => Sys2Proof.Machine.execModelUnload fn s
  | .modelDrainDone tenant handle => Sys2Proof.Machine.execModelDrainDone tenant handle s
  | .modelZeroiseDone tenant handle => Sys2Proof.Machine.execModelZeroiseDone tenant handle s
  | .oldImageRetire tenant handle => Sys2Proof.Machine.execOldImageRetire tenant handle s
  | .modelQuery fn => Sys2Proof.Machine.execModelQuery fn s
  | .modelStats fn => Sys2Proof.Machine.execModelStats fn s
  | .modelCalibrate fn => Sys2Proof.Machine.execModelCalibrate fn s
  | .signpostBankAssign fn => Sys2Proof.Machine.execSignpostBankAssign fn s
  | .signpostBankRelease fn => Sys2Proof.Machine.execSignpostBankRelease fn s
  | .signpostBankConfigure fn => Sys2Proof.Machine.execSignpostBankConfigure fn s
  | .signpostEntries fn => Sys2Proof.Machine.execSignpostEntries fn s
  | .portMode fn => Sys2Proof.Machine.execPortMode fn s
  | .portAddress fn => Sys2Proof.Machine.execPortAddress fn s
  | .portStateOpen fn => Sys2Proof.Machine.execPortStateOpen fn s
  | .portStateDraining fn => Sys2Proof.Machine.execPortStateDraining fn s
  | .endpointAdd fn => Sys2Proof.Machine.execEndpointAdd fn s
  | .endpointRemove fn => Sys2Proof.Machine.execEndpointRemove fn s
  | .portQuery fn => Sys2Proof.Machine.execPortQuery fn s
  | .tenantSet fn => Sys2Proof.Machine.execTenantSet fn s
  | .tenantEnable fn => Sys2Proof.Machine.execTenantEnable fn s
  | .tenantDisable fn => Sys2Proof.Machine.execTenantDisable fn s
  | .tenantPreempt fn => Sys2Proof.Machine.execTenantPreempt fn s
  | .tenantResume fn => Sys2Proof.Machine.execTenantResume fn s
  | .tenantRelease fn => Sys2Proof.Machine.execTenantRelease fn s
  | .tenantQuery fn => Sys2Proof.Machine.execTenantQuery fn s
  | .waymarkInitReset fn => Sys2Proof.Machine.execWaymarkInitReset fn s
  | .waymarkInitArmBarrier fn => Sys2Proof.Machine.execWaymarkInitArmBarrier fn s
  | .waymarkInitRemoteOn fn => Sys2Proof.Machine.execWaymarkInitRemoteOn fn s
  | .waymarkInitRemoteOff fn => Sys2Proof.Machine.execWaymarkInitRemoteOff fn s
  | .waymarkQuery fn => Sys2Proof.Machine.execWaymarkQuery fn s
  | .streamConfig fn => Sys2Proof.Machine.execStreamConfig fn s
  | .streamStart fn => Sys2Proof.Machine.execStreamStart fn s
  | .streamStop fn => Sys2Proof.Machine.execStreamStop fn s
  | .dataAllocAllocate fn => Sys2Proof.Machine.execDataAllocAllocate fn s
  | .dataAllocFree fn => Sys2Proof.Machine.execDataAllocFree fn s
  | .refitPause fn => Sys2Proof.Machine.execRefitPause fn s
  | .refitResume fn => Sys2Proof.Machine.execRefitResume fn s
  | .resetStats fn => Sys2Proof.Machine.execResetStats fn s
  | .propose fn => Sys2Proof.Machine.execPropose fn s
  | .discard fn => Sys2Proof.Machine.execDiscard fn s
  | .commit fn ecc => Sys2Proof.Machine.execCommit fn s ecc
  | .refitQuery fn => Sys2Proof.Machine.execRefitQuery fn s
  | .detourQuery fn => Sys2Proof.Machine.execDetourQuery fn s
  | .detourHold fn => Sys2Proof.Machine.execDetourHold fn s
  | .detourUnhold fn => Sys2Proof.Machine.execDetourUnhold fn s
  | .detourEndAll fn => Sys2Proof.Machine.execDetourEndAll fn s
  | .power fn => Sys2Proof.Machine.execPower fn s
  | .sensors fn => Sys2Proof.Machine.execSensors fn s
  | .eventQueue fn => Sys2Proof.Machine.execEventQueue fn s
  | .eventLog fn => Sys2Proof.Machine.execEventLog fn s
  | .memRead fn ecc => Sys2Proof.Machine.execMemRead fn ecc s
  | .memWrite fn ecc => Sys2Proof.Machine.execMemWrite fn ecc s
  | .contextDump fn => Sys2Proof.Machine.execContextDump fn s
  | .signpostSearch fn => Sys2Proof.Machine.execSignpostSearch fn s
  | .stateAudit fn => Sys2Proof.Machine.execStateAudit fn s
  | .pfcPauseExpiry port pcp => Sys2Proof.Machine.execPfcPauseExpiry port pcp s
  | .completionTimeout stream number => Sys2Proof.Machine.execCompletionTimeout stream number s
  | .adaptiveRouteFallback saddle => Sys2Proof.Machine.execAdaptiveRouteFallback saddle s
  | .smbusAvailable => Sys2Proof.Machine.execSmbusAvailable s
  | .fecLockAttemptFail port => Sys2Proof.Machine.execFecLockAttemptFail port s

end Sys2Proof.Machine
end

