-- ==== Sys2Proof/WellFormed.lean ====
section
/-! DEFINITION. What the wires can bring: a command is well-formed when its outside data has the size its source gives it. -/

namespace Sys2Proof

/-- A flit of the fabric is 256 bytes (R321). -/
def flitWf (flit : List Byte) : Bool := flit.length == 256

/-- A value of a 32-bit register. -/
def word32Wf (v : Nat) : Bool := decide (v < 2 ^ 32)

/-- A received frame carries at least its Ethernet header. -/
def frameWf (frame : List Byte) : Bool := decide (14 ≤ frame.length)

/-- A write of BAR0 carries at least one byte, and one TLP stays inside the 256 KiB and a 4 KiB page (R430). -/
def barWriteWf (offset : Nat) (data : List Byte) : Bool :=
  !data.isEmpty && decide (offset + data.length ≤ 262144) && decide (offset / 4096 = (offset + data.length - 1) / 4096)

/-- A command whose outside data its source can bring. `step` runs every command, well-formed or not (log 10). -/
def Instr.wf (i : Instr) : Bool :=
  match i with
  | .initFlitRx _ flit _ => flitWf flit
  | .dataFlitRx _ flit _ => flitWf flit
  | .idleFlitRx _ flit _ => flitWf flit
  | .retryReqRx _ flit _ => flitWf flit
  | .notReadyRx _ flit _ => flitWf flit
  | .descriptorStart _ descriptor => descriptor.length == 64
  | .mailboxReady board _ _ => board.length == 32
  | .recordFrameRx _ frame _ => frameWf frame
  | .feedbackFrameRx _ frame _ => frameWf frame
  | .arpRequestRx _ frame _ => frameWf frame
  | .neighbourSolicitationRx _ frame _ => frameWf frame
  | .registerWrite _ offset data => barWriteWf offset data
  | .dmaRingTailWrite _ _ value => word32Wf value
  | .evtQueueHeadWrite _ value => word32Wf value
  | .evtIntCauseWrite _ value => word32Wf value
  | .mbxDoorbellRing _ value => word32Wf value
  | .msixTableWrite _ _ value => word32Wf value
  | .reg64LowWrite _ _ value => word32Wf value
  | .reg64HighWrite _ _ value => word32Wf value
  | .waitArm _ _ ctrl => word32Wf ctrl
  | .waitCancel _ _ ctrl => word32Wf ctrl
  | _ => true

end Sys2Proof
end

