-- ==== Sys2Proof/Safety.lean ====
section
/-! DEFINITION. What a safe run of the block is, and the terms the statements about it use. -/

namespace Sys2Proof.Machine

/-! ## A safe run -/

/-- A step answers a next state. -/
def goesOn (o : Host.Outcome State Fault Refusal) : Bool :=
  match o with
  | .next _ => true
  | .fault _ => false
  | .refused _ => false

/-- The memory keeps its canonical form: addresses rising, no cell at the value an unlisted byte reads as. -/
def State.memoryWf (s : State) : Prop := Memory.wf s.mem = true

/-- What every device reset leaves, whatever its cause (R93, R397 to R399): every tenant ABSENT, every logical port CLOSED,
every Saddle DOWN, Ridges 0 to 63 active, no record, no model, nothing in memory, VSEL 00, and ticks, epochs and device
time from 0. -/
def State.fresh (t : State) : Prop :=
  (∀ x ∈ t.tenants, x.state = .absent) ∧ (∀ p ∈ t.ports, p.mode = .closed) ∧ (∀ x ∈ t.zth.saddles, x.mode = .down) ∧
  (∀ r < 64, (t.ridge r).fenced = false ∧ (t.ridge r).logical = some r) ∧ t.ctxs = [] ∧ t.models = [] ∧ t.mem.cells = [] ∧
  t.boot.vsel = 0 ∧ t.time.tick = 0 ∧ t.time.epoch = 0 ∧ t.time.time = 0

/-- Nothing of the block moves with time alone: no credit is on its way back (R272), nothing is under way at Cairn's port
(R184), no Waymark update is queued (R283), and no record waits to pass from one unit's queue to the next. -/
def State.still (s : State) : Prop :=
  s.returned = [] ∧ s.crnPort = ⟨[], 0⟩ ∧ s.wmkUnit.queue = [] ∧ s.progs = [] ∧ (∀ p < 2, s.trhQ.getD p [] = []) ∧
  ∀ p ∈ s.ctxs, outWaits s p.2 = false

/-! ## Mailbox commands -/

/-- The command of function `f` is the next to act: its mailbox stands first among those taken, its page names the
opcode and the operation, checks 1 to 7 of R380 and the command's own rules pass, and no reset discards its response. -/
def accepted (s : State) (f op : Nat) (mine : List Byte → Bool) (check : State → List Byte → Nat → Option Refused) : Bool :=
  commandReady s f op mine && (commonCheck s f (s.fn f).mbx).isNone &&
    (check s (pagePayload (s.fn f).mbx.run) (pageTenant (s.fn f).mbx.run)).isNone && !(s.fn f).mbx.discard

/-- The payload and the header tenant of the command that function `f` runs. -/
def State.payload (s : State) (f : Nat) : List Byte := pagePayload (s.fn f).mbx.run
def State.headTenant (s : State) (f : Nat) : Nat := pageTenant (s.fn f).mbx.run

/-- `t` is `s` with the command of function `f` answered at once: its response page, with this status and payload, and
STATE DONE; its cause bit; its message when IE is set; and the next command runs (R376, R378, R432). -/
def answeredAs (f status : Nat) (payload : List Byte) (s t : State) : Prop :=
  t = { s with
    taken := s.taken.filter (· != f)
    fns := s.fns.modify f (fun x => { x with
      mbx := { x.mbx with
        resp := responsePage x.mbx.run status s.time.epoch payload, state := .done, due := none }
      cause := x.cause ||| 1
      msixDue := x.msixDue ++ (if x.mbx.ie then [x.mbx.vec] else []) }) }

/-- `t` is `s` with the command of function `f` acted and its response, with status 0, waiting to be posted. -/
def awaiting (f : Nat) (p : Posting) (payload : List Byte) (s t : State) : Prop :=
  t = { s with
    taken := s.taken.filter (· != f)
    fns := s.fns.modify f (fun x => { x with mbx := { x.mbx with due := some (p, leBytes 2 0 ++ payload) } }) }

/-- `s` with one more action that lands at the first Milestone at or after the end of the current epoch (R20). -/
def State.plus (s : State) (d : Due) : State := { s with due := s.due ++ [(s.time.epoch, d)] }

/-- A mailbox command as firmware runs it: its row, its opcode, which of the opcode's operations the row is, and its own
rules after checks 1 to 7 of R381. -/
abbrev MailRow := Instr × Nat × (List Byte → Bool) × (State → List Byte → Nat → Option Refused)

/-- Every mailbox command of function `fn` (Tables 17.5 to 17.13), where SECDED finds `ecc` in what it reads. -/
def mailRows (fn : Fn) (ecc : List EccFind) : List MailRow :=
  [(.identify fn, 0x0101, anyOp, noRules), (.deviceStatus fn, 0x0102, anyOp, noRules),
   (.memoryConfig fn, 0x0103, anyOp, periodCheck), (.ridgeCanary fn, 0x0104, anyOp, canaryCheck),
   (.fabricConfig fn, 0x0105, anyOp, fabricCheck), (.commonsWindowCreate fn, 0x0106, opIs 0 1, windowCreateCheck),
   (.commonsWindowRemove fn, 0x0106, opIs 0 2, windowRemoveCheck), (.modelLoad fn, 0x0201, anyOp, loadChecks),
   (.modelUnload fn, 0x0202, anyOp, unloadCheck), (.modelQuery fn, 0x0203, anyOp, queryCheck),
   (.modelStats fn, 0x0204, anyOp, statsCheck), (.modelCalibrate fn, 0x0205, anyOp, calibrateCheck),
   (.signpostBankAssign fn, 0x0206, opIs 1 1, bankAssignCheck), (.signpostBankRelease fn, 0x0206, opIs 1 2, bankReleaseCheck),
   (.signpostBankConfigure fn, 0x0206, opIs 1 3, bankConfigureCheck), (.signpostEntries fn, 0x0207, anyOp, entriesCheck)] ++
  [(.portMode fn, 0x0301, anyOp, portModeCheck), (.portAddress fn, 0x0302, anyOp, portAddressCheck),
   (.portStateOpen fn, 0x0303, opIs 1 1, portStateCheck), (.portStateDraining fn, 0x0303, opIs 1 2, portStateCheck),
   (.endpointAdd fn, 0x0304, opIs 0 1, endpointAddCheck), (.endpointRemove fn, 0x0304, opIs 0 2, endpointRemoveCheck),
   (.portQuery fn, 0x0305, anyOp, portQueryCheck), (.tenantSet fn, 0x0401, anyOp, tenantSetCheck),
   (.tenantEnable fn, 0x0402, opIs 0 1, stateCheck [.disabled]),
   (.tenantDisable fn, 0x0402, opIs 0 2, stateCheck [.enabled, .preempted]),
   (.tenantPreempt fn, 0x0402, opIs 0 3, stateCheck [.enabled]), (.tenantResume fn, 0x0402, opIs 0 4, stateCheck [.preempted]),
   (.tenantRelease fn, 0x0402, opIs 0 5, stateCheck [.disabled, .enabled, .preempted]),
   (.tenantQuery fn, 0x0403, anyOp, noRules), (.waymarkInitReset fn, 0x0501, opIs 4 1, wmkInitCheck fn),
   (.waymarkInitArmBarrier fn, 0x0501, opIs 4 2, wmkInitCheck fn), (.waymarkInitRemoteOn fn, 0x0501, opIs 4 4, wmkInitCheck fn),
   (.waymarkInitRemoteOff fn, 0x0501, opIs 4 5, wmkInitCheck fn), (.waymarkQuery fn, 0x0502, anyOp, wmkQueryCheck fn)] ++
  [(.streamConfig fn, 0x0601, anyOp, streamConfigCheck), (.streamStart fn, 0x0602, opIs 2 1, startCheck),
   (.streamStop fn, 0x0602, opIs 2 2, stopCheck), (.dataAllocAllocate fn, 0x0603, opIs 0 1, allocateCheck),
   (.dataAllocFree fn, 0x0603, opIs 0 2, freeCheck), (.refitPause fn, 0x0701, opIs 2 1, refitCheck anyRefit),
   (.refitResume fn, 0x0701, opIs 2 2, refitCheck anyRefit), (.resetStats fn, 0x0701, opIs 2 3, refitCheck idleProposal),
   (.propose fn, 0x0701, opIs 2 4, refitCheck idleProposal), (.discard fn, 0x0701, opIs 2 5, refitCheck anyRefit),
   (.commit fn ecc, 0x0701, opIs 2 6, refitCheck commitCheck), (.refitQuery fn, 0x0701, opIs 2 7, refitCheck anyRefit),
   (.detourQuery fn, 0x0801, opIs 2 1, detourCheck), (.detourHold fn, 0x0801, opIs 2 2, detourCheck),
   (.detourUnhold fn, 0x0801, opIs 2 3, detourCheck), (.detourEndAll fn, 0x0801, opIs 2 4, detourCheck),
   (.power fn, 0x0901, anyOp, powerCheck), (.sensors fn, 0x0902, anyOp, noRules),
   (.eventQueue fn, 0x0A01, anyOp, eventQueueCheck fn), (.eventLog fn, 0x0A02, anyOp, noRules),
   (.memRead fn ecc, 0x0B01, anyOp, memReadCheck), (.memWrite fn ecc, 0x0B02, anyOp, memWriteCheck),
   (.contextDump fn, 0x0B03, anyOp, dumpCheck fn), (.signpostSearch fn, 0x0B04, anyOp, searchCheck),
   (.stateAudit fn, 0x0B05, anyOp, noRules)]

/-! ## Flits and messages of the fabric -/

/-- The flit is good, of this kind: its CRC-32 holds and FEC corrected or found nothing (R321, R322). -/
def goodFlit (bs : List Byte) (kind : Nat) : Prop := slice bs 240 4 = flitCrc bs ∧ flitKind bs = kind

/-- The message at the front of a port is delivered there: `m`, of this opcode, and `s'` is the state with it taken. -/
def delivered (s : State) (port : MsgPort) (op : Nat) (m : Msg) (s' : State) : Prop := takeMsg port op s = some (m, s')

/-! ## The units' numbers -/

/-- The device has the units the manual gives it, whatever has happened: 8 logical ports, 2 Ethernet ports, 2 Trailhead
pipelines, 16 banks, 8 walkers, 68 Ridges, 16 sensors, 264 streams, 16 Saddles, 32 tenants and 33 functions, each with its
16 wait slots and its MSI-X vectors; a Saddle counts credits for 4 channels. -/
def State.shaped (s : State) : Prop :=
  s.ports.length = 8 ∧ s.eth.length = 2 ∧ s.trhQ.length = 2 ∧ s.banks.length = 16 ∧ s.walkers.length = 8 ∧
  s.ridges.length = 68 ∧ s.sensors.length = 16 ∧ s.dma.streams.length = 264 ∧ s.zth.saddles.length = 16 ∧
  s.tenants.length = 32 ∧ s.fns.length = 33 ∧ (∀ f < 33, (s.fn f).waits.length = 16 ∧ (s.fn f).msix.length = msixCount f) ∧
  ∀ x ∈ s.zth.saddles, x.pools.length = 4 ∧ x.totals.length = 4 ∧ x.sent.length = 4 ∧ x.rcvd.length = 4 ∧ x.freed.length = 4

/-! ## Function Level Reset (R374, R435) -/

/-- A tenant's state, its tenant-enable bit, its preemption and its quota. -/
def State.tenantView (s : State) (u : Nat) : TenantState × Bool × Bool × Quota :=
  ((s.tenant u).state, (s.tenant u).enable, (s.tenant u).preempted, (s.tenant u).quota)

/-- `t` is what a Function Level Reset of virtual function `v + 1` leaves of `s` (R374, R435): the mailbox READY, with the
response of a command that ran discarded, the interrupt state, event queue and wait slots at reset, the streams stopped with
their configuration and tail kept, and the tenant DISABLED with its quota kept; an ABSENT or RELEASING one keeps its state
(log 127). -/
def functionReset (v : Nat) (s t : State) : Prop :=
  let m := (s.fn (v + 1)).mbx
  let x := t.fn (v + 1)
  (m.state ≠ .booting → x.mbx.state = .ready ∧
    ((m.due.isSome = true → x.mbx.discard = true ∨ x.mbx.due = none) ∧
      (s.taken.contains (v + 1) = true → m.due = none → x.mbx.discard = true))) ∧
  x.mbx.ie = false ∧ x.mbx.vec = 0 ∧ x.cause = 0 ∧ x.pba = 0 ∧ x.msixDue = [] ∧ x.msix = List.replicate 8 MsixEntry.reset ∧
  x.waits = List.replicate 16 WaitSlot.idle ∧ x.evq.enabled = false ∧ x.evq.head = 0 ∧ x.evq.tail = 0 ∧
  (∀ g, g / 8 = v + 1 → (t.stream g).mode = .stopped ∧ (t.stream g).descs = [] ∧ (t.stream g).answers = [] ∧
    (t.stream g).fill = 0 ∧ (t.stream g).configured = (s.stream g).configured ∧ (t.stream g).ringBase = (s.stream g).ringBase ∧
    (t.stream g).sizeExp = (s.stream g).sizeExp ∧ (t.stream g).staging = (s.stream g).staging ∧
    (t.stream g).tail = (s.stream g).tail) ∧
  (t.tenant v).quota = (s.tenant v).quota ∧
  ((s.tenant v).state = .absent ∨ (s.tenant v).state = .releasing → (t.tenant v).state = (s.tenant v).state) ∧
  ((s.tenant v).state ≠ .absent → (s.tenant v).state ≠ .releasing →
    (t.tenant v).state = .disabled ∧ (t.tenant v).enable = false ∧ (t.tenant v).preempted = false)

/-! ## Frames on the port (Table 4.8) -/

/-- The frame passes steps 1 to 5 of Table 4.8 on its port, and no outcome is held for it. -/
def goodFrame (s : State) (l : LPort) (frame : List Byte) : Bool :=
  decide (64 ≤ frame.length) && decide (frame.length ≤ 9216) && beAt frame 12 2 != 0x8808 && (s.port l).openBit &&
    (s.port l).held.isNone

/-- The state in which the header checks run: the frame, its bytes and its FEC codewords are counted (Table 4.10). -/
def afterCount (s : State) (l : LPort) (frame : List Byte) (k : FrameCheck) : State :=
  countFrame l frame.length k (modPort l (fun p => { p with held := none }) s)

/-- Steps 6 to 14 of Table 4.8 let a record or feedback frame through: the endpoint, room in the receive buffer, the header,
an enabled tenant and an accepting model. -/
def passes6to14 (s : State) (l : LPort) (frame : List Byte) (rx : Rx) (e : Endpoint) (h : Hdr) (m : Model) : Prop :=
  goodFrame s l frame = true ∧ parseFrame (s.port l) l frame = .pass rx ∧ endpointOf s rx = some e ∧ rx.reply.port = l.val ∧
  ¬ rxShare s l < rxOccupancy s l none + frame.length ∧ readHdr rx.msg = some h ∧
  step12 h e.tenant (rx.reply.kind != 2 || !rx.pad64) rx.msg.length = none ∧
  (s.tenant e.tenant).enable = true ∧ acceptingModel s e.tenant h.handle = some m

end Sys2Proof.Machine
end

