-- ==== Sys2Proof/Certificates/Slice0/Obligations.lean ====
section
/-! DEFINITION. The statements about the block, by chapter of the manual: what each command does, what it leaves unchanged, and the invariants that every step keeps. -/

open Sys2Proof Sys2Proof.Machine

/-- Step runs the command at the front of the queue, with the queue's rest (the block's own rule, log 3). -/
def Obligations.StepRunsTheFrontOfTheQueue : Prop :=
  ∀ (c : Instr) (s : State), step { s with pending := c :: s.pending } = exec c s

/-- On an empty queue one core cycle of the tick passes, up to the tick's last, and with the core clock stopped nothing
happens: the model's choice, log 3. In a state that is still the cycle changes nothing but the time and the counters of
the waits that stand. -/
def Obligations.EmptyQueueLetsOneCyclePass : Prop :=
  ∀ (s : State), s.pending = [] →
    (s.time.clockOn = true → s.time.cycle < 1023 → s.still → ∃ t, step s = .next t ∧ t = { s with
      time := t.time, ctr := t.ctr } ∧ t.time.cycle = s.time.cycle + 1 ∧ t.time.tick = s.time.tick ∧
      t.time.time = (s.time.time + (s.time.sub + 1) / s.disp.point.clock) % 2 ^ 64 ∧
      t.ctr = ((stallCounters s).foldl (fun t k => count k 1 t) s).ctr) ∧
    (s.time.clockOn = true → s.time.cycle < 1023 → ∃ t, step s = .next t ∧ t.time.cycle = s.time.cycle + 1 ∧
      t.time.tick = s.time.tick ∧ t.time.time = (s.time.time + (s.time.sub + 1) / s.disp.point.clock) % 2 ^ 64) ∧
    ((s.time.clockOn = false ∨ 1023 ≤ s.time.cycle) → step s = .next s)

/-- No step stops the block: every command, well-formed or not, is answered with a next state in every state. -/
def Obligations.NoStepStopsTheBlock : Prop := ∀ (s : State), goesOn (step s) = true

/-- Every step keeps the memory's canonical form. -/
def Obligations.EveryStepKeepsMemoryCanonical : Prop :=
  ∀ (s t : State), s.memoryWf → step s = .next t → t.memoryWf

/-- The units keep their numbers: every step leaves 8 logical ports, 16 banks, 68 Ridges, 264 streams, 16 Saddles, 32
tenants and 33 functions, each with its 16 wait slots and its MSI-X vectors, and 4 credit totals on each Saddle. -/
def Obligations.EveryStepKeepsTheUnits : Prop :=
  ∀ (s t : State), s.shaped → step s = .next t → t.shaped

/-- Reset memory is canonical and lists nothing, and the reset state has every unit. -/
def Obligations.ResetMeetsTheInvariants : Prop :=
  State.reset.memoryWf ∧ State.reset.mem.cells = [] ∧ State.reset.shaped ∧ State.reset.fresh

/-- R397: each device reset leaves every tenant ABSENT, every port CLOSED, every Saddle DOWN and Ridges 0 to 63 active, and
records its cause; the board cap, the straps and the PCIe link are kept as Table 18.4 says. While THERMTRIP_N is latched
the cause of the trip stays (log 49).
R409: a junction at 115 °C latches THERMTRIP_N low, records cause 0x04 and stops the core clock, and the other state
stands; an invalid sensor trips too (R428). -/
def Obligations.DeviceResetsAndThermalTrip : Prop :=
  (∀ (s : State) (straps : Straps),
     (∃ t, exec .vddAuxRise s = .next t ∧ t.fresh ∧ t.boot.resetCause = 1 ∧ t.boot.boardCap = 350) ∧
     (s.boot.powerGood = false → ∃ t, exec (.powerGoodRise straps) s = .next t ∧ t.fresh ∧ t.boot.powerGood = true ∧
       t.boot.straps = straps ∧ t.boot.boardCap = s.boot.boardCap) ∧
     (s.boot.powerGood = true → ∃ t, exec .powerGoodFall s = .next t ∧ t.fresh ∧ t.boot.powerGood = false ∧
       t.boot.resetCause = (if s.boot.thermTrip then 4 else 1) ∧ t.boot.boardCap = s.boot.boardCap ∧ t.time.clockOn = false) ∧
     (s.boot.perstN = true → ∃ t, exec .perstNFall s = .next t ∧ t.fresh ∧ t.boot.perstN = false ∧ t.boot.pcieLink = false ∧
       t.boot.resetCause = (if s.boot.thermTrip then 4 else 2) ∧ t.boot.boardCap = s.boot.boardCap ∧
       t.boot.straps = s.boot.straps ∧ t.time.clockOn = false) ∧
     (s.boot.perstN = false → ∃ t, exec .perstNRise s = .next t ∧ t.fresh ∧ t.boot.perstN = true ∧
       t.boot.resetCause = s.boot.resetCause ∧ t.boot.straps = s.boot.straps ∧
       (s.boot.powerGood = true → s.boot.straps.testEn = false → s.boot.thermTrip = false → t.time.clockOn = true)) ∧
     (s.time.clockOn = true → s.boot.pcieLink = true → ∃ t, exec .pf0FunctionLevelReset s = .next t ∧ t.fresh ∧
       t.boot.resetCause = 3 ∧ t.boot.pcieLink = true ∧ t.boot.boardCap = s.boot.boardCap ∧ t.boot.straps = s.boot.straps) ∧
     (s.time.clockOn = true → s.boot.fwRunning = true → ∃ t, exec .watchdogExpiry s = .next t ∧ t.fresh ∧
       t.boot.resetCause = 5 ∧ t.boot.pcieLink = s.boot.pcieLink ∧ t.boot.boardCap = s.boot.boardCap ∧
       t.boot.straps = s.boot.straps)) ∧
  (∀ (s : State) (sensor : Fin 16), s.boot.powerGood = true →
     exec (.thermalTrip sensor) s = .next { s with
       boot := { s.boot with thermTrip := true, resetCause := 4 }, time := { s.time with clockOn := false } })

/-- R401, R402, R404, R405: a flash slot is tried and its result reported, config ready follows, and mailbox ready makes
every mailbox READY in one cycle and lays out the firmware plots. -/
def Obligations.BootTriesSlotsAndReportsReadiness : Prop :=
  ∀ (s : State),
    (∀ (r : SlotRead), inRom s = true → nextSlot s r = some r.slot → ∃ t, exec (.bootSlotReadDone r) s = .next t ∧
      t.boot.tried = s.boot.tried ++ [r.slot] ∧
      (r.slot = .a → t.boot.errA = slotResult r ∧ t.boot.errB = s.boot.errB) ∧
      (r.slot = .b → t.boot.errB = slotResult r ∧ t.boot.errA = s.boot.errA) ∧
      (slotResult r = 0 → t.boot.fwRunning = true ∧ t.boot.slotB = (r.slot == .b) ∧ t.boot.fwVersion = leAt r.header 16 4) ∧
      (slotResult r ≠ 0 → t.boot.fwRunning = s.boot.fwRunning) ∧ t = { s with boot := t.boot }) ∧
    (s.time.clockOn = true → s.boot.configReady = false → romDone s = true →
      exec .configReady s = .next { s with boot := { s.boot with
        configReady := true, phase := if s.boot.fwRunning then .firmwareInit else .failed } }) ∧
    (∀ (board : List Byte) (refclk : Bool), s.boot.phase = .firmwareInit →
      (exec (.mailboxReady board refclk false) s = .next { s with boot := { s.boot with phase := .failed, initFail := true } }) ∧
      (∃ t, exec (.mailboxReady board refclk true) s = .next t ∧ t.boot.phase = .ready ∧ t.boot.refclkNet = refclk ∧
        (∀ x ∈ t.fns, x.mbx.state = .ready) ∧ (∀ p, 912 ≤ p → p < 952 → t.plot p = (.firmware, none)) ∧
        (∀ a, a < massifEnd → memByte t.mem a = 0 ∧ poisoned t.mem a = false) ∧
        (refclk = false → ∀ p ∈ t.ports, p.link = false))) ∧
    (∀ (fn : Fn) (w : Option CfgWrite), s.boot.pcieLink = true → s.time.clockOn = true →
      (s.boot.configReady = false → exec (.pcieConfigRequest fn w) s = .next { s with out := .cfg fn true :: s.out }) ∧
      (s.boot.configReady = true → ∃ t, exec (.pcieConfigRequest fn w) s = .next t ∧ t.out.head? = some (.cfg fn false) ∧
        (∀ on, w = some (.ats on) → (fn.val ∈ t.dma.ats ↔ on = true) ∧ t.dma.pri = s.dma.pri) ∧
        (∀ on, w = some (.pri on) → (fn.val ∈ t.dma.pri ↔ on = true) ∧ t.dma.ats = s.dma.ats) ∧
        (w = none → t.dma.ats = s.dma.ats ∧ t.dma.pri = s.dma.pri ∧ t.dma.streams = s.dma.streams) ∧
        (s.dma.pris = [] → t.out = .cfg fn false :: s.out ∧ (w = none → t.dma = s.dma))))

/-- R406 to R408: SMBus is answered at the strapped address from 50 ms after POWER_GOOD, a write of 120 to 350 W to the
board cap is accepted and waits for its Milestone, any other value is NACKed, and a bad PEC discards the write.
R410: a JTAG instruction is loaded; IDCODE shows 0x36404557; EXTEST, EXTEST_PULSE, EXTEST_TRAIN, CLAMP and HIGHZ take
the pins only while POWER_GOOD is high and PERST_N is low, and act as BYPASS at any other time. What TDO shows of the
register an instruction captures is the model's record (log 57). -/
def Obligations.BoardBlockAnswersSmbusAndJtag : Prop :=
  (∀ (s : State) (addr code value : Nat),
     (smbusMine s addr = true → exec (.smbusRead addr code) s = .next { s with out := .smbus (smbusBytes s code) :: s.out }) ∧
     (smbusMine s addr = false → exec (.smbusRead addr code) s = .next { s with out := .smbus none :: s.out }) ∧
     (∀ pec, smbusMine s addr = true → 120 ≤ value → value ≤ 350 → pec ≠ .bad → s.time.clockOn = true →
       exec (.smbusBoardCapWrite addr value pec) s = .next { s with
         boot := { s.boot with boardCap := value }, out := .smbus (some []) :: s.out
         due := s.due ++ [(s.time.epoch, .boardCap value)] }) ∧
     (∀ pec, smbusMine s addr = true → value < 120 ∨ 350 < value →
       exec (.smbusBoardCapWrite addr value pec) s = .next { s with out := .smbus none :: s.out }) ∧
     (smbusMine s addr = true → 120 ≤ value → value ≤ 350 → exec (.smbusBoardCapWrite addr value .bad) s = .next s) ∧
     exec .smbusBusTimeout s = .next { s with out := .smbusRelease :: s.out } ∧
     (s.boot.powerGood = true → exec .smbusAvailable s = .next { s with boot := { s.boot with smbusUp := true } })) ∧
  (∀ (s : State),
     exec .bypass s = .next { s with boot := { s.boot with jtagIr := .bypass }, out := .tdo (some 0) :: s.out } ∧
     exec .idcode s = .next { s with boot := { s.boot with jtagIr := .idcode }, out := .tdo (some 0x36404557) :: s.out } ∧
     exec .samplePreload s = .next { s with boot := { s.boot with jtagIr := .samplePreload } } ∧
     (∀ p ∈ [(Instr.extest, JtagIr.extest), (.extestPulse, .extestPulse), (.extestTrain, .extestTrain), (.clamp, .clamp),
         (.highz, .highz)],
       (s.boot.powerGood = true ∧ s.boot.perstN = false →
         exec p.1 s = .next { s with boot := { s.boot with jtagIr := p.2 } }) ∧
       (¬ (s.boot.powerGood = true ∧ s.boot.perstN = false) →
         exec p.1 s = .next { s with boot := { s.boot with jtagIr := p.2 }, out := .tdo (some 0) :: s.out })))

/-- R248, R249, R266, R273: a Milestone begins tick k + 1, whose cycles 0 to 7 are its boundary window: MLS_TICK rises by
1, the previous tick's charges are closed, and the round-robin pointer moves on (R258). What the tick that ends charges in
the cycles it has left is closed with it: nothing more in a state that is still. -/
def Obligations.MilestoneBeginsTheNextTick : Prop :=
  ∀ (s u : State) (ecc : List EccFind), s.time.clockOn = true → u = idleCycles (1024 - s.time.cycle) s →
    (∃ t, exec (.milestone ecc) s = .next t ∧
      t.time.tick = (s.time.tick + 1) % 2 ^ 64 ∧ t.time.cycle = 8 ∧ t.time.epoch = s.time.epoch ∧
      t.time.firstMilestoneDone = true ∧ t.disp.tpPtr = (s.disp.tpPtr + 1) % 32 ∧ t.disp.charged = u.disp.charging ∧
      t.disp.debt = min (u.disp.charging - u.disp.budget) (nominalBudget u)) ∧
    (s.still → u.disp = s.disp)

/-- R264, R265: E is formed exactly and rounded down once. The manual's worked case: 250 W, 110 W and 97.25 °C give
72,800 nJ, 103.50 °C gives 39,200 nJ; the factor runs from 240 at 95 °C to 96 at 104 °C and above 105 °C.
R265: a level is entered at its threshold, 95, 105 or 110 °C, and left below the threshold less 2 °C; a reading that
crosses several moves straight to the highest (R429). -/
def Obligations.BudgetAndLevelFollowHeat : Prop :=
  (budgetOf 250 110000 .nominal (thermalFactor (some 389)) = 72800 * 16 ∧
   budgetOf 250 110000 .nominal (thermalFactor (some 414)) = 39200 * 16 ∧
   (∀ q : Int, q < 380 → thermalFactor (some q) = 256) ∧ (∀ q : Int, 420 ≤ q → thermalFactor (some q) = 96) ∧
   (∀ k : Nat, k < 10 → ∀ r : Nat, r < 4 → thermalFactor (some (380 + 4 * k + r)) = 240 - 16 * k) ∧
   (∀ c p f, 1000 * c ≤ p → ∀ pt, budgetOf c p pt f = 0) ∧
   (∀ c p f, budgetOf c p .nominal f = 16 * (1000 * c - p) * 640 * f / 256000) ∧
   (∀ c p f, budgetOf c p .reduced f = 16 * (1000 * c - p) * 2560 * f / 768000) ∧
   (∀ c p f, budgetOf c p .low f = 16 * (1000 * c - p) * 1280 * f / 256000)) ∧
  (∀ (old k : Nat) (q : Int), old ≤ 3 → 1 ≤ k → k ≤ 3 →
     (k ≤ readingLevel old (some q) ↔ ∃ j, k ≤ j ∧ j ≤ 3 ∧ (levelThreshold j ≤ q ∨ (j ≤ old ∧ levelThreshold j - 8 ≤ q))))

/-- R265, R428: a sensor's reading is stored with its validity, from −40 °C to 150 °C with its self-test passed; the first
invalid one raises PWR_SENSOR_INVALID with the sensor and the valid sensors left, and no other does until it reads validly. -/
def Obligations.SensorReadingsAreValidated : Prop :=
  ∀ (s : State) (i : Fin 16) (q : Int) (ok : Bool), s.sensors.length = 16 →
    ((readingValid q ok = true ∨ (s.sensors.getD i.val ⟨0, false, false⟩).raised = true) →
      exec (.sensorReading i q ok) s = .next { s with
        sensors := s.sensors.set i.val ⟨q, readingValid q ok, !readingValid q ok⟩ }) ∧
    (readingValid q ok = false → (s.sensors.getD i.val ⟨0, false, false⟩).raised = false → ∃ t,
      exec (.sensorReading i q ok) s = .next t ∧ t.sensors = s.sensors.set i.val ⟨q, false, true⟩ ∧
      (s.evBuf.length < 512 → t.evBuf = s.evBuf ++ [⟨0x0B02, 0xFF, s.evSeq, s.time.tick,
        fitBytes (leBytes 1 i.val ++ leBytes 1 ((s.sensors.set i.val ⟨q, false, true⟩).countP (·.valid))) 16⟩])) ∧
    (readingValid q ok = true ↔ ok = true ∧ -160 ≤ q ∧ q ≤ 600)

/-- R20, R264, R269, R377: an epoch begins; firmware sets P from the measured power, the energy charged and the board
allowance, and takes PENDING commands. Before mailbox ready no command is taken. VSEL requests the voltage of a point that
the coming epoch steps up to. -/
def Obligations.EpochStartSetsFixedPower : Prop :=
  ∀ (s : State) (mw : Nat) (ecc : List EccFind), s.time.clockOn = true →
    (∃ t, exec (.epochStart mw ecc) s = .next t ∧ t.time.epoch = (s.time.epoch + 1) % 2 ^ 64 ∧ t.time.tick = s.time.tick ∧
      t.time.firstMilestoneDone = false ∧ t.disp.epochCharge = 0 ∧
      (s.boot.phase = .ready → t.disp.fixedNext = mw + 1000 * s.disp.allowance - s.disp.epochCharge / 16000 ∧
        t.disp.measuredMw = (if s.boot.readyEpoch < s.time.epoch then some mw else none)) ∧
      (s.boot.phase ≠ .ready → t.fns = s.fns ∧ t.taken = s.taken)) ∧
    (∀ p, risingPoint s = some p → exec .voltageUpRequest s = .next { s with
      boot := { s.boot with vsel := p.code }, disp := { s.disp with voltageUp := true } })

/-- R62, R64, R61: the link of a port follows its PHY in every port state, a failed FEC lock attempt is counted in the
port's FEC counters and leaves it down, a frame being received when it goes down is counted as an FCS error, and a DRAINING
port with nothing left becomes CLOSED, where no control frame of it leaves any more. A held record context of that frame is
released (R93). That the bytes received of that frame count, and that a failed attempt counts one in each FEC counter, is
the model's reading (log 124).
R59, R69: a received PFC frame pauses the enabled priorities of its mask, and with quanta 0 lets them go, whatever the
port state; a PAUSE frame is counted and dropped; XOFF is repeated above XON and XON is sent at XON or below; a pause that
runs out ends. -/
def Obligations.LinkEventsAndFlowControl : Prop :=
  (∀ (s : State) (l : LPort),
     (s.boot.refclkNet = true → exec (.linkUp l) s = .next { s with
       ports := s.ports.modify l (fun p => { p with link := true }) }) ∧
     ((s.port l).held = none → exec (.linkDown l none) s = .next { s with
       ports := s.ports.modify l (fun p => { p with link := false, held := none }) }) ∧
     (∀ n, ∃ t, exec (.linkDown l (some n)) s = .next t ∧
       (∀ c, (s.port l).held = some (.allocated c) → t.ctx? c = none) ∧
       t.counter (cPrt l pFrames) = (s.counter (cPrt l pFrames) + 1) % 2 ^ 64 ∧
       t.counter (cPrt l pBytes) = (s.counter (cPrt l pBytes) + n) % 2 ^ 64 ∧
       t.counter (cPrt l pFcs) = (s.counter (cPrt l pFcs) + 1) % 2 ^ 64) ∧
     ((s.port l).mode = .draining → portIdle s l = true → exec (.portDrainComplete l) s = .next { s with
       ports := s.ports.modify l (fun p => { p with mode := .closed, ready := [], txq := [] }) }) ∧
     (∃ t, exec (.fecLockAttemptFail l) s = .next t ∧
       t.ports = s.ports.modify l (fun p => { p with link := false }) ∧
       t.counter (cPrt l pFecCorr) = (s.counter (cPrt l pFecCorr) + 1) % 2 ^ 64 ∧
       t.counter (cPrt l pFecUncorr) = (s.counter (cPrt l pFecUncorr) + 1) % 2 ^ 64)) ∧
  (∀ (s : State) (l : LPort) (len : Nat) (mask : BitVec 8) (quanta : List Nat) (k : Fin 8), l.val < s.ports.length →
     64 ≤ len → len ≤ 9216 →
     (∃ t, exec (.pfcFrameRx l len mask quanta) s = .next t ∧
       t.counter (cPrt l pPfc) = (s.counter (cPrt l pPfc) + 1) % 2 ^ 64 ∧
       (bit mask.toNat k.val = true → bit (s.port l).pfcMask k.val = true → quanta.getD k.val 0 ≠ 0 →
         kvGet (t.port l).paused k.val = some (quanta.getD k.val 0)) ∧
       (bit mask.toNat k.val = false ∨ bit (s.port l).pfcMask k.val = false →
         kvGet (t.port l).paused k.val = kvGet (s.port l).paused k.val) ∧ (t.port l).mode = (s.port l).mode) ∧
     (∃ t, exec (.pauseFrameRx l len) s = .next t ∧ t.ports = s.ports ∧ t.ctxs = s.ctxs ∧
       t.counter (cPrt l pPause) = (s.counter (cPrt l pPause) + 1) % 2 ^ 64) ∧
     ((s.port l).xoffSent.contains k.val = true → (s.port l).xon < rxOccupancy s l (some k.val) → ∃ t,
       exec (.pfcXoffRepeat l k) s = .next t ∧ t.out = .pfc l k 0xFFFF :: s.out ∧ t.ports = s.ports) ∧
     ((s.port l).xoffSent.contains k.val = true → rxOccupancy s l (some k.val) ≤ (s.port l).xon → ∃ t,
       exec (.pfcXonSend l k) s = .next t ∧ t.out = .pfc l k 0 :: s.out ∧ (t.port l).xoffSent.contains k.val = false) ∧
     exec (.pfcPauseExpiry l k) s = .next { s with
       ports := s.ports.modify l (fun p => { p with paused := kvDel p.paused k.val }) })

/-- R67: an ARP request or a neighbour solicitation for an address in use is passed to firmware, within 1,000 a second, and
firmware answers the oldest while the port is OPEN, at the source MAC of the request's frame. -/
def Obligations.AddressRequestsReachFirmwareAndAreAnswered : Prop :=
  ∀ (s : State) (l : LPort) (frame : List Byte) (k : FrameCheck), l.val < s.ports.length → k.fcsOk = true →
    (∀ v b, goodFrame s l frame = true → parseFrame (s.port l) l frame = .arp v b → arpAsks (s.port l) b = true →
      (ctlAdmit l (count (cPrt l pCtrl) 1 (afterCount s l frame k))).1 = true → ∃ t,
      exec (.arpRequestRx l frame k) s = .next t ∧ (t.port l).arpQ = (s.port l).arpQ ++ [frame] ∧ t.ctxs = s.ctxs) ∧
    (∀ v b, goodFrame s l frame = true → parseFrame (s.port l) l frame = .nd v b → ndAsks (s.port l) b = true →
      (ctlAdmit l (count (cPrt l pCtrl) 1 (afterCount s l frame k))).1 = true → ∃ t,
      exec (.neighbourSolicitationRx l frame k) s = .next t ∧ (t.port l).ndQ = (s.port l).ndQ ++ [frame] ∧
      t.ctxs = s.ctxs) ∧
    (∀ f rest, (s.port l).arpQ = f :: rest → (s.port l).mode = .opened → ∃ t, exec (.arpReplySend l) s = .next t ∧
      (t.port l).arpQ = rest ∧ (t.port l).ready = (s.port l).ready ++ [⟨.control, none,
        arpReply (slice f 6 6) (s.port l).mac (controlParts (s.port l) l f).1 (controlParts (s.port l) l f).2,
        ((controlParts (s.port l) l f).1.map (·.1)).getD 0, 0, false⟩]) ∧
    (∀ f rest, (s.port l).ndQ = f :: rest → (s.port l).mode = .opened → ∃ t,
      exec (.neighbourAdvertisementSend l) s = .next t ∧ (t.port l).ndQ = rest ∧
      (t.port l).ready = (s.port l).ready ++ [⟨.control, none,
        ndAnswer (s.port l).mac (slice f 6 6) (controlParts (s.port l) l f).1 (controlParts (s.port l) l f).2,
        ((controlParts (s.port l) l f).1.map (·.1)).getD 0, 0, false⟩])

/-- R84, R93: from the 24th header byte a record that passes steps 5 to 7 as far as its headers decide them, and steps 12
to 16, holds a context, and the outcome is held until the last byte; a refused one holds its status and reason. -/
def Obligations.RecordStartHoldsItsOutcome : Prop :=
  ∀ (s : State) (l : LPort) (head : List Byte) (rx : Rx) (n : Nat) (e : Endpoint) (h : Hdr), l.val < s.ports.length →
    (s.port l).held = none → parseHead (s.port l) l head = some (rx, some n) → endpointOf s rx = some e → readHdr rx.msg = some h →
    step12 h e.tenant true n = none → h.type ≠ 3 → ∃ t, exec (.recordStart l head) s = .next t ∧
      (t.port l).held = some (step13to16 e.tenant rx.reply h s).1 ∧
      ((s.tenant e.tenant).enable = false → (t.port l).held = some (.refused 7 0 0xFFFF) ∧ t.ctxs = s.ctxs) ∧
      ((s.tenant e.tenant).enable = true → acceptingModel s e.tenant h.handle = none →
        (t.port l).held = some (.refused 3 0 0xFFFF) ∧ t.ctxs = s.ctxs) ∧
      (∀ m c rest, (s.tenant e.tenant).enable = true → acceptingModel s e.tenant h.handle = some m →
        ctxPlaces s e.tenant < (s.tenant e.tenant).quota.contexts → ctxFree s m = true → s.freeCtx = c :: rest →
        (t.port l).held = some (.allocated c) ∧ t.freeCtx = rest ∧
        t.ctx? c = some (RecCtx.fresh e.tenant m.id h.handle h.recId h.cookie .ethernet rx.reply s.now))

/-- R83, R94, R104, R107: a record frame that passes every check joins its pipeline's lane. It commits at once when it
reads no table and no record before it in the lane waits: its context holds its codes and side list, and its statistics
count. One whose tables are in Massif waits for its table reads.
R87, R353: a valid feedback frame of a traced model enters the feedback queue. -/
def Obligations.GoodFramesCommitOrQueueFeedback : Prop :=
  ∀ (s : State) (l : LPort) (frame : List Byte) (k : FrameCheck) (rx : Rx) (e : Endpoint) (h : Hdr) (m : Model) (b : Body)
    (c : Nat) (rest : List Nat), s.shaped → k.fcsOk = true → passes6to14 s l frame rx e h m →
    (h.type ≠ 3 → ctxPlaces s e.tenant < (s.tenant e.tenant).quota.contexts → ctxFree s m = true → s.freeCtx = c :: rest →
      s.model? m.id = some m → parseBody h.tword h.flags (slice rx.msg 24 h.plen) m.image [] = .ok b →
      (∀ d ∈ s.trhQ.getD (l.val / 4) [], d ≠ c ∧ ((s.ctx? d).bind (·.body)) = none) → ∃ t x,
      exec (.recordFrameRx l frame k) s = .next t ∧ t.ctx? c = some x ∧ x.tenant = e.tenant ∧ x.model = m.id ∧
      x.recId = h.recId ∧ x.accepted = s.now ∧ t.freeCtx = rest ∧ t.trhQ = s.trhQ.modify (l.val / 4) (fun q => q ++ [c]) ∧
      ((m.tableRes = false ∧ b.tables = []) ∨ (m.tableRes = true ∧ k.tables = [] ∧ s.mem.tableBad = []) →
        x.committed = true ∧ x.slots = b.slots ∧ x.side = b.side ∧
        t.counter (cTrh (l.val / 4) 4) = (s.counter (cTrh (l.val / 4) 4) + 1) % 2 ^ 64) ∧
      (m.tableRes = false → b.tables ≠ [] → x.committed = false ∧ x.tableReads = b.tables ∧
        t.counter (cTrh (l.val / 4) 4) = s.counter (cTrh (l.val / 4) 4))) ∧
    (∀ label ch, h.type = 3 → parseFeedback (slice rx.msg 24 h.plen) m.image = .ok (label, ch) → m.traced = true →
      s.feedback.length < 64 → ∃ t, exec (.feedbackFrameRx l frame k) s = .next t ∧
      t.feedback = s.feedback ++ [⟨m.id, m.tenant, h.recId, label, ch, false, none⟩] ∧ t.ctxs = s.ctxs)

/-- R79, R64, R32, R69, R272: the oldest finished frame of a port enters its 64 KiB transmit queue with the link up and its
record's context is released; with the link down it is discarded and counted, a control frame uncounted. The first frame
whose priority is not paused goes to the MAC, is counted by its kind, and an answer that scored updates the latency; its
room is free from the next cycle on. A CLOSED port sends nothing (R62). -/
def Obligations.TransmitQueueCarriesAnswersToTheMac : Prop :=
  ∀ (s : State) (l : LPort) (f : TxFrame) (rest : List TxFrame), s.shaped →
    ((s.port l).ready = f :: rest → (s.port l).mode ≠ .closed → (s.port l).link = true →
      txqBytes (s.port l) + s.txqUnusable l + f.bytes.length ≤ txqSize → ∃ t,
      exec (.transmitQueueEntry l) s = .next t ∧ (t.port l).ready = rest ∧
      (t.port l).txq = (s.port l).txq ++ [{ f with ctx := none }] ∧ (∀ c, f.ctx = some c → t.ctx? c = none)) ∧
    ((s.port l).ready = f :: rest → (s.port l).mode = .closed → ∃ t, exec (.transmitQueueEntry l) s = .next t ∧
      (t.port l).ready = rest ∧ (t.port l).txq = (s.port l).txq ∧ t.out = s.out) ∧
    ((s.port l).ready = f :: rest → (s.port l).mode ≠ .closed → (s.port l).link = false → ∃ t,
      exec (.transmitQueueEntry l) s = .next t ∧
      (t.port l).ready = rest ∧ (t.port l).txq = (s.port l).txq ∧ (∀ c, f.ctx = some c → t.ctx? c = none) ∧
      t.counter (cPrt l pTxLinkDown) = (if f.kind = .control then s.counter (cPrt l pTxLinkDown)
        else (s.counter (cPrt l pTxLinkDown) + 1) % 2 ^ 64)) ∧
    ((s.port l).txq.find? (fun f => (kvGet (s.port l).paused f.pcp).isNone) = some f → (s.port l).mode ≠ .closed →
      (s.port l).link = true → ∃ t,
      exec (.txMacHandoff l) s = .next t ∧ t.out = .frame l f.kind f.bytes :: s.out ∧
      (t.port l).txq = (s.port l).txq.erase f ∧ t.returned = s.returned ++ [.txq l.val f.bytes.length] ∧
      (f.kind = .score → t.counter (cPrt l pTxScore) = (s.counter (cPrt l pTxScore) + 1) % 2 ^ 64) ∧
      (f.scored = true → t.counter (cPrt l pLatLast) = (s.now - f.accepted) % 2 ^ 64 ∧
        t.counter (cPrt l pLatMax) = max (s.now - f.accepted) (s.counter (cPrt l pLatMax)) % 2 ^ 64))

/-- R107, R246: a table read of a record returns once its lines have been served. With a read still out the record waits;
with the last one the record's body is decided and, well-formed, it commits. A field whose table read met a poisoned word
leaves its slot missing and unbinned, and over poison that will be healed the record takes POI and the self-heal mark.
R124, R426, R272: the oldest committed record of a pipeline takes one of the 32 program contexts, and a free walker that is
not fenced when its program walks; with every walker fenced it is answered UNIT_FAULT with reason 0x40. -/
def Obligations.TableReadsAndSignpostEntry : Prop :=
  (∀ (s : State) (ctx : CtxId) (r : RecCtx) (b : BodyIn) (m : Model) (i : Nat) (rest : List Nat), s.shaped → b.pipe < 2 →
     s.ctx? ctx = some r → r.body = some b → r.tableReads = i :: rest → s.model? r.model = some m → m.tableRes = false →
     (fieldLines m i).any (filling s) = false → colRefused s m.id (fieldLines m i) = false →
     ctx.val ∈ s.trhQ.getD b.pipe [] →
     (∀ d ∈ s.trhQ.getD b.pipe [], d ≠ ctx.val → ((s.ctx? d).bind (·.body)) = none) →
     (rest ≠ [] → colPoison s m (m.field i).tabOff (m.field i).tabLen = none →
       exec (.trailheadTableReadDone ctx) s = .next (modCtx ctx (fun r => { r with
         tableReads := rest, body := some { b with bad := b.bad ++ [] } }) s)) ∧
     (∀ y, rest = [] → b.bad = [] → colPoison s m (m.field i).tabOff (m.field i).tabLen = none →
       parseBody b.tword b.flags b.pay m.image [] = .ok y → ∃ t x, exec (.trailheadTableReadDone ctx) s = .next t ∧
       t.ctx? ctx = some x ∧ x.committed = true ∧ x.slots = y.slots ∧ x.side = y.side ∧ x.poi = r.poi ∧
       t.counter (cTrh b.pipe 4) = (s.counter (cTrh b.pipe 4) + 1) % 2 ^ 64) ∧
     (∀ y, rest = [] → b.bad = [] → colPoison s m (m.field i).tabOff (m.field i).tabLen = some false →
       (s.tenant r.tenant).quota.policy ≠ .abort → parseBody b.tword b.flags b.pay m.image [i] = .ok y → ∃ t x,
       exec (.trailheadTableReadDone ctx) s = .next t ∧ t.ctx? ctx = some x ∧ x.committed = true ∧ x.poi = true ∧
       x.heal = true ∧ x.slots = y.slots ∧ x.side = y.side)) ∧
  (∀ (pay : List Byte) (bad : List Nat) (i : Nat) (f : Field) (p q : Nat) (b b' : Body), i ∈ bad → f.type ≠ .bitfield →
     parseBodyField pay bad i f p b = .ok (q, b') → b'.slots = b.slots ∧ b'.side = b.side ∧ b'.stats = b.stats) ∧
  (∀ (s : State) (p : Fin 2) (c : Nat) (rest : List Nat) (r : RecCtx) (m : Model), s.shaped →
     s.trhQ.getD p [] = c :: rest → s.ctx? c = some r → s.model? r.model = some m → r.committed = true →
     m.image.program ≠ [] → progFree s = true →
     (hasAutomaton m = false → ∃ t, exec (.signpostEntry p) s = .next t ∧ t.trhQ.getD p [] = rest ∧ t.progs = s.progs ++ [c] ∧
       t.walkers = s.walkers ∧ t.ctx? c = some { r with state := .signpost, prog := some ⟨none, [], [], none, 0⟩ }) ∧
     (∀ w, hasAutomaton m = true → freeWalker s = some w → ∃ t, exec (.signpostEntry p) s = .next t ∧
       t.trhQ.getD p [] = rest ∧ t.progs = s.progs ++ [c] ∧ (t.walker w).holder = some c ∧ (s.walker w).fenced = false ∧
       (s.walker w).holder = none ∧
       t.ctx? c = some { r with state := .signpost, prog := some ⟨some w, [], [], none, 0⟩ }) ∧
     (hasAutomaton m = true → s.walkers.all (·.fenced) = true → exec (.signpostEntry p) s = .next (unitFault c 0x40 s)))

/-- R116, R120, R121, R123, R125, R136: a TERNARY or RANGE step searches its bank with its key, in a cycle in which the
bank is its program's, and takes the matches in rank order, or is missing when a part of its key is; a NEXT step takes the
next retained match of the step it continues, or misses with the same count; a search of a fenced bank answers the record
UNIT_FAULT 0x40. A program issues at most one step in a cycle, and a bank takes one search. -/
def Obligations.StepsSearchTheirBank : Prop :=
  ∀ (s : State) (ctx : CtxId) (r : RecCtx) (p : Prog) (m : Model) (i : Nat) (st : Step),
    nextStep? s ctx = some (r, p, m, i, st) →
    (∀ q ∈ [(Instr.ternaryStep ctx, 1, (ternaryKey r m.image.program p.outs st.parts).map (fun k => (k : Int))),
        (.rangeStep ctx, 2, rangeKey r m.image.program p.outs (s.bank st.target).domain st.parts)], st.op = q.2.1 →
      (q.2.2 = none → ∃ t, exec q.1 s = .next t ∧
        t.ctx? ctx = some { r with prog := some { p with
          outs := p.outs ++ [⟨true, 0, 0, [], 0, false, s.now + 28⟩], next := s.now + 1 } } ∧
        t.counter (cSgp 5) = (s.counter (cSgp 5) + 1) % 2 ^ 64) ∧
      (∀ k, q.2.2 = some k → (s.bank st.target).fenced = false → bankTurn s st.target ctx = true → ∃ t, exec q.1 s = .next t ∧
        t.ctx? ctx = some { r with prog := some { p with
          outs := p.outs ++ [StepOut.ofMatches st.miss (searchBank (s.bank st.target) k) (s.now + 28)], next := s.now + 1 } } ∧
        (st.target < s.banks.length → (t.bank st.target).busy = s.now + 1) ∧
        t.counter (cBank st.target 0) = (s.counter (cBank st.target 0) + 1) % 2 ^ 64) ∧
      (∀ k, q.2.2 = some k → (s.bank st.target).fenced = false → bankTurn s st.target ctx = false → exec q.1 s = .next s) ∧
      (∀ k, q.2.2 = some k → (s.bank st.target).fenced = true → exec q.1 s = .next (unitFault ctx 0x40 s))) ∧
    (st.op = 4 → ∀ o, p.outs[st.target]? = some o → ∃ t x, exec (.nextStep ctx) s = .next t ∧ t.ctx? ctx = some x ∧
      (o.missing = true → x.prog.map (·.outs) = some (p.outs ++ [⟨true, 0, 0, [], 0, false, s.now + 4⟩])) ∧
      (o.missing = false → x.prog.map (·.outs) = some
        (p.outs.modify st.target (fun y => { y with taken := y.taken + 1 }) ++
          [match o.matches_[o.taken]? with
            | some y => ⟨false, y.result, o.count, [], 0, true, s.now + 4⟩
            | none => ⟨false, st.miss * 0x01010101, o.count, [], 0, false, s.now + 4⟩])))

/-- R117, R118: a search selects, among the valid entries that match, the one of the highest priority byte and, among
equals, the lowest index; in position priority the lowest index. The rest follow in the same order, and no match is lost. -/
def Obligations.SearchReturnsItsMatchesInRankOrder : Prop :=
  ∀ (b : Bank) (key : Int) (i j : Nat) (x y : Match), (searchBank b key)[i]? = some x → (searchBank b key)[j]? = some y → i < j →
    (searchBank b key).length = b.entries.countP (fun e => entryMatches b key e.2) ∧
    ∃ e ∈ b.entries, ∃ f ∈ b.entries, x = ⟨e.1, e.2.result⟩ ∧ y = ⟨f.1, f.2.result⟩ ∧
      entryMatches b key e.2 = true ∧ entryMatches b key f.2 = true ∧ e.2.valid = true ∧ f.2.valid = true ∧
      (b.position = true → e.1 ≤ f.1) ∧
      (b.position = false → f.2.units % 256 < e.2.units % 256 ∨ (f.2.units % 256 = e.2.units % 256 ∧ e.1 ≤ f.1))

/-- R127, R128, R426: an AUTOMATON step takes one transition per byte of the string from its walker's cache and its accept
events in rank order; the first transition the cache misses is read through the Col cache and then cached; a parity fault
of the walker's state fences it and is reported, one of a cached transition has it read again and is counted.
R122, R125: results arrive as they fall due; with the last, every destination of every step is written, in step order, and
the record's walker is free from the next cycle on. -/
def Obligations.WalkersWalkAndResultsAreWritten : Prop :=
  (∀ (s : State) (ctx : CtxId) (r : RecCtx) (p : Prog) (m : Model) (i : Nat) (st : Step) (w : Nat) (pat : PatternSet)
     (str : List Byte), s.shaped → w < 8 → s.ctx? ctx = some r → r.prog = some p → p.walker = some w →
     kvGet m.image.patterns st.target = some pat → st.op = 3 → walkString r st = some str →
     (nextStep? s ctx = some (r, p, m, i, st) →
       (∃ t, exec (.automatonStep ctx .none) s = .next t ∧
         t.counter (cWalker w) = (s.counter (cWalker w) + 1) % 2 ^ 64 ∧
         t.ctx? ctx = some { r with prog := some { p with
           outs := p.outs ++ [StepOut.ofMatches st.miss (walkMatches pat str) (s.now + (12 + str.length))]
           next := s.now + 1
           reading := if (firstMiss (s.walker w).cache m pat str).isSome then some (i, s.now) else none } }) ∧
       (∃ t, exec (.automatonStep ctx .data) s = .next t ∧
         (((walkStates pat str pat.start).map (fun x => plotAddr m.plots x.1)).any (fun a => (s.walker w).cache.contains a) =
           true → t.counter (cSgp 6) = (s.counter (cSgp 6) + 1) % 2 ^ 64 ∧ (t.walker w).cache.length < (s.walker w).cache.length)) ∧
       (∃ t, exec (.automatonStep ctx .state) s = .next t ∧ (t.walker w).fenced = true ∧ (t.walker w).holder = none)) ∧
     (∀ a since, s.model? r.model = some m → m.image.program[i]? = some st → p.reading = some (i, since) →
       firstMiss (s.walker w).cache m pat str = some a → filling s (a / 256) = false → colRefused s m.id [a / 256] = false →
       (∀ o, colPoison s m o 2 = none) → ∃ t, exec (.walkerMissReadDone ctx) s = .next t ∧
         (t.walker w).cache = (a :: (s.walker w).cache).take walkerCacheSize ∧
         t.ctx? ctx = some { r with prog := some { p with
           outs := p.outs.modify i (fun o => { o with due := o.due + (s.now - since) })
           reading := if (firstMiss ((a :: (s.walker w).cache).take walkerCacheSize) m pat str).isSome then some (i, s.now)
             else none } })) ∧
  (∀ (s : State) (ctx : CtxId) (r : RecCtx) (p : Prog) (m : Model) (i : Nat), s.ctx? ctx = some r → r.prog = some p →
     s.model? r.model = some m → dueStep p = some i →
     (p.arrived.length + 1 < m.image.program.length → ∃ t, exec (.stepResult ctx) s = .next t ∧
       t.ctx? ctx = some { r with prog := some { p with arrived := p.arrived ++ [i] } } ∧ t.walkers = s.walkers) ∧
     (m.image.program.length ≤ p.arrived.length + 1 → m.image.members ≤ 1 ∨ m.member ≠ 0 → ∃ t,
       exec (.stepResult ctx) s = .next t ∧ t.counter (cSgp 4) = (s.counter (cSgp 4) + 1) % 2 ^ 64 ∧
       t.ctx? ctx = some { r with
         prog := some { p with arrived := p.arrived ++ [i] }
         slots := (programWrites m.image.program p.outs).foldl (fun k w => kvPut 0xFE k w.1 w.2) r.slots } ∧
       (∀ k, (t.walker k).holder ≠ some ctx.val) ∧ (∀ w, p.walker = some w → .walker w ∈ t.returned)))

/-- R133 to R136: the compare engine passes from entry to entry of a bank in ascending order, holding the bank for a cycle
per unit of its width; an entry that differs from its shadow is written back from it, counted, and its bank fenced at the
16th restore of an epoch or when the read-back differs again; an entry that agrees is left as it is. A shadow with a
poisoned word is reported and restores nothing (R240). A fenced bank is not compared. -/
def Obligations.CompareEngineRestoresFromTheShadow : Prop :=
  ∀ (s : State) (b : BankId) (found : Option FoundEntry) (bad : Bool) (e : Nat) (sh : Entry) (held : FoundEntry), s.shaped →
    (s.bank b).fenced = false → e = (s.bank b).ptr % (s.bank b).size → e ∉ (s.bank b).shadowBad →
    sh = (kvGet (s.bank b).shadow e).getD Entry.none_ →
    held = found.getD ⟨((kvGet (s.bank b).entries e).getD Entry.none_).units,
      ((kvGet (s.bank b).entries e).getD Entry.none_).result, ((kvGet (s.bank b).entries e).getD Entry.none_).valid⟩ →
    (firstPoison s.mem (shadowAddr b (s.bank b).width e 0) (24 * (s.bank b).width) = none →
      held = ⟨sh.units, sh.result, sh.valid⟩ → ∃ t, exec (.shadowCompare b found [] bad) s = .next t ∧
      t.bank b = { s.bank b with
        ptr := (e + 1) % (s.bank b).size, busy := max (s.bank b).busy s.now + (s.bank b).width }) ∧
    (firstPoison s.mem (shadowAddr b (s.bank b).width e 0) (24 * (s.bank b).width) = none →
      held ≠ ⟨sh.units, sh.result, sh.valid⟩ → ∃ t, exec (.shadowCompare b found [] bad) s = .next t ∧
      (t.bank b).ptr = (e + 1) % (s.bank b).size ∧ (t.bank b).restores = (s.bank b).restores + 1 ∧
      (kvGet (t.bank b).entries e).getD Entry.none_ = { sh with
        valid := sh.valid && !bad, written := ((kvGet (s.bank b).entries e).getD Entry.none_).written } ∧
      t.counter (cBank b 2) = (s.counter (cBank b 2) + 1) % 2 ^ 64 ∧
      ((t.bank b).fenced = true ↔ bad = true ∨ (s.bank b).restores = 15)) ∧
    (∀ w, firstPoison s.mem (shadowAddr b (s.bank b).width e 0) (24 * (s.bank b).width) = some w → ∃ t,
      exec (.shadowCompare b found [] bad) s = .next t ∧ (t.bank b).entries = (s.bank b).entries ∧
      e ∈ (t.bank b).shadowBad ∧ t.counter (cBank b 2) = s.counter (cBank b 2))

/-- R253, R255, R256, R268, R271: the first record in its pipeline's queue to the dispatcher, once its multicast has left, or
a record that came to a member, is admitted: a LATENCY record to the tick its reservation gives, below HOT110; a THROUGHPUT
record to its tenant's queue; otherwise it is shed with its reason and counted. Its queue entry is free from the next cycle.
R168, R172, R173, R183: the next pass of a record binds when one of the 1,024 pass rows is free and it holds a block,
or takes the head of its tenant's free list: preloaded at once, or, when it was parked, its restore asks for Cairn's port.
With no block free it waits. The row is reserved with the pass. -/
def Obligations.AdmissionAndPassBind : Prop :=
  (∀ (s u v : State) (ctx : CtxId) (r : RecCtx) (m : Model), u = fillDispatch s → u.ctx? ctx = some r →
     u.model? r.model = some m → r.ended = none →
     (isMember r = true ∧ r.state = .signpost ∧ v = u) ∨
       (isMember r = false ∧ firstInQueue u ctx r = true ∧ multicastWaits u ctx = false ∧ v = { u with
         disp := { u.disp with inq := u.disp.inq.filter (· != ctx.val) }, returned := u.returned ++ [.disp (pipeOf u r)] }) →
     (∀ k, (u.tenant r.tenant).preempted = false → m.latency = true → u.disp.level < 3 → latencyTick u m = some k → ∃ t,
       exec (.dispatcherAdmission ctx) s = .next t ∧
       t.ctx? ctx = some { r with state := .awaiting, admitted := some k, prog := none, place := u.disp.nextPlace } ∧
       t.disp.inq = v.disp.inq ∧ t.returned = v.returned ∧ t.disp.nextPlace = u.disp.nextPlace + 1 ∧
       admittedIn t m k = admittedIn u m k + 1 ∧ t.counter (cMls 0) = (u.counter (cMls 0) + 1) % 2 ^ 64) ∧
     ((u.tenant r.tenant).preempted = false → m.latency = false → u.disp.level < 2 ∨ isRing r = true →
       waitingOf u r.tenant < (u.tenant r.tenant).quota.tpQueue ∨ isRing r = true → ∃ t,
       exec (.dispatcherAdmission ctx) s = .next t ∧
       t.ctx? ctx = some { r with state := .awaiting, admitted := none, prog := none, place := u.disp.nextPlace } ∧
       t.disp.waiting = u.disp.waiting ++ [ctx.val] ∧ t.disp.inq = v.disp.inq) ∧
     ((u.tenant r.tenant).preempted = true ∨ (u.disp.level < 3 ∧ m.latency = true ∧ latencyTick u m = none) ∨
       (u.disp.level < 2 ∧ m.latency = false ∧ isRing r = false ∧
         (u.tenant r.tenant).quota.tpQueue ≤ waitingOf u r.tenant) →
       exec (.dispatcherAdmission ctx) s = .next (endRecord ctx 2 0x21 (count (cMls 2) 1 v))) ∧
     ((u.tenant r.tenant).preempted = false → (m.latency = true ∧ 3 ≤ u.disp.level) ∨
         (m.latency = false ∧ 2 ≤ u.disp.level ∧ isRing r = false) →
       exec (.dispatcherAdmission ctx) s = .next (endRecord ctx 2 0x20 (count (cMls 3) 1 v)))) ∧
  (∀ (s : State) (ctx : CtxId) (r : RecCtx) (m head : Model), s.shaped → s.ctx? ctx = some r → stageModel s r = some m →
     s.model? r.model = some head → mayBind s r m = true → rowFree s = true → r.version = m.version →
     (m.passRidges m.version r.nextBind).all (fun j => (servingOf s m j).isSome) = true →
     (∀ b, r.block = some b → ∃ t x row, exec (.passBind ctx) s = .next t ∧ t.ctx? ctx = some x ∧ x.state = .bound ∧
       x.nextBind = r.nextBind + 1 ∧ x.block = some b ∧ x.blockReady = r.blockReady ∧ t.rows = s.rows ++ [row] ∧
       row.ctx = ctx.val ∧ row.stage = r.stage ∧ row.pass = r.nextBind ∧ row.got = [] ∧
       row.expected = expectedMasks (m.passTrees r.version r.nextBind)) ∧
     (∀ b, r.block = none → r.tenant < 32 → blockFree s r.tenant = some b →
       blockOk (s.tenant r.tenant).quota b = true → ∃ t x, exec (.passBind ctx) s = .next t ∧ t.ctx? ctx = some x ∧
       x.state = .bound ∧ x.nextBind = r.nextBind + 1 ∧ x.block = some b ∧
       (t.tenant r.tenant).freeBlocks = (s.tenant r.tenant).freeBlocks.drop 1 ∧
       t.rows.length = s.rows.length + 1 ∧ (x.blockReady = true ↔ r.state ≠ .parked) ∧
       (r.state = .parked → t.restoring = s.restoring ++ [ctx.val] ∧
         t.crnPort.transfers = s.crnPort.transfers ++ [(ctx.val, portCycles m.image.channels)]) ∧
       (r.state ≠ .parked → t.counter (cCrn 5) = (s.counter (cCrn 5) + 1) % 2 ^ 64)) ∧
     (r.block = none → blockFree s r.tenant = none → ∃ t, exec (.passBind ctx) s = .next t ∧ t.rows = s.rows ∧
       t.ridges = s.ridges ∧ t.ctx? ctx = some r))

/-- R159, R156, R157, R140, R272, R420: a record with a bound pass enters a Ridge's window while an entry of its 16 is free; a
named set loads into the inactive buffers and stands there when its load completes; a warm load that SECDED cannot correct,
or a patrol line, fences the Ridge; a stand-in's set loads from the master copy. The patrol moves on only in a step that is
due and granted or promoted (R233, R242). -/
def Obligations.TreeSetsLoadIntoTheInactiveBuffers : Prop :=
  ∀ (s : State) (q : RidgeId), s.shaped → (s.ridge q).fenced = false →
    (∀ ctx : CtxId, (s.ridge q).bound.any (·.ctx == ctx.val) = true → ctx.val ∉ (s.ridge q).window →
      (s.ridge q).window.length + s.unusable (.window q.val) < 16 → ∃ t, exec (.broadcastDone ctx q) s = .next t ∧
      t.ridge q = { s.ridge q with window := (s.ridge q).window ++ [ctx.val] }) ∧
    (∀ b id, bufferFree s q = true → namedSet s q = some (b, id) → (s.ridge q).standsIn = false → ∃ t,
      exec (.setLoadStart q) s = .next t ∧ t.ridge q = { s.ridge q with inactive := ⟨some id, false, false⟩ } ∧
      s.disp.charging ≤ t.disp.charging) ∧
    (∀ id p ecc, (s.ridge q).inactive = ⟨some id, false, p⟩ → fromMaster s id q = true → masterServed s id q = true →
      colRefused s id.model (setLines s id q) = false → ∃ t, exec (.setLoadDone q ecc) s = .next t ∧
      t.ridge q = { s.ridge q with inactive := ⟨some id, true, (setPoison s id q).isSome⟩ }) ∧
    (∀ id p ecc, (s.ridge q).inactive = ⟨some id, false, p⟩ → fromMaster s id q = false →
      ((List.range (setWords s id q)).any (findsUe ecc) = false → ∃ t, exec (.setLoadDone q ecc) s = .next t ∧
        t.ridge q = { s.ridge q with inactive := ⟨some id, true, false⟩ } ∧
        t.counter (cRdg q 5) = (s.counter (cRdg q 5) + 1) % 2 ^ 64) ∧
      ((List.range (setWords s id q)).any (findsUe ecc) = true → ∃ t, exec (.setLoadDone q ecc) s = .next t ∧
        (t.ridge q).fenced = true)) ∧
    (∀ id p, (s.ridge q).standsIn = true → (s.ridge q).active = ⟨some id, false, p⟩ → (s.ridge q).inactive.set = none →
      masterServed s id q = true → colRefused s id.model (setLines s id q) = false →
      (treesOn s id q).all (·.tree.flat) = true → ∃ t,
      exec (.standInLoadDone q) s = .next t ∧ (t.ridge q).active = ⟨some id, true, (setPoison s id q).isSome⟩) ∧
    (∀ ecc, patrolMay s true false = false → exec (.ridgeSramPatrolStep ecc) s = .next s) ∧
    (∀ ecc, patrolMay s true false = true → s.mem.sramPatrol / 8192 = q.val → ∃ t,
      exec (.ridgeSramPatrolStep ecc) s = .next t ∧ t.mem.sramPatrol = (s.mem.sramPatrol + 1) % sramLines ∧
      t.mem.sramSteps = s.mem.sramSteps + 1 ∧
      ((t.ridge q).fenced = true ↔ (List.range 32).any (findsUe ecc) = true))

/-- R29, R153 to R155, R161, R259, R162, R174: at a free issue position the first ready pass of a Ridge in the order of R259
issues, takes its positions and, once reduced, stands in the output queue of 2 entries; a full queue holds the next issue
back. The oldest entry leaves for Cairn and reaches its row. A parity fault found in the pass fences the Ridge; the canary
of a Ridge that nothing upset passes on every code. -/
def Obligations.PassesRunFromIssueToTheirRow : Prop :=
  ∀ (s : State) (q : RidgeId), s.shaped → (s.ridge q).fenced = false →
    (queueFull s q = true → ∀ f, exec (.passIssue q f) s = .next s) ∧
    (∀ b r m id, queueFull s q = false →
      (boundOrder s q).find? (fun b => passReady s q b && atPosition s q (boundSlots s b)) = some b → s.ctx? b.ctx = some r →
      passSet s b.ctx b.pass = some (m, id) →
      (setMarked s id q = false → (s.ridge q).active.poisoned = false → (s.ridge q).inactive.poisoned = false →
        ((s.ridge q).canary = true → r.code ((s.ridge q).passes % 1024) < 256) → ∃ t,
        exec (.passIssue q ⟨false, false, false, 0⟩) s = .next t ∧ (t.ridge q).passes = (s.ridge q).passes + 1 ∧
        (t.ridge q).fenced = false ∧ (t.ridge q).nextPos = s.now + 4 * boundSlots s b ∧
        (t.ridge q).bound = (s.ridge q).bound.erase b ∧ (t.ridge q).pipe = (s.ridge q).pipe ++ [passEntry s.now m r b false] ∧
        t.counter (cRdg q 3) = (s.counter (cRdg q 3) + 1) % 2 ^ 64) ∧
      (∀ f, f.parity = true → ∃ t, exec (.passIssue q f) s = .next t ∧ (t.ridge q).fenced = true ∧ (t.ridge q).pipe = [] ∧
        (t.ridge q).bound = [] ∧ (t.ridge q).window = [])) ∧
    (∀ e rest, (s.ridge q).pipe = e :: rest →
      (e.queued ≤ s.now → ∃ t, exec (.partialsLeaveRidge q) s = .next t ∧
        t.ridge q = { s.ridge q with pipe := rest, transport := (s.ridge q).transport ++ [e] } ∧ t.rows = s.rows ∧
        t.returned = s.returned ++ [.ridge q.val]) ∧
      (s.now < e.queued → exec (.partialsLeaveRidge q) s = .next s)) ∧
    (∀ e rest, (s.ridge q).transport = e :: rest → ∃ t, exec (.partialArrival q) s = .next t ∧
      (t.ridge q).transport = rest ∧ t.rows = s.rows.map (fun x =>
        if x.ctx = e.ctx ∧ x.stage = e.stage ∧ x.pass = e.pass then
          { x with got := x.got ++ e.partials.map (fun p => (p.channel, e.logical, p.val)) } else x))

/-- R176, R178, R179, R184: with no spill or restore burst on the port, a complete row whose turn it is adds to its record's
slots and is free; with the last row of the last stage the final values go to Summit and the block back to the tenant, or
they wait in the block while the queue of 64 to Summit and the Saddles is full; an ECC fault discards the operation and
raises CRN_RANGE_FAULT with cause 1. While a burst holds the port the row waits.
R42: a Q-mode slot add whose exact sum leaves the range −2^47 to 2^47 − 1 leaves the slot at the nearer end and sets SAT;
any other is exact. -/
def Obligations.RowsAddInPassOrderAndSaturate : Prop :=
  (∀ (s : State) (ctx : CtxId) (r : RecCtx) (x : Row) (b : Nat) (m head : Model), s.shaped → s.ctx? ctx = some r →
     turnRow s ctx r = some x → r.block = some b → stageModel s r = some m → s.model? r.model = some head →
     x.complete = true → r.blockReady = true → r.parking = false → blockOk (s.tenant r.tenant).quota b = true →
     (0 < s.crnPort.burst → ∀ f, exec (.rowAdd ctx f) s = .next s) ∧
     (s.crnPort.burst = 0 → r.nextAdd + 1 < m.passCount → ∃ t, exec (.rowAdd ctx false) s = .next t ∧
       t.rows = s.rows.erase x ∧ t.returned = s.returned ++ [.row] ∧
       t.ctx? ctx = some { r with nextAdd := r.nextAdd + 1 } ∧ t.slots = (addRow m.image r.recId b x s).slots ∧
       (∀ c w, x.expected = [(c, w)] → t.slot (b + c) =
         (slotAdd m.image r.recId x.pass c (s.slot (b + c)) (x.sum m.image.fmode c)).1)) ∧
     (s.crnPort.burst = 0 → r.nextAdd + 1 = m.passCount → r.src = .ethernet → head.image.cascade[r.stage]? = none →
       r.tenant < 32 → r.state = .bound →
       (outRoom s = true → ∃ t y, exec (.rowAdd ctx false) s = .next t ∧ t.ctx? ctx = some y ∧ y.state = .summit ∧
         y.block = none ∧ y.final = readBlock (addRow m.image r.recId b x s) b m.image.channels ∧
         (t.tenant r.tenant).freeBlocks = (s.tenant r.tenant).freeBlocks ++ [b]) ∧
       (outRoom s = false → ∃ t, exec (.rowAdd ctx false) s = .next t ∧
         t.ctx? ctx = some { r with nextAdd := r.nextAdd + 1 } ∧ t.slots = (addRow m.image r.recId b x s).slots ∧
         t.rows = s.rows.erase x)) ∧
     (s.crnPort.burst = 0 → r.src = .ethernet → (s.tenant r.tenant).quota.policy ≠ .replay → s.evBuf.length < 512 → ∃ t,
       exec (.rowAdd ctx true) s = .next t ∧ (∃ y, t.ctx? ctx = some y ∧ y.ended = some (5, 0x40)) ∧ t.slots = s.slots ∧
       t.evBuf = s.evBuf ++ [⟨0x0401, r.tenant, s.evSeq, s.time.tick,
         fitBytes (leBytes 2 b ++ leBytes 2 x.pass ++ leBytes 1 1 ++ zeros 3 ++ leBytes 8 r.recId) 16⟩])) ∧
  (∀ (img : Image) (recId pass c : Nat) (old add v : Val), img.fmode = false → v = (slotAdd img recId pass c old add).1 →
     (old.v + add.v < -(2 ^ 47) → v.v = -(2 ^ 47) ∧ v.flags &&& flagSat ≠ 0) ∧
     (2 ^ 47 - 1 < old.v + add.v → v.v = 2 ^ 47 - 1 ∧ v.flags &&& flagSat ≠ 0) ∧
     (-(2 ^ 47) ≤ old.v + add.v → old.v + add.v ≤ 2 ^ 47 - 1 → v.v = old.v + add.v ∧ v.flags = old.flags ||| add.flags))

/-- R181, R182, R184: once its spill has had its cycles at Cairn's port, parking writes the record's values into its
Switchback entry and returns its block; R183: a restore that has had its cycles reads them back into the new block, after
which the record's rows may add. Before that either waits.
R182, R183 (Table 8.4): what a Switchback entry is written with is what a restore reads, for every channel: a Q-mode
integer with its sign, an FP32 pattern bit for bit, and the flags. -/
def Obligations.ParkedRecordsKeepTheirValues : Prop :=
  (∀ (s : State) (ctx : CtxId) (r : RecCtx) (b : Nat) (m : Model), s.shaped → s.ctx? ctx = some r → r.block = some b →
     stageModel s r = some m → r.tenant < 32 →
     (portDone s ctx = false → exec (.parkEntryWritten ctx) s = .next s ∧ ∀ ecc, exec (.restoreDone ctx ecc) s = .next s) ∧
     (r.parking = true → portDone s ctx = true → ∃ t, exec (.parkEntryWritten ctx) s = .next t ∧
       memBytes t.mem (swbAddr ctx) (swbBytes m r (readBlock s b m.image.channels)).length =
         swbBytes m r (readBlock s b m.image.channels) ∧
       t.ctx? ctx = some { r with state := .parked, parking := false, block := none, blockReady := false } ∧
       (t.tenant r.tenant).freeBlocks = (s.tenant r.tenant).freeBlocks ++ [b] ∧
       t.counter (cTen r.tenant tParks) = (s.counter (cTen r.tenant tParks) + 1) % 2 ^ 64) ∧
     (ctx.val ∈ s.restoring → portDone s ctx = true → blockOk (s.tenant r.tenant).quota b = true →
       firstPoison s.mem (swbAddr ctx) (128 + 8 * m.image.channels) = none → ∃ t, exec (.restoreDone ctx []) s = .next t ∧
       readBlock t b m.image.channels = (List.range m.image.channels).map (swbVal s ctx m.image.fmode) ∧
       t.ctx? ctx = some { r with blockReady := true } ∧ ctx.val ∉ t.restoring ∧
       t.counter (cTen r.tenant tResumes) = (s.counter (cTen r.tenant tResumes) + 1) % 2 ^ 64)) ∧
  (∀ (s : State) (c : Nat) (m : Model) (r : RecCtx) (vals : List Val) (i : Nat) (v : Val), vals.length ≤ 64 →
     vals[i]? = some v → v.flags < 256 →
     (m.image.fmode = true → 0 ≤ v.v → v.v < 2 ^ 32 →
       swbVal (writeWhole (swbAddr c) (swbBytes m r vals) s) c true i = v) ∧
     (m.image.fmode = false → -(2 ^ 63) ≤ v.v → v.v < 2 ^ 63 →
       swbVal (writeWhole (swbAddr c) (swbBytes m r vals) s) c false i = v))

/-- R191, R195, R198, R79: a record whose terms are all in has its margins and results formed once, while its assembler is not
stalled; its score frame, of status OK or DEGRADED, is handed to its port or its ring with one value per channel, flagged
traced when its trace entry was written (R352) and with a search pending when one started (R364). A search that is asked for
and cannot start is counted (R389). While an assembler is stalled, Summit waits.
R192: once the cycle w ticks after the multicast has passed, a record whose terms are not all in is answered UNIT_FAULT under
every policy, and SMT_XCHIP_TIMEOUT names the missing members; before that nothing happens. -/
def Obligations.SummitScoresOrTimesOut : Prop :=
  (∀ (s : State) (ctx : CtxId) (r : RecCtx) (m head : Model), s.ctx? ctx = some r → stageModel s r = some m →
     s.model? r.model = some head → r.ended = none →
     (assemblerStalled s r = true → exec (.summitFusedOutput ctx) s = .next s ∧ exec (.scoreFrameAssembly ctx) s = .next s) ∧
     (r.state = .summit → r.fused = false → termsDone head r = true → assemblerStalled s r = false → ∃ t,
       exec (.summitFusedOutput ctx) s = .next t ∧
       t.ctx? ctx = some { r with
         margins := (fuse m.image (markPoison r (channelValues m r))).margins
         results := (fuse m.image (markPoison r (channelValues m r))).results, fused := true } ∧
       t.counter (cSmt 3) = (s.counter (cSmt 3) + 1) % 2 ^ 64) ∧
     (∀ traced, r.fused = true → r.src = .ethernet → assemblerStalled s r = false → r.reply.port < s.ports.length →
       traced = (traceable head r.results && (s.refit? head.id).isSome) →
       (∀ x, traced = true → s.refit? head.id = some x → ∃ t y, exec (.scoreFrameAssembly ctx) s = .next t ∧
         t.refit? head.id = some y ∧ y.w = (if traceCapacity head = 0 then 0 else (x.w + 1) % traceCapacity head)) ∧
       (r.reason = none ∨ head.image.detour = none ∨ searchFor s head r = none → ∃ t, exec (.scoreFrameAssembly ctx) s = .next t ∧
         t.ctx? ctx = some { r with ended := some (if r.heal then 1 else 0, 0) } ∧
         (t.port r.reply.port).ready = (s.port r.reply.port).ready ++ [⟨.score, some ctx.val,
           answerFrame s r.reply (scoreMsg r m.image.out.format traced false), r.reply.pcp, r.accepted, true⟩] ∧
         (r.reason.isSome = true → head.image.detour.isSome = true →
           t.counter (cTen r.tenant (tDtr 5)) = (s.counter (cTen r.tenant (tDtr 5)) + 1) % 2 ^ 64)) ∧
       (∀ f, searchFor s head r = some f → r.reason.isSome = true → head.image.detour.isSome = true → ∃ t rest,
         exec (.scoreFrameAssembly ctx) s = .next t ∧
         (t.port r.reply.port).ready = (s.port r.reply.port).ready ++ ⟨.score, some ctx.val,
           answerFrame s r.reply (scoreMsg r m.image.out.format traced true), r.reply.pcp, r.accepted, true⟩ :: rest ∧
         t.counter (cTen r.tenant (tDtr 0)) = (s.counter (cTen r.tenant (tDtr 0)) + 1) % 2 ^ 64)) ∧
     (∀ g n e a room, r.fused = true → r.src = .ring g n e → assemblerStalled s r = false → g < s.dma.streams.length →
       traceable head r.results = false → r.reason = none →
       a = (⟨n, e, false, scoreMsg r m.image.out.format false false, some ctx.val, false, false⟩ : RingAnswer) →
       room = decide (a.size ≤ (s.stream g).staging - (s.stream g).fill) → ∃ t, exec (.scoreFrameAssembly ctx) s = .next t ∧
       (t.stream g).answers = (s.stream g).answers ++ [if room then { a with staged := true, ctx := none } else a] ∧
       t.ctx? ctx = (if room then none else some { r with ended := some (if r.heal then 1 else 0, 0) }))) ∧
  (∀ (s : State) (ctx : CtxId) (r : RecCtx) (m : Model) (t0 : Nat), s.ctx? ctx = some r → s.model? r.model = some m →
     r.mcAt = some t0 → r.ended = none → termsDone m r = false →
     (s.now ≤ t0 + m.image.out.wait * 1024 → exec (.xchipWaitExpiry ctx) s = .next s) ∧
     (t0 + m.image.out.wait * 1024 < s.now → r.src = .ethernet → s.evBuf.length < 512 → ∃ t x,
       exec (.xchipWaitExpiry ctx) s = .next t ∧ t.ctx? ctx = some x ∧ x.ended = some (5, 0x40) ∧
       t.counter (cTen r.tenant tXchipTimeouts) = (s.counter (cTen r.tenant tXchipTimeouts) + 1) % 2 ^ 64 ∧
       t.evBuf = s.evBuf ++ [⟨0x0501, r.tenant, s.evSeq, s.time.tick,
         fitBytes (leBytes 2 r.handle ++ leBytes 2 (missingMembers m r) ++ zeros 4 ++ leBytes 8 r.recId) 16⟩]))

/-- R200, R201: with no record ready to be fused, Summit computes the gradient of the first granted feedback frame from the
traced margin of its channel and its label, and counts it; a label limited to [0, 1] is counted too. With a record ready it
computes nothing.
R353, R354: the first granted frame is processed once: it is discarded and counted by the first cause that applies, and
nothing in memory changes; or its channel is marked labelled in its trace entry and, unless accumulation is paused, g and h
are added to the statistics of the leaves that the entry names.
R356, R359: of a decay sweep or proposal pass the blocks granted so far are done; with the last the sweep is counted, or the
shadow leaf table becomes VALID, the proposal is counted and RFT_PROPOSAL_DONE carries the leaves it saturated. A leaf whose
H is below Hmin keeps its value. -/
def Obligations.FeedbackAndRefitPasses : Prop :=
  (∀ (s : State),
     (fusedWaiting s = true ∨ nextGradient s = none → exec .feedbackGradient s = .next s) ∧
     (∀ i f m x off, fusedWaiting s = false → nextGradient s = some (i, f, m, x, off) → ∃ t,
       exec .feedbackGradient s = .next t ∧ t.counter (cSmt 6) = (s.counter (cSmt 6) + 1) % 2 ^ 64 ∧ t.mem = s.mem ∧
       t.counter (cSmt 8) = (if (gradient m.image.out.loss (leNat (areaBytes s x (off + 32 + 4 * f.channel) 4)) f.label).2
         then (s.counter (cSmt 8) + 1) % 2 ^ 64 else s.counter (cSmt 8)) ∧
       t.feedback = s.feedback.modify i (fun f' => { f' with
         gh := some (gradient m.image.out.loss (leNat (areaBytes s x (off + 32 + 4 * f.channel) 4)) f.label).1 }))) ∧
  (∀ (s : State) (i : Nat) (f : Feedback) (m : Model) (x : RefitSt),
     s.feedback.zipIdx.find? (fun p => p.1.granted) = some (f, i) → s.model? f.model = some m → s.refit? f.model = some x →
     (∀ ecc, feedbackFault s m x f = none → f.gh = none → exec (.feedbackProcess ecc) s = .next s) ∧
     (∀ ecc, (feedbackFault s m x f).isSome = true ∨ f.gh.isSome = true → ∃ t, exec (.feedbackProcess ecc) s = .next t ∧
       t.feedback = s.feedback.eraseIdx i ∧ t.ctxs = s.ctxs) ∧
     (∀ k, feedbackFault s m x f = some k → ∃ t, exec (.feedbackProcess []) s = .next t ∧ t.mem = s.mem ∧
       t.counter (cTen m.tenant (tRft k)) = (s.counter (cTen m.tenant (tRft k)) + 1) % 2 ^ 64) ∧
     (∀ g h sat off, feedbackFault s m x f = none → f.gh = some (g, h, sat) → traceLookup s m x f.recId = some off →
       x.paused = true → f.channel < 64 → ∃ t, exec (.feedbackProcess []) s = .next t ∧
       bit (leNat (areaBytes t x (off + 16) 8)) f.channel = true ∧
       t.mem = (setLabelled x off f.channel s).mem ∧
       t.counter (cTen m.tenant (tRft 1)) = (s.counter (cTen m.tenant (tRft 1)) + 1) % 2 ^ 64) ∧
     (∀ g h sat off, feedbackFault s m x f = none → f.gh = some (g, h, sat) → traceLookup s m x f.recId = some off →
       x.paused = false → m.image.members ≤ 1 → ∃ t, exec (.feedbackProcess []) s = .next t ∧
       t.mem.cells = (applyPair [] m x off f.recId f.channel (f32Val g) (f32Val h) sat (setLabelled x off f.channel s)).mem.cells ∧
       t.counter (cTen m.tenant (tRft 0)) = (s.counter (cTen m.tenant (tRft 0)) + 1) % 2 ^ 64)) ∧
  (∀ (s : State) (tn : Tid) (h left : Nat) (ecc : List EccFind) (m : Model) (x : RefitSt) (cfg : RefitCfg),
     s.handle? tn h = some m → s.refit? m.id = some x → m.image.refit = some cfg →
     (decayLeft s m.id = some left → ∃ t y, exec (.decaySweep tn h ecc) s = .next t ∧ t.refit? m.id = some y ∧
       (left = 0 → y.sweeps = x.sweeps + 1 ∧ y.decayed = 0 ∧ t.disp.granted = s.disp.granted.erase (.decay m.id 0) ∧
         t.counter (cTen m.tenant (tRft 7)) = (s.counter (cTen m.tenant (tRft 7)) + 1) % 2 ^ 64) ∧
       (left ≠ 0 → y.sweeps = x.sweeps ∧ y.decayed = max x.decayed (8 * treeCount m - left) ∧
         t.disp.granted = s.disp.granted)) ∧
     (decayLeft s m.id = none → exec (.decaySweep tn h ecc) s = .next s) ∧
     (proposalLeft s m.id = some left → ∃ t y, exec (.proposalPassEnd tn h ecc) s = .next t ∧ t.refit? m.id = some y ∧
       (left = 0 → y.shadowState = .valid ∧ t.disp.granted = s.disp.granted.erase (.proposal m.id 0) ∧
         (ecc = [] → s.evBuf.length < 512 → t.evBuf = s.evBuf ++ [⟨0x0A01, m.tenant, s.evSeq, s.time.tick,
           fitBytes (leBytes 2 m.handle ++ zeros 2 ++ leBytes 4 y.shadowSat) 16⟩]) ∧
         t.counter (cTen m.tenant (tRft 8)) = (s.counter (cTen m.tenant (tRft 8)) + 1) % 2 ^ 64) ∧
       (left ≠ 0 → y.shadowState = x.shadowState ∧ y.proposed = max x.proposed (4 * treeCount m - left))) ∧
     (proposalLeft s m.id = none → exec (.proposalPassEnd tn h ecc) s = .next s)) ∧
  (∀ (m : Model) (c : RefitCfg) (chan : Nat) (old : Int) (g h : Nat), f32Lt h c.hmin = true →
     proposeLeaf m c chan old g h = (old, false))

/-- R366, R369, R370: a candidate's result returns to its search and its context is free, or ends the search when a
channel carries POI; one that comes after the time limit's cycle is discarded. When a step's results are in, the engine
chooses and steps on, or the search ends. Once the cycle of its time limit has passed the search ends and is counted; where
the step's results had all come, the choice runs first and the step counts. A search that ends gives up its slot. -/
def Obligations.DetourSearchesStepAndEnd : Prop :=
  ∀ (s : State) (slot : Fin 16) (x z : Search) (d : DetourCfg), kvGet s.searches slot = some x → searchCfg s x = some d →
    z = (match x.recheck with
      | some (some y) => visit d x.offs y { x with y := y, recheck := none }
      | _ => x) →
    (∀ (ctx : CtxId) r m k, s.ctx? ctx = some r → r.src = .detour slot k → s.model? r.model = some m → r.fused = true →
      (∃ t, exec (.candidateResult ctx) s = .next t ∧ t.ctx? ctx = none ∧
        t.counter (cTen r.tenant (tDtr 4)) = (s.counter (cTen r.tenant (tDtr 4)) + 1) % 2 ^ 64 ∧
        (limitPast s d x = true → t.searches = s.searches) ∧
        (limitPast s d x = false → r.results.any (fun v => v.flags &&& flagPoi != 0) = true → kvGet t.searches slot = none) ∧
        (limitPast s d x = false → r.results.any (fun v => v.flags &&& flagPoi != 0) = false →
          kvGet t.searches slot = some (if k = recheckCand
            then { x with recheck := some (some (resultOf m.image r.margins x.req.channel)) }
            else { x with cands := x.cands.modify k (fun c => { c with
              y := some (resultOf m.image r.margins x.req.channel) }) })))) ∧
    (stepReady x = false → exec (.moveChoice slot) s = .next s) ∧
    (stepReady x = true → patienceOver d z = true → ∃ t, exec (.moveChoice slot) s = .next t ∧ kvGet t.searches slot = none) ∧
    (stepReady x = true → patienceOver d z = false → ∃ t, exec (.moveChoice slot) s = .next t ∧
      t.counter (cTen x.tenant (tDtr 3)) = (s.counter (cTen x.tenant (tDtr 3)) + 1) % 2 ^ 64 ∧
      (d.steps ≤ x.step + 1 ∨ limitPast s d x = true → kvGet t.searches slot = none) ∧
      (∀ y, kvGet t.searches slot = some y → y.step = x.step + 1 ∧ y.temp = nextTemp d x.temp ∧
        y.offs = (takeMoves d z).1.offs)) ∧
    (limitPast s d x = false → exec (.detourTimeLimit slot) s = .next s) ∧
    (limitPast s d x = true → stepReady x = false → ∃ t, exec (.detourTimeLimit slot) s = .next t ∧
      kvGet t.searches slot = none ∧ t.counter (cTen x.tenant (tDtr 7)) = (s.counter (cTen x.tenant (tDtr 7)) + 1) % 2 ^ 64) ∧
    (limitPast s d x = true → stepReady x = true → ∃ t, exec (.detourTimeLimit slot) s = .next t ∧
      kvGet t.searches slot = none ∧ (patienceOver d z = false →
        t.counter (cTen x.tenant (tDtr 3)) = (s.counter (cTen x.tenant (tDtr 3)) + 1) % 2 ^ 64))

/-- R234, R236, R231: the outstanding fill of a line of its model's plots is cached with the poison its words have; any other
is refused, counted, and its readers learn of it. A parity error stands in a cached line until it is hit: that read is a
miss, counted with the error, and the line is filled again.
R242, R252, R257: a patrol step that is due, and granted or promoted, reads the next line and wraps at the end; any other
step does nothing.
R245: the host's copy of a heal block is written over all of its 4 KiB, clearing its poison, when every word that is not
poisoned agrees with it; otherwise, or when the read fails, the block is never healed and MSF_HEAL_FAIL says why. -/
def Obligations.CacheFillsPatrolAndHeals : Prop :=
  (∀ (s : State) (line : Nat) (f : ColFill) (ecc : List EccFind) (p : Bool), s.mem.fills.find? (·.line == line) = some f →
     (fillAllowed s f = true → ∃ t c, exec (.colCacheFill line ecc p) s = .next t ∧ filling t line = false ∧ c ∈ t.mem.col ∧
       c.line = line ∧ c.parity = false ∧ c.poison = (List.range 32).filter (fun i => t.mem.poison.contains (line * 32 + i)) ∧
       t.mem.cells = s.mem.cells) ∧
     (fillAllowed s f = false → ∃ t, exec (.colCacheFill line ecc p) s = .next t ∧ filling t line = false ∧
       t.mem.col = s.mem.col ∧ colRefused t f.model [line] = true ∧
       t.counter (cMsf 7) = (s.counter (cMsf 7) + 1) % 2 ^ 64)) ∧
  (∀ (s : State) (line req model : Nat) (ecc : List EccFind) (c : ColLine), filling s line = false →
     (∃ t, exec (.colCacheFill line ecc true) s = .next t ∧ t = { s with mem := { s.mem with
       col := s.mem.col.map (fun c => if c.line = line then { c with parity := true } else c) } }) ∧
     exec (.colCacheFill line ecc false) s = .next s ∧
     (s.mem.col.find? (·.line == line) = some c →
       (c.parity = true → filling (colRead req model line s) line = true ∧
         (colRead req model line s).mem.col.any (·.line == line) = false ∧
         (colRead req model line s).counter (cCol 4) = (s.counter (cCol 4) + 1) % 2 ^ 64 ∧
         (colRead req model line s).counter (cCol 1) = (s.counter (cCol 1) + 1) % 2 ^ 64 ∧
         (colRead req model line s).counter (cCol 0) = s.counter (cCol 0)) ∧
       (c.parity = false → filling (colRead req model line s) line = false ∧
         (colRead req model line s).counter (cCol 0) = (s.counter (cCol 0) + 1) % 2 ^ 64)) ∧
     (s.mem.col.find? (·.line == line) = none → filling (colRead req model line s) line = true ∧
       (colRead req model line s).counter (cCol 1) = (s.counter (cCol 1) + 1) % 2 ^ 64)) ∧
  (∀ (s : State) (ecc : List EccFind),
     (patrolMay s false (dieBusy s s.mem.patrol) = false → exec (.patrolStep ecc) s = .next s) ∧
     (patrolMay s false (dieBusy s s.mem.patrol) = true → ∃ t, exec (.patrolStep ecc) s = .next t ∧
       t.mem.cells = s.mem.cells ∧ t.mem.patrol = (if s.mem.patrol + 1 = massifLines then 0 else s.mem.patrol + 1) ∧
       t.mem.patrolSteps = s.mem.patrolSteps + 1 ∧ t.counter (cMsf 3) = (s.counter (cMsf 3) + 1) % 2 ^ 64)) ∧
  (∀ (s : State) (b : HealBlock) (rest : List HealBlock) (m : Model) (d host : List Byte) (a : Nat),
     s.mem.healReads = b :: rest → s.model? b.model = some m → a = plotAddr m.plots b.off →
     host = fitBytes (fitBytes d (healLength m b.off)) 4096 →
     (healFetched s b = true → healAgrees m s.mem a b.off 4096 host = true → m.unitsHeld = [] → ∃ t,
       exec (.healBlockReadDone (some d) []) s = .next t ∧ t.mem.healReads = rest ∧
       t.mem.healed = s.mem.healed ++ [b] ∧ memBytes t.mem a 4096 = host ∧ firstPoison t.mem a 4096 = none) ∧
     (healFetched s b = true → healAgrees m s.mem a b.off 4096 host = false → s.evBuf.length < 512 → ∃ t,
       exec (.healBlockReadDone (some d) []) s = .next t ∧ t.mem.cells = s.mem.cells ∧
       t.evBuf = s.evBuf ++ [⟨0x0606, m.tenant, s.evSeq, s.time.tick, fitBytes (leBytes 5 a ++ leBytes 1 2 ++
         leBytes 2 (a / plotSize) ++ leBytes 2 m.handle) 16⟩]) ∧
     (∀ ecc, ∃ t, exec (.healBlockReadDone none ecc) s = .next t ∧ t.mem.cells = s.mem.cells ∧ t.mem.healReads = rest ∧
       t.counter (cMsf 6) = (s.counter (cMsf 6) + 1) % 2 ^ 64 ∧ (s.evBuf.length < 512 → t.evBuf = s.evBuf ++ [⟨0x0606, m.tenant,
         s.evSeq, s.time.tick, fitBytes (leBytes 5 a ++ leBytes 1 1 ++ leBytes 2 (a / plotSize) ++ leBytes 2 m.handle) 16⟩])))

/-- R227, R241: a byte written reads back, and no other byte changes; the canonical form is kept. -/
def Obligations.MemoryReadsBackWhatWasWritten : Prop :=
  ∀ (m : MemSt) (a k n : Nat) (bs : List Byte),
    memByte (memPut m a bs) k = (if a ≤ k then (bs[k - a]?).getD (memByte m k) else memByte m k) ∧
    memByte (memClear m a n) k = (if a ≤ k ∧ k < a + n then 0 else memByte m k) ∧
    (Memory.wf m = true → Memory.wf (memPut m a bs) = true ∧ Memory.wf (memClear m a n) = true)

/-- R298: a tail is accepted when it moves on and the ring has room for what it posts; any other tail, or one on a STOPPED
stream, is ignored and counted; through the window of an ABSENT tenant nothing happens (log 48).
R298 to R300, R306: the next descriptor of a running ring is fetched and, legal and with room, started; an illegal one
completes as BAD_DESC without moving data. R296, R303, R308, R309: an issue opportunity goes to the request chosen, once its
pages are granted: an element, whose staging is taken, the write of a waiting answer, or a firmware fetch's next request. -/
def Obligations.RingTailsAndDescriptorStarts : Prop :=
  (∀ (s : State) (f : Fn) (j : Fin 8) (v g posted : Nat) (x : Stream), s.shaped → g = 8 * f.val + j.val → x = s.stream g →
     posted = (v % 2 ^ 32 + 2 ^ 32 - x.head) % 2 ^ 32 →
     (s.windowOpen f = true → x.mode = .running → posted ≤ 2 ^ x.sizeExp → (x.tail + 2 ^ 32 - x.head) % 2 ^ 32 ≤ posted → ∃ t,
       exec (.dmaRingTailWrite f j v) s = .next t ∧ t.stream g = { x with tail := v % 2 ^ 32 } ∧ t.ctr = s.ctr) ∧
     (s.windowOpen f = true → x.mode = .stopped ∨ 2 ^ x.sizeExp < posted ∨ posted < (x.tail + 2 ^ 32 - x.head) % 2 ^ 32 → ∃ t,
       exec (.dmaRingTailWrite f j v) s = .next t ∧ t.dma = s.dma ∧
       t.counter (cStr g 7) = (s.counter (cStr g 7) + 1) % 2 ^ 64) ∧
     (s.windowOpen f = false → exec (.dmaRingTailWrite f j v) s = .next s)) ∧
  (∀ (s u : State), s.shaped → u = wmkFlush s →
     (∀ (g : StreamId) bs d, d = parseDesc u g (u.stream g).head bs → (u.stream g).mode = .running → (u.stream g).stopDue = false →
       ringsRead u g = true → (u.stream g).descs = [] → (u.stream g).head < 2 ^ 32 → (u.stream g).head ≠ (u.stream g).tail → d.tag = 0 →
       (badDesc u g bs d = false → bit (leAt bs 40 2) 15 = false → 0 < (u.stream g).inflight → slotRoom u g d = true → ∃ t,
         exec (.descriptorStart g bs) s = .next t ∧ (t.stream g).descs = [{ d with started := true }] ∧
         t.out = (hostRead (fnOf g) ((u.stream g).ringBase + 64 * ringIndex (u.stream g) (u.stream g).head) 48 u).out) ∧
       (badDesc u g bs d = true → ∃ t, exec (.descriptorStart g bs) s = .next t ∧
         (t.stream g).descs = [{ d with cut := some 0, status := 5 }]))) ∧
  (∀ (s : State), s.shaped →
     (chooseStream s = none → exec .dmaRequestIssue s = .next { s with dma := { s.dma with chosen := none } }) ∧
     (∀ g bulk d, chooseStream s = some (g, .element d, bulk) → s.desc? g d.number = some d → g < 264 →
       (elementPages d d.issued).all (fun p => granted s (fnOf g) p.1 p.2) = true → ∃ t d', exec .dmaRequestIssue s = .next t ∧
       t.dma.chosen = some g ∧ t.desc? g d.number = some d' ∧ d' = { d with issued := d.issued + 1 } ∧
       (t.stream g).fill = (s.stream g).fill + 256 * d.units ∧
       t.out = (if d.inbound then (hostRead (fnOf g) (d.addr d.issued) d.l0 s).out else s.out)) ∧
     (∀ g bulk a rest, chooseStream s = some (g, .answer, bulk) → g < 264 → (s.stream g).answers = a :: rest →
       (answerPages s g).all (fun p => granted s (fnOf g) p.1 p.2) = true → ∃ t, exec .dmaRequestIssue s = .next t ∧
       (t.stream g).answers = { a with issued := true } :: rest ∧ t.out = s.out) ∧
     (∀ g bulk f rest n, chooseStream s = some (g, .fetch f, bulk) → s.dma.fetches = f :: rest →
       n = min (min f.left ((kvGet s.dma.maxRead 0).getD 512)) (4096 - f.addr % 4096) →
       (fetchPages f).all (fun p => granted s 0 p.1 p.2) = true → ∃ t, exec .dmaRequestIssue s = .next t ∧
       t.out = (hostRead 0 f.addr n s).out ∧
       t.dma.fetches = (if n = f.left then rest else { f with addr := f.addr + n, left := f.left - n } :: rest)))

/-- R301, R302, R305: the oldest issued element of a descriptor is delivered: a record, well-formed, to Trailhead, where it
commits in the context at the head of the free list; host bytes into the tenant's allocation, or the allocation's bytes to
the host, by requests of at most a Max Payload Size, once the accesses before it allow it (R291, R292). It is behind the
descriptor and its staging is given back. -/
def Obligations.ElementsAreDeliveredInOrder : Prop :=
  ∀ (s : State) (g : StreamId) (n : Nat) (d : Desc) (data : List Byte) (ecc tables : List EccFind), s.shaped →
    s.desc? g n = some d → d.elements < d.issued → d.elements < d.limit →
    s.zth.reqs.any (fun r => r.stream == g.val && r.number == n) = false →
    (d.opcode = 1 → ∃ t d', exec (.dmaElement g n data ecc tables) s = .next t ∧ t.desc? g n = some d' ∧
      d'.elements = d.elements + 1) ∧
    (∀ bs h m b c rest, d.opcode = 1 → bs = fitBytes data d.l0 → ringStep12 (tenantOf g) d.l0 bs = none → readHdr bs = some h →
      h.type ≠ 3 → (s.tenant (tenantOf g)).enable = true → acceptingModel s (tenantOf g) h.handle = some m →
      s.model? m.id = some m → s.freeCtx = c :: rest → (s.stream g).answers = [] → (s.stream g).pipeline < 2 →
      (∀ x ∈ s.trhQ.getD (s.stream g).pipeline [], x ≠ c ∧ ((s.ctx? x).bind (·.body)) = none) → m.tableRes = false →
      parseBody h.tword h.flags (slice bs 24 h.plen) m.image [] = .ok b → b.tables = [] → ∃ t x,
      exec (.dmaElement g n data ecc tables) s = .next t ∧ t.ctx? c = some x ∧ x.src = .ring g n d.elements ∧
      x.model = m.id ∧ x.recId = h.recId ∧ x.committed = true ∧ x.slots = b.slots ∧ x.side = b.side ∧ t.freeCtx = rest ∧
      t.trhQ = s.trhQ.modify (s.stream g).pipeline (fun q => q ++ [c])) ∧
    (d.opcode ≠ 1 → mayAccess s g d d.elements = false → exec (.dmaElement g n data ecc tables) s = .next s) ∧
    (∀ ps xs, d.opcode ≠ 1 → mayAccess s g d d.elements = true → copyTarget s (tenantOf g) d.alloc = some (.massif ps) →
      xs = pieces ps 2 (d.offset + d.elements * d.l0) 0 d.l0 →
      xs.all (fun (p : Nat × Nat × Nat) => ownsPlot s (tenantOf g) p.1) = true →
      (∃ t d', exec (.dmaElement g n data ecc tables) s = .next t ∧ t.desc? g n = some d' ∧ d'.elements = d.elements + 1 ∧
        t.counter (cStr g 3) = (s.counter (cStr g 3) + 1) % 2 ^ 64 ∧
        ((s.stream g).answers = [] → (t.stream g).fill = (s.stream g).fill - 256 * d.units)) ∧
      (∀ a, d.opcode = 2 → ecc = [] → s.mem.poison = [] → (s.stream g).answers = [] → xs = [(a, 0, d.l0)] → ∃ t,
        exec (.dmaElement g n data ecc tables) s = .next t ∧ memBytes t.mem a d.l0 = fitBytes data d.l0 ∧
        ∀ k, k < a ∨ a + d.l0 ≤ k → memByte t.mem k = memByte s.mem k) ∧
      (∀ bs, d.opcode = 3 → bs = xs.flatMap (fun (p : Nat × Nat × Nat) => memBytes s.mem p.1 p.2.2) → ∃ t,
        exec (.dmaElement g n data [] tables) s = .next t ∧
        ∀ p ∈ requestsOf (d.addr d.elements) bs.length ((kvGet s.dma.maxPayload (fnOf g)).getD 128), ∃ bad,
          .hostWrite (fnOf g) (sentAddr s (fnOf g) (d.addr d.elements + p.1)) (slice bs p.1 p.2) bad ∈ t.out ∧
          (s.mem.poison = [] → bad = false)))

/-- R303: an answer that finds room in its stream's staging stands there, and its record's context is released. R303, R272: an
issued answer is written, bytes 8 onward and then bytes 0 to 7, and its staging is free from the next cycle on. R316, R298:
a descriptor with all its writes performed gets its status word with DONE, is counted, and HEAD passes it when it is the
oldest. -/
def Obligations.AnswersAndStatusWordsAreWritten : Prop :=
  ∀ (s : State) (g : StreamId), s.shaped →
    (∀ n k reason bs c, (s.stream g).answers = [] → (s.stream g).fill + 256 * ceilDiv bs.length 256 ≤ (s.stream g).staging →
      ((ringAnswer g n k reason bs (some c) s).stream g).answers = [⟨n, k, reason, bs, none, true, false⟩] ∧
      ((ringAnswer g n k reason bs (some c) s).stream g).fill = (s.stream g).fill + 256 * ceilDiv bs.length 256 ∧
      (ringAnswer g n k reason bs (some c) s).ctx? c = none) ∧
    (∀ a rest e d slot, (s.stream g).answers = a :: rest → answerPlace s g = some (e, d, slot) → a.issued = true →
      (answerPages s g).all (fun p => granted s (fnOf g) p.1 p.2) = true → ∃ t pre, exec (.ringAnswerWrite g) s = .next t ∧
      t.out = pre ++ (hostWrite (fnOf g) slot (a.bytes.take 8) false
        (hostWrite (fnOf g) (slot + 8) (a.bytes.drop 8) false s)).out ∧ (∀ o ∈ pre, ∃ f, o = .invalidateDone f) ∧
      (t.stream g).answers = rest ∧ (t.stream g).fill = (s.stream g).fill ∧ t.returned = s.returned ++ [.ring g a.size]) ∧
    (∀ a rest e d slot, (s.stream g).answers = a :: rest → answerPlace s g = some (e, d, slot) → a.issued = false →
      exec (.ringAnswerWrite g) s = .next s) ∧
    (∀ n d, s.desc? g n = some d → d.over = true → d.done = false → writesDone s g n = true →
      s.dma.pris.any (fun w => w.who == .status g.val n) = false → granted s (fnOf g) (statusPage s g n) true = true → ∃ t,
      exec (.descriptorComplete g n) s = .next t ∧
      (∀ p ∈ requestsOf (statusAddr s g n) 16 ((kvGet s.dma.maxPayload (fnOf g)).getD 128),
        .hostWrite (fnOf g) (sentAddr s (fnOf g) (statusAddr s g n + p.1)) (slice (statusBytes d true false) p.1 p.2) false ∈ t.out) ∧
      t.counter (cStr g 2) = (s.counter (cStr g 2) + 1) % 2 ^ 64 ∧
      ((s.stream g).descs = [d] → (s.stream g).stopDue = false → (t.stream g).descs = [] ∧
        (t.stream g).head = ((s.stream g).head + 1) % 2 ^ 32))

/-- R309 to R313: a translation fills the IOTLB with the rights granted; an invalidation takes the rights of what overlaps,
and is completed when no request issued under it is left; a page response of Success translates again; any other response,
the PRI limit, or with ATS disabled a completion timeout, fails the element it stands at under the stream's fault mode. -/
def Obligations.TranslationsAreFilledInvalidatedAndFailed : Prop :=
  ∀ (s : State) (f : Fn) (page k : Nat), s.shaped →
    (∀ target rd wr, s.dma.xlate.contains (f.val, page) = true → ∃ t,
      exec (.translationCompletion f page k rd wr target) s = .next t ∧
      ∀ p, page / 2 ^ (k - 12) * 2 ^ (k - 12) ≤ p → p < page / 2 ^ (k - 12) * 2 ^ (k - 12) + 2 ^ (k - 12) →
        (rd = true → granted t f p false = true) ∧ (wr = true → granted t f p true = true)) ∧
    (∃ t, exec (.atsInvalidateRequest f page k) s = .next t ∧
      (∀ p wr, page ≤ p → p < page + 2 ^ (k - 12) → s.dma.ats.contains f.val = true → granted t f p wr = false) ∧
      (rangeBusy s f page (2 ^ (k - 12)) = true → (f.val, page, 2 ^ (k - 12)) ∈ t.dma.invals) ∧
      (rangeBusy s f page (2 ^ (k - 12)) = false → .invalidateDone f ∈ t.out ∧
        (s.dma.invals = [] → ∀ e ∈ t.dma.iotlb, e.meets f page (2 ^ (k - 12)) = false))) ∧
    (s.dma.pris.any (fun w => w.fn == f.val && w.page == page && !w.again) = true →
      (∀ w ∈ s.dma.pris, w.sent = true ∧ priLate s w = false) → ∃ t, exec (.pageRequestResponse f page .success) s = .next t ∧
      t.dma.pris = s.dma.pris.map (fun w =>
        if w.fn == f.val && w.page == page && w.sent && !w.again then { w with again := true } else w) ∧
      (s.dma.xlate.contains (f.val, page) = false → s.dma.xlate.length < 64 → t.out = .translationRequest f page :: s.out)) ∧
    (∀ (g : StreamId) n d wr since, s.dma.pris = [⟨.element g n, f, page, wr, true, since, false⟩] → s.desc? g n = some d →
      (∀ r, r ≠ .success → ∃ t d', exec (.pageRequestResponse f page r) s = .next t ∧ t.dma.pris = [] ∧
        t.desc? g n = some d' ∧ d'.cut = some d.issued ∧ d'.status = (if (s.stream g).abort then 2 else 1) ∧
        t.counter (cDma 5) = (s.counter (cDma 5) + 1) % 2 ^ 64) ∧
      (since + (s.stream g).priMs * 100000 < s.time.time → ∃ t d', exec (.priLimitExpiry f page) s = .next t ∧
        t.dma.pris = [] ∧ t.desc? g n = some d' ∧ d'.cut = some d.issued ∧
        d'.status = (if (s.stream g).abort then 2 else 1)) ∧
      (s.time.time ≤ since + (s.stream g).priMs * 100000 → ∃ t, exec (.priLimitExpiry f page) s = .next t ∧
        t.dma.pris = s.dma.pris ∧ t.dma.streams = s.dma.streams)) ∧
    (∀ (g : StreamId) n d, s.desc? g n = some d → s.dma.ats.contains (fnOf g) = false → d.inbound = true →
      d.elements < d.issued → d.elements < d.limit → ∃ t d', exec (.completionTimeout g n) s = .next t ∧
      t.desc? g n = some d' ∧ d'.cut = some d.elements ∧ d'.firstFlagged = some d.elements ∧
      d'.status = (if (s.stream g).abort then 2 else 1))

/-- R324, R320, R395: a Saddle whose lanes train enters UP with REFCLK_NET present and sends its INIT, and sends it again
until the partner's is there; otherwise it goes DOWN; one that does not train is left as it is. R325: a mismatch takes it
DOWN and it trains again after 1 s. R327: a lane fault retrains a link that is UP or ACTIVE, counted and reported. -/
def Obligations.LinksTrainAndExchangeInit : Prop :=
  ∀ (s : State) (i : SaddleId), s.shaped →
    (trains s i = true → s.boot.refclkNet = true → ∃ t f, exec (.linkTrainingDone i true) s = .next t ∧
      t.saddle i = { s.saddle i with mode := .up, init := none, initTx := some f } ∧ t.out = .flit i f :: s.out ∧
      flitKind f = 0x10) ∧
    (∀ ok, trains s i = true → ok = false ∨ s.boot.refclkNet = false → exec (.linkTrainingDone i ok) s = .next { s with zth := { s.zth with
      saddles := s.zth.saddles.modify i (fun x => { x with mode := .down }) } }) ∧
    ((s.saddle i).mode = .training → trains s i = true) ∧
    (∀ ok, trains s i = false → exec (.linkTrainingDone i ok) s = .next s) ∧
    (∀ f, (s.saddle i).mode = .up → (s.saddle i).init = none → (s.saddle i).initTx = some f →
      exec (.initResend i) s = .next { s with out := .flit i f :: s.out }) ∧
    (∀ bs, goodFlit bs 0x10 → (s.saddle i).mode = .up → initMismatch s bs = true → ∃ t, exec (.initFlitRx i bs .clean) s = .next t ∧
      (t.saddle i).mode = .down ∧ (t.saddle i).mismatchAt = some s.time.time) ∧
    (∀ bs, goodFlit bs 0x10 → (s.saddle i).mode = .up → initMismatch s bs = false → initValid bs = true →
      s.zth.chip.isSome = true → ∃ t, exec (.initFlitRx i bs .clean) s = .next t ∧ (t.saddle i).mode = .active ∧
      (t.saddle i).pools = initPools bs ∧ (t.saddle i).rxSeq = 0 ∧ (t.saddle i).totals = [0, 0, 0, 0]) ∧
    (∀ x, (s.saddle i).mismatchAt = some x → (s.saddle i).mode = .down → (s.saddle i).enabled = true →
      x + 100000000 ≤ s.time.time → ∃ t, exec (.fabricMismatchRetry i) s = .next t ∧ (t.saddle i).mode = .training ∧
      (t.saddle i).mismatchAt = none) ∧
    ((s.saddle i).mode = .active ∨ (s.saddle i).mode = .up → ∃ t, exec (.zuothLaneLoss i) s = .next t ∧
      (t.saddle i).mode = .training ∧ (t.saddle i).outq = (s.saddle i).outq ∧
      t.counter (cSaddle i 8) = (s.counter (cSaddle i 8) + 1) % 2 ^ 64)

/-- R322, R323, R326: a good DATA flit in order is accepted and the expected sequence advances; a duplicate is dropped; a
bad or later one asks once for the expected sequence, again each microsecond; a chip that is not fabric-ready refuses it
with NOT_READY. IDLE carries the ack: what it acknowledges leaves the retry buffer.
R323, R326: RETRY_REQ, the 2 µs without an ack and the end of a back-off replay the retry buffer from the sequence
named, counted once; NOT_READY begins 1 ms of back-off, and the 64th in a row retrains the link. -/
def Obligations.FlitsAreAcceptedOnceAndReplayed : Prop :=
  (∀ (s : State) (i : SaddleId) (bs : List Byte), s.shaped →
     (goodFlit bs 1 → s.zth.chip.isSome = true → (s.saddle i).mode = .active → isDuplicate (s.saddle i) (flitSeq bs) = false →
       flitSeq bs = (s.saddle i).rxSeq → ∃ t, exec (.dataFlitRx i bs .clean) s = .next t ∧
       (t.saddle i).rxSeq = ((s.saddle i).rxSeq + 1) % 65536 ∧ (t.saddle i).accepted = true ∧ (t.saddle i).retryOut = false ∧
       t.counter (cSaddle i 1) = (s.counter (cSaddle i 1) + 1) % 2 ^ 64 ∧
       (t.saddle i).inq.map (·.bytes) = (s.saddle i).inq.map (·.bytes) ++
         (assemble (flitSlots bs) (s.saddle i).asm []).1) ∧
     (goodFlit bs 1 → s.zth.chip.isSome = true → (s.saddle i).mode = .active → isDuplicate (s.saddle i) (flitSeq bs) = true →
       exec (.dataFlitRx i bs .clean) s = .next s) ∧
     ((s.saddle i).mode = .active → (s.saddle i).retryOut = false → ∃ t f, exec (.dataFlitRx i bs .uncorrectable) s = .next t ∧
       (t.saddle i).retryOut = true ∧ (t.saddle i).rxSeq = (s.saddle i).rxSeq ∧ t.out = .flit i f :: s.out ∧
       flitKind f = 0x12 ∧ flitNamed f = (s.saddle i).rxSeq % 65536 ∧
       t.counter (cSaddle i 3) = (s.counter (cSaddle i 3) + 1) % 2 ^ 64) ∧
     (goodFlit bs 1 → s.zth.chip.isSome = true → (s.saddle i).mode = .active → isDuplicate (s.saddle i) (flitSeq bs) = false →
       flitSeq bs ≠ (s.saddle i).rxSeq → ∃ t, exec (.dataFlitRx i bs .clean) s = .next t ∧ (t.saddle i).retryOut = true ∧
       (t.saddle i).rxSeq = (s.saddle i).rxSeq ∧ (t.saddle i).inq = (s.saddle i).inq ∧
       ((s.saddle i).retryOut = true → t.out = s.out) ∧
       ((s.saddle i).retryOut = false → ∃ f, t.out = .flit i f :: s.out ∧ flitKind f = 0x12 ∧
         flitNamed f = (s.saddle i).rxSeq % 65536)) ∧
     (goodFlit bs 1 → s.zth.chip = none → (s.saddle i).mode = .up → (s.saddle i).refusing = none → ∃ t f,
       exec (.dataFlitRx i bs .clean) s = .next t ∧ t.out = .flit i f :: s.out ∧ flitKind f = 0x13 ∧
       (t.saddle i).refusing = some (flitSeq bs) ∧ (t.saddle i).inq = (s.saddle i).inq) ∧
     ((s.saddle i).mode = .active → (s.saddle i).retryOut = true → ∃ f, flitKind f = 0x12 ∧
       exec (.retryReqRepeat i) s = .next { s with out := .flit i f :: s.out }) ∧
     (goodFlit bs 2 → (s.saddle i).mode = .active → ∃ t, exec (.idleFlitRx i bs .clean) s = .next t ∧
       t.saddle i = takeAck bs s.time.time (s.saddle i) ∧ t.out = s.out ∧
       ∀ f ∈ (t.saddle i).retry, 64 ≤ (flitAck bs + 65536 - f.seq) % 65536)) ∧
  (∀ (s : State) (i : SaddleId) (bs : List Byte), s.shaped →
     (∀ pre f rest x, goodFlit bs 0x12 → (s.saddle i).mode = .active → (s.saddle i).backoff = none →
       x = takeAck bs s.time.time (s.saddle i) → x.retry = pre ++ f :: rest → f.seq = flitNamed bs →
       (∀ p ∈ pre, p.seq ≠ flitNamed bs) → ∃ t, exec (.retryReqRx i bs .clean) s = .next t ∧
       t.out = ((f :: rest).map (fun y => Outp.flit i (refresh x y))).reverse ++ s.out ∧
       t.counter (cSaddle i 4) = (s.counter (cSaddle i 4) + 1) % 2 ^ 64) ∧
     (∀ f rest, (s.saddle i).mode = .active → (s.saddle i).backoff = none → (s.saddle i).retry = f :: rest →
       (s.saddle i).ackSince + 200 ≤ s.time.time → ∃ t, exec (.ackTimeout i) s = .next t ∧
       t.out = ((f :: rest).map (fun y => Outp.flit i (refresh (s.saddle i) y))).reverse ++ s.out ∧ (t.saddle i).retry = f :: rest ∧ (t.saddle i).ackSince = s.time.time ∧
       t.counter (cSaddle i 4) = (s.counter (cSaddle i 4) + 1) % 2 ^ 64) ∧
     (∀ f rest, (s.saddle i).backoff = some f.seq → (s.saddle i).retry = f :: rest → ∃ t,
       exec (.notReadyBackoffExpiry i) s = .next t ∧ (t.saddle i).backoff = none ∧
       t.out = ((f :: rest).map (fun y => Outp.flit i (refresh (s.saddle i) y))).reverse ++ s.out ∧
       t.counter (cSaddle i 4) = (s.counter (cSaddle i 4) + 1) % 2 ^ 64) ∧
     (goodFlit bs 0x13 → (s.saddle i).mode = .active → (takeAck bs s.time.time (s.saddle i)).notReady < 63 → ∃ t,
       exec (.notReadyRx i bs .clean) s = .next t ∧ (t.saddle i).backoff = some (flitNamed bs) ∧ (t.saddle i).mode = .active ∧
       (t.saddle i).notReady = (takeAck bs s.time.time (s.saddle i)).notReady + 1) ∧
     (goodFlit bs 0x13 → (s.saddle i).mode = .active → (takeAck bs s.time.time (s.saddle i)).notReady = 63 → ∃ t,
       exec (.notReadyRx i bs .clean) s = .next t ∧ (t.saddle i).mode = .training ∧
       t.counter (cSaddle i 8) = (s.counter (cSaddle i 8) + 1) % 2 ^ 64))

/-- R328, R329, R327: a Saddle starts the first message of the highest class whose slots its credits cover, and its flits
enter the retry buffer of 64; a message in the input buffer is forwarded, or falls back to its deterministic route; messages
held 4 ms for a link that is not ACTIVE are discarded and counted. -/
def Obligations.MessagesLeaveByClassAndCredit : Prop :=
  ∀ (s : State) (i : SaddleId) (m : Msg), s.shaped →
    (nextMessage (s.saddle i) = some m → (s.saddle i).mode = .active → (s.saddle i).backoff = none →
      (s.saddle i).retry.length + (dataFlits (s.saddle i) m).length ≤ 64 → m.slots ≤ freeCredits (s.saddle i) m.vc ∧ ∃ t,
      exec (.messageSend i) s = .next t ∧ (t.saddle i).outq = (s.saddle i).outq.erase m ∧
      (t.saddle i).retry = (s.saddle i).retry ++ dataFlits (s.saddle i) m ∧
      (t.saddle i).txSeq = ((s.saddle i).txSeq + (dataFlits (s.saddle i) m).length) % 65536 ∧
      (∀ c, m.ctx = some c → t.ctx? c = none)) ∧
    (∀ t1, (s.saddle i).mode ≠ .active → (s.saddle i).outq = [m] → m.hold = none → (s.saddle i).heldSince = some t1 →
      t1 + 400000 ≤ s.time.time → ∃ t, exec (.linkHoldExpiry i) s = .next t ∧ (t.saddle i).outq = [] ∧
      t.counter (cZth 0) = (s.counter (cZth 0) + 1) % 2 ^ 64 ∧ (∀ c, m.ctx = some c → t.ctx? c = none)) ∧
    (∀ det mask, frontMsg i.val s = some m → violationOf m = none → m.hold = none → m.fixed = false → m.from_ ≠ 16 →
      msgMcast m.bytes = false → s.zth.chip.isSome = true → msgDst m.bytes ≠ s.chipId → msgHops m.bytes < 31 →
      msgAdaptive m.bytes = false → kvGet s.zth.unicast (msgDst m.bytes) = some (det, mask) → det < 16 → ∃ t,
      exec (.messageForward i) s = .next t ∧ (t.saddle det).outq = (s.saddle det).outq ++
        [{ m with since := s.now, bytes := overlay m.bytes 6 (beBytes 1 (msgHops m.bytes + 1)) }]) ∧
    (∀ r, frontMsg i.val s = some m → violationOf m = some r → m.hold = none → (s.saddle i).violations < 15 → ∃ t,
      exec (.messageViolation i) s = .next t ∧ (t.saddle i).violations = (s.saddle i).violations + 1 ∧
      t.counter (cSaddle i 7) = (s.counter (cSaddle i 7) + 1) % 2 ^ 64) ∧
    ((s.saddle i).outq.find? (fallsBack s) = some m → ∃ t, exec (.adaptiveRouteFallback i) s = .next t ∧
      ∀ det mask, kvGet s.zth.unicast (msgDst m.bytes) = some (det, mask) → det < 16 → ∃ m' ∈ (t.saddle det).outq, m'.fixed = true ∧
        m'.since = s.now ∧ m'.bytes = overlay m.bytes 5 (beBytes 1 (msgFlags m.bytes - 2)))

/-- R341, R343: at the home a request is refused outside its window or the tenant's scope; with its line UNCACHED the
requester is given it and listed as its exclusive holder; an exclusive request of a line held elsewhere, or any request of
a line held exclusively, snoops the holders first and leaves the directory as it is. -/
def Obligations.HomeServesRequestsByDirectoryState : Prop :=
  ∀ (s s' : State) (port : MsgPort) (m : Msg) (a : Nat) (p : Instr × Nat × Bool), delivered s port p.2.1 m s' →
    p ∈ [(Instr.rdS port [], 1, false), (.rdM port [], 2, true)] → a = lineOf (msgOperand m.bytes) →
    (requestRefused s' m = true → exec p.1 s = .next (refuseMsg m 0x20 s')) ∧
    (requestRefused s' m = false → s'.zth.txns = [] → s'.zth.reqs = [] →
      (dirOf s' a = .uncached → ∃ t, exec p.1 s = .next t ∧ dirOf t a = .exclusive (msgSrc m.bytes) ∧ t.zth.txns = [] ∧
        t.counter (cZth 4) = (s'.counter (cZth 4) + 1) % 2 ^ 64 ∧ t.mem.cells = s'.mem.cells) ∧
      (∀ x, dirOf s' a = .exclusive x → ∃ t y, exec p.1 s = .next t ∧ t.zth.txns = [y] ∧ y.addr = a ∧ y.awaiting = [x] ∧
        y.requester = msgSrc m.bytes ∧ y.exclusive = p.2.2 ∧ dirOf t a = .exclusive x ∧
        t.counter (cZth 5) = (s'.counter (cZth 5) + 1) % 2 ^ 64) ∧
      (∀ xs, p.2.2 = false → dirOf s' a = .shared xs → xs ≠ [] → ∃ t, exec p.1 s = .next t ∧
        dirOf t a = .shared (setAdd xs (msgSrc m.bytes)) ∧ t.zth.txns = []))

/-- R343, R344: a chip answers a snoop from its cache, with the line when it is dirty, and is left with it S, or without it
after SNP_INV; a line that is not there, or is leaving clean, is answered INVALID, and one leaving dirty EVICTING.
R343 to R346: the last snoop answer completes its transaction with the directory of Table 15.6 and, when it carries the
dirty line, writes it to Massif; an answer that nothing awaits, or that comes after the limit, is counted late. -/
def Obligations.SnoopsAndTheirAnswers : Prop :=
  (∀ (s s' : State) (port : MsgPort) (m : Msg) (inval : Bool) (home a : Nat),
     delivered s port (if inval then 0x21 else 0x20) m s' → s'.zth.reqs = [] → home = msgSrc m.bytes → a = msgOperand m.bytes →
     (∀ l, cached s' home a = some l → ∃ u, exec (if inval then .snpInv port else .snpShare port) s = .next
         (answerSnoop (if l.state == .m then 0x43 else 0x23) m (if l.state == .m then lineBody l.data l.poison else zeros 16) u) ∧
       cached u home a = (if inval then none else some { l with state := .s }) ∧ u.mem = s'.mem ∧ u.zth.evict = s'.zth.evict) ∧
     (cached s' home a = none → evicting s' home a = none →
       exec (if inval then .snpInv port else .snpShare port) s = .next (answerSnoop 0x22 m (zeros 16) s')) ∧
     (∀ l, cached s' home a = none → evicting s' home a = some l → l.state = .m →
       exec (if inval then .snpInv port else .snpShare port) s =
         .next (answerSnoop 0x24 m (zeros 16) (count (cZth 6) 1 s')))) ∧
  (∀ (s s' : State) (port : MsgPort) (m : Msg) (y : Txn) (x d : Nat) (p : Instr × Nat × Bool), delivered s port p.2.1 m s' →
     p ∈ [(Instr.snpRspInvalid port [], 0x22, false), (.snpRspAck port [], 0x23, true), (.snpRspData port [], 0x43, true)] →
     x = msgSrc m.bytes → s'.zth.reqs = [] → s'.zth.removing = [] → s'.releasing = [] →
     (s'.zth.txns = [y] → y.tag = msgTag m.bytes → y.addr = msgOperand m.bytes → y.awaiting = [x] → y.evicting = [] →
       y.started = true → y.snooped = true → y.own = false → commonsLate s' y.sentAt = false → dirOf s' y.addr = .exclusive x →
       homeAddr s' y.addr = some d → ∃ t, exec p.1 s = .next t ∧ t.zth.txns = [] ∧ dirOf t y.addr = (if y.exclusive then .exclusive y.requester
         else if p.2.2 then .shared (setAdd [x] y.requester) else .shared [y.requester]) ∧
       (p.2.1 = 0x43 → m.bytes.length = 288 → memBytes t.mem d 256 = (msgLine m.bytes).1)) ∧
     (txnOf s' (msgTag m.bytes) = none → exec p.1 s = .next (count (cZth 7) 1 s')) ∧
     (∀ z, txnOf s' (msgTag m.bytes) = some z → commonsLate s' z.sentAt = true → exec p.1 s = .next (count (cZth 7) 1 s')))

/-- R344: SNP_RSP_EVICTING leaves its transaction waiting for the chip's EVICT_DIRTY; an eviction takes its chip out of the
directory and is acknowledged, and a dirty line is written to Massif; EVICT_ACK frees the entry of the eviction buffer.
R342, R343, R346: a line message gives the requester its line in the state of its opcode and performs the access it was
asked for; a NAK 0x22 of a request sends it again after 1 µs; a request or an eviction with no answer for 4 ms fails and is
reported, and a snoop poisons the line at home. R288: a NAK of a remote signal is reported to its sender. -/
def Obligations.EvictionsLinesAndTimeouts : Prop :=
  (∀ (s s' : State) (port : MsgPort) (m : Msg) (x a : Nat), x = msgSrc m.bytes → a = msgOperand m.bytes →
     s'.zth.removing = [] → s'.releasing = [] → s'.zth.reqs = [] →
     (∀ y, delivered s port 0x24 m s' → txnOf s' (msgTag m.bytes) = some y → y.addr = a → y.awaiting = [x] → y.heldEvict = none →
       y.started = true → commonsLate s' y.sentAt = false → ∃ t y', exec (.snpRspEvicting port []) s = .next t ∧ txnOf t y.tag = some y' ∧ y'.awaiting = [] ∧
       x ∈ y'.evicting) ∧
     (∀ ecc, delivered s port 0x25 m s' → dirOf s' a = .exclusive x → ∃ t, exec (.evictClean port ecc) s = .next t ∧
       dirOf t a = .uncached ∧ t.mem = s'.mem ∧
       t = ackEviction x (msgTag m.bytes) (msgTenant m.bytes) a (setDir a .uncached s')) ∧
     (∀ d, delivered s port 0x44 m s' → s'.zth.txns = [] → dirOf s' a = .exclusive x → homeAddr s' a = some d →
       m.bytes.length = 288 → ∃ t, exec (.evictDirty port []) s = .next t ∧ dirOf t a = .uncached ∧
       memBytes t.mem d 256 = (msgLine m.bytes).1) ∧
     (∀ l, delivered s port 0x26 m s' → s'.zth.evict = [l] → l.home = x → l.entry = msgTag m.bytes → l.addr = a →
       commonsLate s' l.sentAt = false → ∃ t, exec (.evictAck port) s = .next t ∧ t.zth.evict = [])) ∧
  (∀ (s s' : State) (port : MsgPort) (m : Msg) (r : CReq),
     (∀ p ∈ [(Instr.dataS port, 0x40, LineState.s), (.dataE port, 0x41, .e), (.dataM port, 0x42, .m)],
       delivered s port p.2.1 m s' → s'.zth.reqs = [r] → r.sent = true → r.tag = msgTag m.bytes → r.home = msgSrc m.bytes →
       r.addr = msgOperand m.bytes → r.exclusive = false → commonsLate s' r.sentAt = false → ∃ t l, exec p.1 s = .next t ∧ t.zth.reqs = [] ∧
       cached t r.home r.addr = some l ∧ l.data = (msgLine m.bytes).1 ∧ l.poison = (msgLine m.bytes).2 ∧ l.state = p.2.2) ∧
     (∀ chip tn n f, delivered s port 0x27 m s' → byteAt m.bytes 10 = 4 → s'.zth.signals = [(f, chip, tn, n)] → f ≠ 0 →
       chip = msgSrc m.bytes → s'.evBuf.length < 512 → ∃ t, exec (.nak port) s = .next t ∧ t.evBuf = s'.evBuf ++
         [⟨0x0702, f - 1, s'.evSeq, s'.time.tick, fitBytes (leBytes 1 chip ++ zeros 1 ++ leBytes 2 n ++ leBytes 1 tn ++
           leBytes 1 (byteAt m.bytes 11)) 16⟩]) ∧
     (delivered s port 0x27 m s' → byteAt m.bytes 10 = 1 → byteAt m.bytes 11 = 0x22 → s'.evBuf.length < 512 → ∃ t,
       exec (.nak port) s = .next t ∧ (t.evBuf.getLast?).map (·.code) = some 0x0905 ∧
       t.zth.reqs = s'.zth.reqs.map (fun r => if r.sent ∧ r.tag = msgTag m.bytes then
         { r with naked := true, sentAt := s'.time.time } else r)) ∧
     (s.zth.reqs = [r] → r.sent = true → r.naked = true → r.sentAt + 100 ≤ s.time.time → ∃ t,
       exec (.commonsNakRetry r.tag) s = .next t ∧ t.zth.reqs = [{ r with naked := false, sentAt := s.time.time }]) ∧
     (s.zth.reqs = [r] → r.sent = true → r.sentAt + 400000 < s.time.time → s.evBuf.length < 512 → ∃ t,
       exec (.commonsRequestTimeout false r.tag) s = .next t ∧ t.zth.reqs = [] ∧
       (t.evBuf.getLast?).map (·.code) = some 0x0906) ∧
     (∀ l, s.zth.reqs = [] → s.zth.evict = [l] → l.sentAt + 400000 < s.time.time → s.evBuf.length < 512 → ∃ t,
       exec (.commonsRequestTimeout true l.entry) s = .next t ∧ t.zth.evict = [] ∧
       (t.evBuf.getLast?).map (·.code) = some 0x0906) ∧
     (∀ y x d, s.zth.txns = [y] → y.started = true → y.own = false → y.awaiting = [x] → y.evicting = [] → y.heldEvict = none →
       y.sentAt + 400000 < s.time.time → homeAddr s y.addr = some d → s.zth.reqs = [] → s.zth.removing = [] → s.releasing = [] →
       s.evBuf.length < 512 → ∃ t, exec (.commonsSnoopTimeout y.tag []) s = .next t ∧ t.zth.txns = [] ∧
       (t.evBuf[s.evBuf.length]?).map (·.code) = some 0x0907 ∧ dirOf t y.addr = .exclusive y.requester ∧
       ∀ w < 32, poisoned t.mem (d + 8 * w) = true))

/-- R337, R338, R193: a member takes a context for a multicast record of a model it accepts, with its codes, or answers TERM
with FAIL; member 0 adds a term to its ensemble row, ends the record at once on FAIL, and counts a term that nothing awaits.
R362: a member applies member 0's pairs.
R330: a PING is answered with a PONG that carries its tag and operand to its source; a PONG is received and changes
nothing more. R288: a remote signal inside the tenant's range, on a Waymark that allows it, is applied as source 3; any other
is refused with NAK reason 0x21 and counted. -/
def Obligations.EnsembleAndRemoteMessages : Prop :=
  (∀ (s s' : State) (port : MsgPort) (m : Msg) (bs : List Byte) (tn : Nat), bs = m.bytes → tn = msgTenant bs →
     (∀ x c rest, delivered s port 0x45 m s' → acceptingModel s' tn (beAt bs 10 2) = some x → (s'.tenant tn).enable = true →
       ctxPlaces s' tn < (s'.tenant tn).quota.contexts → ctxFree s' x = true → s'.freeCtx = c :: rest → ∃ t r,
       exec (.recordMc port) s = .next t ∧ t.freeCtx = rest ∧ t.ctx? c = some r ∧ r.src = .member (msgSrc bs) (msgTag bs) ∧
       r.recId = beAt bs 16 8 ∧ r.slots = mcCodes bs ∧ r.side = mcSide bs ∧ r.state = .signpost) ∧
     (∀ x, delivered s port 0x45 m s' → acceptingModel s' tn (beAt bs 10 2) = some x → (s'.tenant tn).enable = false →
       exec (.recordMc port) s = .next (send (termMsg s' (msgSrc bs) (msgTag bs) tn (beAt bs 10 2) x.member
         (if x.image.fmode then 1 else 0) (msgLatency bs) (beAt bs 16 8) 2 0x40 []) s')) ∧
     (∀ x, delivered s port 0x45 m s' → acceptingModel s' tn (beAt bs 10 2) = some x → (s'.tenant tn).enable = true →
       ((s'.tenant tn).quota.contexts ≤ ctxPlaces s' tn ∨ ctxFree s' x = false) →
       exec (.recordMc port) s = .next (send (termMsg s' (msgSrc bs) (msgTag bs) tn (beAt bs 10 2) x.member
         (if x.image.fmode then 1 else 0) (msgLatency bs) (beAt bs 16 8) 2 0x22 []) s')) ∧
     (∀ r, delivered s port 0x46 m s' → s'.ctx? (msgTag bs) = some r → awaitsTerm s' r bs = true →
       (byteAt bs 24 ≠ 2 → ∃ t, exec (.term port) s = .next t ∧ t.ctx? (msgTag bs) = some { r with
         terms := kvSet r.terms (byteAt bs 12) (termVals bs), heal := r.heal || byteAt bs 24 == 1 }) ∧
       (byteAt bs 24 = 2 → exec (.term port) s = .next
         (endRecord (msgTag bs) (if byteAt bs 25 < 0x30 then 2 else 5) (byteAt bs 25) s'))) ∧
     (delivered s port 0x46 m s' → s'.ctx? (msgTag bs) = none → exec (.term port) s = .next (count (cSmt 2) 1 s')) ∧
     (∀ r, delivered s port 0x46 m s' → s'.ctx? (msgTag bs) = some r → awaitsTerm s' r bs = false →
       exec (.term port) s = .next (count (cSmt 2) 1 s')) ∧
     (∀ x y, delivered s port 0x47 m s' → s'.handle? tn (beAt bs 10 2) = some x → s'.model? x.id = some x → x.member ≠ 0 →
       byteAt bs 16 = 1 → s'.refit? x.id = some y →
       (∀ k, feedbackFault s' x y ⟨x.id, x.tenant, beAt bs 32 8, 0, byteAt bs 40, true, none⟩ = some k → ∃ t,
         exec (.refitGh port []) s = .next t ∧ t.mem.cells = s'.mem.cells ∧
         t.counter (cTen x.tenant (tRft k)) = (s'.counter (cTen x.tenant (tRft k)) + 1) % 2 ^ 64) ∧
       (∀ off, feedbackFault s' x y ⟨x.id, x.tenant, beAt bs 32 8, 0, byteAt bs 40, true, none⟩ = none →
         traceLookup s' x y (beAt bs 32 8) = some off →
         (y.paused = true → ∃ t, exec (.refitGh port []) s = .next t ∧ t.mem = (setLabelled y off (byteAt bs 40) s').mem ∧
           t.counter (cTen x.tenant (tRft 1)) = (s'.counter (cTen x.tenant (tRft 1)) + 1) % 2 ^ 64) ∧
         (y.paused = false → ∃ t, exec (.refitGh port []) s = .next t ∧
           t.mem.cells = (applyPair [] x y off (beAt bs 32 8) (byteAt bs 40)
             (scaleTwo (toSigned 8 (byteAt bs 41)) (toSigned 8 (byteAt bs 17)))
             (scaleTwo (toSigned 8 (byteAt bs 42)) (toSigned 8 (byteAt bs 18))) false
             (setLabelled y off (byteAt bs 40) s')).mem.cells ∧
           t.counter (cTen x.tenant (tRft 0)) = (s'.counter (cTen x.tenant (tRft 0)) + 1) % 2 ^ 64)))) ∧
  (∀ (s s' : State) (port : MsgPort) (m : Msg), m.bytes.length = 32 →
     (delivered s port 0x60 m s' → ∃ p, exec (.ping port) s = .next (send p s') ∧ msgOp p = 0x61 ∧
       msgDst p = msgSrc m.bytes ∧ msgTag p = msgTag m.bytes ∧ msgOperand p = msgOperand m.bytes ∧ p.length = 32) ∧
     (delivered s port 0x61 m s' → exec (.pong port) s = .next s') ∧
     (∀ n, delivered s port 4 m s' → n = msgOperand m.bytes / 2 ^ 32 →
       ((s'.tenant (msgTenant m.bytes)).quota.wmkBase ≤ n →
         n < (s'.tenant (msgTenant m.bytes)).quota.wmkBase + (s'.tenant (msgTenant m.bytes)).quota.wmkCount →
         (s'.waymark n).remoteOk = true → 0 < beAt m.bytes 16 4 → wmkTakes s' n 3 = true → ∃ t, exec (.wmkSignal port) s = .next t ∧
         t.waymark n = (s'.waymark n).signal (beAt m.bytes 16 4) (bit (msgOperand m.bytes) 31)) ∧
       ((s'.waymark n).remoteOk = false ∨ n < (s'.tenant (msgTenant m.bytes)).quota.wmkBase ∨
           (s'.tenant (msgTenant m.bytes)).quota.wmkBase + (s'.tenant (msgTenant m.bytes)).quota.wmkCount ≤ n →
         exec (.wmkSignal port) s = .next (refuseMsg m 0x21 (count (cWmk 3) 1 s')))))

/-- R276, R278 to R281, R283, R284: a window operation inside the range has the effect of Table 13.1 on its Waymark and on no
other, and each wait pending there is evaluated at once, in the order ERROR, RESET, SATISFIED, but for one whose timeout
expired in an earlier cycle; RESET and ARM BARRIER end them all. One that the unit cannot take in its cycle waits in the
unit's queue in its place (log 121). -/
def Obligations.WaymarkOperationsActAndEvaluateWaits : Prop :=
  ∀ (s : State) (fn : Fn) (i k n a : Nat) (e : Bool) (p : Instr × WmkOp × (Waymark → Waymark) × Bool),
    s.windowOpen fn = true → wmkIndex s fn i = some k → (n ≠ 0 ∨ e = true) → 1 ≤ a →
    p ∈ [(Instr.wmkSignalWrite fn i n e, .signal n e, (fun w => w.signal n e), false),
      (.wmkReset fn i, .reset, (fun w => { w with barrier := false, count := 0, err := false, ovf := false }), true),
      (.wmkArmBarrier fn i a, .arm a, (fun w => { w with barrier := true, count := 0, a := a, err := false, ovf := false }), true),
      (.wmkClearErr fn i, .clearErr, (fun w => { w with err := false }), false),
      (.wmkRemoteOn fn i, .remote true, (fun w => { w with remoteOk := true }), false),
      (.wmkRemoteOff fn i, .remote false, (fun w => { w with remoteOk := false }), false)] →
    (wmkTakes s k 0 = true → ∃ t, exec p.1 s = .next t ∧ t.waymark k = p.2.2.1 (s.waymark k) ∧
      (∀ j, j ≠ k → t.waymark j = s.waymark j) ∧
      t.mem = s.mem ∧ t.ctxs = s.ctxs ∧ t.models = s.models ∧ t.tenants = s.tenants ∧ t.time = s.time ∧
      ∀ g j, let x := (s.fn g).waits.getD j WaitSlot.idle; let y := (t.fn g).waits.getD j WaitSlot.idle
        (x.state = .waiting → x.wmk = k → timeoutPast x.timeout x.armTick x.armTime s.time = false →
          y.state = (waitOutcome (t.waymark k) p.2.2.2 x.target).getD .waiting ∧
          (y.state ≠ .waiting → (t.fn g).cause.testBit (16 + j) = true)) ∧
        (x.state = .waiting → x.wmk = k → timeoutPast x.timeout x.armTick x.armTime s.time = true → y.state = .timeout) ∧
        (¬ (x.state = .waiting ∧ x.wmk = k) → y = x)) ∧
    (wmkTakes s k 0 = false → exec p.1 s = .next { s with wmkUnit := { s.wmkUnit with
      queue := insertBy WmkUpd.le ⟨k, 0, p.2.1, s.time⟩ s.wmkUnit.queue } })

/-- R276, R278, R279, R281, R285: in counter mode SIGNAL n adds n to COUNT up to 0xFFFFFFFF, and one past it sets OVF; in
barrier mode COUNT + n opens the barrier floor((COUNT + n) / A) times, GEN rises by that and COUNT keeps the rest; e sets
ERR, which beats every other outcome of a wait; a SIGNAL of nothing and ARM with A = 0 are ignored, and an operation
outside the range is counted in WMK_RANGE_DROPS. -/
def Obligations.SignalsCountAndBarriersOpen : Prop :=
  ∀ (s : State) (fn : Fn) (i n : Nat) (e : Bool),
    (∀ (k : Nat) (w : Waymark), s.windowOpen fn = true → wmkIndex s fn i = some k → s.waymark k = w → (n ≠ 0 ∨ e = true) →
      wmkTakes s k 0 = true → ∃ t v,
      exec (.wmkSignalWrite fn i n e) s = .next t ∧ t.waymark k = v ∧ v.err = (w.err || e) ∧ v.remoteOk = w.remoteOk ∧
      v.barrier = w.barrier ∧ v.a = w.a ∧
      (w.barrier = false → v.count = min (w.count + n) 0xFFFFFFFF ∧ v.gen = w.gen ∧
        v.ovf = (w.ovf || decide (0xFFFFFFFF < w.count + n)) ∧
        (w.ovf = false → 0xFFFFFFFF < w.count + n → s.evBuf.length < 512 →
          (t.evBuf.getLast?).map (fun x => (x.code, x.data)) = some (0x0701, fitBytes (leBytes 2 k) 16))) ∧
      (w.barrier = true → 1 ≤ w.a → v.count = (w.count + n) % w.a ∧ v.gen = (w.gen + (w.count + n) / w.a) % 2 ^ 16 ∧
        v.ovf = w.ovf)) ∧
    (∀ w r target, w.err = true → waitOutcome w r target = some .error) ∧
    (∀ w target, w.err = false → waitOutcome w true target = some .reset ∧
      (w.barrier = false → (waitOutcome w false target = some .satisfied ↔ target ≤ w.count))) ∧
    ((wmkIndex s fn i).isSome = true → exec (.wmkSignalWrite fn i 0 false) s = .next s ∧
      exec (.wmkArmBarrier fn i 0) s = .next s) ∧
    (s.windowOpen fn = true → wmkIndex s fn i = none → ∀ c ∈ [Instr.wmkSignalWrite fn i n e, .wmkReset fn i, .wmkArmBarrier fn i n,
        .wmkClearErr fn i, .wmkRemoteOn fn i, .wmkRemoteOff fn i],
      exec c s = .next (if fn.val = 0 then s else count (cTen (fn.val - 1) 0x30) 1 s)) ∧
    (s.windowOpen fn = false → ∀ c ∈ [Instr.wmkSignalWrite fn i n e, .wmkReset fn i, .wmkArmBarrier fn i n, .wmkClearErr fn i,
      .wmkRemoteOn fn i, .wmkRemoteOff fn i], exec c s = .next s)

/-- R280 to R282, R284, R286: ARM evaluates the wait at once, or leaves it WAITING from this tick and time; outside the range
it ends REFUSED; ARM of a waiting slot is ignored; CANCEL returns a waiting slot to IDLE, and outside the range it is ignored
and counted; a wait that is still pending when the cycle of its timeout has passed ends TIMEOUT, with its cause bit and, when
IE is set, its vector. Each meets the Waymarks after every update queued before it (R283). -/
def Obligations.WaitSlotsArmCancelAndExpire : Prop :=
  ∀ (s u : State) (fn : Fn) (j : Fin 16) (ctrl : Nat) (x w : WaitSlot), u = wmkFlush s → u.fns.length = 33 →
    (u.fn fn).waits.length = 16 → x = (u.fn fn).waits.getD j WaitSlot.idle → w = slotFields ctrl x → s.windowOpen fn = true →
    (∀ st : WaitState, bit ctrl 15 = true → bit ctrl 13 = false → x.state ≠ .waiting →
      (wmkIndex s fn w.index = none ∧ st = .refused ∨ ∃ k, wmkIndex s fn w.index = some k ∧
        armOutcome (u.waymark k) w.target = some st) →
      exec (.waitArm fn j ctrl) s = .next (modFn fn (fun z => { z with
        waits := z.waits.set j { w with state := st }, cause := z.cause ||| 2 ^ (16 + j.val)
        msixDue := z.msixDue ++ (if w.ie then [w.vec] else []) }) u)) ∧
    (∀ k, bit ctrl 15 = true → bit ctrl 13 = false → x.state ≠ .waiting → wmkIndex s fn w.index = some k →
      armOutcome (u.waymark k) w.target = none →
      exec (.waitArm fn j ctrl) s = .next (modFn fn (fun z => { z with
        waits := z.waits.set j { w with state := .waiting, wmk := k, armTick := u.time.tick, armTime := u.time.time } }) u)) ∧
    (bit ctrl 15 = true → bit ctrl 13 = false → x.state = .waiting →
      exec (.waitArm fn j ctrl) s = .next (modFn fn (fun z => { z with waits := z.waits.set j w }) u)) ∧
    (bit ctrl 15 = false → bit ctrl 13 = true → (wmkIndex s fn w.index).isSome = true →
      exec (.waitCancel fn j ctrl) s = .next (modFn fn (fun z => { z with
        waits := z.waits.set j (if x.state = .waiting then { w with state := .idle } else w) }) u)) ∧
    (bit ctrl 15 = false → wmkIndex s fn w.index = none →
      exec (.waitCancel fn j ctrl) s = .next (if fn.val = 0 then s else count (cTen (fn.val - 1) 0x30) 1 s)) ∧
    (x.state = .waiting → timeoutPast x.timeout x.armTick x.armTime u.time = true → ∃ t,
      exec (.waitTimeoutExpiry fn j) s = .next t ∧ t.fns = u.fns.modify fn (fun z => { z with
        waits := z.waits.set j { x with state := .timeout }, cause := z.cause ||| 2 ^ (16 + j.val)
        msixDue := z.msixDue ++ (if x.ie then [x.vec] else []) }) ∧
      (fn.val ≠ 0 → t.counter (cTen (fn.val - 1) 0x28) = (u.counter (cTen (fn.val - 1) 0x28) + 1) % 2 ^ 64)) ∧
    (x.state ≠ .waiting ∨ timeoutPast x.timeout x.armTick x.armTime u.time = false →
      exec (.waitTimeoutExpiry fn j) s = .next u)

/-- R288, R11: a write of WMK_REMOTE sends a SIGNAL message of the chip, Waymark, tenant, e and n it names; outside the
tenant's fabric scope it is refused at this chip with an event and nothing is sent. Physical function 0 sends anywhere
(log 38). The reserved bits of the register stay 0. -/
def Obligations.RemoteSignalsStayInScope : Prop :=
  ∀ (s : State) (fn : Fn) (v : Nat), s.windowOpen fn = true → v < 2 ^ 64 → s.fns.length = 33 →
    ((fn.val = 0 ∨ inScope s (fn.val - 1) (bits v 7 0) = true) → ∃ m u, exec (.wmkRemoteWrite fn v) s = .next (send m u) ∧
      u = { s with
        fns := s.fns.modify fn (fun x => { x with wmkRemote := v / 2 ^ 31 * 2 ^ 31 + v % 2 ^ 25 })
        zth := { s.zth with signals := (fn.val, bits v 7 0, bits v 24 20, bits v 19 8) ::
          s.zth.signals.filter (· != (fn.val, bits v 7 0, bits v 24 20, bits v 19 8)) } } ∧
      m.length = 32 ∧ msgOp m = 4 ∧ msgDst m = bits v 7 0 ∧ msgSrc m = s.chipId % 256 ∧ msgTenant m = bits v 24 20 ∧
      msgOperand m = bits v 19 8 * 2 ^ 32 + (if bit v 31 then 2 ^ 31 else 0) ∧ beAt m 16 4 = bits v 63 32) ∧
    (fn.val ≠ 0 → inScope s (fn.val - 1) (bits v 7 0) = false → s.evBuf.length < 512 → ∃ t,
      exec (.wmkRemoteWrite fn v) s = .next t ∧ t.zth = s.zth ∧ (t.fn fn).wmkRemote = v / 2 ^ 31 * 2 ^ 31 + v % 2 ^ 25 ∧
      t.evBuf = s.evBuf ++ [⟨0x0702, fn.val - 1, s.evSeq, s.time.tick,
        fitBytes (leBytes 1 (bits v 7 0) ++ zeros 1 ++ leBytes 2 (bits v 19 8) ++ leBytes 1 (bits v 24 20) ++ leBytes 1 0x20) 16⟩])

/-- R287, R434: a function's first due message leaves with its vector's address and data, or sets the vector's pending bit
while the vector is masked; a write of the table sets one dword of one entry, and unmasking a pending vector sends its
message. The MSI-X entry layout is PCIe's (log 9). -/
def Obligations.MessagesLeaveForTheirVectors : Prop :=
  ∀ (s : State) (fn : Fn) (v : Nat) (e : MsixEntry), s.fns.length = 33 → (s.fn fn).msix.length = msixCount fn →
    v < msixCount fn → e = (s.fn fn).msix.getD v MsixEntry.reset →
    (∀ rest, (s.fn fn).msixDue = v :: rest →
      (e.masked = false → ∃ t, exec (.msixMessage fn) s = .next t ∧ t.out = .msix fn v e.addr e.data :: s.out ∧
        (t.fn fn).pba.testBit v = false ∧ (t.fn fn).msixDue = rest ∧ (∀ g, g ≠ fn.val → t.fn g = s.fn g)) ∧
      (e.masked = true → exec (.msixMessage fn) s = .next (modFn fn (fun x => { x with
        msixDue := rest, pba := x.pba ||| 2 ^ v }) s))) ∧
    ((s.fn fn).msixDue = [] → exec (.msixMessage fn) s = .next s) ∧
    (∀ (value dword : Nat), value < 2 ^ 32 → dword < 4 → ∃ t, exec (.msixTableWrite fn (0x5000 + 16 * v + 4 * dword) value) s =
        .next t ∧ (t.fn fn).msix = (s.fn fn).msix.set v (match dword with
          | 0 => { e with addr := e.addr / 2 ^ 32 * 2 ^ 32 + value / 4 * 4 }
          | 1 => { e with addr := value * 2 ^ 32 + e.addr % 2 ^ 32 }
          | 2 => { e with data := value }
          | _ => { e with masked := bit value 0 }) ∧
        t.out = (if dword = 3 ∧ bit value 0 = false ∧ (s.fn fn).pba.testBit v = true then .msix fn v e.addr e.data :: s.out
          else s.out))

/-- R413 to R415, R432, R433: the oldest event's entry is written at TAIL, bytes 8 to 31 first, with PHASE by the pass
through the ring, and TAIL, the cause bit and the vector follow, at once or 2 µs after the queue's last message; a full queue
drops it, counts it and marks LOST. HEAD never moves back or past TAIL; a 1 written to a cause bit clears it. -/
def Obligations.EntriesFillTheFunctionsQueues : Prop :=
  ∀ (s : State) (fn : Fn) (q : EvtQueue), q = (s.fn fn).evq → s.fns.length = 33 →
    (∀ e rest, s.evBuf = e :: rest → fn.val ∈ eventFns e.tenant → q.enabled = true → s.dma.ats = [] →
      (∀ f < 33, (s.fn f).evq.waiting = [] ∧ (f ≠ fn.val → (s.fn f).evq.enabled = false)) →
      ((q.tail + 2 ^ 32 - q.head) % 2 ^ 32 ≠ 2 ^ q.k → ∃ t a bs, exec .eventEntryWrite s = .next t ∧ t.evBuf = rest ∧
        a = q.base + 32 * (q.tail % 2 ^ q.k) ∧ bs = e.bytes (1 - q.tail / 2 ^ q.k % 2) (if q.lost then 1 else 0) ∧
        t.out = (hostWrite fn a (bs.take 8) false (hostWrite fn (a + 8) (bs.drop 8) false s)).out ∧
        (t.fn fn).evq.tail = (q.tail + 1) % 2 ^ 32 ∧ (t.fn fn).evq.head = q.head ∧ (t.fn fn).evq.lost = false ∧
        (t.fn fn).cause = (s.fn fn).cause ||| 2 ∧
        (t.fn fn).msixDue = (s.fn fn).msixDue ++
          (if q.msgDue = false ∧ (∀ x, q.lastMsg = some x → x + 200 ≤ s.time.time) then [q.vec] else [])) ∧
      ((q.tail + 2 ^ 32 - q.head) % 2 ^ 32 = 2 ^ q.k → ∃ t, exec .eventEntryWrite s = .next t ∧ t.evBuf = rest ∧
        t.out = s.out ∧ (t.fn fn).evq = { q with lost := true } ∧ (t.fn fn).cause = (s.fn fn).cause ||| 4 ∧
        t.counter (cFn fn 3) = (s.counter (cFn fn 3) + 1) % 2 ^ 64)) ∧
    (q.msgDue = true → (∀ x, q.lastMsg = some x → x + 200 ≤ s.time.time) →
      exec (.eventMsixCoalesce fn) s = .next (modFn fn (fun x => { x with
        evq := { x.evq with msgDue := false, lastMsg := some s.time.time }, msixDue := x.msixDue ++ [q.vec] }) s)) ∧
    (q.msgDue = false → exec (.eventMsixCoalesce fn) s = .next s) ∧
    (∀ h < 2 ^ 32, (q.enabled = true → (h + 2 ^ 32 - q.head) % 2 ^ 32 ≤ (q.tail + 2 ^ 32 - q.head) % 2 ^ 32 →
        exec (.evtQueueHeadWrite fn h) s = .next (modFn fn (fun x => { x with evq := { x.evq with head := h } }) s)) ∧
      (¬ (q.enabled = true ∧ (h + 2 ^ 32 - q.head) % 2 ^ 32 ≤ (q.tail + 2 ^ 32 - q.head) % 2 ^ 32) →
        exec (.evtQueueHeadWrite fn h) s = .next (count (cFn fn 4) 1 s))) ∧
    (∀ v, (s.fn fn).cause < 2 ^ 32 → ∃ t, exec (.evtIntCauseWrite fn v) s = .next t ∧
      (∀ i < 32, (t.fn fn).cause.testBit i = ((s.fn fn).cause.testBit i && !v.testBit i)) ∧
      (∀ g, g ≠ fn.val → t.fn g = s.fn g) ∧ t.mem = s.mem ∧ t.ctr = s.ctr)

/-- R9: a 64-bit register is read and written by one 64-bit access or by two halves. A 32-bit read at +0 of a 64-bit
register returns its low half and captures the high half, which the function's next read at +4 returns; a read at +4 with
none captured is live; a write at +0 is held and the write at +4 commits both halves, the live low half where none is held. A read changes nothing else, but that PRT_LAT_MAX_CYC clears with its low half (R436),
and that every Waymark update queued before it has been applied (R285, R289). -/
def Obligations.HalvesOfARegisterAgree : Prop :=
  ∀ (s u : State) (fn : Fn), u = wmkFlush s → u.fns.length = 33 →
    (∀ o, isReg64 fn o = true → o % 8 = 0 → latMaxKey u fn o = none → ∃ t, exec (.reg64LowRead fn o) s = .next t ∧
      t = { u with
        out := .barRead fn o (leBytes 4 (word32 u fn o)) :: u.out
        fns := u.fns.modify fn (fun x => { x with snap := some (o, word32 u fn (o + 4)) }) }) ∧
    (∀ o h, isReg64 fn (o + 4) = true → o % 8 = 0 → (u.fn fn).snap = some (o, h) →
      exec (.reg64LowRead fn (o + 4)) s = .next { u with
        out := .barRead fn (o + 4) (leBytes 4 h) :: u.out
        fns := u.fns.modify fn (fun x => { x with snap := none }) }) ∧
    (∀ o, isReg64 fn (o + 4) = true → o % 8 = 0 → (u.fn fn).snap = none →
      exec (.reg64LowRead fn (o + 4)) s = .next { u with out := .barRead fn (o + 4) (leBytes 4 (word32 u fn (o + 4))) :: u.out }) ∧
    (∀ o, isReg64 fn o = true → o % 8 = 0 → latMaxKey u fn o = none → exec (.counterRcRead fn o 8) s = .next { u with
      out := .barRead fn o (leBytes 4 (word32 u fn o) ++ leBytes 4 (word32 u fn (o + 4))) :: u.out }) ∧
    (s.wmkUnit.queue = [] → u = s) ∧
    (∀ data, data.length = 8 → exec (.registerWrite fn 0x4100 data) s = exec (.wmkRemoteWrite fn (leNat data)) s) ∧
    (∀ k l, l < 8 → portExists u l = true → fn.val = 0 → k = cPrt l pLatMax → ∃ t,
      exec (.counterRcRead fn (0x20000 + k) 8) s = .next t ∧ t.counter k = 0 ∧ (∀ j, j ≠ k → t.counter j = u.counter j) ∧
      t.out = .barRead fn (0x20000 + k) (leBytes 8 (u.counter k)) :: u.out) ∧
    (∀ v < 2 ^ 32, s.windowOpen fn = true → exec (.reg64LowWrite fn 0x4100 v) s =
      .next (modFn fn (fun x => { x with hold := some (0x4100, v) }) s)) ∧
    (∀ o v, o ≠ 0x4100 → exec (.reg64LowWrite fn o v) s = .next s) ∧ (∀ o v, o ≠ 0x4104 → exec (.reg64HighWrite fn o v) s = .next s) ∧
    (∀ v < 2 ^ 32, ∀ low, s.fns.length = 33 → low = ((s.fn fn).hold.map (·.2)).getD ((s.fn fn).wmkRemote % 2 ^ 32) →
      exec (.reg64HighWrite fn 0x4104 v) s =
        exec (.wmkRemoteWrite fn (v * 2 ^ 32 + low)) (modFn fn (fun x => { x with hold := none }) s))

/-- R376, R431: the command page takes a write of any length while the mailbox is not PENDING or RUNNING, and a locked page
counts it; a doorbell in READY or DONE latches SEQ and makes the mailbox PENDING, one in BOOTING or one while busy is
counted. Any other register takes aligned 32-bit or 64-bit writes only, and a read-only one ignores them. -/
def Obligations.CommandPagesLockAndDoorbellsRing : Prop :=
  ∀ (s : State) (fn : Fn) (o : Nat) (data : List Byte) (m : Mailbox), m = (s.fn fn).mbx → s.fns.length = 33 →
    (0x1000 ≤ o → o < 0x2000 → (m.state = .pending ∨ m.state = .running) →
      exec (.registerWrite fn o data) s = .next (count (cFn fn 2) 1 s)) ∧
    (0x1000 ≤ o → o < 0x2000 → m.state ≠ .pending → m.state ≠ .running →
      exec (.registerWrite fn o data) s = .next (modMbx fn (fun m => { m with cmd := overlay m.cmd (o - 0x1000) data }) s)) ∧
    (¬ (0x1000 ≤ o ∧ o < 0x2000) → ¬ ((data.length = 4 ∧ o % 4 = 0) ∨ (data.length = 8 ∧ o % 8 = 0)) →
      exec (.registerWrite fn o data) s = .next s) ∧
    (∀ k ∈ [0x000, 0x008, 0x00C, 0x010, 0x014, 0x024, 0x02C, 0x040, 0x048], data.length = 4 →
      exec (.registerWrite fn k data) s = .next s) ∧
    (∀ v, bit v 0 = true →
      ((m.state = .ready ∨ m.state = .done) → exec (.mbxDoorbellRing fn v) s = .next (modMbx fn (fun m => { m with
        state := .pending, seq := pageSeq m.cmd % 65536, rungIn := s.time.epoch }) s)) ∧
      (m.state = .booting → exec (.mbxDoorbellRing fn v) s = .next (count (cFn fn 0) 1 s)) ∧
      ((m.state = .pending ∨ m.state = .running) → exec (.mbxDoorbellRing fn v) s = .next (count (cFn fn 1) 1 s)))

/-- R374, R435: a Function Level Reset of a virtual function makes its mailbox READY and discards the response of a command
that was running, leaves its tenant DISABLED with its quota, its models and its stream configuration kept, clears its
interrupt state, event queue and wait slots, and stops its streams; clearing VF Enable does so to all 32. That a tenant which
is ABSENT or RELEASING keeps its state is the model's reading (log 127). -/
def Obligations.FunctionResetsDisableTheirTenant : Prop :=
  ∀ (s : State), s.shaped →
    (∀ (vf : Tid), ∃ t, exec (.vfFunctionLevelReset vf) s = .next t ∧ functionReset vf s t ∧
      (∀ u, u ≠ vf.val → t.tenantView u = s.tenantView u) ∧ t.models = s.models ∧ t.ports = s.ports) ∧
    ((∀ u < 32, (s.fn (u + 1)).mbx.state ≠ .booting) → ∃ t, exec .vfEnableClear s = .next t ∧
      (∀ u < 32, functionReset u s t) ∧ t.models = s.models ∧ t.ports = s.ports)

/-- R376 to R378, R381: a command that fails a check, common or its own, is answered at once with that check's code and
detail, and does nothing else; while it is not the command whose turn it is, nothing happens (log 1). -/
def Obligations.RefusedCommandsAnswerAndDoNothing : Prop :=
  ∀ (s : State) (fn : Fn) (ecc : List EccFind) (p : MailRow), p ∈ mailRows fn ecc →
    (commandReady s fn p.2.1 p.2.2.1 = false → exec p.1 s = .next s) ∧
    (commandReady s fn p.2.1 p.2.2.1 = true → (s.fn fn).mbx.discard = false →
      (∀ r, commonCheck s fn (s.fn fn).mbx = some r → ∃ t, exec p.1 s = .next t ∧ answeredAs fn r.1 r.2 s t) ∧
      (∀ r, commonCheck s fn (s.fn fn).mbx = none → p.2.2.2 s (s.payload fn) (s.headTenant fn) = some r →
        ∃ t, exec p.1 s = .next t ∧ answeredAs fn r.1 r.2 s t))

/-- R17, R382 to R391: a query is answered at once with status 0 and its report, and changes nothing else. IDENTIFY reports
part code 0x6404, stepping 0x43 and level 3. -/
def Obligations.QueriesAnswerAndChangeNothing : Prop :=
  ∀ (s : State) (fn : Fn) (pl : List Byte) (u : Nat), pl = s.payload fn → u = s.headTenant fn →
    (identity s fn).take 4 = [0x04, 0x64, 0x43, 3] ∧
    (∀ p ∈ ([((.identify fn, 0x0101, anyOp, noRules), identity s fn), ((.deviceStatus fn, 0x0102, anyOp, noRules), deviceReport s),
        ((.portQuery fn, 0x0305, anyOp, portQueryCheck), portReport s (byteAt pl 0)),
        ((.tenantQuery fn, 0x0403, anyOp, noRules), tenantReport s u),
        ((.waymarkQuery fn, 0x0502, anyOp, wmkQueryCheck fn), wmkReport s (wmkNumber s fn u (leAt pl 0 2))),
        ((.sensors fn, 0x0902, anyOp, noRules), sensorsReport s), ((.eventLog fn, 0x0A02, anyOp, noRules), logReport s (leAt pl 0 4)),
        ((.contextDump fn, 0x0B03, anyOp, dumpCheck fn), dumpBytes s (byteAt pl 0)),
        ((.stateAudit fn, 0x0B05, anyOp, noRules), auditReport s)] : List (MailRow × List Byte)),
      accepted s fn p.1.2.1 p.1.2.2.1 p.1.2.2.2 = true → ∃ t, exec p.1.1 s = .next t ∧ answeredAs fn 0 p.2 s t) ∧
    (∀ m, accepted s fn 0x0203 anyOp queryCheck = true → queryTarget s u (leAt pl 0 2) = some m →
      ∃ t, exec (.modelQuery fn) s = .next t ∧ answeredAs fn 0 (queryModel s m) s t) ∧
    (∀ j, accepted s fn 0x0203 anyOp queryCheck = true → queryTarget s u (leAt pl 0 2) = none → s.load = some j →
      ∃ t, exec (.modelQuery fn) s = .next t ∧ answeredAs fn 0 (queryLoading (pagePayload j.page) j.plots.length) s t) ∧
    (∀ m, accepted s fn 0x0204 anyOp statsCheck = true → commandModel s u (leAt pl 0 2) = some m →
      ∃ t, exec (.modelStats fn) s = .next t ∧ answeredAs fn 0 ((List.range (leAt pl 4 2)).flatMap (fun i =>
        (kvGet s.stats (statKey m.id (leAt pl 2 2 + i))).elim (zeros 64) (statBytes s))) s t) ∧
    (∀ m x, accepted s fn 0x0701 (opIs 2 7) (refitCheck anyRefit) = true → refitNamed s u (leAt pl 0 2) = some (m, x) →
      ∃ t, exec (.refitQuery fn) s = .next t ∧ answeredAs fn 0 (refitReport s m x (leAt pl 4 4)) s t) ∧
    (∀ m, accepted s fn 0x0801 (opIs 2 1) detourCheck = true → commandModel s u (leAt pl 0 2) = some m →
      ∃ t, exec (.detourQuery fn) s = .next t ∧ answeredAs fn 0 (detourReport s m u) s t)

/-- R20, R377, R378, R382 to R390: a command of posting class M acts at the first Milestone after its execution epoch, and
its response waits for that; one of class W waits for its end. Until then nothing else of the machine changes, but that the
links FABRIC_CONFIG names start to train, and that a new window's plots, data and directory, are taken and zeroed. -/
def Obligations.MilestoneCommandsAwaitTheirEffect : Prop :=
  ∀ (s : State) (fn : Fn) (pl : List Byte) (u : Nat), pl = s.payload fn → u = s.headTenant fn →
    (∀ p ∈ ([((.portMode fn, 0x0301, anyOp, portModeCheck), .portMode (byteAt pl 0) (byteAt pl 1) (byteAt pl 2) (bit (byteAt pl 3) 0)),
        ((.portAddress fn, 0x0302, anyOp, portAddressCheck), .portAddress (byteAt pl 0) pl),
        ((.portStateOpen fn, 0x0303, opIs 1 1, portStateCheck), .portOpen (byteAt pl 0)),
        ((.portStateDraining fn, 0x0303, opIs 1 2, portStateCheck), .portDrain (byteAt pl 0)),
        ((.endpointAdd fn, 0x0304, opIs 0 1, endpointAddCheck), .endpointAdd (byteAt pl 1) (endpointAt pl u)),
        ((.endpointRemove fn, 0x0304, opIs 0 2, endpointRemoveCheck), .endpointRemove (byteAt pl 1)),
        ((.tenantSet fn, 0x0401, anyOp, tenantSetCheck), .tenantSet u (parseQuota pl)),
        ((.tenantEnable fn, 0x0402, opIs 0 1, stateCheck [.disabled]), .tenantState u 1),
        ((.tenantDisable fn, 0x0402, opIs 0 2, stateCheck [.enabled, .preempted]), .tenantState u 2),
        ((.tenantPreempt fn, 0x0402, opIs 0 3, stateCheck [.enabled]), .tenantState u 3),
        ((.tenantResume fn, 0x0402, opIs 0 4, stateCheck [.preempted]), .tenantState u 4),
        ((.signpostBankAssign fn, 0x0206, opIs 1 1, bankAssignCheck), .bankAssign (byteAt pl 0) u),
        ((.streamStart fn, 0x0602, opIs 2 1, startCheck), .streamStart (8 * byteAt pl 0 + byteAt pl 1)),
        ((.power fn, 0x0901, anyOp, powerCheck), .power pl)] : List (MailRow × Due)),
      accepted s fn p.1.2.1 p.1.2.2.1 p.1.2.2.2 = true → ∃ t, exec p.1.1 s = .next t ∧
        awaiting fn (.milestone s.time.epoch) [] (s.plus p.2) t) ∧
    (∀ m x, refitNamed s u (leAt pl 0 2) = some (m, x) →
      ∀ p ∈ ([(.refitPause fn, 1, refitCheck anyRefit), (.refitResume fn, 2, refitCheck anyRefit),
        (.resetStats fn, 3, refitCheck idleProposal), (.propose fn, 4, refitCheck idleProposal),
        (.discard fn, 5, refitCheck anyRefit)] : List (Instr × Nat × (State → List Byte → Nat → Option Refused))),
      accepted s fn 0x0701 (opIs 2 p.2.1) p.2.2 = true → ∃ t, exec p.1 s = .next t ∧
        awaiting fn (.milestone s.time.epoch) [] (s.plus (.refit m.id p.2.1)) t) ∧
    (∀ m, commandModel s u (leAt pl 0 2) = some m →
      ∀ p ∈ ([(.detourHold fn, 2), (.detourUnhold fn, 3), (.detourEndAll fn, 4)] : List (Instr × Nat)),
      accepted s fn 0x0801 (opIs 2 p.2) detourCheck = true → ∃ t, exec p.1 s = .next t ∧
        awaiting fn (.milestone s.time.epoch) [] (s.plus (.detour m.id p.2)) t) ∧
    (accepted s fn 0x0105 anyOp fabricCheck = true → ∃ t, exec (.fabricConfig fn) s = .next t ∧
      awaiting fn (.milestone s.time.epoch) [] ((enableLinks (leAt pl 4 2) s).plus (.fabric pl)) t) ∧
    (accepted s fn 0x0106 (opIs 0 1) windowCreateCheck = true → ∃ t ps ds, exec (.commonsWindowCreate fn) s = .next t ∧
      (freePlots s).take (leAt pl 2 2 + ceilDiv (leAt pl 2 2) 4) = ps ++ ds ∧ ps.length = min (leAt pl 2 2) (freePlots s).length ∧
      awaiting fn (.milestone s.time.epoch) []
        (((ps ++ ds).foldl (fun s p => takePlot p (.data, some u) s) s).plus (.windowCreate u (byteAt pl 1) ps ds)) t) ∧
    (accepted s fn 0x0104 anyOp canaryCheck = true → ∃ t, exec (.ridgeCanary fn) s = .next t ∧
      awaiting fn (.milestone (s.time.epoch - 1)) [] { s with
        due := s.due ++ [(s.time.epoch - 1, .canary (byteAt pl 0) (byteAt pl 1 == 1))] } t) ∧
    (∀ p ∈ ([((.tenantRelease fn, 0x0402, opIs 0 5, stateCheck [.disabled, .enabled, .preempted]), .tenantState u 5),
        ((.streamStop fn, 0x0602, opIs 2 2, stopCheck), .streamStop (8 * byteAt pl 0 + byteAt pl 1)),
        ((.commonsWindowRemove fn, 0x0106, opIs 0 2, windowRemoveCheck), .windowRemove u (byteAt pl 1))] : List (MailRow × Due)),
      accepted s fn p.1.2.1 p.1.2.2.1 p.1.2.2.2 = true → ∃ t, exec p.1.1 s = .next t ∧ awaiting fn .wait [] (s.plus p.2) t)

/-- R105, R112, R129, R131, R242, R296, R388 to R391: a command of posting class I acts before its response is posted.
MEM_READ returns the bytes or, of a poisoned word, its address; SIGNPOST_ENTRIES keeps the operations before a refused one. -/
def Obligations.ImmediateCommandsActBeforeTheirAnswer : Prop :=
  ∀ (s : State) (fn : Fn) (pl : List Byte) (u : Nat), pl = s.payload fn → u = s.headTenant fn →
    (accepted s fn 0x0103 anyOp periodCheck = true → ∃ t, exec (.memoryConfig fn) s = .next t ∧
      answeredAs fn 0 [] { s with mem := { s.mem with period := byteAt pl 0 } } t) ∧
    (accepted s fn 0x0206 (opIs 1 2) bankReleaseCheck = true → ∃ t, exec (.signpostBankRelease fn) s = .next t ∧
      answeredAs fn 0 [] (releaseBank (byteAt pl 0) s) t) ∧
    (accepted s fn 0x0206 (opIs 1 3) bankConfigureCheck = true → ∃ t, exec (.signpostBankConfigure fn) s = .next t ∧
      answeredAs fn 0 [] (configureBank (byteAt pl 0) pl s) t) ∧
    (∀ ops r, accepted s fn 0x0207 anyOp entriesCheck = true →
      ops = (List.range (leAt pl 2 2)).map (fun i => entryOpAt pl (16 + 80 * i)) →
      (∀ i, (List.range (leAt pl 2 2)).findIdx? (fun i => !containersOk s pl (16 + 80 * i)) = some i →
        r = runEntryOps (byteAt pl 0) 0 (ops.take i) s → r.1 = none → ∃ t, exec (.signpostEntries fn) s = .next t ∧
        answeredAs fn 0x18 (leBytes 2 i) r.2 t) ∧
      ((∀ i < leAt pl 2 2, containersOk s pl (16 + 80 * i) = true) → r = runEntryOps (byteAt pl 0) 0 ops s →
      (r.1 = none → ∃ t, exec (.signpostEntries fn) s = .next t ∧ answeredAs fn 0 (leBytes 2 (leAt pl 2 2) ++ zeros 2) r.2 t) ∧
      (∀ i why, r.1 = some (i, why) → ∃ t, exec (.signpostEntries fn) s = .next t ∧
        answeredAs fn (if why = 1 then 0x18 else 0x19) (leBytes 2 i) r.2 t))) ∧
    (∀ m, accepted s fn 0x0205 anyOp calibrateCheck = true → commandModel s u (leAt pl 0 2) = some m → ∃ t,
      exec (.modelCalibrate fn) s = .next t ∧ answeredAs fn 0 [] { s with
        due := s.due ++ [(s.time.epoch - 1, .calibrate m.id (leAt pl 2 2) (leAt pl 4 4) (byteAt pl 8))] } t) ∧
    (s.fns.length = 33 → accepted s fn 0x0A01 anyOp (eventQueueCheck fn) = true → ∃ t, exec (.eventQueue fn) s = .next t ∧
      (t.fn fn).mbx.state = .done ∧ (t.fn fn).evq.enabled = bit (byteAt pl 10) 0 ∧ (t.fn fn).evq.head = 0 ∧
      (t.fn fn).evq.tail = 0 ∧ (bit (byteAt pl 10) 0 = true → (t.fn fn).evq.base = leAt pl 0 8 ∧
        (t.fn fn).evq.k = byteAt pl 8 ∧ (t.fn fn).evq.vec = byteAt pl 9)) ∧
    (∀ ecc s1 a n, accepted s fn 0x0B01 anyOp memReadCheck = true → a = leAt pl 0 8 → n = leAt pl 8 2 →
      s1 = diagnosticFinds ecc a n s → (a < sramBase ∨ tableBase ≤ a ∨ (s1.fn fn).mbx = (s.fn fn).mbx) →
      (∀ w, diagnosticBad ecc a n s1 = some w →
        ∃ t, exec (.memRead fn ecc) s = .next t ∧ answeredAs fn 0x15 (leBytes 8 w) s1 t) ∧
      (diagnosticBad ecc a n s1 = none → (913 * plotSize < a + n ∧ a < massifEnd) ∨ tableBase ≤ a → ∃ t bs, bs.length = n ∧
        exec (.memRead fn ecc) s = .next t ∧ answeredAs fn 0 bs { s1 with freeIdx := s1.freeIdx + n } t) ∧
      (diagnosticBad ecc a n s1 = none → ¬ ((913 * plotSize < a + n ∧ a < massifEnd) ∨ tableBase ≤ a) → ∃ t,
        exec (.memRead fn ecc) s = .next t ∧ answeredAs fn 0 (memBytes s1.mem a n) s1 t)) ∧
    (accepted s fn 0x0601 anyOp streamConfigCheck = true →
      (stagingFits s pl = true → ∃ t, exec (.streamConfig fn) s = .next t ∧
        answeredAs fn 0 [] (modStream (8 * byteAt pl 0 + byteAt pl 1) (Stream.configure pl) s) t) ∧
      (stagingFits s pl = false → ∃ t code, exec (.streamConfig fn) s = .next t ∧
        answeredAs fn 0x10 (fitDetail code noPlace (4096 * byteAt pl 16)
          (0x400000 - stagingUsed s (8 * byteAt pl 0 + byteAt pl 1))) { s with freeIdx := s.freeIdx + 1 } t)) ∧
    (accepted s fn 0x0B04 anyOp searchCheck = true → ∃ t ms, exec (.signpostSearch fn) s = .next t ∧
      ms = searchBank (s.bank (byteAt pl 0)) (diagKey (s.bank (byteAt pl 0)) pl) ∧
      answeredAs fn 0 (leBytes 2 (min ms.length 4096) ++ leBytes 2 ((ms.drop (leAt pl 2 2)).take 128).length ++ zeros 4 ++
        ((ms.drop (leAt pl 2 2)).take 128).flatMap (fun m => leBytes 2 m.index ++ zeros 2 ++ leBytes 4 m.result))
        (countSearch (byteAt pl 0) ms.length s) t)

/-- R228, R232, R241, R277, R388, R389, R391: DATA_ALLOC takes free plots for its tenant and gives them back zeroed;
MEM_WRITE writes its words up to the first that is refused; WAYMARK_INIT acts on every Waymark it names, after every update
queued before it (R283). -/
def Obligations.AllocationsWritesAndWaymarkInits : Prop :=
  ∀ (s : State) (fn : Fn) (pl : List Byte) (u : Nat), pl = s.payload fn → u = s.headTenant fn → s.fns.length = 33 →
    (∀ ps, accepted s fn 0x0603 (opIs 0 1) allocateCheck = true → ps = (freePlots s).take (leAt pl 4 2) → ∃ t,
      exec (.dataAllocAllocate fn) s = .next t ∧ t.dma.allocs = s.dma.allocs ++ [⟨u, leAt pl 2 2, ps⟩] ∧
      (∀ p ∈ ps, t.plot p = (.data, some u)) ∧ (∀ p, p ∉ ps → t.plot p = s.plot p) ∧ (t.fn fn).mbx.state = .done ∧
      (∀ k, (∀ p ∈ ps, k < p * plotSize ∨ (p + 1) * plotSize ≤ k) → memByte t.mem k = memByte s.mem k)) ∧
    (∀ a, accepted s fn 0x0603 (opIs 0 2) freeCheck = true → allocOf s u (leAt pl 2 2) = some a → ∃ t,
      exec (.dataAllocFree fn) s = .next t ∧ t.dma.allocs = s.dma.allocs.filter (· != a) ∧
      (∀ p ∈ a.plots, t.plot p = (.free, none) ∧ ∀ o < plotSize, memByte t.mem (p * plotSize + o) = 0)) ∧
    (∀ ecc r, accepted s fn 0x0B02 anyOp memWriteCheck = true →
      r = writeStop ecc 0 (leAt pl 0 8) (slice pl 16 (leAt pl 8 2))
        (ceilDiv (leAt pl 0 8 + leAt pl 8 2) 8 - leAt pl 0 8 / 8) 0 s →
      (r.1 = none → ∃ t, exec (.memWrite fn ecc) s = .next t ∧ answeredAs fn 0 [] r.2 t) ∧
      (∀ w, r.1 = some w → ∃ t, exec (.memWrite fn ecc) s = .next t ∧ answeredAs fn 0x15 (leBytes 8 w) r.2 t)) ∧
    (∀ p ∈ ([(.waymarkInitReset fn, 1, fun w => { w with barrier := false, count := 0, err := false, ovf := false }),
        (.waymarkInitArmBarrier fn, 2, fun w => { w with
          barrier := true, count := 0, a := leAt pl 5 3, err := false, ovf := false }),
        (.waymarkInitRemoteOn fn, 4, fun w => { w with remoteOk := true }),
        (.waymarkInitRemoteOff fn, 5, fun w => { w with remoteOk := false })] : List (Instr × Nat × (Waymark → Waymark))),
      accepted s fn 0x0501 (opIs 4 p.2.1) (wmkInitCheck fn) = true → ∃ t w, exec p.1 s = .next t ∧ w = wmkFlush s ∧
        (t.fn fn).mbx.state = .done ∧ leAt (t.fn fn).mbx.resp 8 2 = 0 ∧
        (∀ i < leAt pl 2 2, t.waymark (wmkNumber s fn u (leAt pl 0 2 + i)) =
          p.2.2 (w.waymark (wmkNumber s fn u (leAt pl 0 2 + i)))) ∧
        (∀ k, (∀ i < leAt pl 2 2, k ≠ wmkNumber s fn u (leAt pl 0 2 + i)) → t.waymark k = w.waymark k))

/-- R219, R220, R223, R224, R360: a load takes its plots and fetches its image; a failed fetch or check frees the plots and
answers with its code; a good image is written and loads at a Milestone, once blocks found poisoned have been fetched again. An unload stops its model, then drains and zeroises
it, and a replaced image goes once no record references it. COMMIT takes fresh units, or is refused by a poisoned word. -/
def Obligations.ModelsLoadUnloadAndCommit : Prop :=
  ∀ (s : State) (fn : Fn) (pl : List Byte) (u : Nat), pl = s.payload fn → u = s.headTenant fn →
    (∀ ps, accepted s fn 0x0201 anyOp loadChecks = true → ps = (freePlots s).take (ceilDiv (loadSize pl) plotSize) → ∃ t,
      exec (.modelLoad fn) s = .next t ∧ t.load = some ⟨fn, (s.fn fn).mbx.run, ps, [], []⟩ ∧ (∀ p ∈ ps, t.plot p = (.model, some u)) ∧
      t.dma.fetches = s.dma.fetches ++ [⟨.image, loadIova pl, loadSize pl⟩] ∧ t.out = s.out ∧ t.models = s.models) ∧
    (s.load = none → ∀ f image ecc, exec (.imageFetchDone f image ecc) s = .next s) ∧
    (∀ j image ecc off, s.load = some j → exec (.imageFetchDone (some off) image ecc) s =
      .next (failLoad j (if j.blocks.isEmpty then (0x14, leBytes 8 off) else poisonRefusal s j) s)) ∧
    (∀ j image ecc, s.load = some j → imageFetched s = false → exec (.imageFetchDone none image ecc) s = .next s) ∧
    (∀ j image ecc bytes, s.load = some j → imageFetched s = true → bytes = fitBytes image (loadSize (pagePayload j.page)) →
      j.blocks = [] →
      (∀ r s1, s1 = layImage j.plots bytes s → checkImage (pageTenant j.page) (pagePayload j.page) bytes j.plots s1 = .error r →
        exec (.imageFetchDone none image ecc) s = .next (failLoad j r s1)) ∧
      (∀ m s1 s2, s1 = layImage j.plots bytes s → checkImage (pageTenant j.page) (pagePayload j.page) bytes j.plots s1 = .ok m →
        s2 = readWordsAt ecc (masterWords m (copiedTables m)) s1 →
        (∀ s3, poisonedBlocks s2 m = [] → s3 = writeModel m (loadWaymarks (pagePayload j.page)) { s2 with load := none } → ∃ t,
          exec (.imageFetchDone none image ecc) s = .next t ∧ t.load = none ∧ t.models = s3.models ∧
          t.due = s3.due ++ [(s3.time.epoch, .modelLoaded m.id)] ∧ t.mem = s3.mem) ∧
        (poisonedBlocks s2 m ≠ [] → ∃ t, exec (.imageFetchDone none image ecc) s = .next t ∧ t.models = s2.models ∧
          t.load = some { j with image := bytes, blocks := poisonedBlocks s2 m } ∧
          t.dma.fetches.length = s.dma.fetches.length + (poisonedBlocks s2 m).length))) ∧
    (∀ j image ecc m, s.load = some j → imageFetched s = true → j.blocks ≠ [] →
      checkImage (pageTenant j.page) (pagePayload j.page) j.image j.plots s = .ok m →
      (repairBlocks m (loadSize (pagePayload j.page)) image j.blocks s = none →
        exec (.imageFetchDone none image ecc) s = .next (failLoad j (poisonRefusal s j) s)) ∧
      (∀ s1 s2 s3, repairBlocks m (loadSize (pagePayload j.page)) image j.blocks s = some s1 →
        s2 = readWordsAt ecc (masterWords m (copiedTables m)) s1 → poisonedBlocks s2 m = [] →
        s3 = writeModel m (loadWaymarks (pagePayload j.page)) { s2 with load := none } → ∃ t,
        exec (.imageFetchDone none image ecc) s = .next t ∧ t.load = none ∧ t.models = s3.models)) ∧
    (∀ m, accepted s fn 0x0202 anyOp unloadCheck = true → loadedModel s u (leAt pl 0 2) = some m → ∃ t,
      exec (.modelUnload fn) s = .next t ∧ awaiting fn .wait []
        (({ s with models := s.models.map (fun x => if x.id = m.id then { x with state := .stopping } else x) } : State).plus
          (.modelStop m.id)) t) ∧
    (∀ (k : Tid) h m, stoppedModel s k h .stopping = some m →
      (drained s m.id = false → exec (.modelDrainDone k h) s = .next s) ∧
      (drained s m.id = true → ∃ t, exec (.modelDrainDone k h) s = .next t ∧ t.models = s.models.map (fun x =>
        if x.id = m.id then { x with state := .zeroising } else x) ∧ t.mem.cells = s.mem.cells ∧
        ∀ f ∈ t.feedback, f.model ≠ m.id)) ∧
    (∀ (k : Tid) h m, stoppedModel s k h .zeroising = some m → s.model? m.id = some m → ∃ t, exec (.modelZeroiseDone k h) s = .next t ∧
      t.models = s.models.filter (fun x => x.id != m.id) ∧ (∀ p ∈ m.plots, t.plot p = (.free, none))) ∧
    (∀ (k : Tid) h m, s.models.find? (fun m => m.tenant == k.val && m.handle == h && m.replaced) = some m →
      (m.standing = true → exec (.oldImageRetire k h) s = .next s) ∧
      (m.standing = false → (∀ x ∈ s.searches, x.2.model ≠ m.id) → (drained s m.id = false → exec (.oldImageRetire k h) s = .next s) ∧
        (drained s m.id = true → ∃ t, exec (.oldImageRetire k h) s = .next t ∧
          t.models = s.models.filter (fun x => x.id != m.id)))) ∧
    (∀ m x, accepted s fn 0x0701 (opIs 2 6) (refitCheck commitCheck) = true → refitNamed s u (leAt pl 0 2) = some (m, x) →
      ∀ ecc s1, s1 = readWordsAt ecc (commitWords m x) s →
      (∀ a, shadowPoison s1 m x = some a → ∃ t, exec (.commit fn ecc) s = .next t ∧ answeredAs fn 0x15 (leBytes 8 a) s1 t) ∧
      (∀ us, shadowPoison s1 m x = none → commitPlaces s1 m = .ok us → ∃ t, exec (.commit fn ecc) s = .next t ∧
        t.due = s.due ++ [(s.time.epoch, .refit m.id 6)] ∧ (∀ y ∈ t.refits, y.model = m.id → y.commitRunning = true) ∧
        ∀ y, t.model? m.id = some y → ∀ v ∈ us, (m.version + 1, v) ∈ y.otherUnits))

/-- R20, R62, R386, R389, R408: what is due from an earlier epoch lands at the Milestone: a tenant's state, a port's state,
an endpoint, a stream's start, the board's cap. -/
def Obligations.DueCommandsLandAtTheMilestone : Prop :=
  ∀ (s : State) (e : Nat) (d : Due), s.time.clockOn = true → s.due = [(e, d)] → e < s.time.epoch → s.tenants.length = 32 →
    s.ports.length = 8 → s.dma.streams.length = 264 → ∀ ecc, ∃ t, exec (.milestone ecc) s = .next t ∧
    (∀ k < 32, (d = .tenantState k 1 ∨ d = .tenantState k 4 → (t.tenant k).state = .enabled) ∧
      (d = .tenantState k 2 → (t.tenant k).state = .disabled) ∧ (d = .tenantState k 3 → (t.tenant k).state = .preempted)) ∧
    (∀ l < 8, (d = .portOpen l → (t.port l).mode = .opened) ∧ (d = .portDrain l → (t.port l).mode = .draining)) ∧
    (∀ i x, (d = .endpointAdd i x → kvGet t.endpoints i = some x) ∧ (d = .endpointRemove i → kvGet t.endpoints i = none)) ∧
    (∀ g < 264, d = .streamStart g → (t.stream g).mode = .running) ∧
    (∀ b, d = .boardCap b → s.boot.phase = .ready → t.disp.cap = min s.disp.driverCap b)
end

