-- ==== Sys2Proof/Laws/State.lean ====
section
/-! SUPPORT. One lemma per field of State per record update, true by rfl, so that no proof unfolds an update. -/

namespace Sys2Proof.Machine

variable (s : State)

/-! ## modPort -/

@[simp] theorem modPort_pending (l : Nat) (f : PortSt → PortSt) : (modPort l f s).pending = s.pending := rfl
@[simp] theorem modPort_time (l : Nat) (f : PortSt → PortSt) : (modPort l f s).time = s.time := rfl
@[simp] theorem modPort_boot (l : Nat) (f : PortSt → PortSt) : (modPort l f s).boot = s.boot := rfl
@[simp] theorem modPort_ports (l : Nat) (f : PortSt → PortSt) : (modPort l f s).ports = s.ports.modify l f := rfl
@[simp] theorem modPort_eth (l : Nat) (f : PortSt → PortSt) : (modPort l f s).eth = s.eth := rfl
@[simp] theorem modPort_endpoints (l : Nat) (f : PortSt → PortSt) : (modPort l f s).endpoints = s.endpoints := rfl
@[simp] theorem modPort_ctr (l : Nat) (f : PortSt → PortSt) : (modPort l f s).ctr = s.ctr := rfl
@[simp] theorem modPort_ctxs (l : Nat) (f : PortSt → PortSt) : (modPort l f s).ctxs = s.ctxs := rfl
@[simp] theorem modPort_freeCtx (l : Nat) (f : PortSt → PortSt) : (modPort l f s).freeCtx = s.freeCtx := rfl
@[simp] theorem modPort_trhQ (l : Nat) (f : PortSt → PortSt) : (modPort l f s).trhQ = s.trhQ := rfl
@[simp] theorem modPort_stats (l : Nat) (f : PortSt → PortSt) : (modPort l f s).stats = s.stats := rfl
@[simp] theorem modPort_banks (l : Nat) (f : PortSt → PortSt) : (modPort l f s).banks = s.banks := rfl
@[simp] theorem modPort_walkers (l : Nat) (f : PortSt → PortSt) : (modPort l f s).walkers = s.walkers := rfl
@[simp] theorem modPort_progs (l : Nat) (f : PortSt → PortSt) : (modPort l f s).progs = s.progs := rfl
@[simp] theorem modPort_ridges (l : Nat) (f : PortSt → PortSt) : (modPort l f s).ridges = s.ridges := rfl
@[simp] theorem modPort_slots (l : Nat) (f : PortSt → PortSt) : (modPort l f s).slots = s.slots := rfl
@[simp] theorem modPort_rows (l : Nat) (f : PortSt → PortSt) : (modPort l f s).rows = s.rows := rfl
@[simp] theorem modPort_restoring (l : Nat) (f : PortSt → PortSt) : (modPort l f s).restoring = s.restoring := rfl
@[simp] theorem modPort_crnPort (l : Nat) (f : PortSt → PortSt) : (modPort l f s).crnPort = s.crnPort := rfl
@[simp] theorem modPort_returned (l : Nat) (f : PortSt → PortSt) : (modPort l f s).returned = s.returned := rfl
@[simp] theorem modPort_disp (l : Nat) (f : PortSt → PortSt) : (modPort l f s).disp = s.disp := rfl
@[simp] theorem modPort_sensors (l : Nat) (f : PortSt → PortSt) : (modPort l f s).sensors = s.sensors := rfl
@[simp] theorem modPort_mem (l : Nat) (f : PortSt → PortSt) : (modPort l f s).mem = s.mem := rfl
@[simp] theorem modPort_models (l : Nat) (f : PortSt → PortSt) : (modPort l f s).models = s.models := rfl
@[simp] theorem modPort_nextModel (l : Nat) (f : PortSt → PortSt) : (modPort l f s).nextModel = s.nextModel := rfl
@[simp] theorem modPort_load (l : Nat) (f : PortSt → PortSt) : (modPort l f s).load = s.load := rfl
@[simp] theorem modPort_feedback (l : Nat) (f : PortSt → PortSt) : (modPort l f s).feedback = s.feedback := rfl
@[simp] theorem modPort_refits (l : Nat) (f : PortSt → PortSt) : (modPort l f s).refits = s.refits := rfl
@[simp] theorem modPort_searches (l : Nat) (f : PortSt → PortSt) : (modPort l f s).searches = s.searches := rfl
@[simp] theorem modPort_waymarks (l : Nat) (f : PortSt → PortSt) : (modPort l f s).waymarks = s.waymarks := rfl
@[simp] theorem modPort_wmkUnit (l : Nat) (f : PortSt → PortSt) : (modPort l f s).wmkUnit = s.wmkUnit := rfl
@[simp] theorem modPort_dma (l : Nat) (f : PortSt → PortSt) : (modPort l f s).dma = s.dma := rfl
@[simp] theorem modPort_zth (l : Nat) (f : PortSt → PortSt) : (modPort l f s).zth = s.zth := rfl
@[simp] theorem modPort_tenants (l : Nat) (f : PortSt → PortSt) : (modPort l f s).tenants = s.tenants := rfl
@[simp] theorem modPort_fns (l : Nat) (f : PortSt → PortSt) : (modPort l f s).fns = s.fns := rfl
@[simp] theorem modPort_taken (l : Nat) (f : PortSt → PortSt) : (modPort l f s).taken = s.taken := rfl
@[simp] theorem modPort_due (l : Nat) (f : PortSt → PortSt) : (modPort l f s).due = s.due := rfl
@[simp] theorem modPort_evBuf (l : Nat) (f : PortSt → PortSt) : (modPort l f s).evBuf = s.evBuf := rfl
@[simp] theorem modPort_evSeq (l : Nat) (f : PortSt → PortSt) : (modPort l f s).evSeq = s.evSeq := rfl
@[simp] theorem modPort_evLog (l : Nat) (f : PortSt → PortSt) : (modPort l f s).evLog = s.evLog := rfl
@[simp] theorem modPort_mismatches (l : Nat) (f : PortSt → PortSt) : (modPort l f s).mismatches = s.mismatches := rfl
@[simp] theorem modPort_releasing (l : Nat) (f : PortSt → PortSt) : (modPort l f s).releasing = s.releasing := rfl
@[simp] theorem modPort_out (l : Nat) (f : PortSt → PortSt) : (modPort l f s).out = s.out := rfl
@[simp] theorem modPort_freeIdx (l : Nat) (f : PortSt → PortSt) : (modPort l f s).freeIdx = s.freeIdx := rfl

/-! ## modBank -/

@[simp] theorem modBank_pending (b : Nat) (f : Bank → Bank) : (modBank b f s).pending = s.pending := rfl
@[simp] theorem modBank_time (b : Nat) (f : Bank → Bank) : (modBank b f s).time = s.time := rfl
@[simp] theorem modBank_boot (b : Nat) (f : Bank → Bank) : (modBank b f s).boot = s.boot := rfl
@[simp] theorem modBank_ports (b : Nat) (f : Bank → Bank) : (modBank b f s).ports = s.ports := rfl
@[simp] theorem modBank_eth (b : Nat) (f : Bank → Bank) : (modBank b f s).eth = s.eth := rfl
@[simp] theorem modBank_endpoints (b : Nat) (f : Bank → Bank) : (modBank b f s).endpoints = s.endpoints := rfl
@[simp] theorem modBank_ctr (b : Nat) (f : Bank → Bank) : (modBank b f s).ctr = s.ctr := rfl
@[simp] theorem modBank_ctxs (b : Nat) (f : Bank → Bank) : (modBank b f s).ctxs = s.ctxs := rfl
@[simp] theorem modBank_freeCtx (b : Nat) (f : Bank → Bank) : (modBank b f s).freeCtx = s.freeCtx := rfl
@[simp] theorem modBank_trhQ (b : Nat) (f : Bank → Bank) : (modBank b f s).trhQ = s.trhQ := rfl
@[simp] theorem modBank_stats (b : Nat) (f : Bank → Bank) : (modBank b f s).stats = s.stats := rfl
@[simp] theorem modBank_banks (b : Nat) (f : Bank → Bank) : (modBank b f s).banks = s.banks.modify b f := rfl
@[simp] theorem modBank_walkers (b : Nat) (f : Bank → Bank) : (modBank b f s).walkers = s.walkers := rfl
@[simp] theorem modBank_progs (b : Nat) (f : Bank → Bank) : (modBank b f s).progs = s.progs := rfl
@[simp] theorem modBank_ridges (b : Nat) (f : Bank → Bank) : (modBank b f s).ridges = s.ridges := rfl
@[simp] theorem modBank_slots (b : Nat) (f : Bank → Bank) : (modBank b f s).slots = s.slots := rfl
@[simp] theorem modBank_rows (b : Nat) (f : Bank → Bank) : (modBank b f s).rows = s.rows := rfl
@[simp] theorem modBank_restoring (b : Nat) (f : Bank → Bank) : (modBank b f s).restoring = s.restoring := rfl
@[simp] theorem modBank_crnPort (b : Nat) (f : Bank → Bank) : (modBank b f s).crnPort = s.crnPort := rfl
@[simp] theorem modBank_returned (b : Nat) (f : Bank → Bank) : (modBank b f s).returned = s.returned := rfl
@[simp] theorem modBank_disp (b : Nat) (f : Bank → Bank) : (modBank b f s).disp = s.disp := rfl
@[simp] theorem modBank_sensors (b : Nat) (f : Bank → Bank) : (modBank b f s).sensors = s.sensors := rfl
@[simp] theorem modBank_mem (b : Nat) (f : Bank → Bank) : (modBank b f s).mem = s.mem := rfl
@[simp] theorem modBank_models (b : Nat) (f : Bank → Bank) : (modBank b f s).models = s.models := rfl
@[simp] theorem modBank_nextModel (b : Nat) (f : Bank → Bank) : (modBank b f s).nextModel = s.nextModel := rfl
@[simp] theorem modBank_load (b : Nat) (f : Bank → Bank) : (modBank b f s).load = s.load := rfl
@[simp] theorem modBank_feedback (b : Nat) (f : Bank → Bank) : (modBank b f s).feedback = s.feedback := rfl
@[simp] theorem modBank_refits (b : Nat) (f : Bank → Bank) : (modBank b f s).refits = s.refits := rfl
@[simp] theorem modBank_searches (b : Nat) (f : Bank → Bank) : (modBank b f s).searches = s.searches := rfl
@[simp] theorem modBank_waymarks (b : Nat) (f : Bank → Bank) : (modBank b f s).waymarks = s.waymarks := rfl
@[simp] theorem modBank_wmkUnit (b : Nat) (f : Bank → Bank) : (modBank b f s).wmkUnit = s.wmkUnit := rfl
@[simp] theorem modBank_dma (b : Nat) (f : Bank → Bank) : (modBank b f s).dma = s.dma := rfl
@[simp] theorem modBank_zth (b : Nat) (f : Bank → Bank) : (modBank b f s).zth = s.zth := rfl
@[simp] theorem modBank_tenants (b : Nat) (f : Bank → Bank) : (modBank b f s).tenants = s.tenants := rfl
@[simp] theorem modBank_fns (b : Nat) (f : Bank → Bank) : (modBank b f s).fns = s.fns := rfl
@[simp] theorem modBank_taken (b : Nat) (f : Bank → Bank) : (modBank b f s).taken = s.taken := rfl
@[simp] theorem modBank_due (b : Nat) (f : Bank → Bank) : (modBank b f s).due = s.due := rfl
@[simp] theorem modBank_evBuf (b : Nat) (f : Bank → Bank) : (modBank b f s).evBuf = s.evBuf := rfl
@[simp] theorem modBank_evSeq (b : Nat) (f : Bank → Bank) : (modBank b f s).evSeq = s.evSeq := rfl
@[simp] theorem modBank_evLog (b : Nat) (f : Bank → Bank) : (modBank b f s).evLog = s.evLog := rfl
@[simp] theorem modBank_mismatches (b : Nat) (f : Bank → Bank) : (modBank b f s).mismatches = s.mismatches := rfl
@[simp] theorem modBank_releasing (b : Nat) (f : Bank → Bank) : (modBank b f s).releasing = s.releasing := rfl
@[simp] theorem modBank_out (b : Nat) (f : Bank → Bank) : (modBank b f s).out = s.out := rfl
@[simp] theorem modBank_freeIdx (b : Nat) (f : Bank → Bank) : (modBank b f s).freeIdx = s.freeIdx := rfl

/-! ## modWalker -/

@[simp] theorem modWalker_pending (w : Nat) (f : Walker → Walker) : (modWalker w f s).pending = s.pending := rfl
@[simp] theorem modWalker_time (w : Nat) (f : Walker → Walker) : (modWalker w f s).time = s.time := rfl
@[simp] theorem modWalker_boot (w : Nat) (f : Walker → Walker) : (modWalker w f s).boot = s.boot := rfl
@[simp] theorem modWalker_ports (w : Nat) (f : Walker → Walker) : (modWalker w f s).ports = s.ports := rfl
@[simp] theorem modWalker_eth (w : Nat) (f : Walker → Walker) : (modWalker w f s).eth = s.eth := rfl
@[simp] theorem modWalker_endpoints (w : Nat) (f : Walker → Walker) : (modWalker w f s).endpoints = s.endpoints := rfl
@[simp] theorem modWalker_ctr (w : Nat) (f : Walker → Walker) : (modWalker w f s).ctr = s.ctr := rfl
@[simp] theorem modWalker_ctxs (w : Nat) (f : Walker → Walker) : (modWalker w f s).ctxs = s.ctxs := rfl
@[simp] theorem modWalker_freeCtx (w : Nat) (f : Walker → Walker) : (modWalker w f s).freeCtx = s.freeCtx := rfl
@[simp] theorem modWalker_trhQ (w : Nat) (f : Walker → Walker) : (modWalker w f s).trhQ = s.trhQ := rfl
@[simp] theorem modWalker_stats (w : Nat) (f : Walker → Walker) : (modWalker w f s).stats = s.stats := rfl
@[simp] theorem modWalker_banks (w : Nat) (f : Walker → Walker) : (modWalker w f s).banks = s.banks := rfl
@[simp] theorem modWalker_walkers (w : Nat) (f : Walker → Walker) : (modWalker w f s).walkers = s.walkers.modify w f := rfl
@[simp] theorem modWalker_progs (w : Nat) (f : Walker → Walker) : (modWalker w f s).progs = s.progs := rfl
@[simp] theorem modWalker_ridges (w : Nat) (f : Walker → Walker) : (modWalker w f s).ridges = s.ridges := rfl
@[simp] theorem modWalker_slots (w : Nat) (f : Walker → Walker) : (modWalker w f s).slots = s.slots := rfl
@[simp] theorem modWalker_rows (w : Nat) (f : Walker → Walker) : (modWalker w f s).rows = s.rows := rfl
@[simp] theorem modWalker_restoring (w : Nat) (f : Walker → Walker) : (modWalker w f s).restoring = s.restoring := rfl
@[simp] theorem modWalker_crnPort (w : Nat) (f : Walker → Walker) : (modWalker w f s).crnPort = s.crnPort := rfl
@[simp] theorem modWalker_returned (w : Nat) (f : Walker → Walker) : (modWalker w f s).returned = s.returned := rfl
@[simp] theorem modWalker_disp (w : Nat) (f : Walker → Walker) : (modWalker w f s).disp = s.disp := rfl
@[simp] theorem modWalker_sensors (w : Nat) (f : Walker → Walker) : (modWalker w f s).sensors = s.sensors := rfl
@[simp] theorem modWalker_mem (w : Nat) (f : Walker → Walker) : (modWalker w f s).mem = s.mem := rfl
@[simp] theorem modWalker_models (w : Nat) (f : Walker → Walker) : (modWalker w f s).models = s.models := rfl
@[simp] theorem modWalker_nextModel (w : Nat) (f : Walker → Walker) : (modWalker w f s).nextModel = s.nextModel := rfl
@[simp] theorem modWalker_load (w : Nat) (f : Walker → Walker) : (modWalker w f s).load = s.load := rfl
@[simp] theorem modWalker_feedback (w : Nat) (f : Walker → Walker) : (modWalker w f s).feedback = s.feedback := rfl
@[simp] theorem modWalker_refits (w : Nat) (f : Walker → Walker) : (modWalker w f s).refits = s.refits := rfl
@[simp] theorem modWalker_searches (w : Nat) (f : Walker → Walker) : (modWalker w f s).searches = s.searches := rfl
@[simp] theorem modWalker_waymarks (w : Nat) (f : Walker → Walker) : (modWalker w f s).waymarks = s.waymarks := rfl
@[simp] theorem modWalker_wmkUnit (w : Nat) (f : Walker → Walker) : (modWalker w f s).wmkUnit = s.wmkUnit := rfl
@[simp] theorem modWalker_dma (w : Nat) (f : Walker → Walker) : (modWalker w f s).dma = s.dma := rfl
@[simp] theorem modWalker_zth (w : Nat) (f : Walker → Walker) : (modWalker w f s).zth = s.zth := rfl
@[simp] theorem modWalker_tenants (w : Nat) (f : Walker → Walker) : (modWalker w f s).tenants = s.tenants := rfl
@[simp] theorem modWalker_fns (w : Nat) (f : Walker → Walker) : (modWalker w f s).fns = s.fns := rfl
@[simp] theorem modWalker_taken (w : Nat) (f : Walker → Walker) : (modWalker w f s).taken = s.taken := rfl
@[simp] theorem modWalker_due (w : Nat) (f : Walker → Walker) : (modWalker w f s).due = s.due := rfl
@[simp] theorem modWalker_evBuf (w : Nat) (f : Walker → Walker) : (modWalker w f s).evBuf = s.evBuf := rfl
@[simp] theorem modWalker_evSeq (w : Nat) (f : Walker → Walker) : (modWalker w f s).evSeq = s.evSeq := rfl
@[simp] theorem modWalker_evLog (w : Nat) (f : Walker → Walker) : (modWalker w f s).evLog = s.evLog := rfl
@[simp] theorem modWalker_mismatches (w : Nat) (f : Walker → Walker) : (modWalker w f s).mismatches = s.mismatches := rfl
@[simp] theorem modWalker_releasing (w : Nat) (f : Walker → Walker) : (modWalker w f s).releasing = s.releasing := rfl
@[simp] theorem modWalker_out (w : Nat) (f : Walker → Walker) : (modWalker w f s).out = s.out := rfl
@[simp] theorem modWalker_freeIdx (w : Nat) (f : Walker → Walker) : (modWalker w f s).freeIdx = s.freeIdx := rfl

/-! ## modRidge -/

@[simp] theorem modRidge_pending (r : Nat) (f : Ridge → Ridge) : (modRidge r f s).pending = s.pending := rfl
@[simp] theorem modRidge_time (r : Nat) (f : Ridge → Ridge) : (modRidge r f s).time = s.time := rfl
@[simp] theorem modRidge_boot (r : Nat) (f : Ridge → Ridge) : (modRidge r f s).boot = s.boot := rfl
@[simp] theorem modRidge_ports (r : Nat) (f : Ridge → Ridge) : (modRidge r f s).ports = s.ports := rfl
@[simp] theorem modRidge_eth (r : Nat) (f : Ridge → Ridge) : (modRidge r f s).eth = s.eth := rfl
@[simp] theorem modRidge_endpoints (r : Nat) (f : Ridge → Ridge) : (modRidge r f s).endpoints = s.endpoints := rfl
@[simp] theorem modRidge_ctr (r : Nat) (f : Ridge → Ridge) : (modRidge r f s).ctr = s.ctr := rfl
@[simp] theorem modRidge_ctxs (r : Nat) (f : Ridge → Ridge) : (modRidge r f s).ctxs = s.ctxs := rfl
@[simp] theorem modRidge_freeCtx (r : Nat) (f : Ridge → Ridge) : (modRidge r f s).freeCtx = s.freeCtx := rfl
@[simp] theorem modRidge_trhQ (r : Nat) (f : Ridge → Ridge) : (modRidge r f s).trhQ = s.trhQ := rfl
@[simp] theorem modRidge_stats (r : Nat) (f : Ridge → Ridge) : (modRidge r f s).stats = s.stats := rfl
@[simp] theorem modRidge_banks (r : Nat) (f : Ridge → Ridge) : (modRidge r f s).banks = s.banks := rfl
@[simp] theorem modRidge_walkers (r : Nat) (f : Ridge → Ridge) : (modRidge r f s).walkers = s.walkers := rfl
@[simp] theorem modRidge_progs (r : Nat) (f : Ridge → Ridge) : (modRidge r f s).progs = s.progs := rfl
@[simp] theorem modRidge_ridges (r : Nat) (f : Ridge → Ridge) : (modRidge r f s).ridges = s.ridges.modify r f := rfl
@[simp] theorem modRidge_slots (r : Nat) (f : Ridge → Ridge) : (modRidge r f s).slots = s.slots := rfl
@[simp] theorem modRidge_rows (r : Nat) (f : Ridge → Ridge) : (modRidge r f s).rows = s.rows := rfl
@[simp] theorem modRidge_restoring (r : Nat) (f : Ridge → Ridge) : (modRidge r f s).restoring = s.restoring := rfl
@[simp] theorem modRidge_crnPort (r : Nat) (f : Ridge → Ridge) : (modRidge r f s).crnPort = s.crnPort := rfl
@[simp] theorem modRidge_returned (r : Nat) (f : Ridge → Ridge) : (modRidge r f s).returned = s.returned := rfl
@[simp] theorem modRidge_disp (r : Nat) (f : Ridge → Ridge) : (modRidge r f s).disp = s.disp := rfl
@[simp] theorem modRidge_sensors (r : Nat) (f : Ridge → Ridge) : (modRidge r f s).sensors = s.sensors := rfl
@[simp] theorem modRidge_mem (r : Nat) (f : Ridge → Ridge) : (modRidge r f s).mem = s.mem := rfl
@[simp] theorem modRidge_models (r : Nat) (f : Ridge → Ridge) : (modRidge r f s).models = s.models := rfl
@[simp] theorem modRidge_nextModel (r : Nat) (f : Ridge → Ridge) : (modRidge r f s).nextModel = s.nextModel := rfl
@[simp] theorem modRidge_load (r : Nat) (f : Ridge → Ridge) : (modRidge r f s).load = s.load := rfl
@[simp] theorem modRidge_feedback (r : Nat) (f : Ridge → Ridge) : (modRidge r f s).feedback = s.feedback := rfl
@[simp] theorem modRidge_refits (r : Nat) (f : Ridge → Ridge) : (modRidge r f s).refits = s.refits := rfl
@[simp] theorem modRidge_searches (r : Nat) (f : Ridge → Ridge) : (modRidge r f s).searches = s.searches := rfl
@[simp] theorem modRidge_waymarks (r : Nat) (f : Ridge → Ridge) : (modRidge r f s).waymarks = s.waymarks := rfl
@[simp] theorem modRidge_wmkUnit (r : Nat) (f : Ridge → Ridge) : (modRidge r f s).wmkUnit = s.wmkUnit := rfl
@[simp] theorem modRidge_dma (r : Nat) (f : Ridge → Ridge) : (modRidge r f s).dma = s.dma := rfl
@[simp] theorem modRidge_zth (r : Nat) (f : Ridge → Ridge) : (modRidge r f s).zth = s.zth := rfl
@[simp] theorem modRidge_tenants (r : Nat) (f : Ridge → Ridge) : (modRidge r f s).tenants = s.tenants := rfl
@[simp] theorem modRidge_fns (r : Nat) (f : Ridge → Ridge) : (modRidge r f s).fns = s.fns := rfl
@[simp] theorem modRidge_taken (r : Nat) (f : Ridge → Ridge) : (modRidge r f s).taken = s.taken := rfl
@[simp] theorem modRidge_due (r : Nat) (f : Ridge → Ridge) : (modRidge r f s).due = s.due := rfl
@[simp] theorem modRidge_evBuf (r : Nat) (f : Ridge → Ridge) : (modRidge r f s).evBuf = s.evBuf := rfl
@[simp] theorem modRidge_evSeq (r : Nat) (f : Ridge → Ridge) : (modRidge r f s).evSeq = s.evSeq := rfl
@[simp] theorem modRidge_evLog (r : Nat) (f : Ridge → Ridge) : (modRidge r f s).evLog = s.evLog := rfl
@[simp] theorem modRidge_mismatches (r : Nat) (f : Ridge → Ridge) : (modRidge r f s).mismatches = s.mismatches := rfl
@[simp] theorem modRidge_releasing (r : Nat) (f : Ridge → Ridge) : (modRidge r f s).releasing = s.releasing := rfl
@[simp] theorem modRidge_out (r : Nat) (f : Ridge → Ridge) : (modRidge r f s).out = s.out := rfl
@[simp] theorem modRidge_freeIdx (r : Nat) (f : Ridge → Ridge) : (modRidge r f s).freeIdx = s.freeIdx := rfl

/-! ## modZth -/

@[simp] theorem modZth_pending (f : ZthSt → ZthSt) : (modZth f s).pending = s.pending := rfl
@[simp] theorem modZth_time (f : ZthSt → ZthSt) : (modZth f s).time = s.time := rfl
@[simp] theorem modZth_boot (f : ZthSt → ZthSt) : (modZth f s).boot = s.boot := rfl
@[simp] theorem modZth_ports (f : ZthSt → ZthSt) : (modZth f s).ports = s.ports := rfl
@[simp] theorem modZth_eth (f : ZthSt → ZthSt) : (modZth f s).eth = s.eth := rfl
@[simp] theorem modZth_endpoints (f : ZthSt → ZthSt) : (modZth f s).endpoints = s.endpoints := rfl
@[simp] theorem modZth_ctr (f : ZthSt → ZthSt) : (modZth f s).ctr = s.ctr := rfl
@[simp] theorem modZth_ctxs (f : ZthSt → ZthSt) : (modZth f s).ctxs = s.ctxs := rfl
@[simp] theorem modZth_freeCtx (f : ZthSt → ZthSt) : (modZth f s).freeCtx = s.freeCtx := rfl
@[simp] theorem modZth_trhQ (f : ZthSt → ZthSt) : (modZth f s).trhQ = s.trhQ := rfl
@[simp] theorem modZth_stats (f : ZthSt → ZthSt) : (modZth f s).stats = s.stats := rfl
@[simp] theorem modZth_banks (f : ZthSt → ZthSt) : (modZth f s).banks = s.banks := rfl
@[simp] theorem modZth_walkers (f : ZthSt → ZthSt) : (modZth f s).walkers = s.walkers := rfl
@[simp] theorem modZth_progs (f : ZthSt → ZthSt) : (modZth f s).progs = s.progs := rfl
@[simp] theorem modZth_ridges (f : ZthSt → ZthSt) : (modZth f s).ridges = s.ridges := rfl
@[simp] theorem modZth_slots (f : ZthSt → ZthSt) : (modZth f s).slots = s.slots := rfl
@[simp] theorem modZth_rows (f : ZthSt → ZthSt) : (modZth f s).rows = s.rows := rfl
@[simp] theorem modZth_restoring (f : ZthSt → ZthSt) : (modZth f s).restoring = s.restoring := rfl
@[simp] theorem modZth_crnPort (f : ZthSt → ZthSt) : (modZth f s).crnPort = s.crnPort := rfl
@[simp] theorem modZth_returned (f : ZthSt → ZthSt) : (modZth f s).returned = s.returned := rfl
@[simp] theorem modZth_disp (f : ZthSt → ZthSt) : (modZth f s).disp = s.disp := rfl
@[simp] theorem modZth_sensors (f : ZthSt → ZthSt) : (modZth f s).sensors = s.sensors := rfl
@[simp] theorem modZth_mem (f : ZthSt → ZthSt) : (modZth f s).mem = s.mem := rfl
@[simp] theorem modZth_models (f : ZthSt → ZthSt) : (modZth f s).models = s.models := rfl
@[simp] theorem modZth_nextModel (f : ZthSt → ZthSt) : (modZth f s).nextModel = s.nextModel := rfl
@[simp] theorem modZth_load (f : ZthSt → ZthSt) : (modZth f s).load = s.load := rfl
@[simp] theorem modZth_feedback (f : ZthSt → ZthSt) : (modZth f s).feedback = s.feedback := rfl
@[simp] theorem modZth_refits (f : ZthSt → ZthSt) : (modZth f s).refits = s.refits := rfl
@[simp] theorem modZth_searches (f : ZthSt → ZthSt) : (modZth f s).searches = s.searches := rfl
@[simp] theorem modZth_waymarks (f : ZthSt → ZthSt) : (modZth f s).waymarks = s.waymarks := rfl
@[simp] theorem modZth_wmkUnit (f : ZthSt → ZthSt) : (modZth f s).wmkUnit = s.wmkUnit := rfl
@[simp] theorem modZth_dma (f : ZthSt → ZthSt) : (modZth f s).dma = s.dma := rfl
@[simp] theorem modZth_zth (f : ZthSt → ZthSt) : (modZth f s).zth = f s.zth := rfl
@[simp] theorem modZth_tenants (f : ZthSt → ZthSt) : (modZth f s).tenants = s.tenants := rfl
@[simp] theorem modZth_fns (f : ZthSt → ZthSt) : (modZth f s).fns = s.fns := rfl
@[simp] theorem modZth_taken (f : ZthSt → ZthSt) : (modZth f s).taken = s.taken := rfl
@[simp] theorem modZth_due (f : ZthSt → ZthSt) : (modZth f s).due = s.due := rfl
@[simp] theorem modZth_evBuf (f : ZthSt → ZthSt) : (modZth f s).evBuf = s.evBuf := rfl
@[simp] theorem modZth_evSeq (f : ZthSt → ZthSt) : (modZth f s).evSeq = s.evSeq := rfl
@[simp] theorem modZth_evLog (f : ZthSt → ZthSt) : (modZth f s).evLog = s.evLog := rfl
@[simp] theorem modZth_mismatches (f : ZthSt → ZthSt) : (modZth f s).mismatches = s.mismatches := rfl
@[simp] theorem modZth_releasing (f : ZthSt → ZthSt) : (modZth f s).releasing = s.releasing := rfl
@[simp] theorem modZth_out (f : ZthSt → ZthSt) : (modZth f s).out = s.out := rfl
@[simp] theorem modZth_freeIdx (f : ZthSt → ZthSt) : (modZth f s).freeIdx = s.freeIdx := rfl

/-! ## modSaddle -/

@[simp] theorem modSaddle_pending (i : Nat) (f : Saddle → Saddle) : (modSaddle i f s).pending = s.pending := rfl
@[simp] theorem modSaddle_time (i : Nat) (f : Saddle → Saddle) : (modSaddle i f s).time = s.time := rfl
@[simp] theorem modSaddle_boot (i : Nat) (f : Saddle → Saddle) : (modSaddle i f s).boot = s.boot := rfl
@[simp] theorem modSaddle_ports (i : Nat) (f : Saddle → Saddle) : (modSaddle i f s).ports = s.ports := rfl
@[simp] theorem modSaddle_eth (i : Nat) (f : Saddle → Saddle) : (modSaddle i f s).eth = s.eth := rfl
@[simp] theorem modSaddle_endpoints (i : Nat) (f : Saddle → Saddle) : (modSaddle i f s).endpoints = s.endpoints := rfl
@[simp] theorem modSaddle_ctr (i : Nat) (f : Saddle → Saddle) : (modSaddle i f s).ctr = s.ctr := rfl
@[simp] theorem modSaddle_ctxs (i : Nat) (f : Saddle → Saddle) : (modSaddle i f s).ctxs = s.ctxs := rfl
@[simp] theorem modSaddle_freeCtx (i : Nat) (f : Saddle → Saddle) : (modSaddle i f s).freeCtx = s.freeCtx := rfl
@[simp] theorem modSaddle_trhQ (i : Nat) (f : Saddle → Saddle) : (modSaddle i f s).trhQ = s.trhQ := rfl
@[simp] theorem modSaddle_stats (i : Nat) (f : Saddle → Saddle) : (modSaddle i f s).stats = s.stats := rfl
@[simp] theorem modSaddle_banks (i : Nat) (f : Saddle → Saddle) : (modSaddle i f s).banks = s.banks := rfl
@[simp] theorem modSaddle_walkers (i : Nat) (f : Saddle → Saddle) : (modSaddle i f s).walkers = s.walkers := rfl
@[simp] theorem modSaddle_progs (i : Nat) (f : Saddle → Saddle) : (modSaddle i f s).progs = s.progs := rfl
@[simp] theorem modSaddle_ridges (i : Nat) (f : Saddle → Saddle) : (modSaddle i f s).ridges = s.ridges := rfl
@[simp] theorem modSaddle_slots (i : Nat) (f : Saddle → Saddle) : (modSaddle i f s).slots = s.slots := rfl
@[simp] theorem modSaddle_rows (i : Nat) (f : Saddle → Saddle) : (modSaddle i f s).rows = s.rows := rfl
@[simp] theorem modSaddle_restoring (i : Nat) (f : Saddle → Saddle) : (modSaddle i f s).restoring = s.restoring := rfl
@[simp] theorem modSaddle_crnPort (i : Nat) (f : Saddle → Saddle) : (modSaddle i f s).crnPort = s.crnPort := rfl
@[simp] theorem modSaddle_returned (i : Nat) (f : Saddle → Saddle) : (modSaddle i f s).returned = s.returned := rfl
@[simp] theorem modSaddle_disp (i : Nat) (f : Saddle → Saddle) : (modSaddle i f s).disp = s.disp := rfl
@[simp] theorem modSaddle_sensors (i : Nat) (f : Saddle → Saddle) : (modSaddle i f s).sensors = s.sensors := rfl
@[simp] theorem modSaddle_mem (i : Nat) (f : Saddle → Saddle) : (modSaddle i f s).mem = s.mem := rfl
@[simp] theorem modSaddle_models (i : Nat) (f : Saddle → Saddle) : (modSaddle i f s).models = s.models := rfl
@[simp] theorem modSaddle_nextModel (i : Nat) (f : Saddle → Saddle) : (modSaddle i f s).nextModel = s.nextModel := rfl
@[simp] theorem modSaddle_load (i : Nat) (f : Saddle → Saddle) : (modSaddle i f s).load = s.load := rfl
@[simp] theorem modSaddle_feedback (i : Nat) (f : Saddle → Saddle) : (modSaddle i f s).feedback = s.feedback := rfl
@[simp] theorem modSaddle_refits (i : Nat) (f : Saddle → Saddle) : (modSaddle i f s).refits = s.refits := rfl
@[simp] theorem modSaddle_searches (i : Nat) (f : Saddle → Saddle) : (modSaddle i f s).searches = s.searches := rfl
@[simp] theorem modSaddle_waymarks (i : Nat) (f : Saddle → Saddle) : (modSaddle i f s).waymarks = s.waymarks := rfl
@[simp] theorem modSaddle_wmkUnit (i : Nat) (f : Saddle → Saddle) : (modSaddle i f s).wmkUnit = s.wmkUnit := rfl
@[simp] theorem modSaddle_dma (i : Nat) (f : Saddle → Saddle) : (modSaddle i f s).dma = s.dma := rfl
@[simp] theorem modSaddle_zth (i : Nat) (f : Saddle → Saddle) : (modSaddle i f s).zth = { s.zth with saddles := s.zth.saddles.modify i f } := rfl
@[simp] theorem modSaddle_tenants (i : Nat) (f : Saddle → Saddle) : (modSaddle i f s).tenants = s.tenants := rfl
@[simp] theorem modSaddle_fns (i : Nat) (f : Saddle → Saddle) : (modSaddle i f s).fns = s.fns := rfl
@[simp] theorem modSaddle_taken (i : Nat) (f : Saddle → Saddle) : (modSaddle i f s).taken = s.taken := rfl
@[simp] theorem modSaddle_due (i : Nat) (f : Saddle → Saddle) : (modSaddle i f s).due = s.due := rfl
@[simp] theorem modSaddle_evBuf (i : Nat) (f : Saddle → Saddle) : (modSaddle i f s).evBuf = s.evBuf := rfl
@[simp] theorem modSaddle_evSeq (i : Nat) (f : Saddle → Saddle) : (modSaddle i f s).evSeq = s.evSeq := rfl
@[simp] theorem modSaddle_evLog (i : Nat) (f : Saddle → Saddle) : (modSaddle i f s).evLog = s.evLog := rfl
@[simp] theorem modSaddle_mismatches (i : Nat) (f : Saddle → Saddle) : (modSaddle i f s).mismatches = s.mismatches := rfl
@[simp] theorem modSaddle_releasing (i : Nat) (f : Saddle → Saddle) : (modSaddle i f s).releasing = s.releasing := rfl
@[simp] theorem modSaddle_out (i : Nat) (f : Saddle → Saddle) : (modSaddle i f s).out = s.out := rfl
@[simp] theorem modSaddle_freeIdx (i : Nat) (f : Saddle → Saddle) : (modSaddle i f s).freeIdx = s.freeIdx := rfl

/-! ## modTenant -/

@[simp] theorem modTenant_pending (t : Nat) (f : Tenant → Tenant) : (modTenant t f s).pending = s.pending := rfl
@[simp] theorem modTenant_time (t : Nat) (f : Tenant → Tenant) : (modTenant t f s).time = s.time := rfl
@[simp] theorem modTenant_boot (t : Nat) (f : Tenant → Tenant) : (modTenant t f s).boot = s.boot := rfl
@[simp] theorem modTenant_ports (t : Nat) (f : Tenant → Tenant) : (modTenant t f s).ports = s.ports := rfl
@[simp] theorem modTenant_eth (t : Nat) (f : Tenant → Tenant) : (modTenant t f s).eth = s.eth := rfl
@[simp] theorem modTenant_endpoints (t : Nat) (f : Tenant → Tenant) : (modTenant t f s).endpoints = s.endpoints := rfl
@[simp] theorem modTenant_ctr (t : Nat) (f : Tenant → Tenant) : (modTenant t f s).ctr = s.ctr := rfl
@[simp] theorem modTenant_ctxs (t : Nat) (f : Tenant → Tenant) : (modTenant t f s).ctxs = s.ctxs := rfl
@[simp] theorem modTenant_freeCtx (t : Nat) (f : Tenant → Tenant) : (modTenant t f s).freeCtx = s.freeCtx := rfl
@[simp] theorem modTenant_trhQ (t : Nat) (f : Tenant → Tenant) : (modTenant t f s).trhQ = s.trhQ := rfl
@[simp] theorem modTenant_stats (t : Nat) (f : Tenant → Tenant) : (modTenant t f s).stats = s.stats := rfl
@[simp] theorem modTenant_banks (t : Nat) (f : Tenant → Tenant) : (modTenant t f s).banks = s.banks := rfl
@[simp] theorem modTenant_walkers (t : Nat) (f : Tenant → Tenant) : (modTenant t f s).walkers = s.walkers := rfl
@[simp] theorem modTenant_progs (t : Nat) (f : Tenant → Tenant) : (modTenant t f s).progs = s.progs := rfl
@[simp] theorem modTenant_ridges (t : Nat) (f : Tenant → Tenant) : (modTenant t f s).ridges = s.ridges := rfl
@[simp] theorem modTenant_slots (t : Nat) (f : Tenant → Tenant) : (modTenant t f s).slots = s.slots := rfl
@[simp] theorem modTenant_rows (t : Nat) (f : Tenant → Tenant) : (modTenant t f s).rows = s.rows := rfl
@[simp] theorem modTenant_restoring (t : Nat) (f : Tenant → Tenant) : (modTenant t f s).restoring = s.restoring := rfl
@[simp] theorem modTenant_crnPort (t : Nat) (f : Tenant → Tenant) : (modTenant t f s).crnPort = s.crnPort := rfl
@[simp] theorem modTenant_returned (t : Nat) (f : Tenant → Tenant) : (modTenant t f s).returned = s.returned := rfl
@[simp] theorem modTenant_disp (t : Nat) (f : Tenant → Tenant) : (modTenant t f s).disp = s.disp := rfl
@[simp] theorem modTenant_sensors (t : Nat) (f : Tenant → Tenant) : (modTenant t f s).sensors = s.sensors := rfl
@[simp] theorem modTenant_mem (t : Nat) (f : Tenant → Tenant) : (modTenant t f s).mem = s.mem := rfl
@[simp] theorem modTenant_models (t : Nat) (f : Tenant → Tenant) : (modTenant t f s).models = s.models := rfl
@[simp] theorem modTenant_nextModel (t : Nat) (f : Tenant → Tenant) : (modTenant t f s).nextModel = s.nextModel := rfl
@[simp] theorem modTenant_load (t : Nat) (f : Tenant → Tenant) : (modTenant t f s).load = s.load := rfl
@[simp] theorem modTenant_feedback (t : Nat) (f : Tenant → Tenant) : (modTenant t f s).feedback = s.feedback := rfl
@[simp] theorem modTenant_refits (t : Nat) (f : Tenant → Tenant) : (modTenant t f s).refits = s.refits := rfl
@[simp] theorem modTenant_searches (t : Nat) (f : Tenant → Tenant) : (modTenant t f s).searches = s.searches := rfl
@[simp] theorem modTenant_waymarks (t : Nat) (f : Tenant → Tenant) : (modTenant t f s).waymarks = s.waymarks := rfl
@[simp] theorem modTenant_wmkUnit (t : Nat) (f : Tenant → Tenant) : (modTenant t f s).wmkUnit = s.wmkUnit := rfl
@[simp] theorem modTenant_dma (t : Nat) (f : Tenant → Tenant) : (modTenant t f s).dma = s.dma := rfl
@[simp] theorem modTenant_zth (t : Nat) (f : Tenant → Tenant) : (modTenant t f s).zth = s.zth := rfl
@[simp] theorem modTenant_tenants (t : Nat) (f : Tenant → Tenant) : (modTenant t f s).tenants = s.tenants.modify t f := rfl
@[simp] theorem modTenant_fns (t : Nat) (f : Tenant → Tenant) : (modTenant t f s).fns = s.fns := rfl
@[simp] theorem modTenant_taken (t : Nat) (f : Tenant → Tenant) : (modTenant t f s).taken = s.taken := rfl
@[simp] theorem modTenant_due (t : Nat) (f : Tenant → Tenant) : (modTenant t f s).due = s.due := rfl
@[simp] theorem modTenant_evBuf (t : Nat) (f : Tenant → Tenant) : (modTenant t f s).evBuf = s.evBuf := rfl
@[simp] theorem modTenant_evSeq (t : Nat) (f : Tenant → Tenant) : (modTenant t f s).evSeq = s.evSeq := rfl
@[simp] theorem modTenant_evLog (t : Nat) (f : Tenant → Tenant) : (modTenant t f s).evLog = s.evLog := rfl
@[simp] theorem modTenant_mismatches (t : Nat) (f : Tenant → Tenant) : (modTenant t f s).mismatches = s.mismatches := rfl
@[simp] theorem modTenant_releasing (t : Nat) (f : Tenant → Tenant) : (modTenant t f s).releasing = s.releasing := rfl
@[simp] theorem modTenant_out (t : Nat) (f : Tenant → Tenant) : (modTenant t f s).out = s.out := rfl
@[simp] theorem modTenant_freeIdx (t : Nat) (f : Tenant → Tenant) : (modTenant t f s).freeIdx = s.freeIdx := rfl

/-! ## modFn -/

@[simp] theorem modFn_pending (i : Nat) (f : FnSt → FnSt) : (modFn i f s).pending = s.pending := rfl
@[simp] theorem modFn_time (i : Nat) (f : FnSt → FnSt) : (modFn i f s).time = s.time := rfl
@[simp] theorem modFn_boot (i : Nat) (f : FnSt → FnSt) : (modFn i f s).boot = s.boot := rfl
@[simp] theorem modFn_ports (i : Nat) (f : FnSt → FnSt) : (modFn i f s).ports = s.ports := rfl
@[simp] theorem modFn_eth (i : Nat) (f : FnSt → FnSt) : (modFn i f s).eth = s.eth := rfl
@[simp] theorem modFn_endpoints (i : Nat) (f : FnSt → FnSt) : (modFn i f s).endpoints = s.endpoints := rfl
@[simp] theorem modFn_ctr (i : Nat) (f : FnSt → FnSt) : (modFn i f s).ctr = s.ctr := rfl
@[simp] theorem modFn_ctxs (i : Nat) (f : FnSt → FnSt) : (modFn i f s).ctxs = s.ctxs := rfl
@[simp] theorem modFn_freeCtx (i : Nat) (f : FnSt → FnSt) : (modFn i f s).freeCtx = s.freeCtx := rfl
@[simp] theorem modFn_trhQ (i : Nat) (f : FnSt → FnSt) : (modFn i f s).trhQ = s.trhQ := rfl
@[simp] theorem modFn_stats (i : Nat) (f : FnSt → FnSt) : (modFn i f s).stats = s.stats := rfl
@[simp] theorem modFn_banks (i : Nat) (f : FnSt → FnSt) : (modFn i f s).banks = s.banks := rfl
@[simp] theorem modFn_walkers (i : Nat) (f : FnSt → FnSt) : (modFn i f s).walkers = s.walkers := rfl
@[simp] theorem modFn_progs (i : Nat) (f : FnSt → FnSt) : (modFn i f s).progs = s.progs := rfl
@[simp] theorem modFn_ridges (i : Nat) (f : FnSt → FnSt) : (modFn i f s).ridges = s.ridges := rfl
@[simp] theorem modFn_slots (i : Nat) (f : FnSt → FnSt) : (modFn i f s).slots = s.slots := rfl
@[simp] theorem modFn_rows (i : Nat) (f : FnSt → FnSt) : (modFn i f s).rows = s.rows := rfl
@[simp] theorem modFn_restoring (i : Nat) (f : FnSt → FnSt) : (modFn i f s).restoring = s.restoring := rfl
@[simp] theorem modFn_crnPort (i : Nat) (f : FnSt → FnSt) : (modFn i f s).crnPort = s.crnPort := rfl
@[simp] theorem modFn_returned (i : Nat) (f : FnSt → FnSt) : (modFn i f s).returned = s.returned := rfl
@[simp] theorem modFn_disp (i : Nat) (f : FnSt → FnSt) : (modFn i f s).disp = s.disp := rfl
@[simp] theorem modFn_sensors (i : Nat) (f : FnSt → FnSt) : (modFn i f s).sensors = s.sensors := rfl
@[simp] theorem modFn_mem (i : Nat) (f : FnSt → FnSt) : (modFn i f s).mem = s.mem := rfl
@[simp] theorem modFn_models (i : Nat) (f : FnSt → FnSt) : (modFn i f s).models = s.models := rfl
@[simp] theorem modFn_nextModel (i : Nat) (f : FnSt → FnSt) : (modFn i f s).nextModel = s.nextModel := rfl
@[simp] theorem modFn_load (i : Nat) (f : FnSt → FnSt) : (modFn i f s).load = s.load := rfl
@[simp] theorem modFn_feedback (i : Nat) (f : FnSt → FnSt) : (modFn i f s).feedback = s.feedback := rfl
@[simp] theorem modFn_refits (i : Nat) (f : FnSt → FnSt) : (modFn i f s).refits = s.refits := rfl
@[simp] theorem modFn_searches (i : Nat) (f : FnSt → FnSt) : (modFn i f s).searches = s.searches := rfl
@[simp] theorem modFn_waymarks (i : Nat) (f : FnSt → FnSt) : (modFn i f s).waymarks = s.waymarks := rfl
@[simp] theorem modFn_wmkUnit (i : Nat) (f : FnSt → FnSt) : (modFn i f s).wmkUnit = s.wmkUnit := rfl
@[simp] theorem modFn_dma (i : Nat) (f : FnSt → FnSt) : (modFn i f s).dma = s.dma := rfl
@[simp] theorem modFn_zth (i : Nat) (f : FnSt → FnSt) : (modFn i f s).zth = s.zth := rfl
@[simp] theorem modFn_tenants (i : Nat) (f : FnSt → FnSt) : (modFn i f s).tenants = s.tenants := rfl
@[simp] theorem modFn_fns (i : Nat) (f : FnSt → FnSt) : (modFn i f s).fns = s.fns.modify i f := rfl
@[simp] theorem modFn_taken (i : Nat) (f : FnSt → FnSt) : (modFn i f s).taken = s.taken := rfl
@[simp] theorem modFn_due (i : Nat) (f : FnSt → FnSt) : (modFn i f s).due = s.due := rfl
@[simp] theorem modFn_evBuf (i : Nat) (f : FnSt → FnSt) : (modFn i f s).evBuf = s.evBuf := rfl
@[simp] theorem modFn_evSeq (i : Nat) (f : FnSt → FnSt) : (modFn i f s).evSeq = s.evSeq := rfl
@[simp] theorem modFn_evLog (i : Nat) (f : FnSt → FnSt) : (modFn i f s).evLog = s.evLog := rfl
@[simp] theorem modFn_mismatches (i : Nat) (f : FnSt → FnSt) : (modFn i f s).mismatches = s.mismatches := rfl
@[simp] theorem modFn_releasing (i : Nat) (f : FnSt → FnSt) : (modFn i f s).releasing = s.releasing := rfl
@[simp] theorem modFn_out (i : Nat) (f : FnSt → FnSt) : (modFn i f s).out = s.out := rfl
@[simp] theorem modFn_freeIdx (i : Nat) (f : FnSt → FnSt) : (modFn i f s).freeIdx = s.freeIdx := rfl

/-! ## modMbx -/

@[simp] theorem modMbx_pending (i : Nat) (f : Mailbox → Mailbox) : (modMbx i f s).pending = s.pending := rfl
@[simp] theorem modMbx_time (i : Nat) (f : Mailbox → Mailbox) : (modMbx i f s).time = s.time := rfl
@[simp] theorem modMbx_boot (i : Nat) (f : Mailbox → Mailbox) : (modMbx i f s).boot = s.boot := rfl
@[simp] theorem modMbx_ports (i : Nat) (f : Mailbox → Mailbox) : (modMbx i f s).ports = s.ports := rfl
@[simp] theorem modMbx_eth (i : Nat) (f : Mailbox → Mailbox) : (modMbx i f s).eth = s.eth := rfl
@[simp] theorem modMbx_endpoints (i : Nat) (f : Mailbox → Mailbox) : (modMbx i f s).endpoints = s.endpoints := rfl
@[simp] theorem modMbx_ctr (i : Nat) (f : Mailbox → Mailbox) : (modMbx i f s).ctr = s.ctr := rfl
@[simp] theorem modMbx_ctxs (i : Nat) (f : Mailbox → Mailbox) : (modMbx i f s).ctxs = s.ctxs := rfl
@[simp] theorem modMbx_freeCtx (i : Nat) (f : Mailbox → Mailbox) : (modMbx i f s).freeCtx = s.freeCtx := rfl
@[simp] theorem modMbx_trhQ (i : Nat) (f : Mailbox → Mailbox) : (modMbx i f s).trhQ = s.trhQ := rfl
@[simp] theorem modMbx_stats (i : Nat) (f : Mailbox → Mailbox) : (modMbx i f s).stats = s.stats := rfl
@[simp] theorem modMbx_banks (i : Nat) (f : Mailbox → Mailbox) : (modMbx i f s).banks = s.banks := rfl
@[simp] theorem modMbx_walkers (i : Nat) (f : Mailbox → Mailbox) : (modMbx i f s).walkers = s.walkers := rfl
@[simp] theorem modMbx_progs (i : Nat) (f : Mailbox → Mailbox) : (modMbx i f s).progs = s.progs := rfl
@[simp] theorem modMbx_ridges (i : Nat) (f : Mailbox → Mailbox) : (modMbx i f s).ridges = s.ridges := rfl
@[simp] theorem modMbx_slots (i : Nat) (f : Mailbox → Mailbox) : (modMbx i f s).slots = s.slots := rfl
@[simp] theorem modMbx_rows (i : Nat) (f : Mailbox → Mailbox) : (modMbx i f s).rows = s.rows := rfl
@[simp] theorem modMbx_restoring (i : Nat) (f : Mailbox → Mailbox) : (modMbx i f s).restoring = s.restoring := rfl
@[simp] theorem modMbx_crnPort (i : Nat) (f : Mailbox → Mailbox) : (modMbx i f s).crnPort = s.crnPort := rfl
@[simp] theorem modMbx_returned (i : Nat) (f : Mailbox → Mailbox) : (modMbx i f s).returned = s.returned := rfl
@[simp] theorem modMbx_disp (i : Nat) (f : Mailbox → Mailbox) : (modMbx i f s).disp = s.disp := rfl
@[simp] theorem modMbx_sensors (i : Nat) (f : Mailbox → Mailbox) : (modMbx i f s).sensors = s.sensors := rfl
@[simp] theorem modMbx_mem (i : Nat) (f : Mailbox → Mailbox) : (modMbx i f s).mem = s.mem := rfl
@[simp] theorem modMbx_models (i : Nat) (f : Mailbox → Mailbox) : (modMbx i f s).models = s.models := rfl
@[simp] theorem modMbx_nextModel (i : Nat) (f : Mailbox → Mailbox) : (modMbx i f s).nextModel = s.nextModel := rfl
@[simp] theorem modMbx_load (i : Nat) (f : Mailbox → Mailbox) : (modMbx i f s).load = s.load := rfl
@[simp] theorem modMbx_feedback (i : Nat) (f : Mailbox → Mailbox) : (modMbx i f s).feedback = s.feedback := rfl
@[simp] theorem modMbx_refits (i : Nat) (f : Mailbox → Mailbox) : (modMbx i f s).refits = s.refits := rfl
@[simp] theorem modMbx_searches (i : Nat) (f : Mailbox → Mailbox) : (modMbx i f s).searches = s.searches := rfl
@[simp] theorem modMbx_waymarks (i : Nat) (f : Mailbox → Mailbox) : (modMbx i f s).waymarks = s.waymarks := rfl
@[simp] theorem modMbx_wmkUnit (i : Nat) (f : Mailbox → Mailbox) : (modMbx i f s).wmkUnit = s.wmkUnit := rfl
@[simp] theorem modMbx_dma (i : Nat) (f : Mailbox → Mailbox) : (modMbx i f s).dma = s.dma := rfl
@[simp] theorem modMbx_zth (i : Nat) (f : Mailbox → Mailbox) : (modMbx i f s).zth = s.zth := rfl
@[simp] theorem modMbx_tenants (i : Nat) (f : Mailbox → Mailbox) : (modMbx i f s).tenants = s.tenants := rfl
@[simp] theorem modMbx_fns (i : Nat) (f : Mailbox → Mailbox) : (modMbx i f s).fns = s.fns.modify i (fun x => { x with mbx := f x.mbx }) := rfl
@[simp] theorem modMbx_taken (i : Nat) (f : Mailbox → Mailbox) : (modMbx i f s).taken = s.taken := rfl
@[simp] theorem modMbx_due (i : Nat) (f : Mailbox → Mailbox) : (modMbx i f s).due = s.due := rfl
@[simp] theorem modMbx_evBuf (i : Nat) (f : Mailbox → Mailbox) : (modMbx i f s).evBuf = s.evBuf := rfl
@[simp] theorem modMbx_evSeq (i : Nat) (f : Mailbox → Mailbox) : (modMbx i f s).evSeq = s.evSeq := rfl
@[simp] theorem modMbx_evLog (i : Nat) (f : Mailbox → Mailbox) : (modMbx i f s).evLog = s.evLog := rfl
@[simp] theorem modMbx_mismatches (i : Nat) (f : Mailbox → Mailbox) : (modMbx i f s).mismatches = s.mismatches := rfl
@[simp] theorem modMbx_releasing (i : Nat) (f : Mailbox → Mailbox) : (modMbx i f s).releasing = s.releasing := rfl
@[simp] theorem modMbx_out (i : Nat) (f : Mailbox → Mailbox) : (modMbx i f s).out = s.out := rfl
@[simp] theorem modMbx_freeIdx (i : Nat) (f : Mailbox → Mailbox) : (modMbx i f s).freeIdx = s.freeIdx := rfl

/-! ## modDma -/

@[simp] theorem modDma_pending (f : DmaSt → DmaSt) : (modDma f s).pending = s.pending := rfl
@[simp] theorem modDma_time (f : DmaSt → DmaSt) : (modDma f s).time = s.time := rfl
@[simp] theorem modDma_boot (f : DmaSt → DmaSt) : (modDma f s).boot = s.boot := rfl
@[simp] theorem modDma_ports (f : DmaSt → DmaSt) : (modDma f s).ports = s.ports := rfl
@[simp] theorem modDma_eth (f : DmaSt → DmaSt) : (modDma f s).eth = s.eth := rfl
@[simp] theorem modDma_endpoints (f : DmaSt → DmaSt) : (modDma f s).endpoints = s.endpoints := rfl
@[simp] theorem modDma_ctr (f : DmaSt → DmaSt) : (modDma f s).ctr = s.ctr := rfl
@[simp] theorem modDma_ctxs (f : DmaSt → DmaSt) : (modDma f s).ctxs = s.ctxs := rfl
@[simp] theorem modDma_freeCtx (f : DmaSt → DmaSt) : (modDma f s).freeCtx = s.freeCtx := rfl
@[simp] theorem modDma_trhQ (f : DmaSt → DmaSt) : (modDma f s).trhQ = s.trhQ := rfl
@[simp] theorem modDma_stats (f : DmaSt → DmaSt) : (modDma f s).stats = s.stats := rfl
@[simp] theorem modDma_banks (f : DmaSt → DmaSt) : (modDma f s).banks = s.banks := rfl
@[simp] theorem modDma_walkers (f : DmaSt → DmaSt) : (modDma f s).walkers = s.walkers := rfl
@[simp] theorem modDma_progs (f : DmaSt → DmaSt) : (modDma f s).progs = s.progs := rfl
@[simp] theorem modDma_ridges (f : DmaSt → DmaSt) : (modDma f s).ridges = s.ridges := rfl
@[simp] theorem modDma_slots (f : DmaSt → DmaSt) : (modDma f s).slots = s.slots := rfl
@[simp] theorem modDma_rows (f : DmaSt → DmaSt) : (modDma f s).rows = s.rows := rfl
@[simp] theorem modDma_restoring (f : DmaSt → DmaSt) : (modDma f s).restoring = s.restoring := rfl
@[simp] theorem modDma_crnPort (f : DmaSt → DmaSt) : (modDma f s).crnPort = s.crnPort := rfl
@[simp] theorem modDma_returned (f : DmaSt → DmaSt) : (modDma f s).returned = s.returned := rfl
@[simp] theorem modDma_disp (f : DmaSt → DmaSt) : (modDma f s).disp = s.disp := rfl
@[simp] theorem modDma_sensors (f : DmaSt → DmaSt) : (modDma f s).sensors = s.sensors := rfl
@[simp] theorem modDma_mem (f : DmaSt → DmaSt) : (modDma f s).mem = s.mem := rfl
@[simp] theorem modDma_models (f : DmaSt → DmaSt) : (modDma f s).models = s.models := rfl
@[simp] theorem modDma_nextModel (f : DmaSt → DmaSt) : (modDma f s).nextModel = s.nextModel := rfl
@[simp] theorem modDma_load (f : DmaSt → DmaSt) : (modDma f s).load = s.load := rfl
@[simp] theorem modDma_feedback (f : DmaSt → DmaSt) : (modDma f s).feedback = s.feedback := rfl
@[simp] theorem modDma_refits (f : DmaSt → DmaSt) : (modDma f s).refits = s.refits := rfl
@[simp] theorem modDma_searches (f : DmaSt → DmaSt) : (modDma f s).searches = s.searches := rfl
@[simp] theorem modDma_waymarks (f : DmaSt → DmaSt) : (modDma f s).waymarks = s.waymarks := rfl
@[simp] theorem modDma_wmkUnit (f : DmaSt → DmaSt) : (modDma f s).wmkUnit = s.wmkUnit := rfl
@[simp] theorem modDma_dma (f : DmaSt → DmaSt) : (modDma f s).dma = f s.dma := rfl
@[simp] theorem modDma_zth (f : DmaSt → DmaSt) : (modDma f s).zth = s.zth := rfl
@[simp] theorem modDma_tenants (f : DmaSt → DmaSt) : (modDma f s).tenants = s.tenants := rfl
@[simp] theorem modDma_fns (f : DmaSt → DmaSt) : (modDma f s).fns = s.fns := rfl
@[simp] theorem modDma_taken (f : DmaSt → DmaSt) : (modDma f s).taken = s.taken := rfl
@[simp] theorem modDma_due (f : DmaSt → DmaSt) : (modDma f s).due = s.due := rfl
@[simp] theorem modDma_evBuf (f : DmaSt → DmaSt) : (modDma f s).evBuf = s.evBuf := rfl
@[simp] theorem modDma_evSeq (f : DmaSt → DmaSt) : (modDma f s).evSeq = s.evSeq := rfl
@[simp] theorem modDma_evLog (f : DmaSt → DmaSt) : (modDma f s).evLog = s.evLog := rfl
@[simp] theorem modDma_mismatches (f : DmaSt → DmaSt) : (modDma f s).mismatches = s.mismatches := rfl
@[simp] theorem modDma_releasing (f : DmaSt → DmaSt) : (modDma f s).releasing = s.releasing := rfl
@[simp] theorem modDma_out (f : DmaSt → DmaSt) : (modDma f s).out = s.out := rfl
@[simp] theorem modDma_freeIdx (f : DmaSt → DmaSt) : (modDma f s).freeIdx = s.freeIdx := rfl

/-! ## modStream -/

@[simp] theorem modStream_pending (g : Nat) (f : Stream → Stream) : (modStream g f s).pending = s.pending := rfl
@[simp] theorem modStream_time (g : Nat) (f : Stream → Stream) : (modStream g f s).time = s.time := rfl
@[simp] theorem modStream_boot (g : Nat) (f : Stream → Stream) : (modStream g f s).boot = s.boot := rfl
@[simp] theorem modStream_ports (g : Nat) (f : Stream → Stream) : (modStream g f s).ports = s.ports := rfl
@[simp] theorem modStream_eth (g : Nat) (f : Stream → Stream) : (modStream g f s).eth = s.eth := rfl
@[simp] theorem modStream_endpoints (g : Nat) (f : Stream → Stream) : (modStream g f s).endpoints = s.endpoints := rfl
@[simp] theorem modStream_ctr (g : Nat) (f : Stream → Stream) : (modStream g f s).ctr = s.ctr := rfl
@[simp] theorem modStream_ctxs (g : Nat) (f : Stream → Stream) : (modStream g f s).ctxs = s.ctxs := rfl
@[simp] theorem modStream_freeCtx (g : Nat) (f : Stream → Stream) : (modStream g f s).freeCtx = s.freeCtx := rfl
@[simp] theorem modStream_trhQ (g : Nat) (f : Stream → Stream) : (modStream g f s).trhQ = s.trhQ := rfl
@[simp] theorem modStream_stats (g : Nat) (f : Stream → Stream) : (modStream g f s).stats = s.stats := rfl
@[simp] theorem modStream_banks (g : Nat) (f : Stream → Stream) : (modStream g f s).banks = s.banks := rfl
@[simp] theorem modStream_walkers (g : Nat) (f : Stream → Stream) : (modStream g f s).walkers = s.walkers := rfl
@[simp] theorem modStream_progs (g : Nat) (f : Stream → Stream) : (modStream g f s).progs = s.progs := rfl
@[simp] theorem modStream_ridges (g : Nat) (f : Stream → Stream) : (modStream g f s).ridges = s.ridges := rfl
@[simp] theorem modStream_slots (g : Nat) (f : Stream → Stream) : (modStream g f s).slots = s.slots := rfl
@[simp] theorem modStream_rows (g : Nat) (f : Stream → Stream) : (modStream g f s).rows = s.rows := rfl
@[simp] theorem modStream_restoring (g : Nat) (f : Stream → Stream) : (modStream g f s).restoring = s.restoring := rfl
@[simp] theorem modStream_crnPort (g : Nat) (f : Stream → Stream) : (modStream g f s).crnPort = s.crnPort := rfl
@[simp] theorem modStream_returned (g : Nat) (f : Stream → Stream) : (modStream g f s).returned = s.returned := rfl
@[simp] theorem modStream_disp (g : Nat) (f : Stream → Stream) : (modStream g f s).disp = s.disp := rfl
@[simp] theorem modStream_sensors (g : Nat) (f : Stream → Stream) : (modStream g f s).sensors = s.sensors := rfl
@[simp] theorem modStream_mem (g : Nat) (f : Stream → Stream) : (modStream g f s).mem = s.mem := rfl
@[simp] theorem modStream_models (g : Nat) (f : Stream → Stream) : (modStream g f s).models = s.models := rfl
@[simp] theorem modStream_nextModel (g : Nat) (f : Stream → Stream) : (modStream g f s).nextModel = s.nextModel := rfl
@[simp] theorem modStream_load (g : Nat) (f : Stream → Stream) : (modStream g f s).load = s.load := rfl
@[simp] theorem modStream_feedback (g : Nat) (f : Stream → Stream) : (modStream g f s).feedback = s.feedback := rfl
@[simp] theorem modStream_refits (g : Nat) (f : Stream → Stream) : (modStream g f s).refits = s.refits := rfl
@[simp] theorem modStream_searches (g : Nat) (f : Stream → Stream) : (modStream g f s).searches = s.searches := rfl
@[simp] theorem modStream_waymarks (g : Nat) (f : Stream → Stream) : (modStream g f s).waymarks = s.waymarks := rfl
@[simp] theorem modStream_wmkUnit (g : Nat) (f : Stream → Stream) : (modStream g f s).wmkUnit = s.wmkUnit := rfl
@[simp] theorem modStream_dma (g : Nat) (f : Stream → Stream) : (modStream g f s).dma = { s.dma with streams := s.dma.streams.modify g f } := rfl
@[simp] theorem modStream_zth (g : Nat) (f : Stream → Stream) : (modStream g f s).zth = s.zth := rfl
@[simp] theorem modStream_tenants (g : Nat) (f : Stream → Stream) : (modStream g f s).tenants = s.tenants := rfl
@[simp] theorem modStream_fns (g : Nat) (f : Stream → Stream) : (modStream g f s).fns = s.fns := rfl
@[simp] theorem modStream_taken (g : Nat) (f : Stream → Stream) : (modStream g f s).taken = s.taken := rfl
@[simp] theorem modStream_due (g : Nat) (f : Stream → Stream) : (modStream g f s).due = s.due := rfl
@[simp] theorem modStream_evBuf (g : Nat) (f : Stream → Stream) : (modStream g f s).evBuf = s.evBuf := rfl
@[simp] theorem modStream_evSeq (g : Nat) (f : Stream → Stream) : (modStream g f s).evSeq = s.evSeq := rfl
@[simp] theorem modStream_evLog (g : Nat) (f : Stream → Stream) : (modStream g f s).evLog = s.evLog := rfl
@[simp] theorem modStream_mismatches (g : Nat) (f : Stream → Stream) : (modStream g f s).mismatches = s.mismatches := rfl
@[simp] theorem modStream_releasing (g : Nat) (f : Stream → Stream) : (modStream g f s).releasing = s.releasing := rfl
@[simp] theorem modStream_out (g : Nat) (f : Stream → Stream) : (modStream g f s).out = s.out := rfl
@[simp] theorem modStream_freeIdx (g : Nat) (f : Stream → Stream) : (modStream g f s).freeIdx = s.freeIdx := rfl

/-! ## modCtx -/

@[simp] theorem modCtx_pending (c : Nat) (f : RecCtx → RecCtx) : (modCtx c f s).pending = s.pending := rfl
@[simp] theorem modCtx_time (c : Nat) (f : RecCtx → RecCtx) : (modCtx c f s).time = s.time := rfl
@[simp] theorem modCtx_boot (c : Nat) (f : RecCtx → RecCtx) : (modCtx c f s).boot = s.boot := rfl
@[simp] theorem modCtx_ports (c : Nat) (f : RecCtx → RecCtx) : (modCtx c f s).ports = s.ports := rfl
@[simp] theorem modCtx_eth (c : Nat) (f : RecCtx → RecCtx) : (modCtx c f s).eth = s.eth := rfl
@[simp] theorem modCtx_endpoints (c : Nat) (f : RecCtx → RecCtx) : (modCtx c f s).endpoints = s.endpoints := rfl
@[simp] theorem modCtx_ctr (c : Nat) (f : RecCtx → RecCtx) : (modCtx c f s).ctr = s.ctr := rfl
@[simp] theorem modCtx_ctxs (c : Nat) (f : RecCtx → RecCtx) : (modCtx c f s).ctxs = kvMod s.ctxs c f := rfl
@[simp] theorem modCtx_freeCtx (c : Nat) (f : RecCtx → RecCtx) : (modCtx c f s).freeCtx = s.freeCtx := rfl
@[simp] theorem modCtx_trhQ (c : Nat) (f : RecCtx → RecCtx) : (modCtx c f s).trhQ = s.trhQ := rfl
@[simp] theorem modCtx_stats (c : Nat) (f : RecCtx → RecCtx) : (modCtx c f s).stats = s.stats := rfl
@[simp] theorem modCtx_banks (c : Nat) (f : RecCtx → RecCtx) : (modCtx c f s).banks = s.banks := rfl
@[simp] theorem modCtx_walkers (c : Nat) (f : RecCtx → RecCtx) : (modCtx c f s).walkers = s.walkers := rfl
@[simp] theorem modCtx_progs (c : Nat) (f : RecCtx → RecCtx) : (modCtx c f s).progs = s.progs := rfl
@[simp] theorem modCtx_ridges (c : Nat) (f : RecCtx → RecCtx) : (modCtx c f s).ridges = s.ridges := rfl
@[simp] theorem modCtx_slots (c : Nat) (f : RecCtx → RecCtx) : (modCtx c f s).slots = s.slots := rfl
@[simp] theorem modCtx_rows (c : Nat) (f : RecCtx → RecCtx) : (modCtx c f s).rows = s.rows := rfl
@[simp] theorem modCtx_restoring (c : Nat) (f : RecCtx → RecCtx) : (modCtx c f s).restoring = s.restoring := rfl
@[simp] theorem modCtx_crnPort (c : Nat) (f : RecCtx → RecCtx) : (modCtx c f s).crnPort = s.crnPort := rfl
@[simp] theorem modCtx_returned (c : Nat) (f : RecCtx → RecCtx) : (modCtx c f s).returned = s.returned := rfl
@[simp] theorem modCtx_disp (c : Nat) (f : RecCtx → RecCtx) : (modCtx c f s).disp = s.disp := rfl
@[simp] theorem modCtx_sensors (c : Nat) (f : RecCtx → RecCtx) : (modCtx c f s).sensors = s.sensors := rfl
@[simp] theorem modCtx_mem (c : Nat) (f : RecCtx → RecCtx) : (modCtx c f s).mem = s.mem := rfl
@[simp] theorem modCtx_models (c : Nat) (f : RecCtx → RecCtx) : (modCtx c f s).models = s.models := rfl
@[simp] theorem modCtx_nextModel (c : Nat) (f : RecCtx → RecCtx) : (modCtx c f s).nextModel = s.nextModel := rfl
@[simp] theorem modCtx_load (c : Nat) (f : RecCtx → RecCtx) : (modCtx c f s).load = s.load := rfl
@[simp] theorem modCtx_feedback (c : Nat) (f : RecCtx → RecCtx) : (modCtx c f s).feedback = s.feedback := rfl
@[simp] theorem modCtx_refits (c : Nat) (f : RecCtx → RecCtx) : (modCtx c f s).refits = s.refits := rfl
@[simp] theorem modCtx_searches (c : Nat) (f : RecCtx → RecCtx) : (modCtx c f s).searches = s.searches := rfl
@[simp] theorem modCtx_waymarks (c : Nat) (f : RecCtx → RecCtx) : (modCtx c f s).waymarks = s.waymarks := rfl
@[simp] theorem modCtx_wmkUnit (c : Nat) (f : RecCtx → RecCtx) : (modCtx c f s).wmkUnit = s.wmkUnit := rfl
@[simp] theorem modCtx_dma (c : Nat) (f : RecCtx → RecCtx) : (modCtx c f s).dma = s.dma := rfl
@[simp] theorem modCtx_zth (c : Nat) (f : RecCtx → RecCtx) : (modCtx c f s).zth = s.zth := rfl
@[simp] theorem modCtx_tenants (c : Nat) (f : RecCtx → RecCtx) : (modCtx c f s).tenants = s.tenants := rfl
@[simp] theorem modCtx_fns (c : Nat) (f : RecCtx → RecCtx) : (modCtx c f s).fns = s.fns := rfl
@[simp] theorem modCtx_taken (c : Nat) (f : RecCtx → RecCtx) : (modCtx c f s).taken = s.taken := rfl
@[simp] theorem modCtx_due (c : Nat) (f : RecCtx → RecCtx) : (modCtx c f s).due = s.due := rfl
@[simp] theorem modCtx_evBuf (c : Nat) (f : RecCtx → RecCtx) : (modCtx c f s).evBuf = s.evBuf := rfl
@[simp] theorem modCtx_evSeq (c : Nat) (f : RecCtx → RecCtx) : (modCtx c f s).evSeq = s.evSeq := rfl
@[simp] theorem modCtx_evLog (c : Nat) (f : RecCtx → RecCtx) : (modCtx c f s).evLog = s.evLog := rfl
@[simp] theorem modCtx_mismatches (c : Nat) (f : RecCtx → RecCtx) : (modCtx c f s).mismatches = s.mismatches := rfl
@[simp] theorem modCtx_releasing (c : Nat) (f : RecCtx → RecCtx) : (modCtx c f s).releasing = s.releasing := rfl
@[simp] theorem modCtx_out (c : Nat) (f : RecCtx → RecCtx) : (modCtx c f s).out = s.out := rfl
@[simp] theorem modCtx_freeIdx (c : Nat) (f : RecCtx → RecCtx) : (modCtx c f s).freeIdx = s.freeIdx := rfl

/-! ## setCtx -/

@[simp] theorem setCtx_pending (c : Nat) (r : RecCtx) : (setCtx c r s).pending = s.pending := rfl
@[simp] theorem setCtx_time (c : Nat) (r : RecCtx) : (setCtx c r s).time = s.time := rfl
@[simp] theorem setCtx_boot (c : Nat) (r : RecCtx) : (setCtx c r s).boot = s.boot := rfl
@[simp] theorem setCtx_ports (c : Nat) (r : RecCtx) : (setCtx c r s).ports = s.ports := rfl
@[simp] theorem setCtx_eth (c : Nat) (r : RecCtx) : (setCtx c r s).eth = s.eth := rfl
@[simp] theorem setCtx_endpoints (c : Nat) (r : RecCtx) : (setCtx c r s).endpoints = s.endpoints := rfl
@[simp] theorem setCtx_ctr (c : Nat) (r : RecCtx) : (setCtx c r s).ctr = s.ctr := rfl
@[simp] theorem setCtx_ctxs (c : Nat) (r : RecCtx) : (setCtx c r s).ctxs = kvSet s.ctxs c r := rfl
@[simp] theorem setCtx_freeCtx (c : Nat) (r : RecCtx) : (setCtx c r s).freeCtx = s.freeCtx := rfl
@[simp] theorem setCtx_trhQ (c : Nat) (r : RecCtx) : (setCtx c r s).trhQ = s.trhQ := rfl
@[simp] theorem setCtx_stats (c : Nat) (r : RecCtx) : (setCtx c r s).stats = s.stats := rfl
@[simp] theorem setCtx_banks (c : Nat) (r : RecCtx) : (setCtx c r s).banks = s.banks := rfl
@[simp] theorem setCtx_walkers (c : Nat) (r : RecCtx) : (setCtx c r s).walkers = s.walkers := rfl
@[simp] theorem setCtx_progs (c : Nat) (r : RecCtx) : (setCtx c r s).progs = s.progs := rfl
@[simp] theorem setCtx_ridges (c : Nat) (r : RecCtx) : (setCtx c r s).ridges = s.ridges := rfl
@[simp] theorem setCtx_slots (c : Nat) (r : RecCtx) : (setCtx c r s).slots = s.slots := rfl
@[simp] theorem setCtx_rows (c : Nat) (r : RecCtx) : (setCtx c r s).rows = s.rows := rfl
@[simp] theorem setCtx_restoring (c : Nat) (r : RecCtx) : (setCtx c r s).restoring = s.restoring := rfl
@[simp] theorem setCtx_crnPort (c : Nat) (r : RecCtx) : (setCtx c r s).crnPort = s.crnPort := rfl
@[simp] theorem setCtx_returned (c : Nat) (r : RecCtx) : (setCtx c r s).returned = s.returned := rfl
@[simp] theorem setCtx_disp (c : Nat) (r : RecCtx) : (setCtx c r s).disp = s.disp := rfl
@[simp] theorem setCtx_sensors (c : Nat) (r : RecCtx) : (setCtx c r s).sensors = s.sensors := rfl
@[simp] theorem setCtx_mem (c : Nat) (r : RecCtx) : (setCtx c r s).mem = s.mem := rfl
@[simp] theorem setCtx_models (c : Nat) (r : RecCtx) : (setCtx c r s).models = s.models := rfl
@[simp] theorem setCtx_nextModel (c : Nat) (r : RecCtx) : (setCtx c r s).nextModel = s.nextModel := rfl
@[simp] theorem setCtx_load (c : Nat) (r : RecCtx) : (setCtx c r s).load = s.load := rfl
@[simp] theorem setCtx_feedback (c : Nat) (r : RecCtx) : (setCtx c r s).feedback = s.feedback := rfl
@[simp] theorem setCtx_refits (c : Nat) (r : RecCtx) : (setCtx c r s).refits = s.refits := rfl
@[simp] theorem setCtx_searches (c : Nat) (r : RecCtx) : (setCtx c r s).searches = s.searches := rfl
@[simp] theorem setCtx_waymarks (c : Nat) (r : RecCtx) : (setCtx c r s).waymarks = s.waymarks := rfl
@[simp] theorem setCtx_wmkUnit (c : Nat) (r : RecCtx) : (setCtx c r s).wmkUnit = s.wmkUnit := rfl
@[simp] theorem setCtx_dma (c : Nat) (r : RecCtx) : (setCtx c r s).dma = s.dma := rfl
@[simp] theorem setCtx_zth (c : Nat) (r : RecCtx) : (setCtx c r s).zth = s.zth := rfl
@[simp] theorem setCtx_tenants (c : Nat) (r : RecCtx) : (setCtx c r s).tenants = s.tenants := rfl
@[simp] theorem setCtx_fns (c : Nat) (r : RecCtx) : (setCtx c r s).fns = s.fns := rfl
@[simp] theorem setCtx_taken (c : Nat) (r : RecCtx) : (setCtx c r s).taken = s.taken := rfl
@[simp] theorem setCtx_due (c : Nat) (r : RecCtx) : (setCtx c r s).due = s.due := rfl
@[simp] theorem setCtx_evBuf (c : Nat) (r : RecCtx) : (setCtx c r s).evBuf = s.evBuf := rfl
@[simp] theorem setCtx_evSeq (c : Nat) (r : RecCtx) : (setCtx c r s).evSeq = s.evSeq := rfl
@[simp] theorem setCtx_evLog (c : Nat) (r : RecCtx) : (setCtx c r s).evLog = s.evLog := rfl
@[simp] theorem setCtx_mismatches (c : Nat) (r : RecCtx) : (setCtx c r s).mismatches = s.mismatches := rfl
@[simp] theorem setCtx_releasing (c : Nat) (r : RecCtx) : (setCtx c r s).releasing = s.releasing := rfl
@[simp] theorem setCtx_out (c : Nat) (r : RecCtx) : (setCtx c r s).out = s.out := rfl
@[simp] theorem setCtx_freeIdx (c : Nat) (r : RecCtx) : (setCtx c r s).freeIdx = s.freeIdx := rfl

/-! ## modModel -/

@[simp] theorem modModel_pending (i : Nat) (f : Model → Model) : (modModel i f s).pending = s.pending := rfl
@[simp] theorem modModel_time (i : Nat) (f : Model → Model) : (modModel i f s).time = s.time := rfl
@[simp] theorem modModel_boot (i : Nat) (f : Model → Model) : (modModel i f s).boot = s.boot := rfl
@[simp] theorem modModel_ports (i : Nat) (f : Model → Model) : (modModel i f s).ports = s.ports := rfl
@[simp] theorem modModel_eth (i : Nat) (f : Model → Model) : (modModel i f s).eth = s.eth := rfl
@[simp] theorem modModel_endpoints (i : Nat) (f : Model → Model) : (modModel i f s).endpoints = s.endpoints := rfl
@[simp] theorem modModel_ctr (i : Nat) (f : Model → Model) : (modModel i f s).ctr = s.ctr := rfl
@[simp] theorem modModel_ctxs (i : Nat) (f : Model → Model) : (modModel i f s).ctxs = s.ctxs := rfl
@[simp] theorem modModel_freeCtx (i : Nat) (f : Model → Model) : (modModel i f s).freeCtx = s.freeCtx := rfl
@[simp] theorem modModel_trhQ (i : Nat) (f : Model → Model) : (modModel i f s).trhQ = s.trhQ := rfl
@[simp] theorem modModel_stats (i : Nat) (f : Model → Model) : (modModel i f s).stats = s.stats := rfl
@[simp] theorem modModel_banks (i : Nat) (f : Model → Model) : (modModel i f s).banks = s.banks := rfl
@[simp] theorem modModel_walkers (i : Nat) (f : Model → Model) : (modModel i f s).walkers = s.walkers := rfl
@[simp] theorem modModel_progs (i : Nat) (f : Model → Model) : (modModel i f s).progs = s.progs := rfl
@[simp] theorem modModel_ridges (i : Nat) (f : Model → Model) : (modModel i f s).ridges = s.ridges := rfl
@[simp] theorem modModel_slots (i : Nat) (f : Model → Model) : (modModel i f s).slots = s.slots := rfl
@[simp] theorem modModel_rows (i : Nat) (f : Model → Model) : (modModel i f s).rows = s.rows := rfl
@[simp] theorem modModel_restoring (i : Nat) (f : Model → Model) : (modModel i f s).restoring = s.restoring := rfl
@[simp] theorem modModel_crnPort (i : Nat) (f : Model → Model) : (modModel i f s).crnPort = s.crnPort := rfl
@[simp] theorem modModel_returned (i : Nat) (f : Model → Model) : (modModel i f s).returned = s.returned := rfl
@[simp] theorem modModel_disp (i : Nat) (f : Model → Model) : (modModel i f s).disp = s.disp := rfl
@[simp] theorem modModel_sensors (i : Nat) (f : Model → Model) : (modModel i f s).sensors = s.sensors := rfl
@[simp] theorem modModel_mem (i : Nat) (f : Model → Model) : (modModel i f s).mem = s.mem := rfl
@[simp] theorem modModel_models (i : Nat) (f : Model → Model) : (modModel i f s).models = s.models.map (fun m => if m.id = i then f m else m) := rfl
@[simp] theorem modModel_nextModel (i : Nat) (f : Model → Model) : (modModel i f s).nextModel = s.nextModel := rfl
@[simp] theorem modModel_load (i : Nat) (f : Model → Model) : (modModel i f s).load = s.load := rfl
@[simp] theorem modModel_feedback (i : Nat) (f : Model → Model) : (modModel i f s).feedback = s.feedback := rfl
@[simp] theorem modModel_refits (i : Nat) (f : Model → Model) : (modModel i f s).refits = s.refits := rfl
@[simp] theorem modModel_searches (i : Nat) (f : Model → Model) : (modModel i f s).searches = s.searches := rfl
@[simp] theorem modModel_waymarks (i : Nat) (f : Model → Model) : (modModel i f s).waymarks = s.waymarks := rfl
@[simp] theorem modModel_wmkUnit (i : Nat) (f : Model → Model) : (modModel i f s).wmkUnit = s.wmkUnit := rfl
@[simp] theorem modModel_dma (i : Nat) (f : Model → Model) : (modModel i f s).dma = s.dma := rfl
@[simp] theorem modModel_zth (i : Nat) (f : Model → Model) : (modModel i f s).zth = s.zth := rfl
@[simp] theorem modModel_tenants (i : Nat) (f : Model → Model) : (modModel i f s).tenants = s.tenants := rfl
@[simp] theorem modModel_fns (i : Nat) (f : Model → Model) : (modModel i f s).fns = s.fns := rfl
@[simp] theorem modModel_taken (i : Nat) (f : Model → Model) : (modModel i f s).taken = s.taken := rfl
@[simp] theorem modModel_due (i : Nat) (f : Model → Model) : (modModel i f s).due = s.due := rfl
@[simp] theorem modModel_evBuf (i : Nat) (f : Model → Model) : (modModel i f s).evBuf = s.evBuf := rfl
@[simp] theorem modModel_evSeq (i : Nat) (f : Model → Model) : (modModel i f s).evSeq = s.evSeq := rfl
@[simp] theorem modModel_evLog (i : Nat) (f : Model → Model) : (modModel i f s).evLog = s.evLog := rfl
@[simp] theorem modModel_mismatches (i : Nat) (f : Model → Model) : (modModel i f s).mismatches = s.mismatches := rfl
@[simp] theorem modModel_releasing (i : Nat) (f : Model → Model) : (modModel i f s).releasing = s.releasing := rfl
@[simp] theorem modModel_out (i : Nat) (f : Model → Model) : (modModel i f s).out = s.out := rfl
@[simp] theorem modModel_freeIdx (i : Nat) (f : Model → Model) : (modModel i f s).freeIdx = s.freeIdx := rfl

/-! ## modDisp -/

@[simp] theorem modDisp_pending (f : DispSt → DispSt) : (modDisp f s).pending = s.pending := rfl
@[simp] theorem modDisp_time (f : DispSt → DispSt) : (modDisp f s).time = s.time := rfl
@[simp] theorem modDisp_boot (f : DispSt → DispSt) : (modDisp f s).boot = s.boot := rfl
@[simp] theorem modDisp_ports (f : DispSt → DispSt) : (modDisp f s).ports = s.ports := rfl
@[simp] theorem modDisp_eth (f : DispSt → DispSt) : (modDisp f s).eth = s.eth := rfl
@[simp] theorem modDisp_endpoints (f : DispSt → DispSt) : (modDisp f s).endpoints = s.endpoints := rfl
@[simp] theorem modDisp_ctr (f : DispSt → DispSt) : (modDisp f s).ctr = s.ctr := rfl
@[simp] theorem modDisp_ctxs (f : DispSt → DispSt) : (modDisp f s).ctxs = s.ctxs := rfl
@[simp] theorem modDisp_freeCtx (f : DispSt → DispSt) : (modDisp f s).freeCtx = s.freeCtx := rfl
@[simp] theorem modDisp_trhQ (f : DispSt → DispSt) : (modDisp f s).trhQ = s.trhQ := rfl
@[simp] theorem modDisp_stats (f : DispSt → DispSt) : (modDisp f s).stats = s.stats := rfl
@[simp] theorem modDisp_banks (f : DispSt → DispSt) : (modDisp f s).banks = s.banks := rfl
@[simp] theorem modDisp_walkers (f : DispSt → DispSt) : (modDisp f s).walkers = s.walkers := rfl
@[simp] theorem modDisp_progs (f : DispSt → DispSt) : (modDisp f s).progs = s.progs := rfl
@[simp] theorem modDisp_ridges (f : DispSt → DispSt) : (modDisp f s).ridges = s.ridges := rfl
@[simp] theorem modDisp_slots (f : DispSt → DispSt) : (modDisp f s).slots = s.slots := rfl
@[simp] theorem modDisp_rows (f : DispSt → DispSt) : (modDisp f s).rows = s.rows := rfl
@[simp] theorem modDisp_restoring (f : DispSt → DispSt) : (modDisp f s).restoring = s.restoring := rfl
@[simp] theorem modDisp_crnPort (f : DispSt → DispSt) : (modDisp f s).crnPort = s.crnPort := rfl
@[simp] theorem modDisp_returned (f : DispSt → DispSt) : (modDisp f s).returned = s.returned := rfl
@[simp] theorem modDisp_disp (f : DispSt → DispSt) : (modDisp f s).disp = f s.disp := rfl
@[simp] theorem modDisp_sensors (f : DispSt → DispSt) : (modDisp f s).sensors = s.sensors := rfl
@[simp] theorem modDisp_mem (f : DispSt → DispSt) : (modDisp f s).mem = s.mem := rfl
@[simp] theorem modDisp_models (f : DispSt → DispSt) : (modDisp f s).models = s.models := rfl
@[simp] theorem modDisp_nextModel (f : DispSt → DispSt) : (modDisp f s).nextModel = s.nextModel := rfl
@[simp] theorem modDisp_load (f : DispSt → DispSt) : (modDisp f s).load = s.load := rfl
@[simp] theorem modDisp_feedback (f : DispSt → DispSt) : (modDisp f s).feedback = s.feedback := rfl
@[simp] theorem modDisp_refits (f : DispSt → DispSt) : (modDisp f s).refits = s.refits := rfl
@[simp] theorem modDisp_searches (f : DispSt → DispSt) : (modDisp f s).searches = s.searches := rfl
@[simp] theorem modDisp_waymarks (f : DispSt → DispSt) : (modDisp f s).waymarks = s.waymarks := rfl
@[simp] theorem modDisp_wmkUnit (f : DispSt → DispSt) : (modDisp f s).wmkUnit = s.wmkUnit := rfl
@[simp] theorem modDisp_dma (f : DispSt → DispSt) : (modDisp f s).dma = s.dma := rfl
@[simp] theorem modDisp_zth (f : DispSt → DispSt) : (modDisp f s).zth = s.zth := rfl
@[simp] theorem modDisp_tenants (f : DispSt → DispSt) : (modDisp f s).tenants = s.tenants := rfl
@[simp] theorem modDisp_fns (f : DispSt → DispSt) : (modDisp f s).fns = s.fns := rfl
@[simp] theorem modDisp_taken (f : DispSt → DispSt) : (modDisp f s).taken = s.taken := rfl
@[simp] theorem modDisp_due (f : DispSt → DispSt) : (modDisp f s).due = s.due := rfl
@[simp] theorem modDisp_evBuf (f : DispSt → DispSt) : (modDisp f s).evBuf = s.evBuf := rfl
@[simp] theorem modDisp_evSeq (f : DispSt → DispSt) : (modDisp f s).evSeq = s.evSeq := rfl
@[simp] theorem modDisp_evLog (f : DispSt → DispSt) : (modDisp f s).evLog = s.evLog := rfl
@[simp] theorem modDisp_mismatches (f : DispSt → DispSt) : (modDisp f s).mismatches = s.mismatches := rfl
@[simp] theorem modDisp_releasing (f : DispSt → DispSt) : (modDisp f s).releasing = s.releasing := rfl
@[simp] theorem modDisp_out (f : DispSt → DispSt) : (modDisp f s).out = s.out := rfl
@[simp] theorem modDisp_freeIdx (f : DispSt → DispSt) : (modDisp f s).freeIdx = s.freeIdx := rfl

/-! ## modMem -/

@[simp] theorem modMem_pending (f : MemSt → MemSt) : (modMem f s).pending = s.pending := rfl
@[simp] theorem modMem_time (f : MemSt → MemSt) : (modMem f s).time = s.time := rfl
@[simp] theorem modMem_boot (f : MemSt → MemSt) : (modMem f s).boot = s.boot := rfl
@[simp] theorem modMem_ports (f : MemSt → MemSt) : (modMem f s).ports = s.ports := rfl
@[simp] theorem modMem_eth (f : MemSt → MemSt) : (modMem f s).eth = s.eth := rfl
@[simp] theorem modMem_endpoints (f : MemSt → MemSt) : (modMem f s).endpoints = s.endpoints := rfl
@[simp] theorem modMem_ctr (f : MemSt → MemSt) : (modMem f s).ctr = s.ctr := rfl
@[simp] theorem modMem_ctxs (f : MemSt → MemSt) : (modMem f s).ctxs = s.ctxs := rfl
@[simp] theorem modMem_freeCtx (f : MemSt → MemSt) : (modMem f s).freeCtx = s.freeCtx := rfl
@[simp] theorem modMem_trhQ (f : MemSt → MemSt) : (modMem f s).trhQ = s.trhQ := rfl
@[simp] theorem modMem_stats (f : MemSt → MemSt) : (modMem f s).stats = s.stats := rfl
@[simp] theorem modMem_banks (f : MemSt → MemSt) : (modMem f s).banks = s.banks := rfl
@[simp] theorem modMem_walkers (f : MemSt → MemSt) : (modMem f s).walkers = s.walkers := rfl
@[simp] theorem modMem_progs (f : MemSt → MemSt) : (modMem f s).progs = s.progs := rfl
@[simp] theorem modMem_ridges (f : MemSt → MemSt) : (modMem f s).ridges = s.ridges := rfl
@[simp] theorem modMem_slots (f : MemSt → MemSt) : (modMem f s).slots = s.slots := rfl
@[simp] theorem modMem_rows (f : MemSt → MemSt) : (modMem f s).rows = s.rows := rfl
@[simp] theorem modMem_restoring (f : MemSt → MemSt) : (modMem f s).restoring = s.restoring := rfl
@[simp] theorem modMem_crnPort (f : MemSt → MemSt) : (modMem f s).crnPort = s.crnPort := rfl
@[simp] theorem modMem_returned (f : MemSt → MemSt) : (modMem f s).returned = s.returned := rfl
@[simp] theorem modMem_disp (f : MemSt → MemSt) : (modMem f s).disp = s.disp := rfl
@[simp] theorem modMem_sensors (f : MemSt → MemSt) : (modMem f s).sensors = s.sensors := rfl
@[simp] theorem modMem_mem (f : MemSt → MemSt) : (modMem f s).mem = f s.mem := rfl
@[simp] theorem modMem_models (f : MemSt → MemSt) : (modMem f s).models = s.models := rfl
@[simp] theorem modMem_nextModel (f : MemSt → MemSt) : (modMem f s).nextModel = s.nextModel := rfl
@[simp] theorem modMem_load (f : MemSt → MemSt) : (modMem f s).load = s.load := rfl
@[simp] theorem modMem_feedback (f : MemSt → MemSt) : (modMem f s).feedback = s.feedback := rfl
@[simp] theorem modMem_refits (f : MemSt → MemSt) : (modMem f s).refits = s.refits := rfl
@[simp] theorem modMem_searches (f : MemSt → MemSt) : (modMem f s).searches = s.searches := rfl
@[simp] theorem modMem_waymarks (f : MemSt → MemSt) : (modMem f s).waymarks = s.waymarks := rfl
@[simp] theorem modMem_wmkUnit (f : MemSt → MemSt) : (modMem f s).wmkUnit = s.wmkUnit := rfl
@[simp] theorem modMem_dma (f : MemSt → MemSt) : (modMem f s).dma = s.dma := rfl
@[simp] theorem modMem_zth (f : MemSt → MemSt) : (modMem f s).zth = s.zth := rfl
@[simp] theorem modMem_tenants (f : MemSt → MemSt) : (modMem f s).tenants = s.tenants := rfl
@[simp] theorem modMem_fns (f : MemSt → MemSt) : (modMem f s).fns = s.fns := rfl
@[simp] theorem modMem_taken (f : MemSt → MemSt) : (modMem f s).taken = s.taken := rfl
@[simp] theorem modMem_due (f : MemSt → MemSt) : (modMem f s).due = s.due := rfl
@[simp] theorem modMem_evBuf (f : MemSt → MemSt) : (modMem f s).evBuf = s.evBuf := rfl
@[simp] theorem modMem_evSeq (f : MemSt → MemSt) : (modMem f s).evSeq = s.evSeq := rfl
@[simp] theorem modMem_evLog (f : MemSt → MemSt) : (modMem f s).evLog = s.evLog := rfl
@[simp] theorem modMem_mismatches (f : MemSt → MemSt) : (modMem f s).mismatches = s.mismatches := rfl
@[simp] theorem modMem_releasing (f : MemSt → MemSt) : (modMem f s).releasing = s.releasing := rfl
@[simp] theorem modMem_out (f : MemSt → MemSt) : (modMem f s).out = s.out := rfl
@[simp] theorem modMem_freeIdx (f : MemSt → MemSt) : (modMem f s).freeIdx = s.freeIdx := rfl

/-! ## modBoot -/

@[simp] theorem modBoot_pending (f : BootSt → BootSt) : (modBoot f s).pending = s.pending := rfl
@[simp] theorem modBoot_time (f : BootSt → BootSt) : (modBoot f s).time = s.time := rfl
@[simp] theorem modBoot_boot (f : BootSt → BootSt) : (modBoot f s).boot = f s.boot := rfl
@[simp] theorem modBoot_ports (f : BootSt → BootSt) : (modBoot f s).ports = s.ports := rfl
@[simp] theorem modBoot_eth (f : BootSt → BootSt) : (modBoot f s).eth = s.eth := rfl
@[simp] theorem modBoot_endpoints (f : BootSt → BootSt) : (modBoot f s).endpoints = s.endpoints := rfl
@[simp] theorem modBoot_ctr (f : BootSt → BootSt) : (modBoot f s).ctr = s.ctr := rfl
@[simp] theorem modBoot_ctxs (f : BootSt → BootSt) : (modBoot f s).ctxs = s.ctxs := rfl
@[simp] theorem modBoot_freeCtx (f : BootSt → BootSt) : (modBoot f s).freeCtx = s.freeCtx := rfl
@[simp] theorem modBoot_trhQ (f : BootSt → BootSt) : (modBoot f s).trhQ = s.trhQ := rfl
@[simp] theorem modBoot_stats (f : BootSt → BootSt) : (modBoot f s).stats = s.stats := rfl
@[simp] theorem modBoot_banks (f : BootSt → BootSt) : (modBoot f s).banks = s.banks := rfl
@[simp] theorem modBoot_walkers (f : BootSt → BootSt) : (modBoot f s).walkers = s.walkers := rfl
@[simp] theorem modBoot_progs (f : BootSt → BootSt) : (modBoot f s).progs = s.progs := rfl
@[simp] theorem modBoot_ridges (f : BootSt → BootSt) : (modBoot f s).ridges = s.ridges := rfl
@[simp] theorem modBoot_slots (f : BootSt → BootSt) : (modBoot f s).slots = s.slots := rfl
@[simp] theorem modBoot_rows (f : BootSt → BootSt) : (modBoot f s).rows = s.rows := rfl
@[simp] theorem modBoot_restoring (f : BootSt → BootSt) : (modBoot f s).restoring = s.restoring := rfl
@[simp] theorem modBoot_crnPort (f : BootSt → BootSt) : (modBoot f s).crnPort = s.crnPort := rfl
@[simp] theorem modBoot_returned (f : BootSt → BootSt) : (modBoot f s).returned = s.returned := rfl
@[simp] theorem modBoot_disp (f : BootSt → BootSt) : (modBoot f s).disp = s.disp := rfl
@[simp] theorem modBoot_sensors (f : BootSt → BootSt) : (modBoot f s).sensors = s.sensors := rfl
@[simp] theorem modBoot_mem (f : BootSt → BootSt) : (modBoot f s).mem = s.mem := rfl
@[simp] theorem modBoot_models (f : BootSt → BootSt) : (modBoot f s).models = s.models := rfl
@[simp] theorem modBoot_nextModel (f : BootSt → BootSt) : (modBoot f s).nextModel = s.nextModel := rfl
@[simp] theorem modBoot_load (f : BootSt → BootSt) : (modBoot f s).load = s.load := rfl
@[simp] theorem modBoot_feedback (f : BootSt → BootSt) : (modBoot f s).feedback = s.feedback := rfl
@[simp] theorem modBoot_refits (f : BootSt → BootSt) : (modBoot f s).refits = s.refits := rfl
@[simp] theorem modBoot_searches (f : BootSt → BootSt) : (modBoot f s).searches = s.searches := rfl
@[simp] theorem modBoot_waymarks (f : BootSt → BootSt) : (modBoot f s).waymarks = s.waymarks := rfl
@[simp] theorem modBoot_wmkUnit (f : BootSt → BootSt) : (modBoot f s).wmkUnit = s.wmkUnit := rfl
@[simp] theorem modBoot_dma (f : BootSt → BootSt) : (modBoot f s).dma = s.dma := rfl
@[simp] theorem modBoot_zth (f : BootSt → BootSt) : (modBoot f s).zth = s.zth := rfl
@[simp] theorem modBoot_tenants (f : BootSt → BootSt) : (modBoot f s).tenants = s.tenants := rfl
@[simp] theorem modBoot_fns (f : BootSt → BootSt) : (modBoot f s).fns = s.fns := rfl
@[simp] theorem modBoot_taken (f : BootSt → BootSt) : (modBoot f s).taken = s.taken := rfl
@[simp] theorem modBoot_due (f : BootSt → BootSt) : (modBoot f s).due = s.due := rfl
@[simp] theorem modBoot_evBuf (f : BootSt → BootSt) : (modBoot f s).evBuf = s.evBuf := rfl
@[simp] theorem modBoot_evSeq (f : BootSt → BootSt) : (modBoot f s).evSeq = s.evSeq := rfl
@[simp] theorem modBoot_evLog (f : BootSt → BootSt) : (modBoot f s).evLog = s.evLog := rfl
@[simp] theorem modBoot_mismatches (f : BootSt → BootSt) : (modBoot f s).mismatches = s.mismatches := rfl
@[simp] theorem modBoot_releasing (f : BootSt → BootSt) : (modBoot f s).releasing = s.releasing := rfl
@[simp] theorem modBoot_out (f : BootSt → BootSt) : (modBoot f s).out = s.out := rfl
@[simp] theorem modBoot_freeIdx (f : BootSt → BootSt) : (modBoot f s).freeIdx = s.freeIdx := rfl

/-! ## modRefit -/

@[simp] theorem modRefit_pending (i : Nat) (f : RefitSt → RefitSt) : (modRefit i f s).pending = s.pending := rfl
@[simp] theorem modRefit_time (i : Nat) (f : RefitSt → RefitSt) : (modRefit i f s).time = s.time := rfl
@[simp] theorem modRefit_boot (i : Nat) (f : RefitSt → RefitSt) : (modRefit i f s).boot = s.boot := rfl
@[simp] theorem modRefit_ports (i : Nat) (f : RefitSt → RefitSt) : (modRefit i f s).ports = s.ports := rfl
@[simp] theorem modRefit_eth (i : Nat) (f : RefitSt → RefitSt) : (modRefit i f s).eth = s.eth := rfl
@[simp] theorem modRefit_endpoints (i : Nat) (f : RefitSt → RefitSt) : (modRefit i f s).endpoints = s.endpoints := rfl
@[simp] theorem modRefit_ctr (i : Nat) (f : RefitSt → RefitSt) : (modRefit i f s).ctr = s.ctr := rfl
@[simp] theorem modRefit_ctxs (i : Nat) (f : RefitSt → RefitSt) : (modRefit i f s).ctxs = s.ctxs := rfl
@[simp] theorem modRefit_freeCtx (i : Nat) (f : RefitSt → RefitSt) : (modRefit i f s).freeCtx = s.freeCtx := rfl
@[simp] theorem modRefit_trhQ (i : Nat) (f : RefitSt → RefitSt) : (modRefit i f s).trhQ = s.trhQ := rfl
@[simp] theorem modRefit_stats (i : Nat) (f : RefitSt → RefitSt) : (modRefit i f s).stats = s.stats := rfl
@[simp] theorem modRefit_banks (i : Nat) (f : RefitSt → RefitSt) : (modRefit i f s).banks = s.banks := rfl
@[simp] theorem modRefit_walkers (i : Nat) (f : RefitSt → RefitSt) : (modRefit i f s).walkers = s.walkers := rfl
@[simp] theorem modRefit_progs (i : Nat) (f : RefitSt → RefitSt) : (modRefit i f s).progs = s.progs := rfl
@[simp] theorem modRefit_ridges (i : Nat) (f : RefitSt → RefitSt) : (modRefit i f s).ridges = s.ridges := rfl
@[simp] theorem modRefit_slots (i : Nat) (f : RefitSt → RefitSt) : (modRefit i f s).slots = s.slots := rfl
@[simp] theorem modRefit_rows (i : Nat) (f : RefitSt → RefitSt) : (modRefit i f s).rows = s.rows := rfl
@[simp] theorem modRefit_restoring (i : Nat) (f : RefitSt → RefitSt) : (modRefit i f s).restoring = s.restoring := rfl
@[simp] theorem modRefit_crnPort (i : Nat) (f : RefitSt → RefitSt) : (modRefit i f s).crnPort = s.crnPort := rfl
@[simp] theorem modRefit_returned (i : Nat) (f : RefitSt → RefitSt) : (modRefit i f s).returned = s.returned := rfl
@[simp] theorem modRefit_disp (i : Nat) (f : RefitSt → RefitSt) : (modRefit i f s).disp = s.disp := rfl
@[simp] theorem modRefit_sensors (i : Nat) (f : RefitSt → RefitSt) : (modRefit i f s).sensors = s.sensors := rfl
@[simp] theorem modRefit_mem (i : Nat) (f : RefitSt → RefitSt) : (modRefit i f s).mem = s.mem := rfl
@[simp] theorem modRefit_models (i : Nat) (f : RefitSt → RefitSt) : (modRefit i f s).models = s.models := rfl
@[simp] theorem modRefit_nextModel (i : Nat) (f : RefitSt → RefitSt) : (modRefit i f s).nextModel = s.nextModel := rfl
@[simp] theorem modRefit_load (i : Nat) (f : RefitSt → RefitSt) : (modRefit i f s).load = s.load := rfl
@[simp] theorem modRefit_feedback (i : Nat) (f : RefitSt → RefitSt) : (modRefit i f s).feedback = s.feedback := rfl
@[simp] theorem modRefit_refits (i : Nat) (f : RefitSt → RefitSt) : (modRefit i f s).refits = s.refits.map (fun r => if r.model = i then f r else r) := rfl
@[simp] theorem modRefit_searches (i : Nat) (f : RefitSt → RefitSt) : (modRefit i f s).searches = s.searches := rfl
@[simp] theorem modRefit_waymarks (i : Nat) (f : RefitSt → RefitSt) : (modRefit i f s).waymarks = s.waymarks := rfl
@[simp] theorem modRefit_wmkUnit (i : Nat) (f : RefitSt → RefitSt) : (modRefit i f s).wmkUnit = s.wmkUnit := rfl
@[simp] theorem modRefit_dma (i : Nat) (f : RefitSt → RefitSt) : (modRefit i f s).dma = s.dma := rfl
@[simp] theorem modRefit_zth (i : Nat) (f : RefitSt → RefitSt) : (modRefit i f s).zth = s.zth := rfl
@[simp] theorem modRefit_tenants (i : Nat) (f : RefitSt → RefitSt) : (modRefit i f s).tenants = s.tenants := rfl
@[simp] theorem modRefit_fns (i : Nat) (f : RefitSt → RefitSt) : (modRefit i f s).fns = s.fns := rfl
@[simp] theorem modRefit_taken (i : Nat) (f : RefitSt → RefitSt) : (modRefit i f s).taken = s.taken := rfl
@[simp] theorem modRefit_due (i : Nat) (f : RefitSt → RefitSt) : (modRefit i f s).due = s.due := rfl
@[simp] theorem modRefit_evBuf (i : Nat) (f : RefitSt → RefitSt) : (modRefit i f s).evBuf = s.evBuf := rfl
@[simp] theorem modRefit_evSeq (i : Nat) (f : RefitSt → RefitSt) : (modRefit i f s).evSeq = s.evSeq := rfl
@[simp] theorem modRefit_evLog (i : Nat) (f : RefitSt → RefitSt) : (modRefit i f s).evLog = s.evLog := rfl
@[simp] theorem modRefit_mismatches (i : Nat) (f : RefitSt → RefitSt) : (modRefit i f s).mismatches = s.mismatches := rfl
@[simp] theorem modRefit_releasing (i : Nat) (f : RefitSt → RefitSt) : (modRefit i f s).releasing = s.releasing := rfl
@[simp] theorem modRefit_out (i : Nat) (f : RefitSt → RefitSt) : (modRefit i f s).out = s.out := rfl
@[simp] theorem modRefit_freeIdx (i : Nat) (f : RefitSt → RefitSt) : (modRefit i f s).freeIdx = s.freeIdx := rfl

/-! ## putWaymark -/

@[simp] theorem putWaymark_pending (i : Nat) (w : Waymark) : (putWaymark i w s).pending = s.pending := rfl
@[simp] theorem putWaymark_time (i : Nat) (w : Waymark) : (putWaymark i w s).time = s.time := rfl
@[simp] theorem putWaymark_boot (i : Nat) (w : Waymark) : (putWaymark i w s).boot = s.boot := rfl
@[simp] theorem putWaymark_ports (i : Nat) (w : Waymark) : (putWaymark i w s).ports = s.ports := rfl
@[simp] theorem putWaymark_eth (i : Nat) (w : Waymark) : (putWaymark i w s).eth = s.eth := rfl
@[simp] theorem putWaymark_endpoints (i : Nat) (w : Waymark) : (putWaymark i w s).endpoints = s.endpoints := rfl
@[simp] theorem putWaymark_ctr (i : Nat) (w : Waymark) : (putWaymark i w s).ctr = s.ctr := rfl
@[simp] theorem putWaymark_ctxs (i : Nat) (w : Waymark) : (putWaymark i w s).ctxs = s.ctxs := rfl
@[simp] theorem putWaymark_freeCtx (i : Nat) (w : Waymark) : (putWaymark i w s).freeCtx = s.freeCtx := rfl
@[simp] theorem putWaymark_trhQ (i : Nat) (w : Waymark) : (putWaymark i w s).trhQ = s.trhQ := rfl
@[simp] theorem putWaymark_stats (i : Nat) (w : Waymark) : (putWaymark i w s).stats = s.stats := rfl
@[simp] theorem putWaymark_banks (i : Nat) (w : Waymark) : (putWaymark i w s).banks = s.banks := rfl
@[simp] theorem putWaymark_walkers (i : Nat) (w : Waymark) : (putWaymark i w s).walkers = s.walkers := rfl
@[simp] theorem putWaymark_progs (i : Nat) (w : Waymark) : (putWaymark i w s).progs = s.progs := rfl
@[simp] theorem putWaymark_ridges (i : Nat) (w : Waymark) : (putWaymark i w s).ridges = s.ridges := rfl
@[simp] theorem putWaymark_slots (i : Nat) (w : Waymark) : (putWaymark i w s).slots = s.slots := rfl
@[simp] theorem putWaymark_rows (i : Nat) (w : Waymark) : (putWaymark i w s).rows = s.rows := rfl
@[simp] theorem putWaymark_restoring (i : Nat) (w : Waymark) : (putWaymark i w s).restoring = s.restoring := rfl
@[simp] theorem putWaymark_crnPort (i : Nat) (w : Waymark) : (putWaymark i w s).crnPort = s.crnPort := rfl
@[simp] theorem putWaymark_returned (i : Nat) (w : Waymark) : (putWaymark i w s).returned = s.returned := rfl
@[simp] theorem putWaymark_disp (i : Nat) (w : Waymark) : (putWaymark i w s).disp = s.disp := rfl
@[simp] theorem putWaymark_sensors (i : Nat) (w : Waymark) : (putWaymark i w s).sensors = s.sensors := rfl
@[simp] theorem putWaymark_mem (i : Nat) (w : Waymark) : (putWaymark i w s).mem = s.mem := rfl
@[simp] theorem putWaymark_models (i : Nat) (w : Waymark) : (putWaymark i w s).models = s.models := rfl
@[simp] theorem putWaymark_nextModel (i : Nat) (w : Waymark) : (putWaymark i w s).nextModel = s.nextModel := rfl
@[simp] theorem putWaymark_load (i : Nat) (w : Waymark) : (putWaymark i w s).load = s.load := rfl
@[simp] theorem putWaymark_feedback (i : Nat) (w : Waymark) : (putWaymark i w s).feedback = s.feedback := rfl
@[simp] theorem putWaymark_refits (i : Nat) (w : Waymark) : (putWaymark i w s).refits = s.refits := rfl
@[simp] theorem putWaymark_searches (i : Nat) (w : Waymark) : (putWaymark i w s).searches = s.searches := rfl
@[simp] theorem putWaymark_waymarks (i : Nat) (w : Waymark) : (putWaymark i w s).waymarks = kvPut Waymark.reset s.waymarks i w := rfl
@[simp] theorem putWaymark_wmkUnit (i : Nat) (w : Waymark) : (putWaymark i w s).wmkUnit = s.wmkUnit := rfl
@[simp] theorem putWaymark_dma (i : Nat) (w : Waymark) : (putWaymark i w s).dma = s.dma := rfl
@[simp] theorem putWaymark_zth (i : Nat) (w : Waymark) : (putWaymark i w s).zth = s.zth := rfl
@[simp] theorem putWaymark_tenants (i : Nat) (w : Waymark) : (putWaymark i w s).tenants = s.tenants := rfl
@[simp] theorem putWaymark_fns (i : Nat) (w : Waymark) : (putWaymark i w s).fns = s.fns := rfl
@[simp] theorem putWaymark_taken (i : Nat) (w : Waymark) : (putWaymark i w s).taken = s.taken := rfl
@[simp] theorem putWaymark_due (i : Nat) (w : Waymark) : (putWaymark i w s).due = s.due := rfl
@[simp] theorem putWaymark_evBuf (i : Nat) (w : Waymark) : (putWaymark i w s).evBuf = s.evBuf := rfl
@[simp] theorem putWaymark_evSeq (i : Nat) (w : Waymark) : (putWaymark i w s).evSeq = s.evSeq := rfl
@[simp] theorem putWaymark_evLog (i : Nat) (w : Waymark) : (putWaymark i w s).evLog = s.evLog := rfl
@[simp] theorem putWaymark_mismatches (i : Nat) (w : Waymark) : (putWaymark i w s).mismatches = s.mismatches := rfl
@[simp] theorem putWaymark_releasing (i : Nat) (w : Waymark) : (putWaymark i w s).releasing = s.releasing := rfl
@[simp] theorem putWaymark_out (i : Nat) (w : Waymark) : (putWaymark i w s).out = s.out := rfl
@[simp] theorem putWaymark_freeIdx (i : Nat) (w : Waymark) : (putWaymark i w s).freeIdx = s.freeIdx := rfl

/-! ## setCounter -/

@[simp] theorem setCounter_pending (k n : Nat) : (setCounter k n s).pending = s.pending := rfl
@[simp] theorem setCounter_time (k n : Nat) : (setCounter k n s).time = s.time := rfl
@[simp] theorem setCounter_boot (k n : Nat) : (setCounter k n s).boot = s.boot := rfl
@[simp] theorem setCounter_ports (k n : Nat) : (setCounter k n s).ports = s.ports := rfl
@[simp] theorem setCounter_eth (k n : Nat) : (setCounter k n s).eth = s.eth := rfl
@[simp] theorem setCounter_endpoints (k n : Nat) : (setCounter k n s).endpoints = s.endpoints := rfl
@[simp] theorem setCounter_ctr (k n : Nat) : (setCounter k n s).ctr = kvPut 0 s.ctr k (n % 2 ^ 64) := rfl
@[simp] theorem setCounter_ctxs (k n : Nat) : (setCounter k n s).ctxs = s.ctxs := rfl
@[simp] theorem setCounter_freeCtx (k n : Nat) : (setCounter k n s).freeCtx = s.freeCtx := rfl
@[simp] theorem setCounter_trhQ (k n : Nat) : (setCounter k n s).trhQ = s.trhQ := rfl
@[simp] theorem setCounter_stats (k n : Nat) : (setCounter k n s).stats = s.stats := rfl
@[simp] theorem setCounter_banks (k n : Nat) : (setCounter k n s).banks = s.banks := rfl
@[simp] theorem setCounter_walkers (k n : Nat) : (setCounter k n s).walkers = s.walkers := rfl
@[simp] theorem setCounter_progs (k n : Nat) : (setCounter k n s).progs = s.progs := rfl
@[simp] theorem setCounter_ridges (k n : Nat) : (setCounter k n s).ridges = s.ridges := rfl
@[simp] theorem setCounter_slots (k n : Nat) : (setCounter k n s).slots = s.slots := rfl
@[simp] theorem setCounter_rows (k n : Nat) : (setCounter k n s).rows = s.rows := rfl
@[simp] theorem setCounter_restoring (k n : Nat) : (setCounter k n s).restoring = s.restoring := rfl
@[simp] theorem setCounter_crnPort (k n : Nat) : (setCounter k n s).crnPort = s.crnPort := rfl
@[simp] theorem setCounter_returned (k n : Nat) : (setCounter k n s).returned = s.returned := rfl
@[simp] theorem setCounter_disp (k n : Nat) : (setCounter k n s).disp = s.disp := rfl
@[simp] theorem setCounter_sensors (k n : Nat) : (setCounter k n s).sensors = s.sensors := rfl
@[simp] theorem setCounter_mem (k n : Nat) : (setCounter k n s).mem = s.mem := rfl
@[simp] theorem setCounter_models (k n : Nat) : (setCounter k n s).models = s.models := rfl
@[simp] theorem setCounter_nextModel (k n : Nat) : (setCounter k n s).nextModel = s.nextModel := rfl
@[simp] theorem setCounter_load (k n : Nat) : (setCounter k n s).load = s.load := rfl
@[simp] theorem setCounter_feedback (k n : Nat) : (setCounter k n s).feedback = s.feedback := rfl
@[simp] theorem setCounter_refits (k n : Nat) : (setCounter k n s).refits = s.refits := rfl
@[simp] theorem setCounter_searches (k n : Nat) : (setCounter k n s).searches = s.searches := rfl
@[simp] theorem setCounter_waymarks (k n : Nat) : (setCounter k n s).waymarks = s.waymarks := rfl
@[simp] theorem setCounter_wmkUnit (k n : Nat) : (setCounter k n s).wmkUnit = s.wmkUnit := rfl
@[simp] theorem setCounter_dma (k n : Nat) : (setCounter k n s).dma = s.dma := rfl
@[simp] theorem setCounter_zth (k n : Nat) : (setCounter k n s).zth = s.zth := rfl
@[simp] theorem setCounter_tenants (k n : Nat) : (setCounter k n s).tenants = s.tenants := rfl
@[simp] theorem setCounter_fns (k n : Nat) : (setCounter k n s).fns = s.fns := rfl
@[simp] theorem setCounter_taken (k n : Nat) : (setCounter k n s).taken = s.taken := rfl
@[simp] theorem setCounter_due (k n : Nat) : (setCounter k n s).due = s.due := rfl
@[simp] theorem setCounter_evBuf (k n : Nat) : (setCounter k n s).evBuf = s.evBuf := rfl
@[simp] theorem setCounter_evSeq (k n : Nat) : (setCounter k n s).evSeq = s.evSeq := rfl
@[simp] theorem setCounter_evLog (k n : Nat) : (setCounter k n s).evLog = s.evLog := rfl
@[simp] theorem setCounter_mismatches (k n : Nat) : (setCounter k n s).mismatches = s.mismatches := rfl
@[simp] theorem setCounter_releasing (k n : Nat) : (setCounter k n s).releasing = s.releasing := rfl
@[simp] theorem setCounter_out (k n : Nat) : (setCounter k n s).out = s.out := rfl
@[simp] theorem setCounter_freeIdx (k n : Nat) : (setCounter k n s).freeIdx = s.freeIdx := rfl

/-! ## emit -/

@[simp] theorem emit_pending (o : Outp) : (emit o s).pending = s.pending := rfl
@[simp] theorem emit_time (o : Outp) : (emit o s).time = s.time := rfl
@[simp] theorem emit_boot (o : Outp) : (emit o s).boot = s.boot := rfl
@[simp] theorem emit_ports (o : Outp) : (emit o s).ports = s.ports := rfl
@[simp] theorem emit_eth (o : Outp) : (emit o s).eth = s.eth := rfl
@[simp] theorem emit_endpoints (o : Outp) : (emit o s).endpoints = s.endpoints := rfl
@[simp] theorem emit_ctr (o : Outp) : (emit o s).ctr = s.ctr := rfl
@[simp] theorem emit_ctxs (o : Outp) : (emit o s).ctxs = s.ctxs := rfl
@[simp] theorem emit_freeCtx (o : Outp) : (emit o s).freeCtx = s.freeCtx := rfl
@[simp] theorem emit_trhQ (o : Outp) : (emit o s).trhQ = s.trhQ := rfl
@[simp] theorem emit_stats (o : Outp) : (emit o s).stats = s.stats := rfl
@[simp] theorem emit_banks (o : Outp) : (emit o s).banks = s.banks := rfl
@[simp] theorem emit_walkers (o : Outp) : (emit o s).walkers = s.walkers := rfl
@[simp] theorem emit_progs (o : Outp) : (emit o s).progs = s.progs := rfl
@[simp] theorem emit_ridges (o : Outp) : (emit o s).ridges = s.ridges := rfl
@[simp] theorem emit_slots (o : Outp) : (emit o s).slots = s.slots := rfl
@[simp] theorem emit_rows (o : Outp) : (emit o s).rows = s.rows := rfl
@[simp] theorem emit_restoring (o : Outp) : (emit o s).restoring = s.restoring := rfl
@[simp] theorem emit_crnPort (o : Outp) : (emit o s).crnPort = s.crnPort := rfl
@[simp] theorem emit_returned (o : Outp) : (emit o s).returned = s.returned := rfl
@[simp] theorem emit_disp (o : Outp) : (emit o s).disp = s.disp := rfl
@[simp] theorem emit_sensors (o : Outp) : (emit o s).sensors = s.sensors := rfl
@[simp] theorem emit_mem (o : Outp) : (emit o s).mem = s.mem := rfl
@[simp] theorem emit_models (o : Outp) : (emit o s).models = s.models := rfl
@[simp] theorem emit_nextModel (o : Outp) : (emit o s).nextModel = s.nextModel := rfl
@[simp] theorem emit_load (o : Outp) : (emit o s).load = s.load := rfl
@[simp] theorem emit_feedback (o : Outp) : (emit o s).feedback = s.feedback := rfl
@[simp] theorem emit_refits (o : Outp) : (emit o s).refits = s.refits := rfl
@[simp] theorem emit_searches (o : Outp) : (emit o s).searches = s.searches := rfl
@[simp] theorem emit_waymarks (o : Outp) : (emit o s).waymarks = s.waymarks := rfl
@[simp] theorem emit_wmkUnit (o : Outp) : (emit o s).wmkUnit = s.wmkUnit := rfl
@[simp] theorem emit_dma (o : Outp) : (emit o s).dma = s.dma := rfl
@[simp] theorem emit_zth (o : Outp) : (emit o s).zth = s.zth := rfl
@[simp] theorem emit_tenants (o : Outp) : (emit o s).tenants = s.tenants := rfl
@[simp] theorem emit_fns (o : Outp) : (emit o s).fns = s.fns := rfl
@[simp] theorem emit_taken (o : Outp) : (emit o s).taken = s.taken := rfl
@[simp] theorem emit_due (o : Outp) : (emit o s).due = s.due := rfl
@[simp] theorem emit_evBuf (o : Outp) : (emit o s).evBuf = s.evBuf := rfl
@[simp] theorem emit_evSeq (o : Outp) : (emit o s).evSeq = s.evSeq := rfl
@[simp] theorem emit_evLog (o : Outp) : (emit o s).evLog = s.evLog := rfl
@[simp] theorem emit_mismatches (o : Outp) : (emit o s).mismatches = s.mismatches := rfl
@[simp] theorem emit_releasing (o : Outp) : (emit o s).releasing = s.releasing := rfl
@[simp] theorem emit_out (o : Outp) : (emit o s).out = o :: s.out := rfl
@[simp] theorem emit_freeIdx (o : Outp) : (emit o s).freeIdx = s.freeIdx := rfl

/-! ## giveBack -/

@[simp] theorem giveBack_pending (cs : List Credit) : (giveBack cs s).pending = s.pending := rfl
@[simp] theorem giveBack_time (cs : List Credit) : (giveBack cs s).time = s.time := rfl
@[simp] theorem giveBack_boot (cs : List Credit) : (giveBack cs s).boot = s.boot := rfl
@[simp] theorem giveBack_ports (cs : List Credit) : (giveBack cs s).ports = s.ports := rfl
@[simp] theorem giveBack_eth (cs : List Credit) : (giveBack cs s).eth = s.eth := rfl
@[simp] theorem giveBack_endpoints (cs : List Credit) : (giveBack cs s).endpoints = s.endpoints := rfl
@[simp] theorem giveBack_ctr (cs : List Credit) : (giveBack cs s).ctr = s.ctr := rfl
@[simp] theorem giveBack_ctxs (cs : List Credit) : (giveBack cs s).ctxs = s.ctxs := rfl
@[simp] theorem giveBack_freeCtx (cs : List Credit) : (giveBack cs s).freeCtx = s.freeCtx := rfl
@[simp] theorem giveBack_trhQ (cs : List Credit) : (giveBack cs s).trhQ = s.trhQ := rfl
@[simp] theorem giveBack_stats (cs : List Credit) : (giveBack cs s).stats = s.stats := rfl
@[simp] theorem giveBack_banks (cs : List Credit) : (giveBack cs s).banks = s.banks := rfl
@[simp] theorem giveBack_walkers (cs : List Credit) : (giveBack cs s).walkers = s.walkers := rfl
@[simp] theorem giveBack_progs (cs : List Credit) : (giveBack cs s).progs = s.progs := rfl
@[simp] theorem giveBack_ridges (cs : List Credit) : (giveBack cs s).ridges = s.ridges := rfl
@[simp] theorem giveBack_slots (cs : List Credit) : (giveBack cs s).slots = s.slots := rfl
@[simp] theorem giveBack_rows (cs : List Credit) : (giveBack cs s).rows = s.rows := rfl
@[simp] theorem giveBack_restoring (cs : List Credit) : (giveBack cs s).restoring = s.restoring := rfl
@[simp] theorem giveBack_crnPort (cs : List Credit) : (giveBack cs s).crnPort = s.crnPort := rfl
@[simp] theorem giveBack_returned (cs : List Credit) : (giveBack cs s).returned = s.returned ++ cs := rfl
@[simp] theorem giveBack_disp (cs : List Credit) : (giveBack cs s).disp = s.disp := rfl
@[simp] theorem giveBack_sensors (cs : List Credit) : (giveBack cs s).sensors = s.sensors := rfl
@[simp] theorem giveBack_mem (cs : List Credit) : (giveBack cs s).mem = s.mem := rfl
@[simp] theorem giveBack_models (cs : List Credit) : (giveBack cs s).models = s.models := rfl
@[simp] theorem giveBack_nextModel (cs : List Credit) : (giveBack cs s).nextModel = s.nextModel := rfl
@[simp] theorem giveBack_load (cs : List Credit) : (giveBack cs s).load = s.load := rfl
@[simp] theorem giveBack_feedback (cs : List Credit) : (giveBack cs s).feedback = s.feedback := rfl
@[simp] theorem giveBack_refits (cs : List Credit) : (giveBack cs s).refits = s.refits := rfl
@[simp] theorem giveBack_searches (cs : List Credit) : (giveBack cs s).searches = s.searches := rfl
@[simp] theorem giveBack_waymarks (cs : List Credit) : (giveBack cs s).waymarks = s.waymarks := rfl
@[simp] theorem giveBack_wmkUnit (cs : List Credit) : (giveBack cs s).wmkUnit = s.wmkUnit := rfl
@[simp] theorem giveBack_dma (cs : List Credit) : (giveBack cs s).dma = s.dma := rfl
@[simp] theorem giveBack_zth (cs : List Credit) : (giveBack cs s).zth = s.zth := rfl
@[simp] theorem giveBack_tenants (cs : List Credit) : (giveBack cs s).tenants = s.tenants := rfl
@[simp] theorem giveBack_fns (cs : List Credit) : (giveBack cs s).fns = s.fns := rfl
@[simp] theorem giveBack_taken (cs : List Credit) : (giveBack cs s).taken = s.taken := rfl
@[simp] theorem giveBack_due (cs : List Credit) : (giveBack cs s).due = s.due := rfl
@[simp] theorem giveBack_evBuf (cs : List Credit) : (giveBack cs s).evBuf = s.evBuf := rfl
@[simp] theorem giveBack_evSeq (cs : List Credit) : (giveBack cs s).evSeq = s.evSeq := rfl
@[simp] theorem giveBack_evLog (cs : List Credit) : (giveBack cs s).evLog = s.evLog := rfl
@[simp] theorem giveBack_mismatches (cs : List Credit) : (giveBack cs s).mismatches = s.mismatches := rfl
@[simp] theorem giveBack_releasing (cs : List Credit) : (giveBack cs s).releasing = s.releasing := rfl
@[simp] theorem giveBack_out (cs : List Credit) : (giveBack cs s).out = s.out := rfl
@[simp] theorem giveBack_freeIdx (cs : List Credit) : (giveBack cs s).freeIdx = s.freeIdx := rfl

/-! ## setCause -/

@[simp] theorem setCause_pending (f m : Nat) : (setCause f m s).pending = s.pending := rfl
@[simp] theorem setCause_time (f m : Nat) : (setCause f m s).time = s.time := rfl
@[simp] theorem setCause_boot (f m : Nat) : (setCause f m s).boot = s.boot := rfl
@[simp] theorem setCause_ports (f m : Nat) : (setCause f m s).ports = s.ports := rfl
@[simp] theorem setCause_eth (f m : Nat) : (setCause f m s).eth = s.eth := rfl
@[simp] theorem setCause_endpoints (f m : Nat) : (setCause f m s).endpoints = s.endpoints := rfl
@[simp] theorem setCause_ctr (f m : Nat) : (setCause f m s).ctr = s.ctr := rfl
@[simp] theorem setCause_ctxs (f m : Nat) : (setCause f m s).ctxs = s.ctxs := rfl
@[simp] theorem setCause_freeCtx (f m : Nat) : (setCause f m s).freeCtx = s.freeCtx := rfl
@[simp] theorem setCause_trhQ (f m : Nat) : (setCause f m s).trhQ = s.trhQ := rfl
@[simp] theorem setCause_stats (f m : Nat) : (setCause f m s).stats = s.stats := rfl
@[simp] theorem setCause_banks (f m : Nat) : (setCause f m s).banks = s.banks := rfl
@[simp] theorem setCause_walkers (f m : Nat) : (setCause f m s).walkers = s.walkers := rfl
@[simp] theorem setCause_progs (f m : Nat) : (setCause f m s).progs = s.progs := rfl
@[simp] theorem setCause_ridges (f m : Nat) : (setCause f m s).ridges = s.ridges := rfl
@[simp] theorem setCause_slots (f m : Nat) : (setCause f m s).slots = s.slots := rfl
@[simp] theorem setCause_rows (f m : Nat) : (setCause f m s).rows = s.rows := rfl
@[simp] theorem setCause_restoring (f m : Nat) : (setCause f m s).restoring = s.restoring := rfl
@[simp] theorem setCause_crnPort (f m : Nat) : (setCause f m s).crnPort = s.crnPort := rfl
@[simp] theorem setCause_returned (f m : Nat) : (setCause f m s).returned = s.returned := rfl
@[simp] theorem setCause_disp (f m : Nat) : (setCause f m s).disp = s.disp := rfl
@[simp] theorem setCause_sensors (f m : Nat) : (setCause f m s).sensors = s.sensors := rfl
@[simp] theorem setCause_mem (f m : Nat) : (setCause f m s).mem = s.mem := rfl
@[simp] theorem setCause_models (f m : Nat) : (setCause f m s).models = s.models := rfl
@[simp] theorem setCause_nextModel (f m : Nat) : (setCause f m s).nextModel = s.nextModel := rfl
@[simp] theorem setCause_load (f m : Nat) : (setCause f m s).load = s.load := rfl
@[simp] theorem setCause_feedback (f m : Nat) : (setCause f m s).feedback = s.feedback := rfl
@[simp] theorem setCause_refits (f m : Nat) : (setCause f m s).refits = s.refits := rfl
@[simp] theorem setCause_searches (f m : Nat) : (setCause f m s).searches = s.searches := rfl
@[simp] theorem setCause_waymarks (f m : Nat) : (setCause f m s).waymarks = s.waymarks := rfl
@[simp] theorem setCause_wmkUnit (f m : Nat) : (setCause f m s).wmkUnit = s.wmkUnit := rfl
@[simp] theorem setCause_dma (f m : Nat) : (setCause f m s).dma = s.dma := rfl
@[simp] theorem setCause_zth (f m : Nat) : (setCause f m s).zth = s.zth := rfl
@[simp] theorem setCause_tenants (f m : Nat) : (setCause f m s).tenants = s.tenants := rfl
@[simp] theorem setCause_fns (f m : Nat) : (setCause f m s).fns = s.fns.modify f (fun x => { x with cause := x.cause ||| m }) := rfl
@[simp] theorem setCause_taken (f m : Nat) : (setCause f m s).taken = s.taken := rfl
@[simp] theorem setCause_due (f m : Nat) : (setCause f m s).due = s.due := rfl
@[simp] theorem setCause_evBuf (f m : Nat) : (setCause f m s).evBuf = s.evBuf := rfl
@[simp] theorem setCause_evSeq (f m : Nat) : (setCause f m s).evSeq = s.evSeq := rfl
@[simp] theorem setCause_evLog (f m : Nat) : (setCause f m s).evLog = s.evLog := rfl
@[simp] theorem setCause_mismatches (f m : Nat) : (setCause f m s).mismatches = s.mismatches := rfl
@[simp] theorem setCause_releasing (f m : Nat) : (setCause f m s).releasing = s.releasing := rfl
@[simp] theorem setCause_out (f m : Nat) : (setCause f m s).out = s.out := rfl
@[simp] theorem setCause_freeIdx (f m : Nat) : (setCause f m s).freeIdx = s.freeIdx := rfl

/-! ## fireVector -/

@[simp] theorem fireVector_pending (f v : Nat) : (fireVector f v s).pending = s.pending := rfl
@[simp] theorem fireVector_time (f v : Nat) : (fireVector f v s).time = s.time := rfl
@[simp] theorem fireVector_boot (f v : Nat) : (fireVector f v s).boot = s.boot := rfl
@[simp] theorem fireVector_ports (f v : Nat) : (fireVector f v s).ports = s.ports := rfl
@[simp] theorem fireVector_eth (f v : Nat) : (fireVector f v s).eth = s.eth := rfl
@[simp] theorem fireVector_endpoints (f v : Nat) : (fireVector f v s).endpoints = s.endpoints := rfl
@[simp] theorem fireVector_ctr (f v : Nat) : (fireVector f v s).ctr = s.ctr := rfl
@[simp] theorem fireVector_ctxs (f v : Nat) : (fireVector f v s).ctxs = s.ctxs := rfl
@[simp] theorem fireVector_freeCtx (f v : Nat) : (fireVector f v s).freeCtx = s.freeCtx := rfl
@[simp] theorem fireVector_trhQ (f v : Nat) : (fireVector f v s).trhQ = s.trhQ := rfl
@[simp] theorem fireVector_stats (f v : Nat) : (fireVector f v s).stats = s.stats := rfl
@[simp] theorem fireVector_banks (f v : Nat) : (fireVector f v s).banks = s.banks := rfl
@[simp] theorem fireVector_walkers (f v : Nat) : (fireVector f v s).walkers = s.walkers := rfl
@[simp] theorem fireVector_progs (f v : Nat) : (fireVector f v s).progs = s.progs := rfl
@[simp] theorem fireVector_ridges (f v : Nat) : (fireVector f v s).ridges = s.ridges := rfl
@[simp] theorem fireVector_slots (f v : Nat) : (fireVector f v s).slots = s.slots := rfl
@[simp] theorem fireVector_rows (f v : Nat) : (fireVector f v s).rows = s.rows := rfl
@[simp] theorem fireVector_restoring (f v : Nat) : (fireVector f v s).restoring = s.restoring := rfl
@[simp] theorem fireVector_crnPort (f v : Nat) : (fireVector f v s).crnPort = s.crnPort := rfl
@[simp] theorem fireVector_returned (f v : Nat) : (fireVector f v s).returned = s.returned := rfl
@[simp] theorem fireVector_disp (f v : Nat) : (fireVector f v s).disp = s.disp := rfl
@[simp] theorem fireVector_sensors (f v : Nat) : (fireVector f v s).sensors = s.sensors := rfl
@[simp] theorem fireVector_mem (f v : Nat) : (fireVector f v s).mem = s.mem := rfl
@[simp] theorem fireVector_models (f v : Nat) : (fireVector f v s).models = s.models := rfl
@[simp] theorem fireVector_nextModel (f v : Nat) : (fireVector f v s).nextModel = s.nextModel := rfl
@[simp] theorem fireVector_load (f v : Nat) : (fireVector f v s).load = s.load := rfl
@[simp] theorem fireVector_feedback (f v : Nat) : (fireVector f v s).feedback = s.feedback := rfl
@[simp] theorem fireVector_refits (f v : Nat) : (fireVector f v s).refits = s.refits := rfl
@[simp] theorem fireVector_searches (f v : Nat) : (fireVector f v s).searches = s.searches := rfl
@[simp] theorem fireVector_waymarks (f v : Nat) : (fireVector f v s).waymarks = s.waymarks := rfl
@[simp] theorem fireVector_wmkUnit (f v : Nat) : (fireVector f v s).wmkUnit = s.wmkUnit := rfl
@[simp] theorem fireVector_dma (f v : Nat) : (fireVector f v s).dma = s.dma := rfl
@[simp] theorem fireVector_zth (f v : Nat) : (fireVector f v s).zth = s.zth := rfl
@[simp] theorem fireVector_tenants (f v : Nat) : (fireVector f v s).tenants = s.tenants := rfl
@[simp] theorem fireVector_fns (f v : Nat) : (fireVector f v s).fns = s.fns.modify f (fun x => { x with msixDue := x.msixDue ++ [v] }) := rfl
@[simp] theorem fireVector_taken (f v : Nat) : (fireVector f v s).taken = s.taken := rfl
@[simp] theorem fireVector_due (f v : Nat) : (fireVector f v s).due = s.due := rfl
@[simp] theorem fireVector_evBuf (f v : Nat) : (fireVector f v s).evBuf = s.evBuf := rfl
@[simp] theorem fireVector_evSeq (f v : Nat) : (fireVector f v s).evSeq = s.evSeq := rfl
@[simp] theorem fireVector_evLog (f v : Nat) : (fireVector f v s).evLog = s.evLog := rfl
@[simp] theorem fireVector_mismatches (f v : Nat) : (fireVector f v s).mismatches = s.mismatches := rfl
@[simp] theorem fireVector_releasing (f v : Nat) : (fireVector f v s).releasing = s.releasing := rfl
@[simp] theorem fireVector_out (f v : Nat) : (fireVector f v s).out = s.out := rfl
@[simp] theorem fireVector_freeIdx (f v : Nat) : (fireVector f v s).freeIdx = s.freeIdx := rfl

/-! ## releaseCtx -/

@[simp] theorem releaseCtx_pending (c : Nat) : (releaseCtx c s).pending = s.pending := rfl
@[simp] theorem releaseCtx_time (c : Nat) : (releaseCtx c s).time = s.time := rfl
@[simp] theorem releaseCtx_boot (c : Nat) : (releaseCtx c s).boot = s.boot := rfl
@[simp] theorem releaseCtx_ports (c : Nat) : (releaseCtx c s).ports = s.ports := rfl
@[simp] theorem releaseCtx_eth (c : Nat) : (releaseCtx c s).eth = s.eth := rfl
@[simp] theorem releaseCtx_endpoints (c : Nat) : (releaseCtx c s).endpoints = s.endpoints := rfl
@[simp] theorem releaseCtx_ctr (c : Nat) : (releaseCtx c s).ctr = s.ctr := rfl
@[simp] theorem releaseCtx_ctxs (c : Nat) : (releaseCtx c s).ctxs = kvDel s.ctxs c := rfl
@[simp] theorem releaseCtx_freeCtx (c : Nat) : (releaseCtx c s).freeCtx = s.freeCtx ++ [c] := rfl
@[simp] theorem releaseCtx_trhQ (c : Nat) : (releaseCtx c s).trhQ = s.trhQ := rfl
@[simp] theorem releaseCtx_stats (c : Nat) : (releaseCtx c s).stats = s.stats := rfl
@[simp] theorem releaseCtx_banks (c : Nat) : (releaseCtx c s).banks = s.banks := rfl
@[simp] theorem releaseCtx_walkers (c : Nat) : (releaseCtx c s).walkers = s.walkers := rfl
@[simp] theorem releaseCtx_progs (c : Nat) : (releaseCtx c s).progs = s.progs := rfl
@[simp] theorem releaseCtx_ridges (c : Nat) : (releaseCtx c s).ridges = s.ridges := rfl
@[simp] theorem releaseCtx_slots (c : Nat) : (releaseCtx c s).slots = s.slots := rfl
@[simp] theorem releaseCtx_rows (c : Nat) : (releaseCtx c s).rows = s.rows := rfl
@[simp] theorem releaseCtx_restoring (c : Nat) : (releaseCtx c s).restoring = s.restoring := rfl
@[simp] theorem releaseCtx_crnPort (c : Nat) : (releaseCtx c s).crnPort = s.crnPort := rfl
@[simp] theorem releaseCtx_returned (c : Nat) : (releaseCtx c s).returned = s.returned := rfl
@[simp] theorem releaseCtx_disp (c : Nat) : (releaseCtx c s).disp = s.disp := rfl
@[simp] theorem releaseCtx_sensors (c : Nat) : (releaseCtx c s).sensors = s.sensors := rfl
@[simp] theorem releaseCtx_mem (c : Nat) : (releaseCtx c s).mem = s.mem := rfl
@[simp] theorem releaseCtx_models (c : Nat) : (releaseCtx c s).models = s.models := rfl
@[simp] theorem releaseCtx_nextModel (c : Nat) : (releaseCtx c s).nextModel = s.nextModel := rfl
@[simp] theorem releaseCtx_load (c : Nat) : (releaseCtx c s).load = s.load := rfl
@[simp] theorem releaseCtx_feedback (c : Nat) : (releaseCtx c s).feedback = s.feedback := rfl
@[simp] theorem releaseCtx_refits (c : Nat) : (releaseCtx c s).refits = s.refits := rfl
@[simp] theorem releaseCtx_searches (c : Nat) : (releaseCtx c s).searches = s.searches := rfl
@[simp] theorem releaseCtx_waymarks (c : Nat) : (releaseCtx c s).waymarks = s.waymarks := rfl
@[simp] theorem releaseCtx_wmkUnit (c : Nat) : (releaseCtx c s).wmkUnit = s.wmkUnit := rfl
@[simp] theorem releaseCtx_dma (c : Nat) : (releaseCtx c s).dma = s.dma := rfl
@[simp] theorem releaseCtx_zth (c : Nat) : (releaseCtx c s).zth = s.zth := rfl
@[simp] theorem releaseCtx_tenants (c : Nat) : (releaseCtx c s).tenants = s.tenants := rfl
@[simp] theorem releaseCtx_fns (c : Nat) : (releaseCtx c s).fns = s.fns := rfl
@[simp] theorem releaseCtx_taken (c : Nat) : (releaseCtx c s).taken = s.taken := rfl
@[simp] theorem releaseCtx_due (c : Nat) : (releaseCtx c s).due = s.due := rfl
@[simp] theorem releaseCtx_evBuf (c : Nat) : (releaseCtx c s).evBuf = s.evBuf := rfl
@[simp] theorem releaseCtx_evSeq (c : Nat) : (releaseCtx c s).evSeq = s.evSeq := rfl
@[simp] theorem releaseCtx_evLog (c : Nat) : (releaseCtx c s).evLog = s.evLog := rfl
@[simp] theorem releaseCtx_mismatches (c : Nat) : (releaseCtx c s).mismatches = s.mismatches := rfl
@[simp] theorem releaseCtx_releasing (c : Nat) : (releaseCtx c s).releasing = s.releasing := rfl
@[simp] theorem releaseCtx_out (c : Nat) : (releaseCtx c s).out = s.out := rfl
@[simp] theorem releaseCtx_freeIdx (c : Nat) : (releaseCtx c s).freeIdx = s.freeIdx := rfl

/-! ## later -/

@[simp] theorem later_pending (d : Due) : (later d s).pending = s.pending := rfl
@[simp] theorem later_time (d : Due) : (later d s).time = s.time := rfl
@[simp] theorem later_boot (d : Due) : (later d s).boot = s.boot := rfl
@[simp] theorem later_ports (d : Due) : (later d s).ports = s.ports := rfl
@[simp] theorem later_eth (d : Due) : (later d s).eth = s.eth := rfl
@[simp] theorem later_endpoints (d : Due) : (later d s).endpoints = s.endpoints := rfl
@[simp] theorem later_ctr (d : Due) : (later d s).ctr = s.ctr := rfl
@[simp] theorem later_ctxs (d : Due) : (later d s).ctxs = s.ctxs := rfl
@[simp] theorem later_freeCtx (d : Due) : (later d s).freeCtx = s.freeCtx := rfl
@[simp] theorem later_trhQ (d : Due) : (later d s).trhQ = s.trhQ := rfl
@[simp] theorem later_stats (d : Due) : (later d s).stats = s.stats := rfl
@[simp] theorem later_banks (d : Due) : (later d s).banks = s.banks := rfl
@[simp] theorem later_walkers (d : Due) : (later d s).walkers = s.walkers := rfl
@[simp] theorem later_progs (d : Due) : (later d s).progs = s.progs := rfl
@[simp] theorem later_ridges (d : Due) : (later d s).ridges = s.ridges := rfl
@[simp] theorem later_slots (d : Due) : (later d s).slots = s.slots := rfl
@[simp] theorem later_rows (d : Due) : (later d s).rows = s.rows := rfl
@[simp] theorem later_restoring (d : Due) : (later d s).restoring = s.restoring := rfl
@[simp] theorem later_crnPort (d : Due) : (later d s).crnPort = s.crnPort := rfl
@[simp] theorem later_returned (d : Due) : (later d s).returned = s.returned := rfl
@[simp] theorem later_disp (d : Due) : (later d s).disp = s.disp := rfl
@[simp] theorem later_sensors (d : Due) : (later d s).sensors = s.sensors := rfl
@[simp] theorem later_mem (d : Due) : (later d s).mem = s.mem := rfl
@[simp] theorem later_models (d : Due) : (later d s).models = s.models := rfl
@[simp] theorem later_nextModel (d : Due) : (later d s).nextModel = s.nextModel := rfl
@[simp] theorem later_load (d : Due) : (later d s).load = s.load := rfl
@[simp] theorem later_feedback (d : Due) : (later d s).feedback = s.feedback := rfl
@[simp] theorem later_refits (d : Due) : (later d s).refits = s.refits := rfl
@[simp] theorem later_searches (d : Due) : (later d s).searches = s.searches := rfl
@[simp] theorem later_waymarks (d : Due) : (later d s).waymarks = s.waymarks := rfl
@[simp] theorem later_wmkUnit (d : Due) : (later d s).wmkUnit = s.wmkUnit := rfl
@[simp] theorem later_dma (d : Due) : (later d s).dma = s.dma := rfl
@[simp] theorem later_zth (d : Due) : (later d s).zth = s.zth := rfl
@[simp] theorem later_tenants (d : Due) : (later d s).tenants = s.tenants := rfl
@[simp] theorem later_fns (d : Due) : (later d s).fns = s.fns := rfl
@[simp] theorem later_taken (d : Due) : (later d s).taken = s.taken := rfl
@[simp] theorem later_due (d : Due) : (later d s).due = s.due ++ [(s.time.epoch, d)] := rfl
@[simp] theorem later_evBuf (d : Due) : (later d s).evBuf = s.evBuf := rfl
@[simp] theorem later_evSeq (d : Due) : (later d s).evSeq = s.evSeq := rfl
@[simp] theorem later_evLog (d : Due) : (later d s).evLog = s.evLog := rfl
@[simp] theorem later_mismatches (d : Due) : (later d s).mismatches = s.mismatches := rfl
@[simp] theorem later_releasing (d : Due) : (later d s).releasing = s.releasing := rfl
@[simp] theorem later_out (d : Due) : (later d s).out = s.out := rfl
@[simp] theorem later_freeIdx (d : Due) : (later d s).freeIdx = s.freeIdx := rfl

/-! ## soon -/

@[simp] theorem soon_pending (d : Due) : (soon d s).pending = s.pending := rfl
@[simp] theorem soon_time (d : Due) : (soon d s).time = s.time := rfl
@[simp] theorem soon_boot (d : Due) : (soon d s).boot = s.boot := rfl
@[simp] theorem soon_ports (d : Due) : (soon d s).ports = s.ports := rfl
@[simp] theorem soon_eth (d : Due) : (soon d s).eth = s.eth := rfl
@[simp] theorem soon_endpoints (d : Due) : (soon d s).endpoints = s.endpoints := rfl
@[simp] theorem soon_ctr (d : Due) : (soon d s).ctr = s.ctr := rfl
@[simp] theorem soon_ctxs (d : Due) : (soon d s).ctxs = s.ctxs := rfl
@[simp] theorem soon_freeCtx (d : Due) : (soon d s).freeCtx = s.freeCtx := rfl
@[simp] theorem soon_trhQ (d : Due) : (soon d s).trhQ = s.trhQ := rfl
@[simp] theorem soon_stats (d : Due) : (soon d s).stats = s.stats := rfl
@[simp] theorem soon_banks (d : Due) : (soon d s).banks = s.banks := rfl
@[simp] theorem soon_walkers (d : Due) : (soon d s).walkers = s.walkers := rfl
@[simp] theorem soon_progs (d : Due) : (soon d s).progs = s.progs := rfl
@[simp] theorem soon_ridges (d : Due) : (soon d s).ridges = s.ridges := rfl
@[simp] theorem soon_slots (d : Due) : (soon d s).slots = s.slots := rfl
@[simp] theorem soon_rows (d : Due) : (soon d s).rows = s.rows := rfl
@[simp] theorem soon_restoring (d : Due) : (soon d s).restoring = s.restoring := rfl
@[simp] theorem soon_crnPort (d : Due) : (soon d s).crnPort = s.crnPort := rfl
@[simp] theorem soon_returned (d : Due) : (soon d s).returned = s.returned := rfl
@[simp] theorem soon_disp (d : Due) : (soon d s).disp = s.disp := rfl
@[simp] theorem soon_sensors (d : Due) : (soon d s).sensors = s.sensors := rfl
@[simp] theorem soon_mem (d : Due) : (soon d s).mem = s.mem := rfl
@[simp] theorem soon_models (d : Due) : (soon d s).models = s.models := rfl
@[simp] theorem soon_nextModel (d : Due) : (soon d s).nextModel = s.nextModel := rfl
@[simp] theorem soon_load (d : Due) : (soon d s).load = s.load := rfl
@[simp] theorem soon_feedback (d : Due) : (soon d s).feedback = s.feedback := rfl
@[simp] theorem soon_refits (d : Due) : (soon d s).refits = s.refits := rfl
@[simp] theorem soon_searches (d : Due) : (soon d s).searches = s.searches := rfl
@[simp] theorem soon_waymarks (d : Due) : (soon d s).waymarks = s.waymarks := rfl
@[simp] theorem soon_wmkUnit (d : Due) : (soon d s).wmkUnit = s.wmkUnit := rfl
@[simp] theorem soon_dma (d : Due) : (soon d s).dma = s.dma := rfl
@[simp] theorem soon_zth (d : Due) : (soon d s).zth = s.zth := rfl
@[simp] theorem soon_tenants (d : Due) : (soon d s).tenants = s.tenants := rfl
@[simp] theorem soon_fns (d : Due) : (soon d s).fns = s.fns := rfl
@[simp] theorem soon_taken (d : Due) : (soon d s).taken = s.taken := rfl
@[simp] theorem soon_due (d : Due) : (soon d s).due = s.due ++ [(s.time.epoch - 1, d)] := rfl
@[simp] theorem soon_evBuf (d : Due) : (soon d s).evBuf = s.evBuf := rfl
@[simp] theorem soon_evSeq (d : Due) : (soon d s).evSeq = s.evSeq := rfl
@[simp] theorem soon_evLog (d : Due) : (soon d s).evLog = s.evLog := rfl
@[simp] theorem soon_mismatches (d : Due) : (soon d s).mismatches = s.mismatches := rfl
@[simp] theorem soon_releasing (d : Due) : (soon d s).releasing = s.releasing := rfl
@[simp] theorem soon_out (d : Due) : (soon d s).out = s.out := rfl
@[simp] theorem soon_freeIdx (d : Due) : (soon d s).freeIdx = s.freeIdx := rfl

/-! ## endTaken -/

@[simp] theorem endTaken_pending (f : Nat) : (endTaken f s).pending = s.pending := rfl
@[simp] theorem endTaken_time (f : Nat) : (endTaken f s).time = s.time := rfl
@[simp] theorem endTaken_boot (f : Nat) : (endTaken f s).boot = s.boot := rfl
@[simp] theorem endTaken_ports (f : Nat) : (endTaken f s).ports = s.ports := rfl
@[simp] theorem endTaken_eth (f : Nat) : (endTaken f s).eth = s.eth := rfl
@[simp] theorem endTaken_endpoints (f : Nat) : (endTaken f s).endpoints = s.endpoints := rfl
@[simp] theorem endTaken_ctr (f : Nat) : (endTaken f s).ctr = s.ctr := rfl
@[simp] theorem endTaken_ctxs (f : Nat) : (endTaken f s).ctxs = s.ctxs := rfl
@[simp] theorem endTaken_freeCtx (f : Nat) : (endTaken f s).freeCtx = s.freeCtx := rfl
@[simp] theorem endTaken_trhQ (f : Nat) : (endTaken f s).trhQ = s.trhQ := rfl
@[simp] theorem endTaken_stats (f : Nat) : (endTaken f s).stats = s.stats := rfl
@[simp] theorem endTaken_banks (f : Nat) : (endTaken f s).banks = s.banks := rfl
@[simp] theorem endTaken_walkers (f : Nat) : (endTaken f s).walkers = s.walkers := rfl
@[simp] theorem endTaken_progs (f : Nat) : (endTaken f s).progs = s.progs := rfl
@[simp] theorem endTaken_ridges (f : Nat) : (endTaken f s).ridges = s.ridges := rfl
@[simp] theorem endTaken_slots (f : Nat) : (endTaken f s).slots = s.slots := rfl
@[simp] theorem endTaken_rows (f : Nat) : (endTaken f s).rows = s.rows := rfl
@[simp] theorem endTaken_restoring (f : Nat) : (endTaken f s).restoring = s.restoring := rfl
@[simp] theorem endTaken_crnPort (f : Nat) : (endTaken f s).crnPort = s.crnPort := rfl
@[simp] theorem endTaken_returned (f : Nat) : (endTaken f s).returned = s.returned := rfl
@[simp] theorem endTaken_disp (f : Nat) : (endTaken f s).disp = s.disp := rfl
@[simp] theorem endTaken_sensors (f : Nat) : (endTaken f s).sensors = s.sensors := rfl
@[simp] theorem endTaken_mem (f : Nat) : (endTaken f s).mem = s.mem := rfl
@[simp] theorem endTaken_models (f : Nat) : (endTaken f s).models = s.models := rfl
@[simp] theorem endTaken_nextModel (f : Nat) : (endTaken f s).nextModel = s.nextModel := rfl
@[simp] theorem endTaken_load (f : Nat) : (endTaken f s).load = s.load := rfl
@[simp] theorem endTaken_feedback (f : Nat) : (endTaken f s).feedback = s.feedback := rfl
@[simp] theorem endTaken_refits (f : Nat) : (endTaken f s).refits = s.refits := rfl
@[simp] theorem endTaken_searches (f : Nat) : (endTaken f s).searches = s.searches := rfl
@[simp] theorem endTaken_waymarks (f : Nat) : (endTaken f s).waymarks = s.waymarks := rfl
@[simp] theorem endTaken_wmkUnit (f : Nat) : (endTaken f s).wmkUnit = s.wmkUnit := rfl
@[simp] theorem endTaken_dma (f : Nat) : (endTaken f s).dma = s.dma := rfl
@[simp] theorem endTaken_zth (f : Nat) : (endTaken f s).zth = s.zth := rfl
@[simp] theorem endTaken_tenants (f : Nat) : (endTaken f s).tenants = s.tenants := rfl
@[simp] theorem endTaken_fns (f : Nat) : (endTaken f s).fns = s.fns := rfl
@[simp] theorem endTaken_taken (f : Nat) : (endTaken f s).taken = s.taken.filter (· != f) := rfl
@[simp] theorem endTaken_due (f : Nat) : (endTaken f s).due = s.due := rfl
@[simp] theorem endTaken_evBuf (f : Nat) : (endTaken f s).evBuf = s.evBuf := rfl
@[simp] theorem endTaken_evSeq (f : Nat) : (endTaken f s).evSeq = s.evSeq := rfl
@[simp] theorem endTaken_evLog (f : Nat) : (endTaken f s).evLog = s.evLog := rfl
@[simp] theorem endTaken_mismatches (f : Nat) : (endTaken f s).mismatches = s.mismatches := rfl
@[simp] theorem endTaken_releasing (f : Nat) : (endTaken f s).releasing = s.releasing := rfl
@[simp] theorem endTaken_out (f : Nat) : (endTaken f s).out = s.out := rfl
@[simp] theorem endTaken_freeIdx (f : Nat) : (endTaken f s).freeIdx = s.freeIdx := rfl

end Sys2Proof.Machine
end

