-- ==== Sys2Proof/Laws/Ops.lean ====
section
/-! SUPPORT. What the shared operations can do: sparse stores, counters, events, memory and its canonical form. -/

namespace Sys2Proof.Machine

/-! ## Sparse stores -/

variable {α : Type}

theorem kvGet_kvSet (m : Kv α) (k j : Nat) (v : α) : kvGet (kvSet m k v) j = if j = k then some v else kvGet m j := by
  induction m with
  | nil => simp only [kvSet, kvGet, eq_comm]
  | cons p r ih =>
    obtain ⟨a, w⟩ := p
    simp only [kvSet]
    split
    · simp only [kvGet, eq_comm]
    · split
      · rename_i _ h
        subst h
        simp only [kvGet]
        by_cases hj : j = k
        · simp [hj]
        · simp [hj, Ne.symm hj]
      · rename_i _ h
        simp only [kvGet, ih]
        by_cases hj : j = k
        · simp [hj, Ne.symm h]
        · simp [hj]

theorem kvGet_kvDel (m : Kv α) (k j : Nat) : kvGet (kvDel m k) j = if j = k then none else kvGet m j := by
  induction m with
  | nil => simp [kvDel, kvGet]
  | cons p r ih =>
    obtain ⟨a, w⟩ := p
    simp only [kvDel]
    by_cases ha : a = k
    · rw [if_pos ha, ih]
      by_cases hj : j = k
      · simp [hj]
      · simp [kvGet, hj, ha, Ne.symm hj]
    · rw [if_neg ha]
      simp only [kvGet, ih]
      by_cases hj : j = k
      · simp [hj, ha]
      · simp [hj]

theorem kvGet_kvPut [DecidableEq α] (d : α) (m : Kv α) (k j : Nat) (v : α) :
    (kvGet (kvPut d m k v) j).getD d = if j = k then v else (kvGet m j).getD d := by
  unfold kvPut
  split
  · rw [kvGet_kvDel]; split <;> simp_all
  · rw [kvGet_kvSet]; split <;> simp_all

theorem kvGet_kvMod (m : Kv α) (k j : Nat) (f : α → α) :
    kvGet (kvMod m k f) j = if j = k then (kvGet m j).map f else kvGet m j := by
  induction m with
  | nil => simp [kvMod, kvGet]
  | cons p r ih =>
    obtain ⟨a, w⟩ := p
    have hm : kvMod ((a, w) :: r) k f = (if a = k then (a, f w) else (a, w)) :: kvMod r k f := rfl
    rw [hm]
    by_cases ha : a = k
    · subst ha
      by_cases hj : j = a
      · simp [kvGet, hj]
      · have : ¬ a = j := fun h => hj h.symm
        simp [kvGet, hj, this, ih]
    · by_cases hj : a = j
      · subst hj
        simp [kvGet, ha]
      · simp [kvGet, ha, hj, ih]

/-! ## Element access after an update -/

theorem getD_modify_ne {β : Type} (l : List β) (i j : Nat) (f : β → β) (d : β) (h : j ≠ i) :
    (l.modify i f).getD j d = l.getD j d := by
  simp [List.getD_eq_getElem?_getD, Ne.symm h]

theorem getD_modify_eq {β : Type} (l : List β) (i : Nat) (f : β → β) (d : β) (h : i < l.length) :
    (l.modify i f).getD i d = f (l.getD i d) := by
  simp [List.getD_eq_getElem?_getD, h]

theorem modify_modify {β : Type} (l : List β) (i : Nat) (f g : β → β) : (l.modify i f).modify i g = l.modify i (g ∘ f) := by
  apply List.ext_getElem?
  intro j
  simp only [List.getElem?_modify]
  by_cases h : i = j <;> simp [h, Function.comp_def]

theorem waymark_putWaymark (i j : Nat) (w : Waymark) (s : State) :
    (putWaymark i w s).waymark j = if j = i then w else s.waymark j := by
  simp only [State.waymark, putWaymark_waymarks]
  exact kvGet_kvPut Waymark.reset s.waymarks i j w

/-! ## Counters -/

theorem counter_count (s : State) (k n j : Nat) :
    (count k n s).counter j = if j = k ∧ n ≠ 0 then (s.counter j + n) % 2 ^ 64 else s.counter j := by
  unfold count
  by_cases hn : n = 0
  · simp [hn]
  · simp only [hn, if_false, State.counter]
    rw [kvGet_kvPut]
    by_cases hj : j = k <;> simp [hj, hn]

/-- A count changes the counters and nothing else. -/
theorem count_frame (k n : Nat) (s : State) : count k n s = { s with ctr := (count k n s).ctr } := by
  unfold count; split <;> rfl

/-! ## Events -/

/-- Marking a lost event changes its function and nothing else. -/
theorem markLost_frame (f : Nat) (s : State) : markLost f s = { s with fns := (markLost f s).fns } := rfl

theorem foldl_markLost_frame (fs : List Nat) (s : State) :
    fs.foldl (fun s f => markLost f s) s = { s with fns := (fs.foldl (fun s f => markLost f s) s).fns } := by
  induction fs generalizing s with
  | nil => rfl
  | cons f r ih =>
    simp only [List.foldl_cons]
    rw [ih (markLost f s)]
    rfl

/-- Raising an event changes the engine's buffer, sequence and log, or counts a drop and marks the functions' queues. -/
theorem raise_frame (c t : Nat) (d : List Byte) (s : State) :
    raise c t d s = { s with
      evBuf := (raise c t d s).evBuf, evSeq := (raise c t d s).evSeq, evLog := (raise c t d s).evLog
      ctr := (raise c t d s).ctr, fns := (raise c t d s).fns } := by
  unfold raise
  split
  · rfl
  · rw [foldl_markLost_frame, count_frame]

/-- With room in the engine's buffer the event waits there, numbered and stamped with the tick. -/
theorem raise_room (c t : Nat) (d : List Byte) (s : State) (h : s.evBuf.length < 512) :
    raise c t d s = { s with
      evBuf := s.evBuf ++ [⟨c, t, s.evSeq, s.time.tick, fitBytes d 16⟩], evSeq := incMod 32 s.evSeq
      evLog := (⟨c, t, s.evSeq, s.time.tick, fitBytes d 16⟩ :: s.evLog).take 1024 } := by
  simp [raise, h]

/-! ## Memory and its canonical form -/

/-- Every address listed is at or above `a`. -/
def cellsFrom (a : Nat) (l : List Host.Cell) : Prop := ∀ p ∈ l, a ≤ p.1

theorem cellsWf_cons (a : Nat) (b : Byte) (l : List Host.Cell) :
    cellsWf ((a, b) :: l) = true ↔ b ≠ 0 ∧ cellsFrom (a + 1) l ∧ cellsWf l = true := by
  induction l generalizing a b with
  | nil => simp [cellsWf, cellsFrom]
  | cons p r ih =>
    obtain ⟨a', b'⟩ := p
    have hr := ih a' b'
    constructor
    · intro h
      simp only [cellsWf, Bool.and_eq_true, decide_eq_true_eq, bne_iff_ne] at h
      obtain ⟨⟨h1, h2⟩, h3⟩ := h
      refine ⟨h2, ?_, h3⟩
      intro p hp
      rcases List.mem_cons.mp hp with rfl | hp
      · exact h1
      · have := (hr.mp h3).2.1 p hp
        omega
    · rintro ⟨h1, h2, h3⟩
      simp only [cellsWf, Bool.and_eq_true, decide_eq_true_eq, bne_iff_ne]
      exact ⟨⟨h2 (a', b') (by simp), h1⟩, h3⟩

theorem cellsFrom_kvSet (a k : Nat) (b : Byte) (l : List Host.Cell) (h : cellsFrom a l) (hk : a ≤ k) :
    cellsFrom a (kvSet l k b) := by
  induction l with
  | nil => intro p hp; simp only [kvSet, List.mem_singleton] at hp; subst hp; exact hk
  | cons q r ih =>
    obtain ⟨a', b'⟩ := q
    have hr : cellsFrom a r := fun p hp => h p (by simp [hp])
    have hq : a ≤ a' := h (a', b') (by simp)
    simp only [kvSet]
    split
    · intro p hp
      rcases List.mem_cons.mp hp with rfl | hp
      · exact hk
      · exact h p hp
    · split
      · intro p hp
        rcases List.mem_cons.mp hp with rfl | hp
        · exact hk
        · exact hr p hp
      · intro p hp
        rcases List.mem_cons.mp hp with rfl | hp
        · exact hq
        · exact ih hr p hp

theorem cellsWf_kvSet (k : Nat) (b : Byte) (l : List Host.Cell) (hb : b ≠ 0) (h : cellsWf l = true) :
    cellsWf (kvSet l k b) = true := by
  induction l with
  | nil => simpa [kvSet, cellsWf] using hb
  | cons q r ih =>
    obtain ⟨a', b'⟩ := q
    obtain ⟨h1, h2, h3⟩ := (cellsWf_cons a' b' r).mp h
    simp only [kvSet]
    split
    · rw [cellsWf_cons]
      refine ⟨hb, ?_, h⟩
      intro p hp
      rcases List.mem_cons.mp hp with rfl | hp
      · simpa using (by omega : k + 1 ≤ a')
      · have := h2 p hp; omega
    · split
      · rename_i hk
        subst hk
        exact (cellsWf_cons k b r).mpr ⟨hb, h2, h3⟩
      · rw [cellsWf_cons]
        exact ⟨h1, cellsFrom_kvSet _ _ _ _ h2 (by omega), ih h3⟩

theorem cellsWf_sub (l r : List Host.Cell) (h : l.Sublist r) (hr : cellsWf r = true) : cellsWf l = true := by
  induction h with
  | slnil => rfl
  | cons p _ ih =>
    obtain ⟨a, b⟩ := p
    exact ih ((cellsWf_cons a b _).mp hr).2.2
  | cons_cons p hs ih =>
    obtain ⟨a, b⟩ := p
    obtain ⟨h1, h2, h3⟩ := (cellsWf_cons a b _).mp hr
    exact (cellsWf_cons a b _).mpr ⟨h1, fun q hq => h2 q (hs.subset hq), ih h3⟩

theorem kvDel_sublist (l : List Host.Cell) (k : Nat) : (kvDel l k).Sublist l := by
  induction l with
  | nil => exact List.Sublist.slnil
  | cons q r ih =>
    obtain ⟨a, b⟩ := q
    simp only [kvDel]
    split
    · exact ih.cons _
    · exact ih.cons_cons _

/-- A byte write keeps the canonical form. -/
theorem memPutByte_wf (m : MemSt) (a : Nat) (b : Byte) (h : Memory.wf m = true) : Memory.wf (memPutByte m a b) = true := by
  show cellsWf (kvPut 0 m.cells a b) = true
  unfold kvPut
  split
  · exact cellsWf_sub _ _ (kvDel_sublist _ _) h
  · exact cellsWf_kvSet _ _ _ (by assumption) h

/-- A write keeps the canonical form. -/
theorem memPut_wf (m : MemSt) (a : Nat) (bs : List Byte) (h : Memory.wf m = true) : Memory.wf (memPut m a bs) = true := by
  induction bs generalizing m a with
  | nil => exact h
  | cons b r ih => exact ih _ _ (memPutByte_wf m a b h)

/-- Zeroing keeps the canonical form. -/
theorem memClear_wf (m : MemSt) (a n : Nat) (h : Memory.wf m = true) : Memory.wf (memClear m a n) = true :=
  cellsWf_sub _ _ List.filter_sublist h

/-- Poison marks are no part of the form. -/
@[simp] theorem poison_wf (m : MemSt) (a : Nat) : Memory.wf (poison m a) = Memory.wf m := rfl
@[simp] theorem unpoison_wf (m : MemSt) (a n : Nat) : Memory.wf (unpoison m a n) = Memory.wf m := rfl

/-- The byte just written reads back, and every other byte is as it was. -/
theorem memByte_memPutByte (m : MemSt) (a k : Nat) (b : Byte) :
    memByte (memPutByte m a b) k = if k = a then b else memByte m k := kvGet_kvPut 0 m.cells a k b

end Sys2Proof.Machine
end

