-- ==== Sys2Proof/Laws/Commands.lean ====
section
/-! SUPPORT. What a step and a mailbox command can do: the queue, a command's checks, and how a response is posted. -/

namespace Sys2Proof.Machine

/-! ## The step -/

theorem step_cons (c : Instr) (s : State) (rest : List Instr) (h : s.pending = c :: rest) :
    step s = exec c { s with pending := rest } := by
  simp [step, h]

theorem step_nil (s : State) (h : s.pending = []) : step s = .next (idle s) := by
  simp [step, h]

/-! ## Posting (R376, R378) -/

/-- A response that no reset discards: the page, DONE, the cause bit and the vector, and the next command's turn. -/
theorem respond_answeredAs (f status : Nat) (payload : List Byte) (s : State) (h : (s.fn f).mbx.discard = false) :
    answeredAs f status payload s (respond f status payload s) := by
  have hm : ∀ x, s.fns[f]? = some x → s.fn f = x := by
    intro x hx; simp [State.fn, List.getD_eq_getElem?_getD, hx]
  unfold answeredAs respond postResponse
  simp only [h, Bool.false_eq_true, if_false]
  by_cases hi : (s.fn f).mbx.ie = true
  · rw [if_pos hi]
    simp only [endTaken, fireVector, setCause, modMbx, modFn, modify_modify, State.mk.injEq, true_and, and_true]
    apply List.ext_getElem?
    intro j
    simp only [List.getElem?_modify]
    by_cases hj : f = j
    · subst hj
      cases hx : s.fns[f]? with
      | none => rfl
      | some x =>
        have := hm x hx
        subst this
        simp [hi]
    · simp [hj]
  · rw [if_neg hi]
    simp only [endTaken, setCause, modMbx, modFn, modify_modify, State.mk.injEq, true_and, and_true]
    apply List.ext_getElem?
    intro j
    simp only [List.getElem?_modify]
    by_cases hj : f = j
    · subst hj
      cases hx : s.fns[f]? with
      | none => rfl
      | some x =>
        have := hm x hx
        subst this
        simp [hi]
    · simp [hj]

theorem respondMilestone_awaiting (f : Nat) (payload : List Byte) (s : State) :
    awaiting f (.milestone s.time.epoch) payload s (respondMilestone f payload s) := rfl

theorem respondWait_awaiting (f : Nat) (payload : List Byte) (s : State) :
    awaiting f .wait payload s (respondWait f payload s) := rfl

theorem later_plus (d : Due) (s : State) : later d s = s.plus d := rfl

/-! ## Running a command (R381) -/

variable {f op : Nat} {mine : List Byte → Bool} {check : State → List Byte → Nat → Option Refused}
  {act : List Byte → Nat → State → State} {s : State}

/-- Everything a mailbox command can do: nothing while it is not its turn, a refusal by the common checks, a refusal by its
own rules, or its action. -/
theorem runCommand_cases (t : State) (h : runCommand f op mine check act s = .next t) :
    (commandReady s f op mine = false ∧ t = s) ∨
    (commandReady s f op mine = true ∧ ∃ r, commonCheck s f (s.fn f).mbx = some r ∧ t = refuse f r s) ∨
    (commandReady s f op mine = true ∧ commonCheck s f (s.fn f).mbx = none ∧
      ∃ r, check s (s.payload f) (s.headTenant f) = some r ∧ t = refuse f r s) ∨
    (commandReady s f op mine = true ∧ commonCheck s f (s.fn f).mbx = none ∧
      check s (s.payload f) (s.headTenant f) = none ∧ t = act (s.payload f) (s.headTenant f) s) := by
  unfold runCommand at h
  by_cases hr : commandReady s f op mine = true
  · simp only [hr, Bool.not_true, Bool.false_eq_true, if_false] at h
    cases hc : commonCheck s f (s.fn f).mbx with
    | some r =>
      simp only [hc] at h
      exact .inr (.inl ⟨hr, r, rfl, by injection h with h; exact h.symm⟩)
    | none =>
      simp only [hc] at h
      cases hk : check s (s.payload f) (s.headTenant f) with
      | some r =>
        rw [State.payload, State.headTenant] at hk
        simp only [hk] at h
        exact .inr (.inr (.inl ⟨hr, rfl, r, rfl, by injection h with h; exact h.symm⟩))
      | none =>
        rw [State.payload, State.headTenant] at hk
        simp only [hk] at h
        exact .inr (.inr (.inr ⟨hr, rfl, rfl, by injection h with h; exact h.symm⟩))
  · simp only [Bool.not_eq_true] at hr
    simp only [hr, Bool.not_false, if_true] at h
    exact .inl ⟨hr, by injection h with h; exact h.symm⟩

/-- A command always answers a next state. -/
theorem runCommand_next : ∃ t, runCommand f op mine check act s = .next t := by
  unfold runCommand
  split
  · exact ⟨_, rfl⟩
  · simp only
    split
    · exact ⟨_, rfl⟩
    · split <;> exact ⟨_, rfl⟩

/-- An accepted command acts. -/
theorem runCommand_accepted (h : accepted s f op mine check = true) :
    runCommand f op mine check act s = .next (act (s.payload f) (s.headTenant f) s) := by
  simp only [accepted, Bool.and_eq_true, Option.isNone_iff_eq_none] at h
  obtain ⟨⟨⟨h1, h2⟩, h3⟩, _⟩ := h
  simp only [runCommand, h1, h2, h3, Bool.not_true, Bool.false_eq_true, if_false]
  rfl

end Sys2Proof.Machine
end

