-- ==== Sys2Proof/Laws/Invariants.lean ====
section
/-! SUPPORT. The two invariants over the shared operations: the canonical form of memory, and the numbers of the units. -/

namespace Sys2Proof.Machine

/-! ## Folds -/

/-- What every step of a fold keeps, the fold keeps. -/
theorem foldl_keeps {β : Type} (P : State → Prop) (g : State → β → State) (hg : ∀ s x, P s → P (g s x)) (l : List β) (s : State)
    (h : P s) : P (l.foldl g s) := by
  induction l generalizing s with
  | nil => exact h
  | cons x r ih => exact ih _ (hg s x h)

/-! ## The canonical form of memory -/

variable (s : State)

@[simp] theorem memoryWf_modPort (l : Nat) (f : PortSt → PortSt) : (modPort l f s).memoryWf ↔ s.memoryWf := Iff.rfl
@[simp] theorem memoryWf_modBank (b : Nat) (f : Bank → Bank) : (modBank b f s).memoryWf ↔ s.memoryWf := Iff.rfl
@[simp] theorem memoryWf_modWalker (w : Nat) (f : Walker → Walker) : (modWalker w f s).memoryWf ↔ s.memoryWf := Iff.rfl
@[simp] theorem memoryWf_modRidge (r : Nat) (f : Ridge → Ridge) : (modRidge r f s).memoryWf ↔ s.memoryWf := Iff.rfl
@[simp] theorem memoryWf_modZth (f : ZthSt → ZthSt) : (modZth f s).memoryWf ↔ s.memoryWf := Iff.rfl
@[simp] theorem memoryWf_modSaddle (i : Nat) (f : Saddle → Saddle) : (modSaddle i f s).memoryWf ↔ s.memoryWf := Iff.rfl
@[simp] theorem memoryWf_modTenant (t : Nat) (f : Tenant → Tenant) : (modTenant t f s).memoryWf ↔ s.memoryWf := Iff.rfl
@[simp] theorem memoryWf_modFn (i : Nat) (f : FnSt → FnSt) : (modFn i f s).memoryWf ↔ s.memoryWf := Iff.rfl
@[simp] theorem memoryWf_modMbx (i : Nat) (f : Mailbox → Mailbox) : (modMbx i f s).memoryWf ↔ s.memoryWf := Iff.rfl
@[simp] theorem memoryWf_modDma (f : DmaSt → DmaSt) : (modDma f s).memoryWf ↔ s.memoryWf := Iff.rfl
@[simp] theorem memoryWf_modStream (g : Nat) (f : Stream → Stream) : (modStream g f s).memoryWf ↔ s.memoryWf := Iff.rfl
@[simp] theorem memoryWf_modCtx (c : Nat) (f : RecCtx → RecCtx) : (modCtx c f s).memoryWf ↔ s.memoryWf := Iff.rfl
@[simp] theorem memoryWf_setCtx (c : Nat) (r : RecCtx) : (setCtx c r s).memoryWf ↔ s.memoryWf := Iff.rfl
@[simp] theorem memoryWf_modModel (i : Nat) (f : Model → Model) : (modModel i f s).memoryWf ↔ s.memoryWf := Iff.rfl
@[simp] theorem memoryWf_modDisp (f : DispSt → DispSt) : (modDisp f s).memoryWf ↔ s.memoryWf := Iff.rfl
@[simp] theorem memoryWf_modBoot (f : BootSt → BootSt) : (modBoot f s).memoryWf ↔ s.memoryWf := Iff.rfl
@[simp] theorem memoryWf_modRefit (i : Nat) (f : RefitSt → RefitSt) : (modRefit i f s).memoryWf ↔ s.memoryWf := Iff.rfl
@[simp] theorem memoryWf_putWaymark (i : Nat) (w : Waymark) : (putWaymark i w s).memoryWf ↔ s.memoryWf := Iff.rfl
@[simp] theorem memoryWf_setCounter (k n : Nat) : (setCounter k n s).memoryWf ↔ s.memoryWf := Iff.rfl
@[simp] theorem memoryWf_emit (o : Outp) : (emit o s).memoryWf ↔ s.memoryWf := Iff.rfl
@[simp] theorem memoryWf_setCause (f m : Nat) : (setCause f m s).memoryWf ↔ s.memoryWf := Iff.rfl
@[simp] theorem memoryWf_fireVector (f v : Nat) : (fireVector f v s).memoryWf ↔ s.memoryWf := Iff.rfl
@[simp] theorem memoryWf_releaseCtx (c : Nat) : (releaseCtx c s).memoryWf ↔ s.memoryWf := Iff.rfl
@[simp] theorem memoryWf_later (d : Due) : (later d s).memoryWf ↔ s.memoryWf := Iff.rfl
@[simp] theorem memoryWf_soon (d : Due) : (soon d s).memoryWf ↔ s.memoryWf := Iff.rfl
@[simp] theorem memoryWf_endTaken (f : Nat) : (endTaken f s).memoryWf ↔ s.memoryWf := Iff.rfl
@[simp] theorem memoryWf_count (k n : Nat) : (count k n s).memoryWf ↔ s.memoryWf := by rw [count_frame]; rfl
@[simp] theorem memoryWf_raise (c t : Nat) (d : List Byte) : (raise c t d s).memoryWf ↔ s.memoryWf := by rw [raise_frame]; rfl

theorem memoryWf_writeWhole (a : Nat) (bs : List Byte) (h : s.memoryWf) : (writeWhole a bs s).memoryWf := memPut_wf s.mem a bs h
theorem memoryWf_zeroRange (a n : Nat) (h : s.memoryWf) : (zeroRange a n s).memoryWf := memClear_wf s.mem a n h
@[simp] theorem memoryWf_setPlot (p : Nat) (k : PlotKind × Option Nat) : (setPlot p k s).memoryWf ↔ s.memoryWf := Iff.rfl

/-- A plot taken or zeroed keeps the form, and so does the zeroing of all of Massif. -/
theorem memoryWf_takePlot (p : Nat) (k : PlotKind × Option Nat) (h : s.memoryWf) : (takePlot p k s).memoryWf :=
  memClear_wf s.mem _ _ h
theorem memoryWf_zeroMassif (h : s.memoryWf) : (zeroMassif s).memoryWf := cellsWf_sub _ _ List.filter_sublist h
@[simp] theorem memoryWf_giveBack (cs : List Credit) : (giveBack cs s).memoryWf ↔ s.memoryWf := Iff.rfl

/-! ## The numbers of the units -/

@[simp] theorem shaped_modPort (l : Nat) (f : PortSt → PortSt) : (modPort l f s).shaped ↔ s.shaped := by simp [State.shaped, State.fn]
@[simp] theorem shaped_modBank (b : Nat) (f : Bank → Bank) : (modBank b f s).shaped ↔ s.shaped := by simp [State.shaped, State.fn]
@[simp] theorem shaped_modWalker (w : Nat) (f : Walker → Walker) : (modWalker w f s).shaped ↔ s.shaped := by simp [State.shaped, State.fn]
@[simp] theorem shaped_modRidge (r : Nat) (f : Ridge → Ridge) : (modRidge r f s).shaped ↔ s.shaped := by simp [State.shaped, State.fn]
@[simp] theorem shaped_modTenant (t : Nat) (f : Tenant → Tenant) : (modTenant t f s).shaped ↔ s.shaped := by simp [State.shaped, State.fn]
@[simp] theorem shaped_modStream (g : Nat) (f : Stream → Stream) : (modStream g f s).shaped ↔ s.shaped := by simp [State.shaped, State.fn]
@[simp] theorem shaped_modCtx (c : Nat) (f : RecCtx → RecCtx) : (modCtx c f s).shaped ↔ s.shaped := Iff.rfl
@[simp] theorem shaped_setCtx (c : Nat) (r : RecCtx) : (setCtx c r s).shaped ↔ s.shaped := Iff.rfl
@[simp] theorem shaped_modModel (i : Nat) (f : Model → Model) : (modModel i f s).shaped ↔ s.shaped := Iff.rfl
@[simp] theorem shaped_modDisp (f : DispSt → DispSt) : (modDisp f s).shaped ↔ s.shaped := Iff.rfl
@[simp] theorem shaped_modBoot (f : BootSt → BootSt) : (modBoot f s).shaped ↔ s.shaped := Iff.rfl
@[simp] theorem shaped_modRefit (i : Nat) (f : RefitSt → RefitSt) : (modRefit i f s).shaped ↔ s.shaped := Iff.rfl
@[simp] theorem shaped_putWaymark (i : Nat) (w : Waymark) : (putWaymark i w s).shaped ↔ s.shaped := Iff.rfl
@[simp] theorem shaped_setCounter (k n : Nat) : (setCounter k n s).shaped ↔ s.shaped := Iff.rfl
@[simp] theorem shaped_emit (o : Outp) : (emit o s).shaped ↔ s.shaped := Iff.rfl
@[simp] theorem shaped_giveBack (cs : List Credit) : (giveBack cs s).shaped ↔ s.shaped := Iff.rfl
@[simp] theorem shaped_releaseCtx (c : Nat) : (releaseCtx c s).shaped ↔ s.shaped := Iff.rfl
@[simp] theorem shaped_later (d : Due) : (later d s).shaped ↔ s.shaped := Iff.rfl
@[simp] theorem shaped_soon (d : Due) : (soon d s).shaped ↔ s.shaped := Iff.rfl
@[simp] theorem shaped_endTaken (f : Nat) : (endTaken f s).shaped ↔ s.shaped := Iff.rfl
@[simp] theorem shaped_modMem (f : MemSt → MemSt) : (modMem f s).shaped ↔ s.shaped := Iff.rfl
@[simp] theorem shaped_count (k n : Nat) : (count k n s).shaped ↔ s.shaped := by rw [count_frame]; rfl

/-- A change of the DMA engine that keeps its streams keeps the numbers. -/
theorem shaped_modDma (f : DmaSt → DmaSt) (hf : (f s.dma).streams.length = s.dma.streams.length) :
    (modDma f s).shaped ↔ s.shaped := by simp [State.shaped, State.fn, hf]

/-- A change of a Saddle that keeps the length of its credit lists keeps the numbers. -/
theorem shaped_modSaddle (i : Nat) (f : Saddle → Saddle) (h : s.shaped)
    (hf : ∀ x, x.pools.length = 4 → x.totals.length = 4 → x.sent.length = 4 → x.rcvd.length = 4 → x.freed.length = 4 →
      (f x).pools.length = 4 ∧ (f x).totals.length = 4 ∧ (f x).sent.length = 4 ∧ (f x).rcvd.length = 4 ∧ (f x).freed.length = 4) :
    (modSaddle i f s).shaped := by
  obtain ⟨h1, h2, h3, h4, h5, h6, h7, h8, h9, h10, h11, h12, h13⟩ := h
  refine ⟨h1, h2, h3, h4, h5, h6, h7, h8, by simpa using h9, h10, h11, h12, ?_⟩
  intro x hx
  obtain ⟨j, hj⟩ := List.mem_iff_getElem?.mp hx
  simp only [modSaddle_zth, List.getElem?_modify] at hj
  cases hy : s.zth.saddles[j]? with
  | none => simp [hy] at hj
  | some y =>
    have hm := h13 y (List.mem_iff_getElem?.mpr ⟨j, hy⟩)
    rw [hy] at hj
    by_cases hij : i = j
    · simp only [hij, if_true, Option.map_eq_map, Option.map_some, Option.some.injEq] at hj
      subst hj
      exact hf y hm.1 hm.2.1 hm.2.2.1 hm.2.2.2.1 hm.2.2.2.2
    · simp only [hij, if_false, Option.map_eq_map, Option.map_some, Option.some.injEq] at hj
      subst hj
      exact hm

/-- A change of a function that keeps the length of its wait slots and vectors keeps the numbers. -/
theorem shaped_modFn (i : Nat) (f : FnSt → FnSt) (h : s.shaped)
    (hf : ∀ x, (f x).waits.length = x.waits.length ∧ (f x).msix.length = x.msix.length) : (modFn i f s).shaped := by
  obtain ⟨h1, h2, h3, h4, h5, h6, h7, h8, h9, h10, h11, h12, h13⟩ := h
  refine ⟨h1, h2, h3, h4, h5, h6, h7, h8, h9, h10, by simpa using h11, ?_, h13⟩
  intro g hg
  have hx := h12 g hg
  by_cases hi : g = i
  · subst hi
    have hl : g < s.fns.length := by omega
    have : (modFn g f s).fn g = f (s.fn g) := getD_modify_eq _ _ _ _ hl
    rw [this]
    exact ⟨(hf _).1.trans hx.1, (hf _).2.trans hx.2⟩
  · have : (modFn i f s).fn g = s.fn g := getD_modify_ne _ _ _ _ _ hi
    rw [this]
    exact hx

theorem shaped_modMbx (i : Nat) (f : Mailbox → Mailbox) (h : s.shaped) : (modMbx i f s).shaped :=
  shaped_modFn s i _ h (fun _ => ⟨rfl, rfl⟩)
theorem shaped_setCause (f m : Nat) (h : s.shaped) : (setCause f m s).shaped := shaped_modFn s f _ h (fun _ => ⟨rfl, rfl⟩)
theorem shaped_fireVector (f v : Nat) (h : s.shaped) : (fireVector f v s).shaped := shaped_modFn s f _ h (fun _ => ⟨rfl, rfl⟩)
theorem shaped_markLost (f : Nat) (h : s.shaped) : (markLost f s).shaped :=
  shaped_modFn s f _ h (fun x => by split <;> exact ⟨rfl, rfl⟩)

/-- Raising an event keeps the numbers. -/
theorem shaped_raise (c t : Nat) (d : List Byte) (h : s.shaped) : (raise c t d s).shaped := by
  unfold raise
  split
  · exact h
  · exact foldl_keeps State.shaped (fun s f => markLost f s) (fun s x hs => shaped_markLost s x hs) _ _ ((shaped_count s _ _).mpr h)

/-- Posting a response keeps the numbers. -/
theorem shaped_postResponse (f st : Nat) (p : List Byte) (h : s.shaped) : (postResponse f st p s).shaped := by
  unfold postResponse
  simp only
  split
  · exact shaped_modMbx s f _ h
  · split
    · exact shaped_fireVector _ _ _ (shaped_setCause _ _ _ (shaped_modMbx s f _ h))
    · exact shaped_setCause _ _ _ (shaped_modMbx s f _ h)

/-- Posting a response touches no memory. -/
@[simp] theorem memoryWf_postResponse (f st : Nat) (p : List Byte) : (postResponse f st p s).memoryWf ↔ s.memoryWf := by
  unfold postResponse
  simp only
  split
  · rfl
  · split <;> rfl

end Sys2Proof.Machine
end

