-- ==== Sys2Proof/Tests/Slice0.lean ====
section
/-! SUPPORT. Tests: an ill-formed command for each check of WellFormed, witnesses that meet the statements' hypotheses, and small steps of each family. -/

namespace Sys2Proof.Tests

open Sys2Proof.Machine

set_option Elab.async false

/-! ## Well-formed commands -/

theorem test_wf_flit : (Instr.dataFlitRx 0 (zeros 255) .clean).wf = false ∧ (Instr.dataFlitRx 0 (zeros 256) .clean).wf = true := by
  decide +kernel
theorem test_wf_init_flit : (Instr.initFlitRx 0 [] .clean).wf = false ∧ (Instr.idleFlitRx 0 [] .clean).wf = false ∧
    (Instr.retryReqRx 0 [] .clean).wf = false ∧ (Instr.notReadyRx 0 [] .clean).wf = false := by decide +kernel
theorem test_wf_descriptor : (Instr.descriptorStart 0 (zeros 63)).wf = false := by decide +kernel
theorem test_wf_board : (Instr.mailboxReady (zeros 31) true true).wf = false := by decide +kernel
/-- A good frame check: the FCS holds, FEC and SECDED find nothing. -/
def ok0 : FrameCheck := ⟨true, 0, 0, []⟩
theorem test_wf_frame : (Instr.recordFrameRx 0 (zeros 13) ok0).wf = false ∧ (Instr.feedbackFrameRx 0 [] ok0).wf = false ∧
    (Instr.arpRequestRx 0 [] ok0).wf = false ∧ (Instr.neighbourSolicitationRx 0 [] ok0).wf = false := by decide +kernel
theorem test_wf_bar_write : (Instr.registerWrite 0 0 []).wf = false ∧ (Instr.registerWrite 0 262143 (zeros 2)).wf = false ∧
    (Instr.registerWrite 0 0xFFC (zeros 8)).wf = false ∧ (Instr.registerWrite 0 0x1000 (zeros 32)).wf = true := by decide +kernel
theorem test_wf_words : ∀ c ∈ [Instr.dmaRingTailWrite 0 0 (2 ^ 32), .evtQueueHeadWrite 0 (2 ^ 32), .evtIntCauseWrite 0 (2 ^ 32),
    .mbxDoorbellRing 0 (2 ^ 32), .msixTableWrite 0 0x5000 (2 ^ 32), .reg64LowWrite 0 0x4100 (2 ^ 32),
    .reg64HighWrite 0 0x4104 (2 ^ 32), .waitArm 0 0 (2 ^ 32), .waitCancel 0 0 (2 ^ 32)], c.wf = false := by decide +kernel

/-! ## Small states -/

/-- The state a command answers. -/
def after (c : Instr) (s : State) : State :=
  match exec c s with
  | .next t => t
  | _ => s

/-- The state a step answers. -/
def stepped (s : State) : State :=
  match step s with
  | .next t => t
  | _ => s

/-- The quotas of the test tenant. -/
def quota0 : Quota :=
  { hotEngines := 64, plots := 8, contexts := 16, latSlots := 64, latEnergy := 100000, tpSlots := 254, tpQueue := 4, transferCap := 8
    cairnBase := 0, stride := 4, policy := .mark, blocks := 4, wmkBase := 100, wmkCount := 10, scope := 0 }

def tenant0 : Tenant :=
  { Tenant.reset with state := .enabled, enable := true, enableView := true, quota := quota0, freeBlocks := [0, 4, 8, 12] }

def port0 : PortSt :=
  { PortSt.reset with
    mode := .opened, openBit := true, openView := true, link := true, mac := [2, 0, 0, 0, 0, 1], ipv4 := [[10, 0, 0, 1]]
    ipv6 := [[0xFE, 0x80, 0, 0, 0, 0, 0, 0, 0, 0, 0, 0, 0, 0, 0, 1]], etherTypes := [0x88B5], pfcMask := 255, xoff := 2000, xon := 1000 }

/-- A device that is ready, with tenant 0 ENABLED and logical port 0 OPEN. -/
def up : State :=
  { State.reset with
    boot := { State.reset.boot with
      phase := .ready, powerGood := true, perstN := true, fwRunning := true, configReady := true, pcieLink := true
      refclkNet := true, smbusUp := true }
    time := { State.reset.time with clockOn := true }
    fns := State.reset.fns.map (fun x => { x with mbx := { x.mbx with state := .ready } })
    tenants := State.reset.tenants.set 0 tenant0, ports := State.reset.ports.set 0 port0
    endpoints := [(0, ⟨0, 0, 2, 0xFFFF, [], 0x88B5⟩)] }

/-- The units of a state. -/
theorem up_shaped : up.shaped := by unfold State.shaped; decide +kernel

/-- A model of tenant 0 with one channel and no tree. -/
def image0 : Image :=
  { size := 256, fmode := false, channels := 1, members := 1, sr := false, seed := 0, qscale := 0x3F800000, base := [0], fields := []
    program := [], entries := [], patterns := [], trees := [], treeOff := 0, treeLen := 0
    out := ⟨0, 0, 0, 0, 0, 0, [(0x3F800000, 0)]⟩, costs := [], cascade := [], refit := none, detour := none }

def model0 : Model :=
  { id := 3, tenant := 0, handle := 7, state := .loaded, latency := false, residency := 0, member := 0, tableRes := false
    selfHeal := false, traced := false, rate := 1, group := 0, iova := 0, ridgeMap := List.range 64, chipIds := [0], waymarks := []
    plots := [20], image := image0, unitsHeld := [], otherUnits := [], versions := [[]], fitLost := false, replaced := false
    deadBlocks := [], healing := [], detourHold := false, standing := false, accepting := true, lostRidges := [] }

/-- The device with that model. -/
def upM : State := { up with models := [model0] }

/-- A record of that model, on port 0. -/
def rec0 : RecCtx :=
  { RecCtx.fresh 0 3 7 99 5 .ethernet ⟨0, [2, 0, 0, 0, 0, 2], none, 2, [], [], 0, 0, 0, 0, 0x88B5⟩ 0 with committed := true }

/-- The device with one record, in context 5. -/
def withRec (r : RecCtx) (s : State) : State := { s with ctxs := [(5, r)] }

/-! ## The queue -/

theorem witness_queue : (stepped { up with pending := [.smbusBusTimeout, .milestone []] }).pending = [.milestone []] ∧
    (stepped { up with pending := [.smbusBusTimeout] }).out = [.smbusRelease] := by decide +kernel
theorem witness_idle : up.pending = [] ∧ up.time.clockOn = true ∧ up.time.cycle < 1023 ∧ (stepped up).time.cycle = 1 ∧
    (stepped { up with time := { up.time with cycle := 1023 } }).time.cycle = 1023 := by decide +kernel
theorem witness_still : up.still := by unfold State.still; decide +kernel
theorem witness_memory_form : up.memoryWf := by unfold State.memoryWf; decide +kernel

/-! ## Resets, boot and board -/

theorem witness_resets : up.boot.powerGood = true ∧ up.boot.perstN = true ∧ up.time.clockOn = true ∧ up.boot.pcieLink = true ∧
    up.boot.fwRunning = true ∧ (after .perstNFall upM).models = [] ∧ (after .perstNFall upM).boot.resetCause = 2 ∧
    (after .watchdogExpiry upM).boot.resetCause = 5 ∧ (after .pf0FunctionLevelReset upM).boot.resetCause = 3 := by decide +kernel
theorem witness_power : (after .powerGoodFall up).boot.powerGood = false ∧ (after .perstNFall up).boot.perstN = false ∧
    (after .perstNRise (after .perstNFall up)).time.clockOn = true := by decide +kernel
theorem test_trip_then_reset : (after .perstNFall (after (.thermalTrip 0) up)).boot.resetCause = 4 ∧
    (after (.thermalTrip 0) up).time.clockOn = false := by decide +kernel

/-- A reset device in its boot ROM, and a slot that fails its header check. -/
def badRead : SlotRead := ⟨.a, zeros 4096, [], [], false⟩
theorem witness_boot : inRom State.reset = true ∧ nextSlot State.reset badRead = some .a ∧ slotResult badRead ≠ 0 ∧
    (after (.bootSlotReadDone badRead) State.reset).boot.tried = [.a] := by decide +kernel
theorem witness_config_ready :
    romDone { State.reset with boot := { State.reset.boot with fwRunning := true } } = true ∧
    (after .configReady { State.reset with boot := { State.reset.boot with fwRunning := true } }).boot.phase = .firmwareInit := by
  decide +kernel
theorem witness_mailbox_ready :
    ((after (.mailboxReady (zeros 32) true true) { up with boot := { up.boot with phase := .firmwareInit } }).fn 4).mbx.state = .ready ∧
    (after (.mailboxReady (zeros 32) true false) { up with boot := { up.boot with phase := .firmwareInit } }).boot.phase = .failed := by
  decide +kernel
theorem witness_config_request : (after (.pcieConfigRequest 1 (some (.ats true))) up).dma.ats = [1] ∧
    (after (.pcieConfigRequest 1 none) { up with boot := { up.boot with configReady := false } }).out = [.cfg 1 true] := by
  decide +kernel

theorem witness_smbus : smbusMine up 0x40 = true ∨ ∃ a ∈ List.range 128, smbusMine up a = true := by decide +kernel
theorem witness_jtag : (up.boot.powerGood = true ∧ up.boot.perstN = true) ∧ (after .extest up).out = [.tdo (some 0)] ∧
    (after .extest { up with boot := { up.boot with perstN := false } }).out = [] ∧ (after .idcode up).out = [.tdo (some 0x36404557)] := by
  decide +kernel

/-! ## Ticks, epochs and heat -/

theorem witness_milestone : up.time.clockOn = true ∧ (after (.milestone []) up).time.tick = 1 ∧ (after (.milestone []) up).time.cycle = 8 := by
  decide +kernel
theorem witness_levels : readingLevel 0 (some 440) = 3 ∧ readingLevel 1 (some 372) = 1 ∧ readingLevel 1 (some 371) = 0 ∧
    readingLevel 3 (some 432) = 3 ∧ readingLevel 2 (some 432) = 2 := by decide +kernel
theorem witness_sensor : up.sensors.length = 16 ∧ (after (.sensorReading 2 (-161) true) up).evBuf.length = 1 ∧
    (after (.sensorReading 2 600 true) up).evBuf = [] := by decide +kernel
theorem witness_epoch : (after (.epochStart 50000 []) up).time.epoch = 1 ∧ (after (.epochStart 50000 []) up).disp.fixedNext =
    50000 + 1000 * up.disp.allowance := by decide +kernel
/-- A power command accepted now names a higher point. -/
def rising : State := { up with
  disp := { up.disp with point := .low, topPoint := .nominal }, due := [(0, .power (leBytes 1 8 ++ leBytes 1 0 ++ zeros 14))] }
theorem witness_voltage : risingPoint rising = some .nominal ∧ (after .voltageUpRequest rising).boot.vsel = 0 := by decide +kernel

/-! ## Ethernet ports -/

/-- Logical port 0 of the test device, changed by `g`. -/
def withPort (g : PortSt → PortSt) (s : State) : State := { s with ports := s.ports.modify 0 g }

/-- The CRC-32 of the nine digits, a published check value. -/
theorem test_fcs : fcsOf [0x31, 0x32, 0x33, 0x34, 0x35, 0x36, 0x37, 0x38, 0x39] = [0x26, 0x39, 0xF4, 0xCB] := by decide +kernel

theorem witness_link : ((after (.linkUp 1) up).port 1).link = true ∧ ((after (.linkDown 0 none) up).port 0).link = false ∧
    ((after (.linkDown 0 (some 70)) (withRec rec0 (withPort (fun p => { p with held := some (.allocated 5) }) up))).ctx? 5) = none ∧
    (after (.linkDown 0 (some 70)) (withRec rec0 (withPort (fun p => { p with held := some (.allocated 5) }) up))).counter
      (cPrt 0 pFcs) = 1 ∧
    ((after (.fecLockAttemptFail 0) up).port 0).link = false ∧ portIdle up 0 = true ∧
    ((after (.portDrainComplete 0) (withPort (fun p => { p with mode := .draining }) up)).port 0).mode = .closed := by decide +kernel

/-- XOFF stands sent for priority 3, with the buffer empty and with 1,000 bytes of it above the threshold. -/
def paused3 : State := withPort (fun p => { p with xoffSent := [3], paused := [(3, 9)] }) up
theorem witness_pfc : ((after (.pfcFrameRx 0 64 8 [0, 0, 0, 77]) up).port 0).paused = [(3, 77)] ∧
    ((after (.pfcFrameRx 0 64 8 [0, 0, 0, 0]) paused3).port 0).paused = [] ∧
    (after (.pauseFrameRx 0 64) up).counter (cPrt 0 pPause) = 1 ∧ rxOccupancy paused3 0 (some 3) ≤ (paused3.port 0).xon ∧
    ((after (.pfcXonSend 0 3) paused3).port 0).xoffSent = [] ∧ (after (.pfcXonSend 0 3) paused3).out = [.pfc 0 3 0] ∧
    ((after (.pfcPauseExpiry 0 3) paused3).port 0).paused = [] := by decide +kernel
/-- A record of 3,000 bytes with priority 3 fills the receive buffer above XON. -/
def filled3 : State := withRec { rec0 with frameLen := 3000, state := .trailhead, reply := { rec0.reply with vlan := some (3, 7) } } paused3
theorem witness_xoff : rxOccupancy filled3 0 (some 3) = 3000 ∧ (after (.pfcXoffRepeat 0 3) filled3).out = [.pfc 0 3 0xFFFF] := by
  decide +kernel

/-! ## Received frames -/

/-- An Ethernet frame to the test port. -/
def toPort (et : Nat) (body : List Byte) : List Byte := finishFrame (port0.mac ++ [2, 0, 0, 0, 0, 2] ++ beBytes 2 et ++ body)
def arpFrame : List Byte := toPort 0x0806 (arpPacket 1 [2, 0, 0, 0, 0, 2] [10, 0, 0, 2] (zeros 6) [10, 0, 0, 1])
def ip6 : List Byte := [0xFE, 0x80, 0, 0, 0, 0, 0, 0, 0, 0, 0, 0, 0, 0, 0, 1]
def nsBody : List Byte :=
  let src : List Byte := ip6.take 15 ++ [2]
  let icmp := fun c => beBytes 1 135 ++ beBytes 1 0 ++ beBytes 2 c ++ zeros 4 ++ ip6
  ipv6Header src ip6 0 0 24 58 255 ++ icmp (inetSum (pseudoHeader src ip6 58 24 ++ icmp 0))
def nsFrame : List Byte := toPort 0x86DD nsBody

theorem witness_control : goodFrame up 0 arpFrame = true ∧ goodFrame up 0 nsFrame = true ∧
    (∃ v b, parseFrame (up.port 0) 0 arpFrame = .arp v b ∧ arpAsks (up.port 0) b = true) ∧
    (∃ v b, parseFrame (up.port 0) 0 nsFrame = .nd v b ∧ ndAsks (up.port 0) b = true) ∧
    (ctlAdmit 0 (count (cPrt 0 pCtrl) 1 (afterCount up 0 arpFrame ok0))).1 = true :=
  ⟨by decide +kernel, by decide +kernel, ⟨none, (arpFrame.take 60).drop 14, by decide +kernel⟩,
    ⟨none, (nsFrame.take (nsFrame.length - 4)).drop 14, by decide +kernel⟩, by decide +kernel⟩
theorem test_arp_reply : ((after (.arpReplySend 0) (after (.arpRequestRx 0 arpFrame ok0) up)).port 0).ready.map (·.bytes) =
    [finishFrame ([2, 0, 0, 0, 0, 2] ++ [2, 0, 0, 0, 0, 1] ++ [8, 6, 0, 1, 8, 0, 6, 4, 0, 2] ++ [2, 0, 0, 0, 0, 1, 10, 0, 0, 1] ++
      [2, 0, 0, 0, 0, 2, 10, 0, 0, 2])] := by decide +kernel
theorem test_nd_answer :
    ((after (.neighbourAdvertisementSend 0) (after (.neighbourSolicitationRx 0 nsFrame ok0) up)).port 0).ready.length = 1 ∧
    ((after (.neighbourAdvertisementSend 0) (after (.neighbourSolicitationRx 0 nsFrame ok0) up)).port 0).ndQ = [] := by
  decide +kernel

/-! ## Records and feedback -/

/-- A record frame for the test model on raw Ethernet: no field, record id 99. -/
def recFrame : List Byte := toPort 0x88B5 (mavisum 1 0 0 7 99 0 0x1234 [])
/-- A feedback frame with label 1.0 for record 99. -/
def fbFrame : List Byte := toPort 0x88B5 (mavisum 3 0 0 7 99 0 0 (beBytes 4 0x3F800000 ++ zeros 4))
def rawRx (f : List Byte) : Rx := ⟨⟨0, [2, 0, 0, 0, 0, 2], none, 2, [], [], 0, 0, 0, 0, 0x88B5⟩, (f.take 60).drop 14, true⟩
def hdrOf (f : List Byte) : Hdr := (readHdr (rawRx f).msg).getD ⟨0, 0, 0, 0, 0, 0, 0, 0, 0⟩

/-- The device with its model traced. -/
def upT : State := { up with models := [{ model0 with traced := true }] }

theorem witness_good_record : passes6to14 upM 0 recFrame (rawRx recFrame) ⟨0, 0, 2, 0xFFFF, [], 0x88B5⟩ (hdrOf recFrame) model0 ∧
    upM.shaped ∧ ctxPlaces upM 0 < 16 ∧ ctxFree upM model0 = true ∧ upM.freeCtx.head? = some 0 ∧ upM.model? 3 = some model0 ∧
    upM.trhQ.getD 0 [] = [] ∧ (parseBody 0 0 [] image0 []).toOption = some Body.empty := by
  unfold passes6to14 State.shaped; decide +kernel
theorem test_record_commits : ((after (.recordFrameRx 0 recFrame ok0) upM).ctx? 0).map (fun r => (r.recId, r.cookie, r.committed, r.model)) =
    some (99, 0x1234, true, 3) ∧ (after (.recordFrameRx 0 recFrame ok0) upM).trhQ = [[0], []] ∧
    (after (.recordFrameRx 0 recFrame ok0) upM).counter (cPrt 0 pFrames) = 1 ∧
    (after (.recordFrameRx 0 recFrame ⟨true, 2, 1, []⟩) upM).counter (cPrt 0 pFecCorr) = 2 := by decide +kernel
theorem witness_feedback : passes6to14 upT 0 fbFrame (rawRx fbFrame) ⟨0, 0, 2, 0xFFFF, [], 0x88B5⟩ (hdrOf fbFrame)
      { model0 with traced := true } ∧ (hdrOf fbFrame).type = 3 ∧
    (after (.feedbackFrameRx 0 fbFrame ok0) upT).feedback = [⟨3, 0, 99, 0x3F800000, 0, false, none⟩] := by
  unfold passes6to14; decide +kernel
/-- A record of a model with a table in Massif waits for its read; with the table in table memory it commits at once. -/
def recFrame1 : List Byte := toPort 0x88B5 (mavisum 1 0 0 7 99 1 0 [0, 0, 0, 15])
def field1 : Field := ⟨.int32, .edge false [10, 20], false, true, 2, 0, 0, 512, 16⟩
def upField (res : Bool) : State := { up with models := [{ model0 with tableRes := res, image := { image0 with fields := [field1] } }] }
theorem witness_record_waits :
    (parseBody 1 0 [0, 0, 0, 15] { image0 with fields := [field1] } []).toOption.map (fun b => (b.tables, b.slots)) = some ([0], [(2, 1)]) ∧
    ((after (.recordFrameRx 0 recFrame1 ok0) (upField false)).ctx? 0).map (fun r => (r.committed, r.tableReads)) = some (false, [0]) ∧
    ((after (.recordFrameRx 0 recFrame1 ok0) (upField true)).ctx? 0).map (fun r => (r.committed, r.slots)) = some (true, [(2, 1)]) := by
  decide +kernel
/-- A record with the wrong magic is dropped and counted, and one for no handle is answered with reason 3. -/
theorem test_bad_records :
    (after (.recordFrameRx 0 (toPort 0x88B5 ([0xA3, 0x7F] ++ (mavisum 1 0 0 7 99 0 0 []).drop 2)) ok0) upM).counter (cPrt 0 pNotRecord) = 1 ∧
    ((after (.recordFrameRx 0 recFrame ok0) up).port 0).ready.map (·.kind) = [.error] ∧
    (after (.recordFrameRx 0 (recFrame.set 20 9) ok0) upM).ctxs = [] := by decide +kernel

/-- A record head on UDP over IPv4, up to the last byte of its header. -/
def udpHead : List Byte :=
  let seg := udpDatagram [10, 0, 0, 2] [10, 0, 0, 1] 4000 5000 (mavisum 1 0 0 7 99 0 0 [])
  (port0.mac ++ [2, 0, 0, 0, 0, 2] ++ beBytes 2 0x0800 ++ ipv4Header [10, 0, 0, 2] [10, 0, 0, 1] 0 seg.length ++ seg)
def upU : State := { upM with endpoints := [(1, ⟨0, 0, 0, 0xFFFF, [10, 0, 0, 1], 5000⟩)] }
theorem witness_record_start : (upU.port 0).held = none ∧ (parseHead (upU.port 0) 0 udpHead).isSome = true ∧
    ((parseHead (upU.port 0) 0 udpHead).bind (fun x => endpointOf upU x.1)).isSome = true ∧
    ((after (.recordStart 0 udpHead) upU).port 0).held = some (.allocated 0) ∧
    ((after (.recordStart 0 udpHead) upU).ctx? 0).map (fun r => (r.recId, r.committed)) = some (99, false) ∧
    ((after (.recordStart 0 udpHead) { upU with models := [] }).port 0).held = some (.refused 3 0 0xFFFF) ∧
    ((after (.recordStart 0 udpHead) { upU with tenants := upU.tenants.set 0 { tenant0 with enable := false } }).port 0).held =
      some (.refused 7 0 0xFFFF) := by decide +kernel

/-! ## The transmit side -/

def frameA : TxFrame := ⟨.score, some 5, zeros 64, 0, 100, true⟩
theorem witness_transmit_queue :
    ((after (.transmitQueueEntry 0) (withRec rec0 (withPort (fun p => { p with ready := [frameA] }) upM))).port 0).txq =
      [{ frameA with ctx := none }] ∧
    (after (.transmitQueueEntry 0) (withRec rec0 (withPort (fun p => { p with ready := [frameA] }) upM))).ctx? 5 = none ∧
    (after (.transmitQueueEntry 0) (withRec rec0 (withPort (fun p => { p with ready := [frameA], link := false }) upM))).counter
      (cPrt 0 pTxLinkDown) = 1 := by decide +kernel
theorem witness_closed_port :
    ((after (.transmitQueueEntry 0) (withPort (fun p => { p with mode := .closed, ready := [frameA] }) upM)).port 0).ready = [] ∧
    ((after (.transmitQueueEntry 0) (withPort (fun p => { p with mode := .closed, ready := [frameA] }) upM)).port 0).txq = [] := by
  decide +kernel
/-- A paused priority waits, and the next frame goes. -/
theorem witness_mac : (after (.txMacHandoff 0) (withPort (fun p => { p with
      txq := [{ frameA with pcp := 3 }, { frameA with ctx := none }], paused := [(3, 9)] })
      { up with time := { up.time with tick := 1, cycle := 8 } })).out = [.frame 0 .score (zeros 64)] ∧
    (after (.txMacHandoff 0) (withPort (fun p => { p with txq := [{ frameA with ctx := none }] })
      { up with time := { up.time with tick := 1, cycle := 8 } })).counter (cPrt 0 pLatLast) = 1032 - 100 := by decide +kernel

/-! ## Trailhead tables and Signpost -/

/-- A field with a table of 16 bytes at image offset 512, kept and binned into slot 2. -/
def field0 : Field := ⟨.int32, .edge false [10, 20], false, true, 2, 0, 0, 512, 16⟩
/-- Step 0 searches ternary bank 0 with field 0, step 1 takes its next match, step 2 searches range bank 1. -/
def prog0 : List Step :=
  [⟨1, 0, 0x11, [⟨0, 0, 8⟩], [⟨3, 0⟩, ⟨4, 5⟩]⟩, ⟨4, 0, 0x22, [], [⟨5, 1⟩]⟩, ⟨2, 1, 0x33, [⟨0, 0, 0⟩], [⟨6, 0⟩]⟩]
def modelP : Model := { model0 with image := { image0 with fields := [field0], program := prog0 } }
/-- Key and mask of a one-unit ternary entry in Table 6.2's places, and its priority byte. -/
def ternary (prio key mask : Nat) : Nat := prio + key * 2 ^ 16 + mask * 2 ^ 48
def bankT : Bank := { Bank.reset with
  owner := some 0
  entries := [(1, ⟨ternary 5 0x40 0xF0, 0x04030201, true, true⟩), (2, ⟨ternary 9 0x42 0xFF, 0x14131211, true, true⟩),
    (3, ⟨ternary 9 0x42 0xFF, 0x24232221, false, true⟩), (4, ⟨ternary 5 0x42 0xFF, 0x34333231, true, true⟩)] }
def bankR : Bank := { Bank.reset with range := true, width := 2, owner := some 0
                                      entries := [(0, ⟨1 + 0x40 * 2 ^ 16 + 0x42 * 2 ^ 80, 0x64636261, true, true⟩)] }
def recP : RecCtx := { rec0 with kept := [(0, .num false 0x42)], state := .signpost, prog := some ⟨none, [], [], none, 0⟩ }
def upP : State := withRec recP { up with models := [modelP], banks := (up.banks.set 0 bankT).set 1 bankR, progs := [5] }

theorem test_search_rank : (searchBank bankT 0x42).map (·.index) = [2, 1, 4] ∧
    (searchBank { bankT with position := true } 0x42).map (·.index) = [1, 2, 4] ∧ (searchBank bankT 0x52) = [] := by decide +kernel
theorem witness_ternary : (nextStep? upP 5).map (fun x => (x.2.2.2.1, x.2.2.2.2.op)) = some (0, 1) ∧ bankTurn upP 0 5 = true ∧
    ((after (.ternaryStep 5) upP).bank 0).busy = 1 ∧
    bankTurn { upP with banks := upP.banks.set 0 { bankT with busy := 9 } } 0 5 = false ∧
    (after (.ternaryStep 5) { upP with banks := upP.banks.set 0 { bankT with busy := 9 } }).counter (cBank 0 0) = 0 ∧
    (((after (.ternaryStep 5) upP).ctx? 5).bind (·.prog)).map (fun p => p.outs.map (fun o => (o.word, o.count))) =
      some [(0x14131211, 3)] ∧ (after (.ternaryStep 5) upP).counter (cBank 0 1) = 1 ∧
    (((after (.ternaryStep 5) (withRec { recP with kept := [] } upP)).ctx? 5).bind (·.prog)).map (fun p => p.outs.map (·.missing)) =
      some [true] := by decide +kernel
/-- A state at core cycle `c` of its tick. -/
def at_ (c : Nat) (s : State) : State := { s with time := { s.time with cycle := c } }
/-- After step 0's result, NEXT and RANGE run, one a cycle, and the last result writes every destination. -/
def stepsRun : State :=
  after (.rangeStep 5) (at_ 41 (after (.nextStep 5) (at_ 40 (after (.stepResult 5) (after (.ternaryStep 5) upP)))))
theorem witness_next_and_results :
    (nextStep? (at_ 40 (after (.stepResult 5) (after (.ternaryStep 5) upP))) 5).map (·.2.2.2.2.op) = some 4 ∧
    ((stepsRun.ctx? 5).bind (·.prog)).bind dueStep = some 1 ∧
    ((stepsRun.ctx? 5).bind (·.prog)).map (fun p => p.outs.map (fun o => (o.word, o.count, o.taken))) =
      some [(0x14131211, 3, 2), (0x04030201, 3, 0), (0x64636261, 1, 1)] ∧
    ((after (.stepResult 5) (after (.stepResult 5) stepsRun)).ctx? 5).map (·.slots) =
      some [(3, 0x11), (4, 3), (5, 2), (6, 0x61)] := by decide +kernel
theorem witness_next_misses : (((after (.nextStep 5) (withRec { recP with
      prog := some ⟨none, [⟨false, 1, 1, [⟨0, 1⟩], 1, true, 0⟩], [0], none, 0⟩ } upP)).ctx? 5).bind (·.prog)).map (fun p =>
    p.outs.map (fun o => (o.word, o.count, o.hit))) = some [(1, 1, true), (0x22222222, 1, false)] ∧
    ((after (.ternaryStep 5) { upP with banks := upP.banks.set 0 { bankT with fenced := true } }).ctx? 5).map (·.ended) =
      some (some (5, 0x40)) := by decide +kernel

/-- A record of pipeline 0 with the value 15 whose table read is outstanding; its one line is 20 × 8,192 + 2. -/
def bodyQ : BodyIn := ⟨0, 1, 0, [0, 0, 0, 15], 70, true, [], []⟩
def recQ : RecCtx := { rec0 with committed := false, body := some bodyQ, tableReads := [0], state := .trailhead }
def upQ : State := { withRec recQ { up with models := [modelP] } with
  trhQ := [[5], []], mem := { up.mem with plots := [(20, (.model, some 0))] } }
theorem witness_table_read : upQ.shaped ∧ fieldLines modelP 0 = [163842] ∧ (fieldLines modelP 0).any (filling upQ) = false ∧
    colRefused upQ 3 (fieldLines modelP 0) = false ∧ colPoison upQ modelP 512 16 = none ∧
    (parseBody 1 0 bodyQ.pay modelP.image []).toOption.map (·.slots) = some [(2, 1)] ∧
    ((after (.trailheadTableReadDone 5) upQ).ctx? 5).map (fun x => (x.committed, x.slots, x.poi)) = some (true, [(2, 1)], false) ∧
    (after (.trailheadTableReadDone 5) upQ).counter (cTrh 0 4) = 1 := by unfold State.shaped; decide +kernel
/-- With the fill of its line outstanding the read waits, and one of two reads leaves the other. -/
theorem witness_table_waits :
    (after (.trailheadTableReadDone 5) { upQ with mem := { upQ.mem with fills := [⟨163842, 2, 3⟩] } }).ctx? 5 = some recQ ∧
    ((after (.trailheadTableReadDone 5) (withRec { recQ with tableReads := [0, 0] } upQ)).ctx? 5).map (fun x => (x.committed, x.tableReads)) =
      some (false, [0]) := by decide +kernel
/-- Its first word is poisoned: the slot stays missing and the record carries POI and, in a self-heal model, the heal mark. -/
def upQpoison : State := { upQ with
  mem := { upQ.mem with poison := [(20 * plotSize + 512) / 8] }, models := [{ modelP with selfHeal := true, healing := [0] }] }
theorem witness_table_poison : colPoison upQpoison { modelP with selfHeal := true, healing := [0] } 512 16 = some false ∧
    (parseBody 1 0 bodyQ.pay modelP.image [0]).toOption.map (·.slots) = some [] ∧
    ((after (.trailheadTableReadDone 5) upQpoison).ctx? 5).map (fun x => (x.poi, x.heal, x.slots, x.committed)) =
      some (true, true, [], true) := by decide +kernel
/-- The field in `bad` leaves the slots as they are. -/
theorem witness_bad_field : (parseBodyField bodyQ.pay [0] 0 field0 0 Body.empty).toOption.map (fun x => (x.1, x.2.slots)) = some (4, []) ∧
    (parseBodyField bodyQ.pay [] 0 field0 0 Body.empty).toOption.map (fun x => x.2.slots) = some [(2, 1)] := by decide +kernel
/-- A refused line ends the record: UNIT_FAULT with reason 0x40. -/
theorem test_table_refused :
    ((after (.trailheadTableReadDone 5) { upQ with mem := { upQ.mem with refused := [(163842, 3)] } }).ctx? 5).map (·.ended) =
      some (some (5, 0x40)) := by decide +kernel
/-- A pattern model of the walkers below takes walker 0; with every walker fenced its record ends. -/
def walkStep : Step := ⟨3, 0, 0x11, [⟨1, 0, 8⟩], [⟨3, 0⟩]⟩
theorem witness_signpost_entry :
    ((after (.signpostEntry 0) (after (.trailheadTableReadDone 5) upQ)).ctx? 5).map (·.state) = some .signpost ∧
    (after (.signpostEntry 0) (after (.trailheadTableReadDone 5) upQ)).progs = [5] ∧
    (let s := { withRec { rec0 with state := .trailhead } upQ with
        models := [{ model0 with image := { image0 with program := [walkStep] } }] }
     freeWalker s = some 0 ∧ progFree s = true ∧ ((after (.signpostEntry 0) s).walker 0).holder = some 5 ∧
       ((after (.signpostEntry 0) { s with walkers := s.walkers.map (fun w => { w with fenced := true }) }).ctx? 5).map (·.ended) =
         some (some (5, 0x40))) := by decide +kernel

/-! ## Walkers -/

/-- Classes: byte 'a' is 1, any other 0. State 1 is reached by 'a' and accepts pattern 6. -/
def pat0 : PatternSet :=
  { classes := 2, states := 2, start := 0, classMap := (List.replicate 256 0).set 0x61 1, info := [(0, 0), (0, 1)], next := [0, 1, 0, 1]
    accepts := [⟨6, 1, false, 0xAA, 0xBB⟩], off := 1024 }
def modelW : Model := { model0 with image := { image0 with program := [walkStep], patterns := [(0, pat0)] } }
def recW : RecCtx := { rec0 with kept := [(0, .str [0x61, 0x62])], state := .signpost, prog := some ⟨some 0, [], [], none, 0⟩ }
def upW : State := { withRec recW { up with models := [modelW], walkers := up.walkers.set 0 ⟨false, false, some 5, []⟩ } with
  mem := { up.mem with plots := [(20, (.model, some 0))] } }
/-- The walker's cache holds the first transition of the walk. -/
def upWc : State := { upW with walkers := up.walkers.set 0 ⟨false, false, some 5, [20 * plotSize + 1354]⟩ }
theorem witness_walk : up.shaped ∧ walkString recW walkStep = some [0x61, 0x62] ∧ (nextStep? upW 5).isSome = true ∧
    firstMiss [] modelW pat0 [0x61, 0x62] = some (20 * plotSize + 1024 + 320 + 8 + 2) ∧
    (((after (.automatonStep 5 .none) upW).ctx? 5).bind (·.prog)).map (·.reading) = some (some (0, 0)) ∧
    ((after (.automatonStep 5 .state) upW).walker 0).fenced = true ∧
    (after (.automatonStep 5 .data) upWc).counter (cSgp 6) = 1 ∧ ((after (.automatonStep 5 .data) upWc).walker 0).cache = [] :=
  ⟨up_shaped, by decide +kernel⟩
/-- The one line of the transitions comes in, and both reads return 9 cycles late: the accept at position 0 is the result. -/
def filledW : State := after (.colCacheFill ((20 * plotSize + 1344 + 8) / 256) [] false) (after (.automatonStep 5 .none) upW)
def walked : State := after (.walkerMissReadDone 5) (after (.walkerMissReadDone 5) (at_ 9 filledW))
theorem witness_walk_read : ((walked.ctx? 5).bind (·.prog)).map (fun p => p.outs.map (fun o => (o.word, o.count, o.due))) =
    some [(0x0000BBAA, 1, 23)] ∧ (after (.stepResult 5) walked).walker 0 = { walked.walker 0 with holder := none } ∧
    (after (.stepResult 5) walked).returned = [.walker 0] ∧
    (walked.walker 0).cache.length = 2 ∧ (∀ o < 16, colPoison filledW modelW o 2 = none) := by decide +kernel

/-! ## Shadow compare -/

def upS : State := { up with banks := up.banks.set 0 { bankT with shadow := bankT.entries, ptr := 1, restores := 14 } }
/-- The same with word 1 of entry 1's shadow poisoned. -/
def upSbad : State := { upS with mem := { up.mem with poison := [shadowAddr 0 1 1 1 / 8] } }
theorem witness_compare_poison : firstPoison upSbad.mem (shadowAddr 0 1 1 0) 24 = some (shadowAddr 0 1 1 1) ∧
    ((after (.shadowCompare 0 (some ⟨0, 0, true⟩) [] false) upSbad).bank 0).shadowBad = [1] ∧
    ((after (.shadowCompare 0 (some ⟨0, 0, true⟩) [] false) upSbad).bank 0).entries = bankT.entries := by decide +kernel
theorem witness_compare : ((after (.shadowCompare 0 none [] false) upS).bank 0).ptr = 2 ∧
    firstPoison upS.mem (shadowAddr 0 1 1 0) 24 = none ∧ ((after (.shadowCompare 0 none [] false) upS).bank 0).busy = 1 ∧
    ((after (.shadowCompare 0 (some ⟨0, 0, true⟩) [] false) upS).bank 0).restores = 15 ∧
    (kvGet ((after (.shadowCompare 0 (some ⟨0, 0, true⟩) [] false) upS).bank 0).entries 1).map (·.result) = some 0x04030201 ∧
    ((after (.shadowCompare 0 (some ⟨0, 0, true⟩) [] true) upS).bank 0).fenced = true ∧
    ((after (.shadowCompare 0 (some ⟨0, 0, true⟩) [] false) { up with banks := up.banks.set 0 { bankT with
      shadow := bankT.entries, ptr := 1, restores := 15 } }).bank 0).fenced = true := by decide +kernel

/-! ## Admission, passes, rows -/

/-- One node on slot 2: below 10 goes left to leaf 100, else right to leaf −50. -/
def tree0 : Tree := ⟨true, 1, 1, [(2, 0)], 3, [⟨.lt 10, 0, true, 0, 0⟩], [], [], 0, 0, [⟨100, 0, []⟩, ⟨-50, 0, []⟩], 512⟩
/-- Pass 0 runs on logical Ridge 0, pass 1 on logical Ridge 1. -/
def trees0 : List Placed := [⟨tree0, 0, 0, 0, 0, 0⟩, ⟨tree0, 1024, 0, 1, 0, 1⟩]
def imageT : Image := { image0 with trees := trees0, treeOff := 4096, treeLen := 2048 }
def modelT : Model := { model0 with image := imageT, versions := [trees0], residency := 1 }
def recT : RecCtx := { rec0 with state := .awaiting, slots := [(2, 4)], planned := 2 }
/-- The test device in tick 3 with the record of the tree model. -/
def upR (r : RecCtx) : State := withRec r { up with models := [modelT], time := { up.time with tick := 3, cycle := 8 } }
/-- A device after one pass bound, its record broadcast and its set loaded. -/
def bound0 : State := after (.passBind 5) (upR recT)
def ready0 : State := after (.setLoadDone 0 []) (after (.setLoadStart 0) (after (.broadcastDone 5 0) bound0))
def issued0 : State := after (.passIssue 0 ⟨false, false, false, 0⟩) ready0
/-- The pass is reduced before core cycle 1,000, and its partials go to their row. -/
def arrived0 : State := after (.partialArrival 0) (after (.partialsLeaveRidge 0) (at_ 1000 issued0))

theorem witness_admission : isMember rec0 = false ∧ programDone modelP { recP with prog := some ⟨none, [], [0, 1, 2], none, 0⟩ } = true ∧
    latencyTick (upR recT) { modelT with latency := true, standing := true } = some 3 ∧
    ((after (.dispatcherAdmission 5) (withRec { recP with prog := some ⟨none, [], [0, 1, 2], none, 0⟩ } upP)).ctx? 5).map (·.state) =
      some .awaiting ∧
    (after (.dispatcherAdmission 5) (withRec { recP with prog := some ⟨none, [], [0, 1, 2], none, 0⟩ } upP)).disp.waiting = [5] := by
  decide +kernel
/-- A record that came to a member enters from Signpost, without the queue to the dispatcher. -/
def recM : RecCtx := { rec0 with src := .member 5 9, state := .signpost }
theorem witness_member_admission : isMember recM = true ∧
    ((after (.dispatcherAdmission 5) (withRec recM upM)).ctx? 5).map (·.state) = some .awaiting ∧
    firstInQueue (fillDispatch { withRec { rec0 with state := .trailhead } upM with trhQ := [[5], []] }) 5
      { rec0 with state := .trailhead } = true := by decide +kernel
theorem witness_shed : ((after (.dispatcherAdmission 5) (withRec { recP with prog := some ⟨none, [], [0, 1, 2], none, 0⟩ }
      { upP with disp := { up.disp with level := 2 } })).ctx? 5).map (·.ended) = some (some (2, 0x20)) ∧
    ((after (.dispatcherAdmission 5) (withRec { recP with prog := some ⟨none, [], [0, 1, 2], none, 0⟩ }
      { upP with tenants := up.tenants.set 0 { tenant0 with preempted := true } })).ctx? 5).map (·.ended) = some (some (2, 0x21)) := by
  decide +kernel
theorem witness_latency : ((after (.dispatcherAdmission 5) { upR { recT with state := .trailhead } with
      models := [{ modelT with latency := true, standing := true }], trhQ := [[5], []] }).ctx? 5).map (·.admitted) = some (some 3) := by
  decide +kernel
theorem witness_bind : (upR recT).shaped ∧ mayBind (upR recT) recT modelT = true ∧
    (modelT.passRidges 0 0).all (fun j => (servingOf (upR recT) modelT j).isSome) = true ∧
    (bound0.ctx? 5).map (fun x => (x.block, x.nextBind, x.blockReady)) = some (some 0, 1, true) ∧
    bound0.rows.map (·.expected) = [[(0, 1)]] ∧ (bound0.tenant 0).freeBlocks = [4, 8, 12] := by
  unfold State.shaped; decide +kernel
theorem witness_bind_parked :
    (after (.passBind 5) (upR { recT with state := .parked })).restoring = [5] ∧
    (after (.passBind 5) { upR recT with tenants := up.tenants.set 0 { tenant0 with freeBlocks := [] } }).rows = [] ∧
    ((after (.passBind 5) (upR { recT with block := some 4, nextBind := 1, state := .bound })).ctx? 5).map (·.nextBind) = some 2 := by
  decide +kernel
theorem witness_set_load : (namedSet bound0 0).isSome = true ∧ bufferFree bound0 0 = true ∧ (bound0.ridge 0).standsIn = false ∧
    (ready0.ridge 0).inactive = ⟨some ⟨3, 0, 0⟩, true, false⟩ ∧ (ready0.ridge 0).window = [5] ∧
    ((after (.setLoadDone 0 [.uncorrectable 3]) (after (.setLoadStart 0) bound0)).ridge 0).fenced = true := by decide +kernel
/-- A stand-in for Ridge 0, with the record's set loading from the master copy. -/
def standing0 : State := { ready0 with ridges := (ready0.ridges.modify 0 (fun x => { x with fenced := true })).modify 64 (fun x => { x with
  logical := some 0, active := ⟨some ⟨3, 0, 0⟩, false, false⟩ }) }
theorem witness_stand_in : (standing0.ridge 64).standsIn = true ∧ masterServed standing0 ⟨3, 0, 0⟩ 64 = true ∧
    (treesOn standing0 ⟨3, 0, 0⟩ 64).all (·.tree.flat) = true ∧
    ((after (.standInLoadDone 64) standing0).ridge 64).active = ⟨some ⟨3, 0, 0⟩, true, false⟩ ∧
    fromMaster standing0 ⟨3, 0, 0⟩ 64 = true := by decide +kernel
/-- The stand-in's inactive buffers take the set from the master copy too. -/
def standing1 : State := { standing0 with ridges := standing0.ridges.modify 64 (fun x => { x with
  active := ⟨none, false, false⟩, inactive := ⟨some ⟨3, 0, 0⟩, false, false⟩ }) }
theorem witness_master_load : fromMaster standing1 ⟨3, 0, 0⟩ 64 = true ∧ masterServed standing1 ⟨3, 0, 0⟩ 64 = true ∧
    colRefused standing1 3 (setLines standing1 ⟨3, 0, 0⟩ 64) = false ∧
    ((after (.setLoadDone 64 []) standing1).ridge 64).inactive = ⟨some ⟨3, 0, 0⟩, true, false⟩ := by decide +kernel
/-- A day has passed with no patrol step, so that the next of either sweep is promoted. -/
def upScrub : State := { up with time := { up.time with time := 24 * 3600 * 100000000 } }
theorem witness_sram_patrol : patrolMay upScrub true false = true ∧ patrolMay up true false = false ∧
    ((after (.ridgeSramPatrolStep []) upScrub).ridge 0).fenced = false ∧
    ((after (.ridgeSramPatrolStep [.uncorrectable 31]) upScrub).ridge 0).fenced = true ∧
    (after (.ridgeSramPatrolStep []) upScrub).mem.sramPatrol = 1 ∧ (after (.ridgeSramPatrolStep []) up).mem.sramPatrol = 0 := by
  decide +kernel
theorem witness_issue : queueFull ready0 0 = false ∧ setMarked ready0 ⟨3, 0, 0⟩ 0 = false ∧
    (boundOrder ready0 0).find? (fun b => passReady ready0 0 b && atPosition ready0 0 (boundSlots ready0 b)) = some ⟨5, 0, 0, 2, 0, 3⟩ ∧
    (issued0.ridge 0).nextPos = ready0.now + 4 ∧ (passSet ready0 5 0).map (·.2) = some ⟨3, 0, 0⟩ ∧
    ((after (.partialsLeaveRidge 0) issued0).ridge 0).transport = [] ∧
    (passSet ready0 5 0).isSome = true ∧ (issued0.ridge 0).pipe.map (·.partials) = [[⟨0, ⟨100, 0⟩⟩]] ∧
    (issued0.ridge 0).passes = 1 ∧ ((after (.passIssue 0 ⟨true, false, false, 0⟩) ready0).ridge 0).fenced = true ∧
    ((after (.passIssue 0 ⟨true, false, false, 0⟩) ready0).ctx? 5).map (·.ended) = some (some (5, 0x40)) := by decide +kernel
/-- Two reduced passes fill the output queue. -/
def full0 : State := at_ 1000 { ready0 with ridges := ready0.ridges.modify 0 (fun x => { x with
  pipe := (issued0.ridge 0).pipe ++ (issued0.ridge 0).pipe }) }
theorem witness_queue_full : queueFull full0 0 = true ∧
    ((after (.passIssue 0 ⟨false, false, false, 0⟩) full0).ridge 0).bound.length = 1 := by decide +kernel
/-- A missing code takes the default direction, right here; a code at the threshold goes right. -/
theorem test_tree : (evalTree tree0 recT).value = 100 ∧ (evalTree tree0 { recT with slots := [(2, 10)] }).value = -50 ∧
    (evalTree tree0 { recT with slots := [] }).value = -50 ∧
    (evalTree tree0 { recT with slots := [(2, 0xFF)], side := [⟨2, false, 3⟩] }).flags = flagEsc := by decide +kernel
theorem witness_partials : arrived0.rows.map (·.got) = [[(0, 0, ⟨100, 0⟩)]] ∧ (arrived0.ridge 0).transport = [] := by decide +kernel
/-- The row of pass 0 adds into slot 0 of block 0; as pass 1 of a two-pass model it is the last. -/
def rowDone (pass : Nat) : State := { upR { recT with state := .bound, block := some 0, blockReady := true, nextBind := 2, nextAdd := pass } with
  rows := [⟨5, 0, pass, [(0, 1)], [(0, 0, ⟨100, 0⟩)], 2⟩], slots := [(0, ⟨7, 0⟩)] }
theorem witness_row : turnRow (rowDone 0) 5 { recT with nextAdd := 0 } = some ⟨5, 0, 0, [(0, 1)], [(0, 0, ⟨100, 0⟩)], 2⟩ ∧
    Row.complete ⟨5, 0, 0, [(0, 1)], [(0, 0, ⟨100, 0⟩)], 2⟩ = true ∧ (after (.rowAdd 5 false) (rowDone 0)).slot 0 = ⟨107, 0⟩ ∧
    (after (.rowAdd 5 false) (rowDone 0)).rows = [] ∧
    ((after (.rowAdd 5 false) (rowDone 1)).ctx? 5).map (fun y => (y.state, y.block, y.final)) = some (.summit, none, [⟨107, 0⟩]) ∧
    ((after (.rowAdd 5 false) (rowDone 1)).tenant 0).freeBlocks = [0, 4, 8, 12, 0] ∧
    ((after (.rowAdd 5 true) (rowDone 0)).ctx? 5).map (·.ended) = some (some (5, 0x40)) ∧
    (after (.rowAdd 5 true) (rowDone 0)).evBuf.map (·.code) = [0x0401] := by decide +kernel
/-- While a burst of a spill holds the port the row waits; with none of the 64 credits to Summit usable the final values
wait. -/
def crowd (s : State) : State := { s with returned := List.replicate 64 .summit }
theorem witness_row_waits : (after (.rowAdd 5 false) { rowDone 0 with crnPort := ⟨[(6, 9)], 2⟩ }).rows.length = 1 ∧
    outRoom (rowDone 1) = true ∧ outRoom (crowd (rowDone 1)) = false ∧
    ((after (.rowAdd 5 false) (crowd (rowDone 1))).ctx? 5).map (fun y => (y.state, y.block, y.nextAdd)) = some (.bound, some 0, 2) := by
  decide +kernel
theorem test_saturation : slotAdd image0 0 0 0 ⟨2 ^ 47 - 3, 0⟩ ⟨3, 0⟩ = (⟨2 ^ 47 - 1, flagSat⟩, true) ∧
    slotAdd image0 0 0 0 ⟨2 ^ 47 - 3, 0⟩ ⟨2, 0⟩ = (⟨2 ^ 47 - 1, 0⟩, false) ∧
    slotAdd image0 0 0 0 ⟨-(2 ^ 47), 0⟩ ⟨-1, 0⟩ = (⟨-(2 ^ 47), flagSat⟩, true) := by decide +kernel

/-! ## Parking -/

def parking0 : State := { upR { recT with state := .bound, block := some 0, blockReady := true, parking := true } with
  slots := [(0, ⟨-5, 4⟩)] }
def parked0 : State := after (.parkEntryWritten 5) parking0
/-- The spill still waits for Cairn's port. -/
def spilling0 : State := { parking0 with crnPort := ⟨[(5, 3)], 0⟩ }
/-- The parked record resumes in block 4. -/
def restored0 : State := after (.restoreDone 5 []) (withRec { recT with state := .bound, block := some 4 } { parked0 with restoring := [5] })
theorem witness_park : parking0.shaped ∧ portDone parking0 5 = true ∧ portDone spilling0 5 = false ∧
    ((after (.parkEntryWritten 5) spilling0).ctx? 5).map (·.parking) = some true ∧
    (parked0.ctx? 5).map (·.state) = some .parked ∧ (parked0.tenant 0).freeBlocks = [0, 4, 8, 12, 0] ∧
    firstPoison parked0.mem (swbAddr 5) (128 + 8) = none ∧ restored0.slot 4 = ⟨-5, 4⟩ ∧
    restored0.counter (cTen 0 tResumes) = 1 := by unfold State.shaped; decide +kernel

/-! ## Summit -/

def fusing : RecCtx := { recT with state := .summit, final := [⟨107, 0⟩], term0At := some 0 }
def fused0 : RecCtx := { fusing with fused := true, margins := [0x42D60000], results := [⟨0x42D60000, 0⟩] }
theorem witness_summit : termsDone modelT fusing = true ∧ traceable modelT fused0.results = false ∧
    ((after (.summitFusedOutput 5) (upR fusing)).ctx? 5).map (fun r => (r.fused, r.margins)) = some (true, [0x42D60000]) ∧
    ((after (.scoreFrameAssembly 5) (upR fused0)).port 0).ready.map (fun f => (f.kind, f.ctx, f.scored)) = [(.score, some 5, true)] ∧
    ((after (.scoreFrameAssembly 5) (upR { fused0 with src := .ring 8 1 2 })).stream 8).answers.map (fun a => (a.number, a.element)) =
      [(1, 2)] := by decide +kernel
/-- A full transmit queue with a finished frame before it stalls the assembler. -/
def jammed : State := withPort (fun p => { p with txq := [⟨.score, none, zeros 10, 0, 0, false⟩], ready := [frameA] })
  { upR fusing with returned := [.txq 0 65536] }
theorem witness_stalled : assemblerStalled jammed fusing = true ∧ assemblerStalled (upR fusing) fusing = false ∧
    ((after (.summitFusedOutput 5) jammed).ctx? 5).map (·.fused) = some false := by decide +kernel
/-- A ring answer that finds room in staging frees its context; one that does not keeps it. -/
theorem witness_ring_answer :
    (after (.scoreFrameAssembly 5) { upR { fused0 with src := .ring 8 1 2 } with dma := { up.dma with
      streams := up.dma.streams.modify 8 (fun x => { x with staging := 4096 }) } }).ctx? 5 = none ∧
    ((after (.scoreFrameAssembly 5) (upR { fused0 with src := .ring 8 1 2 })).ctx? 5).map (·.ended) = some (some (0, 0)) := by
  decide +kernel
/-- A record of a two-member model whose second term did not come. -/
def waits : RecCtx := { fusing with mcAt := some 8 }
def upX : State := { upR waits with models := [{ modelT with image := { imageT with members := 2, out := ⟨0, 0, 0, 0, 0, 2, [(0x3F800000, 0)]⟩ } }] }
theorem witness_xchip : termsDone { modelT with image := { imageT with members := 2 } } waits = false ∧ 8 + 2 * 1024 < upX.now ∧
    ((after (.xchipWaitExpiry 5) { upX with time := { upX.time with tick := 2 } }).ctx? 5).map (·.ended) = some none ∧
    ((after (.xchipWaitExpiry 5) upX).ctx? 5).map (·.ended) = some (some (5, 0x40)) ∧
    (after (.xchipWaitExpiry 5) upX).counter (cTen 0 tXchipTimeouts) = 1 ∧
    (after (.xchipWaitExpiry 5) upX).evBuf.map (fun e => (e.code, e.data.take 4)) = [(0x0501, [7, 0, 2, 0])] := by decide +kernel

/-! ## Feedback and refit -/

def refitCfg0 : RefitCfg := ⟨0, 1, 0x3F000000, 0x3F800000, 0x3F800000, 0x3F800000, 0x3F800000⟩
def modelF : Model := { modelT with traced := true, image := { imageT with refit := some refitCfg0 } }
def refit0 : RefitSt := ⟨3, [30], 0, 0, .invalid, false, false, 0, 0, 0, 0, 0, [], [0, 0, 0, 0, 0], [0, 0, 0, 0, 0]⟩
def feed0 (gh : Option (Nat × Nat × Bool)) : Feedback := ⟨3, 0, 99, 0x40000000, 0, true, gh⟩
/-- The record 99 stands traced with margin 5.0, and a granted feedback frame names it with label 2.0. -/
def upF (gh : Option (Nat × Nat × Bool)) : State :=
  { traceWrite modelF { recT with margins := [0x40A00000], leaves := [(0, 1), (1, 0)] } { up with models := [modelF], refits := [refit0] } with
    feedback := [feed0 gh] }
theorem witness_gradient : fusedWaiting (upF none) = false ∧ (nextGradient (upF none)).isSome = true ∧
    (after .feedbackGradient (upF none)).feedback.map (·.gh) = [some (0x40400000, 0x3F800000, false)] ∧
    (after .feedbackGradient (upF none)).counter (cSmt 6) = 1 := by decide +kernel
/-- The pair 3.0, 1.0 goes into mantissa 1 of tree 0, whose block the trace names, and mantissa 0 of tree 1. -/
def applied0 : State := after (.feedbackProcess []) (upF (some (0x40400000, 0x3F800000, false)))
theorem witness_process : feedbackFault (upF none) modelF refit0 (feed0 none) = none ∧ applied0.feedback = [] ∧
    applied0.counter (cTen 0 (tRft 0)) = 1 ∧
    (let k := Block.ofBytes (areaBytes applied0 refit0 (blockOff modelF 0 0) 136)
     (fracLe (k.value 1) (3, 1) && fracLe (3, 1) (k.value 1), k.ms.getD 0 7)) = (true, 0) ∧
    feedbackFault applied0 modelF refit0 (feed0 none) = some 4 := by decide +kernel
theorem witness_feedback_fault : feedbackFault (upF none) modelF refit0 { feed0 none with recId := 98 } = some 2 ∧
    (after (.feedbackProcess []) { upF none with feedback := [{ feed0 none with recId := 98 }] }).counter (cTen 0 (tRft 2)) = 1 ∧
    (after (.feedbackProcess []) { upF (some (0, 0, false)) with refits := [{ refit0 with paused := true }] }).counter (cTen 0 (tRft 1)) = 1 := by
  decide +kernel
/-- A traced record's score frame writes its trace entry. -/
theorem witness_traced : traceable modelF fused0.results = true ∧
    (let s := { upR fused0 with models := [modelF], refits := [refit0] }
     (s.refit? 3).isSome = true ∧ (traceLookup (after (.scoreFrameAssembly 5) s) modelF refit0 99).isSome = true) := by decide +kernel
def modelE : Model := { model0 with traced := true, image := { image0 with refit := some refitCfg0 } }
def upE : State := { up with
  models := [modelE], refits := [refit0], disp := { up.disp with granted := [.decay 3 0, .proposal 3 0] } }
theorem witness_sweep_and_proposal : upE.handle? 0 7 = some modelE ∧ (after (.decaySweep 0 7 []) upE).disp.granted = [.proposal 3 0] ∧
    (after (.decaySweep 0 7 []) upE).refits.map (·.sweeps) = [1] ∧ (after (.proposalPassEnd 0 7 []) upE).evBuf.map (·.code) = [0x0A01] ∧
    (after (.proposalPassEnd 0 7 []) upE).refits.map (·.shadowState) = [.valid] := by decide +kernel
/-- A sweep and a pass of which the plans have granted one block or pair; one that no plan knows does nothing. -/
def upSweep : State := { upE with
  models := [modelF], disp := { up.disp with bg := [.decay 3 15, .proposal 3 7] } }
theorem witness_sweep_waits : decayLeft upE 3 = some 0 ∧ decayLeft upSweep 3 = some 15 ∧ proposalLeft upSweep 3 = some 7 ∧
    proposalLeft up 3 = none ∧ treeCount modelF = 2 ∧ ((after (.decaySweep 0 7 []) upSweep).refit? 3).map (fun x => (x.sweeps, x.decayed)) =
      some (0, 1) ∧ ((after (.proposalPassEnd 0 7 []) upSweep).refit? 3).map (·.proposed) = some 1 := by decide +kernel
/-- H below Hmin keeps the leaf; otherwise −G ÷ (H + λ) of G = −2, H = 1, λ = 1 is 1.0, one unit of scale. -/
theorem test_propose : proposeLeaf modelE refitCfg0 0 5 0xC0000000 0x3F000000 = (5, false) ∧
    proposeLeaf modelE refitCfg0 0 5 0xC0000000 0x3F800000 = (6, false) := by decide +kernel
theorem test_block_write : ((Block.write 0 0 0 0 3 (3, 1) ⟨List.replicate 64 0, -128, 0⟩).ms.getD 3 0) * 2 ^ 0 ≠ 0 ∧
    (Block.bytes ⟨List.replicate 64 0, -128, 0⟩).length = 136 := by decide +kernel

/-! ## Detour -/

def detour0 : DetourCfg :=
  ⟨1, 1, 4, 9, 100, 7, 0x3F800000, 0x3F800000, 0x3F000000, 0x3E800000, [⟨2, -3, 3, 0x3C000000, 0⟩]⟩
def modelD : Model := { modelT with image := { imageT with detour := some detour0 } }
def search0 : Search :=
  { model := 3, tenant := 0, handle := 7, recId := 99, cookie := 1, src := .ethernet, reply := rec0.reply, slots := [(2, 10)], side := []
    req := ⟨0x42C80000, 0, true⟩, startTick := 3, step := 0, temp := 0x3F800000, offs := [0], y := 0xC2480000, best := [0]
    bestY := 0xC2480000, bestE := 0x43160000, bestReached := false, sinceBest := 0
    cands := [⟨0, false, true, true, some 0x42C80000⟩, ⟨0, true, true, true, some 0xC2480000⟩], recheck := none }
def candRec (poi : Nat) : RecCtx := { fused0 with src := .detour 0 1, results := [⟨0, poi⟩] }
def upD (x : Search) (r : RecCtx) : State := { upR r with models := [modelD], searches := [(0, x)] }
def open0 : Search := { search0 with cands := search0.cands.map (fun c => { c with y := none }) }
theorem witness_candidate : (searchCfg (upD open0 (candRec 0)) open0).isSome = true ∧
    (after (.candidateResult 5) (upD open0 (candRec 0))).ctxs = [] ∧
    (kvGet (after (.candidateResult 5) (upD open0 (candRec 0))).searches 0).map (fun x => x.cands.map (·.y)) =
      some [none, some 0x42D60000] ∧
    (after (.candidateResult 5) (upD open0 (candRec flagPoi))).searches = [] := by decide +kernel
/-- The first candidate reaches the target and is much lower in energy: it is taken, and the next step is asked for. -/
theorem witness_move : stepReady search0 = true ∧ patienceOver detour0 search0 = false ∧
    (kvGet (after (.moveChoice 0) (upD search0 (candRec 0))).searches 0).map (fun x => (x.offs, x.step, x.temp, x.bestReached)) =
      some ([-1], 1, 0x3F000000, true) ∧
    (after (.moveChoice 0) (upD { search0 with step := 3 } (candRec 0))).searches = [] := by decide +kernel
/-- The last cycle of search0's time limit, and the next. -/
def limitAt (c : Nat) (x : Search) : State := { upD x (candRec 0) with time := { up.time with tick := 103, cycle := c } }
theorem witness_time_limit : limitPast (limitAt 0 open0) detour0 open0 = false ∧ limitPast (limitAt 1 open0) detour0 open0 = true ∧
    stepReady open0 = false ∧ (after (.detourTimeLimit 0) (limitAt 0 open0)).searches.length = 1 ∧
    (after (.detourTimeLimit 0) (limitAt 1 open0)).searches = [] ∧ (after (.detourTimeLimit 0) (limitAt 1 open0)).counter (cTen 0 (tDtr 7)) = 1 ∧
    (after (.detourTimeLimit 0) (limitAt 1 search0)).searches = [] ∧ (after (.detourTimeLimit 0) (limitAt 1 search0)).counter (cTen 0 (tDtr 3)) = 1 ∧
    (after (.candidateResult 5) (limitAt 1 open0)).ctxs = [] ∧ (after (.candidateResult 5) (limitAt 1 open0)).searches = [(0, open0)] := by
  decide +kernel
/-- A search starts when its record asks for a reason and the model is not held; the score frame says so. -/
def asking : RecCtx := { fused0 with reason := some ⟨0x42C80000, 0, true⟩ }
theorem witness_search_starts : (searchFor { upR asking with models := [modelD] } modelD asking).isSome = true ∧
    (after (.scoreFrameAssembly 5) { upR asking with models := [modelD] }).counter (cTen 0 (tDtr 0)) = 1 ∧
    (after (.scoreFrameAssembly 5) { upR asking with models := [{ modelD with detourHold := true }] }).counter (cTen 0 (tDtr 5)) = 1 := by
  decide +kernel

/-! ## Cache, patrol and heal -/

def upC : State := { up with
  models := [model0], mem := { up.mem with
    plots := [(20, (.model, some 0))], fills := [⟨163840, 2, 3⟩, ⟨9, 2, 3⟩], col := [⟨77, 0, [], false⟩, ⟨78, 0, [], true⟩]
    poison := [163840 * 32 + 4] } }
theorem witness_cache : fillAllowed upC ⟨163840, 2, 3⟩ = true ∧ fillAllowed upC ⟨9, 2, 3⟩ = false ∧
    (after (.colCacheFill 163840 [] false) upC).mem.col.find? (·.line == 163840) = some ⟨163840, 0, [4], false⟩ ∧
    (after (.colCacheFill 77 [] true) upC).mem.col.map (·.parity) = [true, true] ∧
    (after (.colCacheFill 9 [] false) upC).counter (cMsf 7) = 1 ∧ (after (.colCacheFill 9 [] false) upC).mem.refused = [(9, 3)] ∧
    filling upC 78 = false ∧ (colRead 2 3 78 upC).counter (cCol 4) = 1 ∧ (colRead 2 3 77 upC).counter (cCol 0) = 1 ∧
    filling (colRead 2 3 79 upC) 79 = true := by decide +kernel
theorem witness_patrol : patrolMay upScrub false (dieBusy upScrub 0) = true ∧ patrolMay up false (dieBusy up 0) = false ∧
    (after (.patrolStep []) upScrub).mem.patrol = 1 ∧
    (after (.patrolStep []) { upScrub with mem := { up.mem with patrol := massifLines - 1 } }).mem.patrol = 0 ∧
    (after (.patrolStep []) up).mem.patrol = 0 := by decide +kernel
/-- A heal block of a small image whose first word is poisoned; firmware has fetched the host's copy. -/
def modelH : Model := { model0 with selfHeal := true, image := { image0 with size := 64 } }
def upH : State := { up with
  models := [modelH]
  mem := { up.mem with plots := [(20, (.model, some 0))], healReads := [⟨3, 0⟩], poison := [20 * plotSize / 8] } }
theorem zeros_getD (n i : Nat) : (zeros n).getD i 0 = 0 := by
  simp only [zeros, List.getD_eq_getElem?_getD, List.getElem?_replicate]; split <;> rfl
theorem fit_nil (n k : Nat) : fitBytes (fitBytes [] n) k = zeros (min k n) ++ zeros (k - n) := by simp [fitBytes, zeros]
/-- The host's copy is all zeros, as the plot is but for its poisoned word: the block is healed. -/
theorem witness_heal : healLength modelH 0 = 64 ∧ healFetched upH ⟨3, 0⟩ = true ∧
    healAgrees modelH upH.mem (plotAddr [20] 0) 0 4096 (fitBytes (fitBytes [] 64) 4096) = true := by
  refine ⟨by decide +kernel, by decide +kernel, ?_⟩
  simp only [healAgrees, List.all_eq_true]
  intro i _
  have h : memByte upH.mem (plotAddr [20] 0 + i) = 0 := rfl
  rw [h, fit_nil, zeros, zeros, List.replicate_append_replicate, ← zeros, zeros_getD]; simp
/-- A byte of a word that is not poisoned differs: the block is never healed. -/
theorem witness_heal_differs : healAgrees modelH upH.mem (plotAddr [20] 0) 0 4096 (fitBytes (fitBytes (zeros 8 ++ [9]) 64) 4096) = false ∧
    (after (.healBlockReadDone none []) upH).counter (cMsf 6) = 1 := by
  refine ⟨?_, by decide +kernel⟩
  simp only [healAgrees, List.all_eq_false]
  exact ⟨8, by simp, by decide +kernel⟩
theorem witness_memory : Memory.wf up.mem = true ∧ memBytes (memPut up.mem 7 [1, 0, 2]) 6 5 = [0, 1, 0, 2, 0] ∧
    (memPut up.mem 7 [1, 0, 2]).cells = [(7, 1), (9, 2)] ∧ (memClear (memPut up.mem 7 [1, 0, 2]) 7 3).cells = [] := by decide +kernel

/-! ## Host DMA -/

/-- Stream 8, the first of virtual function 1: a copy stream with one descriptor posted. -/
def stream0 : Stream := { Stream.reset with
  configured := true, mode := .running, copy := true, ringBase := 0x10000, sizeExp := 4, staging := 65536, inflight := 4, tail := 1 }
def upG (x : Stream) : State := { up with
  mem := { up.mem with plots := [(40, (.data, some 0))], cells := [(40 * 2097152 + 64, 9)] }
  dma := { up.dma with streams := up.dma.streams.set 8 x, allocs := [⟨0, 2, [40]⟩] } }
/-- A descriptor of one element of `l0` bytes, offset 64 of allocation 2, host address 0x200000. -/
def descBytes (op l0 : Nat) : List Byte :=
  leBytes 1 op ++ zeros 3 ++ leBytes 4 l0 ++ leBytes 2 1 ++ leBytes 2 1 ++ zeros 4 ++ leBytes 8 0x200000 ++ zeros 8 ++
    leBytes 8 (2 * 2 ^ 48 + 64) ++ zeros 24
theorem witness_tail : ((after (.dmaRingTailWrite 1 0 16) (upG stream0)).stream 8).tail = 16 ∧
    (after (.dmaRingTailWrite 1 0 17) (upG stream0)).counter (cStr 8 7) = 1 ∧
    ((after (.dmaRingTailWrite 1 0 0) (upG stream0)).stream 8).tail = 1 ∧
    ((after (.dmaRingTailWrite 1 0 2) (upG { stream0 with head := 0xFFFFFFFE, tail := 1 })).stream 8).tail = 2 := by decide +kernel
/-- The descriptor fetched and started, its request issued, its element delivered, its status written. -/
def started0 (op : Nat) : State := after (.descriptorStart 8 (descBytes op 16)) (upG stream0)
/-- The same with the request on its way. -/
def issued1 (op : Nat) : State := upG { stream0 with
  fill := 256, descs := [{ parseDesc (upG stream0) 8 0 (descBytes op 16) with started := true, issued := 1 }] }
def moved0 (op : Nat) : State := after (.dmaElement 8 0 (leBytes 16 0x0807060504030201) [] []) (issued1 op)
theorem witness_descriptor : (started0 2).shaped ∧ (((started0 2).stream 8).descs.map (fun d => (d.started, d.number))) = [(true, 0)] ∧
    (started0 2).out = [.hostRead 1 0x10000 48] ∧ (chooseStream (started0 2)).map (fun x => (x.1, x.2.2)) = some (8, true) ∧
    (after .dmaRequestIssue (started0 2)).out = [.hostRead 1 0x200000 16, .hostRead 1 0x10000 48] ∧
    ((after .dmaRequestIssue (started0 2)).stream 8).descs = ((issued1 2).stream 8).descs ∧
    (((after (.descriptorStart 8 (descBytes 2 0)) (upG stream0)).stream 8).descs.map (fun d => (d.cut, d.status))) = [(some 0, 5)] ∧
    (after .dmaRequestIssue (upG stream0)).dma.chosen = none := by unfold State.shaped; decide +kernel
theorem witness_element : memBytes (moved0 2).mem (40 * 2097152 + 64) 9 = leBytes 9 0x0807060504030201 ∧
    ((moved0 2).stream 8).fill = 0 ∧ (moved0 3).out = [.hostWrite 1 0x200000 (leBytes 16 9) false] ∧
    ((moved0 2).stream 8).descs.map (·.elements) = [1] := by decide +kernel
theorem witness_complete : (after (.descriptorComplete 8 0) (moved0 2)).out.head? =
      some (.hostWrite 1 0x10030 (leBytes 4 1 ++ leBytes 4 0xFFFFFFFF ++ leBytes 8 0x0100) false) ∧
    ((after (.descriptorComplete 8 0) (moved0 2)).stream 8).head = 1 ∧
    (after (.descriptorComplete 8 0) (moved0 2)).counter (cStr 8 2) = 1 := by decide +kernel
/-- A record ring: its element is a record of the test model. -/
def recRing : State :=
  let s := upG { stream0 with copy := false }
  { s with models := [model0] }
def recBytes : List Byte :=
  leBytes 1 1 ++ zeros 3 ++ leBytes 4 24 ++ leBytes 2 1 ++ leBytes 2 1 ++ zeros 4 ++ leBytes 8 0x200000 ++ zeros 8 ++
    leBytes 8 0x300000 ++ zeros 24
def ringRecord : State :=
  after (.dmaElement 8 0 (mavisum 1 0 0 7 99 0 0 []) [] []) { recRing with dma := { recRing.dma with
    streams := recRing.dma.streams.modify 8 (fun x => { x with
      descs := [{ parseDesc recRing 8 0 recBytes with started := true, issued := 1 }] }) } }
theorem witness_ring_record : ringStep12 0 24 (mavisum 1 0 0 7 99 0 0 []) = none ∧ acceptingModel recRing 0 7 = some model0 ∧
    ringRecord.ctxs.map (fun c => (c.1, c.2.src, c.2.recId, c.2.committed)) = [(0, .ring 8 0 0, 99, true)] ∧
    (ringRecord.stream 8).descs.map (·.elements) = [1] ∧ ringRecord.trhQ = [[0], []] := by decide +kernel
/-- An answer of element 0, in staging and issued or not. -/
def answered0 (issued : Bool) : State := { ringRecord with dma := { ringRecord.dma with
  streams := ringRecord.dma.streams.modify 8 (fun x => { x with answers := [⟨0, 0, false, List.replicate 24 7, none, true, issued⟩] }) } }
theorem witness_answer : (answerPlace (answered0 true) 8).map (·.2.2) = some 0x300000 ∧
    (after (.ringAnswerWrite 8) (answered0 true)).out.take 2 =
      [.hostWrite 1 0x300000 (List.replicate 8 7) false, .hostWrite 1 0x300008 (List.replicate 16 7) false] ∧
    ((after (.ringAnswerWrite 8) (answered0 true)).stream 8).answers = [] ∧
    (after (.ringAnswerWrite 8) (answered0 true)).returned = [.ring 8 256] ∧
    ((after (.ringAnswerWrite 8) (answered0 false)).stream 8).answers.length = 1 := by decide +kernel
/-- The answer is the stream's request at an issue opportunity; one that finds room is staged and its context released. -/
theorem witness_answer_staged : (chooseStream (answered0 false)).map (fun x => (x.1, x.2.1)) = some (8, .answer) ∧
    ((after .dmaRequestIssue (answered0 false)).stream 8).answers.map (·.issued) = [true] ∧
    ((ringAnswer 8 0 0 false (List.replicate 24 7) (some 5) (withRec rec0 ringRecord)).stream 8).fill = 256 ∧
    (ringAnswer 8 0 0 false (List.replicate 24 7) (some 5) (withRec rec0 ringRecord)).ctx? 5 = none := by decide +kernel
/-- Firmware fetches 600 bytes on stream 7 of physical function 0: 512 and then 88. -/
def fetching0 : State := { up with dma := { up.dma with fetches := [⟨.image, 0x10000, 600⟩] } }
theorem witness_fetch : (chooseStream fetching0).map (fun x => (x.1, x.2.1)) = some (7, .fetch ⟨.image, 0x10000, 600⟩) ∧
    (after .dmaRequestIssue fetching0).out = [.hostRead 0 0x10000 512] ∧
    (after .dmaRequestIssue fetching0).dma.fetches = [⟨.image, 0x10200, 88⟩] ∧
    (after .dmaRequestIssue (after .dmaRequestIssue fetching0)).dma.fetches = [] := by decide +kernel
/-- A FENCED copy behind an earlier store of its stream to another chip that is still outstanding may not run. -/
def fenced0 : State :=
  let d := { parseDesc (upG stream0) 8 0 (descBytes 2 16) with started := true, issued := 1 }
  upG { stream0 with fill := 256, descs := [{ d with number := 7 }, { d with flags := 12 }] }
theorem witness_order : (fenced0.desc? 8 0).map (fun d => mayAccess fenced0 8 d d.elements) = some false ∧
    ((issued1 2).desc? 8 0).map (fun d => mayAccess (issued1 2) 8 d d.elements) = some true ∧
    ((after (.dmaElement 8 0 (zeros 16) [] []) fenced0).stream 8).descs.map (·.elements) = [0, 0] := by decide +kernel

/-! ## Translations -/

/-- ATS and PRI are on: the element's page is asked for. -/
def upAts : State := { started0 2 with dma := { (started0 2).dma with ats := [1], pri := [1], priAlloc := [(1, 1)] } }
def asked0 : State := { upAts with dma := { upAts.dma with xlate := [(1, 0x200)] } }
/-- The completion gives no right: the descriptor halts and asks through PRI. -/
def faulted0 : State := after (.translationCompletion 1 0x200 12 false false 0x900) asked0
theorem witness_translation : (after .dmaRequestIssue upAts).dma.xlate = asked0.dma.xlate ∧
    granted (after (.translationCompletion 1 0x200 21 true true 0x900) asked0) 1 0x3FF true = true ∧
    granted (after (.translationCompletion 1 0x200 21 true true 0x900) asked0) 1 0x400 true = false ∧
    faulted0.dma.pris = [⟨.element 8 0, 1, 0x200, false, true, 0, false⟩] ∧
    (after (.atsInvalidateRequest 1 0x3FF 12) (after (.translationCompletion 1 0x200 21 true true 0x900) asked0)).dma.iotlb = [] ∧
    (after (.atsInvalidateRequest 1 0x3FF 12) (after (.translationCompletion 1 0x200 21 true true 0x900) asked0)).out.head? =
      some (.invalidateDone 1) := by decide +kernel
theorem witness_page_response : (after (.pageRequestResponse 1 0x200 .success) faulted0).dma.pris.map (·.again) = [true] ∧
    ((after (.pageRequestResponse 1 0x200 .invalidRequest) faulted0).stream 8).descs.map (fun d => (d.cut, d.status)) = [(some 0, 1)] ∧
    (after (.pageRequestResponse 1 0x200 .invalidRequest) faulted0).dma.pris = [] ∧
    ((after (.priLimitExpiry 1 0x200) { faulted0 with time := { up.time with time := 10000001 } }).stream 8).descs.map
      (fun d => (d.cut, d.status)) = [(some 0, 1)] ∧
    ((after (.completionTimeout 8 0) (issued1 2)).stream 8).descs.map (fun d => (d.cut, d.firstFlagged, d.status)) =
      [(some 0, some 0, 1)] := by decide +kernel

/-! ## Zuoth links -/

/-- Saddle 0 in state `x`, on chip 4 of fabric 9. -/
def upZ (x : Saddle) : State := { up with
  zth := { up.zth with chip := some (4, 9), saddles := up.zth.saddles.set 0 x } }
def live0 : Saddle := { Saddle.reset with mode := .active, enabled := true, pools := [64, 128, 512, 8], accepted := true, rxSeq := 7 }
/-- The partner's INIT: version 1, valid, chip 5, Saddle 3, fabric 9, the pools of this part. -/
def partnerInit (version fabric : Nat) : List Byte :=
  let head := beBytes 1 0x10 ++ zeros 15 ++ fitBytes (beBytes 1 version ++ [1, 5, 3] ++ beBytes 2 fabric ++
    [0, 64, 0, 128, 2, 0, 0, 8] ++ zeros 4) 224
  fitBytes (head ++ flitCrc head) 256
/-- A partner's flit of a kind with a sequence, an ack and a body. -/
def partnerFlit (kind seq ack : Nat) (body : List Byte) : List Byte :=
  let head := beBytes 1 kind ++ [0] ++ beBytes 2 seq ++ beBytes 2 ack ++ zeros 10 ++ fitBytes body 224
  fitBytes (head ++ flitCrc head) 256

theorem witness_trains : trains (upZ { live0 with mode := .training }) 0 = true ∧ trains (upZ live0) 0 = false ∧
    ((after (.linkTrainingDone 0 true) (upZ live0)).saddle 0).mode = .active := by decide +kernel
theorem witness_training : ((after (.linkTrainingDone 0 true) (upZ { live0 with mode := .training })).saddle 0).mode = .up ∧
    (after (.linkTrainingDone 0 true) (upZ { live0 with mode := .training })).out.length = 1 ∧
    ((after (.linkTrainingDone 0 false) (upZ { live0 with mode := .training })).saddle 0).mode = .down ∧
    (after (.initResend 0) (upZ { live0 with mode := .up, initTx := some [1] })).out = [.flit 0 [1]] := by decide +kernel
theorem witness_init : goodFlit (partnerInit 1 9) 0x10 ∧ initMismatch (upZ live0) (partnerInit 1 9) = false ∧
    initMismatch (upZ live0) (partnerInit 1 8) = true ∧ initMismatch (upZ live0) (partnerInit 2 9) = true ∧
    ((after (.initFlitRx 0 (partnerInit 1 9) .clean) (upZ { live0 with mode := .up })).saddle 0).mode = .active ∧
    ((after (.initFlitRx 0 (partnerInit 1 9) .clean) (upZ { live0 with mode := .up })).saddle 0).pools = [64, 128, 512, 8] ∧
    ((after (.initFlitRx 0 (partnerInit 1 8) .clean) (upZ { live0 with mode := .up })).saddle 0).mismatchAt = some 0 := by
  unfold goodFlit; decide +kernel
theorem witness_retrain : ((after (.fabricMismatchRetry 0) { upZ { live0 with mode := .down, mismatchAt := some 0 } with
      time := { up.time with time := 100000000 } }).saddle 0).mode = .training ∧
    ((after (.zuothLaneLoss 0) (upZ live0)).saddle 0).mode = .training ∧
    (after (.zuothLaneLoss 0) (upZ live0)).counter (cSaddle 0 8) = 1 := by decide +kernel

/-- One PING from chip 5 to this chip in a DATA flit. -/
def ping0 : List Byte := fitBytes ([0x60, 1, 5, 4, 0, 0, 0, 0, 0, 0x2A, 0, 0, 0, 0, 0, 3]) 32
theorem witness_data : goodFlit (partnerFlit 1 7 0xFFFF ping0) 1 ∧ isDuplicate live0 7 = false ∧ isDuplicate live0 6 = true ∧
    ((after (.dataFlitRx 0 (partnerFlit 1 7 0xFFFF ping0) .clean) (upZ live0)).saddle 0).rxSeq = 8 ∧
    ((after (.dataFlitRx 0 (partnerFlit 1 7 0xFFFF ping0) .clean) (upZ live0)).saddle 0).inq.map (·.bytes) = [ping0] ∧
    ((after (.dataFlitRx 0 (partnerFlit 1 9 0xFFFF ping0) .clean) (upZ live0)).saddle 0).retryOut = true ∧
    ((after (.dataFlitRx 0 (partnerFlit 1 7 0xFFFF ping0) .uncorrectable) (upZ live0)).saddle 0).retryOut = true := by
  unfold goodFlit; decide +kernel
theorem witness_not_fabric_ready :
    ((after (.dataFlitRx 0 (partnerFlit 1 7 0xFFFF ping0) .clean) { up with zth := { up.zth with
      saddles := up.zth.saddles.set 0 { live0 with mode := .up } } }).saddle 0).refusing = some 7 ∧
    (after (.retryReqRepeat 0) (upZ { live0 with retryOut := true })).out.length = 1 := by decide +kernel
def sent0 : Saddle := { live0 with retry := [⟨2, zeros 256, 0, 1, true⟩, ⟨3, zeros 256, 0, 1, true⟩], txSeq := 4 }
theorem witness_acks : ((after (.idleFlitRx 0 (partnerFlit 2 0 2 []) .clean) (upZ sent0)).saddle 0).retry.map (·.seq) = [3] ∧
    (after (.retryReqRx 0 (partnerFlit 0x12 0 1 [0, 2]) .clean) (upZ sent0)).out.length = 2 ∧
    (after (.ackTimeout 0) { upZ sent0 with time := { up.time with time := 200 } }).out.length = 2 ∧
    (after (.notReadyBackoffExpiry 0) (upZ { sent0 with backoff := some 2 })).out.length = 2 := by decide +kernel
theorem witness_not_ready : ((after (.notReadyRx 0 (partnerFlit 0x13 0 1 [0, 2]) .clean) (upZ sent0)).saddle 0).backoff = some 2 ∧
    ((after (.notReadyRx 0 (partnerFlit 0x13 0 1 [0, 2]) .clean) (upZ { sent0 with notReady := 63 })).saddle 0).mode = .training := by
  decide +kernel

/-! ## Messages -/

def msg0 (bs : List Byte) (from_ : Nat) : Msg := ⟨bs, from_, 0, false, none, false, none⟩
/-- A PING of this chip to chip 5. -/
def pingOut : Msg := msg0 (ping0.set 3 5) 16
theorem witness_send : nextMessage { live0 with outq := [pingOut] } = some pingOut ∧
    ((after (.messageSend 0) (upZ { live0 with outq := [pingOut] })).saddle 0).retry.map (fun f => (f.seq, f.vc, f.slots, f.first)) =
      [(0, 3, 1, true)] ∧ (after (.messageSend 0) (upZ { live0 with outq := [pingOut] })).counter (cSaddle 0 0) = 1 ∧
    (after (.linkHoldExpiry 0) { upZ { live0 with mode := .training, outq := [pingOut], heldSince := some 0 } with
      time := { up.time with time := 400000 } }).counter (cZth 0) = 1 := by decide +kernel
/-- A PING from chip 5 to chip 6 that came in on Saddle 0 leaves on Saddle 1, one hop later. -/
def forward0 : State := { upZ { live0 with inq := [msg0 (ping0.set 3 6) 0] } with
  zth := { (upZ { live0 with inq := [msg0 (ping0.set 3 6) 0] }).zth with unicast := [(6, 1, 0)] } }
theorem witness_forward : frontMsg 0 forward0 = some (msg0 (ping0.set 3 6) 0) ∧ violationOf (msg0 (ping0.set 3 6) 0) = none ∧
    ((after (.messageForward 0) forward0).saddle 1).outq.map (·.bytes) = [(ping0.set 3 6).set 6 1] := by decide +kernel
theorem witness_violation : violationOf (msg0 (ping0.set 0 0x7F) 0) ≠ none ∧
    ((after (.messageViolation 0) (upZ { live0 with inq := [msg0 (ping0.set 0 0x7F) 0] })).saddle 0).violations = 1 := by decide +kernel
/-- An adaptive message that has waited on Saddle 1, which is not its deterministic route. -/
def stuck0 : State := { upZ { live0 with outq := [{ pingOut with bytes := pingOut.bytes.set 5 2 }], pools := [0, 0, 0, 0] } with
  time := { up.time with tick := 9 }
  zth := { (upZ { live0 with outq := [{ pingOut with bytes := pingOut.bytes.set 5 2 }], pools := [0, 0, 0, 0] }).zth with
    unicast := [(5, 1, 3)] } }
theorem witness_fallback : ((stuck0.saddle 0).outq.find? (fallsBack stuck0)).isSome = true ∧
    ((after (.adaptiveRouteFallback 0) stuck0).saddle 1).outq.map (fun m => (m.fixed, m.bytes)) = [(true, pingOut.bytes)] := by
  decide +kernel

/-! ## Commons and ensembles -/

/-- A message: opcode, source chip 5, to this chip 4, tenant 0, flags, tag, operand, body. -/
def inMsg (op flags tag operand : Nat) (body : List Byte) : Msg :=
  let len := ceilDiv (16 + body.length) 32
  msg0 (fitBytes (beBytes 1 op ++ beBytes 1 len ++ [5, 4, 0] ++ beBytes 1 flags ++ [0, 0] ++ beBytes 2 tag ++ beBytes 6 operand ++ body)
    (32 * len)) 3
/-- The device on chip 4 with messages delivered, window 1 of tenant 0 homed in plot 50, and chips 5 and 6 in its scope. -/
def upN (ms : List Msg) : State := { up with
  tenants := up.tenants.set 0 { tenant0 with quota := { quota0 with scope := 2 ^ 5 + 2 ^ 6 } }
  zth := { up.zth with chip := some (4, 9), unicast := [(5, 0, 0), (6, 1, 0)], windows := [⟨0, 1, [50]⟩], local_ := ms } }
def lineA : Nat := 2 ^ 40 + 512
def homeA : Nat := 50 * plotSize + 512
def withDir (d : Dir) (s : State) : State := { s with zth := { s.zth with dir := [(lineA, d)] } }
def rdS : Msg := inMsg 1 0 7 lineA (zeros 16)
def rdM : Msg := inMsg 2 0 7 lineA (zeros 16)

theorem delivered_of {s : State} {port : MsgPort} {op : Nat} {m : Msg} (h : (takeMsg port op s).map (·.1) = some m) :
    delivered s port op m ((takeMsg port op s).getD (m, s)).2 := by
  unfold delivered
  cases hx : takeMsg port op s with
  | none => simp [hx] at h
  | some p => simp [hx] at h; simp [← h]
theorem witness_delivered : ∃ s', delivered (upN [rdS]) 3 1 rdS s' ∧ requestRefused s' rdS = false ∧ s'.zth.txns = [] ∧
    s'.zth.reqs = [] := ⟨_, delivered_of (by decide +kernel), by decide +kernel⟩
theorem test_other_window : requestRefused (upN []) (inMsg 1 0 7 (2 ^ 41) (zeros 16)) = true := by decide +kernel
theorem witness_home : dirOf (after (.rdS 3 []) (upN [rdS])) lineA = .exclusive 5 := by decide +kernel
theorem witness_home_snoops :
    (after (.rdM 3 []) (withDir (.exclusive 6) (upN [rdM]))).zth.txns.map (·.awaiting) = [[6]] ∧
    ((after (.rdM 3 []) (withDir (.exclusive 6) (upN [rdM]))).saddle 1).outq.map (fun m => msgOp m.bytes) = [0x21] := by decide +kernel
theorem witness_home_shares : dirOf (after (.rdS 3 []) (withDir (.shared [6]) (upN [rdS]))) lineA = .shared [5, 6] := by decide +kernel

/-- A line of chip 5 in this chip's cache. -/
def line5 (st : LineState) : CLine := ⟨5, lineA, 0, st, List.replicate 256 3, 0, 0, 2, 0⟩
def withCache (l : CLine) (s : State) : State := { s with zth := { s.zth with cache := [l] } }
def withEvict (l : CLine) (s : State) : State := { s with zth := { s.zth with evict := [l] } }
theorem witness_snoop :
    ((after (.snpShare 3) (withCache (line5 .m) (upN [inMsg 0x20 0 7 lineA (zeros 16)]))).saddle 0).outq.map (fun m => msgOp m.bytes) =
      [0x43] ∧
    (after (.snpShare 3) (withCache (line5 .m) (upN [inMsg 0x20 0 7 lineA (zeros 16)]))).zth.cache.map (·.state) = [.s] ∧
    (after (.snpInv 3) (withCache (line5 .e) (upN [inMsg 0x21 0 7 lineA (zeros 16)]))).zth.cache = [] ∧
    ((after (.snpInv 3) (withCache (line5 .e) (upN [inMsg 0x21 0 7 lineA (zeros 16)]))).saddle 0).outq.map (fun m => msgOp m.bytes) =
      [0x23] ∧
    ((after (.snpShare 3) (upN [inMsg 0x20 0 7 lineA (zeros 16)])).saddle 0).outq.map (fun m => msgOp m.bytes) = [0x22] ∧
    ((after (.snpShare 3) (withEvict (line5 .m) (upN [inMsg 0x20 0 7 lineA (zeros 16)]))).saddle 0).outq.map (fun m => msgOp m.bytes) =
      [0x24] := by decide +kernel

/-- A transaction of the home for chip 6 that awaits chip 5. -/
def txn0 (ex : Bool) : Txn := ⟨7, lineA, 0, 6, 1, ex, [5], [], none, 0, true, true, false⟩
def withTxn (t : Txn) (s : State) : State := { s with zth := { s.zth with txns := [t] } }
def lineMsg (op tag : Nat) : Msg := inMsg op 0 tag lineA (lineBody (List.replicate 256 8) 0)
def waitsFor5 (ex : Bool) (m : Msg) : State := withTxn (txn0 ex) (withDir (.exclusive 5) (upN [m]))
theorem witness_answers : homeAddr (upN []) lineA = some homeA ∧
    dirOf (after (.snpRspInvalid 3 []) (waitsFor5 false (inMsg 0x22 0 7 lineA (zeros 16)))) lineA = .shared [6] ∧
    dirOf (after (.snpRspAck 3 []) (waitsFor5 false (inMsg 0x23 0 7 lineA (zeros 16)))) lineA = .shared [5, 6] ∧
    dirOf (after (.snpRspAck 3 []) (waitsFor5 true (inMsg 0x23 0 7 lineA (zeros 16)))) lineA = .exclusive 6 ∧
    (after (.snpRspInvalid 3 []) (upN [inMsg 0x22 0 7 lineA (zeros 16)])).counter (cZth 7) = 1 := by decide +kernel
def late (s : State) : State := { s with time := { s.time with time := 400001 } }
theorem witness_late_answer : commonsLate (late (waitsFor5 false rdS)) 0 = true ∧ commonsLate (waitsFor5 false rdS) 0 = false ∧
    (after (.snpRspInvalid 3 []) (late (waitsFor5 false (inMsg 0x22 0 7 lineA (zeros 16))))).counter (cZth 7) = 1 := by decide +kernel
theorem witness_dirty_answer :
    memBytes (after (.snpRspData 3 []) (waitsFor5 false (lineMsg 0x43 7))).mem (homeA + 254) 3 = [8, 8, 0] ∧
    (lineMsg 0x43 7).bytes.length = 288 := by decide +kernel
theorem witness_evicting :
    (txnOf (after (.snpRspEvicting 3 []) (waitsFor5 false (inMsg 0x24 0 7 lineA (zeros 16)))) 7).map (fun t => (t.awaiting, t.evicting)) =
      some ([], [5]) ∧
    dirOf (after (.evictClean 3 []) (withDir (.exclusive 5) (upN [inMsg 0x25 0 2 lineA (zeros 16)]))) lineA = .uncached ∧
    memBytes (after (.evictDirty 3 []) (withDir (.exclusive 5) (upN [lineMsg 0x44 2]))).mem (homeA + 254) 3 = [8, 8, 0] ∧
    (after (.evictAck 3) (withEvict (line5 .m) (upN [inMsg 0x26 0 2 lineA (zeros 16)]))).zth.evict = [] := by decide +kernel

/-- A load of 8 bytes of a line homed at chip 5. -/
def req0 : CReq := ⟨7, 5, lineA, 0, false, 0, true, false, 8, 0, 0x5000, 16, 8, []⟩
def withReq (r : CReq) (s : State) : State := { s with zth := { s.zth with reqs := [r] } }
theorem witness_line_arrives :
    (after (.dataS 3) (withReq req0 (upN [lineMsg 0x40 7]))).zth.cache.map (·.state) = [.s] ∧
    (after (.dataE 3) (withReq req0 (upN [lineMsg 0x41 7]))).zth.cache.map (·.state) = [.e] ∧
    (after (.dataM 3) (withReq req0 (upN [lineMsg 0x42 7]))).zth.cache.map (·.state) = [.m] ∧
    (after (.dataS 3) (withReq req0 (upN [lineMsg 0x40 7]))).out = [.hostWrite 1 0x5000 (List.replicate 8 8) false] ∧
    (after (.dataS 3) (withReq req0 (upN [lineMsg 0x40 7]))).zth.reqs = [] := by decide +kernel
theorem witness_nak :
    (after (.nak 3) (withReq req0 (upN [inMsg 0x27 0 7 (1 * 2 ^ 40 + 0x22 * 2 ^ 32) (zeros 16)]))).zth.reqs.map (·.naked) = [true] ∧
    ((after (.nak 3) (withReq req0 (upN [inMsg 0x27 0 7 (1 * 2 ^ 40 + 0x22 * 2 ^ 32) (zeros 16)]))).evBuf.getLast?).map (·.code) =
      some 0x0905 ∧
    (after (.commonsNakRetry 7) (late (withReq { req0 with naked := true } (upN [])))).zth.reqs.map (·.naked) = [false] := by decide +kernel
/-- A NAK of a remote signal is reported to the function that sent it. -/
theorem witness_remote_nak :
    (let s := upN [inMsg 0x27 0 0 (4 * 2 ^ 40 + 0x21 * 2 ^ 32) (zeros 16)]
     (after (.nak 3) { s with zth := { s.zth with signals := [(1, 5, 3, 101)] } }).evBuf.map (fun e =>
       (e.code, e.tenant, e.data.take 6)) = [(0x0702, 0, [5, 0, 101, 0, 3, 0x21])]) := by decide +kernel
theorem witness_time_outs : (after (.commonsRequestTimeout false 7) (late (withReq req0 (upN [])))).zth.reqs = [] ∧
    (after (.commonsRequestTimeout true 2) (late (withEvict (line5 .m) (upN [])))).zth.evict = [] ∧
    (after (.commonsSnoopTimeout 7 []) (late (waitsFor5 false rdS))).evBuf.map (·.code) = [0x0907] ∧
    dirOf (after (.commonsSnoopTimeout 7 []) (late (waitsFor5 false rdS))) lineA = .exclusive 6 ∧
    poisoned (after (.commonsSnoopTimeout 7 []) (late (waitsFor5 false rdS))).mem (homeA + 248) = true := by decide +kernel

/-- A RECORD_MC of record 99 with codes 1 and 2 for handle 7; member 1 of the test model takes it. -/
def mc0 : Msg := inMsg 0x45 1 9 (7 * 2 ^ 32) (beBytes 8 99 ++ beBytes 2 2 ++ zeros 6 ++ [1, 2] ++ zeros 6)
def upL (ms : List Msg) : State := { upN ms with models := [{ model0 with member := 1 }] }
theorem witness_record_mc : (takeMsg 3 0x45 (upL [mc0])).isSome = true ∧
    ((after (.recordMc 3) (upL [mc0])).ctx? 0).map (fun r => (r.recId, r.slots, r.src)) = some (99, [(0, 1), (1, 2)], .member 5 9) ∧
    ((after (.recordMc 3) { upL [mc0] with tenants := up.tenants.set 0 { tenant0 with enable := false } }).saddle 0).outq.map
      (fun m => (msgOp m.bytes, byteAt m.bytes 24, byteAt m.bytes 25)) = [(0x46, 2, 0x40)] := by decide +kernel
/-- With its tenant's contexts used up the member answers FAIL with reason 0x22. -/
theorem witness_record_mc_full :
    ((after (.recordMc 3) { upL [mc0] with tenants := up.tenants.set 0 { tenant0 with quota := { quota0 with scope := 32, contexts := 0 } } }).saddle
      0).outq.map (fun m => (msgOp m.bytes, byteAt m.bytes 24, byteAt m.bytes 25)) = [(0x46, 2, 0x22)] := by decide +kernel
/-- Member 1's TERM for context 5: one value, or FAIL with reason 0x22. -/
def term0 (status reason : Nat) : Msg :=
  inMsg 0x46 1 5 (7 * 2 ^ 32 + 1 * 2 ^ 24 + 1 * 2 ^ 16) (beBytes 8 99 ++ beBytes 1 status ++ beBytes 1 reason ++ zeros 6 ++ zeros 8 ++ beBytes 8 41)
def upTerm (m : Msg) : State := { withRec waits (upN [m]) with
  models := [{ modelT with image := { imageT with members := 2, out := ⟨0, 0, 0, 0, 0, 2, [(0x3F800000, 0)]⟩ } }] }
theorem witness_term : awaitsTerm (upTerm (term0 0 0)) waits (term0 0 0).bytes = true ∧
    ((after (.term 3) (upTerm (term0 0 0))).ctx? 5).map (·.terms) = some [(1, [⟨41, 0⟩])] ∧
    ((after (.term 3) (upTerm (term0 2 0x22))).ctx? 5).map (·.ended) = some (some (2, 0x22)) ∧
    (after (.term 3) (upN [term0 0 0])).counter (cSmt 2) = 1 := by decide +kernel
/-- A record that awaits nothing: its TERM is counted late. -/
theorem witness_term_late : awaitsTerm (upTerm (term0 0 0)) { waits with ended := some (5, 0x40) } (term0 0 0).bytes = false ∧
    (after (.term 3) (withRec { waits with ended := some (5, 0x40) } (upTerm (term0 0 0)))).counter (cSmt 2) = 1 := by decide +kernel
/-- Member 0's pair for record 99, with exponents 0, at a member that traced it. -/
def gh0 : Msg := inMsg 0x47 1 0 (7 * 2 ^ 32) ([1, 0, 0] ++ zeros 13 ++ beBytes 8 99 ++ [0, 2, 1, 0])
def upGh (recId : Nat) : State :=
  let m : Model := { modelE with member := 1 }
  { traceWrite m { rec0 with recId := recId } { upN [gh0] with models := [m], refits := [refit0] } with freeIdx := 0 }
theorem witness_refit_gh : (after (.refitGh 3 []) (upGh 99)).counter (cTen 0 (tRft 0)) = 1 ∧
    (after (.refitGh 3 []) (upGh 98)).counter (cTen 0 (tRft 2)) = 1 := by decide +kernel
/-- With accumulation paused the pair only marks its channel labelled. -/
theorem witness_refit_gh_paused :
    (after (.refitGh 3 []) { upGh 99 with refits := (upGh 99).refits.map (fun x => { x with paused := true }) }).counter
      (cTen 0 (tRft 1)) = 1 := by decide +kernel
theorem witness_ping : ((after (.ping 3) (upN [inMsg 0x60 0 7 3 (zeros 16)])).saddle 0).outq.map (fun m =>
      (msgOp m.bytes, msgDst m.bytes, msgTag m.bytes, msgOperand m.bytes)) = [(0x61, 5, 7, 3)] ∧
    (after (.pong 3) (upN [inMsg 0x61 0 7 3 (zeros 16)])).zth.local_ = [] := by decide +kernel
/-- SIGNAL 3 to Waymark 101 of the test tenant, with and without REMOTE_OK. -/
def sig0 : Msg := inMsg 4 0 0 (101 * 2 ^ 32) (beBytes 4 3 ++ zeros 12)
theorem witness_remote_signal :
    ((after (.wmkSignal 3) { upN [sig0] with waymarks := [(101, { Waymark.reset with remoteOk := true })] }).waymark 101).count = 3 ∧
    (after (.wmkSignal 3) (upN [sig0])).counter (cWmk 3) = 1 ∧
    ((after (.wmkSignal 3) (upN [sig0])).saddle 0).outq.map (fun m => (msgOp m.bytes, byteAt m.bytes 11)) = [(0x27, 0x21)] := by
  decide +kernel

/-! ## Waymarks, waits and vectors -/

/-- Function 1 waits in slot 2 for COUNT 5 on Waymark 101, its index 1. -/
def slot0 : WaitSlot := { WaitSlot.idle with target := 5, index := 1, vec := 3, ie := true, state := .waiting, wmk := 101, timeout := 1 }
def upK (w : Waymark) (x : WaitSlot) : State := { up with
  waymarks := [(101, w)], fns := up.fns.modify 1 (fun f => { f with waits := f.waits.set 2 x }) }
def waitOf (s : State) : WaitState := ((s.fn 1).waits.getD 2 WaitSlot.idle).state
theorem witness_operations : wmkIndex (upK Waymark.reset slot0) 1 1 = some 101 ∧ (upK Waymark.reset slot0).windowOpen 1 = true ∧
    waitOf (after (.wmkSignalWrite 1 1 4 false) (upK Waymark.reset slot0)) = .waiting ∧
    waitOf (after (.wmkSignalWrite 1 1 5 false) (upK Waymark.reset slot0)) = .satisfied ∧
    waitOf (after (.wmkSignalWrite 1 1 5 true) (upK Waymark.reset slot0)) = .error ∧
    waitOf (after (.wmkReset 1 1) (upK Waymark.reset slot0)) = .reset ∧
    waitOf (after (.wmkArmBarrier 1 1 4) (upK Waymark.reset slot0)) = .reset ∧
    ((after (.wmkSignalWrite 1 1 5 false) (upK Waymark.reset slot0)).fn 1).msixDue = [3] := by decide +kernel
/-- A fifth update in a cycle, or a lower Waymark, waits in the unit's queue; an expired wait takes no update. -/
def busyWmk : State := { upK Waymark.reset slot0 with wmkUnit := ⟨[], 0, 1, 500, 0⟩ }
theorem witness_unit : wmkTakes (upK Waymark.reset slot0) 101 0 = true ∧ wmkTakes busyWmk 101 0 = false ∧
    (after (.wmkReset 1 1) busyWmk).wmkUnit.queue.map (fun u => (u.n, u.src)) = [(101, 0)] ∧
    (let s := { upK Waymark.reset { slot0 with armTick := 0 } with time := { up.time with tick := 5, time := 100000000 } }
     timeoutPast 1 0 0 s.time = true ∧ waitOf (after (.wmkSignalWrite 1 1 9 false) s) = .timeout) := by decide +kernel
theorem witness_flags : ((after (.wmkClearErr 1 1) (upK { Waymark.reset with err := true } slot0)).waymark 101).err = false ∧
    ((after (.wmkRemoteOn 1 1) (upK Waymark.reset slot0)).waymark 101).remoteOk = true ∧
    ((after (.wmkRemoteOff 1 1) (upK { Waymark.reset with remoteOk := true } slot0)).waymark 101).remoteOk = false ∧
    (after (.wmkClearErr 1 10) (upK Waymark.reset slot0)).counter (cTen 0 0x30) = 1 := by decide +kernel
/-- A barrier of 4 that holds 3 takes 6: it opens twice and keeps 1. Counter mode saturates and sets OVF. -/
theorem witness_signal : (after (.wmkSignalWrite 1 1 6 false) (upK ⟨3, true, 4, 0xFFFF, false, false, false⟩ slot0)).waymark 101 =
      ⟨1, true, 4, 1, false, false, false⟩ ∧
    (after (.wmkSignalWrite 1 1 2 false) (upK ⟨0xFFFFFFFE, false, 0, 0, false, false, false⟩ WaitSlot.idle)).waymark 101 =
      ⟨0xFFFFFFFF, false, 0, 0, false, true, false⟩ ∧
    (after (.wmkSignalWrite 1 1 2 false) (upK ⟨0xFFFFFFFE, false, 0, 0, false, false, false⟩ WaitSlot.idle)).evBuf.map (·.code) =
      [0x0701] := by decide +kernel
/-- ARM of index 1 (bit 15), of index 10 outside the range, CANCEL (bit 13). -/
theorem witness_arm : waitOf (after (.waitArm 1 2 0x8001) (upK Waymark.reset { slot0 with state := .idle })) = .waiting ∧
    waitOf (after (.waitArm 1 2 0x800A) (upK Waymark.reset { slot0 with state := .idle })) = .refused ∧
    waitOf (after (.waitArm 1 2 0x8001) (upK { Waymark.reset with count := 5 } { slot0 with state := .idle })) = .satisfied ∧
    waitOf (after (.waitCancel 1 2 0x2001) (upK Waymark.reset slot0)) = .idle := by decide +kernel
theorem witness_wait_time_out : timeoutPast 1 0 0 { up.time with tick := 5, time := 100000000 } = true ∧
    waitOf (after (.waitTimeoutExpiry 1 2) { upK Waymark.reset slot0 with time := { up.time with tick := 5, time := 100000000 } }) =
      .timeout ∧
    (after (.waitTimeoutExpiry 1 2) { upK Waymark.reset slot0 with time := { up.time with tick := 5, time := 100000000 } }).counter
      (cTen 0 0x28) = 1 := by decide +kernel
theorem witness_remote_write : inScope (upN []) 0 5 = true ∧ inScope (upN []) 0 7 = false ∧
    ((after (.wmkRemoteWrite 1 (5 + 101 * 2 ^ 8 + 3 * 2 ^ 32)) (upN [])).saddle 0).outq.map (fun m =>
      (msgOp m.bytes, msgOperand m.bytes, beAt m.bytes 16 4)) = [(4, 101 * 2 ^ 32, 3)] ∧
    (after (.wmkRemoteWrite 1 7) (upN [])).evBuf.map (·.code) = [0x0702] := by decide +kernel
def upV (masked : Bool) : State := { up with fns := up.fns.modify 1 (fun f => { f with
  msixDue := [2, 0], msix := f.msix.set 2 ⟨0xFEE00000, 77, masked⟩, pba := if masked then 4 else 0 }) }
theorem witness_msix : (after (.msixMessage 1) (upV false)).out = [.msix 1 2 0xFEE00000 77] ∧
    ((after (.msixMessage 1) (upV true)).fn 1).pba = 4 ∧ ((after (.msixMessage 1) (upV true)).fn 1).msixDue = [0] ∧
    (after (.msixTableWrite 1 0x502C 0) (upV true)).out = [.msix 1 2 0xFEE00000 77] ∧
    (((after (.msixTableWrite 1 0x5024 1) (upV true)).fn 1).msix.getD 2 MsixEntry.reset).addr = 0x1FEE00000 := by decide +kernel

/-! ## Event queues and registers -/

/-- Function 0's queue of 16 entries and one event that is tenant-free. -/
def upEv (q : EvtQueue) : State := { up with
  evBuf := [⟨0x0701, 0xFF, 3, 9, zeros 16⟩], fns := up.fns.modify 0 (fun f => { f with evq := q }) }
def queue0 : EvtQueue := { EvtQueue.reset with enabled := true, base := 0x8000, k := 4, vec := 6, tail := 17, head := 2 }
theorem witness_entry : 0 ∈ eventFns 0xFF ∧ ((after .eventEntryWrite (upEv queue0)).fn 0).evq.tail = 18 ∧
    ((after .eventEntryWrite (upEv queue0)).fn 0).cause = 2 ∧ ((after .eventEntryWrite (upEv queue0)).fn 0).msixDue = [6] ∧
    (after .eventEntryWrite (upEv queue0)).out.length = 2 ∧
    ((after .eventEntryWrite (upEv { queue0 with head := 1 })).fn 0).evq.lost = true ∧
    (after .eventEntryWrite (upEv { queue0 with head := 1 })).counter (cFn 0 3) = 1 := by decide +kernel
theorem witness_coalesce :
    ((after (.eventMsixCoalesce 0) (upEv { queue0 with msgDue := true })).fn 0).msixDue = [6] ∧
    ((after (.evtQueueHeadWrite 0 17) (upEv queue0)).fn 0).evq.head = 17 ∧
    (after (.evtQueueHeadWrite 0 18) (upEv queue0)).counter (cFn 0 4) = 1 ∧
    ((after (.evtIntCauseWrite 0 2) { up with fns := up.fns.modify 0 (fun f => { f with cause := 6 }) }).fn 0).cause = 4 := by
  decide +kernel
/-- PRT_LAT_MAX_CYC of port 0 clears on the read of its low half. -/
def latMax : State := { up with ctr := [(cPrt 0 pLatMax, 2 ^ 32 + 5)] }
theorem witness_halves : isReg64 0 (0x20000 + cPrt 0 pFrames) = true ∧ latMaxKey up 0 (0x20000 + cPrt 0 pFrames) = none ∧
    (after (.reg64LowRead 0 (0x20000 + cPrt 0 pFrames)) { up with ctr := [(cPrt 0 pFrames, 2 ^ 32 + 5)] }).out =
      [.barRead 0 (0x20000 + cPrt 0 pFrames) [5, 0, 0, 0]] ∧
    ((after (.reg64LowRead 0 (0x20000 + cPrt 0 pFrames)) { up with ctr := [(cPrt 0 pFrames, 2 ^ 32 + 5)] }).fn 0).snap =
      some (0x20000 + cPrt 0 pFrames, 1) ∧
    (after (.counterRcRead 0 (0x20000 + cPrt 0 pLatMax) 8) latMax).out =
      [.barRead 0 (0x20000 + cPrt 0 pLatMax) [5, 0, 0, 0, 1, 0, 0, 0]] ∧
    (after (.counterRcRead 0 (0x20000 + cPrt 0 pLatMax) 8) latMax).ctr = [] := by decide +kernel
theorem witness_held_half : ((after (.reg64LowWrite 1 0x4100 7) (upN [])).fn 1).hold = some (0x4100, 7) ∧
    ((after (.reg64HighWrite 1 0x4104 0) (after (.reg64LowWrite 1 0x4100 (5 + 101 * 256)) (upN []))).saddle 0).outq.length = 1 ∧
    ((after (.reg64HighWrite 1 0x4104 0) (after (.reg64LowWrite 1 0x4100 7) (upN []))).fn 1).hold = none := by decide +kernel
def mbxState (x : MbxState) : State := { up with fns := up.fns.modify 1 (fun f => { f with mbx := { f.mbx with state := x } }) }
theorem witness_doorbell : ((after (.mbxDoorbellRing 1 1) up).fn 1).mbx.state = .pending ∧
    (after (.mbxDoorbellRing 1 1) (mbxState .booting)).counter (cFn 1 0) = 1 ∧
    (after (.mbxDoorbellRing 1 1) (mbxState .running)).counter (cFn 1 1) = 1 ∧
    ((after (.registerWrite 1 0x1003 [9]) up).fn 1).mbx.cmd.take 5 = [0, 0, 0, 9, 0] ∧
    (after (.registerWrite 1 0x1003 [9]) (mbxState .pending)).counter (cFn 1 2) = 1 := by decide +kernel

/-! ## Function resets -/

theorem witness_vf_reset : ((after (.vfFunctionLevelReset 0) (mbxState .running)).fn 1).mbx.state = .ready ∧
    ((after (.vfFunctionLevelReset 0) (upK Waymark.reset slot0)).fn 1).waits = List.replicate 16 WaitSlot.idle ∧
    ((after (.vfFunctionLevelReset 0) up).tenant 0).state = .disabled ∧
    ((after (.vfFunctionLevelReset 0) up).tenant 0).quota = quota0 ∧ up.fns.length = 33 ∧ up.tenants.length = 32 ∧
    (up.fn 32).mbx.state ≠ .booting := by decide +kernel

/-- A reset discards the response that waits, or that a running command will make; an ABSENT tenant stays ABSENT. -/
def dueMbx : State := { mbxState .running with fns := (mbxState .running).fns.modify 1 (fun f => { f with
  mbx := { f.mbx with due := some (.wait, []) } }) }
theorem witness_reset_discards : ((after (.vfFunctionLevelReset 0) dueMbx).fn 1).mbx.due.isNone = true ∨
    ((after (.vfFunctionLevelReset 0) dueMbx).fn 1).mbx.discard = true := by decide +kernel
theorem witness_reset_taken :
    ((after (.vfFunctionLevelReset 0) { mbxState .running with taken := [1] }).fn 1).mbx.discard = true ∧
    ((after (.vfFunctionLevelReset 7) up).tenant 7).state = .absent ∧ (∀ u ∈ List.range 32, (up.fn (u + 1)).mbx.state ≠ .booting) := by decide +kernel

/-! ## Mailbox commands -/

/-- A command page without its trailing zeros: opcode, length, tenant and payload. -/
def page (op t : Nat) (pl : List Byte) : List Byte := leBytes 2 op ++ leBytes 2 pl.length ++ leBytes 4 7 ++ leBytes 1 t ++ zeros 23 ++ pl
/-- Function `f`'s mailbox runs a page and is the next to act. -/
def cmd (f op t : Nat) (pl : List Byte) (s : State) : State := { s with
  taken := [f], fns := s.fns.modify f (fun x => { x with mbx := { x.mbx with state := .running, run := page op t pl } }) }
/-- The row's command passes every check in a state. -/
def passes (fn : Fn) (c : Instr) (s : State) : Bool :=
  ((mailRows fn []).find? (fun p => p.1 == c)).elim false (fun p => accepted s fn p.2.1 p.2.2.1 p.2.2.2)
/-- The command passes, and the next state holds its response, posted or due. -/
def answers (fn : Fn) (c : Instr) (s : State) : Bool :=
  passes fn c s && (((after c s).fn fn).mbx.state == .done || ((after c s).fn fn).mbx.due.isSome) && (after c s).taken.isEmpty

theorem witness_reports : answers 1 (.identify 1) (cmd 1 0x0101 0xFF [] up) = true ∧
    answers 0 (.deviceStatus 0) (cmd 0 0x0102 0xFF [] up) = true ∧ answers 0 (.portQuery 0) (cmd 0 0x0305 0xFF (zeros 4) up) = true ∧
    answers 1 (.tenantQuery 1) (cmd 1 0x0403 0 [] up) = true ∧ answers 1 (.waymarkQuery 1) (cmd 1 0x0502 0 [9, 0, 0, 0] up) = true ∧
    answers 0 (.sensors 0) (cmd 0 0x0902 0xFF [] up) = true ∧ answers 0 (.eventLog 0) (cmd 0 0x0A02 0xFF (zeros 8) up) = true ∧
    answers 1 (.contextDump 1) (cmd 1 0x0B03 0 [5, 0, 0, 0] (withRec rec0 upM)) = true ∧
    answers 0 (.stateAudit 0) (cmd 0 0x0B05 0xFF [] up) = true := by decide +kernel
theorem witness_model_reports : answers 1 (.modelQuery 1) (cmd 1 0x0203 0 [7, 0, 0, 0] upM) = true ∧
    answers 1 (.modelStats 1) (cmd 1 0x0204 0 [7, 0, 4, 0, 1, 0, 0, 0] { upM with stats := [(statKey 3 4, freshStat field0)] }) = true ∧
    answers 1 (.modelCalibrate 1) (cmd 1 0x0205 0 ([7, 0, 4, 0] ++ zeros 8) { upM with stats := [(statKey 3 4, freshStat field0)] }) = true ∧
    answers 1 (.refitQuery 1) (cmd 1 0x0701 0 [7, 0, 7, 0, 0, 0, 0, 0] upE) = true ∧
    answers 1 (.detourQuery 1) (cmd 1 0x0801 0 [7, 0, 1, 0] (upD search0 rec0)) = true := by decide +kernel
/-- A function other than PF0, a wrong length, a set reserved byte, an absent tenant, and a row's own rule refuse. -/
theorem witness_refused : commandReady (cmd 1 0x0102 0xFF [] up) 1 0x0102 anyOp = true ∧
    (commonCheck (cmd 1 0x0102 0xFF [] up) 1 ((cmd 1 0x0102 0xFF [] up).fn 1).mbx) = some (errNotPermitted, []) ∧
    (commonCheck (cmd 0 0x0102 0xFF [1] up) 0 ((cmd 0 0x0102 0xFF [1] up).fn 0).mbx) = some (errBadLength, [0, 0]) ∧
    (commonCheck (cmd 0 0x0103 0xFF [1, 2, 0, 0] up) 0 ((cmd 0 0x0103 0xFF [1, 2, 0, 0] up).fn 0).mbx) = some (errReserved, [33, 0]) ∧
    (commonCheck (cmd 0 0x0403 9 [] up) 0 ((cmd 0 0x0403 9 [] up).fn 0).mbx) = some (errNoTenant, []) ∧
    ((after (.memoryConfig 0) (cmd 0 0x0103 0xFF (zeros 4) up)).fn 0).mbx.state = .done ∧
    (after (.memoryConfig 0) (cmd 0 0x0103 0xFF (zeros 4) up)).mem.period = up.mem.period ∧
    ((after (.deviceStatus 0) (cmd 0 0x0103 0xFF (zeros 4) up)).fn 0).mbx.state = .running := by decide +kernel
/-- Tenant 1 takes the ranges that follow tenant 0's. -/
def quota1 : Quota := { quota0 with cairnBase := 16, wmkBase := 110 }
def mac0 : List Byte := [2, 0, 0, 0, 0, 9]
def closed0 : State := withPort (fun p => { p with mode := .closed, openBit := false, openView := false }) up
theorem witness_port_commands :
    answers 0 (.portMode 0) (cmd 0 0x0301 0xFF [1, 2, 1, 0, 0, 0, 0, 0] up) = true ∧
    answers 0 (.portAddress 0) (cmd 0 0x0302 0xFF ([0, 0] ++ mac0 ++ zeros 88 ++ [9, 0, 0, 0, 8, 0, 0, 0]) closed0) = true ∧
    answers 0 (.portStateOpen 0) (cmd 0 0x0303 0xFF [0, 1, 0, 0] closed0) = true ∧
    answers 0 (.portStateDraining 0) (cmd 0 0x0303 0xFF [0, 2, 0, 0] up) = true ∧
    answers 0 (.endpointAdd 0) (cmd 0 0x0304 0 ([1, 9, 0, 0, 5, 0, 0, 0, 10, 0, 0, 1] ++ zeros 12 ++ [7, 0] ++ zeros 6) up) = true ∧
    answers 0 (.endpointRemove 0) (cmd 0 0x0304 0 ([2, 1] ++ zeros 30) upU) = true := by decide +kernel
def inState (x : TenantState) : State := { up with tenants := up.tenants.modify 0 (fun t => { t with state := x }) }
theorem witness_tenant_commands :
    answers 0 (.tenantSet 0) (cmd 0 0x0401 1 (quotaBytes quota1) up) = true ∧
    answers 0 (.tenantEnable 0) (cmd 0 0x0402 0 [1, 0, 0, 0] (inState .disabled)) = true ∧
    answers 0 (.tenantDisable 0) (cmd 0 0x0402 0 [2, 0, 0, 0] (inState .preempted)) = true ∧
    answers 0 (.tenantPreempt 0) (cmd 0 0x0402 0 [3, 0, 0, 0] up) = true ∧
    answers 0 (.tenantResume 0) (cmd 0 0x0402 0 [4, 0, 0, 0] (inState .preempted)) = true ∧
    answers 0 (.tenantRelease 0) (cmd 0 0x0402 0 [5, 0, 0, 0] up) = true := by decide +kernel
theorem witness_waiting_commands :
    answers 0 (.signpostBankAssign 0) (cmd 0 0x0206 0 [3, 1, 0, 0, 0, 0, 0, 0] up) = true ∧
    answers 8 (.streamStart 8) (cmd 8 0x0602 0xFF [8, 0, 1, 0]
      { up with tenants := up.tenants.set 7 tenant0, dma := { up.dma with streams := up.dma.streams.modify 64 (fun x => { x with configured := true }) } }) = true ∧
    answers 1 (.streamStop 1) (cmd 1 0x0602 0xFF [1, 0, 2, 0] up) = true ∧
    answers 0 (.power 0) (cmd 0 0x0901 0xFF ([1, 0, 0, 0, 200, 0] ++ zeros 10) up) = true ∧
    answers 0 (.ridgeCanary 0) (cmd 0 0x0104 0xFF [1, 1, 0, 0] up) = true ∧
    answers 0 (.commonsWindowCreate 0) (cmd 0 0x0106 0 [1, 6, 2, 0, 0, 0, 0, 0] up) = true ∧
    answers 0 (.commonsWindowRemove 0) (cmd 0 0x0106 0 ([2, 1] ++ zeros 6) (upN [])) = true ∧
    answers 1 (.detourHold 1) (cmd 1 0x0801 0 [7, 0, 2, 0] (upD search0 rec0)) = true ∧
    answers 1 (.detourUnhold 1) (cmd 1 0x0801 0 [7, 0, 3, 0] (upD search0 rec0)) = true ∧
    answers 1 (.detourEndAll 1) (cmd 1 0x0801 0 [7, 0, 4, 0] (upD search0 rec0)) = true := by decide +kernel
/-! FABRIC_CONFIG's payload is long: zeros at the end of a page change no field of it. -/

theorem byteAt_zeros (a : List Byte) (n i : Nat) : byteAt (a ++ zeros n) i = byteAt a i := by
  unfold byteAt zeros
  rw [List.drop_append]
  cases h : a.drop i with
  | nil => simp only [List.nil_append, List.drop_replicate]; cases n - (i - a.length) <;> rfl
  | cons x l => rfl
theorem leNat_zeros (a : List Byte) (n : Nat) : leNat (a ++ zeros n) = leNat a := by
  induction a with
  | nil => induction n with
    | zero => rfl
    | succ n ih => simpa [zeros, List.replicate_succ, leNat] using ih
  | cons x l ih => simp [leNat, ih]
theorem leAt_zeros (a : List Byte) (n o k : Nat) : leAt (a ++ zeros n) o k = leAt a o k := by
  unfold leAt slice
  rw [List.drop_append, List.take_append]
  simp only [zeros, List.drop_replicate, List.take_replicate]
  exact leNat_zeros _ _
theorem commonCheck_zeros (s : State) (f n : Nat) (a : List Byte) (m : Mailbox) (h : pageOp a = 0x0105) :
    commonCheck s f { m with run := a ++ zeros n } = commonCheck s f { m with run := a } := by
  have e : pageOp (a ++ zeros n) = 0x0105 := by rw [← h]; exact leAt_zeros a n 0 2
  simp only [commonCheck, e, h, cmdSpec, permitted, pageTenant, pageLen, pageDeadline, firstReserved, byteAt_zeros, leAt_zeros]
  rfl
theorem fabricCheck_zeros (s : State) (a : List Byte) (n t : Nat) : fabricCheck s (a ++ zeros n) t = fabricCheck s a t := by
  simp only [fabricCheck, byteAt_zeros, leAt_zeros]

def fabricHead : List Byte := (page 0x0105 0xFF (zeros 2056)).take 32 ++ [5, 0, 1, 0, 1, 0]
def fabric0 : State := cmd 0 0x0105 0xFF ([5, 0, 1, 0, 1, 0] ++ zeros 2050) up
theorem fabric_page : (fabric0.fn 0).mbx.run = fabricHead ++ zeros 2050 := by decide +kernel
theorem fabric_payload : pagePayload (fabricHead ++ zeros 2050) = [5, 0, 1, 0, 1, 0] ++ zeros 2050 := by decide +kernel
theorem witness_fabric_config : accepted fabric0 0 0x0105 anyOp fabricCheck = true := by
  have hc : commonCheck fabric0 0 (fabric0.fn 0).mbx = none := by
    have e := commonCheck_zeros fabric0 0 2050 fabricHead (fabric0.fn 0).mbx (by decide +kernel)
    rw [← fabric_page] at e
    exact e.trans (by decide +kernel)
  have hr : commandReady fabric0 0 0x0105 anyOp = true := by decide +kernel
  have hf : fabricCheck fabric0 (pagePayload (fabric0.fn 0).mbx.run) (pageTenant (fabric0.fn 0).mbx.run) = none := by
    rw [fabric_page, fabric_payload, fabricCheck_zeros]; decide +kernel
  have hd : (fabric0.fn 0).mbx.discard = false := by decide +kernel
  simp [accepted, hr, hc, hf, hd]

/-- The refit model with a shadow table in a state. -/
def upE' (x : ShadowState) : State := { upE with refits := upE.refits.map (fun r => { r with shadowState := x }) }
theorem witness_refit_commands :
    answers 1 (.refitPause 1) (cmd 1 0x0701 0 [7, 0, 1, 0, 0, 0, 0, 0] upE) = true ∧
    answers 1 (.refitResume 1) (cmd 1 0x0701 0 [7, 0, 2, 0, 0, 0, 0, 0] upE) = true ∧
    answers 1 (.resetStats 1) (cmd 1 0x0701 0 [7, 0, 3, 0, 0, 0, 0, 0] (upE' .invalid)) = true ∧
    answers 1 (.propose 1) (cmd 1 0x0701 0 [7, 0, 4, 0, 0, 0, 0, 0] (upE' .invalid)) = true ∧
    answers 1 (.discard 1) (cmd 1 0x0701 0 [7, 0, 5, 0, 0, 0, 0, 0] upE) = true ∧
    answers 1 (.commit 1 []) (cmd 1 0x0701 0 [7, 0, 6, 0, 0, 0, 0, 0] (upE' .valid)) = true := by decide +kernel

/-! ## Commands that act at once -/

theorem witness_immediate : answers 0 (.memoryConfig 0) (cmd 0 0x0103 0xFF [24, 0, 0, 0] up) = true ∧
    (after (.memoryConfig 0) (cmd 0 0x0103 0xFF [24, 0, 0, 0] up)).mem.period = 24 ∧
    answers 0 (.signpostBankRelease 0) (cmd 0 0x0206 0 [1, 2, 0, 0, 0, 0, 0, 0] { up with banks := up.banks.set 1 bankR }) = true ∧
    answers 1 (.signpostBankConfigure 1) (cmd 1 0x0206 0 [1, 3, 0, 4, 1, 0, 0, 0]
      { up with banks := up.banks.set 1 { Bank.reset with owner := some 0 } }) = true ∧
    ((after (.signpostBankConfigure 1) (cmd 1 0x0206 0 [1, 3, 0, 4, 1, 0, 0, 0]
      { up with banks := up.banks.set 1 { Bank.reset with owner := some 0 } })).bank 1).width = 4 ∧
    answers 1 (.signpostSearch 1) (cmd 1 0x0B04 0 ([0, 0, 0, 0, 0, 0, 0, 0, 0x42] ++ zeros 23) upP) = true ∧
    answers 0 (.eventQueue 0) (cmd 0 0x0A01 0xFF ([0, 0x80, 0, 0, 0, 0, 0, 0, 8, 6, 1] ++ zeros 5) up) = true := by decide +kernel
/-- VALIDATE of entry 3 passes; VALIDATE of entry 9, which nothing has written, is refused. -/
def entryCmd (i : Nat) : List Byte := [0, 0, 1, 0] ++ zeros 12 ++ ([3, 0] ++ leBytes 2 i) ++ zeros 76
theorem witness_entries : answers 1 (.signpostEntries 1) (cmd 1 0x0207 0 (entryCmd 3) upP) = true ∧
    (((after (.signpostEntries 1) (cmd 1 0x0207 0 (entryCmd 3) upP)).bank 0).entries.map (fun e => (e.1, e.2.valid))) =
      [(1, true), (2, true), (3, true), (4, true)] ∧
    (runEntryOps 0 0 [entryOpAt (entryCmd 9) 16] upP).1.isSome = true := by decide +kernel
/-- A WRITE whose container byte 10 is set is refused at its turn. -/
def badContainer : List Byte := [0, 0, 1, 0] ++ zeros 12 ++ [2, 0] ++ zeros 24 ++ [1] ++ zeros 53
theorem witness_container : containersOk upP badContainer 16 = false ∧ containersOk upP (entryCmd 3) 16 = true ∧
    answers 1 (.signpostEntries 1) (cmd 1 0x0207 0 badContainer upP) = true ∧
    leAt ((after (.signpostEntries 1) (cmd 1 0x0207 0 badContainer upP)).fn 1).mbx.resp 8 2 = 0x18 := by decide +kernel
/-- STREAM_CONFIG of PF0's stream 2: 4 KiB of staging units. -/
def streamCmd (units : Nat) : List Byte := [0, 2, 1, 6, 0, 0, 0, 0] ++ leBytes 8 0x10000 ++ leBytes 1 units ++ [4, 10, 0] ++ zeros 4
theorem witness_stream_config : answers 0 (.streamConfig 0) (cmd 0 0x0601 0xFF (streamCmd 2) up) = true ∧
    stagingFits (cmd 0 0x0601 0xFF (streamCmd 2) up) (streamCmd 2) = true ∧
    stagingFits { up with dma := { up.dma with streams := up.dma.streams.set 1 { Stream.reset with staging := 0x3FF000 } } } (streamCmd 2) =
      false ∧
    ((after (.streamConfig 0) (cmd 0 0x0601 0xFF (streamCmd 2) up)).stream 2).staging = 8192 := by decide +kernel
/-- Eight bytes of a DATA plot. -/
def upData : State := { up with
  mem := { up.mem with plots := [(20, (.data, some 0)), (21, (.data, some 0))], cells := [(20 * plotSize + 1, 7)], poison := [(21 * plotSize) / 8] }
  dma := { up.dma with allocs := [⟨0, 4, [20, 21]⟩] } }
theorem witness_mem : answers 0 (.memRead 0 []) (cmd 0 0x0B01 0xFF (leBytes 8 (20 * plotSize) ++ [8, 0] ++ zeros 6) upData) = true ∧
    firstPoison upData.mem (20 * plotSize) 8 = none ∧ firstPoison upData.mem (21 * plotSize) 8 = some (21 * plotSize) ∧
    answers 0 (.memWrite 0 []) (cmd 0 0x0B02 0xFF (leBytes 8 (20 * plotSize) ++ [2, 0] ++ zeros 6 ++ [5, 6]) upData) = true ∧
    memBytes (after (.memWrite 0 []) (cmd 0 0x0B02 0xFF (leBytes 8 (20 * plotSize) ++ [2, 0] ++ zeros 6 ++ [5, 6]) upData)).mem
      (20 * plotSize) 3 = [5, 6, 0] := by decide +kernel
/-- Ridge SRAM: an uncorrectable word is refused with its address. Past the firmware plots the bytes are free values. -/
theorem witness_mem_kinds : diagnosticBad [.uncorrectable 1] sramBase 16 up = some (sramBase + 8) ∧
    answers 0 (.memRead 0 []) (cmd 0 0x0B01 0xFF (leBytes 8 sramBase ++ [8, 0] ++ zeros 6) up) = true ∧
    answers 0 (.memRead 0 []) (cmd 0 0x0B01 0xFF (leBytes 8 (914 * plotSize) ++ [8, 0] ++ zeros 6) up) = true ∧
    leAt ((after (.memRead 0 []) (cmd 0 0x0B01 0xFF (leBytes 8 (21 * plotSize) ++ [8, 0] ++ zeros 6) upData)).fn 0).mbx.resp 8 2 = 0x15 := by
  decide +kernel
theorem witness_alloc : answers 1 (.dataAllocAllocate 1) (cmd 1 0x0603 0 [1, 0, 9, 0, 2, 0, 0, 0] up) = true ∧
    (after (.dataAllocAllocate 1) (cmd 1 0x0603 0 [1, 0, 9, 0, 2, 0, 0, 0] up)).dma.allocs.map (fun a => (a.id, a.plots.length)) = [(9, 2)] ∧
    answers 1 (.dataAllocFree 1) (cmd 1 0x0603 0 [2, 0, 4, 0, 0, 0, 0, 0] upData) = true ∧
    (after (.dataAllocFree 1) (cmd 1 0x0603 0 [2, 0, 4, 0, 0, 0, 0, 0] upData)).plot 20 = (.free, none) := by decide +kernel
theorem witness_waymark_init : answers 1 (.waymarkInitReset 1) (cmd 1 0x0501 0 [0, 0, 2, 0, 1, 0, 0, 0] up) = true ∧
    answers 1 (.waymarkInitArmBarrier 1) (cmd 1 0x0501 0 [0, 0, 2, 0, 2, 3, 0, 0] up) = true ∧
    (after (.waymarkInitArmBarrier 1) (cmd 1 0x0501 0 [0, 0, 2, 0, 2, 3, 0, 0] up)).waymark 101 = { Waymark.reset with barrier := true, a := 3 } ∧
    answers 1 (.waymarkInitRemoteOn 1) (cmd 1 0x0501 0 [0, 0, 2, 0, 4, 0, 0, 0] up) = true ∧
    answers 1 (.waymarkInitRemoteOff 1) (cmd 1 0x0501 0 [0, 0, 2, 0, 5, 0, 0, 0] up) = true := by decide +kernel

/-! ## A model image and its load (chapter 10) -/

/-- One field of kind none, one flat table with one node and two leaves, identity link: 2,016 bytes. -/
def imageHead : List Byte := [0x43, 0x4B, 0x4D, 0x49, 1, 0, 5, 0] ++ leBytes 8 2016 ++ [0, 1, 1, 0, 0, 0, 0, 0] ++ leBytes 4 0x3F800000 ++ leBytes 4 1
def dirEntry (ty off len cnt : Nat) : List Byte := leBytes 2 ty ++ zeros 2 ++ leBytes 4 off ++ leBytes 4 len ++ leBytes 4 cnt
def table0 : List Byte := fitBytes ([1, 1, 1, 1, 0, 0, 0, 0, 2, 0, 1, 0] ++ zeros 20 ++ [3] ++ zeros 15 ++ [10, 0] ++ zeros 14 ++ [100, 0, 0xCE, 0xFF]) 1024
def imageBody : List Byte :=
  fitBytes imageHead 640 ++ dirEntry 1 720 16 1 ++ dirEntry 6 736 1024 0 ++ dirEntry 7 1760 16 1 ++ dirEntry 8 1776 24 0 ++
    dirEntry 9 1808 160 1 ++ zeros 16 ++ table0 ++ fitBytes (zeros 7 ++ [1]) 16 ++
    (zeros 4 ++ leBytes 4 0x3F800000 ++ zeros 8 ++ leBytes 4 0x3F800000 ++ zeros 12) ++ fitBytes ([1, 0, 1, 0, 0, 0, 0, 0] ++ leBytes 8 1024 ++ [1]) 160
/-- SHA-384 of those bytes, computed with another implementation. -/
def digest0 : List Byte := [211, 178, 17, 203, 181, 92, 73, 225, 92, 51, 113, 165, 124, 178, 87, 61, 18, 234, 78, 102, 94, 81, 56, 5,
  54, 228, 133, 30, 56, 205, 188, 120, 206, 234, 83, 164, 192, 211, 231, 99, 38, 88, 105, 26, 175, 218, 141, 216]
def imageBytes : List Byte := imageBody ++ digest0
def loadCmd (digest : List Byte) : List Byte :=
  [9, 0, 0, 2, 0, 0, 0, 0, 0, 0, 0, 0, 0, 0, 0, 0] ++ leBytes 8 0x10000 ++ leBytes 8 2016 ++ digest ++ (List.range 64).flatMap (leBytes 1) ++ zeros 16
def upLoad (digest : List Byte) : State := { up with
  load := some ⟨0, page 0x0201 0 (loadCmd digest), [20], [], []⟩, mem := { up.mem with plots := [(20, (.model, some 0))] } }
theorem witness_load : answers 0 (.modelLoad 0) (cmd 0 0x0201 0 (loadCmd (zeros 48)) up) = true ∧
    (after (.modelLoad 0) (cmd 0 0x0201 0 (loadCmd (zeros 48)) up)).load.isSome = true ∧
    ((after (.imageFetchDone (some 64) [] []) (upLoad (zeros 48))).fn 0).mbx.state = .done ∧
    (after (.imageFetchDone (some 64) [] []) (upLoad (zeros 48))).plot 20 = (.free, none) := by decide +kernel
theorem witness_load_done : (after (.imageFetchDone none imageBytes []) (upLoad digest0)).models.map (fun m => (m.handle, m.state)) =
    [(9, .loading)] := by decide +kernel

/-- MODEL_QUERY of a handle whose image is being fetched, and a fetch that is not complete. -/
theorem witness_loading : queryTarget (upLoad digest0) 0 9 = none ∧
    answers 0 (.modelQuery 0) (cmd 0 0x0203 0 [9, 0, 0, 0] (upLoad digest0)) = true ∧ imageFetched (upLoad digest0) = true ∧
    imageFetched { upLoad digest0 with dma := { up.dma with fetches := [⟨.image, 0, 9⟩] } } = false := by decide +kernel
/-- SECDED finds an uncorrectable word in the table that firmware copies: its block is fetched again. -/
def worn0 : State := after (.imageFetchDone none imageBytes [.uncorrectable ((20 * plotSize + 736) / 8)]) (upLoad digest0)
theorem witness_poisoned_block : worn0.load.map (·.blocks) = some [0] ∧ worn0.dma.fetches.length = 1 := by decide +kernel

/-- Blocks fetched again: one past the image's end agrees and the load completes; a byte of another differs from the host's,
and the load is refused. -/
def repairing (block : Nat) : State :=
  { upLoad digest0 with load := some ⟨0, page 0x0201 0 (loadCmd digest0), [20], imageBytes, [block]⟩ }
theorem witness_repair : (after (.imageFetchDone none [] []) (repairing 4096)).models.map (·.handle) = [9] := by decide +kernel
theorem witness_no_repair : (after (.imageFetchDone none [9] []) (repairing 2015)).load.isNone = true ∧
    (after (.imageFetchDone none [9] []) (repairing 2015)).models.length = 0 := by decide +kernel

/-! ## Unload, replacement and what lands at a Milestone -/

def upModel (st : ModelState) (acc repl : Bool) : State := { up with models := [{ model0 with state := st, accepting := acc, replaced := repl }] }
theorem witness_unload : answers 0 (.modelUnload 0) (cmd 0 0x0202 0 [7, 0, 0, 0] upM) = true ∧
    (after (.modelUnload 0) (cmd 0 0x0202 0 [7, 0, 0, 0] upM)).models.map (·.state) = [.stopping] ∧
    stoppedModel (upModel .stopping false false) 0 7 .stopping = some { model0 with state := .stopping, accepting := false } ∧
    drained (upModel .stopping false false) 3 = true ∧ drained (withRec rec0 (upModel .stopping false false)) 3 = false ∧
    (after (.modelDrainDone 0 7) (upModel .stopping false false)).models.map (·.state) = [.zeroising] ∧
    (after (.modelZeroiseDone 0 7) (upModel .zeroising false false)).models = [] ∧
    (after (.modelZeroiseDone 0 7) (upModel .zeroising false false)).plot 20 = (.free, none) ∧
    (after (.oldImageRetire 0 7) (upModel .loaded false true)).models = [] ∧
    (after (.oldImageRetire 0 7) (withRec rec0 (upModel .loaded false true))).models.length = 1 := by decide +kernel
/-- The model with trees, its shadow table valid, its first word poisoned. -/
def upCommit : State := { up with
  models := [modelF], refits := [{ refit0 with shadowState := .valid }]
  mem := { up.mem with poison := [plotAddr [30] (shadowOff modelF 0 0) / 8] } }
theorem witness_commit_poison :
    (shadowPoison upCommit modelF refit0).isSome = true ∧ (shadowPoison up modelF refit0) = none ∧
    passes 1 (.commit 1 []) (cmd 1 0x0701 0 [7, 0, 6, 0, 0, 0, 0, 0] upCommit) = true ∧
    leAt (((after (.commit 1 []) (cmd 1 0x0701 0 [7, 0, 6, 0, 0, 0, 0, 0] upCommit)).fn 1).mbx.resp) 8 2 = 0x15 := by decide +kernel
def dueAt (d : Due) (s : State) : State := { s with due := [(4, d)], time := { s.time with epoch := 5 } }
theorem witness_due_lands : ((after (.milestone []) (dueAt (.tenantState 0 2) up)).tenant 0).state = .disabled ∧
    ((after (.milestone []) (dueAt (.portDrain 0) up)).port 0).mode = .draining := by decide +kernel
theorem witness_due_kinds : (kvGet (after (.milestone []) (dueAt (.endpointRemove 0) up)).endpoints 0) = none ∧
    ((after (.milestone []) (dueAt (.streamStart 9) up)).stream 9).mode = .running := by decide +kernel

end Sys2Proof.Tests
end

section
/-! SUPPORT. What a read and a write of a BAR0 register do: bytes, halves, the snapshot, the held half (R9, R431). -/

namespace Sys2Proof.Machine

/-! ## Bytes of a number -/

theorem leBytes_eq_map_range (n v : Nat) : leBytes n v = (List.range n).map (fun i => BitVec.ofNat 8 (v / 256 ^ i)) := by
  induction n generalizing v with
  | zero => rfl
  | succ n ih =>
    simp only [leBytes, ih, List.range_succ_eq_map, List.map_cons, List.map_map, Function.comp_def, Nat.pow_succ',
      Nat.div_div_eq_div_mul, Nat.pow_zero, Nat.div_one]

theorem leBytes_add (m n v : Nat) : leBytes (m + n) v = leBytes m v ++ leBytes n (v / 256 ^ m) := by
  simp only [leBytes_eq_map_range, List.range_add, List.map_append, List.map_map, Function.comp_def, Nat.pow_add,
    Nat.div_div_eq_div_mul]

theorem leBytes_mod (n v : Nat) : leBytes n (v % 256 ^ n) = leBytes n v := by
  induction n generalizing v with
  | zero => rfl
  | succ n ih =>
    have hbyte : BitVec.ofNat 8 (v % 256 ^ (n + 1)) = BitVec.ofNat 8 v :=
      BitVec.eq_of_toNat_eq (Nat.mod_mod_of_dvd v (Dvd.intro_left (256 ^ n) rfl))
    have hrest : v % 256 ^ (n + 1) / 256 = v / 256 % 256 ^ n := by rw [Nat.pow_succ', Nat.mod_mul_right_div_self]
    rw [leBytes, leBytes, hbyte, hrest, ih]

theorem half_low {o : Nat} (v : Nat) (ho : o % 8 = 0) : half v o = v % 2 ^ 32 := if_pos ho

theorem half_high {o : Nat} (v : Nat) (ho : o % 8 = 0) : half v (o + 4) = v / 2 ^ 32 % 2 ^ 32 := if_neg (by omega)

theorem leBytes_halves {o : Nat} (v : Nat) (ho : o % 8 = 0) :
    leBytes 4 (half v o) ++ leBytes 4 (half v (o + 4)) = leBytes 8 v := by
  rw [half_low v ho, half_high v ho, show 2 ^ 32 = 256 ^ 4 from rfl, leBytes_mod, leBytes_mod]
  exact (leBytes_add 4 4 v).symm

/-! ## Words of BAR0 -/

theorem barPeek_add (s : State) (f o m n : Nat) : barPeek s f o (m + n) = barPeek s f o m ++ barPeek s f (o + m) n := by
  simp only [barPeek, List.range_add, List.map_append, List.map_map, Function.comp_def, Nat.add_assoc]

/-- The four bytes at an aligned offset are those of its word. -/
theorem barPeek_word (s : State) {f o : Nat} (ho : o % 4 = 0) : barPeek s f o 4 = leBytes 4 (word32 s f o) := by
  rw [barPeek, leBytes_eq_map_range]
  refine List.map_congr_left fun i hi => ?_
  have hi : i < 4 := List.mem_range.mp hi
  have hword : (o + i) / 4 * 4 = o := by omega
  have hbyte : (o + i) % 4 = i := by omega
  rw [hword, hbyte]

/-- The eight bytes at an aligned offset are those of its two words. -/
theorem barPeek_words (s : State) {f o : Nat} (ho : o % 8 = 0) :
    barPeek s f o 8 = leBytes 4 (word32 s f o) ++ leBytes 4 (word32 s f (o + 4)) := by
  rw [barPeek_add s f o 4 4, barPeek_word s (by omega), barPeek_word s (by omega)]

/-- Physical function 0 finds its counters at 0x20000 and above, whatever the tenants' states. -/
theorem word32_counter (s : State) {o : Nat} (hlo : 0x20000 ≤ o) (hhi : o < 0x30000) :
    word32 s 0 o = counterWord s 0 (o - 0x20000) := by
  have hwin : s.windowOpen 0 = true := rfl
  have hmsix : inMsix 0 o = false := by simp [inMsix, msixBase, msixCount, show ¬ o < 0x5400 by omega]
  unfold word32
  simp [hwin, hmsix, hlo, hhi, show ¬ o < 0x1000 by omega, show ¬ o < 0x2000 by omega, show ¬ o < 0x3000 by omega,
    show ¬ 0x30000 ≤ o by omega, show ¬ o < 0x3200 by omega, show ¬ o < 0x4100 by omega, show ¬ o < 0x20000 by omega,
    show o ≠ 0x5800 by omega, show o ≠ 0x5804 by omega, show o ≠ 0x4100 by omega, show o ≠ 0x4104 by omega]

theorem isReg64_counter (f : Nat) {o : Nat} (hlo : 0x20000 ≤ o) (hhi : o < 0x30000) (ho : o % 8 = 0) : isReg64 f o = true := by
  have hslot : o / 8 * 8 = o := by omega
  simp [isReg64, hslot, hlo, hhi]

/-! ## PRT_LAT_MAX_CYC, the field that a read clears (R436) -/

@[simp] theorem latMaxKey_modFn (i : Nat) (g : FnSt → FnSt) (s : State) (f o : Nat) :
    latMaxKey (modFn i g s) f o = latMaxKey s f o := rfl

theorem clearRc_of_none {f o : Nat} {s : State} (h : latMaxKey s f o = none) : clearRc f o s = s := by rw [clearRc, h]; rfl

theorem clearRc_of_some {f o k : Nat} {s : State} (h : latMaxKey s f o = some k) : clearRc f o s = setCounter k 0 s := by
  rw [clearRc, h]; rfl

theorem latMaxKey_prtLatMax {s : State} {l : Nat} (hl : l < 8) (hp : portExists s l = true) :
    latMaxKey s 0 (0x20000 + cPrt l pLatMax) = some (cPrt l pLatMax) := by
  have hkey : (0x20000 + cPrt l pLatMax) / 8 * 8 - 0x20000 = cPrt l pLatMax := by simp only [cPrt, pLatMax]; omega
  have hport : (cPrt l pLatMax - 0x1000) / 0x100 = l := by simp only [cPrt, pLatMax]; omega
  have hfield : cPrt l pLatMax % 0x100 = pLatMax := by simp only [cPrt, pLatMax]; omega
  have hlo : 0x21000 ≤ 0x20000 + cPrt l pLatMax := by simp only [cPrt]; omega
  have hhi : 0x20000 + cPrt l pLatMax < 0x21800 := by simp only [cPrt, pLatMax]; omega
  simp only [latMaxKey, hkey, hport, hfield, hp, hlo, hhi, and_self, if_true]

/-- Either half of a port's counter in physical function 0's window reads the counter, while the port exists. -/
theorem counterKey_port {s : State} {l o : Nat} (j : Nat) (hj : j < 8) (ho : o < 0x100) (ho8 : o % 8 = 0) (hl : l < 8)
    (hp : portExists s l = true) : counterKey s 0 (cPrt l o + j) = some (cPrt l o) := by
  have hslot : (cPrt l o + j) / 8 * 8 = cPrt l o := by simp only [cPrt]; omega
  have hport : (cPrt l o - 0x1000) / 0x100 = l := by simp only [cPrt]; omega
  have hrange : 0x1000 ≤ cPrt l o ∧ cPrt l o < 0x1800 := by simp only [cPrt]; omega
  simp only [counterKey, hslot, hport, hp, hrange, and_self, if_true]

theorem counter_setCounter (s : State) (k n j : Nat) :
    (setCounter k n s).counter j = if j = k then n % 2 ^ 64 else s.counter j := kvGet_kvPut 0 s.ctr k j (n % 2 ^ 64)

/-- The two words of a port's counter hold its 64 bits. -/
theorem barPeek_portCounter {s : State} {l o : Nat} (ho : o < 0x100) (ho8 : o % 8 = 0) (hl : l < 8)
    (hp : portExists s l = true) : barPeek s 0 (0x20000 + cPrt l o) 8 = leBytes 8 (s.counter (cPrt l o)) := by
  have hk8 : cPrt l o % 8 = 0 := by simp only [cPrt]; omega
  have hk : cPrt l o < 0x2000 := by simp only [cPrt]; omega
  have hword (j : Nat) (hj : j < 8) : word32 s 0 (0x20000 + cPrt l o + j) = half (s.counter (cPrt l o)) (cPrt l o + j) := by
    rw [word32_counter s (by omega) (by omega), show 0x20000 + cPrt l o + j - 0x20000 = cPrt l o + j by omega, counterWord,
      counterKey_port j hj ho ho8 hl hp]
    rfl
  have hlow : word32 s 0 (0x20000 + cPrt l o) = half (s.counter (cPrt l o)) (cPrt l o) := hword 0 (by omega)
  rw [barPeek_words s (by omega), hlow, hword 4 (by omega), leBytes_halves _ hk8]

/-! ## Reads -/

/-- A read finds every queued Waymark update applied (R285, R289); with none queued it changes nothing on that account. -/
theorem wmkFlush_of_queue_nil {s : State} (h : s.wmkUnit.queue = []) : wmkFlush s = s := by
  have hunit : { s.wmkUnit with queue := [] } = s.wmkUnit := by rw [← h]
  simp only [wmkFlush, wmkDrain, h, List.take_nil, List.drop_nil, List.foldl_nil, hunit]

theorem readBar_word {s : State} {f o : Nat} (ho : o % 4 = 0) : readBar f o 4 s = read32 f o s := if_pos ⟨rfl, ho⟩

theorem readBar_reg64 {s : State} {f o : Nat} (hr : isReg64 f o = true) (ho : o % 8 = 0) :
    readBar f o 8 s = (barPeek s f o 8, clearRc f o s) := by
  simp [readBar, hr, ho]

theorem read32_low {s : State} {f o : Nat} (hr : isReg64 f o = true) (ho : o % 8 = 0) :
    read32 f o s =
      (leBytes 4 (word32 s f o), clearRc f o (modFn f (fun x => { x with snap := some (o, word32 s f (o + 4)) }) s)) := by
  simp [read32, hr, ho, barPeek_word s (show o % 4 = 0 by omega)]

theorem read32_high_captured {s : State} {f o h : Nat} (hr : isReg64 f (o + 4) = true) (ho : o % 8 = 0)
    (hs : (s.fn f).snap = some (o, h)) :
    read32 f (o + 4) s = (leBytes 4 h, modFn f (fun x => { x with snap := none }) s) := by
  simp [read32, hr, hs, show (o + 4) % 8 ≠ 0 by omega]

theorem read32_high_live {s : State} {f o : Nat} (hr : isReg64 f (o + 4) = true) (ho : o % 8 = 0)
    (hs : (s.fn f).snap = none) : read32 f (o + 4) s = (leBytes 4 (word32 s f (o + 4)), s) := by
  simp [read32, hr, hs, show (o + 4) % 8 ≠ 0 by omega, barPeek_word s (show (o + 4) % 4 = 0 by omega)]

/-- REG64_LOW_READ is an aligned read of the state after the queued Waymark updates. -/
theorem exec_reg64LowRead {s : State} (fn : Fn) {o : Nat} (ho : o % 4 = 0) :
    exec (.reg64LowRead fn o) s =
      .next (emit (.barRead fn o (read32 fn o (wmkFlush s)).1) (read32 fn o (wmkFlush s)).2) :=
  show Host.Outcome.next (readOut fn o 4 s) = _ by rw [readOut, readBar_word ho]

/-- COUNTER_RC_READ of a whole 64-bit register takes both halves at once and clears the RC field (R9, R436). -/
theorem exec_counterRcRead_reg64 {s : State} {fn : Fn} {o : Nat} (hr : isReg64 fn o = true) (ho : o % 8 = 0) :
    exec (.counterRcRead fn o 8) s =
      .next (emit (.barRead fn o (barPeek (wmkFlush s) fn o 8)) (clearRc fn o (wmkFlush s))) :=
  show Host.Outcome.next (readOut fn o 8 s) = _ by rw [readOut, readBar_reg64 hr ho]

/-- The 64-bit read of a port's PRT_LAT_MAX_CYC returns its value and clears it, and no other counter (R436). -/
theorem exec_counterRcRead_latMax {s : State} {fn : Fn} {l : Nat} (hl : l < 8) (hp : portExists (wmkFlush s) l = true)
    (hfn : fn.val = 0) :
    exec (.counterRcRead fn (0x20000 + cPrt l pLatMax) 8) s =
      .next (emit (.barRead fn (0x20000 + cPrt l pLatMax) (leBytes 8 ((wmkFlush s).counter (cPrt l pLatMax))))
        (setCounter (cPrt l pLatMax) 0 (wmkFlush s))) := by
  have hk : cPrt l pLatMax < 0x2000 := by simp only [cPrt, pLatMax]; omega
  have hk8 : cPrt l pLatMax % 8 = 0 := by simp only [cPrt, pLatMax]; omega
  have hreg : isReg64 fn (0x20000 + cPrt l pLatMax) = true := isReg64_counter _ (by omega) (by omega) (by omega)
  rw [exec_counterRcRead_reg64 hreg (by omega), hfn, barPeek_portCounter (by decide) (by decide) hl hp,
    clearRc_of_some (latMaxKey_prtLatMax hl hp)]

/-! ## Writes -/

/-- A 64-bit write at 0x4100 is a write of WMK_REMOTE (R288). -/
theorem exec_registerWrite_wmkRemote (s : State) (fn : Fn) {data : List Byte} (hd : data.length = 8) :
    exec (.registerWrite fn 0x4100 data) s = exec (.wmkRemoteWrite fn (leNat data)) s :=
  show Host.Outcome.next (writeBar fn 0x4100 data s) = .next (remoteSignal fn (leNat data) s) by simp [writeBar, hd]

/-- The low half of WMK_REMOTE is held while the function's window is open. -/
theorem exec_reg64LowWrite_wmkRemote {s : State} {fn : Fn} {v : Nat} (hv : v < 2 ^ 32) (hw : s.windowOpen fn = true) :
    exec (.reg64LowWrite fn 0x4100 v) s = .next (modFn fn (fun x => { x with hold := some (0x4100, v) }) s) :=
  show Host.Outcome.next (holdLow fn v s) = _ by rw [holdLow, if_pos hw, Nat.mod_eq_of_lt hv]

/-- Every other 64-bit register is read-only: its low half ignores a write. -/
theorem exec_reg64LowWrite_ignored (s : State) (fn : Fn) {o : Nat} (v : Nat) (ho : o ≠ 0x4100) :
    exec (.reg64LowWrite fn o v) s = .next s := congrArg Host.Outcome.next (if_neg ho)

theorem exec_reg64HighWrite_ignored (s : State) (fn : Fn) {o : Nat} (v : Nat) (ho : o ≠ 0x4104) :
    exec (.reg64HighWrite fn o v) s = .next s := congrArg Host.Outcome.next (if_neg ho)

/-- The write at +4 of WMK_REMOTE is the 64-bit write of both halves, the low one held or live, with nothing held after. -/
theorem exec_reg64HighWrite_wmkRemote (s : State) (fn : Fn) {v : Nat} (hv : v < 2 ^ 32) :
    exec (.reg64HighWrite fn 0x4104 v) s =
      exec (.wmkRemoteWrite fn (v * 2 ^ 32 + ((s.fn fn).hold.map (·.2)).getD ((s.fn fn).wmkRemote % 2 ^ 32)))
        (modFn fn (fun x => { x with hold := none }) s) :=
  show Host.Outcome.next (commitHigh fn v s) = .next (remoteSignal fn _ _) by rw [commitHigh, Nat.mod_eq_of_lt hv]

/-- Settles O51: each access is an aligned read or write of the state after the queued Waymark updates; the clauses are the
cases of that read (low half, captured and live high half, whole register, RC field) and of that write. -/
theorem halvesOfARegisterAgree : Obligations.HalvesOfARegisterAgree := by
  unfold Obligations.HalvesOfARegisterAgree
  rintro s u fn rfl -
  refine ⟨?low, ?captured, ?live, ?whole, wmkFlush_of_queue_nil, fun _ => exec_registerWrite_wmkRemote s fn, ?latMax,
    fun _ => exec_reg64LowWrite_wmkRemote, fun _ => exec_reg64LowWrite_ignored s fn,
    fun _ => exec_reg64HighWrite_ignored s fn, ?commit⟩
  case low =>
    intro o hr ho hk
    refine ⟨_, exec_reg64LowRead fn (by omega), ?_⟩
    rw [read32_low hr ho, clearRc_of_none (by simpa using hk)]
    rfl
  case captured =>
    intro o h hr ho hs
    rw [exec_reg64LowRead fn (by omega), read32_high_captured hr ho hs]
    rfl
  case live =>
    intro o hr ho hs
    rw [exec_reg64LowRead fn (by omega), read32_high_live hr ho hs]
    rfl
  case whole =>
    intro o hr ho hk
    rw [exec_counterRcRead_reg64 hr ho, clearRc_of_none hk, barPeek_words _ ho]
    rfl
  case latMax =>
    rintro k l hl hp hfn rfl
    refine ⟨_, exec_counterRcRead_latMax hl hp hfn, ?cleared, ?others, rfl⟩
    case cleared => exact (counter_setCounter _ _ 0 _).trans (if_pos rfl)
    case others => exact fun j hj => (counter_setCounter _ _ 0 j).trans (if_neg hj)
  case commit =>
    rintro v hv low - rfl
    exact exec_reg64HighWrite_wmkRemote s fn hv

end Sys2Proof.Machine
end

section
/-! SUPPORT. Queries and commands that wait (R20, R377, R378): what an accepted command leaves, by its posting class. -/

namespace Sys2Proof.Machine

/-! ## Accepted commands, by posting class -/

variable {s : State} {o : Host.Outcome State Fault Refusal} {f op status : Nat} {mine : List Byte → Bool}
  {check : State → List Byte → Nat → Option Refused} {payload : List Byte} {d : Due}

theorem accepted_discard (h : accepted s f op mine check = true) : (s.fn f).mbx.discard = false := by
  simp only [accepted, Bool.and_eq_true, Bool.not_eq_true'] at h
  exact h.2

/-- An accepted command whose action is to respond is answered at once. -/
theorem answers_of_next (h : accepted s f op mine check = true) (ho : o = .next (respond f status payload s)) :
    ∃ t, o = .next t ∧ answeredAs f status payload s t :=
  ⟨_, ho, respond_answeredAs f status payload s (accepted_discard h)⟩

/-- A command whose action is to ask for an effect at the Milestone, on a state of the same epoch, awaits it. -/
theorem awaits_of_next {u : State} (hu : u.time.epoch = s.time.epoch)
    (ho : o = .next (respondMilestone f [] (later d u))) :
    ∃ t, o = .next t ∧ awaiting f (.milestone s.time.epoch) [] (u.plus d) t :=
  ⟨_, ho, hu ▸ respondMilestone_awaiting f [] (later d u)⟩

/-- A command whose action is to ask for an effect with an end of its own waits for that end. -/
theorem waits_of_next (ho : o = .next (respondWait f [] (later d s))) :
    ∃ t, o = .next t ∧ awaiting f .wait [] (s.plus d) t :=
  ⟨_, ho, respondWait_awaiting f [] (later d s)⟩

/-! ## Queries (R17, R382 to R391) -/

/-- Settles O55: an accepted query responds with its report, on the payload and header tenant of its page. -/
theorem queriesAnswerAndChangeNothing : Obligations.QueriesAnswerAndChangeNothing := by
  unfold Obligations.QueriesAnswerAndChangeNothing
  rintro s fn _ _ rfl rfl
  refine ⟨rfl, ?reports, ?loaded, ?loading, ?stats, ?refit, ?detour⟩
  case reports =>
    simp only [List.forall_mem_cons, List.not_mem_nil, false_imp_iff, implies_true, and_true]
    exact ⟨
      fun h => answers_of_next h (show execIdentify fn s = _ from runCommand_accepted h),
      fun h => answers_of_next h (show execDeviceStatus fn s = _ from runCommand_accepted h),
      fun h => answers_of_next h (show execPortQuery fn s = _ from runCommand_accepted h),
      fun h => answers_of_next h (show execTenantQuery fn s = _ from runCommand_accepted h),
      fun h => answers_of_next h (show execWaymarkQuery fn s = _ from runCommand_accepted h),
      fun h => answers_of_next h (show execSensors fn s = _ from runCommand_accepted h),
      fun h => answers_of_next h (show execEventLog fn s = _ from runCommand_accepted h),
      fun h => answers_of_next h (show execContextDump fn s = _ from runCommand_accepted h),
      fun h => answers_of_next h (show execStateAudit fn s = _ from runCommand_accepted h)⟩
  case loaded =>
    intro m h hm
    refine answers_of_next h ((show execModelQuery fn s = _ from runCommand_accepted h).trans ?_)
    simp only [hm]
  case loading =>
    intro j h hm hj
    refine answers_of_next h ((show execModelQuery fn s = _ from runCommand_accepted h).trans ?_)
    simp only [hm, hj]
  case stats =>
    intro m h hm
    refine answers_of_next h ((show execModelStats fn s = _ from runCommand_accepted h).trans ?_)
    simp only [hm]
  case refit =>
    intro m x h hm
    refine answers_of_next h ((show execRefitQuery fn s = _ from runCommand_accepted h).trans ?_)
    simp only [hm]
  case detour =>
    intro m h hm
    refine answers_of_next h ((show execDetourQuery fn s = _ from runCommand_accepted h).trans ?_)
    simp only [hm]

/-! ## Commands that await their effect (R20, R377, R378) -/

/-- ENABLE, DISABLE, PREEMPT and RESUME ask for the tenant's state at the Milestone. -/
theorem stateCommand_accepted {fn : Fn} {froms : List TenantState}
    (h : accepted s fn 0x0402 (opIs 0 op) (stateCheck froms) = true) :
    stateCommand fn op froms false s = .next (respondMilestone fn [] (later (.tenantState (s.headTenant fn) op) s)) :=
  runCommand_accepted h

/-- RELEASE asks for the tenant's release and waits for its end. -/
theorem releaseCommand_accepted {fn : Fn} {froms : List TenantState}
    (h : accepted s fn 0x0402 (opIs 0 op) (stateCheck froms) = true) :
    stateCommand fn op froms true s = .next (respondWait fn [] (later (.tenantState (s.headTenant fn) op) s)) :=
  runCommand_accepted h

theorem refitCommand_accepted {fn : Fn} {own : State → Model → RefitSt → Option Refused} {m : Model} {x : RefitSt}
    (hm : refitNamed s (s.headTenant fn) (leAt (s.payload fn) 0 2) = some (m, x))
    (h : accepted s fn 0x0701 (opIs 2 op) (refitCheck own) = true) :
    refitCommand fn op own s = .next (respondMilestone fn [] (later (.refit m.id op) s)) := by
  rw [refitCommand, runCommand_accepted h]
  simp only [hm]

theorem detourCommand_accepted {fn : Fn} {m : Model}
    (hm : commandModel s (s.headTenant fn) (leAt (s.payload fn) 0 2) = some m)
    (h : accepted s fn 0x0801 (opIs 2 op) detourCheck = true) :
    detourCommand fn op s = .next (respondMilestone fn [] (later (.detour m.id op) s)) := by
  rw [detourCommand, runCommand_accepted h]
  simp only [hm]

@[simp] theorem enableLinks_epoch (mask : Nat) (s : State) : (enableLinks mask s).time.epoch = s.time.epoch := by
  refine foldl_keeps (fun t => t.time.epoch = s.time.epoch) _ (fun t i ht => ?_) _ s rfl
  split <;> exact ht

theorem foldl_takePlot_epoch (ps : List Nat) (k : PlotKind × Option Nat) (s : State) :
    (ps.foldl (fun s p => takePlot p k s) s).time.epoch = s.time.epoch :=
  foldl_keeps (fun t => t.time.epoch = s.time.epoch) (fun s p => takePlot p k s) (fun _ _ ht => ht) ps s rfl

/-- A new window's plots, data and then directory, are taken and zeroed at once; the window itself is asked for. -/
theorem commonsWindowCreate_accepted {fn : Fn} (h : accepted s fn 0x0106 (opIs 0 1) windowCreateCheck = true) {n : Nat}
    {ps : List Nat} (hn : n = leAt (s.payload fn) 2 2) (hps : ps = (freePlots s).take (n + ceilDiv n 4)) :
    execCommonsWindowCreate fn s = .next (respondMilestone fn []
      (later (.windowCreate (s.headTenant fn) (byteAt (s.payload fn) 1) (ps.take n) (ps.drop n))
        (ps.foldl (fun t p => takePlot p (.data, some (s.headTenant fn)) t) s))) := by
  subst hn hps
  exact runCommand_accepted h

/-- Settles O56: an accepted command of class M or W asks for its effect and waits; FABRIC_CONFIG and a new window also do
their own part at once, which changes no epoch. -/
theorem milestoneCommandsAwaitTheirEffect : Obligations.MilestoneCommandsAwaitTheirEffect := by
  unfold Obligations.MilestoneCommandsAwaitTheirEffect
  rintro s fn _ _ rfl rfl
  refine ⟨?milestone, ?refit, ?detour, ?fabric, ?window, ?canary, ?wait⟩
  case milestone =>
    simp only [List.forall_mem_cons, List.not_mem_nil, false_imp_iff, implies_true, and_true]
    exact ⟨
      fun h => awaits_of_next rfl (show execPortMode fn s = _ from runCommand_accepted h),
      fun h => awaits_of_next rfl (show execPortAddress fn s = _ from runCommand_accepted h),
      fun h => awaits_of_next rfl (show execPortStateOpen fn s = _ from runCommand_accepted h),
      fun h => awaits_of_next rfl (show execPortStateDraining fn s = _ from runCommand_accepted h),
      fun h => awaits_of_next rfl (show execEndpointAdd fn s = _ from runCommand_accepted h),
      fun h => awaits_of_next rfl (show execEndpointRemove fn s = _ from runCommand_accepted h),
      fun h => awaits_of_next rfl (show execTenantSet fn s = _ from runCommand_accepted h),
      fun h => awaits_of_next rfl (show execTenantEnable fn s = _ from stateCommand_accepted h),
      fun h => awaits_of_next rfl (show execTenantDisable fn s = _ from stateCommand_accepted h),
      fun h => awaits_of_next rfl (show execTenantPreempt fn s = _ from stateCommand_accepted h),
      fun h => awaits_of_next rfl (show execTenantResume fn s = _ from stateCommand_accepted h),
      fun h => awaits_of_next rfl (show execSignpostBankAssign fn s = _ from runCommand_accepted h),
      fun h => awaits_of_next rfl (show execStreamStart fn s = _ from runCommand_accepted h),
      fun h => awaits_of_next rfl (show execPower fn s = _ from runCommand_accepted h)⟩
  case refit =>
    intro m x hm
    simp only [List.forall_mem_cons, List.not_mem_nil, false_imp_iff, implies_true, and_true]
    exact ⟨
      fun h => awaits_of_next rfl (show execRefitPause fn s = _ from refitCommand_accepted hm h),
      fun h => awaits_of_next rfl (show execRefitResume fn s = _ from refitCommand_accepted hm h),
      fun h => awaits_of_next rfl (show execResetStats fn s = _ from refitCommand_accepted hm h),
      fun h => awaits_of_next rfl (show execPropose fn s = _ from refitCommand_accepted hm h),
      fun h => awaits_of_next rfl (show execDiscard fn s = _ from refitCommand_accepted hm h)⟩
  case detour =>
    intro m hm
    simp only [List.forall_mem_cons, List.not_mem_nil, false_imp_iff, implies_true, and_true]
    exact ⟨
      fun h => awaits_of_next rfl (show execDetourHold fn s = _ from detourCommand_accepted hm h),
      fun h => awaits_of_next rfl (show execDetourUnhold fn s = _ from detourCommand_accepted hm h),
      fun h => awaits_of_next rfl (show execDetourEndAll fn s = _ from detourCommand_accepted hm h)⟩
  case fabric =>
    exact fun h => awaits_of_next (enableLinks_epoch _ s) (show execFabricConfig fn s = _ from runCommand_accepted h)
  case window =>
    intro h
    obtain ⟨t, ht, hw⟩ := awaits_of_next (foldl_takePlot_epoch _ _ s)
      (show exec (.commonsWindowCreate fn) s = _ from commonsWindowCreate_accepted h rfl rfl)
    refine ⟨t, _, _, ht, (List.take_append_drop (leAt (s.payload fn) 2 2) _).symm, ?length, ?state⟩
    case length =>
      simp only [List.length_take]
      omega
    case state => rwa [List.take_append_drop]
  case canary => exact fun h => ⟨_, show execRidgeCanary fn s = _ from runCommand_accepted h, rfl⟩
  case wait =>
    simp only [List.forall_mem_cons, List.not_mem_nil, false_imp_iff, implies_true, and_true]
    exact ⟨
      fun h => waits_of_next (show execTenantRelease fn s = _ from releaseCommand_accepted h),
      fun h => waits_of_next (show execStreamStop fn s = _ from runCommand_accepted h),
      fun h => waits_of_next (show execCommonsWindowRemove fn s = _ from runCommand_accepted h)⟩

end Sys2Proof.Machine
end

section
/-! SUPPORT. What the commands that land at a Milestone set (R20), and that nothing else of a Milestone changes it. -/

namespace Sys2Proof.Machine

/-! ## The settings -/

/-- What the due commands of R62, R386, R389 and R408 set, with what decides when they land: the actions due, the epoch, the
boot phase, the caps, and the states of tenants, ports, endpoints and streams. -/
structure Settings where
  due : List (Nat × Due)
  epoch : Nat
  phase : Phase
  driverCap : Nat
  boardCap : Nat
  cap : Nat
  endpoints : Kv Endpoint
  tenants : List TenantState
  ports : List PortMode
  streams : List StreamMode

/-- The settings that a state holds. -/
def State.settings (s : State) : Settings :=
  ⟨s.due, s.time.epoch, s.boot.phase, s.disp.driverCap, s.disp.boardCap, s.disp.cap, s.endpoints, s.tenants.map (·.state),
    s.ports.map (·.mode), s.dma.streams.map (·.mode)⟩

/-- What a view shows of an updated element is its update of what it showed. -/
theorem map_modify_of_comm {α β : Type} {v : α → β} {f : α → α} {g : β → β} (h : ∀ x, v (f x) = g (v x)) (l : List α)
    (i : Nat) : (l.modify i f).map v = (l.map v).modify i g := by
  apply List.ext_getElem?
  intro j
  by_cases hj : i = j <;> simp [hj, Function.comp_def, h]

theorem map_modify_of_keeps {α β : Type} {v : α → β} {f : α → α} (h : ∀ x, v (f x) = v x) (l : List α) (i : Nat) :
    (l.modify i f).map v = l.map v :=
  (map_modify_of_comm (g := id) h l i).trans (List.modify_id _ _)

/-- A fold keeps the settings that each of its steps keeps; `v` finds the state in what the fold carries. -/
theorem settings_foldl_of {α β : Type} (v : α → State) (g : α → β → α)
    (hg : ∀ a x, (v (g a x)).settings = (v a).settings) (l : List β) (a : α) :
    (v (l.foldl g a)).settings = (v a).settings := by
  induction l generalizing a with
  | nil => rfl
  | cons x l ih => exact (ih (g a x)).trans (hg a x)

@[simp] theorem settings_foldl {β : Type} (g : State → β → State) (hg : ∀ s x, (g s x).settings = s.settings) (l : List β)
    (s : State) : (l.foldl g s).settings = s.settings := settings_foldl_of id g hg l s

@[simp] theorem settings_foldl_fst {γ β : Type} (g : State × γ → β → State × γ)
    (hg : ∀ a x, (g a x).1.settings = a.1.settings) (l : List β) (a : State × γ) :
    (l.foldl g a).1.settings = a.1.settings := settings_foldl_of Prod.fst g hg l a

variable (s : State)

/-! ## Updates of one part of the state -/

@[simp] theorem settings_modRidge (r : Nat) (f : Ridge → Ridge) : (modRidge r f s).settings = s.settings := rfl
@[simp] theorem settings_modZth (f : ZthSt → ZthSt) : (modZth f s).settings = s.settings := rfl
@[simp] theorem settings_modSaddle (i : Nat) (f : Saddle → Saddle) : (modSaddle i f s).settings = s.settings := rfl
@[simp] theorem settings_modFn (i : Nat) (f : FnSt → FnSt) : (modFn i f s).settings = s.settings := rfl
@[simp] theorem settings_modMbx (i : Nat) (f : Mailbox → Mailbox) : (modMbx i f s).settings = s.settings := rfl
@[simp] theorem settings_modCtx (c : Nat) (f : RecCtx → RecCtx) : (modCtx c f s).settings = s.settings := rfl
@[simp] theorem settings_setCtx (c : Nat) (r : RecCtx) : (setCtx c r s).settings = s.settings := rfl
@[simp] theorem settings_modModel (i : Nat) (f : Model → Model) : (modModel i f s).settings = s.settings := rfl
@[simp] theorem settings_modMem (f : MemSt → MemSt) : (modMem f s).settings = s.settings := rfl
@[simp] theorem settings_modRefit (i : Nat) (f : RefitSt → RefitSt) : (modRefit i f s).settings = s.settings := rfl
@[simp] theorem settings_putWaymark (i : Nat) (w : Waymark) : (putWaymark i w s).settings = s.settings := rfl
@[simp] theorem settings_passTime (n : Nat) : (passTime n s).settings = s.settings := rfl
@[simp] theorem settings_setCause (f m : Nat) : (setCause f m s).settings = s.settings := rfl
@[simp] theorem settings_fireVector (f v : Nat) : (fireVector f v s).settings = s.settings := rfl
@[simp] theorem settings_releaseCtx (c : Nat) : (releaseCtx c s).settings = s.settings := rfl
@[simp] theorem settings_giveBack (cs : List Credit) : (giveBack cs s).settings = s.settings := rfl
@[simp] theorem settings_charge (n : Nat) : (charge n s).settings = s.settings := rfl
@[simp] theorem settings_chargeWork (k n : Nat) : (chargeWork k n s).settings = s.settings := rfl
@[simp] theorem settings_writeWhole (a : Nat) (bs : List Byte) : (writeWhole a bs s).settings = s.settings := rfl
@[simp] theorem settings_queueOut (i : Nat) (m : Msg) : (queueOut i m s).settings = s.settings := rfl
@[simp] theorem settings_deliver (m : Msg) : (deliver m s).settings = s.settings := rfl
@[simp] theorem settings_askPort (c n : Nat) : (askPort c n s).settings = s.settings := rfl

/-- The tick, its cycle and the mark of an epoch's first Milestone are no settings. -/
theorem settings_withTick (tick cycle : Nat) (done : Bool) : State.settings { s with
    time := { s.time with tick := tick, cycle := cycle, firstMilestoneDone := done } } = s.settings := rfl

@[simp] theorem settings_modPort (l : Nat) (f : PortSt → PortSt) (hf : ∀ p, (f p).mode = p.mode) :
    (modPort l f s).settings = s.settings := by
  simp [State.settings, map_modify_of_keeps hf]

@[simp] theorem settings_modTenant (t : Nat) (f : Tenant → Tenant) (hf : ∀ x, (f x).state = x.state) :
    (modTenant t f s).settings = s.settings := by
  simp [State.settings, map_modify_of_keeps hf]

@[simp] theorem settings_modStream (g : Nat) (f : Stream → Stream) (hf : ∀ x, (f x).mode = x.mode) :
    (modStream g f s).settings = s.settings := by
  simp [State.settings, map_modify_of_keeps hf]

@[simp] theorem settings_modBoot (f : BootSt → BootSt) (hf : (f s.boot).phase = s.boot.phase) :
    (modBoot f s).settings = s.settings := by
  simp [State.settings, hf]

@[simp] theorem settings_modDisp (f : DispSt → DispSt) (hd : ∀ d, (f d).driverCap = d.driverCap)
    (hb : ∀ d, (f d).boardCap = d.boardCap) (hc : ∀ d, (f d).cap = d.cap) : (modDisp f s).settings = s.settings := by
  simp [State.settings, hd, hb, hc]

@[simp] theorem settings_count (k n : Nat) : (count k n s).settings = s.settings := by rw [count_frame]; rfl

@[simp] theorem settings_raise (c t : Nat) (d : List Byte) : (raise c t d s).settings = s.settings := by
  rw [raise_frame]; rfl

@[simp] theorem settings_raiseCycle (evs : List Raised) : (raiseCycle evs s).settings = s.settings := by
  simp [raiseCycle]

/-! ## Memory reads and heals -/

@[simp] theorem settings_queueHeal (a : Nat) (evs : List Raised) : (queueHeal a s evs).1.settings = s.settings := by
  unfold queueHeal
  split
  · rfl
  · dsimp only
    split
    · rfl
    · split <;> simp

@[simp] theorem settings_readWord (ecc : List EccFind) (req : Nat) (patrol : Bool) (a i : Nat) (se : State × List Raised) :
    (readWord ecc req patrol a i se).1.settings = se.1.settings := by
  unfold readWord
  dsimp only
  split
  · simp
  · split
    · simp [apply_ite State.settings]
    · split
      · simp [apply_ite State.settings]
      · rfl

@[simp] theorem settings_foldRead (a : Nat) (ecc : List EccFind) : (foldRead a ecc s).2.settings = s.settings := by
  simp [foldRead, apply_ite State.settings]

@[simp] theorem settings_settleHeals : (settleHeals s).settings = s.settings := by
  unfold settleHeals
  dsimp only
  refine (settings_foldl _ (fun s b => ?_) _ _).trans (settings_modMem s _)
  split
  · rfl
  · simp [apply_ite State.settings]

/-! ## Answers and messages -/

@[simp] theorem settings_readyFrame (r : Reply) (k : TxKind) (c : Option Nat) (m : List Byte) (a : Nat) (sc : Bool) :
    (readyFrame r k c m a sc s).settings = s.settings := by simp [readyFrame]

@[simp] theorem settings_sendControl (l : Nat) (v : Option (Nat × Nat)) (bs : List Byte) :
    (sendControl l v bs s).settings = s.settings := by simp [sendControl]

@[simp] theorem settings_routeMsg (m : Msg) : (routeMsg m s).2.settings = s.settings := by
  unfold routeMsg
  dsimp only
  split
  · split
    · simp
    · split
      · simp
      · split
        · simp [apply_ite State.settings]
        · split
          · simp [apply_ite State.settings]
          · refine (settings_foldl _ (fun s i => settings_queueOut s i _) _ _).trans ?_
            simp [apply_ite State.settings]
  · split
    · simp
    · split
      · simp
      · split <;> simp

@[simp] theorem settings_nakEvent (i op r d t w n dt : Nat) : (nakEvent i op r d t w n dt s).settings = s.settings := by
  simp [nakEvent, apply_ite State.settings]

@[simp] theorem settings_refuseMsg (m : Msg) (reason : Nat) : (refuseMsg m reason s).settings = s.settings := by
  simp [refuseMsg, apply_ite State.settings]

@[simp] theorem settings_sendMsg (bs : List Byte) (c : Option Nat) : (sendMsg bs c s).2.settings = s.settings := by
  unfold sendMsg
  dsimp only
  split <;> simp

@[simp] theorem settings_send (bs : List Byte) : (send bs s).settings = s.settings := settings_sendMsg s bs none

/-! ## The end of a record -/

@[simp] theorem settings_returnBlock (c : Nat) : (returnBlock c s).settings = s.settings := by
  unfold returnBlock
  split
  · rfl
  · split <;> simp

@[simp] theorem settings_dropWork (c : Nat) : (dropWork c s).settings = s.settings :=
  calc (dropWork c s).settings = (returnBlock c (giveBack (workCredits c s) s)).settings := rfl
    _ = s.settings := by simp

@[simp] theorem settings_freeContext (c : Nat) : (freeContext c s).settings = s.settings := by
  simp [freeContext, apply_ite State.settings]

@[simp] theorem settings_stageAnswers (g : Nat) : (stageAnswers g s).settings = s.settings := by simp [stageAnswers]

@[simp] theorem settings_ringAnswer (g n e : Nat) (r : Bool) (bs : List Byte) (c : Option Nat) :
    (ringAnswer g n e r bs c s).settings = s.settings := by simp [ringAnswer]

@[simp] theorem settings_dropCandidates (slot : Nat) : (dropCandidates slot s).settings = s.settings := by
  simp [dropCandidates]

@[simp] theorem settings_endSearch (slot : Nat) (limit : Bool) : (endSearch slot limit s).settings = s.settings := by
  unfold endSearch
  split
  · rfl
  next x _ =>
    have hkept : (dropCandidates slot { s with searches := kvDel s.searches slot }).settings = s.settings :=
      (settings_dropCandidates _ slot).trans rfl
    dsimp only
    split <;> simp [apply_ite State.settings, hkept]

@[simp] theorem settings_sendTerm (c : Nat) (msg : List Byte) : (sendTerm c msg s).settings = s.settings := by
  simp [sendTerm, apply_ite State.settings]

@[simp] theorem settings_endRecord (c status reason : Nat) : (endRecord c status reason s).settings = s.settings := by
  unfold endRecord
  split
  · rfl
  · dsimp only
    split <;> simp [apply_ite State.settings]

@[simp] theorem settings_unitFault (c reason : Nat) : (unitFault c reason s).settings = s.settings :=
  settings_endRecord s c 5 reason

@[simp] theorem settings_modelPoison (c : Nat) (never : Bool) : (modelPoison c never s).settings = s.settings := by
  unfold modelPoison
  split
  · rfl
  · simp [apply_ite State.settings]

@[simp] theorem settings_unplaced (c : Nat) : (unplaced c s).settings = s.settings := by
  unfold unplaced
  split <;> simp

@[simp] theorem settings_shedRecord (c reason : Nat) : (shedRecord c reason s).settings = s.settings := by
  simp [shedRecord]

/-! ## What a cycle does by itself -/

@[simp] theorem settings_sendRecordMc (c : Nat) : (sendRecordMc c s).settings = s.settings := by
  unfold sendRecordMc
  split
  · rfl
  · simp [apply_ite State.settings]

@[simp] theorem settings_handOver (c : Nat) : (handOver c s).settings = s.settings := by
  unfold handOver
  split
  · rfl
  · split <;> rfl

@[simp] theorem settings_passSkips (n pipe : Nat) : (passSkips n pipe s).settings = s.settings := by
  induction n generalizing s with
  | zero => rfl
  | succ n ih =>
    unfold passSkips
    split
    · rfl
    · split
      · rfl
      · split
        · exact (ih _).trans ((settings_sendRecordMc _ _).trans rfl)
        · rfl

@[simp] theorem settings_fillDispatch : (fillDispatch s).settings = s.settings := by simp [fillDispatch]

@[simp] theorem settings_areaWrite (x : RefitSt) (off : Nat) (bs : List Byte) : (areaWrite x off bs s).settings = s.settings :=
  settings_foldl _ (fun s _ => settings_writeWhole s _ _) _ _

@[simp] theorem settings_traceWrite (m : Model) (r : RecCtx) : (traceWrite m r s).settings = s.settings := by
  unfold traceWrite
  split
  · rfl
  · simp

@[simp] theorem settings_memberDone (c : Nat) (r : RecCtx) (m : Model) (home ctx : Nat) (vals : List Val) :
    (memberDone c r m home ctx vals s).settings = s.settings := by
  simp [memberDone, apply_ite State.settings]

@[simp] theorem settings_nextStage (c : Nat) (r : RecCtx) (m : Model) (st : Stage) (vals : List Val) :
    (nextStage c r m st vals s).settings = s.settings := by
  have hreturned : (returnBlock c s).settings = s.settings := settings_returnBlock s c
  unfold nextStage
  dsimp only
  split
  · rfl
  · split
    · split
      · exact (settings_endSearch _ _ _).trans hreturned
      · exact (settings_modelPoison _ _ _).trans hreturned
    · exact hreturned

@[simp] theorem settings_finalRow (c : Nat) : (finalRow c s).settings = s.settings := by
  unfold finalRow
  split
  · rfl
  · split
    · dsimp only
      split <;> simp [apply_ite State.settings]
    · rfl

@[simp] theorem settings_pumpOut : (pumpOut s).settings = s.settings := by simp [pumpOut]

@[simp] theorem settings_portCycle : (portCycle s).settings = s.settings := rfl

@[simp] theorem settings_countTimeouts (f k : Nat) : (countTimeouts f k s).settings = s.settings := by
  simp [countTimeouts, apply_ite State.settings]

@[simp] theorem settings_evalWaits (n : Nat) (reset : Bool) (t : TimeSt) : (evalWaits n reset t s).settings = s.settings := by
  have hcounted : ((List.range 33).foldl (fun u f => countTimeouts f (timedOut u n t f) u) s).settings = s.settings := by simp
  rw [← hcounted]
  simp [evalWaits, State.settings, Function.comp_def]

@[simp] theorem settings_wmkUpdate (t : TimeSt) (n : Nat) (f : Waymark → Waymark) (reset : Bool) :
    (wmkUpdate t n f reset s).settings = s.settings := by simp [wmkUpdate]

@[simp] theorem settings_wmkApply (t : TimeSt) (i : Nat) (op : WmkOp) : (wmkApply t i op s).settings = s.settings := by
  unfold wmkApply
  split
  · rfl
  · dsimp only
    split <;> simp only [settings_raise, settings_wmkUpdate] <;> split <;> simp

@[simp] theorem settings_wmkDrain (k : Nat) : (wmkDrain k s).settings = s.settings := by
  unfold wmkDrain
  refine (settings_foldl _ (fun s u => ?_) _ _).trans rfl
  exact settings_wmkApply s _ _ _

@[simp] theorem settings_freeStaging : (freeStaging s).settings = s.settings := by
  refine settings_foldl _ (fun s c => ?_) _ _
  split <;> simp

@[simp] theorem settings_endCycle : (endCycle s).settings = s.settings := by
  have hkept (u : State) : { u with returned := [] }.settings = u.settings := rfl
  simp [endCycle, hkept]

@[simp] theorem settings_countCycles (n : Nat) : (countCycles n s).settings = s.settings := by
  refine (settings_withTick (passTime n ((stallCounters s).foldl (fun t k => count k n t) s)) _ _ _).trans ?_
  simp

@[simp] theorem settings_cycle : (cycle s).settings = s.settings := by simp [cycle]

@[simp] theorem settings_restCycles (n : Nat) : (restCycles n s).settings = s.settings := by
  induction n generalizing s with
  | zero => rfl
  | succ n ih => simp [restCycles, apply_ite State.settings, ih]

/-- No setting changes while core cycles pass. -/
@[simp] theorem settings_idleCycles (n : Nat) : (idleCycles n s).settings = s.settings := by
  cases n with
  | zero => rfl
  | succ n => simp [idleCycles]

/-! ## What a Milestone does beside the due actions -/

@[simp] theorem settings_postResponse (f st : Nat) (p : List Byte) : (postResponse f st p s).settings = s.settings := by
  simp [postResponse, apply_ite State.settings]

@[simp] theorem settings_postDue : (postDue s).settings = s.settings := by
  refine settings_foldl _ (fun s f => ?_) _ _
  split
  · simp [apply_ite State.settings]
  · rfl

@[simp] theorem settings_closeTick : (closeTick s).settings = s.settings := by simp [closeTick]

@[simp] theorem settings_latchReading : (latchReading s).settings = s.settings := rfl

@[simp] theorem settings_changePoint : (changePoint s).settings = s.settings := by
  unfold changePoint
  split <;> rfl

@[simp] theorem settings_boundaryStart (first : Bool) : (boundaryStart first s).settings = s.settings := by
  simp [boundaryStart, apply_ite State.settings]

@[simp] theorem settings_shedForward : (shedForward s).settings = s.settings := by simp [shedForward]

@[simp] theorem settings_updateLevel : (updateLevel s).settings = s.settings := by
  simp [updateLevel, apply_ite State.settings]

@[simp] theorem settings_foldStat (first : Bool) (ecc : List EccFind) (key : Nat) :
    (foldStat first ecc key s).settings = s.settings := by
  unfold foldStat
  have hkept (u : State) (xs : Kv StatRec) : { u with stats := xs }.settings = u.settings := rfl
  split
  · split
    · rfl
    · simp [hkept, apply_ite State.settings]
  · rfl

@[simp] theorem settings_foldStats (first : Bool) (ecc : List EccFind) : (foldStats first ecc s).settings = s.settings := by
  simp [foldStats]

@[simp] theorem settings_requestDecay : (requestDecay s).settings = s.settings := by
  refine settings_foldl _ (fun s x => ?_) _ _
  split
  · rfl
  · simp [apply_ite State.settings]

@[simp] theorem settings_sendGh (id : Nat) : (sendGh id s).settings = s.settings := by
  unfold sendGh
  split
  · simp [apply_ite State.settings]
  · rfl

@[simp] theorem settings_refitTick : (refitTick s).settings = s.settings :=
  (settings_foldl (fun s id => sendGh id s) (by simp) _ _).trans rfl

@[simp] theorem settings_freeOldUnits : (freeOldUnits s).settings = s.settings := rfl

@[simp] theorem settings_boundaryBudget (first : Bool) (ecc : List EccFind) :
    (boundaryBudget first ecc s).settings = s.settings := by
  simp [boundaryBudget, apply_ite State.settings]

@[simp] theorem settings_beginParking : (beginParking s).settings = s.settings :=
  (settings_foldl _ (by simp) _ _).trans rfl

/-! ## The plan -/

@[simp] theorem settings_planReplay (a : State × Plan) (x : Replay) : (planReplay a x).1.settings = a.1.settings := by
  unfold planReplay
  dsimp only
  split
  · rfl
  · split
    · rfl
    · split <;> simp

@[simp] theorem settings_planReplays (a : State × Plan) : (planReplays a).1.settings = a.1.settings := by
  simp [planReplays]

@[simp] theorem settings_tenantTurn (t : Nat) (a : State × Plan × Bool) : (tenantTurn t a).1.settings = a.1.settings := by
  unfold tenantTurn
  dsimp only
  split
  · rfl
  · split
    · rfl
    · split <;> rfl

@[simp] theorem settings_throughputRounds (n : Nat) (a : State × Plan) : (throughputRounds n a).1.settings = a.1.settings := by
  induction n generalizing a with
  | zero => rfl
  | succ n ih =>
    unfold throughputRounds
    dsimp only
    split <;> simp [ih]

@[simp] theorem settings_planCandidate (c : Nat) (a : State × Plan) : (planCandidate c a).1.settings = a.1.settings := by
  unfold planCandidate
  split
  · rfl
  · dsimp only
    split
    · rfl
    · split <;> rfl

theorem settings_takeCtx {r : RecCtx} {y : Nat × State} (h : takeCtx r s = some y) : y.2.settings = s.settings := by
  unfold takeCtx at h
  split at h
  · cases h
  · cases h
    rfl

theorem settings_grantCandidate {slot k : Nat} {a b : State × Plan} (h : grantCandidate slot k a = some b) :
    b.1.settings = a.1.settings := by
  unfold grantCandidate at h
  dsimp only at h
  split at h
  · cases h
    rfl
  · split at h
    · cases h
      rfl
    · split at h
      · cases h
      · split at h
        · cases h
        · obtain ⟨y, hy, rfl⟩ := Option.map_eq_some_iff.mp h
          exact Eq.trans rfl (settings_takeCtx _ hy)

@[simp] theorem settings_keepOrGrant (left : Nat) (b : Nat → BgReq) : (keepOrGrant left b s).settings = s.settings := by
  unfold keepOrGrant
  split <;> rfl

@[simp] theorem settings_grantOne (a : State × Plan) (b : BgReq) : (grantOne a b).1.settings = a.1.settings := by
  unfold grantOne
  dsimp only
  cases b with
  | candidate slot k =>
    dsimp only
    split
    next r hr => exact settings_grantCandidate hr
    next => rfl
  | proposal m left => simp
  | decay m left => simp
  | patrol sram =>
    dsimp only
    split <;> simp
  | feedback =>
    dsimp only
    split
    · rfl
    · split <;> rfl

@[simp] theorem settings_grantBackground (a : State × Plan) : (grantBackground a).1.settings = a.1.settings := by
  simp [grantBackground]

@[simp] theorem settings_grantFloor (a : State × Plan) : (grantFloor a).1.settings = a.1.settings :=
  settings_grantBackground _

@[simp] theorem settings_askPatrol : (askPatrol s).settings = s.settings := rfl

@[simp] theorem settings_clearPlan : (clearPlan s).settings = s.settings := rfl

@[simp] theorem settings_buildPlan : (buildPlan s).settings = s.settings := by
  simp [buildPlan, apply_ite State.settings]

/-! ## The due actions (R20, R62, R386, R389, R408) -/

variable {s} {t : State} {ecc : List EccFind}

/-- The one action that is due takes effect on a state in which nothing is due any more. -/
theorem latchDue_single {e : Nat} {d : Due} (hd : s.due = [(e, d)]) (he : e < s.time.epoch) :
    latchDue ecc s = dueEffect ecc d (endReplaced { s with due := [] }) := by
  have hlater : ¬ s.time.epoch ≤ e := by omega
  simp [latchDue, hd, he, hlater]

theorem tenants_modTenant {st : TenantState} {f : Tenant → Tenant} (k : Nat) (hf : ∀ x, (f x).state = st) :
    (modTenant k f s).settings.tenants = s.settings.tenants.modify k (fun _ => st) := map_modify_of_comm hf _ _

theorem ports_modPort {m : PortMode} {f : PortSt → PortSt} (l : Nat) (hf : ∀ p, (f p).mode = m) :
    (modPort l f s).settings.ports = s.settings.ports.modify l (fun _ => m) := map_modify_of_comm hf _ _

theorem streams_modStream {m : StreamMode} {f : Stream → Stream} (g : Nat) (hf : ∀ x, (f x).mode = m) :
    (modStream g f s).settings.streams = s.settings.streams.modify g (fun _ => m) := map_modify_of_comm hf _ _

theorem tenants_tenantStateEffect {k op : Nat} {st : TenantState}
    (h : (op, st) ∈ [(1, .enabled), (2, .disabled), (3, .preempted), (4, TenantState.enabled)]) :
    (tenantStateEffect k op s).settings.tenants = s.settings.tenants.modify k (fun _ => st) := by
  simp only [List.mem_cons, Prod.mk.injEq, List.not_mem_nil, or_false] at h
  rcases h with ⟨rfl, rfl⟩ | ⟨rfl, rfl⟩ | ⟨rfl, rfl⟩ | ⟨rfl, rfl⟩ <;>
    refine tenants_modTenant k ?_ <;> exact fun _ => rfl

theorem ports_portOpenEffect (l : Nat) :
    (portOpenEffect l s).settings.ports = s.settings.ports.modify l (fun _ => .opened) := by
  unfold portOpenEffect
  dsimp only
  rw [settings_foldl _ (by simp), settings_foldl _ (by simp)]
  exact ports_modPort l fun _ => rfl

theorem ports_portDrainEffect (l : Nat) :
    (portDrainEffect l s).settings.ports = s.settings.ports.modify l (fun _ => .draining) := by
  unfold portDrainEffect
  exact ports_modPort l fun _ => rfl

theorem streams_streamStartEffect (g : Nat) :
    (streamStartEffect g s).settings.streams = s.settings.streams.modify g (fun _ => .running) := by
  unfold streamStartEffect
  exact streams_modStream g fun _ => rfl

theorem settings_boardCapEffect (b : Nat) : (boardCapEffect b s).settings = { s.settings with boardCap := b } := by
  unfold boardCapEffect
  dsimp only
  split
  · exact (settings_raise _ _ _ _).trans rfl
  · rfl

/-- The cap in force depends on the settings alone. -/
theorem capInForce_of_settings : capInForce s =
    if s.settings.phase = .ready then min s.settings.driverCap s.settings.boardCap else 0 := rfl

/-! ## What a state holds, by its settings -/

theorem state_of_tenants {l : List TenantState} {k : Nat} {st : TenantState}
    (h : t.settings.tenants = l.modify k (fun _ => st)) (hk : k < l.length) : (t.tenant k).state = st := by
  have hget : t.settings.tenants.getD k Tenant.reset.state = (t.tenant k).state := List.getD_map _ _ _
  rw [← hget, h, getD_modify_eq _ _ _ _ hk]

theorem mode_of_ports {l : List PortMode} {k : Nat} {m : PortMode}
    (h : t.settings.ports = l.modify k (fun _ => m)) (hk : k < l.length) : (t.port k).mode = m := by
  have hget : t.settings.ports.getD k PortSt.reset.mode = (t.port k).mode := List.getD_map _ _ _
  rw [← hget, h, getD_modify_eq _ _ _ _ hk]

theorem mode_of_streams {l : List StreamMode} {k : Nat} {m : StreamMode}
    (h : t.settings.streams = l.modify k (fun _ => m)) (hk : k < l.length) : (t.stream k).mode = m := by
  have hget : t.settings.streams.getD k Stream.reset.mode = (t.stream k).mode := List.getD_map _ _ _
  rw [← hget, h, getD_modify_eq _ _ _ _ hk]

/-! ## The Milestone (R249) -/

/-- Cycle 0 of the tick that a Milestone begins. -/
def newTick (s : State) : State :=
  let s := idleCycles (1024 - s.time.cycle) s
  modDisp (fun d => { d with latUsed := [] }) { s with time := { s.time with tick := (s.time.tick + 1) % 2 ^ 64, cycle := 0 } }

@[simp] theorem settings_newTick : (newTick s).settings = s.settings :=
  ((settings_modDisp _ _ (fun _ => rfl) (fun _ => rfl) (fun _ => rfl)).trans (settings_withTick _ _ _ _)).trans
    (settings_idleCycles s _)

/-- Latching changes the settings by the due actions, and puts the cap in force. -/
theorem settings_boundaryLatch (first : Bool) : (boundaryLatch first ecc s).settings =
    { (latchDue ecc s).settings with cap := capInForce (latchDue ecc s) } := by
  unfold boundaryLatch
  cases first <;> rfl

/-- What a Milestone leaves, but for its mark that the epoch's first one has run. -/
def afterMilestone (ecc : List EccFind) (s : State) : State :=
  let first := !s.time.firstMilestoneDone
  idleCycles 8 (postDue (beginParking (buildPlan
    (boundaryBudget first ecc (boundaryLatch first ecc (boundaryStart first (newTick s)))))))

theorem exec_milestone (hc : s.time.clockOn = true) (ecc : List EccFind) : exec (.milestone ecc) s =
    .next { afterMilestone ecc s with time := { (afterMilestone ecc s).time with firstMilestoneDone := true } } := by
  show execMilestone s ecc = _
  simp [execMilestone, afterMilestone, newTick, hc]

/-- A Milestone changes the settings by what is due, and puts the cap in force. -/
theorem exec_milestone_settings (hc : s.time.clockOn = true) (ecc : List EccFind) :
    ∃ t u, exec (.milestone ecc) s = .next t ∧ u.settings = s.settings ∧
      t.settings = { (latchDue ecc u).settings with cap := capInForce (latchDue ecc u) } := by
  refine ⟨_, boundaryStart (!s.time.firstMilestoneDone) (newTick s), exec_milestone hc ecc, by simp, ?_⟩
  rw [← settings_boundaryLatch (!s.time.firstMilestoneDone)]
  refine (settings_withTick (afterMilestone ecc s) _ _ _).trans ?_
  simp [afterMilestone]

/-- Settles O60: the due action takes effect on the state's settings, and nothing else of the Milestone changes them. -/
theorem dueCommandsLandAtTheMilestone : Obligations.DueCommandsLandAtTheMilestone := by
  unfold Obligations.DueCommandsLandAtTheMilestone
  intro s e d hc hd he htenants hports hstreams ecc
  obtain ⟨t, u, hexec, hu, ht⟩ := exec_milestone_settings hc ecc
  have hdue : u.due = [(e, d)] := (congrArg Settings.due hu).trans hd
  have hepoch : u.time.epoch = s.time.epoch := congrArg Settings.epoch hu
  rw [latchDue_single hdue (hepoch ▸ he)] at ht
  generalize hv : endReplaced { u with due := [] } = v at ht
  have hset : v.settings = { s.settings with due := [] } := by
    rw [← hv, ← hu]
    rfl
  have hlt : v.settings.tenants.length = 32 := by rw [hset]; simp [State.settings, htenants]
  have hlp : v.settings.ports.length = 8 := by rw [hset]; simp [State.settings, hports]
  have hls : v.settings.streams.length = 264 := by rw [hset]; simp [State.settings, hstreams]
  refine ⟨t, hexec, ?tenants, ?ports, ?endpoints, ?streams, ?cap⟩
  case tenants =>
    intro k hk
    have hland {op : Nat} {st : TenantState}
        (h : (op, st) ∈ [(1, .enabled), (2, .disabled), (3, .preempted), (4, TenantState.enabled)])
        (hop : d = .tenantState k op) : (t.tenant k).state = st := by
      subst hop
      exact state_of_tenants ((congrArg Settings.tenants ht).trans (tenants_tenantStateEffect h)) (hlt ▸ hk)
    exact ⟨fun h => h.elim (hland (by simp)) (hland (by simp)), hland (by simp), hland (by simp)⟩
  case ports =>
    intro l hl
    constructor
    · rintro rfl
      exact mode_of_ports ((congrArg Settings.ports ht).trans (ports_portOpenEffect l)) (hlp ▸ hl)
    · rintro rfl
      exact mode_of_ports ((congrArg Settings.ports ht).trans (ports_portDrainEffect l)) (hlp ▸ hl)
  case endpoints =>
    intro i x
    constructor
    · rintro rfl
      have hmap : t.endpoints = kvSet v.endpoints i x := congrArg Settings.endpoints ht
      rw [hmap, kvGet_kvSet, if_pos rfl]
    · rintro rfl
      have hmap : t.endpoints = kvDel v.endpoints i := congrArg Settings.endpoints ht
      rw [hmap, kvGet_kvDel, if_pos rfl]
  case streams =>
    rintro g hg rfl
    exact mode_of_streams ((congrArg Settings.streams ht).trans (streams_streamStartEffect g)) (hls ▸ hg)
  case cap =>
    rintro b rfl hready
    have hphase : s.settings.phase = .ready := hready
    calc t.disp.cap = capInForce (boardCapEffect b v) := congrArg Settings.cap ht
      _ = min s.disp.driverCap b := by
        rw [capInForce_of_settings, settings_boardCapEffect, hset]
        exact if_pos hphase

end Sys2Proof.Machine
end

section
/-! SUPPORT. A pass on its Ridge (R153 to R162): the canary's leaf, what its issue leaves, and what a fence keeps empty. -/

namespace Sys2Proof.Machine

/-! ## One Ridge after a change -/

theorem ridge_modRidge_same {s : State} {q : Nat} (f : Ridge → Ridge) (hq : q < s.ridges.length) :
    (modRidge q f s).ridge q = f (s.ridge q) := getD_modify_eq _ _ _ _ hq

@[simp] theorem counter_modRidge (s : State) (q : Nat) (f : Ridge → Ridge) (j : Nat) :
    (modRidge q f s).counter j = s.counter j := rfl

variable (s : State)

@[simp] theorem ridges_count (k n : Nat) : (count k n s).ridges = s.ridges := by rw [count_frame]

@[simp] theorem ridges_raise (c t : Nat) (d : List Byte) : (raise c t d s).ridges = s.ridges := by rw [raise_frame]

@[simp] theorem ridges_chargeWork (k n : Nat) : (chargeWork k n s).ridges = s.ridges := rfl

/-- A fold keeps the Ridges that each of its steps keeps. -/
theorem ridges_foldl {β : Type} (g : State → β → State) (hg : ∀ s x, (g s x).ridges = s.ridges) (l : List β) :
    (l.foldl g s).ridges = s.ridges :=
  foldl_keeps (fun t => t.ridges = s.ridges) g (fun t x ht => (hg t x).trans ht) l s rfl

/-! ## The canary (R161) -/

/-- At a heap index of level `j` the canary compares with the middle of the codes below it. -/
theorem canaryThreshold_at {j k : Nat} (hk : k < 2 ^ j) : canaryThreshold (2 ^ j + k) = (2 * k + 1) * 2 ^ (7 - j) := by
  have hlog : (2 ^ j + k).log2 = j := (Nat.log2_eq_iff (by positivity)).mpr ⟨by omega, by rw [Nat.pow_succ]; omega⟩
  simp only [canaryThreshold, hlog, Nat.add_sub_cancel_left]

/-- With `d` levels to go the canary's path stands at the code's leading bits, so it ends at the code. -/
theorem pathTo_canary {g : Nat} (hg : g < 256) (d : Nat) (hd : d ≤ 8) :
    pathTo (fun h => !decide (g < canaryThreshold h)) d (2 ^ (8 - d) + g / 2 ^ d) = 256 + g := by
  induction d with
  | zero => simp [pathTo]
  | succ d ih =>
    have hhalf : g / 2 ^ (d + 1) = g / 2 ^ d / 2 := by rw [Nat.pow_succ, Nat.div_div_eq_div_mul]
    have hk : g / 2 ^ d / 2 < 2 ^ (7 - d) := by
      rw [← hhalf, Nat.div_lt_iff_lt_mul (by positivity), ← Nat.pow_add, show 7 - d + (d + 1) = 8 by omega]
      exact hg
    have hright : (2 * (g / 2 ^ d / 2) + 1) * 2 ^ d ≤ g ↔ g / 2 ^ d % 2 = 1 := by
      rw [← Nat.le_div_iff_mul_le (by positivity)]
      omega
    have hstep : 2 * (2 ^ (7 - d) + g / 2 ^ d / 2) + (if g / 2 ^ d % 2 = 1 then 1 else 0) = 2 ^ (8 - d) + g / 2 ^ d := by
      rw [show 8 - d = 7 - d + 1 by omega, Nat.pow_succ]
      split <;> omega
    rw [← hstep] at ih
    rw [show 8 - (d + 1) = 7 - d by omega, hhalf, pathTo, canaryThreshold_at hk, show 7 - (7 - d) = d by omega]
    simpa [hright] using ih (by omega)

theorem canaryLeaf_eq {g : Nat} (hg : g < 256) : canaryLeaf g = g := by
  have hpath := pathTo_canary hg 8 le_rfl
  rw [Nat.div_eq_of_lt (show g < 2 ^ 8 from hg)] at hpath
  rw [canaryLeaf, leafIndex, show pathTo _ 8 1 = 256 + g from hpath]
  omega

/-- The canary of a pass that nothing upset passes on every code of a byte. -/
theorem canaryFails_of_code {p : Nat} {r : RecCtx} (h : r.code (p % 1024) < 256) : canaryFails p r false = false := by
  simp [canaryFails, canaryLeaf_eq h]

/-! ## Frames of what a fence and its records' ends do -/

@[simp] theorem ridges_deliver (m : Msg) : (deliver m s).ridges = s.ridges := rfl

@[simp] theorem ridges_queueOut (i : Nat) (m : Msg) : (queueOut i m s).ridges = s.ridges := rfl

@[simp] theorem ridges_routeMsg (m : Msg) : (routeMsg m s).2.ridges = s.ridges := by
  unfold routeMsg
  dsimp only
  split
  · split
    · simp
    · split
      · simp
      · split
        · simp [apply_ite State.ridges]
        · split
          · simp [apply_ite State.ridges]
          · refine (ridges_foldl _ _ (fun s i => ridges_queueOut s i _) _).trans ?_
            simp [apply_ite State.ridges]
  · split
    · simp
    · split
      · simp
      · split <;> simp

@[simp] theorem ridges_nakEvent (i op r d t w n dt : Nat) : (nakEvent i op r d t w n dt s).ridges = s.ridges := by
  simp [nakEvent, apply_ite State.ridges]

@[simp] theorem ridges_refuseMsg (m : Msg) (reason : Nat) : (refuseMsg m reason s).ridges = s.ridges := by
  simp [refuseMsg, apply_ite State.ridges]

@[simp] theorem ridges_sendMsg (bs : List Byte) (c : Option Nat) : (sendMsg bs c s).2.ridges = s.ridges := by
  unfold sendMsg
  dsimp only
  split <;> simp

@[simp] theorem ridges_readyFrame (r : Reply) (k : TxKind) (c : Option Nat) (m : List Byte) (a : Nat) (sc : Bool) :
    (readyFrame r k c m a sc s).ridges = s.ridges := rfl

@[simp] theorem ridges_colMiss (req model line : Nat) : (colMiss req model line s).ridges = s.ridges := by simp [colMiss]

@[simp] theorem ridges_colRead (req model line : Nat) : (colRead req model line s).ridges = s.ridges := by
  unfold colRead
  dsimp only
  split <;> simp [apply_ite State.ridges]

@[simp] theorem ridges_readMaster (id : SetId) (q : Nat) : (readMaster id q s).ridges = s.ridges := by
  unfold readMaster
  split
  · rfl
  · exact ridges_foldl _ _ (fun s _ => ridges_foldl s _ (fun s l => ridges_colRead s 1 _ l) _) _

@[simp] theorem ridges_chargeLoad (id : SetId) (q : Nat) : (chargeLoad id q s).ridges = s.ridges := by
  simp [chargeLoad, apply_ite State.ridges]

@[simp] theorem ridges_returnBlock (c : Nat) : (returnBlock c s).ridges = s.ridges := by
  unfold returnBlock
  split
  · rfl
  · split <;> rfl

/-! ## A fenced Ridge that holds no pass (R162) -/

/-- The Ridge is fenced, and no pass is bound to it, in its window or in its pipeline. -/
def Ridge.cleared (x : Ridge) : Prop := x.fenced = true ∧ x.pipe = [] ∧ x.bound = [] ∧ x.window = []

/-- Ridge `q` of the state is such a one. -/
def State.cleared (s : State) (q : Nat) : Prop := ∃ x, s.ridges[q]? = some x ∧ x.cleared

variable {s} {q : Nat}

theorem State.cleared.ridge (h : s.cleared q) : (s.ridge q).cleared := by
  obtain ⟨x, hx, hclear⟩ := h
  simpa [State.ridge, List.getD_eq_getElem?_getD, hx] using hclear

/-- Any change that keeps the Ridges keeps a cleared one. -/
theorem State.cleared.of_ridges {t : State} (h : s.cleared q) (ht : t.ridges = s.ridges) : t.cleared q := by
  rwa [State.cleared, ht]

theorem Ridge.cleared.drop {x : Ridge} (h : x.cleared) (c : Nat) : (x.drop c).cleared := by
  obtain ⟨hfenced, hpipe, hbound, hwindow⟩ := h
  simp [Ridge.cleared, Ridge.drop, hfenced, hpipe, hbound, hwindow]

theorem cleared_modRidge_same (hq : q < s.ridges.length) {f : Ridge → Ridge} (hf : ∀ x, (f x).cleared) :
    (modRidge q f s).cleared q := ⟨f s.ridges[q], by simp [hq], hf _⟩

theorem cleared_modRidge_ne (h : s.cleared q) {r : Nat} (hr : r ≠ q) (f : Ridge → Ridge) :
    (modRidge r f s).cleared q := by
  simpa [State.cleared, hr] using h

theorem cleared_dropWork (h : s.cleared q) (c : Nat) : (dropWork c s).cleared q := by
  obtain ⟨x, hx, hclear⟩ := h
  have hridges : (dropWork c s).ridges = s.ridges.map (Ridge.drop c) :=
    calc (dropWork c s).ridges = (returnBlock c (giveBack (workCredits c s) s)).ridges.map (Ridge.drop c) := rfl
      _ = s.ridges.map (Ridge.drop c) := by simp
  exact ⟨x.drop c, by simp [hridges, hx], hclear.drop c⟩

theorem cleared_freeContext (h : s.cleared q) (c : Nat) : (freeContext c s).cleared q := by
  unfold freeContext
  split
  · exact (cleared_dropWork h c).of_ridges rfl
  · exact h

theorem cleared_ringAnswer (h : s.cleared q) (g n e : Nat) (r : Bool) (bs : List Byte) (c : Option Nat) :
    (ringAnswer g n e r bs c s).cleared q :=
  foldl_keeps (·.cleared q) _ (fun _ c hs => cleared_freeContext hs c) _ _ (h.of_ridges rfl)

theorem cleared_dropCandidates (h : s.cleared q) (slot : Nat) : (dropCandidates slot s).cleared q :=
  (foldl_keeps (·.cleared q) (fun s (p : Nat × RecCtx) => freeContext p.1 s) (fun _ p hs => cleared_freeContext hs p.1) _ _
    h).of_ridges rfl

theorem cleared_endSearch (h : s.cleared q) (slot : Nat) (limit : Bool) : (endSearch slot limit s).cleared q := by
  unfold endSearch
  split
  · exact h
  next x _ =>
    have hdropped : (dropCandidates slot { s with searches := kvDel s.searches slot }).cleared q :=
      cleared_dropCandidates (s := { s with searches := kvDel s.searches slot }) (h.of_ridges rfl) slot
    dsimp only
    split
    · exact cleared_ringAnswer (hdropped.of_ridges (by simp [apply_ite State.ridges])) _ _ _ _ _ _
    · exact hdropped.of_ridges (by simp [apply_ite State.ridges])

theorem cleared_sendTerm (h : s.cleared q) (c : Nat) (msg : List Byte) : (sendTerm c msg s).cleared q := by
  have hsent : (sendMsg msg (some c) (modCtx c (fun r => { r with state := .remote }) s)).2.cleared q :=
    h.of_ridges (by simp)
  unfold sendTerm
  dsimp only
  split
  · exact hsent
  · exact cleared_freeContext hsent c

theorem cleared_endRecord (h : s.cleared q) (c status reason : Nat) : (endRecord c status reason s).cleared q := by
  unfold endRecord
  split
  · exact h
  next r _ =>
    dsimp only
    generalize hu : (if isEthernet r && beforeCommit r then count (cPrt r.reply.port pAnswered) 1 s else s) = u
    have hu : u.cleared q := h.of_ridges (by simp [← hu, apply_ite State.ridges])
    have hended : (modCtx c (fun r => { r with state := .summit, ended := some (status, reason) })
        (dropWork c u)).cleared q := (cleared_dropWork hu c).of_ridges rfl
    split
    · exact hended.of_ridges rfl
    · exact cleared_ringAnswer hended _ _ _ _ _ _
    · exact cleared_sendTerm hended _ _
    · exact cleared_endSearch hended _ _

theorem cleared_requestAgain (h : s.cleared q) (c slot k : Nat) : (requestAgain c slot k s).cleared q :=
  (cleared_freeContext h c).of_ridges rfl

theorem cleared_repeatOr (h : s.cleared q) (c : Nat) (isPoison : Bool) {again : State → State}
    (hagain : ∀ {t : State}, t.cleared q → (again t).cleared q) : (repeatOr c isPoison again s).cleared q := by
  unfold repeatOr
  split
  · exact h
  · split
    · exact cleared_endRecord (h.of_ridges (by simp)) _ _ _
    · exact hagain (h.of_ridges rfl)

theorem cleared_lostPass (h : s.cleared q) (es : List QEntry) (replayable : Bool) (c : Nat) :
    (lostPass es replayable c s).cleared q := by
  unfold lostPass
  split
  · exact h
  · split
    · split
      · exact cleared_requestAgain h _ _ _
      · exact cleared_endSearch h _ _
    · split
      · exact cleared_repeatOr h _ _ (fun ht => ht.of_ridges rfl)
      · exact cleared_endRecord h _ _ _

theorem cleared_bindStandIn (h : s.cleared q) {r : Nat} (hr : r ≠ q) (x : Ridge) (sets : List SetId) :
    (bindStandIn r x sets s).cleared q :=
  foldl_keeps (·.cleared q) _ (fun _ _ ht => ht.of_ridges (by simp)) _ _ (cleared_modRidge_ne h hr _)

theorem freeSpare_ne {r : Nat} (h : freeSpare s q = some r) : r ≠ q := by
  have hfound := List.find?_some h
  simp only [Bool.and_eq_true, bne_iff_ne] at hfound
  exact hfound.1.1.1

/-- A fence leaves its Ridge fenced and with no pass, whatever stands in and however its records go on (R162, R420). -/
theorem cleared_fenceRidge (hq : q < s.ridges.length) (hopen : (s.ridge q).fenced = false) (mask : Nat) :
    (fenceRidge q mask s).cleared q := by
  have hfence {u : State} (hu : u.ridges = s.ridges) : (modRidge q (fun x => { x with
      fenced := true, window := [], bound := [], pipe := [], active := Buf.empty, inactive := Buf.empty
      fenceEpoch := u.time.epoch }) u).cleared q :=
    cleared_modRidge_same (hu ▸ hq) (fun _ => ⟨rfl, rfl, rfl, rfl⟩)
  unfold fenceRidge
  dsimp only
  rw [if_neg (by simp [hopen])]
  split
  next r hr =>
    have hspare : freeSpare s q = some r := (Option.ite_none_right_eq_some.mp hr).2
    exact foldl_keeps (·.cleared q) _ (fun _ c ht => cleared_lostPass ht _ _ c) _ _
      (cleared_bindStandIn (hfence (ridges_raise _ _ _ _)) (freeSpare_ne hspare) _ _)
  · exact foldl_keeps (·.cleared q) _ (fun _ c ht => cleared_lostPass ht _ _ c) _ _ (hfence (ridges_raise _ _ _ _))

/-! ## What the issue of a pass leaves (R153, R157, R159) -/

section
variable (s : State) (q k : Nat) (b : Bound)

@[simp] theorem time_takePositions : (takePositions q k b s).time = s.time := by simp [takePositions, apply_ite State.time]

@[simp] theorem counter_takePositions (j : Nat) : (takePositions q k b s).counter j = s.counter j := by
  simp [State.counter, takePositions, apply_ite State.ctr]

@[simp] theorem ridges_takePositions :
    (takePositions q k b s).ridges = s.ridges.modify q (fun x => { x with nextPos := s.now + 4 * k }) := by
  simp [takePositions, apply_ite State.ridges]

end

/-- Activation exchanges the table buffers and nothing else. -/
theorem activate_frame (id : SetId) (x : Ridge) :
    activate id x = { x with active := (activate id x).active, inactive := (activate id x).inactive } := by
  unfold activate
  split
  · rfl
  · split <;> rfl

/-- A pass walks: one of its trees is no flat table, so the pass reads Ridge SRAM (R151). -/
def passWalks (m : Model) (r : RecCtx) (b : Bound) : Bool := !(m.setTrees r.version b.pass b.logical).all (·.tree.flat)

/-- A pass of the set meets poison on the Ridge: in the buffer that it runs on, or by a unit's mark (R158, R424). -/
def passPoisoned (s : State) (q : Nat) (id : SetId) : Bool :=
  (!residentHot s id q &&
    (if (s.ridge q).active.set == some id then (s.ridge q).active else (s.ridge q).inactive).poisoned) || setMarked s id q

/-- The record leaves the Ridge's window with its last pass there (R159). -/
def leaveWindow (q : Nat) (b : Bound) (r : RecCtx) (m : Model) (s : State) : State :=
  if lastOnRidge s q r m b.ctx b.pass then
    giveBack [.window q] (modRidge q (fun x => { x with window := x.window.filter (· != b.ctx) }) s) else s

/-- A pass enters the pipeline of its Ridge, and its set is active (R155, R157). -/
def Ridge.enter (id : SetId) (b : Bound) (e : QEntry) (x : Ridge) : Ridge :=
  { unbind b (activate id x) with passes := x.passes + 1, pipe := x.pipe ++ [e] }

/-- A pass that issues takes its positions, enters the pipeline and is counted (R153, R155). -/
def enterPipeline (q : Nat) (b : Bound) (r : RecCtx) (m : Model) (id : SetId) (bad : Bool) (faults : RidgeFaults)
    (s : State) : State :=
  let u := takePositions q (boundSlots s b) b s
  count (cRdg q 8) (if passWalks m r b then faults.corrected else 0)
    (count (cRdg q 3) 1 (count (cRdg q 4) (if passWalks m r b then 1 else 0)
      (count (cRdg q 7) (if (s.ridge q).canary then 1 else 0) (modRidge q (Ridge.enter id b (passEntry u.now m r b bad)) u))))

/-- What a pass that issues leaves before its faults are seen. -/
def issued (q : Nat) (b : Bound) (r : RecCtx) (m : Model) (id : SetId) (bad : Bool) (faults : RidgeFaults) (s : State) :
    State :=
  leaveWindow q b r m (enterPipeline q b r m id bad faults s)

/-- The faults that the check of a pass finds, as the cause mask of a fence (Table 19.2). -/
def passFaults (s : State) (q : Nat) (b : Bound) (r : RecCtx) (m : Model) (faults : RidgeFaults) : Nat :=
  faultMask ((s.ridge q).canary && canaryFails (s.ridge q).passes r faults.canary) (passWalks m r b) faults

variable {b : Bound} {r : RecCtx} {m : Model} {id : SetId} {faults : RidgeFaults}

theorem issuePass_of_faults (h : passFaults s q b r m faults ≠ 0) :
    issuePass q b r m id faults s =
      fenceRidge q (passFaults s q b r m faults) (issued q b r m id (passPoisoned s q id) faults s) := if_pos h

theorem issuePass_of_sound (h : passFaults s q b r m faults = 0) (hbad : passPoisoned s q id = false) :
    issuePass q b r m id faults s = issued q b r m id false faults s := by
  rw [← hbad]
  exact (if_neg (not_not.mpr h)).trans (if_neg (ne_true_of_eq_false hbad))

theorem ridge_leaveWindow (hq : q < s.ridges.length) :
    ∃ w, (leaveWindow q b r m s).ridge q = { s.ridge q with window := w } := by
  unfold leaveWindow
  split
  · exact ⟨_, ridge_modRidge_same _ hq⟩
  · exact ⟨_, rfl⟩

@[simp] theorem length_ridges_leaveWindow (s : State) : (leaveWindow q b r m s).ridges.length = s.ridges.length := by
  simp [leaveWindow, apply_ite State.ridges, apply_ite List.length]

@[simp] theorem counter_leaveWindow (s : State) (j : Nat) : (leaveWindow q b r m s).counter j = s.counter j := by
  simp [State.counter, leaveWindow, apply_ite State.ctr]

@[simp] theorem length_ridges_enterPipeline (s : State) (bad : Bool) :
    (enterPipeline q b r m id bad faults s).ridges.length = s.ridges.length := by simp [enterPipeline]

theorem ridge_enterPipeline (hq : q < s.ridges.length) (bad : Bool) :
    (enterPipeline q b r m id bad faults s).ridge q =
      ({ s.ridge q with nextPos := s.now + 4 * boundSlots s b } : Ridge).enter id b (passEntry s.now m r b bad) := by
  have hnow : (takePositions q (boundSlots s b) b s).now = s.now := by simp [State.now]
  have hridges : (enterPipeline q b r m id bad faults s).ridges =
      (s.ridges.modify q (fun x => { x with nextPos := s.now + 4 * boundSlots s b })).modify q
        (Ridge.enter id b (passEntry s.now m r b bad)) := by
    simp [enterPipeline, hnow]
  rw [State.ridge, hridges, modify_modify]
  exact getD_modify_eq _ _ _ _ hq

theorem counter_enterPipeline (s : State) (bad : Bool) :
    (enterPipeline q b r m id bad faults s).counter (cRdg q 3) = (s.counter (cRdg q 3) + 1) % 2 ^ 64 := by
  have hother {i : Nat} (hi : 3 ≠ i) : cRdg q 3 ≠ cRdg q i := by simp only [cRdg]; omega
  simp [enterPipeline, counter_count, hother]

/-- The Ridge after the issue: only its next free position, its bound passes, their number, its pipeline, its buffers and its
window have changed. -/
theorem ridge_issued (hq : q < s.ridges.length) (bad : Bool) : ∃ x y w,
    (issued q b r m id bad faults s).ridge q = { s.ridge q with
      nextPos := s.now + 4 * boundSlots s b, bound := (s.ridge q).bound.erase b, passes := (s.ridge q).passes + 1
      pipe := (s.ridge q).pipe ++ [passEntry s.now m r b bad], active := x, inactive := y, window := w } := by
  obtain ⟨w, hw⟩ := ridge_leaveWindow (q := q) (b := b) (r := r) (m := m)
    (s := enterPipeline q b r m id bad faults s) (by simpa using hq)
  exact ⟨_, _, w, hw.trans (by rw [ridge_enterPipeline hq, Ridge.enter, activate_frame]; rfl)⟩

theorem fenced_issued (hq : q < s.ridges.length) (bad : Bool) :
    ((issued q b r m id bad faults s).ridge q).fenced = (s.ridge q).fenced := by
  obtain ⟨_, _, _, hridge⟩ := ridge_issued (b := b) (r := r) (m := m) (id := id) (faults := faults) hq bad
  rw [hridge]

/-! ## The instructions of a pass -/

variable {ridge : RidgeId}

theorem exec_passIssue_full (h : queueFull s ridge = true) (faults : RidgeFaults) :
    exec (.passIssue ridge faults) s = .next s :=
  show execPassIssue ridge faults s = _ from if_pos (by simp [h])

theorem exec_passIssue_ready (hopen : (s.ridge ridge).fenced = false) (hroom : queueFull s ridge = false)
    (hfirst : (boundOrder s ridge).find? (fun b => passReady s ridge b && atPosition s ridge (boundSlots s b)) = some b)
    (hr : s.ctx? b.ctx = some r) (hset : passSet s b.ctx b.pass = some (m, id)) (faults : RidgeFaults) :
    exec (.passIssue ridge faults) s = .next (issuePass ridge b r m id faults s) := by
  show execPassIssue ridge faults s = _
  simp [execPassIssue, hopen, hroom, hfirst, hr, hset]

theorem passFaults_eq_zero_of_code (hcode : (s.ridge q).canary = true → r.code ((s.ridge q).passes % 1024) < 256) :
    passFaults s q b r m ⟨false, false, false, 0⟩ = 0 := by
  have hcheck : ((s.ridge q).canary && canaryFails (s.ridge q).passes r false) = false := by
    cases hon : (s.ridge q).canary
    · rfl
    · exact (Bool.true_and _).trans (canaryFails_of_code (hcode hon))
  simp [passFaults, faultMask, hcheck]

theorem passFaults_ne_zero_of_parity (h : faults.parity = true) : passFaults s q b r m faults ≠ 0 := by
  simp [passFaults, faultMask, h]

theorem passPoisoned_eq_false (hmark : setMarked s id q = false) (hactive : (s.ridge q).active.poisoned = false)
    (hinactive : (s.ridge q).inactive.poisoned = false) : passPoisoned s q id = false := by
  simp [passPoisoned, hmark, apply_ite Buf.poisoned, hactive, hinactive]

/-- Putting a pass's partials into the rows: those of its record, stage and pass take them (R174). -/
theorem row_take_eq (e : QEntry) (x : Row) : x.take e =
    if x.ctx = e.ctx ∧ x.stage = e.stage ∧ x.pass = e.pass then
      { x with got := x.got ++ e.partials.map (fun p => (p.channel, e.logical, p.val)) } else x := by
  simp [Row.take, and_assoc]

theorem exec_partialsLeaveRidge_waits {e : QEntry} {rest : List QEntry} (hpipe : (s.ridge ridge).pipe = e :: rest)
    (h : s.now < e.queued) : exec (.partialsLeaveRidge ridge) s = .next s := by
  show execPartialsLeaveRidge ridge s = _
  simp [execPartialsLeaveRidge, hpipe, h]

theorem exec_partialsLeaveRidge_reduced {e : QEntry} {rest : List QEntry} (hpipe : (s.ridge ridge).pipe = e :: rest)
    (h : e.queued ≤ s.now) :
    exec (.partialsLeaveRidge ridge) s = .next (giveBack [.ridge ridge.val] (modRidge ridge (fun x =>
      { x with pipe := rest, transport := x.transport ++ [e] }) s)) := by
  show execPartialsLeaveRidge ridge s = _
  simp [execPartialsLeaveRidge, hpipe, Nat.not_lt.mpr h]

/-- The oldest entry on its way arrives: it is off the Ridge, and each row has taken what is its own (R174). -/
theorem exec_partialArrival_cons {e : QEntry} {rest : List QEntry} (hq : ridge.val < s.ridges.length)
    (htransport : (s.ridge ridge).transport = e :: rest) : ∃ t, exec (.partialArrival ridge) s = .next t ∧
      t.ridge ridge = { s.ridge ridge with transport := rest } ∧ t.rows = s.rows.map (Row.take e) := by
  show ∃ t, execPartialArrival ridge s = .next t ∧ _
  rw [execPartialArrival, htransport]
  exact ⟨_, rfl, ridge_modRidge_same _ hq, rfl⟩

/-- A pass in which parity finds a fault leaves its Ridge fenced and with no pass (R162). -/
theorem cleared_issuePass_parity (hq : q < s.ridges.length) (hopen : (s.ridge q).fenced = false)
    (hparity : faults.parity = true) : (issuePass q b r m id faults s).cleared q := by
  rw [issuePass_of_faults (passFaults_ne_zero_of_parity hparity)]
  exact cleared_fenceRidge (by simpa [issued] using hq) ((fenced_issued hq _).trans hopen) _

/-- Settles O26: a sound issue is its entry into the pipeline, a faulty one the fence of what it leaves, and the canary's
path ends at the code it decodes. -/
theorem passesRunFromIssueToTheirRow : Obligations.PassesRunFromIssueToTheirRow := by
  unfold Obligations.PassesRunFromIssueToTheirRow
  intro s q hshaped hopen
  obtain ⟨-, -, -, -, -, hridges, -⟩ := hshaped
  have hq : q.val < s.ridges.length := by rw [hridges]; exact q.isLt
  refine ⟨exec_passIssue_full, ?issue, ?leave, ?arrive⟩
  case issue =>
    intro b r m id hroom hfirst hr hset
    have hexec := exec_passIssue_ready hopen hroom hfirst hr hset
    refine ⟨?sound, ?parity⟩
    case sound =>
      intro hmark hactive hinactive hcode
      obtain ⟨_, _, _, hridge⟩ := ridge_issued hq false
      refine ⟨_, (hexec _).trans (congrArg _ (issuePass_of_sound (passFaults_eq_zero_of_code hcode)
        (passPoisoned_eq_false hmark hactive hinactive))), ?_⟩
      rw [hridge]
      exact ⟨rfl, hopen, rfl, rfl, rfl, (counter_leaveWindow _ _).trans (counter_enterPipeline s false)⟩
    case parity =>
      exact fun faults hparity => ⟨_, hexec faults, (cleared_issuePass_parity hq hopen hparity).ridge⟩
  case leave =>
    intro e rest hpipe
    exact ⟨fun hreduced => ⟨_, exec_partialsLeaveRidge_reduced hpipe hreduced, ridge_modRidge_same _ hq, rfl, rfl⟩,
      exec_partialsLeaveRidge_waits hpipe⟩
  case arrive =>
    intro e rest htransport
    obtain ⟨t, hexec, hridge, hrows⟩ := exec_partialArrival_cons hq htransport
    exact ⟨t, hexec, by rw [hridge], by simp only [hrows, ← row_take_eq]⟩

end Sys2Proof.Machine
end

section
/-! SUPPORT. Row adds at Cairn (R42, R176 to R179, R184): what an added row leaves, where final values go, an ECC fault. -/

namespace Sys2Proof.Machine

/-! ## Q-mode adds (R42) -/

section
variable {lo hi k : Int}

theorem limitInt_below (h : k < lo) : limitInt lo hi k = (lo, flagSat) := if_pos h

theorem limitInt_above (hlo : lo ≤ k) (hhi : hi < k) : limitInt lo hi k = (hi, flagSat) := by
  rw [limitInt, if_neg (not_lt.mpr hlo), if_pos hhi]

theorem limitInt_within (hlo : lo ≤ k) (hhi : k ≤ hi) : limitInt lo hi k = (k, 0) := by
  rw [limitInt, if_neg (not_lt.mpr hlo), if_neg (not_lt.mpr hhi)]

end

theorem or_flagSat_and_flagSat_ne_zero (n : Nat) : (n ||| flagSat) &&& flagSat ≠ 0 := by
  simp [flagSat]

theorem slotAdd_qmode {img : Image} (hmode : img.fmode = false) (recId pass c : Nat) (old add : Val) :
    (slotAdd img recId pass c old add).1 =
      ⟨(qSat (old.v + add.v)).1, old.flags ||| add.flags ||| (qSat (old.v + add.v)).2⟩ := by
  simp [slotAdd, hmode]

/-! ## Slots, records and tenants after a change -/

theorem slot_putSlot_same (i : Nat) (v : Val) (s : State) : (putSlot i v s).slot i = v :=
  (kvGet_kvPut Val.zero s.slots i i v).trans (if_pos rfl)

theorem ctx?_modCtx_same {s : State} {c : Nat} {r : RecCtx} (hr : s.ctx? c = some r) (f : RecCtx → RecCtx) :
    (modCtx c f s).ctx? c = some (f r) := by
  have hget : kvGet s.ctxs c = some r := hr
  simp [State.ctx?, kvGet_kvMod, hget]

theorem tenant_modTenant_same {s : State} {t : Nat} (ht : t < s.tenants.length) (f : Tenant → Tenant) :
    (modTenant t f s).tenant t = f (s.tenant t) := getD_modify_eq _ _ _ _ ht

/-- A change of one entry that a predicate does not see leaves the number of entries that meet it. -/
theorem countP_kvMod {α : Type} {p : Nat × α → Bool} {f : α → α} (hf : ∀ k v, p (k, f v) = p (k, v)) (l : Kv α) (k : Nat) :
    (kvMod l k f).countP p = l.countP p := by
  rw [kvMod, List.countP_map]
  refine List.countP_congr fun ⟨a, v⟩ _ => ?_
  by_cases ha : a = k <;> simp [ha, hf]

theorem stageModel_of_models {s t : State} (h : t.models = s.models) (r : RecCtx) : stageModel t r = stageModel s r := by
  simp only [stageModel, State.model?, State.handle?, h]

theorem outQueued_of_models {s t : State} (h : t.models = s.models) (r : RecCtx) : outQueued t r = outQueued s r := by
  simp only [outQueued, State.model?, h]

@[simp] theorem slots_count (k n : Nat) (s : State) : (count k n s).slots = s.slots := by rw [count_frame]

/-! ## What adding a row leaves (R176) -/

/-- One channel of a row adds into its slot; a SAT add is counted. -/
def addChannel (img : Image) (recId b : Nat) (x : Row) (s : State) (e : Nat × Nat) : State :=
  let y := slotAdd img recId x.pass e.1 (s.slot (b + e.1)) (x.sum img.fmode e.1)
  putSlot (b + e.1) y.1 (if y.2 then count (cCrn 7) 1 s else s)

section
variable (img : Image) (recId b : Nat) (x : Row) (s : State)

theorem addRow_eq_foldl : addRow img recId b x s = x.expected.foldl (addChannel img recId b x) s := rfl

theorem slots_addChannel (e : Nat × Nat) : (addChannel img recId b x s e).slots =
    kvPut Val.zero s.slots (b + e.1) (slotAdd img recId x.pass e.1 (s.slot (b + e.1)) (x.sum img.fmode e.1)).1 := by
  simp [addChannel, putSlot, apply_ite State.slots]

theorem addChannel_frame (e : Nat × Nat) : addChannel img recId b x s e =
    { s with slots := (addChannel img recId b x s e).slots, ctr := (addChannel img recId b x s e).ctr } := by
  unfold addChannel
  dsimp only
  split
  · rw [count_frame]
    rfl
  · rfl

/-- Adding a row changes slots and counters and nothing else. -/
theorem addRow_frame : addRow img recId b x s =
    { s with slots := (addRow img recId b x s).slots, ctr := (addRow img recId b x s).ctr } := by
  rw [addRow_eq_foldl]
  refine foldl_keeps (fun t => t = { s with slots := t.slots, ctr := t.ctr }) _ (fun t e ht => ?_) _ s rfl
  rw [addChannel_frame, ht]

variable {s}

/-- The slots that it leaves depend on the slots before alone. -/
theorem slots_addRow_congr {t : State} (h : t.slots = s.slots) :
    (addRow img recId b x t).slots = (addRow img recId b x s).slots := by
  simp only [addRow_eq_foldl]
  induction x.expected generalizing s t with
  | nil => exact h
  | cons e es ih => exact ih (by simp only [slots_addChannel, State.slot, h])

/-- A row of one channel leaves that channel's slot with the sum of its old value and the row's. -/
theorem slot_addRow_single {c w : Nat} (h : x.expected = [(c, w)]) : (addRow img recId b x s).slot (b + c) =
    (slotAdd img recId x.pass c (s.slot (b + c)) (x.sum img.fmode c)).1 := by
  rw [addRow_eq_foldl, h]
  exact slot_putSlot_same ..

end

/-- A complete row that has added: its values are in the block, its row is free, and the record's next row has its turn
(R176, R178). -/
def rowAdded (c : Nat) (r : RecCtx) (x : Row) (b : Nat) (img : Image) (s : State) : State :=
  let u := addRow img r.recId b x (count (cCrn 6) 1 s)
  modCtx c (fun r => { r with nextAdd := r.nextAdd + 1 }) (giveBack [.row] { u with rows := u.rows.erase x })

section
variable (c : Nat) (r : RecCtx) (x : Row) (b : Nat) (img : Image) (s : State)

/-- An added row changes the records, rows, returned credits, slots and counters, and nothing else. -/
theorem rowAdded_frame : rowAdded c r x b img s = { s with
    ctxs := kvMod s.ctxs c (fun r => { r with nextAdd := r.nextAdd + 1 }), rows := s.rows.erase x
    returned := s.returned ++ [.row], slots := (addRow img r.recId b x s).slots
    ctr := (rowAdded c r x b img s).ctr } := by
  have hslots := slots_addRow_congr img r.recId b x (s := s) (t := count (cCrn 6) 1 s) (slots_count ..)
  rw [← hslots, rowAdded, addRow_frame, count_frame]
  rfl

theorem rows_rowAdded : (rowAdded c r x b img s).rows = s.rows.erase x := by rw [rowAdded_frame]

theorem returned_rowAdded : (rowAdded c r x b img s).returned = s.returned ++ [.row] := by rw [rowAdded_frame]

theorem slots_rowAdded : (rowAdded c r x b img s).slots = (addRow img r.recId b x s).slots := by rw [rowAdded_frame]

theorem tenants_rowAdded : (rowAdded c r x b img s).tenants = s.tenants := by rw [rowAdded_frame]

theorem tenant_rowAdded (t : Nat) : (rowAdded c r x b img s).tenant t = s.tenant t := by
  rw [State.tenant, tenants_rowAdded]
  rfl

theorem models_rowAdded : (rowAdded c r x b img s).models = s.models := by rw [rowAdded_frame]

theorem slot_rowAdded (i : Nat) : (rowAdded c r x b img s).slot i = (addRow img r.recId b x s).slot i := by
  rw [State.slot, slots_rowAdded]
  rfl

theorem readBlock_rowAdded (k n : Nat) :
    readBlock (rowAdded c r x b img s) k n = readBlock (addRow img r.recId b x s) k n := by
  simp only [readBlock, slot_rowAdded]

/-- The queue to Summit and the Saddles has room after the add as before it. -/
theorem outRoom_rowAdded : outRoom (rowAdded c r x b img s) = outRoom s := by
  have hqueued : (rowAdded c r x b img s).ctxs.countP (fun p => outQueued (rowAdded c r x b img s) p.2) =
      s.ctxs.countP (fun p => outQueued s p.2) := by
    simp only [outQueued_of_models (models_rowAdded c r x b img s)]
    rw [rowAdded_frame]
    exact countP_kvMod (p := fun p => outQueued s p.2) (f := fun r => { r with nextAdd := r.nextAdd + 1 })
      (fun _ _ => rfl) _ _
  have hcredits : (rowAdded c r x b img s).unusable .summit = s.unusable .summit := by
    rw [State.unusable, returned_rowAdded, List.countP_append]
    rfl
  rw [outRoom, hqueued, hcredits, outRoom]

theorem ctx?_rowAdded {s : State} {r' : RecCtx} (hr : s.ctx? c = some r') :
    (rowAdded c r x b img s).ctx? c = some { r' with nextAdd := r'.nextAdd + 1 } := by
  rw [rowAdded_frame]
  exact ctx?_modCtx_same hr _

end

/-! ## Final values (R178) -/

section
variable {s : State} {c b : Nat} {r : RecCtx} {m head : Model}

theorem returnBlock_of_block (hr : s.ctx? c = some r) (hb : r.block = some b) : returnBlock c s =
    modCtx c (fun r => { r with block := none, blockReady := false, parking := false })
      (giveBack [.block r.tenant] (modTenant r.tenant (fun t => { t with freeBlocks := t.freeBlocks ++ [b] }) s)) := by
  simp [returnBlock, hr, hb]

/-- The final values of a record's last stage go to Summit with the block free again, or wait in the block. -/
theorem finalRow_last (hr : s.ctx? c = some r) (hm : stageModel s r = some m) (hhead : s.model? r.model = some head)
    (hsrc : r.src = .ethernet) (hlast : head.image.cascade[r.stage]? = none) (hb : r.block = some b) :
    finalRow c s = if outRoom s then modCtx c (fun x => { x with
        state := .summit, final := readBlock s b m.image.channels, term0At := some s.now }) (returnBlock c s)
      else s := by
  simp only [finalRow, hr, hm, hhead, hsrc, hlast, hb, Option.getD_some]
  cases outRoom s <;> rfl

end

/-! ## A fault of a record's unit (R179) -/

section
variable (c : Nat) (s : State)

theorem returnBlock_frame : returnBlock c s = { s with
    ctxs := (returnBlock c s).ctxs, tenants := (returnBlock c s).tenants, returned := (returnBlock c s).returned } := by
  unfold returnBlock
  split
  · rfl
  · split <;> rfl

@[simp] theorem slots_dropWork : (dropWork c s).slots = s.slots :=
  show (returnBlock c (giveBack (workCredits c s) s)).slots = s.slots by rw [returnBlock_frame]; rfl

@[simp] theorem evBuf_dropWork : (dropWork c s).evBuf = s.evBuf :=
  show (returnBlock c (giveBack (workCredits c s) s)).evBuf = s.evBuf by rw [returnBlock_frame]; rfl

variable {c s} {r : RecCtx}

theorem ctx?_returnBlock (hr : s.ctx? c = some r) : ∃ y, (returnBlock c s).ctx? c = some y := by
  cases hb : r.block with
  | none => exact ⟨r, by simp [returnBlock, hr, hb]⟩
  | some b => exact ⟨_, by rw [returnBlock_of_block hr hb]; exact ctx?_modCtx_same hr _⟩

theorem ctx?_dropWork (hr : s.ctx? c = some r) : ∃ y, (dropWork c s).ctx? c = some y := by
  obtain ⟨y, hy⟩ := ctx?_returnBlock (s := giveBack (workCredits c s) s) hr
  exact ⟨_, ctx?_modCtx_same hy (fun r => { r with prog := none, tableReads := [] })⟩

/-- A record of a port that ends with an error keeps its context with that end, and nothing is raised or added. -/
theorem endRecord_ethernet (hr : s.ctx? c = some r) (hsrc : r.src = .ethernet) (status reason : Nat) :
    (∃ y, (endRecord c status reason s).ctx? c = some y ∧ y.ended = some (status, reason)) ∧
    (endRecord c status reason s).slots = s.slots ∧ (endRecord c status reason s).evBuf = s.evBuf := by
  simp only [endRecord, hr, hsrc]
  generalize hu : (if isEthernet r && beforeCommit r then count (cPrt r.reply.port pAnswered) 1 s else s) = u
  have hframe : u = { s with ctr := u.ctr } := by
    rw [← hu]
    split
    · exact count_frame _ _ s
    · rfl
  obtain ⟨y, hy⟩ := ctx?_dropWork (s := u) (c := c) (r := r) (by rw [hframe]; exact hr)
  refine ⟨⟨_, ctx?_modCtx_same hy (fun r => { r with state := .summit, ended := some (status, reason) }), rfl⟩,
    ?slots, ?events⟩
  case slots => exact (slots_dropWork c u).trans (by rw [hframe])
  case events => exact (evBuf_dropWork c u).trans (by rw [hframe])

theorem cairnFault_ethernet (hr : s.ctx? c = some r) (hsrc : r.src = .ethernet)
    (hpolicy : (s.tenant r.tenant).quota.policy ≠ .replay) : cairnFault c s = endRecord c 5 0x40 s := by
  simp [cairnFault, hr, hsrc, hpolicy, unitFault]

/-- With room for its event the fault ends the record, and the event stands last in the engine's buffer. -/
theorem cairnFault_raise_ethernet (hr : s.ctx? c = some r) (hsrc : r.src = .ethernet)
    (hpolicy : (s.tenant r.tenant).quota.policy ≠ .replay) (hroom : s.evBuf.length < 512) (data : List Byte) :
    let t := cairnFault c (raise 0x0401 r.tenant data s)
    (∃ y, t.ctx? c = some y ∧ y.ended = some (5, 0x40)) ∧ t.slots = s.slots ∧
      t.evBuf = s.evBuf ++ [⟨0x0401, r.tenant, s.evSeq, s.time.tick, fitBytes data 16⟩] := by
  have hraised : (raise 0x0401 r.tenant data s).ctx? c = some r := by rw [raise_frame]; exact hr
  rw [cairnFault_ethernet hraised hsrc (by rw [raise_frame]; exact hpolicy)]
  obtain ⟨hended, hslots, hevents⟩ := endRecord_ethernet hraised hsrc 5 0x40
  exact ⟨hended, hslots.trans (by rw [raise_frame]), hevents.trans (by rw [raise_room _ _ _ _ hroom])⟩

end

/-! ## ROW_ADD -/

/-- A complete row whose turn it is, with its record's block ready for it. -/
structure RowReady (s : State) (ctx : CtxId) (r : RecCtx) (x : Row) (b : Nat) (m : Model) : Prop where
  record : s.ctx? ctx = some r
  turn : turnRow s ctx r = some x
  block : r.block = some b
  model : stageModel s r = some m
  complete : x.complete = true
  ready : r.blockReady = true
  stays : r.parking = false
  inRange : blockOk (s.tenant r.tenant).quota b = true

section
variable {s : State} {ctx : CtxId} {r : RecCtx} {x : Row} {b : Nat} {m head : Model}

theorem exec_rowAdd_burst (h : RowReady s ctx r x b m) (hburst : 0 < s.crnPort.burst) (eccFault : Bool) :
    exec (.rowAdd ctx eccFault) s = .next s := by
  obtain ⟨hr, hturn, hb, hm, -⟩ := h
  show execRowAdd ctx eccFault s = _
  simp [execRowAdd, hr, hturn, hb, hm, hburst]

theorem exec_rowAdd_ecc (h : RowReady s ctx r x b m) (hburst : s.crnPort.burst = 0) :
    exec (.rowAdd ctx true) s = .next (rangeFault ctx b x.pass 1 s) := by
  obtain ⟨hr, hturn, hb, hm, hcomplete, hready, hstays, hrange⟩ := h
  show execRowAdd ctx true s = _
  simp [execRowAdd, hr, hturn, hb, hm, hcomplete, hready, hstays, hburst, hrange]

theorem exec_rowAdd_adds (h : RowReady s ctx r x b m) (hburst : s.crnPort.burst = 0) :
    exec (.rowAdd ctx false) s = .next (if r.nextAdd + 1 = m.passCount then finalRow ctx (rowAdded ctx r x b m.image s)
      else rowAdded ctx r x b m.image s) := by
  obtain ⟨hr, hturn, hb, hm, hcomplete, hready, hstays, hrange⟩ := h
  show execRowAdd ctx false s = _
  simp [execRowAdd, rowAdded, hr, hturn, hb, hm, hcomplete, hready, hstays, hburst, hrange]

/-- With the last row of the last stage the final values leave the block, or wait there while the queue is full. -/
theorem exec_rowAdd_last (h : RowReady s ctx r x b m) (hburst : s.crnPort.burst = 0) (hrow : r.nextAdd + 1 = m.passCount)
    (hhead : s.model? r.model = some head) (hsrc : r.src = .ethernet) (hstage : head.image.cascade[r.stage]? = none) :
    let u := rowAdded ctx r x b m.image s
    exec (.rowAdd ctx false) s = .next (if outRoom s then modCtx ctx (fun y => { y with
        state := .summit, final := readBlock (addRow m.image r.recId b x s) b m.image.channels, term0At := some u.now })
      (returnBlock ctx u) else u) := by
  intro u
  have hmodels : u.models = s.models := models_rowAdded ctx r x b m.image s
  have hhead' : u.model? r.model = some head := by rw [State.model?, hmodels]; exact hhead
  rw [exec_rowAdd_adds h hburst, if_pos hrow, finalRow_last (ctx?_rowAdded ctx r x b m.image h.record)
    ((stageModel_of_models hmodels _).trans h.model) hhead' hsrc hstage h.block, outRoom_rowAdded, readBlock_rowAdded]

/-- The values that go to Summit stand in the record, whose block is at the tail of its tenant's free list (R178). -/
theorem summit_of_returnBlock {u : State} (hr : u.ctx? ctx = some r) (hb : r.block = some b)
    (ht : r.tenant < u.tenants.length) (vals : List Val) (now : Nat) :
    let t := modCtx ctx (fun y => { y with state := .summit, final := vals, term0At := some now }) (returnBlock ctx u)
    (∃ y, t.ctx? ctx = some y ∧ y.state = .summit ∧ y.block = none ∧ y.final = vals) ∧
      (t.tenant r.tenant).freeBlocks = (u.tenant r.tenant).freeBlocks ++ [b] := by
  rw [returnBlock_of_block hr hb]
  exact ⟨⟨_, ctx?_modCtx_same (ctx?_modCtx_same hr _) _, rfl, rfl, rfl⟩,
    congrArg Tenant.freeBlocks (tenant_modTenant_same ht _)⟩

/-- A Cairn fault of a record of a port, with room for its event, ends the record and leaves the slots as they were
(R179). -/
theorem rangeFault_ethernet (hr : s.ctx? ctx = some r) (hsrc : r.src = .ethernet)
    (hpolicy : (s.tenant r.tenant).quota.policy ≠ .replay) (hroom : s.evBuf.length < 512) (slot pass cause : Nat) :
    (∃ y, (rangeFault ctx slot pass cause s).ctx? ctx = some y ∧ y.ended = some (5, 0x40)) ∧
    (rangeFault ctx slot pass cause s).slots = s.slots ∧
    (rangeFault ctx slot pass cause s).evBuf = s.evBuf ++ [⟨0x0401, r.tenant, s.evSeq, s.time.tick,
      fitBytes (leBytes 2 slot ++ leBytes 2 pass ++ leBytes 1 cause ++ zeros 3 ++ leBytes 8 r.recId) 16⟩] := by
  simp only [rangeFault, hr]
  exact cairnFault_raise_ethernet hr hsrc hpolicy hroom _

end

/-- Settles O27: a row's turn is the wait for a burst, its add, the way of its final values or the fault; a Q-mode add is
the limit of the exact sum. -/
theorem rowsAddInPassOrderAndSaturate : Obligations.RowsAddInPassOrderAndSaturate := by
  unfold Obligations.RowsAddInPassOrderAndSaturate
  refine ⟨?rows, ?qmode⟩
  case rows =>
    intro s ctx r x b m head hshaped hr hturn hb hm hhead hcomplete hready hstays hrange
    have h : RowReady s ctx r x b m := ⟨hr, hturn, hb, hm, hcomplete, hready, hstays, hrange⟩
    have hctx := ctx?_rowAdded ctx r x b m.image hr
    refine ⟨exec_rowAdd_burst h, ?more, ?last, ?ecc⟩
    case more =>
      intro hburst hmore
      refine ⟨_, exec_rowAdd_adds h hburst, ?_⟩
      rw [if_neg hmore.ne]
      exact ⟨rows_rowAdded .., returned_rowAdded .., hctx, slots_rowAdded ..,
        fun c w hone => (slot_rowAdded ..).trans (slot_addRow_single _ _ _ _ hone)⟩
    case last =>
      intro hburst hrow hsrc hstage htenant _
      have hexec := exec_rowAdd_last h hburst hrow hhead hsrc hstage
      refine ⟨?room, ?full⟩
      case room =>
        intro hroom
        obtain ⟨-, -, -, -, -, -, -, -, -, htenants, -⟩ := hshaped
        obtain ⟨⟨y, hy, hstate, hblock, hfinal⟩, hfree⟩ := summit_of_returnBlock hctx hb
          (by rw [tenants_rowAdded, htenants]; exact htenant)
          (readBlock (addRow m.image r.recId b x s) b m.image.channels) (rowAdded ctx r x b m.image s).now
        exact ⟨_, y, hexec.trans (by rw [if_pos hroom]), hy, hstate, hblock, hfinal,
          hfree.trans (by rw [tenant_rowAdded])⟩
      case full =>
        intro hfull
        exact ⟨_, hexec.trans (by rw [if_neg (ne_true_of_eq_false hfull)]), hctx, slots_rowAdded .., rows_rowAdded ..⟩
    case ecc =>
      exact fun hburst hsrc hpolicy hroom =>
        ⟨_, exec_rowAdd_ecc h hburst, rangeFault_ethernet hr hsrc hpolicy hroom b x.pass 1⟩
  case qmode =>
    rintro img recId pass c old add v hmode rfl
    rw [slotAdd_qmode hmode, qSat]
    refine ⟨fun hlow => ?_, fun hhigh => ?_, fun hlo hhi => ?_⟩
    · rw [limitInt_below hlow]
      exact ⟨rfl, or_flagSat_and_flagSat_ne_zero _⟩
    · rw [limitInt_above (by omega) hhigh]
      exact ⟨rfl, or_flagSat_and_flagSat_ne_zero _⟩
    · rw [limitInt_within hlo hhi]
      exact ⟨rfl, Nat.or_zero _⟩

end Sys2Proof.Machine
end

section
/-! SUPPORT. The numbers of the units (State.shaped) as counts of lists: what decides them, and what branches, folds and updates
of one part leave of them. Each operation of the model then has one lemma, that its result is shaped just when the state
before was; the few that write a unit anew, whatever it held, keep a shaped state shaped. -/

namespace Sys2Proof.Machine

/-! ## A state is shaped by the lengths of its lists -/

/-- The lengths of a Saddle's credit lists (R328). -/
def Saddle.creditCounts (x : Saddle) : List Nat :=
  [x.pools.length, x.totals.length, x.sent.length, x.rcvd.length, x.freed.length]

/-- The numbers of a function's wait slots and MSI-X vectors (R372). -/
def FnSt.slotCounts (x : FnSt) : Nat × Nat := (x.waits.length, x.msix.length)

def saddleCounts (xs : List Saddle) : List (List Nat) := xs.map Saddle.creditCounts

def fnCounts (xs : List FnSt) : List (Nat × Nat) := xs.map FnSt.slotCounts

/-- The counts that a shaped state has. -/
def unitCounts (ports eth trhQ banks walkers ridges sensors streams tenants : Nat) (saddles : List (List Nat))
    (fns : List (Nat × Nat)) : Prop :=
  ports = 8 ∧ eth = 2 ∧ trhQ = 2 ∧ banks = 16 ∧ walkers = 8 ∧ ridges = 68 ∧ sensors = 16 ∧ streams = 264 ∧ tenants = 32 ∧
    saddles = List.replicate 16 [4, 4, 4, 4, 4] ∧ fns = (List.range 33).map (fun f => (16, msixCount f))

theorem saddleCounts_eq_iff (xs : List Saddle) : saddleCounts xs = List.replicate 16 [4, 4, 4, 4, 4] ↔
    xs.length = 16 ∧ ∀ x ∈ xs, x.pools.length = 4 ∧ x.totals.length = 4 ∧ x.sent.length = 4 ∧ x.rcvd.length = 4 ∧
      x.freed.length = 4 := by
  simp only [saddleCounts, List.eq_replicate_iff, List.length_map, List.forall_mem_map, Saddle.creditCounts, List.cons.injEq,
    and_true]

theorem fnCounts_eq_iff (xs : List FnSt) : fnCounts xs = (List.range 33).map (fun f => (16, msixCount f)) ↔
    xs.length = 33 ∧ ∀ f < 33, (xs.getD f (FnSt.reset f)).waits.length = 16 ∧
      (xs.getD f (FnSt.reset f)).msix.length = msixCount f := by
  rw [fnCounts, List.ext_getElem_iff]
  simp only [List.length_map, List.length_range, List.getElem_map, List.getElem_range, FnSt.slotCounts, Prod.mk.injEq]
  refine and_congr_right fun hlen => ⟨fun h f hf => ?_, fun h f hf _ => ?_⟩
  · simpa [List.getD_eq_getElem?_getD, hlen, hf] using h f (by omega) hf
  · simpa [List.getD_eq_getElem?_getD, hf] using h f (by omega)

theorem shaped_iff (s : State) : s.shaped ↔ unitCounts s.ports.length s.eth.length s.trhQ.length s.banks.length
    s.walkers.length s.ridges.length s.sensors.length s.dma.streams.length s.tenants.length
    (saddleCounts s.zth.saddles) (fnCounts s.fns) := by
  rw [unitCounts, fnCounts_eq_iff, saddleCounts_eq_iff, State.shaped]
  simp only [State.fn]
  tauto

/-- A state written out is shaped when the lists it is written with are. -/
@[simp] theorem shaped_mk (pending time boot ports eth endpoints ctr ctxs freeCtx trhQ stats banks walkers progs ridges slots rows
    restoring crnPort returned disp sensors mem models nextModel load feedback refits searches waymarks wmkUnit dma zth tenants
    fns taken due evBuf evSeq evLog mismatches releasing out freeIdx) :
    (State.mk pending time boot ports eth endpoints ctr ctxs freeCtx trhQ stats banks walkers progs ridges slots rows
      restoring crnPort returned disp sensors mem models nextModel load feedback refits searches waymarks wmkUnit dma zth
      tenants fns taken due evBuf evSeq evLog mismatches releasing out freeIdx).shaped ↔
    unitCounts ports.length eth.length trhQ.length banks.length walkers.length ridges.length sensors.length
      dma.streams.length tenants.length (saddleCounts zth.saddles) (fnCounts fns) := shaped_iff _

@[simp] theorem unitCounts_self (s : State) : unitCounts s.ports.length s.eth.length s.trhQ.length s.banks.length
    s.walkers.length s.ridges.length s.sensors.length s.dma.streams.length s.tenants.length
    (saddleCounts s.zth.saddles) (fnCounts s.fns) ↔ s.shaped := (shaped_iff s).symm

/-! ## A change of one unit, or of all -/

section
variable {f : FnSt → FnSt} (hw : ∀ x, (f x).waits.length = x.waits.length) (hm : ∀ x, (f x).msix.length = x.msix.length)
  (xs : List FnSt)
include hw hm

@[simp] theorem fnCounts_modify (i : Nat) : fnCounts (xs.modify i f) = fnCounts xs :=
  map_modify_of_keeps (fun x => Prod.ext (hw x) (hm x)) xs i

@[simp] theorem fnCounts_map : fnCounts (xs.map f) = fnCounts xs := by
  rw [fnCounts, List.map_map]
  exact List.map_congr_left fun x _ => Prod.ext (hw x) (hm x)

end

section
variable {f : Saddle → Saddle} (hp : ∀ x, (f x).pools.length = x.pools.length)
  (ht : ∀ x, (f x).totals.length = x.totals.length) (hs : ∀ x, (f x).sent.length = x.sent.length)
  (hr : ∀ x, (f x).rcvd.length = x.rcvd.length) (hf : ∀ x, (f x).freed.length = x.freed.length) (xs : List Saddle)
include hp ht hs hr hf

theorem creditCounts_eq (x : Saddle) : (f x).creditCounts = x.creditCounts := by
  simp only [Saddle.creditCounts, hp, ht, hs, hr, hf]

@[simp] theorem saddleCounts_modify (i : Nat) : saddleCounts (xs.modify i f) = saddleCounts xs :=
  map_modify_of_keeps (creditCounts_eq hp ht hs hr hf) xs i

@[simp] theorem saddleCounts_map : saddleCounts (xs.map f) = saddleCounts xs := by
  rw [saddleCounts, List.map_map]
  exact List.map_congr_left fun x _ => creditCounts_eq hp ht hs hr hf x

end

/-- A change of function `i` that leaves it its wait slots and vectors keeps the numbers. -/
theorem shaped_modFn_of {s : State} (h : s.shaped) {i : Nat} {f : FnSt → FnSt}
    (hf : ∀ x, x.waits.length = 16 → x.msix.length = msixCount i →
      (f x).waits.length = 16 ∧ (f x).msix.length = msixCount i) : (modFn i f s).shaped := by
  obtain ⟨h1, h2, h3, h4, h5, h6, h7, h8, h9, h10, h11, h12, h13⟩ := h
  refine ⟨h1, h2, h3, h4, h5, h6, h7, h8, h9, h10, by simpa using h11, fun g hg => ?_, h13⟩
  obtain ⟨hw, hm⟩ := h12 g hg
  by_cases hi : g = i
  · subst hi
    have hget : (modFn g f s).fn g = f (s.fn g) := getD_modify_eq _ _ _ _ (by omega)
    rw [hget]
    exact hf _ hw hm
  · have hget : (modFn i f s).fn g = s.fn g := getD_modify_ne _ _ _ _ _ hi
    rw [hget]
    exact ⟨hw, hm⟩

/-! ## Branches, folds and pairs -/

@[simp] theorem shaped_ite (p : Prop) [Decidable p] (s t : State) :
    (if p then s else t).shaped ↔ if p then s.shaped else t.shaped := by split <;> rfl

@[simp] theorem shaped_ite_fst {α : Type} (p : Prop) [Decidable p] (a b : State × α) :
    (if p then a else b).1.shaped ↔ if p then a.1.shaped else b.1.shaped := by split <;> rfl

@[simp] theorem shaped_ite_snd {α : Type} (p : Prop) [Decidable p] (a b : α × State) :
    (if p then a else b).2.shaped ↔ if p then a.2.shaped else b.2.shaped := by split <;> rfl

@[simp] theorem shaped_option_elim {α : Type} (o : Option α) (f : α → State) (s : State)
    (hf : ∀ a, (f a).shaped ↔ s.shaped) : (o.elim s f).shaped ↔ s.shaped := by
  cases o with
  | none => rfl
  | some a => exact hf a

/-- A fold keeps the numbers that each of its steps keeps; `v` finds the state in what the fold carries. -/
theorem shaped_foldl_of {α β : Type} (v : α → State) (g : α → β → α) (hg : ∀ a x, (v (g a x)).shaped ↔ (v a).shaped)
    (l : List β) (a : α) : (v (l.foldl g a)).shaped ↔ (v a).shaped := by
  induction l generalizing a with
  | nil => rfl
  | cons x l ih => exact (ih (g a x)).trans (hg a x)

@[simp] theorem shaped_foldl {β : Type} (g : State → β → State) (hg : ∀ s x, (g s x).shaped ↔ s.shaped) (l : List β)
    (s : State) : (l.foldl g s).shaped ↔ s.shaped := shaped_foldl_of id g hg l s

@[simp] theorem shaped_foldl_fst {β γ : Type} (g : State × γ → β → State × γ)
    (hg : ∀ a x, (g a x).1.shaped ↔ a.1.shaped) (l : List β) (a : State × γ) : (l.foldl g a).1.shaped ↔ a.1.shaped :=
  shaped_foldl_of Prod.fst g hg l a

@[simp] theorem shaped_foldl_snd {β γ : Type} (g : γ × State → β → γ × State)
    (hg : ∀ a x, (g a x).2.shaped ↔ a.2.shaped) (l : List β) (a : γ × State) : (l.foldl g a).2.shaped ↔ a.2.shaped :=
  shaped_foldl_of Prod.snd g hg l a

theorem shaped_of_eq_mk {α : Type} {x : α × State} {a : α} {u : State} (hx : x = (a, u)) : u.shaped ↔ x.2.shaped := by
  rw [hx]

/-! ## Updates of one part of the state -/

section
variable (s : State)

@[simp] theorem shaped_modFn_iff (i : Nat) (f : FnSt → FnSt) (hw : ∀ x, (f x).waits.length = x.waits.length)
    (hm : ∀ x, (f x).msix.length = x.msix.length) : (modFn i f s).shaped ↔ s.shaped := by simp [modFn, hw, hm]

@[simp] theorem shaped_modZth_iff (f : ZthSt → ZthSt) (h : ∀ z, saddleCounts (f z).saddles = saddleCounts z.saddles) :
    (modZth f s).shaped ↔ s.shaped := by simp [modZth, h]

@[simp] theorem shaped_modSaddle_iff (i : Nat) (f : Saddle → Saddle) (hp : ∀ x, (f x).pools.length = x.pools.length)
    (ht : ∀ x, (f x).totals.length = x.totals.length) (hs : ∀ x, (f x).sent.length = x.sent.length)
    (hr : ∀ x, (f x).rcvd.length = x.rcvd.length) (hf : ∀ x, (f x).freed.length = x.freed.length) :
    (modSaddle i f s).shaped ↔ s.shaped := by simp [modSaddle, hp, ht, hs, hr, hf]

@[simp] theorem shaped_modDma_iff (f : DmaSt → DmaSt) (h : ∀ d, (f d).streams.length = d.streams.length) :
    (modDma f s).shaped ↔ s.shaped := shaped_modDma s f (h s.dma)

@[simp] theorem shaped_modMbx_iff (i : Nat) (f : Mailbox → Mailbox) : (modMbx i f s).shaped ↔ s.shaped := by simp [modMbx]

@[simp] theorem shaped_setCause_iff (i m : Nat) : (setCause i m s).shaped ↔ s.shaped := by simp [setCause]

@[simp] theorem shaped_fireVector_iff (i v : Nat) : (fireVector i v s).shaped ↔ s.shaped := by simp [fireVector]

@[simp] theorem shaped_markLost_iff (i : Nat) : (markLost i s).shaped ↔ s.shaped := by
  simp [markLost, apply_ite FnSt.waits, apply_ite FnSt.msix]

@[simp] theorem shaped_raise_iff (c t : Nat) (d : List Byte) : (raise c t d s).shaped ↔ s.shaped := by simp [raise]

end

/-! ## Outcomes -/

/-- A next state that the outcome gives has the units. -/
def keepsUnits (o : Host.Outcome State Fault Refusal) : Prop := ∀ t, o = .next t → t.shaped

@[simp] theorem keepsUnits_next (s : State) : keepsUnits (.next s) ↔ s.shaped := by simp [keepsUnits]

@[simp] theorem keepsUnits_ite (p : Prop) [Decidable p] (a b : Host.Outcome State Fault Refusal) :
    keepsUnits (if p then a else b) ↔ if p then keepsUnits a else keepsUnits b := by split <;> rfl

end Sys2Proof.Machine
end

section
/-! SUPPORT. What keeps the numbers of the units. Of the shared operations, memory and the record path as far as the lanes
(chapters 3 to 5, 11). -/

namespace Sys2Proof.Machine

variable (s : State)

/-! ## Time, interrupts, events and record contexts -/

@[simp] theorem shaped_passTime (n : Nat) : (passTime n s).shaped ↔ s.shaped := by simp [passTime]
@[simp] theorem shaped_raiseCycle (evs : List Raised) : (raiseCycle evs s).shaped ↔ s.shaped := by simp [raiseCycle]
@[simp] theorem shaped_nextFree (w : Nat) : (nextFree w s).2.shaped ↔ s.shaped := by simp [nextFree]
@[simp] theorem shaped_charge (n : Nat) : (charge n s).shaped ↔ s.shaped := by simp [charge]
@[simp] theorem shaped_chargeWork (k nominal : Nat) : (chargeWork k nominal s).shaped ↔ s.shaped := by simp [chargeWork]

/-! ## Massif: plots, ECC, Col and self-heal -/

@[simp] theorem shaped_setPlot (p : Nat) (k : PlotKind × Option Nat) : (setPlot p k s).shaped ↔ s.shaped := by simp [setPlot]
@[simp] theorem shaped_takePlot (p : Nat) (k : PlotKind × Option Nat) : (takePlot p k s).shaped ↔ s.shaped := by simp [takePlot]
@[simp] theorem shaped_ownerFault (req t a : Nat) : (ownerFault req t a s).shaped ↔ s.shaped := by simp [ownerFault]

@[simp] theorem shaped_queueHeal (a : Nat) (evs : List Raised) : (queueHeal a s evs).1.shaped ↔ s.shaped := by
  unfold queueHeal
  split <;> simp

@[simp] theorem shaped_readWord (ecc : List EccFind) (req : Nat) (patrol : Bool) (a i : Nat) (se : State × List Raised) :
    (readWord ecc req patrol a i se).1.shaped ↔ se.1.shaped := by simp [readWord]
@[simp] theorem shaped_readWords (ecc : List EccFind) (req : Nat) (patrol : Bool) (a n : Nat) :
    (readWords ecc req patrol a n s).1.shaped ↔ s.shaped := by simp [readWords]
@[simp] theorem shaped_readMem (ecc : List EccFind) (req a n : Nat) :
    (readMem ecc req a n s).shaped ↔ s.shaped := by simp [readMem]
@[simp] theorem shaped_readWordsAt (ecc : List EccFind) (as : List Nat) :
    (readWordsAt ecc as s).shaped ↔ s.shaped := by simp [readWordsAt]
@[simp] theorem shaped_patrolRead (ecc : List EccFind) (a n : Nat) :
    (patrolRead ecc a n s).shaped ↔ s.shaped := by simp [patrolRead]
@[simp] theorem shaped_writeWord (ecc : List EccFind) (req a : Nat) (bs : List Byte) (i : Nat) :
    (writeWord ecc req a bs i s).2.shaped ↔ s.shaped := by simp [writeWord]
@[simp] theorem shaped_writeAll (ecc : List EccFind) (req a : Nat) (bs : List Byte) :
    (writeAll ecc req a bs s).2.shaped ↔ s.shaped := by simp [writeAll]

@[simp] theorem shaped_writeStop (ecc : List EccFind) (req a : Nat) (bs : List Byte) (k i : Nat) :
    (writeStop ecc req a bs k i s).2.shaped ↔ s.shaped := by
  induction k generalizing i s with
  | zero => rfl
  | succ k ih =>
    simp only [writeStop]
    split <;> simp [ih]

@[simp] theorem shaped_writeWhole (a : Nat) (bs : List Byte) : (writeWhole a bs s).shaped ↔ s.shaped := by simp [writeWhole]
@[simp] theorem shaped_zeroRange (a n : Nat) : (zeroRange a n s).shaped ↔ s.shaped := by simp [zeroRange]
@[simp] theorem shaped_colMiss (req model line : Nat) : (colMiss req model line s).shaped ↔ s.shaped := by simp [colMiss]

@[simp] theorem shaped_colRead (req model line : Nat) : (colRead req model line s).shaped ↔ s.shaped := by
  unfold colRead
  dsimp only
  split <;> simp

@[simp] theorem shaped_clearRefused (model : Nat) (lines : List Nat) :
    (clearRefused model lines s).shaped ↔ s.shaped := by simp [clearRefused]
@[simp] theorem shaped_colInvalidate (a n : Nat) : (colInvalidate a n s).shaped ↔ s.shaped := by simp [colInvalidate]
@[simp] theorem shaped_freePlot (p : Nat) : (freePlot p s).shaped ↔ s.shaped := by simp [freePlot]
@[simp] theorem shaped_releasePlots (ps : List Nat) : (releasePlots ps s).shaped ↔ s.shaped := by simp [releasePlots]
@[simp] theorem shaped_patrolCharge (sram : Bool) : (patrolCharge sram s).shaped ↔ s.shaped := by simp [patrolCharge]

@[simp] theorem shaped_writeUnits (m : Model) (us : List (Nat × Nat × Nat × Nat × Nat)) :
    (writeUnits m us s).shaped ↔ s.shaped :=
  shaped_foldl _ (fun s u => by split <;> simp) _ _

@[simp] theorem shaped_zeroUnits (us : List (Nat × Nat × Nat × Nat × Nat)) :
    (zeroUnits us s).shaped ↔ s.shaped := by simp [zeroUnits]

@[simp] theorem shaped_refreshUnits (id : Nat) : (refreshUnits id s).shaped ↔ s.shaped := by
  unfold refreshUnits
  split
  · rfl
  · refine shaped_foldl _ (fun s u => ?_) _ _
    split
    · rfl
    · simp

@[simp] theorem shaped_fetchBlock (m : Model) (off : Nat) : (fetchBlock m off s).shaped ↔ s.shaped := by simp [fetchBlock]
@[simp] theorem shaped_startHeals : (startHeals s).shaped ↔ s.shaped :=
  (shaped_foldl _ (fun s b => by split <;> simp) _ _).trans (by simp)
@[simp] theorem shaped_healFail (m : Model) (off reason : Nat) :
    (healFail m off reason s).shaped ↔ s.shaped := by simp [healFail]

@[simp] theorem shaped_settleHeals : (settleHeals s).shaped ↔ s.shaped := by
  refine (shaped_foldl _ (fun s b => ?_) _ _).trans (shaped_modMem s _)
  split <;> simp

section
variable {s} (h : s.shaped)
include h

theorem keepsUnits_execColCacheFill (line : Nat) (ecc : List EccFind) (parityError : Bool) :
    keepsUnits (execColCacheFill line ecc parityError s) := by
  unfold execColCacheFill
  split <;> simp [h]

theorem keepsUnits_execPatrolStep (ecc : List EccFind) : keepsUnits (execPatrolStep ecc s) := by simp [execPatrolStep, h]

theorem keepsUnits_execHealBlockReadDone (data : Option (List Byte)) (ecc : List EccFind) :
    keepsUnits (execHealBlockReadDone data s ecc) := by
  unfold execHealBlockReadDone
  split
  · simp [h]
  · split
    · simp [h]
    · split
      · simp [h]
      · split
        · simp [h]
        · dsimp only
          split <;> simp [h]

end

/-! ## Frames and control traffic -/

@[simp] theorem shaped_readyFrame (r : Reply) (kind : TxKind) (ctx : Option Nat) (msg : List Byte) (accepted : Nat)
    (scored : Bool) : (readyFrame r kind ctx msg accepted scored s).shaped ↔ s.shaped := by simp [readyFrame]
@[simp] theorem shaped_ctlAdmit (l : Nat) : (ctlAdmit l s).2.shaped ↔ s.shaped := by simp [ctlAdmit]
@[simp] theorem shaped_receiveControl (l : Nat) (asks isArp : Bool) (frame : List Byte) :
    (receiveControl l asks isArp frame s).shaped ↔ s.shaped := by simp [receiveControl]
@[simp] theorem shaped_sendControl (l : Nat) (vlan : Option (Nat × Nat)) (bytes : List Byte) :
    (sendControl l vlan bytes s).shaped ↔ s.shaped := by simp [sendControl]

section
variable {s} (h : s.shaped)
include h

theorem keepsUnits_execArpReplySend (port : LPort) : keepsUnits (execArpReplySend port s) := by
  unfold execArpReplySend
  dsimp only
  split <;> simp [h]

theorem keepsUnits_execNeighbourAdvertisementSend (port : LPort) : keepsUnits (execNeighbourAdvertisementSend port s) := by
  unfold execNeighbourAdvertisementSend
  dsimp only
  split <;> simp [h]

end

/-! ## Fabric messages -/

@[simp] theorem shaped_queueOut (i : Nat) (m : Msg) : (queueOut i m s).shaped ↔ s.shaped := by simp [queueOut]
@[simp] theorem shaped_deliver (m : Msg) : (deliver m s).shaped ↔ s.shaped := by simp [deliver]

@[simp] theorem shaped_routeMsg (m : Msg) : (routeMsg m s).2.shaped ↔ s.shaped := by
  unfold routeMsg
  dsimp only
  split
  · split <;> simp
  · split
    · simp
    · split
      · simp
      · split <;> simp

@[simp] theorem shaped_nakEvent (saddle op reason dst tag wmk tenant dtenant : Nat) :
    (nakEvent saddle op reason dst tag wmk tenant dtenant s).shaped ↔ s.shaped := by simp [nakEvent]
@[simp] theorem shaped_refuseMsg (m : Msg) (reason : Nat) : (refuseMsg m reason s).shaped ↔ s.shaped := by simp [refuseMsg]

@[simp] theorem shaped_forwardMsg (m : Msg) : (forwardMsg m s).shaped ↔ s.shaped := by
  unfold forwardMsg
  dsimp only
  split <;> simp

@[simp] theorem shaped_sendMsg (bytes : List Byte) (ctx : Option Nat) : (sendMsg bytes ctx s).2.shaped ↔ s.shaped := by
  unfold sendMsg
  dsimp only
  split <;> simp

@[simp] theorem shaped_send (bytes : List Byte) : (send bytes s).shaped ↔ s.shaped := by simp [send]

/-! ## The end of a record -/

@[simp] theorem shaped_returnBlock (c : Nat) : (returnBlock c s).shaped ↔ s.shaped := by
  unfold returnBlock
  split
  · rfl
  · split <;> simp

@[simp] theorem shaped_dropWork (c : Nat) : (dropWork c s).shaped ↔ s.shaped := by
  simp [dropWork, -ridges_returnBlock]
@[simp] theorem shaped_freeContext (c : Nat) : (freeContext c s).shaped ↔ s.shaped := by simp [freeContext]

@[simp] theorem shaped_freeContext? (c : Option Nat) : (freeContext? c s).shaped ↔ s.shaped := by
  unfold freeContext?
  split <;> simp

@[simp] theorem shaped_stageAnswers (g : Nat) : (stageAnswers g s).shaped ↔ s.shaped := by simp [stageAnswers]
@[simp] theorem shaped_ringAnswer (g number element : Nat) (reason : Bool) (bytes : List Byte) (ctx : Option Nat) :
    (ringAnswer g number element reason bytes ctx s).shaped ↔ s.shaped := by simp [ringAnswer]
@[simp] theorem shaped_dropCandidates (slot : Nat) : (dropCandidates slot s).shaped ↔ s.shaped := by simp [dropCandidates]

@[simp] theorem shaped_endSearch (slot : Nat) (timeLimit : Bool) : (endSearch slot timeLimit s).shaped ↔ s.shaped := by
  unfold endSearch
  split
  · rfl
  · split
    · split
      · split <;> simp
      · split <;> simp
    · split
      · split <;> simp
      · split <;> simp

@[simp] theorem shaped_dropSearch (slot : Nat) : (dropSearch slot s).shaped ↔ s.shaped := by simp [dropSearch]
@[simp] theorem shaped_sendTerm (c : Nat) (msg : List Byte) : (sendTerm c msg s).shaped ↔ s.shaped := by simp [sendTerm]

@[simp] theorem shaped_endRecord (c status reason : Nat) : (endRecord c status reason s).shaped ↔ s.shaped := by
  unfold endRecord
  split
  · rfl
  · split
    · split <;> simp
    · split <;> simp

@[simp] theorem shaped_unitFault (c reason : Nat) : (unitFault c reason s).shaped ↔ s.shaped := by simp [unitFault]

@[simp] theorem shaped_repeatOr (c : Nat) (isPoison : Bool) (again : State → State) (hagain : ∀ t,
    (again t).shaped ↔ t.shaped) : (repeatOr c isPoison again s).shaped ↔ s.shaped := by
  unfold repeatOr
  split <;> simp [hagain]

@[simp] theorem shaped_restartRecord (c : Nat) : (restartRecord c s).shaped ↔ s.shaped := by simp [restartRecord]

@[simp] theorem shaped_cairnFault (c : Nat) : (cairnFault c s).shaped ↔ s.shaped := by
  unfold cairnFault
  split
  · rfl
  · split <;> simp

@[simp] theorem shaped_modelPoison (c : Nat) (never : Bool) : (modelPoison c never s).shaped ↔ s.shaped := by
  unfold modelPoison
  split <;> simp

/-! ## Trailhead -/

@[simp] theorem shaped_applyStats (id pipe : Nat) (us : List StatUpd) :
    (applyStats id pipe us s).shaped ↔ s.shaped := by simp [applyStats]

theorem shaped_takeCtx {r : RecCtx} {s : State} {y : Nat × State} (h : takeCtx r s = some y) : y.2.shaped ↔ s.shaped := by
  unfold takeCtx at h
  split at h
  · cases h
  · cases h
    simp

@[simp] theorem shaped_rateAllows (t : Nat) : (rateAllows t s).2.shaped ↔ s.shaped := by simp [rateAllows]
@[simp] theorem shaped_earlyAnswer (t : Nat) (r : Reply) (h : Hdr) (status reason offset : Nat) :
    (earlyAnswer t r h status reason offset s).shaped ↔ s.shaped := by simp [earlyAnswer]
@[simp] theorem shaped_commitRecord (c pipe : Nat) (m : Model) (b : Body) (reason : Option ReasonReq) :
    (commitRecord c pipe m b reason s).shaped ↔ s.shaped := by simp [commitRecord]

@[simp] theorem shaped_malformed (c : Nat) (r : RecCtx) (reason offset : Nat) :
    (malformed c r reason offset s).shaped ↔ s.shaped := by
  unfold malformed
  split <;> simp

@[simp] theorem shaped_countIgnored (r : RecCtx) (b : BodyIn) : (countIgnored r b s).shaped ↔ s.shaped := by
  unfold countIgnored
  split <;> simp

@[simp] theorem shaped_tableFind (b : BodyIn) (m : Model) (i : Nat) :
    (tableFind b m i s).shaped ↔ s.shaped := by simp [tableFind]
@[simp] theorem shaped_bodyPoison (c : Nat) (m : Model) (b : BodyIn) (tables : List Nat) :
    (bodyPoison c m b tables s).shaped ↔ s.shaped := by simp [bodyPoison]

@[simp] theorem shaped_decideBody (c : Nat) (b : BodyIn) : (decideBody c b s).shaped ↔ s.shaped := by
  unfold decideBody
  split
  · simp
  · split <;> simp

@[simp] theorem shaped_drainLane (n pipe : Nat) : (drainLane n pipe s).shaped ↔ s.shaped := by
  induction n generalizing s with
  | zero => rfl
  | succ n ih =>
    unfold drainLane
    split
    · rfl
    · split <;> simp [ih]

@[simp] theorem shaped_runLane (pipe : Nat) : (runLane pipe s).shaped ↔ s.shaped := by simp [runLane]
@[simp] theorem shaped_enterLane (c : Nat) (m : Model) (b : BodyIn) :
    (enterLane c m b s).shaped ↔ s.shaped := by simp [enterLane]

@[simp] theorem shaped_readRefused (c : Nat) (again : State → State) (hagain : ∀ t, (again t).shaped ↔ t.shaped) :
    (readRefused c again s).shaped ↔ s.shaped := by
  unfold readRefused
  split <;> simp [hagain]

@[simp] theorem shaped_sendPfc (l pcp quanta : Nat) : (sendPfc l pcp quanta s).shaped ↔ s.shaped := by simp [sendPfc]
@[simp] theorem shaped_checkXoff (l pcp : Nat) : (checkXoff l pcp s).shaped ↔ s.shaped := by simp [checkXoff]
@[simp] theorem shaped_pfcAction (l mask : Nat) (quanta : List Nat) :
    (pfcAction l mask quanta s).shaped ↔ s.shaped := by simp [pfcAction]

@[simp] theorem shaped_step13to16 (t : Nat) (r : Reply) (h : Hdr) :
    (step13to16 t r h s).2.shaped ↔ s.shaped := by
  unfold step13to16
  split
  · rfl
  · split
    · rfl
    · split
      · rfl
      · split
        · rfl
        · split
          next hy => exact shaped_takeCtx hy
          · rfl

@[simp] theorem shaped_acceptFeedback (m : Model) (recId label channel : Nat) :
    (acceptFeedback m recId label channel s).shaped ↔ s.shaped := by simp [acceptFeedback]

@[simp] theorem shaped_receiveFeedback (t : Nat) (r : Reply) (h : Hdr) (msg : List Byte) :
    (receiveFeedback t r h msg s).shaped ↔ s.shaped := by
  unfold receiveFeedback
  split
  · simp
  · split
    · simp
    · split <;> simp

@[simp] theorem shaped_receiveBody (c : Nat) (r : Reply) (h : Hdr) (msg : List Byte) (len : Nat) (k : FrameCheck) :
    (receiveBody c r h msg len k s).shaped ↔ s.shaped := by
  unfold receiveBody
  split <;> simp

@[simp] theorem shaped_dropHeld (held : Option Held) : (dropHeld held s).shaped ↔ s.shaped := by
  unfold dropHeld
  split <;> simp

@[simp] theorem shaped_receiveMessage (rx : Rx) (len : Nat) (k : FrameCheck) (held : Option Held) :
    (receiveMessage rx len k held s).shaped ↔ s.shaped := by
  unfold receiveMessage
  split
  · simp
  · split
    · simp
    · split
      · simp
      · split
        · simp
        · split
          · simp
          · simp
          · dsimp only
            split
            · simp
            · split <;> simp

@[simp] theorem shaped_countFrame (l len : Nat) (k : FrameCheck) :
    (countFrame l len k s).shaped ↔ s.shaped := by simp [countFrame]

@[simp] theorem shaped_receiveFrame (l : Nat) (frame : List Byte) (k : FrameCheck) :
    (receiveFrame l frame k s).shaped ↔ s.shaped := by
  unfold receiveFrame
  split
  · simp
  · split
    · simp
    · split
      · simp
      · dsimp only
        split
        · simp
        · split
          · simp
          · split
            · simp
            · split <;> simp

@[simp] theorem shaped_receiveFlowControl (l length k : Nat) :
    (receiveFlowControl l length k s).2.shaped ↔ s.shaped := by simp [receiveFlowControl]
@[simp] theorem shaped_ringEarly (g number element : Nat) (msg : List Byte) (status reason offset : Nat) :
    (ringEarly g number element msg status reason offset s).shaped ↔ s.shaped := by simp [ringEarly]

@[simp] theorem shaped_ringElement (g number element : Nat) (reasonSlots : Bool) (t : Nat) (msg : List Byte) (tables : List EccFind) :
    (ringElement g number element reasonSlots t msg tables s).shaped ↔ s.shaped := by
  unfold ringElement
  dsimp only
  split
  · simp
  · split
    · rfl
    · split
      · simp
      · split
        · simp
        · split
          · split <;> simp
          · split
            · simp
            next hy => exact (shaped_enterLane _ _ _ _).trans (shaped_takeCtx hy)

section
variable {s} (h : s.shaped)
include h

theorem keepsUnits_execTrailheadTableReadDone (ctx : CtxId) : keepsUnits (execTrailheadTableReadDone ctx s) := by
  unfold execTrailheadTableReadDone
  split
  · simp [h]
  · split <;> simp [h]

theorem keepsUnits_execRecordStart (port : LPort) (head : List Byte) : keepsUnits (execRecordStart port head s) := by
  unfold execRecordStart
  split
  · simp [h]
  · split
    · simp [h]
    · split <;> simp [h]

theorem keepsUnits_execRecordFrameRx (port : LPort) (frame : List Byte) (check : FrameCheck) :
    keepsUnits (execRecordFrameRx port frame check s) := by simp [execRecordFrameRx, h]
theorem keepsUnits_execFeedbackFrameRx (port : LPort) (frame : List Byte) (check : FrameCheck) :
    keepsUnits (execFeedbackFrameRx port frame check s) := by simp [execFeedbackFrameRx, h]
theorem keepsUnits_execArpRequestRx (port : LPort) (frame : List Byte) (check : FrameCheck) :
    keepsUnits (execArpRequestRx port frame check s) := by simp [execArpRequestRx, h]
theorem keepsUnits_execNeighbourSolicitationRx (port : LPort) (frame : List Byte) (check : FrameCheck) :
    keepsUnits (execNeighbourSolicitationRx port frame check s) := by simp [execNeighbourSolicitationRx, h]
theorem keepsUnits_execPfcFrameRx (port : LPort) (length : Nat) (mask : BitVec 8) (quanta : List Nat) :
    keepsUnits (execPfcFrameRx port length mask quanta s) := by simp [execPfcFrameRx, h]
theorem keepsUnits_execPauseFrameRx (port : LPort) (length : Nat) :
    keepsUnits (execPauseFrameRx port length s) := by simp [execPauseFrameRx, h]
theorem keepsUnits_execPfcXoffRepeat (port : LPort) (pcp : Fin 8) :
    keepsUnits (execPfcXoffRepeat port pcp s) := by simp [execPfcXoffRepeat, h]
theorem keepsUnits_execPfcXonSend (port : LPort) (pcp : Fin 8) :
    keepsUnits (execPfcXonSend port pcp s) := by simp [execPfcXonSend, h]
theorem keepsUnits_execPfcPauseExpiry (port : LPort) (pcp : Fin 8) :
    keepsUnits (execPfcPauseExpiry port pcp s) := by simp [execPfcPauseExpiry, h]
theorem keepsUnits_execLinkUp (port : LPort) : keepsUnits (execLinkUp port s) := by simp [execLinkUp, h]
theorem keepsUnits_execLinkDown (port : LPort) (cut : Option Nat) :
    keepsUnits (execLinkDown port cut s) := by simp [execLinkDown, h]
theorem keepsUnits_execPortDrainComplete (port : LPort) :
    keepsUnits (execPortDrainComplete port s) := by simp [execPortDrainComplete, h]
theorem keepsUnits_execFecLockAttemptFail (port : LPort) :
    keepsUnits (execFecLockAttemptFail port s) := by simp [execFecLockAttemptFail, h]

end

end Sys2Proof.Machine
end

section
/-! SUPPORT. What keeps the numbers of the units. Of Signpost, the Ridges, Cairn, Detour, Summit and leaf refit (chapters 6 to
9, 17). -/

namespace Sys2Proof.Machine

variable (s : State)

/-! ## Signpost -/

@[simp] theorem shaped_issueStep (c : Nat) (o : StepOut) : (issueStep c o s).shaped ↔ s.shaped := by simp [issueStep]
@[simp] theorem shaped_missStep (c op : Nat) : (missStep c op s).shaped ↔ s.shaped := by simp [missStep]
@[simp] theorem shaped_countSearch (b n : Nat) : (countSearch b n s).shaped ↔ s.shaped := by simp [countSearch]

@[simp] theorem shaped_runSearch (c : Nat) (st : Step) (key : Option Int) : (runSearch c st key s).shaped ↔ s.shaped := by
  unfold runSearch
  split <;> simp

@[simp] theorem shaped_continueWalk (c w i : Nat) (m : Model) (p : PatternSet) (str : List Byte) :
    (continueWalk c w i m p str s).shaped ↔ s.shaped := by
  unfold continueWalk
  split <;> simp

@[simp] theorem shaped_rerunDerivation (c : Nat) : (rerunDerivation c s).shaped ↔ s.shaped := by
  unfold rerunDerivation
  split <;> simp

@[simp] theorem shaped_fenceWalker (c w : Nat) : (fenceWalker c w s).shaped ↔ s.shaped := by
  unfold fenceWalker
  dsimp only
  split <;> simp

@[simp] theorem shaped_refillWalker (w : Nat) (m : Model) (p : PatternSet) (str : List Byte) :
    (refillWalker w m p str s).shaped ↔ s.shaped := by
  unfold refillWalker
  split <;> simp

@[simp] theorem shaped_lateBy (c i since : Nat) : (lateBy c i since s).shaped ↔ s.shaped := by simp [lateBy]
@[simp] theorem shaped_poisonWalk (c i : Nat) : (poisonWalk c i s).shaped ↔ s.shaped := by simp [poisonWalk]

@[simp] theorem shaped_sendRecordMc (c : Nat) : (sendRecordMc c s).shaped ↔ s.shaped := by
  unfold sendRecordMc
  split <;> simp

@[simp] theorem shaped_handOver (c : Nat) : (handOver c s).shaped ↔ s.shaped := by
  unfold handOver
  split <;> simp

@[simp] theorem shaped_passSkips (n pipe : Nat) : (passSkips n pipe s).shaped ↔ s.shaped := by
  induction n generalizing s with
  | zero => rfl
  | succ n ih =>
    unfold passSkips
    split
    · rfl
    · split
      · rfl
      · split <;> simp [ih]

@[simp] theorem shaped_fillDispatch : (fillDispatch s).shaped ↔ s.shaped := by simp [fillDispatch]
@[simp] theorem shaped_fenceBank (b cause : Nat) : (fenceBank b cause s).shaped ↔ s.shaped := by simp [fenceBank]
@[simp] theorem shaped_restoreEntry (b e : Nat) (readBackBad : Bool) :
    (restoreEntry b e readBackBad s).shaped ↔ s.shaped := by simp [restoreEntry]

@[simp] theorem shaped_entryApply (bank : Nat) (o : EntryOp) : (entryApply bank o s).shaped ↔ s.shaped := by
  unfold entryApply
  split <;> simp

@[simp] theorem shaped_runEntryOps (bank i : Nat) (ops : List EntryOp) :
    (runEntryOps bank i ops s).2.shaped ↔ s.shaped := by
  induction ops generalizing i s with
  | nil => rfl
  | cons o r ih =>
    unfold runEntryOps
    split <;> simp [ih]

@[simp] theorem shaped_releaseBank (b : Nat) : (releaseBank b s).shaped ↔ s.shaped := by simp [releaseBank]

section
variable {s} (h : s.shaped)
include h

theorem keepsUnits_execSignpostEntry (pipeline : Fin 2) : keepsUnits (execSignpostEntry pipeline s) := by
  unfold execSignpostEntry
  split
  · simp [h]
  · split
    · simp [h]
    · split
      · simp [h]
      · split
        · simp [h]
        · split
          · dsimp only
            split
            · simp [h]
            · split <;> simp [h]
          · simp [h]

theorem keepsUnits_execTernaryStep (ctx : CtxId) : keepsUnits (execTernaryStep ctx s) := by
  unfold execTernaryStep
  split <;> simp [h]

theorem keepsUnits_execRangeStep (ctx : CtxId) : keepsUnits (execRangeStep ctx s) := by
  unfold execRangeStep
  split <;> simp [h]

theorem keepsUnits_execNextStep (ctx : CtxId) : keepsUnits (execNextStep ctx s) := by
  unfold execNextStep
  split
  · split
    · split <;> simp [h]
    · simp [h]
  · simp [h]

theorem keepsUnits_execAutomatonStep (ctx : CtxId) (parity : WalkerParity) : keepsUnits (execAutomatonStep ctx parity s) := by
  unfold execAutomatonStep
  split
  · split
    · split
      · simp [h]
      · split
        · simp [h]
        · split <;> simp [h]
    · simp [h]
  · simp [h]

theorem keepsUnits_execWalkerMissReadDone (ctx : CtxId) : keepsUnits (execWalkerMissReadDone ctx s) := by
  unfold execWalkerMissReadDone
  split
  · simp [h]
  · split
    · split
      · simp [h]
      · split
        · simp [h]
        · split
          · simp [h]
          · split
            · simp [h]
            · dsimp only
              split <;> simp [h]
    · simp [h]

theorem keepsUnits_execStepResult (ctx : CtxId) : keepsUnits (execStepResult ctx s) := by
  unfold execStepResult
  split
  · simp [h]
  · split <;> simp [h]

theorem keepsUnits_execShadowCompare (bank : BankId) (found : Option FoundEntry) (shadow : List EccFind) (readBackBad : Bool) :
    keepsUnits (execShadowCompare bank found shadow readBackBad s) := by
  unfold execShadowCompare
  dsimp only
  split
  · simp [h]
  · split
    · simp [h]
    · split <;> simp [h]

end

/-! ## Ridges -/

@[simp] theorem shaped_readMaster (id : SetId) (q : Nat) : (readMaster id q s).shaped ↔ s.shaped := by
  unfold readMaster
  split <;> simp

@[simp] theorem shaped_chargeLoad (id : SetId) (q : Nat) : (chargeLoad id q s).shaped ↔ s.shaped := by simp [chargeLoad]
@[simp] theorem shaped_requestAgain (c slot k : Nat) : (requestAgain c slot k s).shaped ↔ s.shaped := by simp [requestAgain]

@[simp] theorem shaped_lostPass (es : List QEntry) (replayable : Bool) (c : Nat) :
    (lostPass es replayable c s).shaped ↔ s.shaped := by
  unfold lostPass
  split
  · rfl
  · split <;> simp

@[simp] theorem shaped_bindStandIn (q : Nat) (x : Ridge) (sets : List SetId) :
    (bindStandIn q x sets s).shaped ↔ s.shaped := by simp [bindStandIn]

@[simp] theorem shaped_fenceRidge (r mask : Nat) : (fenceRidge r mask s).shaped ↔ s.shaped := by
  unfold fenceRidge
  dsimp only
  split
  · rfl
  · split <;> simp

@[simp] theorem shaped_sramRead (q words : Nat) (ecc : List EccFind) :
    (sramRead q words ecc s).2.shaped ↔ s.shaped := by simp [sramRead]
@[simp] theorem shaped_loadRefused (id : SetId) (q : Nat) : (loadRefused id q s).shaped ↔ s.shaped := by simp [loadRefused]
@[simp] theorem shaped_takePositions (q k : Nat) (b : Bound) :
    (takePositions q k b s).shaped ↔ s.shaped := by simp [takePositions]

@[simp] theorem shaped_issuePass (q : Nat) (b : Bound) (r : RecCtx) (m : Model) (id : SetId) (faults : RidgeFaults) :
    (issuePass q b r m id faults s).shaped ↔ s.shaped := by
  unfold issuePass
  split <;> simp

section
variable {s} (h : s.shaped)
include h

theorem keepsUnits_execBroadcastDone (ctx : CtxId) (ridge : RidgeId) :
    keepsUnits (execBroadcastDone ctx ridge s) := by simp [execBroadcastDone, h]

theorem keepsUnits_execSetLoadStart (ridge : RidgeId) : keepsUnits (execSetLoadStart ridge s) := by
  unfold execSetLoadStart
  dsimp only
  split
  · simp [h]
  · split <;> simp [h]

theorem keepsUnits_execSetLoadDone (ridge : RidgeId) (ecc : List EccFind) : keepsUnits (execSetLoadDone ridge ecc s) := by
  unfold execSetLoadDone
  dsimp only
  split <;> simp [h]

theorem keepsUnits_execStandInLoadDone (ridge : RidgeId) : keepsUnits (execStandInLoadDone ridge s) := by
  unfold execStandInLoadDone
  dsimp only
  split
  · simp [h]
  · split <;> simp [h]

theorem keepsUnits_execPassIssue (ridge : RidgeId) (faults : RidgeFaults) : keepsUnits (execPassIssue ridge faults s) := by
  unfold execPassIssue
  dsimp only
  split
  · simp [h]
  · split
    · simp [h]
    · split <;> simp [h]

theorem keepsUnits_execPartialsLeaveRidge (ridge : RidgeId) : keepsUnits (execPartialsLeaveRidge ridge s) := by
  unfold execPartialsLeaveRidge
  split <;> simp [h]

theorem keepsUnits_execRidgeSramPatrolStep (ecc : List EccFind) :
    keepsUnits (execRidgeSramPatrolStep ecc s) := by simp [execRidgeSramPatrolStep, h]

end

/-! ## Refit areas -/

@[simp] theorem shaped_areaWrite (x : RefitSt) (off : Nat) (bs : List Byte) :
    (areaWrite x off bs s).shaped ↔ s.shaped := by simp [areaWrite]
@[simp] theorem shaped_areaRead (ecc : List EccFind) (x : RefitSt) (off n : Nat) :
    (areaRead ecc x off n s).shaped ↔ s.shaped := by simp [areaRead]

@[simp] theorem shaped_traceWrite (m : Model) (r : RecCtx) : (traceWrite m r s).shaped ↔ s.shaped := by
  unfold traceWrite
  split <;> simp

@[simp] theorem shaped_lookupReads (ecc : List EccFind) (m : Model) (x : RefitSt) (recId : Nat) :
    (lookupReads ecc m x recId s).shaped ↔ s.shaped := by simp [lookupReads]

/-! ## Cairn -/

@[simp] theorem shaped_putSlot (i : Nat) (v : Val) : (putSlot i v s).shaped ↔ s.shaped := by simp [putSlot]
@[simp] theorem shaped_writeBlock (b : Nat) (vals : List Val) : (writeBlock b vals s).shaped ↔ s.shaped := by simp [writeBlock]
@[simp] theorem shaped_preload (b : Nat) (m : Model) (r : RecCtx) : (preload b m r s).shaped ↔ s.shaped := by simp [preload]

@[simp] theorem shaped_rangeFault (c slot pass cause : Nat) : (rangeFault c slot pass cause s).shaped ↔ s.shaped := by
  unfold rangeFault
  split <;> simp

@[simp] theorem shaped_bindOn (c : Nat) (r : RecCtx) (m : Model) (prio : Nat) :
    (bindOn c r m prio s).shaped ↔ s.shaped :=
  shaped_foldl _ (fun s j => by split <;> simp) _ _

@[simp] theorem shaped_askPort (c n : Nat) : (askPort c n s).shaped ↔ s.shaped := by simp [askPort]
@[simp] theorem shaped_takeBlock (c : Nat) (r : RecCtx) (m : Model) (b : Nat) :
    (takeBlock c r m b s).shaped ↔ s.shaped := by simp [takeBlock]

@[simp] theorem shaped_bindPass (c : Nat) : (bindPass c s).shaped ↔ s.shaped := by
  unfold bindPass
  split
  · rfl
  · split <;> simp

@[simp] theorem shaped_unplaced (c : Nat) : (unplaced c s).shaped ↔ s.shaped := by
  unfold unplaced
  split <;> simp

@[simp] theorem shaped_addRow (img : Image) (recId b : Nat) (x : Row) :
    (addRow img recId b x s).shaped ↔ s.shaped := by simp [addRow]

@[simp] theorem shaped_nextStage (c : Nat) (r : RecCtx) (m : Model) (st : Stage) (vals : List Val) :
    (nextStage c r m st vals s).shaped ↔ s.shaped := by
  unfold nextStage
  dsimp only
  split
  · simp
  · split
    · split <;> simp [-ridges_returnBlock]
    · simp [-ridges_returnBlock]

@[simp] theorem shaped_memberDone (c : Nat) (r : RecCtx) (m : Model) (home homeCtx : Nat) (vals : List Val) :
    (memberDone c r m home homeCtx vals s).shaped ↔ s.shaped := by simp [memberDone]

@[simp] theorem shaped_finalRow (c : Nat) : (finalRow c s).shaped ↔ s.shaped := by
  unfold finalRow
  split
  · rfl
  · split
    · split <;> simp
    · rfl

@[simp] theorem shaped_pumpOut : (pumpOut s).shaped ↔ s.shaped := by simp [pumpOut]

@[simp] theorem shaped_restartInBlock (c : Nat) : (restartInBlock c s).shaped ↔ s.shaped := by
  unfold restartInBlock
  split
  · rfl
  · dsimp only
    split
    · split <;> simp
    · simp

@[simp] theorem shaped_restoreFailed (c a : Nat) (evs : List Raised) (r : RecCtx) :
    (restoreFailed c a evs r s).shaped ↔ s.shaped := by
  unfold restoreFailed
  split <;> simp

@[simp] theorem shaped_portCycle : (portCycle s).shaped ↔ s.shaped := by simp [portCycle]

section
variable {s} (h : s.shaped)
include h

theorem keepsUnits_execPassBind (ctx : CtxId) : keepsUnits (execPassBind ctx s) := by
  unfold execPassBind
  split
  · simp [h]
  · split
    · simp [h]
    · split
      · simp [h]
      · split
        · simp [h]
        · split
          · dsimp only
            split <;> simp [h]
          · dsimp only
            split <;> simp [h]

theorem keepsUnits_execPartialArrival (ridge : RidgeId) : keepsUnits (execPartialArrival ridge s) := by
  unfold execPartialArrival
  split <;> simp [h]

theorem keepsUnits_execRowAdd (ctx : CtxId) (eccFault : Bool) : keepsUnits (execRowAdd ctx eccFault s) := by
  unfold execRowAdd
  split
  · simp [h]
  · split <;> simp [h]

theorem keepsUnits_execParkEntryWritten (ctx : CtxId) : keepsUnits (execParkEntryWritten ctx s) := by
  unfold execParkEntryWritten
  split
  · simp [h]
  · split <;> simp [h]

theorem keepsUnits_execRestoreDone (ctx : CtxId) (ecc : List EccFind) : keepsUnits (execRestoreDone ctx ecc s) := by
  unfold execRestoreDone
  split
  · exact (keepsUnits_next _).mpr h
  next r hr =>
    split
    next b m hb hm =>
      have hread : (readWords ecc 4 false (swbAddr ctx) (128 + 8 * m.image.channels) s).1.shaped := by simpa using h
      split
      · exact (keepsUnits_next _).mpr h
      · split
        · simpa using h
        · dsimp only
          split <;> simp [hread, -ridges_chargeWork, -ridges_count]
    · exact (keepsUnits_next _).mpr h

end

/-! ## Detour -/

@[simp] theorem shaped_requestCands (slot : Nat) (x : Search) :
    (requestCands slot x s).shaped ↔ s.shaped := by simp [requestCands]
@[simp] theorem shaped_beginStep (slot : Nat) (d : DetourCfg) (x : Search) :
    (beginStep slot d x s).shaped ↔ s.shaped := by simp [beginStep]
@[simp] theorem shaped_startSearch (slot : Nat) (d : DetourCfg) (m : Model) (r : RecCtx) (req : ReasonReq) (y : Nat) :
    (startSearch slot d m r req y s).shaped ↔ s.shaped := by simp [startSearch]

@[simp] theorem shaped_stepChoice (slot : Nat) (d : DetourCfg) (x : Search) (timeLimit : Bool) :
    (stepChoice slot d x timeLimit s).shaped ↔ s.shaped := by
  unfold stepChoice
  extract_lets y r u v
  split
  · simp
  · have hv : v.shaped ↔ s.shaped := by simp [v, u, -ridges_count]
    split
    · simp [hv]
    · split <;> simp [hv]

section
variable {s} (h : s.shaped)
include h

theorem keepsUnits_execCandidateResult (ctx : CtxId) : keepsUnits (execCandidateResult ctx s) := by
  unfold execCandidateResult
  split
  · simp [h]
  · split
    · split
      · simp [h]
      · split <;> simp [h, -ridges_count]
    · simp [h]

theorem keepsUnits_execMoveChoice (slot : Fin 16) : keepsUnits (execMoveChoice slot s) := by
  unfold execMoveChoice
  split
  · simp [h]
  · split <;> simp [h]

theorem keepsUnits_execDetourTimeLimit (slot : Fin 16) : keepsUnits (execDetourTimeLimit slot s) := by
  unfold execDetourTimeLimit
  split
  · simp [h]
  · split <;> simp [h]

end

/-! ## Summit -/

@[simp] theorem shaped_sendScore (c : Nat) (r : RecCtx) (msg : List Byte) : (sendScore c r msg s).shaped ↔ s.shaped := by
  unfold sendScore
  split <;> simp

@[simp] theorem shaped_linkDownDrop (l : Nat) (f : TxFrame) : (linkDownDrop l f s).shaped ↔ s.shaped := by simp [linkDownDrop]
@[simp] theorem shaped_latency (l n : Nat) : (latency l n s).shaped ↔ s.shaped := by simp [latency]

section
variable {s} (h : s.shaped)
include h

theorem keepsUnits_execSummitFusedOutput (ctx : CtxId) : keepsUnits (execSummitFusedOutput ctx s) := by
  unfold execSummitFusedOutput
  split
  · simp [h]
  · split <;> simp [h]

theorem keepsUnits_execScoreFrameAssembly (ctx : CtxId) : keepsUnits (execScoreFrameAssembly ctx s) := by
  unfold execScoreFrameAssembly
  split
  · simp [h]
  · split
    · simp [h]
    · split
      · simp [h]
      · dsimp only
        split <;> simp [h]
    · simp [h]

theorem keepsUnits_execTransmitQueueEntry (port : LPort) : keepsUnits (execTransmitQueueEntry port s) := by
  unfold execTransmitQueueEntry
  split
  · dsimp only
    split <;> simp [h]
  · dsimp only
    split <;> simp [h]

theorem keepsUnits_execTxMacHandoff (port : LPort) : keepsUnits (execTxMacHandoff port s) := by
  unfold execTxMacHandoff
  dsimp only
  split
  · simp [h]
  · split
    · simp [h]
    · split
      · simp [h]
      · split
        · split <;> simp [h]
        · split <;> simp [h]

theorem keepsUnits_execXchipWaitExpiry (ctx : CtxId) : keepsUnits (execXchipWaitExpiry ctx s) := by
  unfold execXchipWaitExpiry
  split
  · simp [h]
  · split <;> simp [h]

theorem keepsUnits_execFeedbackGradient : keepsUnits (execFeedbackGradient s) := by
  unfold execFeedbackGradient
  split
  · simp [h]
  · split
    · simp [h]
    · simp [h, -ridges_count]

end

/-! ## Admission -/

@[simp] theorem shaped_admitTo (m : Model) (tick : Nat) : (admitTo m tick s).shaped ↔ s.shaped := by simp [admitTo]
@[simp] theorem shaped_shedRecord (c reason : Nat) : (shedRecord c reason s).shaped ↔ s.shaped := by simp [shedRecord]
@[simp] theorem shaped_passAdmission (c : Nat) (r : RecCtx) (tick : Option Nat) :
    (passAdmission c r tick s).shaped ↔ s.shaped := by simp [passAdmission]

@[simp] theorem shaped_takeIn (c : Nat) (r : RecCtx) (m : Model) : (takeIn c r m s).shaped ↔ s.shaped := by
  unfold takeIn
  split
  · simp
  · split
    · split
      · simp
      · split <;> simp
    · simp

section
variable {s} (h : s.shaped)
include h

theorem keepsUnits_execDispatcherAdmission (ctx : CtxId) : keepsUnits (execDispatcherAdmission ctx s) := by
  unfold execDispatcherAdmission
  dsimp only
  split <;> simp [h]

end

/-! ## Leaf refit -/

@[simp] theorem shaped_blockFlags (x : RefitSt) (off fl : Nat) :
    (blockFlags x off fl s).shaped ↔ s.shaped := by simp [blockFlags]
@[simp] theorem shaped_statWrite (ecc : List EccFind) (m : Model) (x : RefitSt) (recId t tree b j : Nat) (f : Frac → Frac)
    (sat : Bool) : (statWrite ecc m x recId t tree b j f sat s).shaped ↔ s.shaped := by simp [statWrite]
@[simp] theorem shaped_zeroStats (m : Model) (x : RefitSt) : (zeroStats m x s).shaped ↔ s.shaped := by simp [zeroStats]
@[simp] theorem shaped_setLabelled (x : RefitSt) (off c : Nat) :
    (setLabelled x off c s).shaped ↔ s.shaped := by simp [setLabelled]
@[simp] theorem shaped_applyPair (ecc : List EccFind) (m : Model) (x : RefitSt) (off recId c : Nat) (g h : Frac) (sat : Bool) :
    (applyPair ecc m x off recId c g h sat s).shaped ↔ s.shaped := by simp [applyPair]
@[simp] theorem shaped_applyFeedback (ecc : List EccFind) (m : Model) (x : RefitSt) (off recId c : Nat) (g h : Frac)
    (sat : Bool) : (applyFeedback ecc m x off recId c g h sat s).shaped ↔ s.shaped := by simp [applyFeedback]

@[simp] theorem shaped_sendGh (id : Nat) : (sendGh id s).shaped ↔ s.shaped := by
  unfold sendGh
  split <;> simp

@[simp] theorem shaped_queueGh (m : Model) (recId c g h : Nat) :
    (queueGh m recId c g h s).shaped ↔ s.shaped := by simp [queueGh]
@[simp] theorem shaped_decayBlock (ecc : List EccFind) (m : Model) (x : RefitSt) (recId beta t tree b : Nat) :
    (decayBlock ecc m x recId beta t tree b s).shaped ↔ s.shaped := by simp [decayBlock]
@[simp] theorem shaped_takeGrant (b : BgReq) : (takeGrant b s).shaped ↔ s.shaped := by simp [takeGrant]
@[simp] theorem shaped_statRead (ecc : List EccFind) (m : Model) (x : RefitSt) (t b : Nat) :
    (statRead ecc m x t b s).shaped ↔ s.shaped := by simp [statRead]
@[simp] theorem shaped_writeShadow (m : Model) (x : RefitSt) (t : Nat) (ls : List (Nat × Int × Bool)) :
    (writeShadow m x t ls s).shaped ↔ s.shaped := by simp [writeShadow]

@[simp] theorem shaped_proposePair (ecc : List EccFind) (m : Model) (x : RefitSt) (c : RefitCfg)
    (u : Nat × Placed × Nat × Nat) (a : Nat × State) :
    (proposePair ecc m x c u a).2.shaped ↔ a.2.shaped := by simp [proposePair]

@[simp] theorem shaped_commitModel (id : Nat) : (commitModel id s).shaped ↔ s.shaped := by
  unfold commitModel
  split
  · dsimp only
    split <;> simp
  · rfl

@[simp] theorem shaped_refitEffect (id op : Nat) : (refitEffect id op s).shaped ↔ s.shaped := by
  unfold refitEffect
  split
  · split <;> simp
  · rfl

@[simp] theorem shaped_freeOldUnits : (freeOldUnits s).shaped ↔ s.shaped := by simp [freeOldUnits]

@[simp] theorem shaped_requestDecay : (requestDecay s).shaped ↔ s.shaped := by
  refine shaped_foldl _ (fun s x => ?_) _ _
  split <;> simp

@[simp] theorem shaped_refitTick : (refitTick s).shaped ↔ s.shaped := by simp [refitTick]

section
variable {s} (h : s.shaped)
include h

theorem keepsUnits_execFeedbackProcess (ecc : List EccFind) : keepsUnits (execFeedbackProcess s ecc) := by
  unfold execFeedbackProcess
  split
  · simp [h]
  · split
    · split
      · simp [h]
      · split
        · dsimp only
          split <;> simp [h]
        · dsimp only
          split <;> simp [h]
    · simp [h]

theorem keepsUnits_execDecaySweep (tenant : Tid) (handle : Nat) (ecc : List EccFind) :
    keepsUnits (execDecaySweep tenant handle s ecc) := by
  unfold execDecaySweep
  split
  · simp [h]
  · split <;> simp [h]

theorem keepsUnits_execProposalPassEnd (tenant : Tid) (handle : Nat) (ecc : List EccFind) :
    keepsUnits (execProposalPassEnd tenant handle s ecc) := by
  unfold execProposalPassEnd
  split
  · simp [h]
  next m hm =>
    split
    next x cfg left hx hcfg hleft =>
      extract_lets upto r
      have hr : r.2.shaped := by
        refine (shaped_foldl_snd _ (fun a n => ?_) _ _).mpr h
        cases sweepUnit m 4 (x.proposed + n) <;> simp
      split <;> simp +zetaDelta [hr]
    · simp [h]

end

end Sys2Proof.Machine
end

section
/-! SUPPORT. What keeps the numbers of the units. Of the mailbox, fenced units, Waymarks and models (chapters 10, 13, 17). -/

namespace Sys2Proof.Machine

variable (s : State)

/-! ## Mailbox commands in common -/

@[simp] theorem shaped_postResponse_iff (f st : Nat) (p : List Byte) : (postResponse f st p s).shaped ↔ s.shaped := by
  simp [postResponse]
@[simp] theorem shaped_respond (f st : Nat) (p : List Byte) : (respond f st p s).shaped ↔ s.shaped := by simp [respond]
@[simp] theorem shaped_refuse (f : Nat) (r : Refused) : (refuse f r s).shaped ↔ s.shaped := by simp [refuse]
@[simp] theorem shaped_respondMilestone (f : Nat) (payload : List Byte) :
    (respondMilestone f payload s).shaped ↔ s.shaped := by simp [respondMilestone]
@[simp] theorem shaped_respondWait (f : Nat) (payload : List Byte) :
    (respondWait f payload s).shaped ↔ s.shaped := by simp [respondWait]

@[simp] theorem shaped_postDue : (postDue s).shaped ↔ s.shaped := by
  refine shaped_foldl _ (fun s f => ?_) _ _
  split <;> simp

@[simp] theorem shaped_postWaiting (op : Nat) (mine : List Byte → Nat → Bool) (status : Nat) (payload : List Byte) :
    (postWaiting op mine status payload s).shaped ↔ s.shaped := by
  refine shaped_foldl _ (fun s f => ?_) _ _
  dsimp only
  split <;> simp

@[simp] theorem shaped_ringDoorbell (f value : Nat) : (ringDoorbell f value s).shaped ↔ s.shaped := by
  unfold ringDoorbell
  split
  · rfl
  · split <;> simp

section
variable {s} (h : s.shaped)
include h

/-- A mailbox command keeps the numbers when its action does: its refusals only answer (R375 to R381). -/
theorem keepsUnits_runCommand {f op : Nat} {mine : List Byte → Bool} {check : State → List Byte → Nat → Option Refused}
    {act : List Byte → Nat → State → State} (hact : ∀ pl t, (act pl t s).shaped) :
    keepsUnits (runCommand f op mine check act s) := by
  intro t ht
  rcases runCommand_cases t ht with ⟨-, rfl⟩ | ⟨-, r, -, rfl⟩ | ⟨-, -, r, -, rfl⟩ | ⟨-, -, -, rfl⟩
  · exact h
  · simpa using h
  · simpa using h
  · exact hact _ _

theorem keepsUnits_execMbxDoorbellRing (fn : Fn) (value : Nat) :
    keepsUnits (execMbxDoorbellRing fn value s) := by simp [execMbxDoorbellRing, h]

end

/-! ## Fenced units -/

@[simp] theorem shaped_healUnits (m : Model) (p : Placed) (is : List Nat) :
    (healUnits m p is s).shaped ↔ s.shaped := by simp [healUnits]

@[simp] theorem shaped_copyUnits (ecc : List EccFind) (id r q : Nat) : (copyUnits ecc id r q s).shaped ↔ s.shaped := by
  unfold copyUnits
  split
  · rfl
  · refine (shaped_foldl _ (fun s u => ?_) _ _).trans (by simp)
    split <;> simp

@[simp] theorem shaped_prepareRemap (ecc : List EccFind) (r q : Nat) :
    (prepareRemap ecc r q s).shaped ↔ s.shaped := by simp [prepareRemap]
@[simp] theorem shaped_remapEffect (r q : Nat) : (remapEffect r q s).shaped ↔ s.shaped := by simp [remapEffect]
@[simp] theorem shaped_without (id : Nat) : (without id s).shaped ↔ s.shaped := by simp [without]
@[simp] theorem shaped_raiseFitLost (m : Model) (logical cause newRate : Nat) :
    (raiseFitLost m logical cause newRate s).shaped ↔ s.shaped := by simp [raiseFitLost]

@[simp] theorem shaped_loseRidge (id j cause : Nat) : (loseRidge id j cause s).shaped ↔ s.shaped := by
  unfold loseRidge
  split
  · rfl
  · dsimp only
    split <;> simp

@[simp] theorem shaped_degradedEffect (ecc : List EccFind) (id j host rate : Nat) :
    (degradedEffect ecc id j host rate s).shaped ↔ s.shaped := by
  unfold degradedEffect
  split
  · rfl
  · split
    · dsimp only
      split <;> simp
    · dsimp only
      split <;> simp

@[simp] theorem shaped_fenceFollowUp (ecc : List EccFind) (r : Nat) : (fenceFollowUp ecc r s).shaped ↔ s.shaped := by
  unfold fenceFollowUp
  split <;> simp

@[simp] theorem shaped_loseWalkers : (loseWalkers s).shaped ↔ s.shaped := by simp [loseWalkers]
@[simp] theorem shaped_mismatch (kind index : Nat) (path view adopted : Bool) :
    (mismatch kind index path view adopted s).shaped ↔ s.shaped := by simp [mismatch]
@[simp] theorem shaped_auditRidge (ecc : List EccFind) (r : Nat) :
    (auditRidge ecc s r).shaped ↔ s.shaped := by simp [auditRidge]
@[simp] theorem shaped_auditBank (b : Nat) : (auditBank s b).shaped ↔ s.shaped := by simp [auditBank]
@[simp] theorem shaped_auditWalker (w : Nat) : (auditWalker s w).shaped ↔ s.shaped := by simp [auditWalker]
@[simp] theorem shaped_auditPort (l : Nat) : (auditPort s l).shaped ↔ s.shaped := by simp [auditPort]
@[simp] theorem shaped_auditTenant (t : Nat) : (auditTenant s t).shaped ↔ s.shaped := by simp [auditTenant]
@[simp] theorem shaped_audit (ecc : List EccFind) : (audit ecc s).shaped ↔ s.shaped := by simp [audit]

/-! ## Waymarks -/

@[simp] theorem shaped_wmkRangeDrop (f : Nat) : (wmkRangeDrop f s).shaped ↔ s.shaped := by simp [wmkRangeDrop]
@[simp] theorem shaped_countTimeouts (f k : Nat) : (countTimeouts f k s).shaped ↔ s.shaped := by simp [countTimeouts]

theorem length_evalSlots (n : Nat) (w : Waymark) (wasReset : Bool) (t : TimeSt) (j : Nat) (xs : List WaitSlot) :
    (evalSlots n w wasReset t j xs).1.length = xs.length := by
  induction xs generalizing j with
  | nil => rfl
  | cons x xs ih =>
    unfold evalSlots
    dsimp only
    split <;> simp [ih]

@[simp] theorem length_waits_evalFn (n : Nat) (w : Waymark) (wasReset : Bool) (t : TimeSt) (x : FnSt) :
    (evalFn n w wasReset t x).waits.length = x.waits.length := length_evalSlots ..

@[simp] theorem length_msix_evalFn (n : Nat) (w : Waymark) (wasReset : Bool) (t : TimeSt) (x : FnSt) :
    (evalFn n w wasReset t x).msix.length = x.msix.length := congrArg List.length rfl

@[simp] theorem shaped_evalWaits (n : Nat) (wasReset : Bool) (t : TimeSt) : (evalWaits n wasReset t s).shaped ↔ s.shaped := by
  simp [evalWaits]

@[simp] theorem shaped_wmkUpdate (t : TimeSt) (n : Nat) (f : Waymark → Waymark) (wasReset : Bool) :
    (wmkUpdate t n f wasReset s).shaped ↔ s.shaped := by simp [wmkUpdate]

@[simp] theorem shaped_wmkApply (t : TimeSt) (i : Nat) (op : WmkOp) : (wmkApply t i op s).shaped ↔ s.shaped := by
  unfold wmkApply
  split
  · rfl
  · split <;> simp

@[simp] theorem shaped_wmkNote (n src : Nat) : (wmkNote n src s).shaped ↔ s.shaped := by simp [wmkNote]
@[simp] theorem shaped_wmkPost (src n : Nat) (op : WmkOp) : (wmkPost src n op s).shaped ↔ s.shaped := by simp [wmkPost]
@[simp] theorem shaped_wmkDrain (k : Nat) : (wmkDrain k s).shaped ↔ s.shaped := by simp [wmkDrain]
@[simp] theorem shaped_wmkFlush : (wmkFlush s).shaped ↔ s.shaped := by simp [wmkFlush]
@[simp] theorem shaped_wmkFirmware (i : Nat) (op : WmkOp) : (wmkFirmware i op s).shaped ↔ s.shaped := by simp [wmkFirmware]

@[simp] theorem shaped_wmkWindow (f i : Nat) (op : Nat → State → State) (hop : ∀ x t, (op x t).shaped ↔ t.shaped) :
    (wmkWindow f i op s).shaped ↔ s.shaped := by
  unfold wmkWindow
  split
  · rfl
  · split <;> simp [hop]

@[simp] theorem shaped_wmkZero (n : Nat) : (wmkZero n s).shaped ↔ s.shaped := by simp [wmkZero]
@[simp] theorem shaped_completeSlot (f j : Nat) (st : WaitState) :
    (completeSlot f j st s).shaped ↔ s.shaped := by simp [completeSlot]
@[simp] theorem shaped_slotCancel (f j : Nat) : (slotCancel f j s).shaped ↔ s.shaped := by
  simp [slotCancel, apply_ite FnSt.waits, apply_ite FnSt.msix, apply_ite List.length]

@[simp] theorem shaped_slotArm (f j : Nat) : (slotArm f j s).shaped ↔ s.shaped := by
  unfold slotArm
  dsimp only
  split
  · rfl
  · split
    · simp
    · split <;> simp

@[simp] theorem shaped_writeWaitCtrl (f j ctrl : Nat) : (writeWaitCtrl f j ctrl s).shaped ↔ s.shaped := by simp [writeWaitCtrl]
theorem shaped_idleSlots {s : State} (h : s.shaped) (f : Nat) : (idleSlots f s).shaped :=
  shaped_modFn_of h fun _ _ hm => ⟨List.length_replicate, hm⟩

section
variable {s} (h : s.shaped)
include h

theorem keepsUnits_execWmkSignalWrite (fn : Fn) (index n : Nat) (e : Bool) :
    keepsUnits (execWmkSignalWrite fn index n e s) := by simp [execWmkSignalWrite, h]
theorem keepsUnits_execWmkReset (fn : Fn) (index : Nat) : keepsUnits (execWmkReset fn index s) := by simp [execWmkReset, h]
theorem keepsUnits_execWmkArmBarrier (fn : Fn) (index a : Nat) :
    keepsUnits (execWmkArmBarrier fn index a s) := by simp [execWmkArmBarrier, h]
theorem keepsUnits_execWmkClearErr (fn : Fn) (index : Nat) :
    keepsUnits (execWmkClearErr fn index s) := by simp [execWmkClearErr, h]
theorem keepsUnits_execWmkRemoteOn (fn : Fn) (index : Nat) :
    keepsUnits (execWmkRemoteOn fn index s) := by simp [execWmkRemoteOn, h]
theorem keepsUnits_execWmkRemoteOff (fn : Fn) (index : Nat) :
    keepsUnits (execWmkRemoteOff fn index s) := by simp [execWmkRemoteOff, h]
theorem keepsUnits_execWaitArm (fn : Fn) (slot : Fin 16) (ctrl : Nat) :
    keepsUnits (execWaitArm fn slot ctrl s) := by simp [execWaitArm, h]
theorem keepsUnits_execWaitCancel (fn : Fn) (slot : Fin 16) (ctrl : Nat) :
    keepsUnits (execWaitCancel fn slot ctrl s) := by simp [execWaitCancel, h]
theorem keepsUnits_execWaitTimeoutExpiry (fn : Fn) (slot : Fin 16) :
    keepsUnits (execWaitTimeoutExpiry fn slot s) := by simp [execWaitTimeoutExpiry, h]

end

/-! ## Models -/

@[simp] theorem shaped_addStats (m : Model) : (addStats m s).shaped ↔ s.shaped := by simp [addStats]
@[simp] theorem shaped_writeEntries (es : List EntryRec) : (writeEntries es s).shaped ↔ s.shaped := by simp [writeEntries]
@[simp] theorem shaped_takeAreas (m : Model) : (takeAreas m s).shaped ↔ s.shaped := by simp [takeAreas]
@[simp] theorem shaped_writeModel (m : Model) (n : Nat) : (writeModel m n s).shaped ↔ s.shaped := by simp [writeModel]
@[simp] theorem shaped_failLoad (j : LoadJob) (r : Refused) : (failLoad j r s).shaped ↔ s.shaped := by simp [failLoad]
@[simp] theorem shaped_layImage (plots : List Nat) (image : List Byte) :
    (layImage plots image s).shaped ↔ s.shaped := by simp [layImage]
@[simp] theorem shaped_loadStepSix (ecc : List EccFind) (j : LoadJob) (pl image : List Byte) (m : Model) :
    (loadStepSix ecc j pl image m s).shaped ↔ s.shaped := by simp [loadStepSix]

theorem shaped_repairBlocks {m : Model} {size : Nat} {host : List Byte} {blocks : List Nat} {s t : State}
    (h : repairBlocks m size host blocks s = some t) : t.shaped ↔ s.shaped := by
  refine List.foldlRecOn (motive := fun a => ∀ u, a = some u → (u.shaped ↔ s.shaped)) blocks.zipIdx _ ?start ?step t h
  case start => simp +contextual
  case step =>
    intro a ha b _ u hu
    obtain ⟨v, hv, hu⟩ := Option.bind_eq_some_iff.mp hu
    dsimp only at hu
    split at hu <;> cases hu
    simpa using ha v hv

@[simp] theorem shaped_substituteRidges (ecc : List EccFind) (id : Nat) : (substituteRidges ecc id s).shaped ↔ s.shaped := by
  unfold substituteRidges
  split
  · rfl
  · refine shaped_foldl _ (fun s j => ?_) _ _
    dsimp only
    split
    · split <;> simp
    · rfl

@[simp] theorem shaped_modelLoadedEffect (ecc : List EccFind) (id : Nat) : (modelLoadedEffect ecc id s).shaped ↔ s.shaped := by
  unfold modelLoadedEffect
  split <;> simp

@[simp] theorem shaped_endSearches (id : Nat) (timeLimit : Bool) :
    (endSearches id timeLimit s).shaped ↔ s.shaped := by simp [endSearches]
@[simp] theorem shaped_modelStopEffect (id : Nat) : (modelStopEffect id s).shaped ↔ s.shaped := by simp [modelStopEffect]
@[simp] theorem shaped_dropModelWork (id : Nat) : (dropModelWork id s).shaped ↔ s.shaped := by simp [dropModelWork]

@[simp] theorem shaped_zeroiseModel (id : Nat) : (zeroiseModel id s).shaped ↔ s.shaped := by
  unfold zeroiseModel
  split <;> simp

@[simp] theorem shaped_configureBank (b : Nat) (pl : List Byte) :
    (configureBank b pl s).shaped ↔ s.shaped := by simp [configureBank]

section
variable {s} (h : s.shaped)
include h

theorem keepsUnits_execModelLoad (fn : Fn) : keepsUnits (execModelLoad fn s) := keepsUnits_runCommand h fun _ _ => by simp [h]

theorem keepsUnits_execImageFetchDone (failedAt : Option Nat) (image : List Byte) (ecc : List EccFind) :
    keepsUnits (execImageFetchDone failedAt image s ecc) := by
  unfold execImageFetchDone
  split
  · simp [h]
  · dsimp only
    split
    · simp [h]
    · simp [h]
    · split
      · simp [h]
      · split <;> simp [h]
    · split
      · simp [h]
      · split
        · simp [h]
        · split
          · simp [h]
          next hu => simp [shaped_repairBlocks hu, h]

theorem keepsUnits_execModelUnload (fn : Fn) :
    keepsUnits (execModelUnload fn s) := keepsUnits_runCommand h fun _ _ => by split <;> simp [h]

theorem keepsUnits_execModelDrainDone (tenant : Tid) (handle : Nat) : keepsUnits (execModelDrainDone tenant handle s) := by
  unfold execModelDrainDone
  split <;> simp [h]

theorem keepsUnits_execModelZeroiseDone (tenant : Tid) (handle : Nat) : keepsUnits (execModelZeroiseDone tenant handle s) := by
  unfold execModelZeroiseDone
  split <;> simp [h]

theorem keepsUnits_execOldImageRetire (tenant : Tid) (handle : Nat) : keepsUnits (execOldImageRetire tenant handle s) := by
  unfold execOldImageRetire
  split <;> simp [h]

theorem keepsUnits_execModelQuery (fn : Fn) :
    keepsUnits (execModelQuery fn s) := keepsUnits_runCommand h fun _ _ => by split <;> simp [h]
theorem keepsUnits_execModelStats (fn : Fn) :
    keepsUnits (execModelStats fn s) := keepsUnits_runCommand h fun _ _ => by split <;> simp [h]
theorem keepsUnits_execModelCalibrate (fn : Fn) :
    keepsUnits (execModelCalibrate fn s) := keepsUnits_runCommand h fun _ _ => by split <;> simp [h]
theorem keepsUnits_execSignpostBankAssign (fn : Fn) :
    keepsUnits (execSignpostBankAssign fn s) := keepsUnits_runCommand h fun _ _ => by simp [h]
theorem keepsUnits_execSignpostBankRelease (fn : Fn) :
    keepsUnits (execSignpostBankRelease fn s) := keepsUnits_runCommand h fun _ _ => by simp [h]
theorem keepsUnits_execSignpostBankConfigure (fn : Fn) :
    keepsUnits (execSignpostBankConfigure fn s) := keepsUnits_runCommand h fun _ _ => by simp [h]

theorem keepsUnits_execSignpostEntries (fn : Fn) : keepsUnits (execSignpostEntries fn s) := by
  refine keepsUnits_runCommand h fun pl t => ?_
  dsimp only
  split <;> simp [h]

theorem keepsUnits_execSignpostSearch (fn : Fn) :
    keepsUnits (execSignpostSearch fn s) := keepsUnits_runCommand h fun _ _ => by simp [h]

end

end Sys2Proof.Machine
end

section
/-! SUPPORT. What keeps the numbers of the units. Of the streams, Commons, the links and their messages, and host DMA (chapters
14 to 16). -/

namespace Sys2Proof.Machine

variable (s : State)

/-! ## Streams and descriptors -/

@[simp] theorem shaped_modDesc (g n : Nat) (f : Desc → Desc) : (modDesc g n f s).shaped ↔ s.shaped := by simp [modDesc]
@[simp] theorem shaped_hostWriteBy (f a : Nat) (bs : List Byte) (bad : Nat → Nat → Bool) :
    (hostWriteBy f a bs bad s).shaped ↔ s.shaped := by simp [hostWriteBy]
@[simp] theorem shaped_hostWrite (f a : Nat) (bs : List Byte) (poisoned : Bool) :
    (hostWrite f a bs poisoned s).shaped ↔ s.shaped := by simp [hostWrite]
@[simp] theorem shaped_hostRead (f a n : Nat) : (hostRead f a n s).shaped ↔ s.shaped := by simp [hostRead]
@[simp] theorem shaped_askTranslation (f page : Nat) : (askTranslation f page s).shaped ↔ s.shaped := by simp [askTranslation]
@[simp] theorem shaped_lookupPage (f : Nat) (p : Nat × Bool) : (lookupPage f p s).shaped ↔ s.shaped := by simp [lookupPage]
@[simp] theorem shaped_lookup (f : Nat) (ps : List (Nat × Bool)) : (lookup f ps s).2.shaped ↔ s.shaped := by simp [lookup]
@[simp] theorem shaped_insertTranslation (f page target size : Nat) (read write : Bool) :
    (insertTranslation f page target size read write s).shaped ↔ s.shaped := by simp [insertTranslation]
@[simp] theorem shaped_settleInvals : (settleInvals s).shaped ↔ s.shaped := by simp [settleInvals]

@[simp] theorem shaped_writeHalted (g n : Nat) : (writeHalted g n s).shaped ↔ s.shaped := by
  unfold writeHalted
  split <;> simp

@[simp] theorem shaped_dropFaults (g n : Nat) : (dropFaults g n s).shaped ↔ s.shaped := by simp [dropFaults]
@[simp] theorem shaped_stopDesc (g n status : Nat) : (stopDesc g n status s).shaped ↔ s.shaped := by simp [stopDesc]

@[simp] theorem shaped_endTask (g n status : Nat) : (endTask g n status s).shaped ↔ s.shaped := by
  unfold endTask
  split <;> simp

@[simp] theorem shaped_elementDone (g n : Nat) (flagged : Bool) : (elementDone g n flagged s).shaped ↔ s.shaped := by
  unfold elementDone
  split <;> simp

@[simp] theorem shaped_flagElement (g n : Nat) : (flagElement g n s).shaped ↔ s.shaped := by simp [flagElement]

@[simp] theorem shaped_ownerStop (g n : Nat) : (ownerStop g n s).shaped ↔ s.shaped := by
  unfold ownerStop
  split <;> simp

@[simp] theorem shaped_poisonRest (d : Desc) (plots : List Nat) (k : Nat) :
    (poisonRest d plots k s).shaped ↔ s.shaped := by simp [poisonRest]
@[simp] theorem shaped_raisePriFail (g n k iova : Nat) : (raisePriFail g n k iova s).shaped ↔ s.shaped := by simp [raisePriFail]
@[simp] theorem shaped_faultAnswer (g n k : Nat) : (faultAnswer g n k s).shaped ↔ s.shaped := by simp [faultAnswer]

@[simp] theorem shaped_faultMode (g n k : Nat) : (faultMode g n k s).shaped ↔ s.shaped := by
  unfold faultMode
  split
  · rfl
  · split
    · simp
    · split
      · dsimp only
        split
        · simp
        · split <;> simp
      · simp

@[simp] theorem shaped_failElement (g n : Nat) : (failElement g n s).shaped ↔ s.shaped := by
  unfold failElement
  split <;> simp

@[simp] theorem shaped_failAnswer (g : Nat) : (failAnswer g s).shaped ↔ s.shaped := by
  unfold failAnswer
  split
  · rfl
  · split <;> simp

@[simp] theorem shaped_advanceHead (g : Nat) : (advanceHead g s).shaped ↔ s.shaped := by simp [advanceHead]
@[simp] theorem shaped_settleStop (g : Nat) : (settleStop g s).shaped ↔ s.shaped := by simp [settleStop]

@[simp] theorem shaped_finishDesc (g n : Nat) (failed : Bool) : (finishDesc g n failed s).shaped ↔ s.shaped := by
  unfold finishDesc
  split
  · rfl
  · split <;> simp

@[simp] theorem shaped_failStatus (g n : Nat) : (failStatus g n s).shaped ↔ s.shaped := by
  unfold failStatus
  dsimp only
  split <;> simp

@[simp] theorem shaped_streamStopEffect (g : Nat) : (streamStopEffect g s).shaped ↔ s.shaped := by simp [streamStopEffect]
@[simp] theorem shaped_streamCut (g : Nat) : (streamCut g s).shaped ↔ s.shaped := by simp [streamCut]

/-! ## Commons -/

@[simp] theorem shaped_writeLine (a : Nat) (data : List Byte) (mask : Nat) :
    (writeLine a data mask s).shaped ↔ s.shaped := by simp [writeLine]
@[simp] theorem shaped_loadFrom (r : CReq) (data : List Byte) (mask : Nat) :
    (loadFrom r data mask s).shaped ↔ s.shaped := by simp [loadFrom]
@[simp] theorem shaped_settleElement (g n : Nat) : (settleElement g n s).shaped ↔ s.shaped := by simp [settleElement]
@[simp] theorem shaped_dropReq (tag : Nat) : (dropReq tag s).shaped ↔ s.shaped := by simp [dropReq]
@[simp] theorem shaped_sendCommons (op dst tenant tag a : Nat) (body : List Byte) :
    (sendCommons op dst tenant tag a body s).shaped ↔ s.shaped := by simp [sendCommons]
@[simp] theorem shaped_evictLine (l : CLine) : (evictLine l s).shaped ↔ s.shaped := by simp [evictLine]
@[simp] theorem shaped_trySend (r : CReq) : (trySend r s).shaped ↔ s.shaped := by
  simp [trySend]
@[simp] theorem shaped_performOn (r : CReq) (l : CLine) : (performOn r l s).shaped ↔ s.shaped := by simp [performOn]

@[simp] theorem shaped_retryReqs : (retryReqs s).shaped ↔ s.shaped := by
  refine shaped_foldl _ (fun s r => ?_) _ _
  split
  · rfl
  · split
    · split <;> simp
    · simp

@[simp] theorem shaped_lineArrives (home a tag : Nat) (st : LineState) (data : List Byte) (mask : Nat) :
    (lineArrives home a tag st data mask s).shaped ↔ s.shaped := by
  unfold lineArrives
  split <;> simp

@[simp] theorem shaped_failReq (r : CReq) : (failReq r s).shaped ↔ s.shaped := by simp [failReq]
@[simp] theorem shaped_setDir (a : Nat) (d : Dir) : (setDir a d s).shaped ↔ s.shaped := by simp [setDir]

@[simp] theorem shaped_dirRemove (a chip : Nat) : (dirRemove a chip s).shaped ↔ s.shaped := by
  unfold dirRemove
  split <;> simp

@[simp] theorem shaped_modTxn (tag : Nat) (f : Txn → Txn) : (modTxn tag f s).shaped ↔ s.shaped := by simp [modTxn]
@[simp] theorem shaped_performHome (r : CReq) (a : Nat) : (performHome r a s).shaped ↔ s.shaped := by simp [performHome]

@[simp] theorem shaped_completeTxn (ecc : List EccFind) (t : Txn) : (completeTxn ecc t s).shaped ↔ s.shaped := by
  unfold completeTxn
  split
  · dsimp only
    split
    · simp
    · split <;> simp
  · dsimp only
    split <;> simp

@[simp] theorem shaped_startTxn (ecc : List EccFind) (t : Txn) : (startTxn ecc t s).shaped ↔ s.shaped := by simp [startTxn]

@[simp] theorem shaped_serveTxns (ecc : List EccFind) (n : Nat) : (serveTxns ecc n s).shaped ↔ s.shaped := by
  induction n generalizing s with
  | zero => rfl
  | succ n ih =>
    unfold serveTxns
    split <;> simp [ih]

@[simp] theorem shaped_addTxn (ecc : List EccFind) (a tenant requester reqTag : Nat) (exclusive own : Bool) :
    (addTxn ecc a tenant requester reqTag exclusive own s).2.shaped ↔ s.shaped := by simp [addTxn]
@[simp] theorem shaped_recallWindow (id : Nat) : (recallWindow id s).shaped ↔ s.shaped := by simp [recallWindow]
@[simp] theorem shaped_settleWindow (id : Nat) : (settleWindow id s).shaped ↔ s.shaped := by simp [settleWindow]
@[simp] theorem shaped_finishRelease (t : Nat) : (finishRelease t s).shaped ↔ s.shaped := by simp [finishRelease]
@[simp] theorem shaped_settleRemovals : (settleRemovals s).shaped ↔ s.shaped := by simp [settleRemovals]
@[simp] theorem shaped_serveOwn (ecc : List EccFind) (r : CReq) : (serveOwn ecc r s).shaped ↔ s.shaped := by simp [serveOwn]

@[simp] theorem shaped_settleTxn (ecc : List EccFind) (tag : Nat) : (settleTxn ecc tag s).shaped ↔ s.shaped := by
  unfold settleTxn
  split <;> simp

@[simp] theorem shaped_addAccess (r : CReq) : (addAccess r s).shaped ↔ s.shaped := by simp [addAccess]

@[simp] theorem shaped_serveAccess (ecc : List EccFind) (r : CReq) : (serveAccess ecc r s).shaped ↔ s.shaped := by
  unfold serveAccess
  split
  · simp
  · split
    · rfl
    · split <;> simp

@[simp] theorem shaped_commonsAccesses (ecc : List EccFind) (rs : List CReq) :
    (commonsAccesses ecc rs s).shaped ↔ s.shaped := by simp [commonsAccesses]

/-! ## Zuoth links -/

@[simp] theorem shaped_sendFlit (i : Nat) (bs : List Byte) : (sendFlit i bs s).shaped ↔ s.shaped := by simp [sendFlit]
@[simp] theorem shaped_sendIdle (i : Nat) : (sendIdle i s).shaped ↔ s.shaped := by simp [sendIdle]
@[simp] theorem shaped_sendRetryReq (i : Nat) : (sendRetryReq i s).shaped ↔ s.shaped := by simp [sendRetryReq]
@[simp] theorem shaped_openFlit (i : Nat) (flit : List Byte) (fec : FecOutcome) :
    (openFlit i flit fec s).2.shaped ↔ s.shaped := by simp [openFlit]
@[simp] theorem shaped_sendData (i : Nat) (fs : List RetryFlit) : (sendData i fs s).shaped ↔ s.shaped := by simp [sendData]
@[simp] theorem shaped_replayFrom (i q : Nat) : (replayFrom i q s).shaped ↔ s.shaped := by simp [replayFrom]

@[simp] theorem length_addAt (xs : List Nat) (c n : Nat) : (addAt xs c n).length = xs.length := List.length_modify ..

@[simp] theorem shaped_leaveBuffer (m : Msg) : (leaveBuffer m s).shaped ↔ s.shaped := by
  unfold leaveBuffer
  split <;> simp

@[simp] theorem shaped_sendInit (i : Nat) : (sendInit i s).shaped ↔ s.shaped := by simp [sendInit]
@[simp] theorem shaped_dropHolds (i : Nat) : (dropHolds i s).shaped ↔ s.shaped := by simp [dropHolds]

/-- What a link that becomes ACTIVE writes has four channels again. -/
theorem shaped_linkActive {s : State} (h : s.shaped) (i : Nat) (bs : List Byte) : (linkActive i bs s).shaped := by
  unfold linkActive
  extract_lets x partner both kept u v
  have hu : u.shaped := by simpa [u] using h
  have hv : v.shaped := shaped_modSaddle u i _ hu fun _ _ _ _ _ _ => by simp [initPools]
  simpa using hv

theorem shaped_settleInit {s : State} (h : s.shaped) (i : Nat) : (settleInit i s).shaped := by
  unfold settleInit
  dsimp only
  split
  · exact h
  next bs hbs => simp [h, shaped_linkActive h i bs]

@[simp] theorem shaped_leaveActive (i : Nat) (target : LinkMode) :
    (leaveActive i target s).shaped ↔ s.shaped := by simp [leaveActive]
@[simp] theorem shaped_retrain (i cause : Nat) : (retrain i cause s).shaped ↔ s.shaped := by simp [retrain]
@[simp] theorem shaped_arriveMsg (i : Nat) (bs : List Byte) : (arriveMsg i bs s).shaped ↔ s.shaped := by
  simp [arriveMsg]
@[simp] theorem shaped_acceptData (i : Nat) (bs : List Byte) : (acceptData i bs s).shaped ↔ s.shaped := by simp [acceptData]
@[simp] theorem shaped_askRetry (i : Nat) : (askRetry i s).shaped ↔ s.shaped := by simp [askRetry]

@[simp] theorem shaped_refuseData (i q : Nat) : (refuseData i q s).shaped ↔ s.shaped := by
  unfold refuseData
  split <;> simp

/-- The credit totals of a flit are those of four channels (R322). -/
theorem shaped_modSaddle_takeAck {s : State} (h : s.shaped) (i : Nat) (bs : List Byte) (now : Nat) :
    (modSaddle i (takeAck bs now) s).shaped :=
  shaped_modSaddle s i _ h fun x hp ht hs hr hf => ⟨hp, by simp [takeAck, flitTotals, ht], hs, hr, hf⟩

theorem shaped_controlFlit {s : State} (h : s.shaped) (i kind : Nat) (flit : List Byte) (fec : FecOutcome)
    (act : Nat → State → State) (hact : ∀ n t, (act n t).shaped ↔ t.shaped) : (controlFlit i kind flit fec act s).shaped := by
  unfold controlFlit
  dsimp only
  split
  · exact h
  · split
    next hy => simpa [shaped_of_eq_mk hy] using h
    next bs u hy =>
      have hu : u.shaped := by simpa [shaped_of_eq_mk hy] using h
      simp [hact, hu, shaped_modSaddle_takeAck]

@[simp] theorem shaped_enableLinks (mask : Nat) : (enableLinks mask s).shaped ↔ s.shaped := by simp [enableLinks]

theorem shaped_fabricEffect {s : State} (h : s.shaped) (pl : List Byte) : (fabricEffect pl s).shaped := by
  refine foldl_keeps State.shaped _ (fun s i hs => ?_) _ _ (by simpa using h)
  have hinit : (settleInit i (sendInit i s)).shaped := shaped_settleInit (by simpa using hs) i
  simp [hs, hinit]

section
variable {s} (h : s.shaped)
include h

theorem keepsUnits_execMessageSend (saddle : SaddleId) : keepsUnits (execMessageSend saddle s) := by
  unfold execMessageSend
  dsimp only
  split <;> simp [h]

theorem keepsUnits_execLinkTrainingDone (saddle : SaddleId) (ok : Bool) :
    keepsUnits (execLinkTrainingDone saddle ok s) := by simp [execLinkTrainingDone, h]
theorem keepsUnits_execInitResend (saddle : SaddleId) : keepsUnits (execInitResend saddle s) := by simp [execInitResend, h]

theorem keepsUnits_execInitFlitRx (saddle : SaddleId) (flit : List Byte) (fec : FecOutcome) :
    keepsUnits (execInitFlitRx saddle flit fec s) := by
  unfold execInitFlitRx
  dsimp only
  split
  · simp [h]
  · split
    next u hy => simp [shaped_of_eq_mk hy, h]
    next bs u hy =>
      have hu : u.shaped := by simpa [shaped_of_eq_mk hy] using h
      simp [hu, shaped_settleInit]

theorem keepsUnits_execFabricMismatchRetry (saddle : SaddleId) : keepsUnits (execFabricMismatchRetry saddle s) := by
  unfold execFabricMismatchRetry
  dsimp only
  split <;> simp [h]

theorem keepsUnits_execZuothLaneLoss (saddle : SaddleId) :
    keepsUnits (execZuothLaneLoss saddle s) := by simp [execZuothLaneLoss, h]
theorem keepsUnits_execLinkHoldExpiry (saddle : SaddleId) :
    keepsUnits (execLinkHoldExpiry saddle s) := by simp [execLinkHoldExpiry, h]

theorem keepsUnits_execDataFlitRx (saddle : SaddleId) (flit : List Byte) (fec : FecOutcome) :
    keepsUnits (execDataFlitRx saddle flit fec s) := by
  unfold execDataFlitRx
  dsimp only
  split
  · simp [h]
  · split
    next u hy => simp [shaped_of_eq_mk hy, h]
    next bs u hy =>
      have hu : u.shaped := by simpa [shaped_of_eq_mk hy] using h
      simp [hu, shaped_modSaddle_takeAck]

theorem keepsUnits_execIdleFlitRx (saddle : SaddleId) (flit : List Byte) (fec : FecOutcome) :
    keepsUnits (execIdleFlitRx saddle flit fec s) := (keepsUnits_next _).mpr (shaped_controlFlit h _ _ _ _ _ fun q t => by simp)
theorem keepsUnits_execRetryReqRx (saddle : SaddleId) (flit : List Byte) (fec : FecOutcome) :
    keepsUnits (execRetryReqRx saddle flit fec s) := (keepsUnits_next _).mpr (shaped_controlFlit h _ _ _ _ _ fun q t => by simp)
theorem keepsUnits_execRetryReqRepeat (saddle : SaddleId) :
    keepsUnits (execRetryReqRepeat saddle s) := by simp [execRetryReqRepeat, h]

theorem keepsUnits_execAckTimeout (saddle : SaddleId) : keepsUnits (execAckTimeout saddle s) := by
  unfold execAckTimeout
  dsimp only
  split <;> simp [h]

theorem keepsUnits_execNotReadyRx (saddle : SaddleId) (flit : List Byte) (fec : FecOutcome) :
    keepsUnits (execNotReadyRx saddle flit fec s) := (keepsUnits_next _).mpr (shaped_controlFlit h _ _ _ _ _ fun q t => by simp)

theorem keepsUnits_execNotReadyBackoffExpiry (saddle : SaddleId) : keepsUnits (execNotReadyBackoffExpiry saddle s) := by
  unfold execNotReadyBackoffExpiry
  split <;> simp [h]

theorem keepsUnits_execFabricConfig (fn : Fn) :
    keepsUnits (execFabricConfig fn s) := keepsUnits_runCommand h fun _ _ => by simp [h]

end

/-! ## Zuoth messages -/

@[simp] theorem shaped_popMsg (i : Nat) : (popMsg i s).shaped ↔ s.shaped := by simp [popMsg]

theorem shaped_takeMsg {port : MsgPort} {op : Nat} {s : State} {y : Msg × State} (h : takeMsg port op s = some y) :
    y.2.shaped ↔ s.shaped := by
  unfold takeMsg at h
  split at h
  · split at h <;> cases h
    simp
  · split at h
    · cases h
    · obtain ⟨m, -, hy⟩ := Option.bind_eq_some_iff.mp h
      split at hy <;> cases hy
      simp

@[simp] theorem shaped_remoteSignal (f v : Nat) : (remoteSignal f v s).shaped ↔ s.shaped := by
  simp [remoteSignal]

@[simp] theorem shaped_homeRequest (ecc : List EccFind) (exclusive : Bool) (m : Msg) :
    (homeRequest ecc exclusive m s).shaped ↔ s.shaped := by
  unfold homeRequest
  dsimp only
  split
  · simp
  · split
    next hy => simp [shaped_of_eq_mk hy]
    next hy => simp [shaped_of_eq_mk hy]

@[simp] theorem shaped_answerSnoop (op : Nat) (m : Msg) (body : List Byte) :
    (answerSnoop op m body s).shaped ↔ s.shaped := by simp [answerSnoop]

@[simp] theorem shaped_snoop (inval : Bool) (m : Msg) : (snoop inval m s).shaped ↔ s.shaped := by
  unfold snoop
  split
  · dsimp only
    split <;> simp
  · dsimp only
    split <;> simp

@[simp] theorem shaped_ackEviction (chip entry tenant a : Nat) :
    (ackEviction chip entry tenant a s).shaped ↔ s.shaped := by simp [ackEviction]
@[simp] theorem shaped_takeEviction (chip entry tenant a : Nat) (data : List Byte) (mask : Nat) :
    (takeEviction chip entry tenant a data mask s).shaped ↔ s.shaped := by
  simp [takeEviction]

@[simp] theorem shaped_dirAnswered (t : Txn) (chip : Nat) : (dirAnswered t chip s).shaped ↔ s.shaped := by
  unfold dirAnswered
  split
  · simp
  · split <;> simp

@[simp] theorem shaped_snoopAnswer (ecc : List EccFind) (act : Txn → Msg → State → State) (m : Msg) (hact : ∀ x y t,
    (act x y t).shaped ↔ t.shaped) : (snoopAnswer ecc act m s).shaped ↔ s.shaped := by
  unfold snoopAnswer
  split <;> simp [hact]

@[simp] theorem shaped_lineMessage (st : LineState) (m : Msg) : (lineMessage st m s).shaped ↔ s.shaped := by simp [lineMessage]

@[simp] theorem shaped_remoteNak (m : Msg) (reason : Nat) : (remoteNak m reason s).shaped ↔ s.shaped := by
  unfold remoteNak
  split <;> simp

@[simp] theorem shaped_failTerm (m : Msg) (model : Option Model) (reason : Nat) :
    (failTerm m model reason s).shaped ↔ s.shaped := by simp [failTerm]

@[simp] theorem shaped_applyGh (ecc : List EccFind) (id eg eh : Nat) (e : List Byte) :
    (applyGh ecc id eg eh e s).shaped ↔ s.shaped := by
  unfold applyGh
  split
  · dsimp only
    split <;> simp
  · rfl

@[simp] theorem shaped_windowCreateEffect (t id : Nat) (plots dir : List Nat) :
    (windowCreateEffect t id plots dir s).shaped ↔ s.shaped := by simp [windowCreateEffect]
@[simp] theorem shaped_windowRemoveEffect (id : Nat) :
    (windowRemoveEffect id s).shaped ↔ s.shaped := by simp [windowRemoveEffect]

section
variable {s} (h : s.shaped)
include h

theorem keepsUnits_onMessage {port : MsgPort} {op : Nat} {act : Msg → State → State}
    (hact : ∀ m t, (act m t).shaped ↔ t.shaped) : keepsUnits (onMessage port op act s) := by
  unfold onMessage
  split
  · simpa using h
  next hy => simpa [hact] using (shaped_takeMsg hy).mpr h

theorem keepsUnits_execMessageViolation (saddle : SaddleId) : keepsUnits (execMessageViolation saddle s) := by
  unfold execMessageViolation
  split
  · simp [h]
  · split <;> simp [h]

theorem keepsUnits_execMessageForward (saddle : SaddleId) : keepsUnits (execMessageForward saddle s) := by
  unfold execMessageForward
  split <;> simp [h]

theorem keepsUnits_execAdaptiveRouteFallback (saddle : SaddleId) : keepsUnits (execAdaptiveRouteFallback saddle s) := by
  unfold execAdaptiveRouteFallback
  split <;> simp [h]

theorem keepsUnits_execWmkSignal (port : MsgPort) :
    keepsUnits (execWmkSignal port s) := keepsUnits_onMessage h fun _ _ => by simp
theorem keepsUnits_execWmkRemoteWrite (fn : Fn) (value : Nat) :
    keepsUnits (execWmkRemoteWrite fn value s) := by simp [execWmkRemoteWrite, h]
theorem keepsUnits_execRdS (port : MsgPort) (ecc : List EccFind) :
    keepsUnits (execRdS port ecc s) := keepsUnits_onMessage h fun _ _ => by simp
theorem keepsUnits_execRdM (port : MsgPort) (ecc : List EccFind) :
    keepsUnits (execRdM port ecc s) := keepsUnits_onMessage h fun _ _ => by simp
theorem keepsUnits_execSnpShare (port : MsgPort) : keepsUnits (execSnpShare port s) := keepsUnits_onMessage h fun _ _ => by simp
theorem keepsUnits_execSnpInv (port : MsgPort) : keepsUnits (execSnpInv port s) := keepsUnits_onMessage h fun _ _ => by simp
theorem keepsUnits_execSnpRspInvalid (port : MsgPort) (ecc : List EccFind) :
    keepsUnits (execSnpRspInvalid port ecc s) := keepsUnits_onMessage h fun _ _ => by simp
theorem keepsUnits_execSnpRspAck (port : MsgPort) (ecc : List EccFind) :
    keepsUnits (execSnpRspAck port ecc s) := keepsUnits_onMessage h fun _ _ => by simp

theorem keepsUnits_execSnpRspEvicting (port : MsgPort) (ecc : List EccFind) : keepsUnits (execSnpRspEvicting port ecc s) := by
  refine keepsUnits_onMessage h fun m t => shaped_snoopAnswer _ _ _ _ fun x m t => ?_
  dsimp only
  split <;> simp

theorem keepsUnits_execSnpRspData (port : MsgPort) (ecc : List EccFind) :
    keepsUnits (execSnpRspData port ecc s) := keepsUnits_onMessage h fun _ _ => by simp
theorem keepsUnits_execEvictClean (port : MsgPort) (_ecc : List EccFind) :
    keepsUnits (execEvictClean port _ecc s) := keepsUnits_onMessage h fun _ _ => by simp

theorem keepsUnits_execEvictDirty (port : MsgPort) (ecc : List EccFind) : keepsUnits (execEvictDirty port ecc s) := by
  refine keepsUnits_onMessage h fun m t => ?_
  dsimp only
  split <;> simp

theorem keepsUnits_execEvictAck (port : MsgPort) : keepsUnits (execEvictAck port s) := keepsUnits_onMessage h fun _ _ => by simp
theorem keepsUnits_execDataS (port : MsgPort) : keepsUnits (execDataS port s) := keepsUnits_onMessage h fun _ _ => by simp
theorem keepsUnits_execDataE (port : MsgPort) : keepsUnits (execDataE port s) := keepsUnits_onMessage h fun _ _ => by simp
theorem keepsUnits_execDataM (port : MsgPort) : keepsUnits (execDataM port s) := keepsUnits_onMessage h fun _ _ => by simp
theorem keepsUnits_execNak (port : MsgPort) : keepsUnits (execNak port s) := keepsUnits_onMessage h fun _ _ => by simp

theorem keepsUnits_execCommonsNakRetry (tag : Nat) : keepsUnits (execCommonsNakRetry tag s) := by
  unfold execCommonsNakRetry
  split <;> simp [h]

theorem keepsUnits_execCommonsRequestTimeout (eviction : Bool) (tag : Nat) :
    keepsUnits (execCommonsRequestTimeout eviction tag s) := by
  unfold execCommonsRequestTimeout
  split
  · split <;> simp [h]
  · split <;> simp [h]

theorem keepsUnits_execCommonsSnoopTimeout (tag : Nat) (ecc : List EccFind) :
    keepsUnits (execCommonsSnoopTimeout tag ecc s) := by
  unfold execCommonsSnoopTimeout
  split <;> simp [h]

theorem keepsUnits_execRecordMc (port : MsgPort) : keepsUnits (execRecordMc port s) := by
  refine keepsUnits_onMessage h fun m t => ?_
  dsimp only
  split
  · simp
  · split
    · simp
    · split
      · simp
      · split
        next hy => exact shaped_takeCtx hy
        · simp

theorem keepsUnits_execTerm (port : MsgPort) : keepsUnits (execTerm port s) := by
  refine keepsUnits_onMessage h fun m t => ?_
  dsimp only
  split
  · simp
  · split
    · simp
    · split
      · simp
      · split <;> simp

theorem keepsUnits_execRefitGh (port : MsgPort) (ecc : List EccFind) : keepsUnits (execRefitGh port s ecc) := by
  refine keepsUnits_onMessage h fun m t => ?_
  dsimp only
  split <;> simp

theorem keepsUnits_execPing (port : MsgPort) : keepsUnits (execPing port s) := keepsUnits_onMessage h fun _ _ => by simp
theorem keepsUnits_execPong (port : MsgPort) : keepsUnits (execPong port s) := keepsUnits_onMessage h fun _ _ => by simp
theorem keepsUnits_execCommonsWindowCreate (fn : Fn) :
    keepsUnits (execCommonsWindowCreate fn s) := keepsUnits_runCommand h fun _ _ => by simp [h]
theorem keepsUnits_execCommonsWindowRemove (fn : Fn) :
    keepsUnits (execCommonsWindowRemove fn s) := keepsUnits_runCommand h fun _ _ => by simp [h]

end

/-! ## Host DMA -/

@[simp] theorem shaped_writeTail (f j value : Nat) : (writeTail f j value s).shaped ↔ s.shaped := by simp [writeTail]
@[simp] theorem shaped_waitFailed (g n : Nat) (st : WaitState) : (waitFailed g n st s).shaped ↔ s.shaped := by simp [waitFailed]

@[simp] theorem shaped_tryStart (g n : Nat) : (tryStart g n s).shaped ↔ s.shaped := by
  unfold tryStart
  split
  · rfl
  · split <;> simp

@[simp] theorem shaped_armDesc (g n : Nat) (bs : List Byte) : (armDesc g n bs s).shaped ↔ s.shaped := by simp [armDesc]
@[simp] theorem shaped_fetchDesc (g : Nat) (bs : List Byte) : (fetchDesc g bs s).shaped ↔ s.shaped := by simp [fetchDesc]
@[simp] theorem shaped_issueElement (g : Nat) (d : Desc) : (issueElement g d s).shaped ↔ s.shaped := by simp [issueElement]
@[simp] theorem shaped_markAnswer (g : Nat) (on : Bool) : (markAnswer g on s).shaped ↔ s.shaped := by simp [markAnswer]
@[simp] theorem shaped_issueAnswer (g : Nat) : (issueAnswer g s).shaped ↔ s.shaped := by simp [issueAnswer]
@[simp] theorem shaped_issueFetch (f : Fetch) : (issueFetch f s).shaped ↔ s.shaped := by simp [issueFetch]

@[simp] theorem shaped_issueReq (g : Nat) (r : StreamReq) : (issueReq g r s).shaped ↔ s.shaped := by
  unfold issueReq
  split <;> simp

@[simp] theorem shaped_copyIn (g : Nat) (d : Desc) (k : Nat) (plots : List Nat) (data : List Byte) (ecc : List EccFind) :
    (copyIn g d k plots data ecc s).shaped ↔ s.shaped := by
  unfold copyIn
  dsimp only
  split <;> simp

@[simp] theorem shaped_copyOut (g : Nat) (d : Desc) (k : Nat) (plots : List Nat) (ecc : List EccFind) :
    (copyOut g d k plots ecc s).shaped ↔ s.shaped := by
  unfold copyOut
  dsimp only
  split <;> simp

@[simp] theorem shaped_failFetch : (failFetch s).shaped ↔ s.shaped := by
  unfold failFetch
  split
  · rfl
  · split <;> simp

@[simp] theorem shaped_failWho (w : PriWait) : (failWho w s).shaped ↔ s.shaped := by
  unfold failWho
  split <;> simp

@[simp] theorem shaped_pumpPri (f : Nat) : (pumpPri f s).shaped ↔ s.shaped := by simp [pumpPri]
@[simp] theorem shaped_requestPri (who : PriWho) (f page : Nat) (write : Bool) :
    (requestPri who f page write s).shaped ↔ s.shaped := by simp [requestPri]
@[simp] theorem shaped_forPris (sel : PriWait → Bool) (act : PriWait → State → State) (hact : ∀ x t,
    (act x t).shaped ↔ t.shaped) : (forPris sel act s).shaped ↔ s.shaped := by simp [forPris, hact]
@[simp] theorem shaped_resumeDesc (g n : Nat) : (resumeDesc g n s).shaped ↔ s.shaped := by simp [resumeDesc]

@[simp] theorem shaped_resumeWho (w : PriWait) : (resumeWho w s).shaped ↔ s.shaped := by
  unfold resumeWho
  split <;> simp

@[simp] theorem shaped_haltDesc (who : PriWho) (g n k page : Nat) (write : Bool) :
    (haltDesc who g n k page write s).shaped ↔ s.shaped := by simp [haltDesc]

@[simp] theorem shaped_newFaults (f page size : Nat) : (newFaults f page size s).shaped ↔ s.shaped := by
  unfold newFaults
  extract_lets hit s1 s2 s3 s4
  have h1 : s1.shaped ↔ s.shaped := shaped_foldl _ (fun s g => shaped_foldl _ (fun s d => by split <;> simp) _ _) _ _
  have h2 : s2.shaped ↔ s1.shaped :=
    shaped_foldl _ (fun s g => shaped_option_elim _ _ _ fun x => by split <;> simp) _ _
  have h3 : s3.shaped ↔ s2.shaped := shaped_foldl _ (fun s g => shaped_foldl _ (fun s d => by split <;> simp) _ _) _ _
  have h4 : s4.shaped ↔ s3.shaped := by
    unfold s4
    split
    · rfl
    · exact shaped_option_elim _ _ _ fun x => by simp
  split <;> simp [h1, h2, h3, h4]

@[simp] theorem shaped_writeDueStatus (f : Nat) : (writeDueStatus f s).shaped ↔ s.shaped := by simp [writeDueStatus]
@[simp] theorem shaped_streamStartEffect (g : Nat) : (streamStartEffect g s).shaped ↔ s.shaped := by simp [streamStartEffect]
@[simp] theorem shaped_freeAlloc (a : DataAlloc) : (freeAlloc a s).shaped ↔ s.shaped := by simp [freeAlloc]

section
variable {s} (h : s.shaped)
include h

theorem keepsUnits_execDmaRingTailWrite (fn : Fn) (stream : Fin 8) (value : Nat) :
    keepsUnits (execDmaRingTailWrite fn stream value s) := by simp [execDmaRingTailWrite, h]

theorem keepsUnits_execDescriptorStart (stream : StreamId) (descriptor : List Byte) :
    keepsUnits (execDescriptorStart stream descriptor s) := by
  unfold execDescriptorStart
  dsimp only
  split
  · simp [h]
  · split <;> simp [h]

theorem keepsUnits_execDmaRequestIssue : keepsUnits (execDmaRequestIssue s) := by
  unfold execDmaRequestIssue
  split <;> simp [h]

theorem keepsUnits_execDmaElement (stream : StreamId) (number : Nat) (data : List Byte) (ecc tables : List EccFind) :
    keepsUnits (execDmaElement stream number data ecc s tables) := by
  unfold execDmaElement
  dsimp only
  split
  · simp [h]
  · split
    · simp [h]
    · split
      · simp [h]
      · split
        · simp [h]
        · split <;> simp [h]

theorem keepsUnits_execCompletionTimeout (stream : StreamId) (number : Nat) :
    keepsUnits (execCompletionTimeout stream number s) := by
  unfold execCompletionTimeout
  dsimp only
  split <;> simp [h]

theorem keepsUnits_execTranslationCompletion (fn : Fn) (page sizeLog2 : Nat) (read write : Bool) (target : Nat) :
    keepsUnits (execTranslationCompletion fn page sizeLog2 read write s target) := by simp [execTranslationCompletion, h]
theorem keepsUnits_execPageRequestResponse (fn : Fn) (page : Nat) (response : PriResponse) :
    keepsUnits (execPageRequestResponse fn page response s) := by simp [execPageRequestResponse, h]
theorem keepsUnits_execPriLimitExpiry (fn : Fn) (page : Nat) :
    keepsUnits (execPriLimitExpiry fn page s) := by simp [execPriLimitExpiry, h]
theorem keepsUnits_execAtsInvalidateRequest (fn : Fn) (page sizeLog2 : Nat) :
    keepsUnits (execAtsInvalidateRequest fn page sizeLog2 s) := by simp [execAtsInvalidateRequest, h]

theorem keepsUnits_execRingAnswerWrite (stream : StreamId) : keepsUnits (execRingAnswerWrite stream s) := by
  unfold execRingAnswerWrite
  dsimp only
  split
  · simp [h]
  · split <;> simp [h]

theorem keepsUnits_execDescriptorComplete (stream : StreamId) (number : Nat) :
    keepsUnits (execDescriptorComplete stream number s) := by
  unfold execDescriptorComplete
  dsimp only
  split <;> simp [h]

theorem keepsUnits_execStreamConfig (fn : Fn) :
    keepsUnits (execStreamConfig fn s) := keepsUnits_runCommand h fun _ _ => by simp [h]
theorem keepsUnits_execStreamStart (fn : Fn) :
    keepsUnits (execStreamStart fn s) := keepsUnits_runCommand h fun _ _ => by simp [h]
theorem keepsUnits_execStreamStop (fn : Fn) : keepsUnits (execStreamStop fn s) := keepsUnits_runCommand h fun _ _ => by simp [h]
theorem keepsUnits_execDataAllocAllocate (fn : Fn) :
    keepsUnits (execDataAllocAllocate fn s) := keepsUnits_runCommand h fun _ _ => by simp [h]
theorem keepsUnits_execDataAllocFree (fn : Fn) :
    keepsUnits (execDataAllocFree fn s) := keepsUnits_runCommand h fun _ _ => by simp [h]

end

end Sys2Proof.Machine
end

section
/-! SUPPORT. What keeps the numbers of the units. Of ports, tenants, management, registers, boot and the Milestone (chapters
12, 16 to 19). -/

namespace Sys2Proof.Machine

variable (s : State)

/-! ## Port commands -/

@[simp] theorem shaped_portModeEffect (e mode fec : Nat) (train : Bool) :
    (portModeEffect e mode fec train s).shaped ↔ s.shaped := by simp [portModeEffect]
@[simp] theorem shaped_portAddressEffect (l : Nat) (pl : List Byte) :
    (portAddressEffect l pl s).shaped ↔ s.shaped := by simp [portAddressEffect]
@[simp] theorem shaped_portOpenEffect (l : Nat) : (portOpenEffect l s).shaped ↔ s.shaped := by simp [portOpenEffect]
@[simp] theorem shaped_portDrainEffect (l : Nat) : (portDrainEffect l s).shaped ↔ s.shaped := by simp [portDrainEffect]

section
variable {s} (h : s.shaped)
include h

theorem keepsUnits_execPortMode (fn : Fn) : keepsUnits (execPortMode fn s) := keepsUnits_runCommand h fun _ _ => by simp [h]
theorem keepsUnits_execPortAddress (fn : Fn) :
    keepsUnits (execPortAddress fn s) := keepsUnits_runCommand h fun _ _ => by simp [h]
theorem keepsUnits_execPortStateOpen (fn : Fn) :
    keepsUnits (execPortStateOpen fn s) := keepsUnits_runCommand h fun _ _ => by simp [h]
theorem keepsUnits_execPortStateDraining (fn : Fn) :
    keepsUnits (execPortStateDraining fn s) := keepsUnits_runCommand h fun _ _ => by simp [h]
theorem keepsUnits_execEndpointAdd (fn : Fn) :
    keepsUnits (execEndpointAdd fn s) := keepsUnits_runCommand h fun _ _ => by simp [h]
theorem keepsUnits_execEndpointRemove (fn : Fn) :
    keepsUnits (execEndpointRemove fn s) := keepsUnits_runCommand h fun _ _ => by simp [h]
theorem keepsUnits_execPortQuery (fn : Fn) : keepsUnits (execPortQuery fn s) := keepsUnits_runCommand h fun _ _ => by simp [h]

end

/-! ## Tenants and functions -/

@[simp] theorem shaped_zeroCairn (q : Quota) : (zeroCairn q s).shaped ↔ s.shaped := by simp [zeroCairn]
@[simp] theorem shaped_zeroEntries (cs : List Nat) : (zeroEntries cs s).shaped ↔ s.shaped := by simp [zeroEntries]
theorem shaped_zeroWaymarks {s : State} (h : s.shaped) (t : Nat) (q : Quota) : (zeroWaymarks t q s).shaped :=
  shaped_idleSlots ((shaped_foldl _ (by simp) _ _).mpr h) _

theorem shaped_tenantSetEffect {s : State} (h : s.shaped) (t : Nat) (q : Quota) : (tenantSetEffect t q s).shaped := by
  unfold tenantSetEffect
  split
  · simpa using h
  · extract_lets cur u v
    have hu : u.shaped := by simpa [u] using h
    have hv : v.shaped := by
      unfold v
      split
      · exact hu
      · exact shaped_zeroWaymarks hu _ _
    simpa using hv

@[simp] theorem shaped_releaseRecords (t : Nat) : (releaseRecords t s).shaped ↔ s.shaped := by simp [releaseRecords]
@[simp] theorem shaped_releaseStreams (t : Nat) : (releaseStreams t s).shaped ↔ s.shaped := by
  simp [releaseStreams]
@[simp] theorem shaped_resetQueue (f : Nat) (q : EvtQueue) : (resetQueue f q s).shaped ↔ s.shaped := by
  simp [resetQueue]
@[simp] theorem shaped_releaseEndpoints (t : Nat) : (releaseEndpoints t s).shaped ↔ s.shaped := by simp [releaseEndpoints]

theorem shaped_releaseResources {s : State} (h : s.shaped) (t : Nat) (entries : List Nat) :
    (releaseResources t entries s).shaped := by
  unfold releaseResources
  extract_lets q u v w x ids
  have hu : u.shaped := (shaped_foldl _ (by simp) _ _).mpr h
  have hv : v.shaped := shaped_zeroWaymarks (by simpa using hu) _ _
  simpa [x, w] using hv

theorem shaped_releaseEffect {s : State} (h : s.shaped) (t : Nat) : (releaseEffect t s).shaped := by
  unfold releaseEffect
  extract_lets u entries v
  have hv : v.shaped := shaped_releaseResources (by simpa [u] using h) _ _
  simpa using hv

theorem shaped_tenantStateEffect {s : State} (h : s.shaped) (t op : Nat) : (tenantStateEffect t op s).shaped := by
  unfold tenantStateEffect
  dsimp only
  split
  case h_5 => exact shaped_releaseEffect h t
  all_goals simpa using h

theorem shaped_resetFnPage {s : State} (h : s.shaped) (f : Nat) : (resetFnPage f s).shaped :=
  (shaped_resetQueue ..).mpr (shaped_modFn_of h fun _ hw _ => ⟨hw, List.length_replicate⟩)

theorem shaped_vfReset {s : State} (h : s.shaped) (t : Nat) : (vfReset t s).shaped := by
  unfold vfReset
  extract_lets f u v
  have hv : v.shaped := shaped_resetFnPage (shaped_idleSlots (by simpa [u] using h) _) _
  simpa using hv

section
variable {s} (h : s.shaped)
include h

theorem keepsUnits_stateCommand (fn : Fn) (op : Nat) (accepted : List TenantState) (wait : Bool) :
    keepsUnits (stateCommand fn op accepted wait s) :=
  keepsUnits_runCommand h fun pl t => by simp [h]

theorem keepsUnits_wmkInit (fn : Fn) (op : Nat) (act : List Byte → Nat → State → State)
    (hact : ∀ pl i t, (act pl i t).shaped ↔ t.shaped) : keepsUnits (wmkInit fn op act s) :=
  keepsUnits_runCommand h fun pl t => by simp [hact, h]

theorem keepsUnits_execTenantSet (fn : Fn) : keepsUnits (execTenantSet fn s) := keepsUnits_runCommand h fun _ _ => by simp [h]
theorem keepsUnits_execTenantEnable (fn : Fn) : keepsUnits (execTenantEnable fn s) := keepsUnits_stateCommand h _ _ _ _
theorem keepsUnits_execTenantDisable (fn : Fn) : keepsUnits (execTenantDisable fn s) := keepsUnits_stateCommand h _ _ _ _
theorem keepsUnits_execTenantPreempt (fn : Fn) : keepsUnits (execTenantPreempt fn s) := keepsUnits_stateCommand h _ _ _ _
theorem keepsUnits_execTenantResume (fn : Fn) : keepsUnits (execTenantResume fn s) := keepsUnits_stateCommand h _ _ _ _
theorem keepsUnits_execTenantRelease (fn : Fn) : keepsUnits (execTenantRelease fn s) := keepsUnits_stateCommand h _ _ _ _
theorem keepsUnits_execVfFunctionLevelReset (vf : Tid) :
    keepsUnits (execVfFunctionLevelReset vf s) := (keepsUnits_next _).mpr (shaped_vfReset h vf)

theorem keepsUnits_execVfEnableClear :
    keepsUnits (execVfEnableClear s) :=
  (keepsUnits_next _).mpr (foldl_keeps State.shaped _ (fun _ t hs => shaped_vfReset hs t) _ _ h)

theorem keepsUnits_execTenantQuery (fn : Fn) :
    keepsUnits (execTenantQuery fn s) := keepsUnits_runCommand h fun _ _ => by simp [h]
theorem keepsUnits_execWaymarkInitReset (fn : Fn) :
    keepsUnits (execWaymarkInitReset fn s) := keepsUnits_wmkInit h fn _ _ (by simp)
theorem keepsUnits_execWaymarkInitArmBarrier (fn : Fn) :
    keepsUnits (execWaymarkInitArmBarrier fn s) := keepsUnits_wmkInit h fn _ _ (by simp)
theorem keepsUnits_execWaymarkInitRemoteOn (fn : Fn) :
    keepsUnits (execWaymarkInitRemoteOn fn s) := keepsUnits_wmkInit h fn _ _ (by simp)
theorem keepsUnits_execWaymarkInitRemoteOff (fn : Fn) :
    keepsUnits (execWaymarkInitRemoteOff fn s) := keepsUnits_wmkInit h fn _ _ (by simp)
theorem keepsUnits_execWaymarkQuery (fn : Fn) :
    keepsUnits (execWaymarkQuery fn s) := keepsUnits_runCommand h fun _ _ => by simp [h]

end

/-! ## The remaining mailbox commands -/

@[simp] theorem shaped_canaryEffect (r : Nat) (on : Bool) : (canaryEffect r on s).shaped ↔ s.shaped := by simp [canaryEffect]

@[simp] theorem shaped_detourEffect (id op : Nat) : (detourEffect id op s).shaped ↔ s.shaped := by
  unfold detourEffect
  split <;> simp

@[simp] theorem shaped_powerEffect (pl : List Byte) : (powerEffect pl s).shaped ↔ s.shaped := by simp [powerEffect]

@[simp] theorem shaped_freeBytes (n : Nat) : (freeBytes n s).2.shaped ↔ s.shaped := by
  induction n generalizing s with
  | zero => rfl
  | succ n ih => simp [freeBytes, ih]

@[simp] theorem shaped_diagnosticBytes (a n : Nat) : (diagnosticBytes s a n).2.shaped ↔ s.shaped := by simp [diagnosticBytes]
@[simp] theorem shaped_diagnosticFinds (ecc : List EccFind) (a n : Nat) :
    (diagnosticFinds ecc a n s).shaped ↔ s.shaped := by simp [diagnosticFinds]

@[simp] theorem shaped_takeCommand (f : Nat) : (takeCommand s f).shaped ↔ s.shaped := by
  unfold takeCommand
  dsimp only
  split <;> simp

@[simp] theorem shaped_takeCommands : (takeCommands s).shaped ↔ s.shaped := by simp [takeCommands]

section
variable {s} (h : s.shaped)
include h

theorem keepsUnits_refitCommand (fn : Fn) (op : Nat) (own : State → Model → RefitSt → Option Refused) :
    keepsUnits (refitCommand fn op own s) :=
  keepsUnits_runCommand h fun pl t => by split <;> simp [h]

theorem keepsUnits_detourCommand (fn : Fn) (op : Nat) : keepsUnits (detourCommand fn op s) :=
  keepsUnits_runCommand h fun pl t => by split <;> simp [h]
theorem keepsUnits_execIdentify (fn : Fn) : keepsUnits (execIdentify fn s) := keepsUnits_runCommand h fun _ _ => by simp [h]
theorem keepsUnits_execDeviceStatus (fn : Fn) :
    keepsUnits (execDeviceStatus fn s) := keepsUnits_runCommand h fun _ _ => by simp [h]
theorem keepsUnits_execMemoryConfig (fn : Fn) :
    keepsUnits (execMemoryConfig fn s) := keepsUnits_runCommand h fun _ _ => by simp [h]
theorem keepsUnits_execRidgeCanary (fn : Fn) :
    keepsUnits (execRidgeCanary fn s) := keepsUnits_runCommand h fun _ _ => by simp [h]
theorem keepsUnits_execRefitPause (fn : Fn) : keepsUnits (execRefitPause fn s) := keepsUnits_refitCommand h _ _ _
theorem keepsUnits_execRefitResume (fn : Fn) : keepsUnits (execRefitResume fn s) := keepsUnits_refitCommand h _ _ _
theorem keepsUnits_execResetStats (fn : Fn) : keepsUnits (execResetStats fn s) := keepsUnits_refitCommand h _ _ _
theorem keepsUnits_execPropose (fn : Fn) : keepsUnits (execPropose fn s) := keepsUnits_refitCommand h _ _ _
theorem keepsUnits_execDiscard (fn : Fn) : keepsUnits (execDiscard fn s) := keepsUnits_refitCommand h _ _ _

theorem keepsUnits_execCommit (fn : Fn) (ecc : List EccFind) : keepsUnits (execCommit fn s ecc) := by
  refine keepsUnits_runCommand h fun pl t => ?_
  split
  · exact h
  · dsimp only
    split <;> simp [h]

theorem keepsUnits_execRefitQuery (fn : Fn) :
    keepsUnits (execRefitQuery fn s) := keepsUnits_runCommand h fun _ _ => by split <;> simp [h]
theorem keepsUnits_execDetourQuery (fn : Fn) :
    keepsUnits (execDetourQuery fn s) := keepsUnits_runCommand h fun _ _ => by split <;> simp [h]
theorem keepsUnits_execDetourHold (fn : Fn) : keepsUnits (execDetourHold fn s) := keepsUnits_detourCommand h _ _
theorem keepsUnits_execDetourUnhold (fn : Fn) : keepsUnits (execDetourUnhold fn s) := keepsUnits_detourCommand h _ _
theorem keepsUnits_execDetourEndAll (fn : Fn) : keepsUnits (execDetourEndAll fn s) := keepsUnits_detourCommand h _ _
theorem keepsUnits_execPower (fn : Fn) : keepsUnits (execPower fn s) := keepsUnits_runCommand h fun _ _ => by simp [h]
theorem keepsUnits_execSensors (fn : Fn) : keepsUnits (execSensors fn s) := keepsUnits_runCommand h fun _ _ => by simp [h]
theorem keepsUnits_execEventQueue (fn : Fn) : keepsUnits (execEventQueue fn s) := keepsUnits_runCommand h fun _ _ => by simp [h]
theorem keepsUnits_execEventLog (fn : Fn) : keepsUnits (execEventLog fn s) := keepsUnits_runCommand h fun _ _ => by simp [h]

theorem keepsUnits_execMemRead (fn : Fn) (ecc : List EccFind) : keepsUnits (execMemRead fn ecc s) := by
  refine keepsUnits_runCommand h fun pl t => ?_
  dsimp only
  split <;> simp [h]

theorem keepsUnits_execMemWrite (fn : Fn) (ecc : List EccFind) : keepsUnits (execMemWrite fn ecc s) := by
  refine keepsUnits_runCommand h fun pl t => ?_
  dsimp only
  split <;> simp [h]

theorem keepsUnits_execContextDump (fn : Fn) :
    keepsUnits (execContextDump fn s) := keepsUnits_runCommand h fun _ _ => by simp [h]
theorem keepsUnits_execStateAudit (fn : Fn) : keepsUnits (execStateAudit fn s) := keepsUnits_runCommand h fun _ _ => by simp [h]

end

/-! ## Interrupts, event queues and BAR0 -/

@[simp] theorem shaped_sendVector (f v : Nat) : (sendVector f v s).shaped ↔ s.shaped := by simp [sendVector]
@[simp] theorem shaped_deliverVector (f v : Nat) : (deliverVector f v s).shaped ↔ s.shaped := by simp [deliverVector]

@[simp] theorem shaped_writeMsix (f i dword value : Nat) : (writeMsix f i dword value s).shaped ↔ s.shaped := by
  unfold writeMsix
  split <;> simp

@[simp] theorem shaped_signalQueue (f : Nat) : (signalQueue f s).shaped ↔ s.shaped := by simp [signalQueue]
@[simp] theorem shaped_writeEntry (f : Nat) (e : Event) : (writeEntry f e s).shaped ↔ s.shaped := by simp [writeEntry]
@[simp] theorem shaped_offerEntry (e : Event) (f : Nat) : (offerEntry e f s).shaped ↔ s.shaped := by simp [offerEntry]

@[simp] theorem shaped_drainQueue (f : Nat) : (drainQueue s f).shaped ↔ s.shaped := by
  unfold drainQueue
  split
  · dsimp only
    split <;> rfl
  · dsimp only
    split <;> simp

@[simp] theorem shaped_writeHead (f value : Nat) : (writeHead f value s).shaped ↔ s.shaped := by simp [writeHead]
@[simp] theorem shaped_writeCause (f value : Nat) : (writeCause f value s).shaped ↔ s.shaped := by simp [writeCause]
@[simp] theorem shaped_clearRc (f o : Nat) : (clearRc f o s).shaped ↔ s.shaped := by simp [clearRc]

@[simp] theorem shaped_read32 (f o : Nat) : (read32 f o s).2.shaped ↔ s.shaped := by
  unfold read32
  split
  · rfl
  · split
    · simp
    · split <;> simp

@[simp] theorem shaped_readBar (f o n : Nat) : (readBar f o n s).2.shaped ↔ s.shaped := by simp [readBar]
@[simp] theorem shaped_readOut (f o n : Nat) : (readOut f o n s).shaped ↔ s.shaped := by simp [readOut]
@[simp] theorem shaped_holdLow (f value : Nat) : (holdLow f value s).shaped ↔ s.shaped := by simp [holdLow]
@[simp] theorem shaped_commitHigh (f value : Nat) : (commitHigh f value s).shaped ↔ s.shaped := by simp [commitHigh]

@[simp] theorem shaped_writeCommandPage (f o : Nat) (data : List Byte) : (writeCommandPage f o data s).shaped ↔ s.shaped := by
  unfold writeCommandPage
  split <;> simp

@[simp] theorem shaped_writeMbxCtrl (f value : Nat) : (writeMbxCtrl f value s).shaped ↔ s.shaped := by simp [writeMbxCtrl]

@[simp] theorem shaped_writeWait (f o value : Nat) : (writeWait f o value s).shaped ↔ s.shaped := by
  unfold writeWait
  split
  · rfl
  · split <;> simp

@[simp] theorem shaped_windowOp (o value n : Nat) : (windowOp o value n s).shaped ↔ s.shaped := by
  unfold windowOp
  split
  · simp
  · split <;> simp
  · rfl

@[simp] theorem shaped_writeWindow (f o value : Nat) : (writeWindow f o value s).shaped ↔ s.shaped := by simp [writeWindow]
@[simp] theorem shaped_write32 (f o value : Nat) : (write32 f o value s).shaped ↔ s.shaped := by simp [write32]
@[simp] theorem shaped_writeBar (f o : Nat) (data : List Byte) : (writeBar f o data s).shaped ↔ s.shaped := by simp [writeBar]

section
variable {s} (h : s.shaped)
include h

theorem keepsUnits_execMsixMessage (fn : Fn) : keepsUnits (execMsixMessage fn s) := by
  unfold execMsixMessage
  split <;> simp [h]

theorem keepsUnits_execMsixTableWrite (fn : Fn) (offset value : Nat) :
    keepsUnits (execMsixTableWrite fn offset value s) := by simp [execMsixTableWrite, h]

theorem keepsUnits_execEventEntryWrite : keepsUnits (execEventEntryWrite s) := by
  have hs : ((List.range 33).foldl drainQueue s).shaped := (shaped_foldl _ (by simp) _ _).mpr h
  unfold execEventEntryWrite
  dsimp only
  split <;> simp [hs]

theorem keepsUnits_execEventMsixCoalesce (fn : Fn) :
    keepsUnits (execEventMsixCoalesce fn s) := by simp [execEventMsixCoalesce, h]
theorem keepsUnits_execEvtQueueHeadWrite (fn : Fn) (value : Nat) :
    keepsUnits (execEvtQueueHeadWrite fn value s) := by simp [execEvtQueueHeadWrite, h]
theorem keepsUnits_execEvtIntCauseWrite (fn : Fn) (value : Nat) :
    keepsUnits (execEvtIntCauseWrite fn value s) := by simp [execEvtIntCauseWrite, h]
theorem keepsUnits_execCounterRcRead (fn : Fn) (offset size : Nat) :
    keepsUnits (execCounterRcRead fn offset size s) := by simp [execCounterRcRead, h]
theorem keepsUnits_execReg64LowRead (fn : Fn) (offset : Nat) :
    keepsUnits (execReg64LowRead fn offset s) := by simp [execReg64LowRead, h]
theorem keepsUnits_execReg64LowWrite (fn : Fn) (offset value : Nat) :
    keepsUnits (execReg64LowWrite fn offset value s) := by simp [execReg64LowWrite, h]
theorem keepsUnits_execReg64HighWrite (fn : Fn) (offset value : Nat) :
    keepsUnits (execReg64HighWrite fn offset value s) := by simp [execReg64HighWrite, h]
theorem keepsUnits_execRegisterWrite (fn : Fn) (offset : Nat) (data : List Byte) :
    keepsUnits (execRegisterWrite fn offset data s) := by simp [execRegisterWrite, h]

end

/-! ## Resets and boot -/

@[simp] theorem shaped_resetDevice (b : BootSt) : (resetDevice b s).shaped :=
  (shaped_mk ..).mpr ⟨rfl, rfl, rfl, rfl, rfl, rfl, rfl, List.length_replicate, rfl, rfl, rfl⟩
@[simp] theorem shaped_linkKeptReset (cause : Nat) : (linkKeptReset cause s).shaped := shaped_resetDevice _ _

@[simp] theorem shaped_applyBoard (b : List Byte) : (applyBoard b s).shaped ↔ s.shaped := by
  unfold applyBoard
  dsimp only
  split <;> simp

@[simp] theorem shaped_zeroMassif : (zeroMassif s).shaped ↔ s.shaped := by simp [zeroMassif]
@[simp] theorem shaped_loadIr (i : JtagIr) : (loadIr i s).shaped ↔ s.shaped := by simp [loadIr]
@[simp] theorem shaped_loadPins (i : JtagIr) : (loadPins i s).shaped ↔ s.shaped := by simp [loadPins]

section
variable {s} (h : s.shaped)
include h

omit h in
theorem keepsUnits_execVddAuxRise : keepsUnits (execVddAuxRise s) := by simp [execVddAuxRise]
theorem keepsUnits_execPowerGoodRise (straps : Straps) :
    keepsUnits (execPowerGoodRise straps s) := by simp [execPowerGoodRise, h]
theorem keepsUnits_execPowerGoodFall : keepsUnits (execPowerGoodFall s) := by simp [execPowerGoodFall, h]
theorem keepsUnits_execPerstNFall : keepsUnits (execPerstNFall s) := by simp [execPerstNFall, h]
theorem keepsUnits_execPerstNRise : keepsUnits (execPerstNRise s) := by simp [execPerstNRise, h]
theorem keepsUnits_execPf0FunctionLevelReset :
    keepsUnits (execPf0FunctionLevelReset s) := by simp [execPf0FunctionLevelReset, h]
theorem keepsUnits_execWatchdogExpiry : keepsUnits (execWatchdogExpiry s) := by simp [execWatchdogExpiry, h]
theorem keepsUnits_execThermalTrip (_sensor : Fin 16) : keepsUnits (execThermalTrip _sensor s) := by simp [execThermalTrip, h]
theorem keepsUnits_execBootSlotReadDone (read : SlotRead) :
    keepsUnits (execBootSlotReadDone read s) := by simp [execBootSlotReadDone, h]
theorem keepsUnits_execConfigReady : keepsUnits (execConfigReady s) := by simp [execConfigReady, h]
theorem keepsUnits_execMailboxReady (board : List Byte) (refclkNet initOk : Bool) :
    keepsUnits (execMailboxReady board refclkNet initOk s) := by simp [execMailboxReady, h]

theorem keepsUnits_execPcieConfigRequest (fn : Fn) (write : Option CfgWrite) :
    keepsUnits (execPcieConfigRequest fn write s) := by
  unfold execPcieConfigRequest
  split
  · simp [h]
  · split
    · simp [h]
    · split <;> simp [h]

theorem keepsUnits_execSmbusAvailable : keepsUnits (execSmbusAvailable s) := by simp [execSmbusAvailable, h]
theorem keepsUnits_execSmbusRead (addr code : Nat) : keepsUnits (execSmbusRead addr code s) := by simp [execSmbusRead, h]

theorem keepsUnits_execSmbusBoardCapWrite (addr value : Nat) (pec : Pec) :
    keepsUnits (execSmbusBoardCapWrite addr value pec s) := by
  unfold execSmbusBoardCapWrite
  split
  · simp [h]
  · split
    · simp [h]
    · dsimp only
      split <;> simp [h]

theorem keepsUnits_execSmbusBusTimeout : keepsUnits (execSmbusBusTimeout s) := by simp [execSmbusBusTimeout, h]
theorem keepsUnits_execBypass : keepsUnits (execBypass s) := by simp [execBypass, h]
theorem keepsUnits_execIdcode : keepsUnits (execIdcode s) := by simp [execIdcode, h]
theorem keepsUnits_execSamplePreload : keepsUnits (execSamplePreload s) := by simp [execSamplePreload, h]
theorem keepsUnits_execExtest : keepsUnits (execExtest s) := by simp [execExtest, h]
theorem keepsUnits_execExtestPulse : keepsUnits (execExtestPulse s) := by simp [execExtestPulse, h]
theorem keepsUnits_execExtestTrain : keepsUnits (execExtestTrain s) := by simp [execExtestTrain, h]
theorem keepsUnits_execClamp : keepsUnits (execClamp s) := by simp [execClamp, h]
theorem keepsUnits_execHighz : keepsUnits (execHighz s) := by simp [execHighz, h]

end

/-! ## Ticks and epochs -/

@[simp] theorem shaped_closeTick : (closeTick s).shaped ↔ s.shaped := by simp [closeTick]
@[simp] theorem shaped_shedForward : (shedForward s).shaped ↔ s.shaped := by simp [shedForward]
@[simp] theorem shaped_updateLevel : (updateLevel s).shaped ↔ s.shaped := by simp [updateLevel]
@[simp] theorem shaped_latchReading : (latchReading s).shaped ↔ s.shaped := by simp [latchReading]

@[simp] theorem shaped_changePoint : (changePoint s).shaped ↔ s.shaped := by
  unfold changePoint
  split <;> simp

@[simp] theorem shaped_boardCapEffect (b : Nat) : (boardCapEffect b s).shaped ↔ s.shaped := by simp [boardCapEffect]
@[simp] theorem shaped_assignBank (b t : Nat) : (assignBank b t s).shaped ↔ s.shaped := by simp [assignBank]

theorem shaped_dueEffect {s : State} (h : s.shaped) (ecc : List EccFind) (d : Due) : (dueEffect ecc d s).shaped := by
  cases d with
  | tenantSet t q => exact shaped_tenantSetEffect h t q
  | tenantState t op => exact shaped_tenantStateEffect h t op
  | disableTenant t => exact shaped_tenantStateEffect h t 2
  | fabric pl => exact shaped_fabricEffect h pl
  | _ => simpa [dueEffect] using h

@[simp] theorem shaped_endReplaced : (endReplaced s).shaped ↔ s.shaped := by simp [endReplaced]
theorem shaped_latchDue {s : State} (h : s.shaped) (ecc : List EccFind) : (latchDue ecc s).shaped :=
  foldl_keeps State.shaped _ (fun _ d hs => shaped_dueEffect hs ecc d.2) _ _ (by simpa using h)
@[simp] theorem shaped_foldRead (a : Nat) (ecc : List EccFind) : (foldRead a ecc s).2.shaped ↔ s.shaped := by simp [foldRead]

@[simp] theorem shaped_foldStat (first : Bool) (ecc : List EccFind) (key : Nat) :
    (foldStat first ecc key s).shaped ↔ s.shaped := by
  unfold foldStat
  split <;> simp

@[simp] theorem shaped_foldStats (first : Bool) (ecc : List EccFind) :
    (foldStats first ecc s).shaped ↔ s.shaped := by simp [foldStats]

@[simp] theorem shaped_planReplay (a : State × Plan) (x : Replay) : (planReplay a x).1.shaped ↔ a.1.shaped := by
  unfold planReplay
  dsimp only
  split
  · rfl
  · split
    · rfl
    · split <;> simp

@[simp] theorem shaped_planReplays (a : State × Plan) : (planReplays a).1.shaped ↔ a.1.shaped := by simp [planReplays]

@[simp] theorem shaped_tenantTurn (t : Nat) (a : State × Plan × Bool) : (tenantTurn t a).1.shaped ↔ a.1.shaped := by
  unfold tenantTurn
  dsimp only
  split
  · rfl
  · split <;> simp

@[simp] theorem shaped_throughputRounds (n : Nat) (a : State × Plan) : (throughputRounds n a).1.shaped ↔ a.1.shaped := by
  induction n generalizing a with
  | zero => rfl
  | succ n ih =>
    unfold throughputRounds
    dsimp only
    split <;> simp [ih]

@[simp] theorem shaped_planCandidate (c : Nat) (a : State × Plan) : (planCandidate c a).1.shaped ↔ a.1.shaped := by
  unfold planCandidate
  split
  · rfl
  · split
    · rfl
    · dsimp only
      split <;> simp

theorem shaped_grantCandidate {slot k : Nat} {a b : State × Plan} (h : grantCandidate slot k a = some b) :
    b.1.shaped ↔ a.1.shaped := by
  unfold grantCandidate at h
  dsimp only at h
  split at h
  · cases h
    rfl
  · split at h
    · cases h
      rfl
    · split at h
      · cases h
      · split at h
        · cases h
        · obtain ⟨y, hy, rfl⟩ := Option.map_eq_some_iff.mp h
          simpa using shaped_takeCtx hy

@[simp] theorem shaped_keepOrGrant (left : Nat) (b : Nat → BgReq) :
    (keepOrGrant left b s).shaped ↔ s.shaped := by simp [keepOrGrant]

@[simp] theorem shaped_grantOne (a : State × Plan) (b : BgReq) : (grantOne a b).1.shaped ↔ a.1.shaped := by
  unfold grantOne
  dsimp only
  split
  · split
    next hy => exact shaped_grantCandidate hy
    · simp
  · simp
  · simp
  · split <;> simp
  · split
    · rfl
    · split <;> simp [-ridges_chargeWork]

@[simp] theorem shaped_grantBackground (a : State × Plan) :
    (grantBackground a).1.shaped ↔ a.1.shaped := by simp [grantBackground]
@[simp] theorem shaped_grantFloor (a : State × Plan) : (grantFloor a).1.shaped ↔ a.1.shaped := by simp [grantFloor]
@[simp] theorem shaped_askPatrol : (askPatrol s).shaped ↔ s.shaped := by simp [askPatrol]
@[simp] theorem shaped_clearPlan : (clearPlan s).shaped ↔ s.shaped := by simp [clearPlan]
@[simp] theorem shaped_buildPlan : (buildPlan s).shaped ↔ s.shaped := by simp [buildPlan]
@[simp] theorem shaped_beginParking : (beginParking s).shaped ↔ s.shaped := by simp [beginParking]
@[simp] theorem shaped_countCycles (n : Nat) : (countCycles n s).shaped ↔ s.shaped := by simp [countCycles]
@[simp] theorem shaped_freeStaging : (freeStaging s).shaped ↔ s.shaped :=
  shaped_foldl _ (fun s c => by split <;> simp) _ _
@[simp] theorem shaped_endCycle : (endCycle s).shaped ↔ s.shaped := by simp [endCycle]
@[simp] theorem shaped_cycle : (cycle s).shaped ↔ s.shaped := by simp [cycle]

@[simp] theorem shaped_restCycles (n : Nat) : (restCycles n s).shaped ↔ s.shaped := by
  induction n generalizing s with
  | zero => rfl
  | succ n ih => simp [restCycles, ih]

@[simp] theorem shaped_idleCycles (n : Nat) : (idleCycles n s).shaped ↔ s.shaped := by
  cases n with
  | zero => rfl
  | succ n => simp [idleCycles]

@[simp] theorem shaped_idle : (idle s).shaped ↔ s.shaped := by simp [idle]
@[simp] theorem shaped_boundaryStart (first : Bool) : (boundaryStart first s).shaped ↔ s.shaped := by simp [boundaryStart]

theorem shaped_boundaryLatch {s : State} (h : s.shaped) (first : Bool) (ecc : List EccFind) :
    (boundaryLatch first ecc s).shaped := by
  have hs := shaped_latchDue h ecc
  cases first <;> simpa [boundaryLatch] using hs

@[simp] theorem shaped_boundaryBudget (first : Bool) (ecc : List EccFind) :
    (boundaryBudget first ecc s).shaped ↔ s.shaped := by simp [boundaryBudget]
@[simp] theorem shaped_autoStep : (autoStep s).shaped ↔ s.shaped := by simp [autoStep]
@[simp] theorem shaped_rewriteTables : (rewriteTables s).shaped ↔ s.shaped := by simp [rewriteTables]
@[simp] theorem shaped_restoreStats : (restoreStats s).shaped ↔ s.shaped := by simp [restoreStats]

section
variable {s} (h : s.shaped)
include h

theorem keepsUnits_execSensorReading (sensor : Fin 16) (quarterDegrees : Int) (selfTestOk : Bool) :
    keepsUnits (execSensorReading sensor quarterDegrees selfTestOk s) := by simp [execSensorReading, h]

theorem keepsUnits_execVoltageUpRequest : keepsUnits (execVoltageUpRequest s) := by
  unfold execVoltageUpRequest
  split
  · simp [h]
  · split <;> simp [h]

theorem keepsUnits_execMilestone (ecc : List EccFind) : keepsUnits (execMilestone s ecc) := by
  cases hc : s.time.clockOn with
  | false => simp [execMilestone, hc, h]
  | true =>
    have hnew : (newTick s).shaped := by simpa [newTick] using h
    have hlatch := shaped_boundaryLatch ((shaped_boundaryStart _ (!s.time.firstMilestoneDone)).mpr hnew)
      (!s.time.firstMilestoneDone) ecc
    have hafter : (afterMilestone ecc s).shaped := by simpa [afterMilestone] using hlatch
    show keepsUnits (exec (.milestone ecc) s)
    rw [exec_milestone hc ecc]
    simpa using hafter

theorem keepsUnits_execEpochStart (measuredMw : Nat) (ecc : List EccFind) :
    keepsUnits (execEpochStart measuredMw s ecc) := by simp [execEpochStart, h]

end

end Sys2Proof.Machine
end

section
/-! SUPPORT. Every step keeps the numbers of the units: row by row of the opcode table, and a cycle with no row. -/

namespace Sys2Proof.Machine

/-- Whatever command runs on a shaped state, a shaped state is next. -/
theorem keepsUnits_exec {s : State} (h : s.shaped) (i : Instr) : keepsUnits (exec i s) := by
  cases i with
  | vddAuxRise => exact keepsUnits_execVddAuxRise
  | powerGoodRise straps => exact keepsUnits_execPowerGoodRise h straps
  | powerGoodFall => exact keepsUnits_execPowerGoodFall h
  | perstNFall => exact keepsUnits_execPerstNFall h
  | perstNRise => exact keepsUnits_execPerstNRise h
  | pf0FunctionLevelReset => exact keepsUnits_execPf0FunctionLevelReset h
  | watchdogExpiry => exact keepsUnits_execWatchdogExpiry h
  | thermalTrip sensor => exact keepsUnits_execThermalTrip h sensor
  | bootSlotReadDone read => exact keepsUnits_execBootSlotReadDone h read
  | configReady => exact keepsUnits_execConfigReady h
  | mailboxReady board refclkNet initOk => exact keepsUnits_execMailboxReady h board refclkNet initOk
  | pcieConfigRequest fn write => exact keepsUnits_execPcieConfigRequest h fn write
  | vfFunctionLevelReset vf => exact keepsUnits_execVfFunctionLevelReset h vf
  | vfEnableClear => exact keepsUnits_execVfEnableClear h
  | smbusRead addr code => exact keepsUnits_execSmbusRead h addr code
  | smbusBoardCapWrite addr value pec => exact keepsUnits_execSmbusBoardCapWrite h addr value pec
  | smbusBusTimeout => exact keepsUnits_execSmbusBusTimeout h
  | bypass => exact keepsUnits_execBypass h
  | idcode => exact keepsUnits_execIdcode h
  | samplePreload => exact keepsUnits_execSamplePreload h
  | extest => exact keepsUnits_execExtest h
  | extestPulse => exact keepsUnits_execExtestPulse h
  | extestTrain => exact keepsUnits_execExtestTrain h
  | clamp => exact keepsUnits_execClamp h
  | highz => exact keepsUnits_execHighz h
  | milestone ecc => exact keepsUnits_execMilestone h ecc
  | epochStart measuredMw ecc => exact keepsUnits_execEpochStart h measuredMw ecc
  | voltageUpRequest => exact keepsUnits_execVoltageUpRequest h
  | sensorReading sensor quarterDegrees selfTestOk => exact keepsUnits_execSensorReading h sensor quarterDegrees selfTestOk
  | linkUp port => exact keepsUnits_execLinkUp h port
  | linkDown port cut => exact keepsUnits_execLinkDown h port cut
  | recordStart port head => exact keepsUnits_execRecordStart h port head
  | recordFrameRx port frame check => exact keepsUnits_execRecordFrameRx h port frame check
  | feedbackFrameRx port frame check => exact keepsUnits_execFeedbackFrameRx h port frame check
  | pfcFrameRx port length mask quanta => exact keepsUnits_execPfcFrameRx h port length mask quanta
  | pauseFrameRx port length => exact keepsUnits_execPauseFrameRx h port length
  | arpRequestRx port frame check => exact keepsUnits_execArpRequestRx h port frame check
  | neighbourSolicitationRx port frame check => exact keepsUnits_execNeighbourSolicitationRx h port frame check
  | arpReplySend port => exact keepsUnits_execArpReplySend h port
  | neighbourAdvertisementSend port => exact keepsUnits_execNeighbourAdvertisementSend h port
  | pfcXoffRepeat port pcp => exact keepsUnits_execPfcXoffRepeat h port pcp
  | pfcXonSend port pcp => exact keepsUnits_execPfcXonSend h port pcp
  | trailheadTableReadDone ctx => exact keepsUnits_execTrailheadTableReadDone h ctx
  | portDrainComplete port => exact keepsUnits_execPortDrainComplete h port
  | signpostEntry pipeline => exact keepsUnits_execSignpostEntry h pipeline
  | ternaryStep ctx => exact keepsUnits_execTernaryStep h ctx
  | rangeStep ctx => exact keepsUnits_execRangeStep h ctx
  | automatonStep ctx parity => exact keepsUnits_execAutomatonStep h ctx parity
  | nextStep ctx => exact keepsUnits_execNextStep h ctx
  | stepResult ctx => exact keepsUnits_execStepResult h ctx
  | walkerMissReadDone ctx => exact keepsUnits_execWalkerMissReadDone h ctx
  | shadowCompare bank found shadow readBackBad => exact keepsUnits_execShadowCompare h bank found shadow readBackBad
  | dispatcherAdmission ctx => exact keepsUnits_execDispatcherAdmission h ctx
  | passBind ctx => exact keepsUnits_execPassBind h ctx
  | broadcastDone ctx ridge => exact keepsUnits_execBroadcastDone h ctx ridge
  | setLoadStart ridge => exact keepsUnits_execSetLoadStart h ridge
  | setLoadDone ridge ecc => exact keepsUnits_execSetLoadDone h ridge ecc
  | passIssue ridge faults => exact keepsUnits_execPassIssue h ridge faults
  | standInLoadDone ridge => exact keepsUnits_execStandInLoadDone h ridge
  | partialsLeaveRidge ridge => exact keepsUnits_execPartialsLeaveRidge h ridge
  | ridgeSramPatrolStep ecc => exact keepsUnits_execRidgeSramPatrolStep h ecc
  | partialArrival ridge => exact keepsUnits_execPartialArrival h ridge
  | rowAdd ctx eccFault => exact keepsUnits_execRowAdd h ctx eccFault
  | parkEntryWritten ctx => exact keepsUnits_execParkEntryWritten h ctx
  | restoreDone ctx ecc => exact keepsUnits_execRestoreDone h ctx ecc
  | summitFusedOutput ctx => exact keepsUnits_execSummitFusedOutput h ctx
  | scoreFrameAssembly ctx => exact keepsUnits_execScoreFrameAssembly h ctx
  | transmitQueueEntry port => exact keepsUnits_execTransmitQueueEntry h port
  | txMacHandoff port => exact keepsUnits_execTxMacHandoff h port
  | xchipWaitExpiry ctx => exact keepsUnits_execXchipWaitExpiry h ctx
  | feedbackGradient => exact keepsUnits_execFeedbackGradient h
  | feedbackProcess ecc => exact keepsUnits_execFeedbackProcess h ecc
  | decaySweep tenant handle ecc => exact keepsUnits_execDecaySweep h tenant handle ecc
  | proposalPassEnd tenant handle ecc => exact keepsUnits_execProposalPassEnd h tenant handle ecc
  | candidateResult ctx => exact keepsUnits_execCandidateResult h ctx
  | moveChoice slot => exact keepsUnits_execMoveChoice h slot
  | detourTimeLimit slot => exact keepsUnits_execDetourTimeLimit h slot
  | colCacheFill line ecc parityError => exact keepsUnits_execColCacheFill h line ecc parityError
  | patrolStep ecc => exact keepsUnits_execPatrolStep h ecc
  | healBlockReadDone data ecc => exact keepsUnits_execHealBlockReadDone h data ecc
  | dmaRingTailWrite fn stream value => exact keepsUnits_execDmaRingTailWrite h fn stream value
  | descriptorStart stream descriptor => exact keepsUnits_execDescriptorStart h stream descriptor
  | dmaRequestIssue => exact keepsUnits_execDmaRequestIssue h
  | dmaElement stream number data ecc tables => exact keepsUnits_execDmaElement h stream number data ecc tables
  | translationCompletion fn page sizeLog2 read write target =>
      exact keepsUnits_execTranslationCompletion h fn page sizeLog2 read write target
  | pageRequestResponse fn page response => exact keepsUnits_execPageRequestResponse h fn page response
  | priLimitExpiry fn page => exact keepsUnits_execPriLimitExpiry h fn page
  | descriptorComplete stream number => exact keepsUnits_execDescriptorComplete h stream number
  | ringAnswerWrite stream => exact keepsUnits_execRingAnswerWrite h stream
  | atsInvalidateRequest fn page sizeLog2 => exact keepsUnits_execAtsInvalidateRequest h fn page sizeLog2
  | linkTrainingDone saddle ok => exact keepsUnits_execLinkTrainingDone h saddle ok
  | initResend saddle => exact keepsUnits_execInitResend h saddle
  | initFlitRx saddle flit fec => exact keepsUnits_execInitFlitRx h saddle flit fec
  | fabricMismatchRetry saddle => exact keepsUnits_execFabricMismatchRetry h saddle
  | dataFlitRx saddle flit fec => exact keepsUnits_execDataFlitRx h saddle flit fec
  | idleFlitRx saddle flit fec => exact keepsUnits_execIdleFlitRx h saddle flit fec
  | retryReqRx saddle flit fec => exact keepsUnits_execRetryReqRx h saddle flit fec
  | retryReqRepeat saddle => exact keepsUnits_execRetryReqRepeat h saddle
  | ackTimeout saddle => exact keepsUnits_execAckTimeout h saddle
  | notReadyRx saddle flit fec => exact keepsUnits_execNotReadyRx h saddle flit fec
  | notReadyBackoffExpiry saddle => exact keepsUnits_execNotReadyBackoffExpiry h saddle
  | zuothLaneLoss saddle => exact keepsUnits_execZuothLaneLoss h saddle
  | linkHoldExpiry saddle => exact keepsUnits_execLinkHoldExpiry h saddle
  | messageSend saddle => exact keepsUnits_execMessageSend h saddle
  | messageForward saddle => exact keepsUnits_execMessageForward h saddle
  | messageViolation saddle => exact keepsUnits_execMessageViolation h saddle
  | rdS port ecc => exact keepsUnits_execRdS h port ecc
  | rdM port ecc => exact keepsUnits_execRdM h port ecc
  | wmkSignal port => exact keepsUnits_execWmkSignal h port
  | snpShare port => exact keepsUnits_execSnpShare h port
  | snpInv port => exact keepsUnits_execSnpInv h port
  | snpRspInvalid port ecc => exact keepsUnits_execSnpRspInvalid h port ecc
  | snpRspAck port ecc => exact keepsUnits_execSnpRspAck h port ecc
  | snpRspEvicting port ecc => exact keepsUnits_execSnpRspEvicting h port ecc
  | snpRspData port ecc => exact keepsUnits_execSnpRspData h port ecc
  | evictClean port ecc => exact keepsUnits_execEvictClean h port ecc
  | evictDirty port ecc => exact keepsUnits_execEvictDirty h port ecc
  | evictAck port => exact keepsUnits_execEvictAck h port
  | dataS port => exact keepsUnits_execDataS h port
  | dataE port => exact keepsUnits_execDataE h port
  | dataM port => exact keepsUnits_execDataM h port
  | nak port => exact keepsUnits_execNak h port
  | commonsNakRetry tag => exact keepsUnits_execCommonsNakRetry h tag
  | commonsRequestTimeout eviction tag => exact keepsUnits_execCommonsRequestTimeout h eviction tag
  | commonsSnoopTimeout tag ecc => exact keepsUnits_execCommonsSnoopTimeout h tag ecc
  | recordMc port => exact keepsUnits_execRecordMc h port
  | term port => exact keepsUnits_execTerm h port
  | refitGh port ecc => exact keepsUnits_execRefitGh h port ecc
  | ping port => exact keepsUnits_execPing h port
  | pong port => exact keepsUnits_execPong h port
  | wmkSignalWrite fn index n e => exact keepsUnits_execWmkSignalWrite h fn index n e
  | wmkReset fn index => exact keepsUnits_execWmkReset h fn index
  | wmkArmBarrier fn index a => exact keepsUnits_execWmkArmBarrier h fn index a
  | wmkClearErr fn index => exact keepsUnits_execWmkClearErr h fn index
  | wmkRemoteOn fn index => exact keepsUnits_execWmkRemoteOn h fn index
  | wmkRemoteOff fn index => exact keepsUnits_execWmkRemoteOff h fn index
  | waitArm fn slot ctrl => exact keepsUnits_execWaitArm h fn slot ctrl
  | waitCancel fn slot ctrl => exact keepsUnits_execWaitCancel h fn slot ctrl
  | waitTimeoutExpiry fn slot => exact keepsUnits_execWaitTimeoutExpiry h fn slot
  | wmkRemoteWrite fn value => exact keepsUnits_execWmkRemoteWrite h fn value
  | msixMessage fn => exact keepsUnits_execMsixMessage h fn
  | msixTableWrite fn offset value => exact keepsUnits_execMsixTableWrite h fn offset value
  | eventEntryWrite => exact keepsUnits_execEventEntryWrite (s := s) h
  | eventMsixCoalesce fn => exact keepsUnits_execEventMsixCoalesce h fn
  | evtQueueHeadWrite fn value => exact keepsUnits_execEvtQueueHeadWrite h fn value
  | evtIntCauseWrite fn value => exact keepsUnits_execEvtIntCauseWrite h fn value
  | counterRcRead fn offset size => exact keepsUnits_execCounterRcRead h fn offset size
  | reg64LowRead fn offset => exact keepsUnits_execReg64LowRead h fn offset
  | reg64LowWrite fn offset value => exact keepsUnits_execReg64LowWrite h fn offset value
  | reg64HighWrite fn offset value => exact keepsUnits_execReg64HighWrite h fn offset value
  | registerWrite fn offset data => exact keepsUnits_execRegisterWrite h fn offset data
  | mbxDoorbellRing fn value => exact keepsUnits_execMbxDoorbellRing h fn value
  | identify fn => exact keepsUnits_execIdentify h fn
  | deviceStatus fn => exact keepsUnits_execDeviceStatus h fn
  | memoryConfig fn => exact keepsUnits_execMemoryConfig h fn
  | ridgeCanary fn => exact keepsUnits_execRidgeCanary h fn
  | fabricConfig fn => exact keepsUnits_execFabricConfig h fn
  | commonsWindowCreate fn => exact keepsUnits_execCommonsWindowCreate h fn
  | commonsWindowRemove fn => exact keepsUnits_execCommonsWindowRemove h fn
  | modelLoad fn => exact keepsUnits_execModelLoad h fn
  | imageFetchDone failedAt image ecc => exact keepsUnits_execImageFetchDone h failedAt image ecc
  | modelUnload fn => exact keepsUnits_execModelUnload h fn
  | modelDrainDone tenant handle => exact keepsUnits_execModelDrainDone h tenant handle
  | modelZeroiseDone tenant handle => exact keepsUnits_execModelZeroiseDone h tenant handle
  | oldImageRetire tenant handle => exact keepsUnits_execOldImageRetire h tenant handle
  | modelQuery fn => exact keepsUnits_execModelQuery h fn
  | modelStats fn => exact keepsUnits_execModelStats h fn
  | modelCalibrate fn => exact keepsUnits_execModelCalibrate h fn
  | signpostBankAssign fn => exact keepsUnits_execSignpostBankAssign h fn
  | signpostBankRelease fn => exact keepsUnits_execSignpostBankRelease h fn
  | signpostBankConfigure fn => exact keepsUnits_execSignpostBankConfigure h fn
  | signpostEntries fn => exact keepsUnits_execSignpostEntries h fn
  | portMode fn => exact keepsUnits_execPortMode h fn
  | portAddress fn => exact keepsUnits_execPortAddress h fn
  | portStateOpen fn => exact keepsUnits_execPortStateOpen h fn
  | portStateDraining fn => exact keepsUnits_execPortStateDraining h fn
  | endpointAdd fn => exact keepsUnits_execEndpointAdd h fn
  | endpointRemove fn => exact keepsUnits_execEndpointRemove h fn
  | portQuery fn => exact keepsUnits_execPortQuery h fn
  | tenantSet fn => exact keepsUnits_execTenantSet h fn
  | tenantEnable fn => exact keepsUnits_execTenantEnable h fn
  | tenantDisable fn => exact keepsUnits_execTenantDisable h fn
  | tenantPreempt fn => exact keepsUnits_execTenantPreempt h fn
  | tenantResume fn => exact keepsUnits_execTenantResume h fn
  | tenantRelease fn => exact keepsUnits_execTenantRelease h fn
  | tenantQuery fn => exact keepsUnits_execTenantQuery h fn
  | waymarkInitReset fn => exact keepsUnits_execWaymarkInitReset h fn
  | waymarkInitArmBarrier fn => exact keepsUnits_execWaymarkInitArmBarrier h fn
  | waymarkInitRemoteOn fn => exact keepsUnits_execWaymarkInitRemoteOn h fn
  | waymarkInitRemoteOff fn => exact keepsUnits_execWaymarkInitRemoteOff h fn
  | waymarkQuery fn => exact keepsUnits_execWaymarkQuery h fn
  | streamConfig fn => exact keepsUnits_execStreamConfig h fn
  | streamStart fn => exact keepsUnits_execStreamStart h fn
  | streamStop fn => exact keepsUnits_execStreamStop h fn
  | dataAllocAllocate fn => exact keepsUnits_execDataAllocAllocate h fn
  | dataAllocFree fn => exact keepsUnits_execDataAllocFree h fn
  | refitPause fn => exact keepsUnits_execRefitPause h fn
  | refitResume fn => exact keepsUnits_execRefitResume h fn
  | resetStats fn => exact keepsUnits_execResetStats h fn
  | propose fn => exact keepsUnits_execPropose h fn
  | discard fn => exact keepsUnits_execDiscard h fn
  | commit fn ecc => exact keepsUnits_execCommit h fn ecc
  | refitQuery fn => exact keepsUnits_execRefitQuery h fn
  | detourQuery fn => exact keepsUnits_execDetourQuery h fn
  | detourHold fn => exact keepsUnits_execDetourHold h fn
  | detourUnhold fn => exact keepsUnits_execDetourUnhold h fn
  | detourEndAll fn => exact keepsUnits_execDetourEndAll h fn
  | power fn => exact keepsUnits_execPower h fn
  | sensors fn => exact keepsUnits_execSensors h fn
  | eventQueue fn => exact keepsUnits_execEventQueue h fn
  | eventLog fn => exact keepsUnits_execEventLog h fn
  | memRead fn ecc => exact keepsUnits_execMemRead h fn ecc
  | memWrite fn ecc => exact keepsUnits_execMemWrite h fn ecc
  | contextDump fn => exact keepsUnits_execContextDump h fn
  | signpostSearch fn => exact keepsUnits_execSignpostSearch h fn
  | stateAudit fn => exact keepsUnits_execStateAudit h fn
  | pfcPauseExpiry port pcp => exact keepsUnits_execPfcPauseExpiry h port pcp
  | completionTimeout stream number => exact keepsUnits_execCompletionTimeout h stream number
  | adaptiveRouteFallback saddle => exact keepsUnits_execAdaptiveRouteFallback h saddle
  | smbusAvailable => exact keepsUnits_execSmbusAvailable h
  | fecLockAttemptFail port => exact keepsUnits_execFecLockAttemptFail h port

/-- Settles O5: the command at the front runs on a state that differs in its queue alone, and on an empty queue a cycle
passes. -/
theorem everyStepKeepsTheUnits : Obligations.EveryStepKeepsTheUnits := by
  unfold Obligations.EveryStepKeepsTheUnits
  intro s t h ht
  cases hq : s.pending with
  | nil =>
    cases (step_nil s hq).symm.trans ht
    exact (shaped_idle s).mpr h
  | cons c rest => exact keepsUnits_exec (s := { s with pending := rest }) h c t ((step_cons c s rest hq).symm.trans ht)

end Sys2Proof.Machine
end

section
/-! SUPPORT. Control frames (R67): what a count and the firmware's limit leave, and what a frame that goes to firmware does. -/

namespace Sys2Proof.Machine

variable {s : State} {l : Nat}

/-! ## A port after an update, and what a count leaves -/

theorem port_modPort_same (hl : l < s.ports.length) (f : PortSt → PortSt) : (modPort l f s).port l = f (s.port l) :=
  getD_modify_eq _ _ _ _ hl

@[simp] theorem count_ports (k n : Nat) (s : State) : (count k n s).ports = s.ports := by rw [count_frame]
@[simp] theorem count_ctxs (k n : Nat) (s : State) : (count k n s).ctxs = s.ctxs := by rw [count_frame]
@[simp] theorem port_count (k n : Nat) (s : State) : (count k n s).port l = s.port l := by simp [State.port]

@[simp] theorem countFrame_ports (len : Nat) (k : FrameCheck) : (countFrame l len k s).ports = s.ports := by simp [countFrame]
@[simp] theorem countFrame_ctxs (len : Nat) (k : FrameCheck) : (countFrame l len k s).ctxs = s.ctxs := by simp [countFrame]

@[simp] theorem afterCount_ports (l : LPort) (frame : List Byte) (k : FrameCheck) :
    (afterCount s l frame k).ports = s.ports.modify l (fun p => { p with held := none }) := by simp [afterCount]
@[simp] theorem afterCount_ctxs (l : LPort) (frame : List Byte) (k : FrameCheck) : (afterCount s l frame k).ctxs = s.ctxs := by
  simp [afterCount]

theorem port_afterCount (l : LPort) (frame : List Byte) (k : FrameCheck) (hl : l.val < s.ports.length) :
    (afterCount s l frame k).port l = { s.port l with held := none } := by
  rw [State.port, afterCount_ports]
  exact getD_modify_eq _ _ _ _ hl

/-! ## The limit of firmware, and the queues it reads -/

/-- A frame within the limit changes what its port counts against the limit; the requests that wait there stay. -/
theorem ctlAdmit_admitted (h : (ctlAdmit l s).1 = true) :
    ∃ f, ctlAdmit l s = (true, modPort l f s) ∧ ∀ p, (f p).arpQ = p.arpQ ∧ (f p).ndQ = p.ndQ := by
  simp only [ctlAdmit] at h ⊢
  generalize (if 100000000 ≤ s.time.time - (s.port l).ctlSecond then 0 else (s.port l).ctlCount) = n at h ⊢
  by_cases hn : n < 1000
  · exact ⟨_, if_pos hn, fun _ => ⟨rfl, rfl⟩⟩
  · simp [hn] at h

/-- A request that asks for an address in use and is within the limit waits at the end of its queue. -/
theorem receiveControl_admitted (hl : l < s.ports.length) (h : (ctlAdmit l (count (cPrt l pCtrl) 1 s)).1 = true)
    (isArp : Bool) (frame : List Byte) :
    ((receiveControl l true isArp frame s).port l).arpQ = (s.port l).arpQ ++ (if isArp then [frame] else []) ∧
    ((receiveControl l true isArp frame s).port l).ndQ = (s.port l).ndQ ++ (if isArp then [] else [frame]) ∧
    (receiveControl l true isArp frame s).ctxs = s.ctxs := by
  obtain ⟨f, hf, hqueues⟩ := ctlAdmit_admitted h
  obtain ⟨harp, hnd⟩ := hqueues (s.port l)
  have hport : ((receiveControl l true isArp frame s).port l) =
      if isArp then { f (s.port l) with arpQ := (f (s.port l)).arpQ ++ [frame] }
      else { f (s.port l) with ndQ := (f (s.port l)).ndQ ++ [frame] } := by
    simp [receiveControl, hf, port_modPort_same, hl]
  rw [hport]
  refine ⟨?_, ?_, by simp [receiveControl, hf]⟩ <;> cases isArp <;> simp [harp, hnd]

/-! ## A frame that goes to firmware at step 6 of Table 4.8 -/

section
variable {l : LPort} {frame body : List Byte} {k : FrameCheck} {v : Option (Nat × Nat)}
variable (hk : k.fcsOk = true) (hgood : goodFrame s l frame = true)
include hk hgood

theorem receiveFrame_arp (hp : parseFrame (s.port l) l frame = .arp v body) :
    receiveFrame l frame k s = receiveControl l (arpAsks (s.port l) body) true frame (afterCount s l frame k) := by
  simp only [goodFrame, Bool.and_eq_true, decide_eq_true_eq, bne_iff_ne, Option.isNone_iff_eq_none] at hgood
  obtain ⟨⟨⟨⟨hmin, hmax⟩, het⟩, hopen⟩, hheld⟩ := hgood
  simp [receiveFrame, afterCount, hk, Nat.not_lt.mpr hmin, Nat.not_lt.mpr hmax, het, hopen, hheld, hp, dropHeld]

theorem receiveFrame_nd (hp : parseFrame (s.port l) l frame = .nd v body) :
    receiveFrame l frame k s = receiveControl l (ndAsks (s.port l) body) false frame (afterCount s l frame k) := by
  simp only [goodFrame, Bool.and_eq_true, decide_eq_true_eq, bne_iff_ne, Option.isNone_iff_eq_none] at hgood
  obtain ⟨⟨⟨⟨hmin, hmax⟩, het⟩, hopen⟩, hheld⟩ := hgood
  simp [receiveFrame, afterCount, hk, Nat.not_lt.mpr hmin, Nat.not_lt.mpr hmax, het, hopen, hheld, hp, dropHeld]

end

/-! ## What firmware sends -/

theorem port_sendControl (hl : l < s.ports.length) (v : Option (Nat × Nat)) (bytes : List Byte) :
    (sendControl l v bytes s).port l = { s.port l with
      ready := (s.port l).ready ++ [⟨.control, none, bytes, (v.map (·.1)).getD 0, 0, false⟩] } :=
  port_modPort_same hl _

/-- Settles O15: a good frame reaches step 6, where one that asks within the limit joins the queue of its kind, and firmware
takes the oldest of a queue and sends its answer. -/
theorem addressRequestsReachFirmwareAndAreAnswered : Obligations.AddressRequestsReachFirmwareAndAreAnswered := by
  intro s l frame k hl hk
  have hlCount : l.val < (afterCount s l frame k).ports.length := by simpa using hl
  refine ⟨?arp, ?nd, ?reply, ?advertisement⟩
  case arp =>
    intro v b hgood hp hasks hadmit
    obtain ⟨harp, -, hctxs⟩ := receiveControl_admitted hlCount hadmit true frame
    refine ⟨_, congrArg Host.Outcome.next (receiveFrame_arp hk hgood hp), ?_⟩
    rw [hasks, harp, hctxs, port_afterCount l frame k hl]
    simp
  case nd =>
    intro v b hgood hp hasks hadmit
    obtain ⟨-, hnd, hctxs⟩ := receiveControl_admitted hlCount hadmit false frame
    refine ⟨_, congrArg Host.Outcome.next (receiveFrame_nd hk hgood hp), ?_⟩
    rw [hasks, hnd, hctxs, port_afterCount l frame k hl]
    simp
  case reply =>
    intro f rest hq hopen
    simp [exec, execArpReplySend, hq, hopen, port_sendControl, port_modPort_same, hl]
  case advertisement =>
    intro f rest hq hopen
    simp [exec, execNeighbourAdvertisementSend, hq, hopen, port_sendControl, port_modPort_same, hl]

end Sys2Proof.Machine
end

section
/-! SUPPORT. The start of a record (R84, R93): what steps 13 to 16 answer in each of their cases, and what RECORD_START holds. -/

namespace Sys2Proof.Machine

variable {s : State} {t : Nat} {r : Reply} {h : Hdr}

/-! ## Steps 13 to 16 -/

theorem step13to16_disabled (hen : (s.tenant t).enable = false) : step13to16 t r h s = (.refused 7 0 0xFFFF, s) := by
  simp [step13to16, hen]

theorem step13to16_noModel (hen : (s.tenant t).enable = true) (hm : acceptingModel s t h.handle = none) :
    step13to16 t r h s = (.refused 3 0 0xFFFF, s) := by
  simp [step13to16, hen, hm]

/-- With a place under the tenant's quota and a context that the model may take, the record takes the head of the free list. -/
theorem step13to16_taken {m : Model} {c : Nat} {rest : List Nat} (hen : (s.tenant t).enable = true)
    (hm : acceptingModel s t h.handle = some m) (hquota : ctxPlaces s t < (s.tenant t).quota.contexts)
    (hfree : ctxFree s m = true) (hc : s.freeCtx = c :: rest) :
    step13to16 t r h s = (.allocated c,
      setCtx c (RecCtx.fresh t m.id h.handle h.recId h.cookie .ethernet r s.now) { s with freeCtx := rest }) := by
  simp [step13to16, takeCtx, hen, hm, Nat.not_le.mpr hquota, hfree, hc]

theorem takeCtx_ports {x : RecCtx} {c : Nat} {s' : State} (hx : takeCtx x s = some (c, s')) : s'.ports = s.ports := by
  unfold takeCtx at hx
  split at hx
  next => cases hx
  next => cases hx; rfl

@[simp] theorem step13to16_ports (t : Nat) (r : Reply) (h : Hdr) (s : State) : (step13to16 t r h s).2.ports = s.ports := by
  unfold step13to16
  split
  next => rfl
  next =>
    split
    next => rfl
    next =>
      split
      next => rfl
      next =>
        split
        next => rfl
        next =>
          split
          next hx => exact takeCtx_ports hx
          next => rfl

theorem ctx?_setCtx_same (c : Nat) (x : RecCtx) (s : State) : (setCtx c x s).ctx? c = some x := by
  simp [State.ctx?, kvGet_kvSet]

/-! ## RECORD_START -/

/-- A head that passes its checks on a port that holds no outcome runs steps 13 to 16 and holds what they answer. -/
theorem execRecordStart_holds {l : LPort} {head : List Byte} {rx : Rx} {n : Nat} {e : Endpoint} {h : Hdr}
    (hheld : (s.port l).held = none) (hp : parseHead (s.port l) l head = some (rx, some n)) (he : endpointOf s rx = some e)
    (hh : readHdr rx.msg = some h) (h12 : step12 h e.tenant true n = none) (htype : h.type ≠ 3) :
    execRecordStart l head s = .next (modPort l (fun p => { p with held := some (step13to16 e.tenant rx.reply h s).1 })
      (step13to16 e.tenant rx.reply h s).2) := by
  simp [execRecordStart, hheld, hp, he, hh, h12, htype]

/-- Settles O16: the port holds the outcome of steps 13 to 16, and each case of the statement is a case of those steps. -/
theorem recordStartHoldsItsOutcome : Obligations.RecordStartHoldsItsOutcome := by
  intro s l head rx n e h hl hheld hp he hh h12 htype
  have hport : ((modPort l (fun p => { p with held := some (step13to16 e.tenant rx.reply h s).1 })
      (step13to16 e.tenant rx.reply h s).2).port l).held = some (step13to16 e.tenant rx.reply h s).1 := by
    rw [port_modPort_same (by simpa using hl)]
  refine ⟨_, execRecordStart_holds hheld hp he hh h12 htype, hport, ?disabled, ?noModel, ?taken⟩
  case disabled =>
    intro hen
    exact ⟨hport.trans (by rw [step13to16_disabled hen]), by simp [step13to16_disabled hen]⟩
  case noModel =>
    intro hen hm
    exact ⟨hport.trans (by rw [step13to16_noModel hen hm]), by simp [step13to16_noModel hen hm]⟩
  case taken =>
    intro m c rest hen hm hquota hfree hc
    have htaken := step13to16_taken (r := rx.reply) hen hm hquota hfree hc
    exact ⟨hport.trans (by rw [htaken]), by simp [htaken], by rw [htaken]; exact ctx?_setCtx_same c _ _⟩

end Sys2Proof.Machine
end

section
/-! SUPPORT. The binning lane and Signpost's entry (R94, R107, R124): where a pipeline's lane stands, what a record's commit
leaves, and what takes a program context. -/

namespace Sys2Proof.Machine

/-! ## Record contexts and counters after a change -/

theorem ctx?_modCtx (c d : Nat) (f : RecCtx → RecCtx) (s : State) :
    (modCtx c f s).ctx? d = if d = c then (s.ctx? d).map f else s.ctx? d := kvGet_kvMod s.ctxs c d f

theorem ctx?_modCtx_ne {c d : Nat} (hd : d ≠ c) (f : RecCtx → RecCtx) (s : State) : (modCtx c f s).ctx? d = s.ctx? d := by
  rw [ctx?_modCtx, if_neg hd]

@[simp] theorem counter_modCtx (c k : Nat) (f : RecCtx → RecCtx) (s : State) : (modCtx c f s).counter k = s.counter k := rfl

@[simp] theorem ctx?_count (k n c : Nat) (s : State) : (count k n s).ctx? c = s.ctx? c := by simp [State.ctx?]

@[simp] theorem trhQ_count (k n : Nat) (s : State) : (count k n s).trhQ = s.trhQ := by rw [count_frame]

@[simp] theorem tenant_count (k n t : Nat) (s : State) : (count k n s).tenant t = s.tenant t := by rw [count_frame]; rfl

/-- The ports' and the streams' counters stand above those of the units. -/
theorem counter_count_above {p i k : Nat} (hp : p < 2) (hi : i < 8) (hk : 0x1000 ≤ k) (n : Nat) (s : State) :
    (count k n s).counter (cTrh p i) = s.counter (cTrh p i) := by
  have hne : cTrh p i ≠ k := by unfold cTrh; omega
  rw [counter_count, if_neg (fun h => hne h.1)]

/-! ## The lane of a pipeline (R94) -/

/-- A list in which one element alone is mapped to a value finds that value. -/
theorem findSome?_of_unique {α β : Type} {f : α → Option β} {l : List α} {a : α} {v : β} (ha : a ∈ l) (hv : f a = some v)
    (hothers : ∀ x ∈ l, x ≠ a → f x = none) : l.findSome? f = some v := by
  cases h : l.findSome? f with
  | none =>
    have hnone := List.findSome?_eq_none_iff.mp h a ha
    rw [hv] at hnone
    cases hnone
  | some w =>
    obtain ⟨x, hx, hxw⟩ := List.exists_of_findSome?_eq_some h
    by_cases hxa : x = a
    · rw [← hxw, hxa, hv]
    · rw [hothers x hx hxa] at hxw
      cases hxw

section
variable {s t : State} {pipe c : Nat} {r : RecCtx} {b : BodyIn}

/-- A record with no body to bin is passed over by the lane. -/
theorem laneEntry_none {d : Nat} (h : (s.ctx? d).bind (·.body) = none) :
    (s.ctx? d).bind (fun r => r.body.map (fun b => (d, r, b))) = none := by
  cases hx : s.ctx? d with
  | none => rfl
  | some x =>
    rw [hx] at h
    have hbody : x.body = none := h
    simp [hbody]

/-- The one record of a lane whose body waits is its head. -/
theorem laneHead_of_unique (hr : s.ctx? c = some r) (hb : r.body = some b) (hc : c ∈ s.trhQ.getD pipe [])
    (hothers : ∀ d ∈ s.trhQ.getD pipe [], d ≠ c → (s.ctx? d).bind (·.body) = none) :
    laneHead s pipe = some (c, r, b) :=
  findSome?_of_unique hc (by simp [hr, hb]) (fun d hd hne => laneEntry_none (hothers d hd hne))

theorem laneHead_none (h : ∀ d ∈ s.trhQ.getD pipe [], (s.ctx? d).bind (·.body) = none) : laneHead s pipe = none :=
  List.findSome?_eq_none_iff.mpr (fun d hd => laneEntry_none (h d hd))

/-- A lane in which no body waits has nothing to do. -/
theorem drainLane_of_none (h : laneHead s pipe = none) (n : Nat) : drainLane n pipe s = s := by
  cases n <;> simp [drainLane, h]

/-- A table read that is still out holds the lane. -/
theorem runLane_waits (hhead : laneHead s pipe = some (c, r, b)) (hreads : r.tableReads ≠ []) : runLane pipe s = s := by
  unfold runLane
  cases (s.trhQ.getD pipe []).length <;> simp [drainLane, hhead, hreads]

/-- With its reads returned, the one record whose body waits is decided, and the lane then holds no other. -/
theorem runLane_decides (hr : s.ctx? c = some r) (hb : r.body = some b) (hreads : r.tableReads = [])
    (hc : c ∈ s.trhQ.getD pipe []) (hothers : ∀ d ∈ s.trhQ.getD pipe [], d ≠ c → (s.ctx? d).bind (·.body) = none)
    (ht : decideBody c b s = t) (hq : t.trhQ = s.trhQ) (hdone : (t.ctx? c).bind (·.body) = none)
    (hrest : ∀ d, d ≠ c → t.ctx? d = s.ctx? d) : runLane pipe s = t := by
  have hhead := laneHead_of_unique hr hb hc hothers
  have hempty : laneHead t pipe = none := by
    refine laneHead_none (fun d hd => ?_)
    rw [hq] at hd
    by_cases hdc : d = c
    · rw [hdc, hdone]
    · rw [hrest d hdc, hothers d hd hdc]
  obtain ⟨n, hn⟩ := Nat.exists_eq_succ_of_ne_zero (List.length_pos_of_mem hc).ne'
  rw [runLane, hn, drainLane]
  simp only [hhead, hreads, List.isEmpty_nil, if_true, ht]
  exact drainLane_of_none hempty n

end

/-! ## The commit of a record (R94, R104, R246) -/

/-- An ignored reason request counts on the record's port or stream, or nowhere. -/
theorem countIgnored_count (r : RecCtx) (b : BodyIn) (s : State) : ∃ k n, 0x1000 ≤ k ∧ countIgnored r b s = count k n s := by
  unfold countIgnored
  split
  next g _ _ _ =>
    split
    · exact ⟨cStr g 6, 0, by unfold cStr; omega, rfl⟩
    · exact ⟨cStr g 6, 1, by unfold cStr; omega, rfl⟩
  next => exact ⟨cPrt r.reply.port pReasonIgnored, 1, by unfold cPrt; omega, rfl⟩

/-- A record's context once the record has committed with body `y` (R94). -/
def RecCtx.commit (y : Body) (reason : Option ReasonReq) (r : RecCtx) : RecCtx :=
  { r with
    slots := y.slots, side := y.side, kept := y.kept, preload := y.preload, reason := reason, committed := true, body := none }

section
variable (c pipe : Nat) (m : Model) (y : Body) (reason : Option ReasonReq) (s : State)

@[simp] theorem trhQ_commitRecord : (commitRecord c pipe m y reason s).trhQ = s.trhQ := by
  simp only [commitRecord, applyStats, trhQ_count]
  rfl

@[simp] theorem tenant_commitRecord (t : Nat) : (commitRecord c pipe m y reason s).tenant t = s.tenant t := by
  simp only [commitRecord, applyStats, tenant_count]
  rfl

@[simp] theorem ctx?_applyStats (id d : Nat) (us : List StatUpd) : (applyStats id pipe us s).ctx? d = s.ctx? d := by
  simp only [applyStats, ctx?_count]
  rfl

theorem ctx?_commitRecord (d : Nat) :
    (commitRecord c pipe m y reason s).ctx? d = if d = c then (s.ctx? d).map (RecCtx.commit y reason) else s.ctx? d := by
  rw [commitRecord, ctx?_applyStats]
  exact ctx?_modCtx c d _ s

/-- A record's updates count it once as a record of its pipeline; their other three counts are of other counters. -/
theorem counter_applyStats (id : Nat) (us : List StatUpd) :
    (applyStats id pipe us s).counter (cTrh pipe 4) = (s.counter (cTrh pipe 4) + 1) % 2 ^ 64 := by
  have hkept (us : Kv StatRec) (k : Nat) : State.counter { s with stats := us } k = s.counter k := rfl
  simp [applyStats, counter_count, cTrh, hkept]

theorem counter_commitRecord : (commitRecord c pipe m y reason s).counter (cTrh pipe 4) =
    (s.counter (cTrh pipe 4) + 1) % 2 ^ 64 := by
  rw [commitRecord, counter_applyStats, counter_modCtx]

end

section
variable {s : State} {c : Nat} {r : RecCtx} {b : BodyIn} {m : Model} {y : Body}

/-- A well-formed body of a model whose tables stand in Massif commits, and poison met on the way follows it. -/
theorem decideBody_commits (hr : s.ctx? c = some r) (hm : s.model? r.model = some m) (hres : m.tableRes = false)
    (hy : parseBody b.tword b.flags b.pay m.image (b.bad.map (·.1)) = .ok y) :
    ∃ k n reason, 0x1000 ≤ k ∧
      decideBody c b s = bodyPoison c m b y.tables (commitRecord c b.pipe m y reason (count k n s)) := by
  obtain ⟨k, n, hk, hcount⟩ := countIgnored_count r b s
  cases hignored : y.reason.isSome && (!b.reasons || m.image.detour.isNone) with
  | true =>
    refine ⟨k, n, none, hk, ?_⟩
    simp [decideBody, hr, hm, hy, hres, hignored, hcount]
  | false =>
    refine ⟨k, 0, y.reason, hk, ?_⟩
    simp [decideBody, hr, hm, hy, hres, hignored, count]

theorem bodyPoison_clean (hres : m.tableRes = false) (hbad : b.bad = []) (tables : List Nat) : bodyPoison c m b tables s = s := by
  simp [bodyPoison, hres, hbad]

/-- Poison that will be healed marks the record, unless its tenant aborts on poison. -/
theorem bodyPoison_healable {i : Nat} (hr : s.ctx? c = some r) (hbad : b.bad = [(i, false)])
    (hpolicy : (s.tenant r.tenant).quota.policy ≠ .abort) (tables : List Nat) :
    bodyPoison c m b tables s = modCtx c (fun r => { r with poi := true, heal := true })
      (modCtx c (fun r => { r with poi := true }) s) := by
  have hmarked := ctx?_modCtx_same hr (fun r => { r with poi := true })
  have hkeeps : ((modCtx c (fun r => { r with poi := true }) s).tenant r.tenant).quota.policy ≠ .abort := hpolicy
  simp [bodyPoison, modelPoison, hbad, hmarked, hkeeps]

end

section
variable {s : State} {c : Nat} {r : RecCtx} {b : BodyIn} {m : Model} {y : Body}
variable (hr : s.ctx? c = some r) (hb : r.body = some b) (hreads : r.tableReads = [])
variable (hc : c ∈ s.trhQ.getD b.pipe [])
variable (hothers : ∀ d ∈ s.trhQ.getD b.pipe [], d ≠ c → (s.ctx? d).bind (·.body) = none)
variable (hm : s.model? r.model = some m) (hres : m.tableRes = false)
include hr hb hreads hc hothers hm hres

/-- With its reads returned, the one well-formed record that waits in a lane commits. -/
theorem runLane_commits (hbad : b.bad = []) (hy : parseBody b.tword b.flags b.pay m.image [] = .ok y) :
    ∃ k n reason, 0x1000 ≤ k ∧ runLane b.pipe s = commitRecord c b.pipe m y reason (count k n s) := by
  obtain ⟨k, n, reason, hk, hdecide⟩ := decideBody_commits (b := b) hr hm hres (by simpa [hbad] using hy)
  rw [bodyPoison_clean hres hbad] at hdecide
  refine ⟨k, n, reason, hk, runLane_decides hr hb hreads hc hothers hdecide (by simp) ?_ (fun d hd => ?_)⟩
  · simp [ctx?_commitRecord, hr, RecCtx.commit]
  · simp [ctx?_commitRecord, hd]

/-- Where one table of that record holds poison that will be healed, the record takes POI and the self-heal mark as it commits. -/
theorem runLane_commits_healable {i : Nat} (hbad : b.bad = [(i, false)])
    (hpolicy : (s.tenant r.tenant).quota.policy ≠ .abort) (hy : parseBody b.tword b.flags b.pay m.image [i] = .ok y) :
    ∃ reason, (runLane b.pipe s).ctx? c = some { r.commit y reason with poi := true, heal := true } := by
  obtain ⟨k, n, reason, -, hdecide⟩ := decideBody_commits (b := b) hr hm hres (by simpa [hbad] using hy)
  have hcommitted : (commitRecord c b.pipe m y reason (count k n s)).ctx? c = some (r.commit y reason) := by
    simp [ctx?_commitRecord, hr]
  have hkept : ((commitRecord c b.pipe m y reason (count k n s)).tenant (r.commit y reason).tenant).quota.policy ≠ .abort := by
    simpa [RecCtx.commit] using hpolicy
  rw [bodyPoison_healable hcommitted hbad hkept] at hdecide
  have hmarked := ctx?_modCtx_same (ctx?_modCtx_same hcommitted (fun r => { r with poi := true }))
    (fun r => { r with poi := true, heal := true })
  rw [runLane_decides hr hb hreads hc hothers hdecide (by simp) (by rw [hmarked]; rfl)
    (fun d hd => by simp [ctx?_modCtx_ne, ctx?_commitRecord, hd])]
  exact ⟨reason, hmarked⟩

end

/-! ## TRAILHEAD_TABLE_READ_DONE (R107) -/

/-- A record's table read returns: the reads `rest` are left, and the fields in `bad` met poison. -/
def tableReturned (c : Nat) (b : BodyIn) (rest : List Nat) (bad : List (Nat × Bool)) (s : State) : State :=
  modCtx c (fun r => { r with tableReads := rest, body := some { b with bad := b.bad ++ bad } }) s

section
variable {s : State} {ctx : CtxId} {r : RecCtx} {b : BodyIn} {m : Model} {i : Nat} {rest : List Nat}
variable (hctx : s.ctx? ctx = some r) (hbody : r.body = some b) (hreads : r.tableReads = i :: rest)
variable (hm : s.model? r.model = some m) (hfill : (fieldLines m i).any (filling s) = false)
variable (hrefused : colRefused s m.id (fieldLines m i) = false)
variable (hothers : ∀ d ∈ s.trhQ.getD b.pipe [], d ≠ ctx.val → (s.ctx? d).bind (·.body) = none)

include hctx hbody hreads hm hfill hrefused in
/-- With the lines of its table served and none refused, the read returns and the lane goes on. -/
theorem exec_tableReadDone : exec (.trailheadTableReadDone ctx) s = .next (runLane b.pipe (tableReturned ctx b rest
    ((colPoison s m (m.field i).tabOff (m.field i).tabLen).toList.map (fun never => (i, never))) s)) := by
  show execTrailheadTableReadDone ctx s = _
  simp only [execTrailheadTableReadDone, hctx, hbody, hm, hreads, hfill, hrefused, Option.bind_some, Option.map_some,
    Bool.false_eq_true, if_false]
  rfl

include hctx in
theorem ctx?_tableReturned (bad : List (Nat × Bool)) : (tableReturned ctx b rest bad s).ctx? ctx =
    some { r with tableReads := rest, body := some { b with bad := b.bad ++ bad } } := ctx?_modCtx_same hctx _

include hothers in
theorem others_tableReturned (bad : List (Nat × Bool)) : ∀ d ∈ (tableReturned ctx b rest bad s).trhQ.getD b.pipe [],
    d ≠ ctx.val → ((tableReturned ctx b rest bad s).ctx? d).bind (·.body) = none := by
  intro d hd hne
  rw [tableReturned, ctx?_modCtx_ne hne]
  exact hothers d hd hne

end

/-! ## A field whose table met poison (Table 11.6) -/

/-- A field's value is kept and its table noted without touching slots, side list or statistics. -/
theorem keep_table_unbinned (b : Body) (f : Field) (i : Nat) (k : Kept) : ((b.keep f i k).table f i).slots = b.slots ∧
    ((b.keep f i k).table f i).side = b.side ∧ ((b.keep f i k).table f i).stats = b.stats := by
  unfold Body.table Body.keep
  split <;> split <;> exact ⟨rfl, rfl, rfl⟩

/-- The field is passed over in the payload and binned nowhere. -/
theorem parseBodyField_bad {pay : List Byte} {bad : List Nat} {i : Nat} {f : Field} {p q : Nat} {b b' : Body} (hi : i ∈ bad)
    (hf : f.type ≠ .bitfield) (h : parseBodyField pay bad i f p b = .ok (q, b')) :
    b'.slots = b.slots ∧ b'.side = b.side ∧ b'.stats = b.stats := by
  have hskip : (f.slots.isEmpty || bad.contains i) = true := by simp [hi]
  unfold parseBodyField at h
  split at h
  next hbits => exact absurd hbits hf
  all_goals
    simp only [hskip, if_true] at h
    split at h
    · cases h
    · cases h
      exact keep_table_unbinned _ _ _ _

/-! ## SIGNPOST_ENTRY (R124, R426) -/

/-- Record `c`, first in its pipeline's queue, is taken into a program context with walker `w`, if any. -/
def enterProgram (p c : Nat) (rest : List Nat) (w : Option Nat) (s : State) : State :=
  modCtx c (fun r => { r with state := .signpost, prog := some ⟨w, [], [], none, 0⟩ })
    { s with trhQ := s.trhQ.set p rest, progs := s.progs ++ [c] }

/-- A free walker is one of the eight, neither fenced nor held. -/
theorem freeWalker_free {s : State} {w : Nat} (h : freeWalker s = some w) :
    w < 8 ∧ (s.walker w).fenced = false ∧ (s.walker w).holder = none := by
  have hrange : w < 8 := List.mem_range.mp (List.mem_of_find?_eq_some h)
  have hfree := List.find?_some h
  simp only [Bool.and_eq_true, Bool.not_eq_true', Option.isNone_iff_eq_none] at hfree
  obtain ⟨⟨hfenced, hholder⟩, -⟩ := hfree
  exact ⟨hrange, hfenced, hholder⟩

theorem walkers_not_all_fenced {s : State} {w : Nat} (hw : w < s.walkers.length) (h : (s.walker w).fenced = false) :
    s.walkers.all (·.fenced) = false := by
  have hget : s.walker w = s.walkers[w] := by simp [State.walker, List.getD_eq_getElem?_getD, hw]
  rw [hget] at h
  exact List.all_eq_false.mpr ⟨s.walkers[w], List.getElem_mem hw, by simp [h]⟩

section
variable {s : State} {p : Fin 2} {c : Nat} {rest : List Nat} {r : RecCtx} {m : Model}
variable (hq : s.trhQ.getD p [] = c :: rest) (hctx : s.ctx? c = some r) (hm : s.model? r.model = some m)
variable (hcommitted : r.committed = true) (hprogram : m.image.program ≠ []) (hfree : progFree s = true)

include hctx in
theorem ctx?_enterProgram (w : Option Nat) : (enterProgram p c rest w s).ctx? c =
    some { r with state := .signpost, prog := some ⟨w, [], [], none, 0⟩ } :=
  ctx?_modCtx_same (s := { s with trhQ := s.trhQ.set p rest, progs := s.progs ++ [c] }) hctx _

theorem trhQ_enterProgram (hp : s.trhQ.length = 2) (w : Option Nat) : (enterProgram p c rest w s).trhQ.getD p [] = rest := by
  have hlt : p.val < s.trhQ.length := by omega
  simp [enterProgram, List.getD_eq_getElem?_getD, hlt]

include hq hctx hm hcommitted hprogram hfree

theorem exec_signpostEntry_plain (hwalks : hasAutomaton m = false) :
    exec (.signpostEntry p) s = .next (enterProgram p c rest none s) := by
  show execSignpostEntry p s = _
  rw [execSignpostEntry, hq]
  simp [hctx, hm, hcommitted, hprogram, hfree, hwalks, enterProgram]

theorem exec_signpostEntry_walker {w : Nat} (hwalks : hasAutomaton m = true) (hw : freeWalker s = some w)
    (hfenced : s.walkers.all (·.fenced) = false) : exec (.signpostEntry p) s =
      .next (modWalker w (fun x => { x with holder := some c }) (enterProgram p c rest (some w) s)) := by
  have hempty : m.image.program.isEmpty = false := by simpa using hprogram
  show execSignpostEntry p s = _
  rw [execSignpostEntry, hq]
  simp only [hctx, hm, Option.bind_some, Option.map_some, hcommitted, hempty, hfree, hwalks, hfenced, hw]
  rfl

theorem exec_signpostEntry_fenced (hwalks : hasAutomaton m = true) (hfenced : s.walkers.all (·.fenced) = true) :
    exec (.signpostEntry p) s = .next (unitFault c 0x40 s) := by
  show execSignpostEntry p s = _
  rw [execSignpostEntry, hq]
  simp [hctx, hm, hcommitted, hprogram, hfree, hwalks, hfenced]

end

/-- Settles O19: a returned read leaves the lane waiting or decides the one body that waits in it; a field in `bad` is passed
over; and Signpost's entry takes the context, and the walker, that its conditions found free. -/
theorem tableReadsAndSignpostEntry : Obligations.TableReadsAndSignpostEntry := by
  refine ⟨?reads, ?field, ?entry⟩
  case reads =>
    intro s ctx r b m i rest _ hpipe hctx hbody hreads hm hres hfill hrefused hlane hothers
    have hexec := exec_tableReadDone hctx hbody hreads hm hfill hrefused
    refine ⟨?waits, ?clean, ?healable⟩
    case waits =>
      intro hrest hpoison
      rw [hexec, hpoison]
      have hr := ctx?_tableReturned (b := b) (rest := rest) hctx []
      exact congrArg Host.Outcome.next
        (runLane_waits (laneHead_of_unique hr rfl hlane (others_tableReturned hothers [])) hrest)
    case clean =>
      rintro y rfl hbad hpoison hy
      rw [hpoison] at hexec
      have hr := ctx?_tableReturned (b := b) (rest := []) hctx []
      obtain ⟨k, n, reason, hk, hrun⟩ := runLane_commits hr rfl rfl hlane (others_tableReturned hothers []) hm hres
        (by simp [hbad]) hy
      have hcommitted := ctx?_commitRecord ctx b.pipe m y reason (count k n (tableReturned ctx b [] [] s)) ctx
      rw [if_pos rfl, ctx?_count, hr] at hcommitted
      refine ⟨_, _, hexec.trans (congrArg Host.Outcome.next hrun), hcommitted, rfl, rfl, rfl, rfl, ?_⟩
      rw [counter_commitRecord, counter_count_above hpipe (by decide) hk]
      rfl
    case healable =>
      rintro y rfl hbad hpoison hpolicy hy
      rw [hpoison] at hexec
      obtain ⟨reason, hcommitted⟩ := runLane_commits_healable (ctx?_tableReturned (b := b) hctx [(i, false)]) rfl rfl hlane
        (others_tableReturned hothers _) hm hres (by simp [hbad]) hpolicy hy
      exact ⟨_, _, hexec, hcommitted, rfl, rfl, rfl, rfl, rfl⟩
  case field =>
    intro pay bad i f p q b b' hi hf h
    exact parseBodyField_bad hi hf h
  case entry =>
    intro s p c rest r m hshaped hq hctx hm hcommitted hprogram hfree
    obtain ⟨-, -, hpipes, -, hwalkers, -⟩ := hshaped
    refine ⟨?plain, ?walker, ?fenced⟩
    case plain =>
      intro hwalks
      exact ⟨_, exec_signpostEntry_plain hq hctx hm hcommitted hprogram hfree hwalks, trhQ_enterProgram hpipes none, rfl, rfl,
        ctx?_enterProgram hctx none⟩
    case walker =>
      intro w hwalks hw
      obtain ⟨hrange, hunfenced, hfreed⟩ := freeWalker_free hw
      have hlt : w < s.walkers.length := hwalkers ▸ hrange
      refine ⟨_, exec_signpostEntry_walker hq hctx hm hcommitted hprogram hfree hwalks hw (walkers_not_all_fenced hlt hunfenced),
        trhQ_enterProgram (c := c) hpipes (some w), rfl, ?_, hunfenced, hfreed, ctx?_enterProgram hctx (some w)⟩
      exact congrArg Walker.holder (getD_modify_eq s.walkers w _ Walker.reset hlt)
    case fenced => exact fun hwalks hfenced => exec_signpostEntry_fenced hq hctx hm hcommitted hprogram hfree hwalks hfenced

end Sys2Proof.Machine
end

section
/-! SUPPORT. MEMORY_CONFIG and the patrol's schedule (R242): the step after a new period falls one new interval later, so the
command also restarts the count of the steps taken. -/

namespace Sys2Proof.Machine

/-- An answer leaves memory and the patrol as the command's action left them. -/
theorem answeredAs_mem {f status : Nat} {payload : List Byte} {s t : State} (h : answeredAs f status payload s t) :
    t.mem = s.mem := by
  rw [h]

@[simp] theorem mem_respond (f status : Nat) (payload : List Byte) (s : State) : (respond f status payload s).mem = s.mem := by
  simp [respond, postResponse, apply_ite State.mem]

/-- An accepted MEMORY_CONFIG begins both sweeps' schedules anew at its cycle. -/
theorem memoryConfig_mem {s t : State} {fn : Fn} (h : accepted s fn 0x0103 anyOp periodCheck = true)
    (ht : exec (.memoryConfig fn) s = .next t) : t.mem = { s.mem with
      period := byteAt (s.payload fn) 0, patrolFrom := s.time.time, patrolSteps := 0, sramSteps := 0 } := by
  have hnext : execMemoryConfig fn s = _ := runCommand_accepted h
  obtain rfl := Host.Outcome.next.inj (ht.symm.trans hnext)
  simp

/-- The page of MEMORY_CONFIG with a period of 24 hours. -/
def periodPage : List Byte := leBytes 2 0x0103 ++ leBytes 2 4 ++ zeros 4 ++ leBytes 1 0xFF ++ zeros 23 ++ [24, 0, 0, 0]

/-- A device whose patrol has taken one step, and whose physical function 0 is the next to run that command. -/
def patrolledState : State := { State.reset with
  taken := [0], mem := { State.reset.mem with patrolSteps := 1 }
  fns := State.reset.fns.modify 0 (fun x => { x with mbx := { x.mbx with state := .running, run := periodPage } }) }

theorem patrolledState_accepted : accepted patrolledState 0 0x0103 anyOp periodCheck = true := by decide +kernel

/-- Refutes O57: MEMORY_CONFIG does not change the period alone, as the statement has it. Where the patrol has taken a step,
its count of steps is 0 after the command (R242: the next step falls one new step interval after that cycle). -/
theorem not_immediateCommandsActBeforeTheirAnswer : ¬ Obligations.ImmediateCommandsActBeforeTheirAnswer := by
  intro h
  obtain ⟨hperiod, -⟩ := h patrolledState 0 _ _ rfl rfl
  obtain ⟨t, ht, hanswer⟩ := hperiod patrolledState_accepted
  have hkept : t.mem.patrolSteps = 1 := congrArg MemSt.patrolSteps (answeredAs_mem hanswer)
  have hzero : t.mem.patrolSteps = 0 := congrArg MemSt.patrolSteps (memoryConfig_mem patrolledState_accepted ht)
  omega

end Sys2Proof.Machine
end

section
/-! SUPPORT. The steps of a derivation program (R116 to R125, R136): what issuing a step leaves in its record, and what a
search does in each of its cases. -/

namespace Sys2Proof.Machine

/-! ## The core cycle, the banks and the counters after a change -/

@[simp] theorem now_count (k n : Nat) (s : State) : (count k n s).now = s.now := by rw [count_frame]; rfl

@[simp] theorem bank_count (k n b : Nat) (s : State) : (count k n s).bank b = s.bank b := by rw [count_frame]; rfl

@[simp] theorem now_modBank (b : Nat) (f : Bank → Bank) (s : State) : (modBank b f s).now = s.now := rfl

theorem counter_count_one (k : Nat) (s : State) : (count k 1 s).counter k = (s.counter k + 1) % 2 ^ 64 := by
  simp [counter_count]

/-! ## Issuing a step (R125) -/

section
variable {s : State} {c : Nat} {r : RecCtx} {p : Prog}

/-- A step that may issue is one of a record whose program is in a program context. -/
theorem ctx_prog_of_nextStep {m : Model} {i : Nat} {st : Step} (h : nextStep? s c = some (r, p, m, i, st)) :
    s.ctx? c = some r ∧ r.prog = some p := by
  simp only [nextStep?, Option.bind_eq_some_iff] at h
  obtain ⟨r', hr, p', hp, m', -, st', -, h⟩ := h
  split at h
  · cases h
  · cases h
    exact ⟨hr, hp⟩

theorem ctx?_issueStep (hr : s.ctx? c = some r) (hp : r.prog = some p) (o : StepOut) :
    (issueStep c o s).ctx? c = some { r with prog := some { p with outs := p.outs ++ [o], next := s.now + 1 } } := by
  rw [issueStep, ctx?_modCtx_same hr, hp]
  rfl

@[simp] theorem bank_issueStep (o : StepOut) (b : Nat) : (issueStep c o s).bank b = s.bank b := rfl

@[simp] theorem counter_issueStep (o : StepOut) (k : Nat) : (issueStep c o s).counter k = s.counter k := rfl

theorem ctx?_missStep (hr : s.ctx? c = some r) (hp : r.prog = some p) (op : Nat) :
    (missStep c op s).ctx? c = some { r with prog := some { p with
      outs := p.outs ++ [⟨true, 0, 0, [], 0, false, s.now + stepCycles op 0⟩], next := s.now + 1 } } := by
  rw [missStep, ctx?_issueStep ((ctx?_count _ _ _ s).trans hr) hp, now_count]
  rfl

theorem counter_missStep (op : Nat) : (missStep c op s).counter (cSgp 5) = (s.counter (cSgp 5) + 1) % 2 ^ 64 := by
  rw [missStep, counter_issueStep, counter_count_one]

end

/-! ## A search's hold of its bank (R117, R125) -/

section
variable (b n : Nat) (s : State)

@[simp] theorem now_countSearch : (countSearch b n s).now = s.now := by
  unfold countSearch
  split <;> simp

@[simp] theorem ctx?_countSearch (c : Nat) : (countSearch b n s).ctx? c = s.ctx? c := by
  unfold countSearch
  split <;> simp [State.ctx?]

/-- A search holds its bank for one cycle. -/
theorem busy_countSearch (hb : b < s.banks.length) : ((countSearch b n s).bank b).busy = s.now + 1 := by
  have hbusy : ((modBank b (fun x => { x with busy := s.now + 1 }) s).bank b).busy = s.now + 1 :=
    congrArg Bank.busy (getD_modify_eq _ _ _ _ hb)
  unfold countSearch
  split <;> simp [hbusy]

/-- A search counts once, beside its multiple-match flag. -/
theorem counter_countSearch : (countSearch b n s).counter (cBank b 0) = (s.counter (cBank b 0) + 1) % 2 ^ 64 := by
  have hflag : cBank b 0 ≠ cBank b 1 := by unfold cBank; omega
  have hone : ∀ f, (count (cBank b 0) 1 (modBank b f s)).counter (cBank b 0) = (s.counter (cBank b 0) + 1) % 2 ^ 64 :=
    fun f => counter_count_one (cBank b 0) (modBank b f s)
  unfold countSearch
  split
  · rw [counter_count, if_neg (fun h => hflag h.1), hone]
  · exact hone _

end

/-! ## A search step in each of its cases (R121, R125, R136) -/

section
variable {s : State} {c : Nat} {st : Step} {k : Int}

theorem runSearch_missing : runSearch c st none s = missStep c st.op s := rfl

theorem runSearch_fenced (hfenced : (s.bank st.target).fenced = true) : runSearch c st (some k) s = unitFault c 0x40 s := by
  simp [runSearch, hfenced]

theorem runSearch_waits (hfenced : (s.bank st.target).fenced = false) (hturn : bankTurn s st.target c = false) :
    runSearch c st (some k) s = s := by
  simp [runSearch, hfenced, hturn]

theorem runSearch_searches (hfenced : (s.bank st.target).fenced = false) (hturn : bankTurn s st.target c = true) :
    runSearch c st (some k) s =
      issueStep c (StepOut.ofMatches st.miss (searchBank (s.bank st.target) k) (s.now + stepCycles st.op 0))
        (countSearch st.target (searchBank (s.bank st.target) k).length s) := by
  simp [runSearch, hfenced, hturn]

end

/-! ## The instructions of the steps -/

section
variable {s : State} {ctx : CtxId} {r : RecCtx} {p : Prog} {m : Model} {i : Nat} {st : Step}

theorem exec_ternaryStep (h : nextStep? s ctx = some (r, p, m, i, st)) (hop : st.op = 1) : exec (.ternaryStep ctx) s =
    .next (runSearch ctx st ((ternaryKey r m.image.program p.outs st.parts).map (fun k => (k : Int))) s) := by
  show execTernaryStep ctx s = _
  rw [execTernaryStep, h]
  simp [hop, searchKey]

theorem exec_rangeStep (h : nextStep? s ctx = some (r, p, m, i, st)) (hop : st.op = 2) : exec (.rangeStep ctx) s =
    .next (runSearch ctx st (rangeKey r m.image.program p.outs (s.bank st.target).domain st.parts) s) := by
  show execRangeStep ctx s = _
  rw [execRangeStep, h]
  simp [hop, searchKey]

/-- What a NEXT step selects of the step it continues: its next retained match, or a miss with the same count (R123). -/
def continued (miss now : Nat) (o : StepOut) : StepOut :=
  match o.matches_[o.taken]? with
  | some y => ⟨false, y.result, o.count, [], 0, true, now + 4⟩
  | none => ⟨false, missWord miss, o.count, [], 0, false, now + 4⟩

/-- A program whose step `j` has had one more of its retained matches selected. -/
def Prog.selectNext (j : Nat) (p : Prog) : Prog :=
  { p with outs := p.outs.modify j (fun x => { x with taken := x.taken + 1 }) }

theorem exec_nextStep_missing (h : nextStep? s ctx = some (r, p, m, i, st)) (hop : st.op = 4) {o : StepOut}
    (ho : p.outs[st.target]? = some o) (hmissing : o.missing = true) :
    exec (.nextStep ctx) s = .next (missStep ctx 4 s) := by
  show execNextStep ctx s = _
  rw [execNextStep, h]
  simp [hop, ho, hmissing]

theorem exec_nextStep_continues (h : nextStep? s ctx = some (r, p, m, i, st)) (hop : st.op = 4) {o : StepOut}
    (ho : p.outs[st.target]? = some o) (hmissing : o.missing = false) : exec (.nextStep ctx) s =
      .next (issueStep ctx (continued st.miss s.now o)
        (modCtx ctx (fun r => { r with prog := r.prog.map (Prog.selectNext st.target) }) s)) := by
  show execNextStep ctx s = _
  rw [execNextStep, h]
  simp only [hop, ho, hmissing]
  rfl

end

/-- Settles O20: a search step runs in one of the four cases of `runSearch`, and a NEXT step continues or misses. -/
theorem stepsSearchTheirBank : Obligations.StepsSearchTheirBank := by
  unfold Obligations.StepsSearchTheirBank
  intro s ctx r p m i st hstep
  obtain ⟨hr, hp⟩ := ctx_prog_of_nextStep hstep
  refine ⟨fun q hq hop => ?search, fun hop o ho => ?next⟩
  case search =>
    obtain ⟨hexec, hcycles⟩ : exec q.1 s = .next (runSearch ctx st q.2.2 s) ∧ stepCycles st.op 0 = 28 := by
      simp only [List.mem_cons, List.not_mem_nil, or_false] at hq
      obtain rfl | rfl := hq
      · exact ⟨exec_ternaryStep hstep hop, by rw [hop]; rfl⟩
      · exact ⟨exec_rangeStep hstep hop, by rw [hop]; rfl⟩
    refine ⟨fun hkey => ?missing, fun k hkey hfenced hturn => ?searches, fun k hkey hfenced hturn => ?waits,
      fun k hkey hfenced => ?fenced⟩ <;> rw [hkey] at hexec
    case missing => exact ⟨_, hexec, hcycles ▸ ctx?_missStep hr hp st.op, counter_missStep st.op⟩
    case searches =>
      rw [runSearch_searches hfenced hturn, hcycles] at hexec
      have hctx := ctx?_issueStep ((ctx?_countSearch st.target (searchBank (s.bank st.target) k).length s ctx).trans hr) hp
      simp only [now_countSearch] at hctx
      exact ⟨_, hexec, hctx _, busy_countSearch _ _ s, counter_countSearch _ _ s⟩
    case waits => rw [hexec, runSearch_waits hfenced hturn]
    case fenced => rw [hexec, runSearch_fenced hfenced]
  case next =>
    cases hmissing : o.missing with
    | true =>
      exact ⟨_, _, exec_nextStep_missing hstep hop ho hmissing, ctx?_missStep hr hp 4, fun _ => rfl, nofun⟩
    | false =>
      have hselected := ctx?_modCtx_same hr (fun r => { r with prog := r.prog.map (Prog.selectNext st.target) })
      exact ⟨_, _, exec_nextStep_continues hstep hop ho hmissing,
        ctx?_issueStep (p := p.selectNext st.target) hselected (congrArg (Option.map _) hp) _, nofun, fun _ => rfl⟩

end Sys2Proof.Machine
end

section
/-! SUPPORT. Tree sets on a Ridge (R140, R156 to R159, R242, R420): what a record's broadcast, the loads of a set and a patrol
step leave, and that no fence moves the patrol. -/

namespace Sys2Proof.Machine

/-! ## Memory after messages, frames and what a record leaves -/

section
variable (s : State)

@[simp] theorem mem_count (k n : Nat) : (count k n s).mem = s.mem := by rw [count_frame]

@[simp] theorem mem_raise (c t : Nat) (d : List Byte) : (raise c t d s).mem = s.mem := by rw [raise_frame]

@[simp] theorem mem_chargeWork (k n : Nat) : (chargeWork k n s).mem = s.mem := rfl

@[simp] theorem mem_queueOut (i : Nat) (m : Msg) : (queueOut i m s).mem = s.mem := rfl

@[simp] theorem mem_deliver (m : Msg) : (deliver m s).mem = s.mem := rfl

@[simp] theorem mem_readyFrame (r : Reply) (k : TxKind) (c : Option Nat) (m : List Byte) (a : Nat) (sc : Bool) :
    (readyFrame r k c m a sc s).mem = s.mem := rfl

theorem mem_queueOuts (g : Nat → Msg) (l : List Nat) : (l.foldl (fun s i => queueOut i (g i) s) s).mem = s.mem :=
  foldl_keeps (fun t => t.mem = s.mem) (fun s i => queueOut i (g i) s) (fun _ _ ht => ht) l s rfl

@[simp] theorem mem_routeMsg (m : Msg) : (routeMsg m s).2.mem = s.mem := by
  unfold routeMsg
  dsimp only
  split
  · split
    · simp
    · split
      · simp
      · split
        · simp [apply_ite State.mem]
        · split
          · simp [apply_ite State.mem]
          · exact (mem_queueOuts _ (fun _ => _) _).trans (by simp [apply_ite State.mem])
  · split
    · simp
    · split
      · simp
      · split <;> simp

@[simp] theorem mem_refuseMsg (m : Msg) (reason : Nat) : (refuseMsg m reason s).mem = s.mem := by
  simp [refuseMsg, nakEvent, apply_ite State.mem]

@[simp] theorem mem_sendMsg (bs : List Byte) (c : Option Nat) : (sendMsg bs c s).2.mem = s.mem := by
  unfold sendMsg
  dsimp only
  split <;> simp

@[simp] theorem mem_returnBlock (c : Nat) : (returnBlock c s).mem = s.mem := by
  unfold returnBlock
  split
  · rfl
  · split <;> rfl

@[simp] theorem mem_dropWork (c : Nat) : (dropWork c s).mem = s.mem :=
  calc (dropWork c s).mem = (returnBlock c (giveBack (workCredits c s) s)).mem := rfl
    _ = s.mem := by simp

end

/-! ## The patrol of the Ridge SRAM stands still (R242) -/

/-- Where the patrol of the Ridge SRAM stands, and the steps it has taken. -/
def State.sramSweep (s : State) : Nat × Nat := (s.mem.sramPatrol, s.mem.sramSteps)

section
variable {s t : State}

theorem sramSweep_of_mem (h : t.mem = s.mem) : t.sramSweep = s.sramSweep := by rw [State.sramSweep, h, State.sramSweep]

variable (s)

/-- A fold leaves the patrol where each of its steps leaves it. -/
theorem sramSweep_foldl {β : Type} (g : State → β → State) (hg : ∀ s x, (g s x).sramSweep = s.sramSweep) (l : List β) :
    (l.foldl g s).sramSweep = s.sramSweep :=
  foldl_keeps (fun t => t.sramSweep = s.sramSweep) g (fun t x ht => (hg t x).trans ht) l s rfl

theorem memPut_frame (m : MemSt) (a : Nat) (bs : List Byte) : memPut m a bs = { m with cells := (memPut m a bs).cells } := by
  induction bs generalizing m a with
  | nil => rfl
  | cons b bs ih => exact ih _ _

@[simp] theorem sramSweep_writeWhole (a : Nat) (bs : List Byte) : (writeWhole a bs s).sramSweep = s.sramSweep := by
  simp only [State.sramSweep, writeWhole, modMem_mem, unpoison]
  rw [memPut_frame]

@[simp] theorem sramSweep_freeContext (c : Nat) : (freeContext c s).sramSweep = s.sramSweep := by
  unfold freeContext
  split
  · exact (sramSweep_writeWhole _ _ _).trans (sramSweep_of_mem (by simp))
  · rfl

@[simp] theorem sramSweep_ringAnswer (g n e : Nat) (r : Bool) (bs : List Byte) (c : Option Nat) :
    (ringAnswer g n e r bs c s).sramSweep = s.sramSweep :=
  (sramSweep_foldl _ _ (fun s c => sramSweep_freeContext s c) _).trans rfl

theorem sramSweep_dropCandidates (slot : Nat) : (dropCandidates slot s).sramSweep = s.sramSweep :=
  sramSweep_foldl s (fun s (p : Nat × RecCtx) => freeContext p.1 s) (fun s p => sramSweep_freeContext s p.1) _

@[simp] theorem sramSweep_endSearch (slot : Nat) (limit : Bool) : (endSearch slot limit s).sramSweep = s.sramSweep := by
  unfold endSearch
  split
  · rfl
  next x _ =>
    have hdropped : (dropCandidates slot { s with searches := kvDel s.searches slot }).sramSweep = s.sramSweep :=
      sramSweep_dropCandidates { s with searches := kvDel s.searches slot } slot
    dsimp only
    split
    · exact (sramSweep_ringAnswer _ _ _ _ _ _ _).trans ((sramSweep_of_mem (by simp [apply_ite State.mem])).trans hdropped)
    · exact (sramSweep_of_mem (by simp [apply_ite State.mem])).trans hdropped

@[simp] theorem sramSweep_sendTerm (c : Nat) (msg : List Byte) : (sendTerm c msg s).sramSweep = s.sramSweep := by
  have hsent : (sendMsg msg (some c) (modCtx c (fun r => { r with state := .remote }) s)).2.sramSweep = s.sramSweep :=
    sramSweep_of_mem (by simp)
  unfold sendTerm
  dsimp only
  split
  · exact hsent
  · exact (sramSweep_freeContext _ c).trans hsent

@[simp] theorem sramSweep_endRecord (c status reason : Nat) : (endRecord c status reason s).sramSweep = s.sramSweep := by
  unfold endRecord
  split
  · rfl
  next r _ =>
    dsimp only
    generalize hu : (if isEthernet r && beforeCommit r then count (cPrt r.reply.port pAnswered) 1 s else s) = u
    have hended : (modCtx c (fun r => { r with state := .summit, ended := some (status, reason) })
        (dropWork c u)).sramSweep = s.sramSweep := sramSweep_of_mem (by simp [← hu, apply_ite State.mem])
    split
    · exact hended
    · exact (sramSweep_ringAnswer _ _ _ _ _ _ _).trans hended
    · exact (sramSweep_sendTerm _ _ _).trans hended
    · exact (sramSweep_endSearch _ _ _).trans hended

theorem sramSweep_requestAgain (c slot k : Nat) : (requestAgain c slot k s).sramSweep = s.sramSweep :=
  sramSweep_freeContext s c

theorem sramSweep_repeatOr (c : Nat) (isPoison : Bool) {again : State → State}
    (hagain : ∀ t, (again t).sramSweep = t.sramSweep) : (repeatOr c isPoison again s).sramSweep = s.sramSweep := by
  unfold repeatOr
  split
  · rfl
  · split
    · exact (sramSweep_endRecord _ _ _ _).trans (sramSweep_of_mem (by simp))
    · exact hagain _

theorem sramSweep_lostPass (es : List QEntry) (replayable : Bool) (c : Nat) :
    (lostPass es replayable c s).sramSweep = s.sramSweep := by
  unfold lostPass
  split
  · rfl
  · split
    · split
      · exact sramSweep_requestAgain s _ _ _
      · exact sramSweep_endSearch s _ _
    · split
      · exact sramSweep_repeatOr s _ _ (fun _ => rfl)
      · exact sramSweep_endRecord s _ _ _

/-- A read through the Col cache changes the cache, its fills and refusals, and the counters. -/
theorem sramSweep_colRead (req model line : Nat) : (colRead req model line s).sramSweep = s.sramSweep := by
  unfold colRead
  dsimp only
  split
  · split <;> simp [State.sramSweep, colMiss]
  · split <;> simp [State.sramSweep, colMiss]

theorem sramSweep_readMaster (id : SetId) (q : Nat) : (readMaster id q s).sramSweep = s.sramSweep := by
  unfold readMaster
  split
  · rfl
  · exact sramSweep_foldl s _ (fun s _ => sramSweep_foldl s _ (fun s l => sramSweep_colRead s 1 _ l) _) _

theorem sramSweep_chargeLoad (id : SetId) (q : Nat) : (chargeLoad id q s).sramSweep = s.sramSweep :=
  sramSweep_of_mem (by simp [chargeLoad, apply_ite State.mem])

theorem sramSweep_bindStandIn (q : Nat) (x : Ridge) (sets : List SetId) :
    (bindStandIn q x sets s).sramSweep = s.sramSweep :=
  sramSweep_foldl (modRidge q _ s) (fun s id => chargeLoad id q (readMaster id q s))
    (fun s id => (sramSweep_chargeLoad _ id q).trans (sramSweep_readMaster s id q)) sets

/-- A fence, its stand-in's loads and the records it ends or repeats leave the patrol where it stands. -/
theorem sramSweep_fenceRidge (r mask : Nat) : (fenceRidge r mask s).sramSweep = s.sramSweep := by
  have hraised (c t : Nat) (d : List Byte) : (raise c t d s).sramSweep = s.sramSweep := sramSweep_of_mem (mem_raise s c t d)
  unfold fenceRidge
  dsimp only
  split
  · rfl
  · split
    · exact (sramSweep_foldl _ _ (fun s c => sramSweep_lostPass s _ _ c) _).trans
        ((sramSweep_bindStandIn _ _ _ _).trans (hraised _ _ _))
    · exact (sramSweep_foldl _ _ (fun s c => sramSweep_lostPass s _ _ c) _).trans (hraised _ _ _)

end

@[simp] theorem ridge_count (k n q : Nat) (s : State) : (count k n s).ridge q = s.ridge q := by simp [State.ridge]

/-! ## Words of Ridge SRAM through SECDED (R140) -/

section
variable {s : State} {q words : Nat} {ecc : List EccFind}

/-- With no uncorrectable word a read counts what it corrects. -/
theorem sramRead_sound (h : (List.range words).any (findsUe ecc) = false) : ∃ n,
    sramRead q words ecc s = (false, count (cRdg q 8) n s) :=
  ⟨_, if_pos (by simpa using h)⟩

/-- A read with an uncorrectable word counts what it corrects and fences the Ridge. -/
theorem sramRead_uncorrectable (h : (List.range words).any (findsUe ecc) = true) : ∃ n,
    sramRead q words ecc s = (true, fenceRidge q 4 (count (cRdg q 8) n s)) :=
  ⟨_, if_neg (by simpa using h)⟩

@[simp] theorem sramSweep_sramRead (s : State) : (sramRead q words ecc s).2.sramSweep = s.sramSweep := by
  cases h : (List.range words).any (findsUe ecc) with
  | false =>
    obtain ⟨n, hread⟩ := sramRead_sound (q := q) (s := s) h
    exact hread ▸ sramSweep_of_mem (mem_count s _ n)
  | true =>
    obtain ⟨n, hread⟩ := sramRead_uncorrectable (q := q) (s := s) h
    exact hread ▸ (sramSweep_fenceRidge _ q 4).trans (sramSweep_of_mem (mem_count s _ n))

/-- A read fences an open Ridge exactly when it meets an uncorrectable word. -/
theorem fenced_sramRead (hq : q < s.ridges.length) (hopen : (s.ridge q).fenced = false) :
    ((sramRead q words ecc s).2.ridge q).fenced = (List.range words).any (findsUe ecc) := by
  cases h : (List.range words).any (findsUe ecc) with
  | false =>
    obtain ⟨n, hread⟩ := sramRead_sound (q := q) (s := s) h
    rw [hread, ridge_count, hopen]
  | true =>
    obtain ⟨n, hread⟩ := sramRead_uncorrectable (q := q) (s := s) h
    have hcleared : (fenceRidge q 4 (count (cRdg q 8) n s)).cleared q :=
      cleared_fenceRidge (by simpa using hq) (by rw [ridge_count, hopen]) 4
    obtain ⟨hfenced, -⟩ := hcleared.ridge
    rw [hread, hfenced]

end

/-! ## The charge of a load (R263) -/

section
variable (s : State)

@[simp] theorem disp_count (k n : Nat) : (count k n s).disp = s.disp := by rw [count_frame]

theorem disp_colRead (req model line : Nat) : (colRead req model line s).disp = s.disp := by
  unfold colRead
  dsimp only
  split
  · split <;> simp [colMiss]
  · split <;> simp [colMiss]

@[simp] theorem disp_readMaster (id : SetId) (q : Nat) : (readMaster id q s).disp = s.disp := by
  unfold readMaster
  split
  · rfl
  · exact foldl_keeps (fun t => t.disp = s.disp) _ (fun t x ht =>
      foldl_keeps (fun u => u.disp = s.disp) _ (fun u l hu => (disp_colRead u 1 _ l).trans hu) _ t ht) _ s rfl

theorem charging_le_chargeLoad (id : SetId) (q : Nat) : s.disp.charging ≤ (chargeLoad id q s).disp.charging := by
  unfold chargeLoad
  dsimp only
  split <;> exact Nat.le_add_right _ _

end

/-! ## The instructions of the window, the loads and the patrol -/

section
variable {s : State} {ridge : RidgeId} {id : SetId} {p : Bool}

theorem exec_broadcastDone_enters {ctx : CtxId} (hopen : (s.ridge ridge).fenced = false)
    (hbound : (s.ridge ridge).bound.any (·.ctx == ctx.val) = true) (hnew : ctx.val ∉ (s.ridge ridge).window)
    (hroom : (s.ridge ridge).window.length + s.unusable (.window ridge.val) < 16) : exec (.broadcastDone ctx ridge) s =
      .next (modRidge ridge (fun x => { x with window := x.window ++ [ctx.val] }) s) := by
  show execBroadcastDone ctx ridge s = _
  rw [execBroadcastDone, if_neg (by simp [hopen, hbound, hnew, hroom])]

theorem exec_setLoadStart_loads {b : Bound} (hopen : (s.ridge ridge).fenced = false) (hfree : bufferFree s ridge = true)
    (hnamed : namedSet s ridge = some (b, id)) (hown : (s.ridge ridge).standsIn = false) :
    exec (.setLoadStart ridge) s = .next (modRidge ridge (fun x => { x with inactive := ⟨some id, false, false⟩ })
      (if fromMaster (chargeLoad id ridge s) id ridge then readMaster id ridge (chargeLoad id ridge s)
        else chargeLoad id ridge s)) := by
  show execSetLoadStart ridge s = _
  simp [execSetLoadStart, hopen, hfree, hnamed, hown]

theorem exec_setLoadDone_master (hopen : (s.ridge ridge).fenced = false) (hload : (s.ridge ridge).inactive = ⟨some id, false, p⟩)
    (hmaster : fromMaster s id ridge = true) (hserved : masterServed s id ridge = true)
    (hlines : colRefused s id.model (setLines s id ridge) = false) (ecc : List EccFind) :
    exec (.setLoadDone ridge ecc) s = .next (count (cRdg ridge 6) 1 (modRidge ridge (fun x =>
      { x with inactive := ⟨some id, true, (setPoison s id ridge).isSome⟩ }) s)) := by
  show execSetLoadDone ridge ecc s = _
  simp [execSetLoadDone, hopen, hload, hmaster, hserved, hlines]

/-- A load that is not from the master copy reads the Ridge's SRAM, and stands there unless the read fenced the Ridge. -/
theorem exec_setLoadDone_warm (hopen : (s.ridge ridge).fenced = false) (hload : (s.ridge ridge).inactive = ⟨some id, false, p⟩)
    (hwarm : fromMaster s id ridge = false) {ecc : List EccFind} {fenced : Bool} {u : State}
    (hread : sramRead ridge (setWords s id ridge) ecc s = (fenced, u)) :
    exec (.setLoadDone ridge ecc) s = .next (if fenced then u
      else count (cRdg ridge 5) 1 (modRidge ridge (fun x => { x with inactive := ⟨some id, true, false⟩ }) u)) := by
  show execSetLoadDone ridge ecc s = _
  cases fenced <;> simp [execSetLoadDone, hopen, hload, hwarm, hread]

theorem exec_standInLoadDone_active (hq : ridge.val < s.ridges.length) (hopen : (s.ridge ridge).fenced = false)
    (hstand : (s.ridge ridge).standsIn = true) (hload : (s.ridge ridge).active = ⟨some id, false, p⟩)
    (hempty : (s.ridge ridge).inactive.set = none) (hserved : masterServed s id ridge = true)
    (hlines : colRefused s id.model (setLines s id ridge) = false)
    (hflat : (treesOn s id ridge).all (·.tree.flat) = true) : ∃ t, exec (.standInLoadDone ridge) s = .next t ∧
      (t.ridge ridge).active = ⟨some id, true, (setPoison s id ridge).isSome⟩ := by
  have hfinish : finishStandIn s ridge ⟨some id, false, p⟩ = ⟨some id, true, (setPoison s id ridge).isSome⟩ := by
    simp [finishStandIn, hflat]
  show ∃ t, execStandInLoadDone ridge s = .next t ∧ _
  simp [execStandInLoadDone, hopen, hstand, hload, hempty, hserved, hlines, hfinish, ridge_modRidge_same, hq]

theorem exec_ridgeSramPatrolStep_waits (h : patrolMay s true false = false) (ecc : List EccFind) :
    exec (.ridgeSramPatrolStep ecc) s = .next s :=
  show execRidgeSramPatrolStep ecc s = _ from if_pos (by simp [h])

/-- The state in which a patrol step reads its line: it is charged, and the patrol has moved on (R242). -/
def sramPatrolMoved (s : State) : State :=
  modMem (fun m => { m with sramPatrol := (s.mem.sramPatrol + 1) % sramLines, sramSteps := m.sramSteps + 1 })
    (patrolCharge true s)

theorem exec_ridgeSramPatrolStep_reads (h : patrolMay s true false = true) (ecc : List EccFind) :
    exec (.ridgeSramPatrolStep ecc) s = .next (sramRead (s.mem.sramPatrol / 8192) 32 ecc (sramPatrolMoved s)).2 :=
  show execRidgeSramPatrolStep ecc s = _ from if_neg (by simp [h])

@[simp] theorem ridges_sramPatrolMoved : (sramPatrolMoved s).ridges = s.ridges := by
  simp [sramPatrolMoved, patrolCharge, apply_ite State.ridges]

theorem sramSweep_sramPatrolMoved :
    (sramPatrolMoved s).sramSweep = ((s.mem.sramPatrol + 1) % sramLines, s.mem.sramSteps + 1) := by
  simp [State.sramSweep, sramPatrolMoved, patrolCharge, apply_ite State.mem]

end

/-- Settles O25: each clause is one branch of its instruction; a read of Ridge SRAM fences exactly on an uncorrectable word,
and no fence moves the patrol. -/
theorem treeSetsLoadIntoTheInactiveBuffers : Obligations.TreeSetsLoadIntoTheInactiveBuffers := by
  unfold Obligations.TreeSetsLoadIntoTheInactiveBuffers
  intro s q hshaped hopen
  obtain ⟨-, -, -, -, -, hridges, -⟩ := hshaped
  have hq : q.val < s.ridges.length := by rw [hridges]; exact q.isLt
  refine ⟨?window, ?start, ?master, ?warm, ?standIn, fun ecc hmay => exec_ridgeSramPatrolStep_waits hmay ecc, ?patrol⟩
  case window =>
    exact fun ctx hbound hnew hroom =>
      ⟨_, exec_broadcastDone_enters hopen hbound hnew hroom, ridge_modRidge_same _ hq⟩
  case start =>
    intro b id hfree hnamed hown
    refine ⟨_, exec_setLoadStart_loads hopen hfree hnamed hown, ?_, ?_⟩
    · rw [ridge_modRidge_same _ (by simpa [apply_ite State.ridges] using hq)]
      simp [State.ridge, apply_ite State.ridges]
    · simpa [apply_ite State.disp] using charging_le_chargeLoad s id q
  case master =>
    exact fun id p ecc hload hmaster hserved hlines =>
      ⟨_, exec_setLoadDone_master hopen hload hmaster hserved hlines ecc,
        (ridge_count _ _ _ _).trans (ridge_modRidge_same _ hq)⟩
  case warm =>
    refine fun id p ecc hload hwarm => ⟨fun hsound => ?_, fun hbad => ?_⟩
    · obtain ⟨n, hread⟩ := sramRead_sound (q := q) (s := s) hsound
      refine ⟨_, exec_setLoadDone_warm hopen hload hwarm hread, ?_, ?_⟩
      · simp [ridge_modRidge_same, hq]
      · have hother : cRdg q 5 ≠ cRdg q 8 := by simp [cRdg]
        exact (counter_count_one _ _).trans (by simp [counter_count, hother])
    · obtain ⟨n, hread⟩ := sramRead_uncorrectable (q := q) (s := s) hbad
      refine ⟨_, exec_setLoadDone_warm hopen hload hwarm hread, ?_⟩
      have hfenced := fenced_sramRead (words := setWords s id q) (ecc := ecc) hq hopen
      rwa [hread, hbad] at hfenced
  case standIn => exact fun _ _ => exec_standInLoadDone_active hq hopen
  case patrol =>
    intro ecc hmay hline
    have hsweep := (sramSweep_sramRead (q := q) (words := 32) (ecc := ecc) _).trans (sramSweep_sramPatrolMoved (s := s))
    obtain ⟨hpatrol, hsteps⟩ := Prod.mk.inj hsweep
    have hfenced := fenced_sramRead (s := sramPatrolMoved s) (q := q) (words := 32) (ecc := ecc) (by simpa using hq)
      (by simpa [State.ridge] using hopen)
    exact ⟨_, hline ▸ exec_ridgeSramPatrolStep_reads hmay ecc, hpatrol, hsteps, by rw [hfenced]⟩

end Sys2Proof.Machine
end

section
/-! SUPPORT. Bytes and words that are written and read back (R6, R226, R238, R239): a number's bytes, its two's complement, and
memory after a write and after a sound read. -/

namespace Sys2Proof.Machine

/-! ## Bytes of a number, and a number's two's complement -/

@[simp] theorem length_leBytes (n v : Nat) : (leBytes n v).length = n := by simp [leBytes_eq_map_range]

@[simp] theorem length_fitBytes (bs : List Byte) (n : Nat) : (fitBytes bs n).length = n := by
  simp only [fitBytes, zeros, List.length_append, List.length_take, List.length_replicate]
  omega

theorem leNat_leBytes (n v : Nat) : leNat (leBytes n v) = v % 256 ^ n := by
  induction n generalizing v with
  | zero => simp [leNat, leBytes, Nat.mod_one]
  | succ n ih =>
    calc leNat (leBytes (n + 1) v) = v % 256 + 256 * (v / 256 % 256 ^ n) := by simp [leBytes, leNat, ih]
      _ = v % 256 ^ (n + 1) := by rw [Nat.pow_succ', Nat.mod_mul]

theorem ofSigned_lt (w : Nat) (v : Int) : ofSigned w v < 2 ^ w := by
  have hpos : (0 : Int) < (2 ^ w : Nat) := by positivity
  rw [ofSigned, Int.toNat_lt (Int.emod_nonneg v hpos.ne')]
  exact Int.emod_lt_of_pos v hpos

theorem ofSigned_of_nonneg {w : Nat} {v : Int} (hlo : 0 ≤ v) (hhi : v < (2 ^ w : Nat)) : (ofSigned w v : Int) = v := by
  rw [ofSigned, Int.emod_eq_of_lt hlo hhi, Int.toNat_of_nonneg hlo]

theorem ofSigned_of_neg {w : Nat} {v : Int} (hlo : -(2 ^ w : Nat) ≤ v) (hhi : v < 0) :
    (ofSigned w v : Int) = v + (2 ^ w : Nat) := by
  rw [ofSigned, Int.emod_eq_add_self_emod, Int.emod_eq_of_lt (by omega) (by omega), Int.toNat_of_nonneg (by omega)]

/-- A word of `w + 1` bits holds an integer of its range with its sign. -/
theorem toSigned_ofSigned {w : Nat} {v : Int} (hlo : -(2 ^ w : Nat) ≤ v) (hhi : v < (2 ^ w : Nat)) :
    toSigned (w + 1) (ofSigned (w + 1) v) = v := by
  have hpow : 2 ^ (w + 1) = 2 * 2 ^ w := Nat.pow_succ'
  rw [toSigned, Nat.mod_eq_of_lt (ofSigned_lt _ v), Nat.add_sub_cancel]
  obtain hneg | hnonneg := lt_or_ge v 0
  · have hword := ofSigned_of_neg (w := w + 1) (by omega) hneg
    rw [if_neg (by omega), hword, Int.add_sub_cancel]
  · have hword := ofSigned_of_nonneg (w := w + 1) hnonneg (by omega)
    rw [if_pos (by omega), hword]

/-- A field of fixed width in a run of such fields. -/
theorem slice_flatMap {α : Type} {f : α → List Byte} {k : Nat} (hf : ∀ x, (f x).length = k) {l : List α} {i : Nat} {x : α}
    (hx : l[i]? = some x) : slice (l.flatMap f) (k * i) k = f x := by
  induction l generalizing i with
  | nil => simp at hx
  | cons y ys ih =>
    cases i with
    | zero =>
      obtain rfl : y = x := by simpa using hx
      simp [slice, hf]
    | succ i =>
      have hdrop : ((y :: ys).flatMap f).drop (k * (i + 1)) = (ys.flatMap f).drop (k * i) := by
        rw [List.flatMap_cons, Nat.mul_succ, Nat.add_comm, ← List.drop_drop, List.drop_left' (hf y)]
      rw [slice, hdrop]
      exact ih (by simpa using hx)

/-! ## Memory that has been written (R226) -/

section
variable (m : MemSt) (a : Nat) (bs : List Byte)

theorem memBytes_eq_map_range (n : Nat) : memBytes m a n = (List.range n).map (fun i => memByte m (a + i)) := by
  induction n generalizing a with
  | zero => rfl
  | succ n ih =>
    rw [memBytes, ih, List.range_succ_eq_map, List.map_cons, List.map_map]
    exact congrArg₂ _ rfl (List.map_congr_left fun i _ => congrArg (memByte m) (by simp; omega))

theorem memByte_memPut_below {k : Nat} (hk : k < a) : memByte (memPut m a bs) k = memByte m k := by
  induction bs generalizing m a with
  | nil => rfl
  | cons b bs ih => rw [memPut, ih _ _ (by omega), memByte_memPutByte, if_neg (by omega)]

theorem memByte_memPut {i : Nat} {b : Byte} (hb : bs[i]? = some b) : memByte (memPut m a bs) (a + i) = b := by
  induction bs generalizing m a i with
  | nil => simp at hb
  | cons y ys ih =>
    cases i with
    | zero =>
      obtain rfl : y = b := by simpa using hb
      rw [memPut, memByte_memPut_below _ _ _ (by omega), memByte_memPutByte, if_pos (by omega)]
    | succ i =>
      rw [memPut, show a + (i + 1) = a + 1 + i by omega]
      exact ih _ _ (by simpa using hb)

theorem memBytes_memPut {o n : Nat} (h : o + n ≤ bs.length) : memBytes (memPut m a bs) (a + o) n = slice bs o n := by
  rw [memBytes_eq_map_range, slice]
  refine List.ext_getElem (by simp; omega) fun i _ _ => ?_
  simp only [List.getElem_map, List.getElem_range, List.getElem_take, List.getElem_drop, Nat.add_assoc]
  exact memByte_memPut m a bs (List.getElem?_eq_getElem _)

variable (s : State)

theorem memByte_writeWhole {i : Nat} {b : Byte} (hb : bs[i]? = some b) :
    memByte (writeWhole a bs s).mem (a + i) = b := memByte_memPut s.mem a bs hb

theorem memBytes_writeWhole {o n : Nat} (h : o + n ≤ bs.length) :
    memBytes (writeWhole a bs s).mem (a + o) n = slice bs o n := by
  rw [← memBytes_memPut s.mem a bs h, memBytes_eq_map_range, memBytes_eq_map_range]
  rfl

end

/-! ## Reads that meet no poison and find no error (R238, R239) -/

theorem not_poisoned_of_firstPoison {m : MemSt} {a n w : Nat} (h : firstPoison m a n = none) (hlo : a / 8 ≤ w)
    (hhi : w * 8 < a + n) : poisoned m (w * 8) = false := by
  simp only [firstPoison, Option.map_eq_none_iff, List.find?_eq_none] at h
  rw [poisoned, Nat.mul_div_cancel w (by decide), List.contains_eq_mem, decide_eq_false_iff_not]
  exact fun hmem => h w hmem (by simp [hlo, hhi])

/-- A read of sound words without a poisoned one changes nothing. -/
theorem readWords_sound {s : State} {a n : Nat} (h : firstPoison s.mem a n = none) (req : Nat) (patrol : Bool) :
    readWords [] req patrol a n s = (s, []) := by
  have hword (i : Nat) (hi : i ∈ List.range (ceilDiv (a + n) 8 - a / 8)) :
      readWord [] req patrol ((a / 8 + i) * 8) i (s, []) = (s, []) := by
    have hlt : (a / 8 + i) * 8 < a + n := by
      have := List.mem_range.mp hi
      unfold ceilDiv at this
      omega
    simp [readWord, not_poisoned_of_firstPoison h (Nat.le_add_right _ i) hlt, findsUe, findsCe]
  rw [readWords]
  exact List.foldlRecOn (motive := (· = (s, []))) _ _ rfl fun _ hread i hi => hread ▸ hword i hi

end Sys2Proof.Machine
end

section
/-! SUPPORT. Parking and restore at Cairn (R181 to R185): a Switchback entry's layout, the slots of a block that is written, and
what each of the two instructions leaves. -/

namespace Sys2Proof.Machine

/-! ## The layout of a Switchback entry (Table 8.4) -/

section
variable (m : Model) (r : RecCtx) {vals : List Val}

/-- Bytes 0 to 63 of an entry: what it says of its record, and reserved bytes. -/
def swbHeader (m : Model) (r : RecCtx) (vals : List Val) : List Byte :=
  leBytes 4 1 ++ leBytes 1 vals.length ++ leBytes 1 (if m.image.fmode then 1 else 0) ++ leBytes 2 m.handle ++
    leBytes 8 r.recId ++ leBytes 2 r.nextAdd ++ leBytes 1 r.tenant ++ leBytes 1 r.stage ++ zeros 44

/-- Bytes 64 to 127 of an entry: a flag byte for each channel. -/
def swbFlags (vals : List Val) : List Byte := fitBytes (vals.map (fun v => BitVec.ofNat 8 v.flags)) 64

/-- The value words of an entry, from byte 128. -/
def swbWords (vals : List Val) : List Byte := vals.flatMap (fun v => leBytes 8 (ofSigned 64 v.v))

theorem swbBytes_eq (vals : List Val) : swbBytes m r vals = swbHeader m r vals ++ (swbFlags vals ++ swbWords vals) :=
  List.append_assoc ..

theorem length_swbHeader (vals : List Val) : (swbHeader m r vals).length = 64 := by simp [swbHeader, zeros]

theorem length_swbFlags (vals : List Val) : (swbFlags vals).length = 64 := length_fitBytes _ _

theorem length_swbWords (vals : List Val) : (swbWords vals).length = 8 * vals.length := by
  simp [swbWords, List.length_flatMap, Nat.mul_comm]

theorem length_swbBytes (vals : List Val) : (swbBytes m r vals).length = 128 + 8 * vals.length := by
  rw [swbBytes_eq, List.length_append, List.length_append, length_swbHeader, length_swbFlags, length_swbWords]
  omega

variable {i : Nat} {v : Val}

theorem swbBytes_flags (hlen : vals.length ≤ 64) (hv : vals[i]? = some v) :
    (swbBytes m r vals)[64 + i]? = some (BitVec.ofNat 8 v.flags) := by
  obtain ⟨hi, -⟩ := List.getElem?_eq_some_iff.mp hv
  have hflag : (swbFlags vals)[i]? = some (BitVec.ofNat 8 v.flags) := by
    rw [swbFlags, fitBytes, List.getElem?_append_left (by simp; omega), List.getElem?_take_of_lt (by omega),
      List.getElem?_map, hv]
    rfl
  rw [swbBytes_eq, List.getElem?_append_right (by rw [length_swbHeader]; omega), length_swbHeader, Nat.add_sub_cancel_left,
    List.getElem?_append_left (by rw [length_swbFlags]; omega), hflag]

theorem swbBytes_word (hv : vals[i]? = some v) :
    slice (swbBytes m r vals) (128 + 8 * i) 8 = leBytes 8 (ofSigned 64 v.v) := by
  have hfront : (swbHeader m r vals ++ swbFlags vals).length = 128 := by
    rw [List.length_append, length_swbHeader, length_swbFlags]
  rw [slice, ← List.drop_drop, swbBytes_eq, ← List.append_assoc, List.drop_left' hfront]
  exact slice_flatMap (fun _ => length_leBytes _ _) hv

/-- A restore reads each channel as its entry was written: the word in the model's mode, and the flag byte. -/
theorem swbVal_written (s : State) (c : Nat) (fmode : Bool) (hlen : vals.length ≤ 64) (hv : vals[i]? = some v)
    (hflags : v.flags < 256) : swbVal (writeWhole (swbAddr c) (swbBytes m r vals) s) c fmode i =
      ⟨if fmode then (ofSigned 64 v.v % 2 ^ 32 : Nat) else toSigned 64 (ofSigned 64 v.v), v.flags⟩ := by
  obtain ⟨hi, -⟩ := List.getElem?_eq_some_iff.mp hv
  have hword : leNat (memBytes (writeWhole (swbAddr c) (swbBytes m r vals) s).mem (swbAddr c + 128 + 8 * i) 8) =
      ofSigned 64 v.v := by
    rw [Nat.add_assoc, memBytes_writeWhole _ _ _ (by rw [length_swbBytes]; omega), swbBytes_word m r hv, leNat_leBytes]
    exact Nat.mod_eq_of_lt (ofSigned_lt 64 v.v)
  have hflag : (memByte (writeWhole (swbAddr c) (swbBytes m r vals) s).mem (swbAddr c + 64 + i)).toNat = v.flags := by
    rw [Nat.add_assoc, memByte_writeWhole _ _ _ (swbBytes_flags m r hlen hv), BitVec.toNat_ofNat]
    exact Nat.mod_eq_of_lt hflags
  rw [swbVal, hword, hflag]

end

/-! ## A block that has been written -/

section
variable (b : Nat) (vals : List Val) (s : State)

theorem readBlock_count (k n c : Nat) : readBlock (count k n s) b c = readBlock s b c := by rw [count_frame]; rfl

theorem readBlock_modCtx (c n : Nat) (f : RecCtx → RecCtx) : readBlock (modCtx c f s) b n = readBlock s b n := rfl

theorem restoring_count (k n : Nat) : (count k n s).restoring = s.restoring := by rw [count_frame]

theorem slot_putSlot_ne {i j : Nat} (v : Val) (h : j ≠ i) : (putSlot i v s).slot j = s.slot j :=
  (kvGet_kvPut Val.zero s.slots i j v).trans (if_neg h)

theorem writeBlock_frame : writeBlock b vals s = { s with slots := (writeBlock b vals s).slots } :=
  foldl_keeps (fun t => t = { s with slots := t.slots }) _
    (fun _ x ht => congrArg (putSlot (b + x.2) x.1) ht) _ s rfl

theorem ctx?_writeBlock (c : Nat) : (writeBlock b vals s).ctx? c = s.ctx? c := by rw [writeBlock_frame]; rfl

theorem counter_writeBlock (k : Nat) : (writeBlock b vals s).counter k = s.counter k := by rw [writeBlock_frame]; rfl

theorem writeBlock_append_singleton (v : Val) :
    writeBlock b (vals ++ [v]) s = putSlot (b + vals.length) v (writeBlock b vals s) := by
  simp [writeBlock, List.zipIdx_append]

theorem slot_writeBlock (i : Nat) : (writeBlock b vals s).slot (b + i) = vals[i]?.getD (s.slot (b + i)) := by
  induction vals using List.reverseRecOn with
  | nil => rfl
  | append_singleton vs v ih =>
    rw [writeBlock_append_singleton]
    by_cases hi : i = vs.length
    · rw [hi, slot_putSlot_same, List.getElem?_concat_length, Option.getD_some]
    · rw [slot_putSlot_ne _ _ (by omega), ih]
      grind

theorem readBlock_writeBlock (f : Nat → Val) (n : Nat) :
    readBlock (writeBlock b ((List.range n).map f) s) b n = (List.range n).map f := by
  refine List.map_congr_left fun i hi => ?_
  rw [slot_writeBlock, List.getElem?_map, List.getElem?_range (List.mem_range.mp hi)]
  rfl

end

/-! ## PARK_ENTRY_WRITTEN -/

section
variable {s : State} {ctx : CtxId} {r : RecCtx} {b : Nat} {m : Model}

/-- A record's entry stands written, and the work is charged. -/
def entryWritten (c : Nat) (r : RecCtx) (m : Model) (vals : List Val) (s : State) : State :=
  chargeWork vals.length priceParkChannel (chargeWork 1 pricePark (writeWhole (swbAddr c) (swbBytes m r vals) s))

theorem memBytes_entryWritten (c : Nat) (vals : List Val) :
    memBytes (entryWritten c r m vals s).mem (swbAddr c) (swbBytes m r vals).length = swbBytes m r vals := by
  have hwritten := memBytes_writeWhole (swbAddr c) (swbBytes m r vals) s (Nat.zero_add _).le
  simpa [entryWritten, slice] using hwritten

theorem ctx?_entryWritten (c d : Nat) (vals : List Val) : (entryWritten c r m vals s).ctx? d = s.ctx? d := by
  simp [State.ctx?, entryWritten, chargeWork, charge, writeWhole]

theorem tenants_entryWritten (c : Nat) (vals : List Val) : (entryWritten c r m vals s).tenants = s.tenants := by
  simp [entryWritten, chargeWork, charge, writeWhole]

theorem counter_entryWritten (c k : Nat) (vals : List Val) : (entryWritten c r m vals s).counter k = s.counter k := by
  simp [State.counter, entryWritten, chargeWork, charge, writeWhole]

theorem exec_parkEntryWritten_waits (hr : s.ctx? ctx = some r) (hb : r.block = some b) (hm : stageModel s r = some m)
    (hport : portDone s ctx = false) : exec (.parkEntryWritten ctx) s = .next s := by
  show execParkEntryWritten ctx s = _
  simp [execParkEntryWritten, hr, hb, hm, hport]

theorem exec_parkEntryWritten_parks (hr : s.ctx? ctx = some r) (hb : r.block = some b) (hm : stageModel s r = some m)
    (hparking : r.parking = true) (hport : portDone s ctx = true) : exec (.parkEntryWritten ctx) s =
      .next (modCtx ctx (fun r => { r with state := .parked, parking := false }) (count (cTen r.tenant tParks) 1
        (returnBlock ctx (entryWritten ctx r m (readBlock s b m.image.channels) s)))) := by
  show execParkEntryWritten ctx s = _
  simp [execParkEntryWritten, entryWritten, hr, hb, hm, hparking, hport]

/-- A record is parked as its block goes back: memory stands as it was, the block is at the tail of its tenant's free list,
and the parking is counted (R181). -/
theorem parked_of_returnBlock {u : State} (hr : u.ctx? ctx = some r) (hb : r.block = some b)
    (ht : r.tenant < u.tenants.length) (k : Nat) :
    let t := modCtx ctx (fun r => { r with state := .parked, parking := false }) (count k 1 (returnBlock ctx u))
    t.mem = u.mem ∧
      t.ctx? ctx = some { r with state := .parked, parking := false, block := none, blockReady := false } ∧
      (t.tenant r.tenant).freeBlocks = (u.tenant r.tenant).freeBlocks ++ [b] ∧
      t.counter k = (u.counter k + 1) % 2 ^ 64 := by
  have hreturned : (returnBlock ctx u).ctx? ctx = some { r with block := none, blockReady := false, parking := false } := by
    rw [returnBlock_of_block hr hb]
    exact ctx?_modCtx_same hr _
  have hfree : ((returnBlock ctx u).tenant r.tenant).freeBlocks = (u.tenant r.tenant).freeBlocks ++ [b] := by
    rw [returnBlock_of_block hr hb]
    exact congrArg Tenant.freeBlocks (tenant_modTenant_same ht _)
  refine ⟨by simp, ctx?_modCtx_same ((ctx?_count k 1 ctx _).trans hreturned) _, ?free, ?counted⟩
  case free =>
    rw [← hfree, ← tenant_count k 1]
    rfl
  case counted =>
    rw [counter_modCtx, counter_count_one, returnBlock_frame]
    rfl

end

/-! ## RESTORE_DONE -/

section
variable {s : State} {ctx : CtxId} {r : RecCtx} {b : Nat} {m : Model}

/-- A block stands restored with the values of its entry, the work is charged, and the restore is over. -/
def blockRestored (c b : Nat) (m : Model) (s : State) : State :=
  let n := m.image.channels
  let u := chargeWork n priceParkChannel
    (chargeWork 1 pricePark (writeBlock b ((List.range n).map (swbVal s c m.image.fmode)) s))
  { u with restoring := u.restoring.filter (· != c) }

theorem slots_blockRestored (c : Nat) : (blockRestored c b m s).slots =
    (writeBlock b ((List.range m.image.channels).map (swbVal s c m.image.fmode)) s).slots := by
  simp [blockRestored, chargeWork, charge]

theorem readBlock_blockRestored (c : Nat) : readBlock (blockRestored c b m s) b m.image.channels =
    (List.range m.image.channels).map (swbVal s c m.image.fmode) := by
  rw [← readBlock_writeBlock b s]
  simp only [readBlock, State.slot, slots_blockRestored]

theorem ctx?_blockRestored (c d : Nat) : (blockRestored c b m s).ctx? d = s.ctx? d := by
  rw [← ctx?_writeBlock b ((List.range m.image.channels).map (swbVal s c m.image.fmode)) s]
  simp [State.ctx?, blockRestored, chargeWork, charge]

theorem counter_blockRestored (c k : Nat) : (blockRestored c b m s).counter k = s.counter k := by
  rw [← counter_writeBlock b ((List.range m.image.channels).map (swbVal s c m.image.fmode)) s]
  simp [State.counter, blockRestored, chargeWork, charge]

theorem not_mem_restoring_blockRestored (c : Nat) : c ∉ (blockRestored c b m s).restoring := by simp [blockRestored]

theorem exec_restoreDone_waits (hr : s.ctx? ctx = some r) (hb : r.block = some b) (hm : stageModel s r = some m)
    (hport : portDone s ctx = false) (ecc : List EccFind) : exec (.restoreDone ctx ecc) s = .next s := by
  show execRestoreDone ctx ecc s = _
  simp [execRestoreDone, hr, hb, hm, hport]

theorem exec_restoreDone_restores (hr : s.ctx? ctx = some r) (hb : r.block = some b) (hm : stageModel s r = some m)
    (hrestoring : ctx.val ∈ s.restoring) (hport : portDone s ctx = true)
    (hrange : blockOk (s.tenant r.tenant).quota b = true)
    (hsound : firstPoison s.mem (swbAddr ctx) (128 + 8 * m.image.channels) = none) : exec (.restoreDone ctx []) s =
      .next (modCtx ctx (fun r => { r with blockReady := true })
        (count (cTen r.tenant tResumes) 1 (blockRestored ctx b m s))) := by
  show execRestoreDone ctx [] s = _
  simp [execRestoreDone, hr, hb, hm, hrestoring, hport, hrange, readWords_sound hsound, hsound, blockRestored, raiseCycle,
    sortBy]

/-- A restored record holds its entry's values in its block, whose rows may add, and the resume is counted (R183). -/
theorem restored_of_blockRestored (hr : s.ctx? ctx = some r) (k : Nat) :
    let t := modCtx ctx (fun r => { r with blockReady := true }) (count k 1 (blockRestored ctx b m s))
    readBlock t b m.image.channels = (List.range m.image.channels).map (swbVal s ctx m.image.fmode) ∧
      t.ctx? ctx = some { r with blockReady := true } ∧ ctx.val ∉ t.restoring ∧
      t.counter k = (s.counter k + 1) % 2 ^ 64 := by
  refine ⟨?values, ctx?_modCtx_same (by rw [ctx?_count, ctx?_blockRestored, hr]) _, ?ended, ?counted⟩
  case values => rw [readBlock_modCtx, readBlock_count, readBlock_blockRestored]
  case ended =>
    rw [modCtx_restoring, restoring_count]
    exact not_mem_restoring_blockRestored ctx.val
  case counted => rw [counter_modCtx, counter_count_one, counter_blockRestored]

end

/-- Settles O28: a record waits for its port, is parked or is restored; an entry's bytes stand as they are written, and each
channel reads back from its flag byte and its word. -/
theorem parkedRecordsKeepTheirValues : Obligations.ParkedRecordsKeepTheirValues := by
  unfold Obligations.ParkedRecordsKeepTheirValues
  refine ⟨?instructions, ?entry⟩
  case instructions =>
    intro s ctx r b m hshaped hr hb hm htenant
    obtain ⟨-, -, -, -, -, -, -, -, -, htenants, -⟩ := hshaped
    refine ⟨fun hport => ⟨exec_parkEntryWritten_waits hr hb hm hport, exec_restoreDone_waits hr hb hm hport⟩, ?park,
      ?restore⟩
    case park =>
      intro hparking hport
      obtain ⟨hmem, hrecord, hfree, hcounted⟩ := parked_of_returnBlock
        (u := entryWritten ctx r m (readBlock s b m.image.channels) s) ((ctx?_entryWritten ..).trans hr) hb
        (by rw [tenants_entryWritten, htenants]; exact htenant) (cTen r.tenant tParks)
      rw [State.tenant, State.tenant, tenants_entryWritten] at hfree
      rw [counter_entryWritten] at hcounted
      exact ⟨_, exec_parkEntryWritten_parks hr hb hm hparking hport,
        (congrArg (memBytes · _ _) hmem).trans (memBytes_entryWritten ctx.val _), hrecord, hfree, hcounted⟩
    case restore =>
      intro hrestoring hport hrange hsound
      refine ⟨_, exec_restoreDone_restores hr hb hm hrestoring hport hrange hsound, ?_⟩
      exact restored_of_blockRestored hr (cTen r.tenant tResumes)
  case entry =>
    intro s c m r vals i v hlen hv hflags
    refine ⟨fun _ hlo hhi => ?fmode, fun _ hlo hhi => ?qmode⟩
    case fmode =>
      rw [swbVal_written m r s c true hlen hv hflags, if_pos rfl, Int.natCast_mod,
        ofSigned_of_nonneg hlo (by omega)]
      exact congrArg (Val.mk · v.flags) (Int.emod_eq_of_lt hlo hhi)
    case qmode =>
      rw [swbVal_written m r s c false hlen hv hflags, if_neg Bool.false_ne_true, toSigned_ofSigned hlo hhi]

end Sys2Proof.Machine
end

section
/-! SUPPORT. The refit areas of a traced model (R350 to R353, R357): what their writes and reads keep, and that a channel that is
marked labelled reads so. -/

namespace Sys2Proof.Machine

/-! ## What a count leaves, and a refit state after a change -/

section
variable (s : State)

@[simp] theorem refits_count (k n : Nat) : (count k n s).refits = s.refits := by rw [count_frame]

@[simp] theorem searches_count (k n : Nat) : (count k n s).searches = s.searches := by rw [count_frame]

@[simp] theorem evBuf_count (k n : Nat) : (count k n s).evBuf = s.evBuf := by rw [count_frame]

theorem counter_count_ne {k j : Nat} (h : j ≠ k) (n : Nat) : (count k n s).counter j = s.counter j := by
  rw [counter_count, if_neg fun hj => h hj.1]

variable {s}

theorem refit?_modRefit_same {id : Nat} {x : RefitSt} (hx : s.refit? id = some x) {f : RefitSt → RefitSt}
    (hf : ∀ x, (f x).model = x.model) : (modRefit id f s).refit? id = some (f x) := by
  have hmodel : x.model = id := by simpa using List.find?_some hx
  have hkeeps : (fun r : RefitSt => r.model == id) ∘ (fun r => if r.model = id then f r else r) =
      fun r => r.model == id := by
    funext r
    simp only [Function.comp_apply]
    split <;> simp [hf]
  rw [State.refit?, modRefit, List.find?_map, hkeeps]
  exact (congrArg _ hx).trans (by simp [hmodel])

end

/-! ## What the refit unit's reads and writes keep -/

/-- What no access to memory and no message changes: the refit states and feedback, the records, the dispatcher, and the
counters of the tenants' blocks (Table 20.5). -/
structure RefitView where
  refits : List RefitSt
  feedback : List Feedback
  ctxs : Kv RecCtx
  disp : DispSt
  tenantCounter : Nat → Nat

/-- The view of a state. -/
def State.refitView (s : State) : RefitView :=
  ⟨s.refits, s.feedback, s.ctxs, s.disp, fun k => s.counter (0x5000 + k)⟩

/-- A fold keeps the view that each of its steps keeps; `v` finds the state in what the fold carries. -/
theorem refitView_foldl_of {α β : Type} (v : α → State) (g : α → β → α)
    (hg : ∀ a x, (v (g a x)).refitView = (v a).refitView) (l : List β) (a : α) :
    (v (l.foldl g a)).refitView = (v a).refitView := by
  induction l generalizing a with
  | nil => rfl
  | cons x l ih => exact (ih (g a x)).trans (hg a x)

theorem refitView_foldl {β : Type} (g : State → β → State) (hg : ∀ s x, (g s x).refitView = s.refitView) (l : List β)
    (s : State) : (l.foldl g s).refitView = s.refitView := refitView_foldl_of id g hg l s

section
variable {s t : State}

theorem refit?_of_refitView (h : t.refitView = s.refitView) (id : Nat) : t.refit? id = s.refit? id :=
  congrArg (fun v => v.refits.find? (·.model == id)) h

theorem tenantCounter_of_refitView (h : t.refitView = s.refitView) (i o : Nat) :
    t.counter (cTen i o) = s.counter (cTen i o) := by
  have hcounter : t.counter (0x5000 + (0x100 * i + o)) = s.counter (0x5000 + (0x100 * i + o)) :=
    congrFun (congrArg RefitView.tenantCounter h) _
  rwa [← Nat.add_assoc] at hcounter

variable (s)

/-- A count below the tenants' blocks is not in the view. -/
theorem refitView_count {k : Nat} (hk : k < 0x5000) (n : Nat) : (count k n s).refitView = s.refitView := by
  have hcounters : (fun j => (count k n s).counter (0x5000 + j)) = fun j => s.counter (0x5000 + j) := by
    funext j
    rw [counter_count, if_neg (by omega)]
  rw [State.refitView, hcounters, count_frame]
  rfl

theorem refitView_markLost (f : Nat) : (markLost f s).refitView = s.refitView := rfl

@[simp] theorem refitView_raise (c t : Nat) (d : List Byte) : (raise c t d s).refitView = s.refitView := by
  unfold raise
  split
  · rfl
  · exact (refitView_foldl _ (fun s f => refitView_markLost s f) _ _).trans (refitView_count s (by decide) 1)

@[simp] theorem refitView_raiseCycle (evs : List Raised) : (raiseCycle evs s).refitView = s.refitView :=
  refitView_foldl _ (fun s _ => refitView_raise s _ _ _) _ _

@[simp] theorem refitView_modMem (f : MemSt → MemSt) : (modMem f s).refitView = s.refitView := rfl

@[simp] theorem refitView_queueHeal (a : Nat) (evs : List Raised) : (queueHeal a s evs).1.refitView = s.refitView := by
  unfold queueHeal
  split
  · rfl
  · dsimp only
    split
    · rfl
    · split
      · exact refitView_count s (by decide) 1
      · rfl

theorem refitView_countDie (a i : Nat) (hi : i < 2) :
    (if a < massifEnd then count (cDie (dieOf a) i) 1 s else s).refitView = s.refitView := by
  split
  · exact refitView_count s (by unfold cDie dieOf; omega) 1
  · rfl

@[simp] theorem refitView_readWord (ecc : List EccFind) (req : Nat) (patrol : Bool) (a i : Nat) (se : State × List Raised) :
    (readWord ecc req patrol a i se).1.refitView = se.1.refitView := by
  unfold readWord
  dsimp only
  split
  · exact refitView_count _ (by decide) 1
  · split
    · rw [refitView_queueHeal, refitView_modMem, refitView_countDie _ _ _ (by decide)]
    · split
      · exact refitView_countDie _ _ _ (by decide)
      · rfl

@[simp] theorem refitView_areaRead (ecc : List EccFind) (x : RefitSt) (off n : Nat) :
    (areaRead ecc x off n s).refitView = s.refitView :=
  (refitView_raiseCycle _ _).trans (refitView_foldl_of Prod.fst _ (fun _ _ => refitView_readWord _ _ _ _ _ _) _ _)

/-- A write of the areas changes memory and nothing else. -/
theorem areaWrite_frame (x : RefitSt) (off : Nat) (bs : List Byte) :
    areaWrite x off bs s = { s with mem := (areaWrite x off bs s).mem } :=
  foldl_keeps (fun t => t = { s with mem := t.mem }) _ (fun t _ ht => by rw [ht]; rfl) _ s rfl

@[simp] theorem refitView_areaWrite (x : RefitSt) (off : Nat) (bs : List Byte) :
    (areaWrite x off bs s).refitView = s.refitView := by
  rw [areaWrite_frame]
  rfl

@[simp] theorem refitView_blockFlags (x : RefitSt) (off fl : Nat) : (blockFlags x off fl s).refitView = s.refitView := rfl

@[simp] theorem refitView_setLabelled (x : RefitSt) (off c : Nat) : (setLabelled x off c s).refitView = s.refitView :=
  refitView_areaWrite ..

@[simp] theorem refitView_lookupReads (ecc : List EccFind) (m : Model) (x : RefitSt) (recId : Nat) :
    (lookupReads ecc m x recId s).refitView = s.refitView := by
  unfold lookupReads
  dsimp only
  split <;> simp

@[simp] theorem refitView_statWrite (ecc : List EccFind) (m : Model) (x : RefitSt) (recId t tree b j : Nat) (f : Frac → Frac)
    (sat : Bool) : (statWrite ecc m x recId t tree b j f sat s).refitView = s.refitView := by
  unfold statWrite
  dsimp only
  split <;> simp

@[simp] theorem refitView_applyPair (ecc : List EccFind) (m : Model) (x : RefitSt) (off recId c : Nat) (g h : Frac) (sat : Bool) :
    (applyPair ecc m x off recId c g h sat s).refitView = s.refitView :=
  refitView_foldl _ (fun s _ => by simp) _ _

@[simp] theorem refitView_decayBlock (ecc : List EccFind) (m : Model) (x : RefitSt) (recId beta t tree b : Nat) :
    (decayBlock ecc m x recId beta t tree b s).refitView = s.refitView := by
  unfold decayBlock
  dsimp only
  split <;> simp

@[simp] theorem refitView_statRead (ecc : List EccFind) (m : Model) (x : RefitSt) (t b : Nat) :
    (statRead ecc m x t b s).refitView = s.refitView := by
  unfold statRead
  dsimp only
  split <;> simp

@[simp] theorem refitView_proposePair (ecc : List EccFind) (m : Model) (x : RefitSt) (c : RefitCfg)
    (u : Nat × Placed × Nat × Nat) (a : Nat × State) : (proposePair ecc m x c u a).2.refitView = a.2.refitView := by
  simp [proposePair, writeShadow]

end

/-! ## Reads in which SECDED finds nothing (R238) -/

@[simp] theorem shiftEcc_nil (k : Nat) : shiftEcc k [] = [] := rfl

section
variable (s : State)

theorem readWord_nil (req : Nat) (patrol : Bool) (a i : Nat) (evs : List Raised) :
    readWord [] req patrol a i (s, evs) = (if poisoned s.mem a then count (cMsf 0) 1 s else s, evs) := by
  unfold readWord
  dsimp only
  split <;> simp [findsUe, findsCe]

/-- A read that finds nothing new counts its poisoned words and changes nothing else. -/
theorem areaRead_nil (x : RefitSt) (off n : Nat) : ∃ c, areaRead [] x off n s = { s with ctr := c } := by
  have hread : ∃ c, (List.range (ceilDiv (off + n) 8 - off / 8)).foldl (fun se i =>
      readWord [] 8 false (plotAddr x.plots ((off / 8 + i) * 8)) i se) (s, []) = ({ s with ctr := c }, []) := by
    refine List.foldlRecOn (motive := fun se => ∃ c, se = ({ s with ctr := c }, [])) _ _ ⟨s.ctr, rfl⟩ ?_
    rintro _ ⟨c, rfl⟩ i -
    rw [readWord_nil]
    split
    · exact ⟨_, by rw [count_frame]⟩
    · exact ⟨c, rfl⟩
  obtain ⟨c, hc⟩ := hread
  exact ⟨c, by rw [areaRead, hc]; rfl⟩

@[simp] theorem mem_areaRead_nil (x : RefitSt) (off n : Nat) : (areaRead [] x off n s).mem = s.mem := by
  obtain ⟨c, hc⟩ := areaRead_nil s x off n
  rw [hc]

@[simp] theorem mem_lookupReads_nil (m : Model) (x : RefitSt) (recId : Nat) : (lookupReads [] m x recId s).mem = s.mem := by
  unfold lookupReads
  dsimp only
  split <;> simp

end

/-! ## What the areas hold depends on memory alone -/

section
variable {s t : State} (h : t.mem = s.mem)
include h

theorem areaBytes_of_mem (x : RefitSt) (off n : Nat) : areaBytes t x off n = areaBytes s x off n := by
  simp only [areaBytes, h]

theorem areaPoisoned_of_mem (x : RefitSt) (off n : Nat) : areaPoisoned t x off n = areaPoisoned s x off n := by
  simp only [areaPoisoned, h]

theorem traceLookup_of_mem (m : Model) (x : RefitSt) (recId : Nat) : traceLookup t m x recId = traceLookup s m x recId := by
  simp only [traceLookup, areaBytes_of_mem h]

theorem feedbackFault_of_mem (m : Model) (x : RefitSt) (f : Feedback) : feedbackFault t m x f = feedbackFault s m x f := by
  unfold feedbackFault tracePoison
  simp only [traceLookup_of_mem h, areaBytes_of_mem h, areaPoisoned_of_mem h]

theorem mem_foldl_of_mem {β : Type} {g : State → β → State} (hg : ∀ s t x, t.mem = s.mem → (g t x).mem = (g s x).mem)
    (l : List β) : (l.foldl g t).mem = (l.foldl g s).mem := by
  induction l generalizing s t with
  | nil => exact h
  | cons x l ih => exact ih (hg s t x h)

theorem mem_areaWrite_of_mem (x : RefitSt) (off : Nat) (bs : List Byte) :
    (areaWrite x off bs t).mem = (areaWrite x off bs s).mem :=
  mem_foldl_of_mem h (fun _ _ _ h => congrArg (fun mem => unpoison (memPut mem _ _) _ _) h) _

theorem mem_setLabelled_of_mem (x : RefitSt) (off c : Nat) : (setLabelled x off c t).mem = (setLabelled x off c s).mem := by
  rw [setLabelled, areaBytes_of_mem h]
  exact mem_areaWrite_of_mem h ..

theorem mem_statWrite_of_mem (m : Model) (x : RefitSt) (recId k tree b j : Nat) (f : Frac → Frac) (sat : Bool) :
    (statWrite [] m x recId k tree b j f sat t).mem = (statWrite [] m x recId k tree b j f sat s).mem := by
  have hread : (areaRead [] x (blockOff m k b) 136 t).mem = (areaRead [] x (blockOff m k b) 136 s).mem := by simpa using h
  unfold statWrite
  dsimp only
  rw [areaPoisoned_of_mem hread, areaBytes_of_mem hread]
  split
  · exact congrArg (fun mem => memPutByte mem _ (memByte mem _ ||| _)) hread
  · exact mem_areaWrite_of_mem hread ..

theorem mem_applyPair_of_mem (m : Model) (x : RefitSt) (off recId c : Nat) (a b : Frac) (sat : Bool) :
    (applyPair [] m x off recId c a b sat t).mem = (applyPair [] m x off recId c a b sat s).mem := by
  unfold applyPair
  dsimp only
  rw [areaBytes_of_mem h]
  refine mem_foldl_of_mem h (fun s t q h => ?_) _
  rw [shiftEcc_nil, shiftEcc_nil]
  exact mem_statWrite_of_mem (mem_statWrite_of_mem h ..) ..

end

/-! ## The labelled channels of a trace entry (Table 16.2) -/

section
variable (s : State) (x : RefitSt)

/-- The bytes of an aligned word of the areas are those of one word of memory. -/
theorem areaBytes_word {o : Nat} (ho : o % 8 = 0) : areaBytes s x o 8 = memBytes s.mem (plotAddr x.plots o) 8 := by
  rw [memBytes_eq_map_range, areaBytes]
  refine List.map_congr_left fun i hi => congrArg (memByte s.mem) ?_
  have hi : i < 8 := List.mem_range.mp hi
  have hplot : (o + i) / plotSize = o / plotSize := by unfold plotSize; omega
  have hoff : (o + i) % plotSize = o % plotSize + i := by unfold plotSize; omega
  rw [plotAddr, plotAddr, hplot, hoff, Nat.add_assoc]

theorem areaWrite_word (o v : Nat) :
    areaWrite x o (leBytes 8 v) s = writeWhole (plotAddr x.plots o) (leBytes 8 v) s := by
  have hslice : slice (leBytes 8 v) 0 8 = leBytes 8 v := List.take_of_length_le (by simp)
  simp [areaWrite, ceilDiv, hslice]

theorem leNat_areaBytes_areaWrite {o : Nat} (ho : o % 8 = 0) (v : Nat) :
    leNat (areaBytes (areaWrite x o (leBytes 8 v) s) x o 8) = v % 256 ^ 8 := by
  have hread := memBytes_writeWhole (plotAddr x.plots o) (leBytes 8 v) s (o := 0) (n := 8) (by simp)
  have hslice : slice (leBytes 8 v) 0 8 = leBytes 8 v := List.take_of_length_le (by simp)
  rw [Nat.add_zero, hslice] at hread
  rw [areaBytes_word _ _ ho, areaWrite_word, hread, leNat_leBytes]

theorem bit_eq_testBit (v n : Nat) : bit v n = v.testBit n := by
  rw [bit, Nat.testBit_eq_decide_div_mod_eq, Bool.beq_eq_decide_eq]

/-- A channel that is marked labelled reads so. -/
theorem labelled_setLabelled {off c : Nat} (hoff : off % 8 = 0) (hc : c < 64) :
    bit (leNat (areaBytes (setLabelled x off c s) x (off + 16) 8)) c = true := by
  rw [setLabelled, leNat_areaBytes_areaWrite _ _ (by omega), bit_eq_testBit]
  rw [show 256 ^ 8 = 2 ^ 64 by norm_num, Nat.testBit_mod_two_pow]
  simp [hc]

variable {s x}

/-- An entry that a lookup finds starts at a multiple of 64. -/
theorem traceLookup_aligned {m : Model} {recId off : Nat} (h : traceLookup s m x recId = some off) : off % 8 = 0 := by
  obtain ⟨-, rfl⟩ : _ ∧ traceOff m _ = off := by simpa [traceLookup] using h
  rw [traceOff, traceEntrySize, Nat.mul_left_comm, Nat.mul_mod]
  simp

end

end Sys2Proof.Machine
end

section
/-! SUPPORT. Summit's answers (R79, R191 to R198, R303, R352, R364): what a released context and a Detour search leave alone, a
score frame's way to its port or its ring, and the end of a record whose terms did not come. -/

namespace Sys2Proof.Machine

/-! ## What the release of a context keeps (R93) -/

/-- What no context's release changes: the ports, the refit states, the counters and the streams. -/
structure ReleaseView where
  ports : List PortSt
  refits : List RefitSt
  ctr : Kv Nat
  dma : DmaSt

/-- The view of a state. -/
def State.releaseView (s : State) : ReleaseView := ⟨s.ports, s.refits, s.ctr, s.dma⟩

section
variable (s : State)

@[simp] theorem releaseView_dropWork (c : Nat) : (dropWork c s).releaseView = s.releaseView :=
  calc (dropWork c s).releaseView = (returnBlock c (giveBack (workCredits c s) s)).releaseView := rfl
    _ = s.releaseView := by rw [returnBlock_frame]; rfl

@[simp] theorem releaseView_freeContext (c : Nat) : (freeContext c s).releaseView = s.releaseView := by
  unfold freeContext
  split
  · exact releaseView_dropWork s c
  · rfl

@[simp] theorem releaseView_dropCandidates (slot : Nat) : (dropCandidates slot s).releaseView = s.releaseView :=
  foldl_keeps (fun t => t.releaseView = s.releaseView) (fun s (p : Nat × RecCtx) => freeContext p.1 s)
    (fun _ p ht => (releaseView_freeContext _ p.1).trans ht) _ s rfl

theorem stream_freeContext (c g : Nat) : (freeContext c s).stream g = s.stream g :=
  congrArg (fun v : ReleaseView => v.dma.streams.getD g Stream.reset) (releaseView_freeContext s c)

/-- A released context is free. -/
theorem ctx?_freeContext_same (c : Nat) : (freeContext c s).ctx? c = none := by
  unfold freeContext
  split
  · exact (kvGet_kvDel (dropWork c s).ctxs c c).trans (if_pos rfl)
  next h => simpa using h

variable {s}

theorem port_readyFrame {r : Reply} (hl : r.port < s.ports.length) (k : TxKind) (c : Option Nat) (msg : List Byte)
    (a : Nat) (sc : Bool) : ((readyFrame r k c msg a sc s).port r.port).ready =
      (s.port r.port).ready ++ [⟨k, c, answerFrame s r msg, r.pcp, a, sc⟩] :=
  congrArg PortSt.ready (port_modPort_same hl _)

theorem stream_modStream_same {g : Nat} (hg : g < s.dma.streams.length) (f : Stream → Stream) :
    (modStream g f s).stream g = f (s.stream g) := getD_modify_eq _ _ _ _ hg

end

/-! ## A Detour search of a port's record (R364, R369) -/

/-- What follows a score frame on its port: other frames may stand ready behind it; the refit states and counter `k` are
as they were. -/
structure Follows (l k : Nat) (s t : State) : Prop where
  refits : t.refits = s.refits
  ready : ∃ rest, (t.port l).ready = (s.port l).ready ++ rest
  counter : t.counter k = s.counter k

section
variable {s t : State} {l k slot : Nat} {x : Search} {d : DetourCfg}

theorem Follows.of_releaseView (h : t.releaseView = s.releaseView) : Follows l k s t where
  refits := congrArg ReleaseView.refits h
  ready := ⟨[], by
    have hport : t.port l = s.port l := congrArg (fun v : ReleaseView => v.ports.getD l PortSt.reset) h
    rw [hport, List.append_nil]⟩
  counter := congrArg (fun v : ReleaseView => (kvGet v.ctr k).getD 0) h

theorem Follows.trans {u : State} (hs : Follows l k s t) (ht : Follows l k t u) : Follows l k s u where
  refits := ht.refits.trans hs.refits
  ready := by
    obtain ⟨first, hfirst⟩ := hs.ready
    obtain ⟨rest, hrest⟩ := ht.ready
    exact ⟨first ++ rest, by rw [hrest, hfirst, List.append_assoc]⟩
  counter := ht.counter.trans hs.counter

theorem Follows.of_count {j : Nat} (h : k ≠ j) (n : Nat) : Follows l k s (count j n s) where
  refits := refits_count ..
  ready := ⟨[], by simp⟩
  counter := counter_count_ne s h n

theorem Follows.of_readyFrame {r : Reply} (hl : r.port < s.ports.length) (kind : TxKind) (c : Option Nat) (msg : List Byte)
    (a : Nat) (sc : Bool) : Follows r.port k s (readyFrame r kind c msg a sc s) where
  refits := rfl
  ready := ⟨_, port_readyFrame hl ..⟩
  counter := rfl

/-- The search of a port's record ends with its reason frame behind the frames that stand ready; it counts no start. -/
theorem endSearch_follows (hx : kvGet s.searches slot = some x) (hsrc : x.src = .ethernet)
    (hl : x.reply.port < s.ports.length) :
    Follows x.reply.port (cTen x.tenant (tDtr 0)) s (endSearch slot false s) := by
  have hne (i : Nat) (hi : i = 1 ∨ i = 2) : cTen x.tenant (tDtr 0) ≠ cTen x.tenant (tDtr i) := by
    unfold cTen tDtr; omega
  have hdropped : (dropCandidates slot { s with searches := kvDel s.searches slot }).releaseView = s.releaseView :=
    releaseView_dropCandidates { s with searches := kvDel s.searches slot } slot
  simp only [endSearch, hx, hsrc, Bool.false_eq_true, if_false]
  generalize dropCandidates slot { s with searches := kvDel s.searches slot } = u at hdropped ⊢
  have hports : u.ports = s.ports := congrArg ReleaseView.ports hdropped
  refine (Follows.of_releaseView hdropped).trans ((Follows.of_count (hne _ ?_) 1).trans (Follows.of_readyFrame ?_ ..))
  · split <;> simp
  · rwa [count_ports, hports]

/-- A step begins with the search's new candidates, which it requests, or ends the search when none is live. -/
theorem beginStep_cases (slot : Nat) (d : DetourCfg) (x : Search) (s : State) :
    ∃ y : Search, y.src = x.src ∧ y.reply = x.reply ∧ y.tenant = x.tenant ∧
      let u := { s with searches := kvSet s.searches slot y }
      beginStep slot d x s = requestCands slot y u ∨ beginStep slot d x s = endSearch slot false u :=
  ⟨{ x with cands := candidatesOf d x.slots x.offs }, rfl, rfl, rfl, ite_eq_or_eq ..⟩

theorem beginStep_follows (hsrc : x.src = .ethernet) (hl : x.reply.port < s.ports.length) :
    Follows x.reply.port (cTen x.tenant (tDtr 0)) s (beginStep slot d x s) := by
  obtain ⟨y, hysrc, hreply, htenant, hstep⟩ := beginStep_cases slot d x s
  have hset : Follows x.reply.port (cTen x.tenant (tDtr 0)) s { s with searches := kvSet s.searches slot y } :=
    Follows.of_releaseView rfl
  refine hset.trans ?_
  obtain hrequest | hend := hstep
  · rw [hrequest]
    exact Follows.of_releaseView rfl
  · rw [hend, ← hreply, ← htenant]
    exact endSearch_follows ((kvGet_kvSet ..).trans (if_pos rfl)) (hysrc.trans hsrc) (hreply ▸ hl)

/-- A search that starts is counted, and then ends or takes its first step. -/
theorem startSearch_cases (slot : Nat) (d : DetourCfg) (m : Model) (r : RecCtx) (q : ReasonReq) (y : Nat) (s : State) :
    ∃ x : Search, x.src = r.src ∧ x.reply = r.reply ∧ x.tenant = r.tenant ∧
      let u := count (cTen r.tenant (tDtr 0)) 1 { s with searches := kvSet s.searches slot x }
      startSearch slot d m r q y s = endSearch slot false u ∨ startSearch slot d m r q y s = beginStep slot d x u := by
  refine ⟨_, ?src, ?reply, ?tenant, ite_eq_or_eq ..⟩
  all_goals rfl

/-- The search of a port's record is counted as started and may send frames behind the score frame. -/
theorem startSearch_ethernet {r : RecCtx} (hsrc : r.src = .ethernet) (hl : r.reply.port < s.ports.length) (m : Model)
    (q : ReasonReq) (y : Nat) : (startSearch slot d m r q y s).refits = s.refits ∧
      (∃ rest, ((startSearch slot d m r q y s).port r.reply.port).ready = (s.port r.reply.port).ready ++ rest) ∧
      (startSearch slot d m r q y s).counter (cTen r.tenant (tDtr 0)) =
        (s.counter (cTen r.tenant (tDtr 0)) + 1) % 2 ^ 64 := by
  obtain ⟨x, hxsrc, hreply, htenant, hstart⟩ := startSearch_cases slot d m r q y s
  generalize hu : count (cTen r.tenant (tDtr 0)) 1 { s with searches := kvSet s.searches slot x } = u at hstart
  have hrefits : u.refits = s.refits := by rw [← hu, refits_count]
  have hports : u.ports = s.ports := by rw [← hu, count_ports]
  have hcounter : u.counter (cTen r.tenant (tDtr 0)) = (s.counter (cTen r.tenant (tDtr 0)) + 1) % 2 ^ 64 := by
    rw [← hu, counter_count_one]
    rfl
  have hfound : kvGet u.searches slot = some x := by
    rw [← hu, searches_count]
    exact (kvGet_kvSet ..).trans (if_pos rfl)
  have hfollows : Follows r.reply.port (cTen r.tenant (tDtr 0)) u (startSearch slot d m r q y s) := by
    rw [← hports, ← hreply] at hl
    rw [← hreply, ← htenant]
    obtain hend | hbegin := hstart
    · rw [hend]
      exact endSearch_follows hfound (hxsrc.trans hsrc) hl
    · rw [hbegin]
      exact beginStep_follows (hxsrc.trans hsrc) hl
  refine ⟨hfollows.refits.trans hrefits, ?_, hfollows.counter.trans hcounter⟩
  rw [show s.port r.reply.port = u.port r.reply.port by rw [State.port, State.port, hports]]
  exact hfollows.ready

end

/-! ## The assembly of a score frame (R198, R352) -/

section
variable {s : State} {ctx : CtxId} {r : RecCtx} {m head : Model} {traced : Bool}

/-- A fused record whose score frame Summit may assemble. -/
structure ScoreReady (s : State) (ctx : CtxId) (r : RecCtx) (m head : Model) : Prop where
  record : s.ctx? ctx = some r
  stage : stageModel s r = some m
  head : s.model? r.model = some head
  goesOn : r.ended = none
  fused : r.fused = true
  free : assemblerStalled s r = false

/-- A record's trace entry is written, when it is traced (R352). -/
def entryTraced (r : RecCtx) (head : Model) (traced : Bool) (s : State) : State :=
  if traced then traceWrite head r s else s

/-- With its trace entry written, a record whose search cannot start is counted (R389). -/
def scoreNoted (r : RecCtx) (head : Model) (traced : Bool) (s : State) : State :=
  if r.reason.isSome && head.image.detour.isSome && (searchFor s head r).isNone then
    count (cTen r.tenant (tDtr 5)) 1 (entryTraced r head traced s)
  else entryTraced r head traced s

/-- A record that has its score frame, of status OK or DEGRADED (R79). -/
def RecCtx.scored (r : RecCtx) : RecCtx := { r with ended := some (if r.heal then 1 else 0, 0) }

/-- The record's outcome is fixed and its score frame handed over (R197, R198). -/
def scoreSent (ctx : CtxId) (r : RecCtx) (m head : Model) (traced : Bool) (s : State) : State :=
  sendScore ctx r (scoreMsg r m.image.out.format traced (searchFor s head r).isSome)
    (modCtx ctx RecCtx.scored (scoreNoted r head traced s))

theorem traceWrite_frame (m : Model) (r : RecCtx) (s : State) : traceWrite m r s =
    { s with mem := (traceWrite m r s).mem, refits := (traceWrite m r s).refits } := by
  unfold traceWrite
  split
  · rfl
  · dsimp only
    rw [areaWrite_frame, areaWrite_frame]
    rfl

theorem searchFor_of_searches {t : State} (h : t.searches = s.searches) (m : Model) (r : RecCtx) :
    searchFor t m r = searchFor s m r := by
  simp only [searchFor, freeSearch, h]

theorem searchFor_none_of_unasked (h : (r.reason.isSome && head.image.detour.isSome) = false) :
    searchFor s head r = none := by
  unfold searchFor
  split
  · rfl
  · split
    next hreason hdetour _ => simp [hreason, hdetour] at h
    · rfl

/-- A trace entry changes memory and the refit states alone. -/
theorem entryTraced_frame : entryTraced r head traced s = { s with
    mem := (entryTraced r head traced s).mem, refits := (entryTraced r head traced s).refits } := by
  unfold entryTraced
  split
  · exact traceWrite_frame head r s
  · rfl

/-- What is noted of a record changes memory, the refit states and the counters alone. -/
theorem scoreNoted_frame : scoreNoted r head traced s = { s with
    mem := (scoreNoted r head traced s).mem, refits := (scoreNoted r head traced s).refits
    ctr := (scoreNoted r head traced s).ctr } := by
  unfold scoreNoted
  split
  · rw [count_frame, entryTraced_frame]
  · rw [entryTraced_frame]

/-- The search that an assembly starts is the one that the record asks for and that can start. -/
theorem searchFor_traced (head : Model) (r : RecCtx) (s : State) (traced : Bool) :
    (if r.reason.isSome && head.image.detour.isSome then
      searchFor (if traced then traceWrite head r s else s) head r else none) = searchFor s head r := by
  split
  · exact searchFor_of_searches (congrArg State.searches entryTraced_frame) head r
  next h => rw [searchFor_none_of_unasked (Bool.eq_false_of_not_eq_true h)]

/-- The search that the record asks for is started, when it can start (R364). -/
def searchStarted (r : RecCtx) (m head : Model) (find : Option (Nat × DetourCfg × ReasonReq)) (s : State) : State :=
  match find with
  | none => s
  | some (i, d, q) => startSearch i d head r q (resultOf m.image r.margins q.channel) s

theorem exec_scoreFrameAssembly (h : ScoreReady s ctx r m head) (hsrc : ∀ slot k, r.src = .detour slot k → False)
    (htraced : traced = (traceable head r.results && (s.refit? head.id).isSome)) : exec (.scoreFrameAssembly ctx) s =
      .next (searchStarted r m head (searchFor s head r) (scoreSent ctx r m head traced s)) := by
  obtain ⟨hr, hm, hhead, hended, hfused, hfree⟩ := h
  show execScoreFrameAssembly ctx s = _
  simp only [execScoreFrameAssembly, hr, hm, hhead, hfused, hended, hfree, ← htraced, searchFor_traced]
  cases hfind : searchFor s head r <;> simp [scoreSent, scoreNoted, entryTraced, searchStarted, hfind] <;> rfl

theorem exec_scoreFrameAssembly_stalled (hr : s.ctx? ctx = some r) (hm : stageModel s r = some m)
    (hhead : s.model? r.model = some head) (hstalled : assemblerStalled s r = true) :
    exec (.scoreFrameAssembly ctx) s = .next s := by
  show execScoreFrameAssembly ctx s = _
  simp only [execScoreFrameAssembly, hr, hm, hhead]
  split <;> simp [hstalled]

/-! ## What an assembly leaves -/

theorem ports_scoreNoted (s : State) : (scoreNoted r head traced s).ports = s.ports := by rw [scoreNoted_frame]

theorem ctx?_scoreNoted (s : State) (c : Nat) : (scoreNoted r head traced s).ctx? c = s.ctx? c := by
  rw [State.ctx?, scoreNoted_frame]
  rfl

theorem dma_scoreNoted (s : State) : (scoreNoted r head traced s).dma = s.dma := by rw [scoreNoted_frame]

/-- A traced record's entry takes the write position, which goes on by one round the trace (R352). -/
theorem refit?_traceWrite {x : RefitSt} (hx : s.refit? m.id = some x) : (traceWrite m r s).refit? m.id =
    some { x with w := if traceCapacity m = 0 then 0 else (x.w + 1) % traceCapacity m } := by
  simp only [traceWrite, hx]
  refine refit?_modRefit_same ?_ fun _ => rfl
  rw [State.refit?, areaWrite_frame, areaWrite_frame]
  exact hx

theorem refit?_scoreNoted {x : RefitSt} (hx : s.refit? head.id = some x) :
    (scoreNoted r head true s).refit? head.id =
      some { x with w := if traceCapacity head = 0 then 0 else (x.w + 1) % traceCapacity head } := by
  rw [← refit?_traceWrite (r := r) hx]
  simp only [State.refit?, scoreNoted, entryTraced]
  split <;> simp

theorem counter_entryTraced (k : Nat) : (entryTraced r head traced s).counter k = s.counter k := by
  rw [State.counter, entryTraced_frame]
  rfl

/-- A search that is asked for and cannot start is counted (R389). -/
theorem counter_scoreNoted (hreason : r.reason.isSome = true) (hdetour : head.image.detour.isSome = true)
    (hnone : searchFor s head r = none) : (scoreNoted r head traced s).counter (cTen r.tenant (tDtr 5)) =
      (s.counter (cTen r.tenant (tDtr 5)) + 1) % 2 ^ 64 := by
  simp [scoreNoted, hreason, hdetour, hnone, counter_count_one, counter_entryTraced]

/-- Starts are counted apart from the searches that cannot start. -/
theorem counter_scoreNoted_starts (s : State) : (scoreNoted r head traced s).counter (cTen r.tenant (tDtr 0)) =
    s.counter (cTen r.tenant (tDtr 0)) := by
  have hne : cTen r.tenant (tDtr 0) ≠ cTen r.tenant (tDtr 5) := by unfold cTen tDtr; omega
  unfold scoreNoted
  split
  · rw [counter_count_ne _ hne, counter_entryTraced]
  · exact counter_entryTraced _

/-! ## A score frame's way to its port (R68, R198) -/

theorem scoreSent_ethernet (hsrc : r.src = .ethernet) : scoreSent ctx r m head traced s =
    readyFrame r.reply .score (some ctx) (scoreMsg r m.image.out.format traced (searchFor s head r).isSome) r.accepted true
      (modCtx ctx RecCtx.scored (scoreNoted r head traced s)) := by
  simp [scoreSent, sendScore, hsrc]

theorem answerFrame_of_ports {t : State} (h : t.ports = s.ports) (p : Reply) (msg : List Byte) :
    answerFrame t p msg = answerFrame s p msg := by
  simp only [answerFrame, State.port, h]

section
variable (hsrc : r.src = .ethernet)
include hsrc

theorem ready_scoreSent (hl : r.reply.port < s.ports.length) :
    ((scoreSent ctx r m head traced s).port r.reply.port).ready = (s.port r.reply.port).ready ++ [⟨.score, some ctx,
      answerFrame s r.reply (scoreMsg r m.image.out.format traced (searchFor s head r).isSome), r.reply.pcp, r.accepted,
      true⟩] := by
  have hports : (modCtx ctx RecCtx.scored (scoreNoted r head traced s)).ports = s.ports := ports_scoreNoted s
  rw [scoreSent_ethernet hsrc, port_readyFrame (by rwa [hports]), answerFrame_of_ports hports, State.port, State.port, hports]

theorem ctx?_scoreSent (hr : s.ctx? ctx = some r) : (scoreSent ctx r m head traced s).ctx? ctx = some r.scored := by
  rw [scoreSent_ethernet hsrc]
  exact ctx?_modCtx_same ((ctx?_scoreNoted s _).trans hr) RecCtx.scored

theorem refits_scoreSent : (scoreSent ctx r m head traced s).refits = (scoreNoted r head traced s).refits := by
  rw [scoreSent_ethernet hsrc]
  rfl

/-- The search of a port's record leaves the refit states. -/
theorem refits_searchStarted (hl : r.reply.port < s.ports.length)
    (find : Option (Nat × DetourCfg × ReasonReq)) : (searchStarted r m head find s).refits = s.refits := by
  cases find with
  | none => rfl
  | some f => exact (startSearch_ethernet hsrc hl _ _ _).1

theorem ports_length_scoreSent : (scoreSent ctx r m head traced s).ports.length = s.ports.length := by
  rw [scoreSent_ethernet hsrc]
  simp [readyFrame, ports_scoreNoted]

theorem counter_scoreSent (k : Nat) :
    (scoreSent ctx r m head traced s).counter k = (scoreNoted r head traced s).counter k := by
  rw [scoreSent_ethernet hsrc]
  rfl

end

/-! ## A score frame's way to its ring (R303) -/

/-- Behind answers that are all in staging, an answer goes into staging too when it has room there; its record is then
answered. -/
theorem stageList_append (a : RingAnswer) (ha : a.staged = false) (xs : List RingAnswer)
    (hxs : ∀ x ∈ xs, x.staged = true) (room : Nat) : stageList room (xs ++ [a]) =
      if a.size ≤ room then (xs ++ [{ a with staged := true, ctx := none }], a.size, a.ctx.toList) else (xs ++ [a], 0, []) := by
  induction xs with
  | nil => simp [stageList, ha]
  | cons x xs ih =>
    have hx : x.staged = true := hxs x List.mem_cons_self
    simp only [List.cons_append, stageList, hx, if_true, ih fun y hy => hxs y (List.mem_cons_of_mem x hy)]
    split <;> rfl

/-- With no other answer waiting, an answer takes its place in staging when it has room there, and its record's context is
released; otherwise it waits. -/
theorem ringAnswer_ctx (g number element : Nat) (bytes : List Byte) (c : Nat) (u : State) (a : RingAnswer)
    (ha : a = ⟨number, element, false, bytes, some c, false, false⟩) (hg : g < u.dma.streams.length)
    (hstaged : ringStall (u.stream g) = false) :
    let t := ringAnswer g number element false bytes (some c) u
    let room := decide (a.size ≤ (u.stream g).staging - (u.stream g).fill)
    (t.stream g).answers = (u.stream g).answers ++ [if room then { a with staged := true, ctx := none } else a] ∧
      t.ctx? c = if room then none else u.ctx? c := by
  have hall : ∀ x ∈ (u.stream g).answers, x.staged = true := by simpa [ringStall] using hstaged
  have hlist := stageList_append a (by rw [ha]) _ hall ((u.stream g).staging - (u.stream g).fill)
  have hctx : a.ctx = some c := by rw [ha]
  have hstaging : ∀ f : Stream → Stream, ((modStream g f (modStream g (fun x => { x with answers := x.answers ++ [a] })
      u)).stream g) = f { u.stream g with answers := (u.stream g).answers ++ [a] } := fun f => by
    rw [stream_modStream_same (by simpa using hg), stream_modStream_same hg]
  unfold ringAnswer stageAnswers
  dsimp only
  rw [stream_modStream_same hg, ← ha, hlist]
  by_cases hroom : a.size ≤ (u.stream g).staging - (u.stream g).fill
  · simp only [hroom, hctx, decide_true, if_true, Option.toList_some, List.foldl_cons, List.foldl_nil]
    exact ⟨by rw [stream_freeContext, hstaging], ctx?_freeContext_same ..⟩
  · simp only [hroom, decide_false, if_false, List.foldl_nil, Bool.false_eq_true]
    exact ⟨by rw [hstaging], rfl⟩

theorem scoreSent_ring {g n e : Nat} (hsrc : r.src = .ring g n e) (traced : Bool) : scoreSent ctx r m head traced s =
    ringAnswer g n e false (scoreMsg r m.image.out.format traced (searchFor s head r).isSome) (some ctx)
      (modCtx ctx RecCtx.scored (scoreNoted r head traced s)) := by
  simp [scoreSent, sendScore, hsrc]

/-- While no assembler of a host ring is stalled, no answer of a stream waits for its staging. -/
theorem ringStall_of_free {g n e : Nat} (hsrc : r.src = .ring g n e) (hg : g < s.dma.streams.length)
    (hfree : assemblerStalled s r = false) : ringStall (s.stream g) = false := by
  have hnone : s.dma.streams.any ringStall = false := by simpa [assemblerStalled, hsrc] using hfree
  have hget : s.stream g = s.dma.streams[g] := by simp [State.stream, List.getD_eq_getElem?_getD, hg]
  rw [hget]
  exact Bool.eq_false_of_not_eq_true (List.any_eq_false.mp hnone _ (List.getElem_mem hg))

/-! ## SUMMIT_FUSED_OUTPUT (R191, R195) -/

theorem exec_summitFusedOutput_stalled (hr : s.ctx? ctx = some r) (hm : stageModel s r = some m)
    (hhead : s.model? r.model = some head) (hstalled : assemblerStalled s r = true) :
    exec (.summitFusedOutput ctx) s = .next s := by
  show execSummitFusedOutput ctx s = _
  simp [execSummitFusedOutput, hr, hm, hhead, hstalled]

/-- A record's margins and results, formed from its ensemble row. -/
def fusedOf (m : Model) (r : RecCtx) : Fused := fuse m.image (markPoison r (channelValues m r))

/-- A record that has its margins and results (R195). -/
def RecCtx.withFused (f : Fused) (r : RecCtx) : RecCtx := { r with margins := f.margins, results := f.results, fused := true }

/-- The fused output is counted, with its SAT and UNF flags (R195). -/
def fusedCounted (m : Model) (r : RecCtx) (s : State) : State :=
  count (cSmt 3) 1 (count (cSmt 4) (if (fusedOf m r).set_ &&& flagSat ≠ 0 then 1 else 0)
    (count (cSmt 5) (if (fusedOf m r).set_ &&& flagUnf ≠ 0 then 1 else 0) s))

/-- The record has its results, and its values leave the queue to Summit. -/
def fusedRecord (ctx : CtxId) (m : Model) (r : RecCtx) (s : State) : State :=
  modCtx ctx (RecCtx.withFused (fusedOf m r)) (giveBack (if outQueued s r then [.summit] else []) s)

theorem exec_summitFusedOutput_fuses (hr : s.ctx? ctx = some r) (hm : stageModel s r = some m)
    (hhead : s.model? r.model = some head) (hended : r.ended = none) (hstate : r.state = .summit) (hfused : r.fused = false)
    (hterms : termsDone head r = true) (hfree : assemblerStalled s r = false) :
    exec (.summitFusedOutput ctx) s = .next (fusedRecord ctx m r (fusedCounted m r s)) := by
  show execSummitFusedOutput ctx s = _
  simp only [execSummitFusedOutput, hr, hm, hhead]
  split
  next hwaits => simp [hended, hstate, hfused, hterms, hfree] at hwaits
  next => rfl

theorem counter_fusedCounted : (fusedCounted m r s).counter (cSmt 3) = (s.counter (cSmt 3) + 1) % 2 ^ 64 := by
  rw [fusedCounted, counter_count_one, counter_count_ne _ (by decide), counter_count_ne _ (by decide)]

theorem ctx?_fusedCounted (c : Nat) : (fusedCounted m r s).ctx? c = s.ctx? c := by
  rw [fusedCounted, ctx?_count, ctx?_count, ctx?_count]

theorem counter_fusedRecord (k : Nat) (s : State) : (fusedRecord ctx m r s).counter k = s.counter k := rfl

theorem ctx?_fusedRecord (hr : s.ctx? ctx = some r) :
    (fusedRecord ctx m r s).ctx? ctx = some (RecCtx.withFused (fusedOf m r) r) :=
  ctx?_modCtx_same (s := giveBack (if outQueued s r then [.summit] else []) s) hr _

/-! ## XCHIP_WAIT_EXPIRY (R192) -/

section
variable {t0 : Nat} (hr : s.ctx? ctx = some r) (hm : s.model? r.model = some m) (ht0 : r.mcAt = some t0)
include hr hm ht0

theorem exec_xchipWaitExpiry_waits (hnow : s.now ≤ t0 + m.image.out.wait * 1024) :
    exec (.xchipWaitExpiry ctx) s = .next s := by
  show execXchipWaitExpiry ctx s = _
  simp [execXchipWaitExpiry, hr, hm, ht0, hnow]

theorem exec_xchipWaitExpiry_expires (hended : r.ended = none) (hterms : termsDone m r = false)
    (hnow : t0 + m.image.out.wait * 1024 < s.now) : exec (.xchipWaitExpiry ctx) s =
      .next (endRecord ctx 5 0x40 (count (cTen r.tenant tXchipTimeouts) 1 (raise 0x0501 r.tenant
        (leBytes 2 r.handle ++ leBytes 2 (missingMembers m r) ++ zeros 4 ++ leBytes 8 r.recId) s))) := by
  show execXchipWaitExpiry ctx s = _
  simp [execXchipWaitExpiry, hr, hm, ht0, hended, hterms, hnow.not_ge, unitFault]

end

/-- The end of a port's record counts on the port alone. -/
theorem counter_endRecord_ethernet (hr : s.ctx? ctx = some r) (hsrc : r.src = .ethernet) {k : Nat}
    (hk : k ≠ cPrt r.reply.port pAnswered) (status reason : Nat) :
    (endRecord ctx status reason s).counter k = s.counter k := by
  have hdropped : ∀ u : State, (dropWork ctx u).counter k = u.counter k := fun u =>
    congrArg (fun v : ReleaseView => (kvGet v.ctr k).getD 0) (releaseView_dropWork u ctx)
  simp only [endRecord, hr, hsrc]
  refine (hdropped _).trans ?_
  split
  · exact counter_count_ne s hk 1
  · rfl

end

/-- Settles O29: a stalled assembler holds Summit; a fused record's frame goes to its port, where its search's frames follow it,
or to its ring; a term that does not come in time ends the record. -/
theorem summitScoresOrTimesOut : Obligations.SummitScoresOrTimesOut := by
  unfold Obligations.SummitScoresOrTimesOut
  refine ⟨?scores, ?timeout⟩
  case scores =>
    intro s ctx r m head hr hm hhead hended
    refine ⟨fun hstalled => ⟨exec_summitFusedOutput_stalled hr hm hhead hstalled,
      exec_scoreFrameAssembly_stalled hr hm hhead hstalled⟩, ?fuses, ?port, ?ring⟩
    case fuses =>
      intro hstate hfused hterms hfree
      exact ⟨_, exec_summitFusedOutput_fuses hr hm hhead hended hstate hfused hterms hfree,
        ctx?_fusedRecord ((ctx?_fusedCounted ctx).trans hr), (counter_fusedRecord _ _).trans counter_fusedCounted⟩
    case port =>
      intro traced hfused hsrc hfree hl htraced
      have hexec := exec_scoreFrameAssembly ⟨hr, hm, hhead, hended, hfused, hfree⟩ (by simp [hsrc]) htraced
      have hready := ready_scoreSent (ctx := ctx) (m := m) (head := head) (traced := traced) hsrc hl
      have hsent : r.reply.port < (scoreSent ctx r m head traced s).ports.length := by rwa [ports_length_scoreSent hsrc]
      refine ⟨fun x htrue hx => ?entry, fun hquiet => ?quiet, fun f hsome hreason hdetour => ?search⟩
      case entry =>
        subst htrue
        have hrefits := (refits_searchStarted (m := m) (head := head) hsrc hsent (searchFor s head r)).trans
          (refits_scoreSent hsrc)
        have hentry := refit?_scoreNoted (r := r) hx
        rw [State.refit?, ← hrefits] at hentry
        exact ⟨_, _, hexec, hentry, rfl⟩
      case quiet =>
        have hnone : searchFor s head r = none := by
          obtain hreason | hdetour | hnone := hquiet
          · exact searchFor_none_of_unasked (by simp [hreason])
          · exact searchFor_none_of_unasked (by simp [hdetour])
          · exact hnone
        rw [hnone] at hexec hready
        refine ⟨_, hexec, ctx?_scoreSent hsrc hr, hready, fun hreason hdetour => ?_⟩
        exact (counter_scoreSent hsrc _).trans (counter_scoreNoted hreason hdetour hnone)
      case search =>
        obtain ⟨i, d, q⟩ := f
        rw [hsome] at hexec hready
        obtain ⟨-, ⟨rest, hrest⟩, hcounter⟩ := startSearch_ethernet (slot := i) (d := d) hsrc hsent head q
          (resultOf m.image r.margins q.channel)
        refine ⟨_, rest, hexec, ?_, ?_⟩
        · exact hrest.trans (by rw [hready]; simp)
        · exact hcounter.trans (by rw [counter_scoreSent hsrc, counter_scoreNoted_starts])
    case ring =>
      rintro g n e a room hfused hsrc hfree hg htraceable hreason ha rfl
      have hexec := exec_scoreFrameAssembly (traced := false) ⟨hr, hm, hhead, hended, hfused, hfree⟩ (by simp [hsrc])
        (by simp [htraceable])
      have hnone : searchFor s head r = none := searchFor_none_of_unasked (by simp [hreason])
      have hdma : (modCtx ctx RecCtx.scored (scoreNoted r head false s)).dma = s.dma := dma_scoreNoted s
      have hstream : (modCtx ctx RecCtx.scored (scoreNoted r head false s)).stream g = s.stream g := by
        rw [State.stream, hdma, State.stream]
      obtain ⟨hanswers, hctx⟩ := ringAnswer_ctx g n e _ ctx _ a ha (by rwa [hdma])
        (hstream ▸ ringStall_of_free hsrc hg hfree)
      rw [hnone, searchStarted, scoreSent_ring hsrc, hnone] at hexec
      rw [hstream] at hanswers hctx
      rw [ctx?_modCtx_same ((ctx?_scoreNoted s _).trans hr)] at hctx
      exact ⟨_, hexec, hanswers, hctx⟩
  case timeout =>
    intro s ctx r m t0 hr hm ht0 hended hterms
    refine ⟨exec_xchipWaitExpiry_waits hr hm ht0, fun hnow hsrc hroom => ?_⟩
    have hexec := exec_xchipWaitExpiry_expires hr hm ht0 hended hterms hnow
    rw [raise_room _ _ _ _ hroom] at hexec
    generalize hu : count (cTen r.tenant tXchipTimeouts) 1 _ = u at hexec
    have hctx : u.ctx? ctx = some r := by rw [← hu, ctx?_count]; exact hr
    obtain ⟨⟨y, hy, hend⟩, -, hevents⟩ := endRecord_ethernet hctx hsrc 5 0x40
    have hcounter := counter_endRecord_ethernet hctx hsrc (k := cTen r.tenant tXchipTimeouts)
      (by unfold cTen cPrt tXchipTimeouts pAnswered; omega) 5 0x40
    refine ⟨_, y, hexec, hy, hend, hcounter.trans ?_, hevents.trans ?_⟩
    · rw [← hu, counter_count_one]
      rfl
    · rw [← hu, evBuf_count]

end Sys2Proof.Machine
end

section
/-! SUPPORT. Leaf refit (R200, R201, R353 to R359): the gradient of a feedback frame, what its processing and the pairs sent to
other members keep, and what a sweep or pass leaves of its model's refit state. -/

namespace Sys2Proof.Machine

@[simp] theorem feedback_count (k n : Nat) (s : State) : (count k n s).feedback = s.feedback := by rw [count_frame]

/-! ## The gradient of a feedback frame (R200, R201) -/

section
variable {s : State} {i off : Nat} {f : Feedback} {m : Model} {x : RefitSt}

/-- With a record ready, or no frame to compute, Summit computes no gradient. -/
theorem exec_feedbackGradient_waits (h : fusedWaiting s = true ∨ nextGradient s = none) :
    exec .feedbackGradient s = .next s := by
  show execFeedbackGradient s = _
  unfold execFeedbackGradient
  obtain hwaiting | hnone := h
  · rw [if_pos hwaiting]
  · simp only [hnone, ite_self]

/-- The gradient of a frame, from the traced margin of its channel and its label (Table 9.4). -/
def gradientOf (s : State) (m : Model) (x : RefitSt) (off : Nat) (f : Feedback) : (Nat × Nat × Bool) × Bool :=
  gradient m.image.out.loss (leNat (areaBytes s x (off + 32 + 4 * f.channel) 4)) f.label

/-- A gradient is counted, and so is a label that was limited. -/
def gradientCounted (limited : Bool) (s : State) : State :=
  count (cSmt 6) 1 (if limited then count (cSmt 8) 1 s else s)

/-- A frame has its gradient, whose magnitudes its model notes (R340). -/
def gradientHeld (i : Nat) (m : Model) (gh : Nat × Nat × Bool) (s : State) : State :=
  { modRefit m.id (fun x => { x with gMax := x.gMax.modify 0 (magMax gh.1), hMax := x.hMax.modify 0 (magMax gh.2.1) }) s with
    feedback := s.feedback.modify i (fun f => { f with gh := some gh }) }

theorem exec_feedbackGradient_computes (hready : fusedWaiting s = false) (hnext : nextGradient s = some (i, f, m, x, off)) :
    exec .feedbackGradient s = .next (gradientHeld i m (gradientOf s m x off f).1
      (gradientCounted (gradientOf s m x off f).2 s)) := by
  show execFeedbackGradient s = _
  unfold execFeedbackGradient
  rw [hready, hnext]
  rfl

theorem counter_gradientHeld (gh : Nat × Nat × Bool) (k : Nat) : (gradientHeld i m gh s).counter k = s.counter k := rfl

theorem feedback_gradientHeld (gh : Nat × Nat × Bool) : (gradientHeld i m gh s).feedback =
    s.feedback.modify i (fun f => { f with gh := some gh }) := rfl

theorem mem_gradientCounted (limited : Bool) : (gradientCounted limited s).mem = s.mem := by
  cases limited <;> simp [gradientCounted]

theorem feedback_gradientCounted (limited : Bool) : (gradientCounted limited s).feedback = s.feedback := by
  cases limited <;> simp [gradientCounted]

theorem counter_gradientCounted (limited : Bool) :
    (gradientCounted limited s).counter (cSmt 6) = (s.counter (cSmt 6) + 1) % 2 ^ 64 := by
  rw [gradientCounted, counter_count_one]
  cases limited
  · rfl
  · exact congrArg (fun n => (n + 1) % 2 ^ 64) (counter_count_ne s (by decide) 1)

theorem counter_gradientCounted_labels (limited : Bool) : (gradientCounted limited s).counter (cSmt 8) =
    if limited then (s.counter (cSmt 8) + 1) % 2 ^ 64 else s.counter (cSmt 8) := by
  rw [gradientCounted, counter_count_ne _ (by decide)]
  cases limited
  · rfl
  · exact counter_count_one ..

end

/-! ## Messages to other members (R340, R362) -/

section
variable (s : State)

@[simp] theorem refitView_ite (p : Prop) [Decidable p] (a b : State) :
    (if p then a else b).refitView = if p then a.refitView else b.refitView := apply_ite ..

theorem refitView_queueOuts (g : Nat → Msg) (l : List Nat) :
    (l.foldl (fun s i => queueOut i (g i) s) s).refitView = s.refitView :=
  refitView_foldl (fun s i => queueOut i (g i) s) (fun _ _ => rfl) l s

@[simp] theorem refitView_routeMsg (m : Msg) : (routeMsg m s).2.refitView = s.refitView := by
  have hlost : (count (cZth 1) 1 s).refitView = s.refitView := refitView_count s (by decide) 1
  have hnowhere : (count (cZth 2) 1 s).refitView = s.refitView := refitView_count s (by decide) 1
  have hhere (here : Bool) : (if here then deliver m s else s).refitView = s.refitView := by split <;> rfl
  unfold routeMsg
  dsimp only
  split
  · split
    · exact hnowhere
    · split
      · exact hnowhere
      · split
        · exact hhere _
        · split
          · exact (refitView_count _ (by decide) 1).trans (hhere _)
          · exact (refitView_queueOuts _ (fun _ => _) _).trans (hhere _)
  · split
    · rfl
    · split
      · exact hlost
      · split
        · exact hnowhere
        · rfl

@[simp] theorem refitView_refuseMsg (m : Msg) (reason : Nat) : (refuseMsg m reason s).refitView = s.refitView := by
  simp [refuseMsg, nakEvent]

@[simp] theorem refitView_send (bs : List Byte) : (send bs s).refitView = s.refitView := by
  unfold send sendMsg
  dsimp only
  split <;> simp

/-- Pairs that are sent or held change neither the feedback frames nor the records. -/
theorem sendGh_keeps (id : Nat) : (sendGh id s).feedback = s.feedback ∧ (sendGh id s).ctxs = s.ctxs := by
  unfold sendGh
  split
  · dsimp only
    split
    · exact ⟨rfl, rfl⟩
    next x _ _ =>
      have hcounted : ∀ n, (count (cZth 3) n (modRefit id (fun x => { x with ghPending := [] }) s)).refitView =
          (modRefit id (fun x => { x with ghPending := [] }) s).refitView := fun n => refitView_count _ (by decide) n
      exact ⟨congrArg RefitView.feedback ((refitView_send _ _).trans (hcounted _)),
        congrArg RefitView.ctxs ((refitView_send _ _).trans (hcounted _))⟩
  · exact ⟨rfl, rfl⟩

theorem queueGh_keeps (m : Model) (recId c g h : Nat) :
    (queueGh m recId c g h s).feedback = s.feedback ∧ (queueGh m recId c g h s).ctxs = s.ctxs := by
  unfold queueGh
  split
  · exact ⟨rfl, rfl⟩
  · dsimp only
    split
    · exact sendGh_keeps _ _
    · exact ⟨rfl, rfl⟩

end

/-! ## The processing of a feedback frame (R353, R354) -/

section
variable {s : State} {i off : Nat} {f : Feedback} {m : Model} {x : RefitSt} {ecc : List EccFind} {g h : Nat} {sat : Bool}

/-- Feedback frame `i` goes, and the reads of its lookup are made. -/
def feedbackTaken (ecc : List EccFind) (i : Nat) (f : Feedback) (m : Model) (x : RefitSt) (s : State) : State :=
  lookupReads ecc m x f.recId { s with feedback := s.feedback.eraseIdx i }

/-- The first granted frame, with its model and the refit state. -/
structure FirstFeedback (s : State) (i : Nat) (f : Feedback) (m : Model) (x : RefitSt) : Prop where
  first : s.feedback.zipIdx.find? (fun p => p.1.granted) = some (f, i)
  model : s.model? f.model = some m
  refit : s.refit? f.model = some x

theorem refitView_feedbackTaken : (feedbackTaken ecc i f m x s).refitView =
    ({ s with feedback := s.feedback.eraseIdx i } : State).refitView := refitView_lookupReads ..

theorem mem_feedbackTaken : (feedbackTaken [] i f m x s).mem = s.mem := mem_lookupReads_nil ..

theorem counter_feedbackTaken (t o : Nat) : (feedbackTaken ecc i f m x s).counter (cTen t o) = s.counter (cTen t o) :=
  tenantCounter_of_refitView refitView_feedbackTaken t o

/-- A sound frame whose gradient Summit has not computed waits for it. -/
theorem exec_feedbackProcess_waits (hf : FirstFeedback s i f m x) (hfault : feedbackFault s m x f = none)
    (hgh : f.gh = none) : exec (.feedbackProcess ecc) s = .next s := by
  obtain ⟨hfirst, hm, hx⟩ := hf
  show execFeedbackProcess s ecc = _
  simp [execFeedbackProcess, hfirst, hm, hx, hfault, hgh]

/-- What a frame's processing leaves, once its lookup is made: it is applied, or counted by the cause for which it is
discarded. -/
def feedbackProcessed (ecc : List EccFind) (f : Feedback) (m : Model) (x : RefitSt) (u : State) : State :=
  match feedbackFault u m x f, traceLookup u m x f.recId, f.gh with
  | none, some off, some (g, h, sat) =>
    let t := applyFeedback (shiftEcc (lookupWords m) ecc) m x off f.recId f.channel (f32Val g) (f32Val h) sat u
    if x.paused then t else queueGh m f.recId f.channel g h t
  | k, _, _ => count (cTen m.tenant (tRft (k.getD 5))) 1 u

theorem exec_feedbackProcess_processes (hf : FirstFeedback s i f m x)
    (hready : (feedbackFault s m x f).isSome = true ∨ f.gh.isSome = true) :
    exec (.feedbackProcess ecc) s = .next (feedbackProcessed ecc f m x (feedbackTaken ecc i f m x s)) := by
  obtain ⟨hfirst, hm, hx⟩ := hf
  have hgo : ((feedbackFault s m x f).isNone && f.gh.isNone) = false := by
    obtain hfault | hgh := hready
    · simp [Option.isNone_eq_false_iff.mpr hfault]
    · simp [Option.isNone_eq_false_iff.mpr hgh]
  show execFeedbackProcess s ecc = _
  simp only [execFeedbackProcess, hfirst, hm, hx, hgo, Bool.false_eq_true, if_false, feedbackTaken]
  generalize lookupReads ecc m x f.recId _ = u
  unfold feedbackProcessed
  cases feedbackFault u m x f with
  | some k => rfl
  | none =>
    cases traceLookup u m x f.recId with
    | none => rfl
    | some off => cases f.gh <;> rfl

theorem exec_feedbackProcess_discards (hf : FirstFeedback s i f m x) {k : Nat} (hfault : feedbackFault s m x f = some k) :
    exec (.feedbackProcess []) s = .next (count (cTen m.tenant (tRft k)) 1 (feedbackTaken [] i f m x s)) := by
  rw [exec_feedbackProcess_processes hf (Or.inl (Option.isSome_of_eq_some hfault))]
  simp [feedbackProcessed, feedbackFault_of_mem mem_feedbackTaken, hfault]

theorem exec_feedbackProcess_applies (hf : FirstFeedback s i f m x) (hfault : feedbackFault s m x f = none)
    (hlookup : traceLookup s m x f.recId = some off) (hgh : f.gh = some (g, h, sat)) :
    exec (.feedbackProcess []) s = .next (
      let u := setLabelled x off f.channel (feedbackTaken [] i f m x s)
      if x.paused then count (cTen m.tenant (tRft 1)) 1 u
      else queueGh m f.recId f.channel g h (count (cTen m.tenant (tRft 0)) 1
        (applyPair [] m x off f.recId f.channel (f32Val g) (f32Val h) sat u))) := by
  rw [exec_feedbackProcess_processes hf (Or.inr (Option.isSome_of_eq_some hgh))]
  simp only [feedbackProcessed, feedbackFault_of_mem mem_feedbackTaken, traceLookup_of_mem mem_feedbackTaken, hfault, hlookup,
    hgh, applyFeedback, shiftEcc_nil]
  split <;> rfl

theorem applyFeedback_keeps (a b : Frac) (u : State) :
    (applyFeedback ecc m x off f.recId f.channel a b sat u).feedback = u.feedback ∧
      (applyFeedback ecc m x off f.recId f.channel a b sat u).ctxs = u.ctxs := by
  have hlabelled := refitView_setLabelled u x off f.channel
  have happlied := (refitView_applyPair (setLabelled x off f.channel u) ecc m x off f.recId f.channel a b sat).trans hlabelled
  unfold applyFeedback
  dsimp only
  split
  · rw [feedback_count, count_ctxs]
    exact ⟨congrArg RefitView.feedback hlabelled, congrArg RefitView.ctxs hlabelled⟩
  · rw [feedback_count, count_ctxs]
    exact ⟨congrArg RefitView.feedback happlied, congrArg RefitView.ctxs happlied⟩

/-- A processed frame changes no other frame and no record. -/
theorem feedbackProcessed_keeps (u : State) :
    (feedbackProcessed ecc f m x u).feedback = u.feedback ∧ (feedbackProcessed ecc f m x u).ctxs = u.ctxs := by
  unfold feedbackProcessed
  split
  next off g h sat _ _ _ =>
    obtain ⟨hfeedback, hctxs⟩ := applyFeedback_keeps (ecc := shiftEcc (lookupWords m) ecc) (f := f) (m := m) (x := x)
      (off := off) (sat := sat) (f32Val g) (f32Val h) u
    dsimp only
    split
    · exact ⟨hfeedback, hctxs⟩
    · obtain ⟨hfeedback', hctxs'⟩ := queueGh_keeps (applyFeedback (shiftEcc (lookupWords m) ecc) m x off f.recId f.channel
        (f32Val g) (f32Val h) sat u) m f.recId f.channel g h
      exact ⟨hfeedback'.trans hfeedback, hctxs'.trans hctxs⟩
  · simp

/-- A model of one member sends no pairs. -/
theorem queueGh_single (hmembers : m.image.members ≤ 1) (recId c g h : Nat) (s : State) :
    queueGh m recId c g h s = s := if_pos (Or.inl hmembers)

end

/-! ## Decay sweeps (R356) -/

section
variable {s : State} {tn : Tid} {h left : Nat} {ecc : List EccFind} {m : Model} {x : RefitSt} {cfg : RefitCfg}

/-- A model of a handle, with its refit state and its refit configuration. -/
structure RefitOf (s : State) (tn : Tid) (h : Nat) (m : Model) (x : RefitSt) (cfg : RefitCfg) : Prop where
  handle : s.handle? tn h = some m
  refit : s.refit? m.id = some x
  config : m.image.refit = some cfg

/-- The blocks granted so far that the sweep has not decayed yet are scaled by β. -/
def blocksDecayed (ecc : List EccFind) (m : Model) (x : RefitSt) (cfg : RefitCfg) (left : Nat) (s : State) : State :=
  (List.range (8 * treeCount m - left - x.decayed)).foldl (fun s n =>
    (sweepUnit m 8 (x.decayed + n)).elim s (fun u =>
      decayBlock (shiftEcc (blockWords * n) ecc) m x (0xFFFFFFFF00000000 + x.sweeps) cfg.beta u.1 u.2.2.1 u.2.2.2 s)) s

/-- The sweep ends: it is counted, and its grant taken. -/
def sweepEnded (m : Model) (s : State) : State :=
  count (cTen m.tenant (tRft 7)) 1 (modRefit m.id (fun x => { x with sweeps := x.sweeps + 1, decayed := 0 })
    (takeGrant (.decay m.id 0) s))

/-- The sweep goes on after block `upto`. -/
def sweepGoesOn (m : Model) (upto : Nat) (s : State) : State :=
  modRefit m.id (fun x => { x with decayed := max x.decayed upto }) s

theorem exec_decaySweep_idle (hm : s.handle? tn h = some m) (hleft : decayLeft s m.id = none) :
    exec (.decaySweep tn h ecc) s = .next s := by
  show execDecaySweep tn h s ecc = _
  simp [execDecaySweep, hm, hleft]

theorem exec_decaySweep_sweeps (hx : RefitOf s tn h m x cfg) (hleft : decayLeft s m.id = some left) :
    exec (.decaySweep tn h ecc) s = .next (if left = 0 then sweepEnded m (blocksDecayed ecc m x cfg left s)
      else sweepGoesOn m (8 * treeCount m - left) (blocksDecayed ecc m x cfg left s)) := by
  obtain ⟨hm, hrefit, hcfg⟩ := hx
  show execDecaySweep tn h s ecc = _
  simp only [execDecaySweep, hm, hrefit, hcfg, hleft]
  split <;> rfl

theorem refitView_blocksDecayed : (blocksDecayed ecc m x cfg left s).refitView = s.refitView := by
  refine refitView_foldl _ (fun s n => ?_) _ s
  cases sweepUnit m 8 (x.decayed + n) with
  | none => rfl
  | some u => exact refitView_decayBlock ..

section
variable {u : State} (hview : u.refitView = s.refitView) (hx : s.refit? m.id = some x)
include hview

theorem granted_sweepEnded : (sweepEnded m u).disp.granted = s.disp.granted.erase (.decay m.id 0) := by
  rw [sweepEnded, disp_count]
  exact congrArg (fun v : RefitView => v.disp.granted.erase (.decay m.id 0)) hview

theorem counter_sweepEnded : (sweepEnded m u).counter (cTen m.tenant (tRft 7)) =
    (s.counter (cTen m.tenant (tRft 7)) + 1) % 2 ^ 64 := by
  rw [sweepEnded, counter_count_one]
  exact congrArg (fun n => (n + 1) % 2 ^ 64) (tenantCounter_of_refitView hview _ _)

include hx

theorem refit?_sweepEnded : (sweepEnded m u).refit? m.id = some { x with sweeps := x.sweeps + 1, decayed := 0 } := by
  rw [State.refit?, sweepEnded, refits_count]
  exact refit?_modRefit_same (s := takeGrant (.decay m.id 0) u) ((refit?_of_refitView hview m.id).trans hx) fun _ => rfl

end

/-! ## Proposal passes (R359) -/

/-- The block pairs granted so far that the pass has not read yet are read and their shadow words written; the leaves that
saturated are counted. -/
def pairsProposed (ecc : List EccFind) (m : Model) (x : RefitSt) (cfg : RefitCfg) (left : Nat) (s : State) : Nat × State :=
  (List.range (4 * treeCount m - left - x.proposed)).foldl (fun a n =>
    (sweepUnit m 4 (x.proposed + n)).elim a (fun u => proposePair (shiftEcc (2 * blockWords * n) ecc) m x cfg u a))
    (x.passSat, s)

/-- The shadow leaf table is complete, and the pass's grant taken. -/
def passEnded (m : Model) (sat : Nat) (s : State) : State :=
  count (cTen m.tenant (tRft 8)) 1 (modRefit m.id (fun x => { x with
    shadowState := .valid, shadowSat := sat, proposed := 0, passSat := 0 }) (takeGrant (.proposal m.id 0) s))

/-- The pass goes on after block pair `upto`. -/
def passGoesOn (m : Model) (upto sat : Nat) (s : State) : State :=
  modRefit m.id (fun x => { x with proposed := max x.proposed upto, passSat := sat }) s

theorem exec_proposalPassEnd_idle (hm : s.handle? tn h = some m) (hleft : proposalLeft s m.id = none) :
    exec (.proposalPassEnd tn h ecc) s = .next s := by
  show execProposalPassEnd tn h s ecc = _
  simp [execProposalPassEnd, hm, hleft]

theorem exec_proposalPassEnd_proposes (hx : RefitOf s tn h m x cfg) (hleft : proposalLeft s m.id = some left) :
    exec (.proposalPassEnd tn h ecc) s = .next (
      let r := pairsProposed ecc m x cfg left s
      if left = 0 then raise 0x0A01 m.tenant (leBytes 2 m.handle ++ zeros 2 ++ leBytes 4 r.1) (passEnded m r.1 r.2)
      else passGoesOn m (4 * treeCount m - left) r.1 r.2) := by
  obtain ⟨hm, hrefit, hcfg⟩ := hx
  show execProposalPassEnd tn h s ecc = _
  simp only [execProposalPassEnd, hm, hrefit, hcfg, hleft]
  split <;> rfl

theorem refitView_pairsProposed : (pairsProposed ecc m x cfg left s).2.refitView = s.refitView := by
  refine refitView_foldl_of Prod.snd _ (fun a n => ?_) _ (x.passSat, s)
  cases sweepUnit m 4 (x.proposed + n) with
  | none => rfl
  | some u => exact refitView_proposePair ..

/-- What decides where the next event goes, and how it is numbered and stamped. -/
def State.eventView (s : State) : List Event × Nat × TimeSt := (s.evBuf, s.evSeq, s.time)

theorem eventView_statRead_nil (k b : Nat) (s : State) : (statRead [] m x k b s).eventView = s.eventView := by
  obtain ⟨c, hc⟩ := areaRead_nil s x (blockOff m k b) 136
  unfold statRead
  dsimp only
  rw [hc]
  split <;> rfl

theorem eventView_proposePair_nil (u : Nat × Placed × Nat × Nat) (a : Nat × State) :
    (proposePair [] m x cfg u a).2.eventView = a.2.eventView := by
  simp only [proposePair, writeShadow, shiftEcc_nil]
  rw [areaWrite_frame]
  exact (eventView_statRead_nil ..).trans (eventView_statRead_nil ..)

/-- A pass in whose reads SECDED finds nothing raises no event before its end. -/
theorem eventView_pairsProposed_nil : (pairsProposed [] m x cfg left s).2.eventView = s.eventView := by
  refine List.foldlRecOn (motive := fun a : Nat × State => a.2.eventView = s.eventView) _ _ rfl fun a ha n _ => ?_
  cases sweepUnit m 4 (x.proposed + n) with
  | none => exact ha
  | some u => exact (eventView_proposePair_nil ..).trans ha

section
variable {u : State} (sat : Nat)

theorem eventView_passEnded : (passEnded m sat u).eventView = u.eventView := by
  rw [passEnded, count_frame]
  rfl

/-- With room in the engine's buffer, the event of a pass that ends stands there last. -/
theorem evBuf_raise_passEnded (hu : u.eventView = s.eventView) (hroom : s.evBuf.length < 512) (code t : Nat)
    (data : List Byte) : (raise code t data (passEnded m sat u)).evBuf =
      s.evBuf ++ [⟨code, t, s.evSeq, s.time.tick, fitBytes data 16⟩] := by
  have hevents := (eventView_passEnded (m := m) sat).trans hu
  simp only [State.eventView, Prod.mk.injEq] at hevents
  obtain ⟨hbuf, hseq, htime⟩ := hevents
  rw [raise_room _ _ _ _ (by rwa [hbuf]), hbuf, hseq, htime]

variable (hview : u.refitView = s.refitView)
include hview

theorem granted_passEnded : (passEnded m sat u).disp.granted = s.disp.granted.erase (.proposal m.id 0) := by
  rw [passEnded, disp_count]
  exact congrArg (fun v : RefitView => v.disp.granted.erase (.proposal m.id 0)) hview

theorem counter_passEnded : (passEnded m sat u).counter (cTen m.tenant (tRft 8)) =
    (s.counter (cTen m.tenant (tRft 8)) + 1) % 2 ^ 64 := by
  rw [passEnded, counter_count_one]
  exact congrArg (fun n => (n + 1) % 2 ^ 64) (tenantCounter_of_refitView hview _ _)

theorem refit?_passEnded (hx : s.refit? m.id = some x) : (passEnded m sat u).refit? m.id =
    some { x with shadowState := .valid, shadowSat := sat, proposed := 0, passSat := 0 } := by
  rw [State.refit?, passEnded, refits_count]
  exact refit?_modRefit_same (s := takeGrant (.proposal m.id 0) u) ((refit?_of_refitView hview m.id).trans hx) fun _ => rfl

end

/-- Where H is below Hmin a leaf keeps its value. -/
theorem proposeLeaf_below {chan : Nat} {old : Int} {g H : Nat} (hH : f32Lt H cfg.hmin = true) :
    proposeLeaf m cfg chan old g H = (old, false) := if_pos hH

end

/-- Settles O30: Summit computes the first frame's gradient or waits; a frame is discarded, or labels its entry and adds to its
leaves; a sweep or pass does its granted blocks, and ends with the last. -/
theorem feedbackAndRefitPasses : Obligations.FeedbackAndRefitPasses := by
  unfold Obligations.FeedbackAndRefitPasses
  refine ⟨?gradient, ?process, ?passes, fun m c chan old g H hH => proposeLeaf_below hH⟩
  case gradient =>
    intro s
    refine ⟨exec_feedbackGradient_waits, fun i f m x off hready hnext => ?_⟩
    refine ⟨_, exec_feedbackGradient_computes hready hnext, ?counted, mem_gradientCounted _, ?labels, ?held⟩
    case counted => rw [counter_gradientHeld, counter_gradientCounted]
    case labels => exact (counter_gradientHeld ..).trans (counter_gradientCounted_labels _)
    case held => rw [feedback_gradientHeld, feedback_gradientCounted, gradientOf]
  case process =>
    intro s i f m x hfirst hm hx
    have hf : FirstFeedback s i f m x := ⟨hfirst, hm, hx⟩
    have hmem : (feedbackTaken [] i f m x s).mem = s.mem := mem_feedbackTaken
    have hlabelled (off : Nat) : (setLabelled x off f.channel (feedbackTaken [] i f m x s)).mem =
        (setLabelled x off f.channel s).mem := mem_setLabelled_of_mem hmem ..
    have hcounter (off k : Nat) : (setLabelled x off f.channel (feedbackTaken [] i f m x s)).counter (cTen m.tenant (tRft k)) =
        s.counter (cTen m.tenant (tRft k)) :=
      (tenantCounter_of_refitView (refitView_setLabelled ..) _ _).trans (counter_feedbackTaken _ _)
    refine ⟨fun ecc hfault hgh => exec_feedbackProcess_waits hf hfault hgh, ?once, ?discarded, ?paused, ?applied⟩
    case once =>
      intro ecc hready
      obtain ⟨hfeedback, hctxs⟩ := feedbackProcessed_keeps (ecc := ecc) (f := f) (m := m) (x := x)
        (feedbackTaken ecc i f m x s)
      exact ⟨_, exec_feedbackProcess_processes hf hready,
        hfeedback.trans (congrArg RefitView.feedback refitView_feedbackTaken),
        hctxs.trans (congrArg RefitView.ctxs refitView_feedbackTaken)⟩
    case discarded =>
      intro k hfault
      refine ⟨_, exec_feedbackProcess_discards hf hfault, (mem_count ..).trans hmem, ?_⟩
      rw [counter_count_one, counter_feedbackTaken]
    case paused =>
      intro g h sat off hfault hgh hlookup hpaused hchannel
      have hexec := exec_feedbackProcess_applies hf hfault hlookup hgh
      simp only [if_pos hpaused] at hexec
      have hleft := (mem_count (setLabelled x off f.channel (feedbackTaken [] i f m x s)) (cTen m.tenant (tRft 1)) 1).trans
        (hlabelled off)
      refine ⟨_, hexec, ?_, hleft, ?_⟩
      · rw [areaBytes_of_mem hleft]
        exact labelled_setLabelled s x (traceLookup_aligned hlookup) hchannel
      · rw [counter_count_one, hcounter]
    case applied =>
      intro g h sat off hfault hgh hlookup hpaused hmembers
      have hexec := exec_feedbackProcess_applies hf hfault hlookup hgh
      simp only [hpaused, Bool.false_eq_true, if_false, queueGh_single hmembers] at hexec
      refine ⟨_, hexec, ?_, ?_⟩
      · rw [mem_count, mem_applyPair_of_mem (hlabelled off)]
      · rw [counter_count_one, tenantCounter_of_refitView (refitView_applyPair ..), hcounter]
  case passes =>
    intro s tn h left ecc m x cfg hm hx hcfg
    have hof : RefitOf s tn h m x cfg := ⟨hm, hx, hcfg⟩
    refine ⟨?decay, exec_decaySweep_idle hm, ?proposal, exec_proposalPassEnd_idle hm⟩
    case decay =>
      intro hleft
      have hexec := exec_decaySweep_sweeps (ecc := ecc) hof hleft
      have hview : (blocksDecayed ecc m x cfg left s).refitView = s.refitView := refitView_blocksDecayed
      by_cases hlast : left = 0
      · rw [if_pos hlast] at hexec
        exact ⟨_, _, hexec, refit?_sweepEnded hview hx,
          fun _ => ⟨rfl, rfl, granted_sweepEnded hview, counter_sweepEnded hview⟩, fun hmore => absurd hlast hmore⟩
      · rw [if_neg hlast] at hexec
        exact ⟨_, _, hexec, refit?_modRefit_same ((refit?_of_refitView hview m.id).trans hx) fun _ => rfl,
          fun hend => absurd hend hlast, fun _ => ⟨rfl, rfl, congrArg (fun v : RefitView => v.disp.granted) hview⟩⟩
    case proposal =>
      intro hleft
      have hexec := exec_proposalPassEnd_proposes (ecc := ecc) hof hleft
      have hview : (pairsProposed ecc m x cfg left s).2.refitView = s.refitView := refitView_pairsProposed
      have hevents : ecc = [] → (pairsProposed ecc m x cfg left s).2.eventView = s.eventView := by
        rintro rfl
        exact eventView_pairsProposed_nil
      generalize pairsProposed ecc m x cfg left s = r at hexec hview hevents
      by_cases hlast : left = 0
      · simp only [if_pos hlast] at hexec
        have hraised := refitView_raise (passEnded m r.1 r.2) 0x0A01 m.tenant
          (leBytes 2 m.handle ++ zeros 2 ++ leBytes 4 r.1)
        refine ⟨_, _, hexec, (refit?_of_refitView hraised m.id).trans (refit?_passEnded _ hview hx),
          fun _ => ⟨rfl, ?granted, ?event, ?counted⟩, fun hmore => absurd hlast hmore⟩
        case granted =>
          have hdisp := congrArg RefitView.disp hraised
          exact (congrArg DispSt.granted hdisp).trans (granted_passEnded r.1 hview)
        case event => exact fun hecc hroom => evBuf_raise_passEnded _ (hevents hecc) hroom ..
        case counted => exact (tenantCounter_of_refitView hraised m.tenant (tRft 8)).trans (counter_passEnded r.1 hview)
      · simp only [if_neg hlast] at hexec
        exact ⟨_, _, hexec, refit?_modRefit_same ((refit?_of_refitView hview m.id).trans hx) fun _ => rfl,
          fun hend => absurd hend hlast, fun _ => ⟨rfl, rfl⟩⟩

end Sys2Proof.Machine
end

section
/-! SUPPORT. The canonical form of memory (State.memoryWf, R226, R227) through branches, folds and updates of one part. An
operation that writes no byte of memory has a lemma that its result has the form just when the state before had it; one that
writes, clears or resets bytes has a lemma that it keeps the form. -/

namespace Sys2Proof.Machine

/-! ## States and memories written out

The form reads the cells alone. `⟨id, id⟩` says so by one comparison of types; `Iff.rfl` on a whole state makes the kernel
compare every field. -/

@[simp] theorem memoryWf_mk (pending time boot ports eth endpoints ctr ctxs freeCtx trhQ stats banks walkers progs ridges slots
    rows restoring crnPort returned disp sensors mem models nextModel load feedback refits searches waymarks wmkUnit dma zth
    tenants fns taken due evBuf evSeq evLog mismatches releasing out freeIdx) :
    (State.mk pending time boot ports eth endpoints ctr ctxs freeCtx trhQ stats banks walkers progs ridges slots rows
      restoring crnPort returned disp sensors mem models nextModel load feedback refits searches waymarks wmkUnit dma zth
      tenants fns taken due evBuf evSeq evLog mismatches releasing out freeIdx).memoryWf ↔ Memory.wf mem = true := ⟨id, id⟩

@[simp] theorem wf_mk (cells poison plots col colClock fills refused tableBad patrol sramPatrol patrolFrom patrolSteps
    sramSteps period healQ healReads healed) :
    Memory.wf (MemSt.mk cells poison plots col colClock fills refused tableBad patrol sramPatrol patrolFrom patrolSteps
      sramSteps period healQ healReads healed) = cellsWf cells := by rw [Memory.wf]

@[simp] theorem wf_mem_iff (s : State) : Memory.wf s.mem = true ↔ s.memoryWf := ⟨id, id⟩

@[simp] theorem cellsWf_cells_iff (s : State) : cellsWf s.mem.cells = true ↔ s.memoryWf := ⟨id, id⟩

@[simp] theorem memoryWf_modMem (f : MemSt → MemSt) (s : State) : (modMem f s).memoryWf ↔ Memory.wf (f s.mem) = true :=
  ⟨id, id⟩

@[simp] theorem memoryWf_markLost (i : Nat) (s : State) : (markLost i s).memoryWf ↔ s.memoryWf := Iff.rfl

/-! ## Branches, folds and pairs -/

@[simp] theorem memoryWf_ite (p : Prop) [Decidable p] (s t : State) :
    (if p then s else t).memoryWf ↔ if p then s.memoryWf else t.memoryWf := by split <;> rfl

@[simp] theorem memoryWf_ite_fst {α : Type} (p : Prop) [Decidable p] (a b : State × α) :
    (if p then a else b).1.memoryWf ↔ if p then a.1.memoryWf else b.1.memoryWf := by split <;> rfl

@[simp] theorem memoryWf_ite_snd {α : Type} (p : Prop) [Decidable p] (a b : α × State) :
    (if p then a else b).2.memoryWf ↔ if p then a.2.memoryWf else b.2.memoryWf := by split <;> rfl

@[simp] theorem wf_ite (p : Prop) [Decidable p] (m n : MemSt) :
    Memory.wf (if p then m else n) = if p then Memory.wf m else Memory.wf n := by split <;> rfl

@[simp] theorem memoryWf_option_elim {α : Type} (o : Option α) (f : α → State) (s : State)
    (hf : ∀ a, (f a).memoryWf ↔ s.memoryWf) : (o.elim s f).memoryWf ↔ s.memoryWf := by
  cases o with
  | none => rfl
  | some a => exact hf a

@[simp] theorem memoryWf_option_elim_of {α : Type} (o : Option α) (f : α → State) (s : State)
    (hf : ∀ a, (f a).memoryWf) (h : s.memoryWf) : (o.elim s f).memoryWf := by
  cases o with
  | none => exact h
  | some a => exact hf a

/-- A fold has the form just when its start has, if that holds of each of its steps; `v` finds the state in what it
carries. -/
theorem memoryWf_foldl_iff_of {α β : Type} (v : α → State) (g : α → β → α)
    (hg : ∀ a x, (v (g a x)).memoryWf ↔ (v a).memoryWf) (l : List β) (a : α) :
    (v (l.foldl g a)).memoryWf ↔ (v a).memoryWf := by
  induction l generalizing a with
  | nil => rfl
  | cons x l ih => exact (ih (g a x)).trans (hg a x)

@[simp] theorem memoryWf_foldl_iff {β : Type} (g : State → β → State) (hg : ∀ s x, (g s x).memoryWf ↔ s.memoryWf) (l : List β)
    (s : State) : (l.foldl g s).memoryWf ↔ s.memoryWf := memoryWf_foldl_iff_of id g hg l s

@[simp] theorem memoryWf_foldl_fst_iff {β γ : Type} (g : State × γ → β → State × γ)
    (hg : ∀ a x, (g a x).1.memoryWf ↔ a.1.memoryWf) (l : List β) (a : State × γ) :
    (l.foldl g a).1.memoryWf ↔ a.1.memoryWf := memoryWf_foldl_iff_of Prod.fst g hg l a

@[simp] theorem memoryWf_foldl_snd_iff {β γ : Type} (g : γ × State → β → γ × State)
    (hg : ∀ a x, (g a x).2.memoryWf ↔ a.2.memoryWf) (l : List β) (a : γ × State) :
    (l.foldl g a).2.memoryWf ↔ a.2.memoryWf := memoryWf_foldl_iff_of Prod.snd g hg l a

/-- A fold keeps the form if each of its steps does; `v` finds the state in what it carries. -/
theorem memoryWf_foldl_of {α β : Type} (v : α → State) (g : α → β → α)
    (hg : ∀ a x, (v a).memoryWf → (v (g a x)).memoryWf) (l : List β) (a : α) (h : (v a).memoryWf) :
    (v (l.foldl g a)).memoryWf := by
  induction l generalizing a with
  | nil => exact h
  | cons x l ih => exact ih (g a x) (hg a x h)

@[simp] theorem memoryWf_foldl {β : Type} (g : State → β → State) (hg : ∀ s x, s.memoryWf → (g s x).memoryWf) (l : List β)
    (s : State) (h : s.memoryWf) : (l.foldl g s).memoryWf := memoryWf_foldl_of id g hg l s h

@[simp] theorem memoryWf_foldl_fst {β γ : Type} (g : State × γ → β → State × γ)
    (hg : ∀ a x, a.1.memoryWf → (g a x).1.memoryWf) (l : List β) (a : State × γ) (h : a.1.memoryWf) :
    (l.foldl g a).1.memoryWf := memoryWf_foldl_of Prod.fst g hg l a h

@[simp] theorem memoryWf_foldl_snd {β γ : Type} (g : γ × State → β → γ × State)
    (hg : ∀ a x, a.2.memoryWf → (g a x).2.memoryWf) (l : List β) (a : γ × State) (h : a.2.memoryWf) :
    (l.foldl g a).2.memoryWf := memoryWf_foldl_of Prod.snd g hg l a h

theorem memoryWf_of_eq_mk {α : Type} {x : α × State} {a : α} {u : State} (hx : x = (a, u)) : u.memoryWf ↔ x.2.memoryWf := by
  rw [hx]

/-! ## Outcomes -/

/-- A next state that the outcome gives has the form. -/
def keepsForm (o : Host.Outcome State Fault Refusal) : Prop := ∀ t, o = .next t → t.memoryWf

@[simp] theorem keepsForm_next (s : State) : keepsForm (.next s) ↔ s.memoryWf := by simp [keepsForm]

@[simp] theorem keepsForm_ite (p : Prop) [Decidable p] (a b : Host.Outcome State Fault Refusal) :
    keepsForm (if p then a else b) ↔ if p then keepsForm a else keepsForm b := by split <;> rfl

end Sys2Proof.Machine
end

section
/-! SUPPORT. Memory's canonical form through the shared operations, memory itself and the record path as far as the lanes
(chapters 3 to 5, 11). -/

namespace Sys2Proof.Machine

variable (s : State)

/-! ## Time, interrupts, events and record contexts -/

@[simp] theorem memoryWf_passTime (n : Nat) : (passTime n s).memoryWf ↔ s.memoryWf := by simp [passTime]
@[simp] theorem memoryWf_raiseCycle (evs : List Raised) : (raiseCycle evs s).memoryWf ↔ s.memoryWf := by simp [raiseCycle]
@[simp] theorem memoryWf_nextFree (w : Nat) : (nextFree w s).2.memoryWf ↔ s.memoryWf := by simp [nextFree]
@[simp] theorem memoryWf_charge (n : Nat) : (charge n s).memoryWf ↔ s.memoryWf := by simp [charge]
@[simp] theorem memoryWf_chargeWork (k nominal : Nat) : (chargeWork k nominal s).memoryWf ↔ s.memoryWf := by simp [chargeWork]

/-! ## Massif: plots, ECC, Col and self-heal -/

@[simp] theorem memoryWf_ownerFault (req t a : Nat) : (ownerFault req t a s).memoryWf ↔ s.memoryWf := by simp [ownerFault]

@[simp] theorem memoryWf_queueHeal (a : Nat) (evs : List Raised) : (queueHeal a s evs).1.memoryWf ↔ s.memoryWf := by
  unfold queueHeal
  split <;> simp

@[simp] theorem memoryWf_readWord (ecc : List EccFind) (req : Nat) (patrol : Bool) (a i : Nat) (se : State × List Raised) :
    (readWord ecc req patrol a i se).1.memoryWf ↔ se.1.memoryWf := by simp [readWord]
@[simp] theorem memoryWf_readWords (ecc : List EccFind) (req : Nat) (patrol : Bool) (a n : Nat) :
    (readWords ecc req patrol a n s).1.memoryWf ↔ s.memoryWf := by simp [readWords]
@[simp] theorem memoryWf_readMem (ecc : List EccFind) (req a n : Nat) :
    (readMem ecc req a n s).memoryWf ↔ s.memoryWf := by simp [readMem]
@[simp] theorem memoryWf_readWordsAt (ecc : List EccFind) (as : List Nat) :
    (readWordsAt ecc as s).memoryWf ↔ s.memoryWf := by simp [readWordsAt]
@[simp] theorem memoryWf_patrolRead (ecc : List EccFind) (a n : Nat) :
    (patrolRead ecc a n s).memoryWf ↔ s.memoryWf := by simp [patrolRead]
@[simp] theorem memoryWf_writeWord (ecc : List EccFind) (req a : Nat) (bs : List Byte) (i : Nat) (hs : s.memoryWf) :
    (writeWord ecc req a bs i s).2.memoryWf := by simp [writeWord, memPut_wf, hs]
@[simp] theorem memoryWf_writeAll (ecc : List EccFind) (req a : Nat) (bs : List Byte) (hs : s.memoryWf) :
    (writeAll ecc req a bs s).2.memoryWf := by simp +contextual [writeAll, hs]

@[simp] theorem memoryWf_writeStop (ecc : List EccFind) (req a : Nat) (bs : List Byte) (k i : Nat) (hs : s.memoryWf) :
    (writeStop ecc req a bs k i s).2.memoryWf := by
  induction k generalizing i s with
  | zero => exact hs
  | succ k ih =>
    simp only [writeStop]
    split <;> simp [ih, hs]

@[simp] theorem memoryWf_colMiss (req model line : Nat) : (colMiss req model line s).memoryWf ↔ s.memoryWf := by
  simp [colMiss]

@[simp] theorem memoryWf_colRead (req model line : Nat) : (colRead req model line s).memoryWf ↔ s.memoryWf := by
  unfold colRead
  dsimp only
  split <;> simp

@[simp] theorem memoryWf_clearRefused (model : Nat) (lines : List Nat) :
    (clearRefused model lines s).memoryWf ↔ s.memoryWf := by simp [clearRefused]
@[simp] theorem memoryWf_colInvalidate (a n : Nat) : (colInvalidate a n s).memoryWf ↔ s.memoryWf := by simp [colInvalidate]
@[simp] theorem memoryWf_freePlot (p : Nat) (hs : s.memoryWf) : (freePlot p s).memoryWf := by
  simp [freePlot, memoryWf_zeroRange, hs]
@[simp] theorem memoryWf_releasePlots (ps : List Nat) (hs : s.memoryWf) : (releasePlots ps s).memoryWf := by
  simp +contextual [releasePlots, hs]
@[simp] theorem memoryWf_patrolCharge (sram : Bool) : (patrolCharge sram s).memoryWf ↔ s.memoryWf := by simp [patrolCharge]

@[simp] theorem memoryWf_writeUnits (m : Model) (us : List (Nat × Nat × Nat × Nat × Nat)) (hs : s.memoryWf) :
    (writeUnits m us s).memoryWf :=
  memoryWf_foldl _ (fun s u hs => by split <;> simp [memoryWf_writeWhole, hs]) _ _ hs

@[simp] theorem memoryWf_zeroUnits (us : List (Nat × Nat × Nat × Nat × Nat)) (hs : s.memoryWf) :
    (zeroUnits us s).memoryWf := by simp +contextual [zeroUnits, memoryWf_zeroRange, hs]

@[simp] theorem memoryWf_refreshUnits (id : Nat) (hs : s.memoryWf) : (refreshUnits id s).memoryWf := by
  unfold refreshUnits
  split
  · exact hs
  · refine memoryWf_foldl _ (fun s u hs => ?_) _ _ hs
    split
    · exact hs
    · simp +contextual [memoryWf_writeWhole, hs]

@[simp] theorem memoryWf_fetchBlock (m : Model) (off : Nat) : (fetchBlock m off s).memoryWf ↔ s.memoryWf := by
  simp [fetchBlock]
@[simp] theorem memoryWf_startHeals : (startHeals s).memoryWf ↔ s.memoryWf :=
  (memoryWf_foldl_iff _ (fun s b => by split <;> simp) _ _).trans (by simp)
@[simp] theorem memoryWf_healFail (m : Model) (off reason : Nat) :
    (healFail m off reason s).memoryWf ↔ s.memoryWf := by simp [healFail]

@[simp] theorem memoryWf_settleHeals : (settleHeals s).memoryWf ↔ s.memoryWf := by
  refine (memoryWf_foldl_iff _ (fun s b => ?_) _ _).trans (memoryWf_modMem _ s)
  split <;> simp

section
variable {s} (h : s.memoryWf)
include h

theorem keepsForm_execColCacheFill (line : Nat) (ecc : List EccFind) (parityError : Bool) :
    keepsForm (execColCacheFill line ecc parityError s) := by
  unfold execColCacheFill
  split <;> simp [colInsert, h]

theorem keepsForm_execPatrolStep (ecc : List EccFind) : keepsForm (execPatrolStep ecc s) := by simp [execPatrolStep, h]

theorem keepsForm_execHealBlockReadDone (data : Option (List Byte)) (ecc : List EccFind) :
    keepsForm (execHealBlockReadDone data s ecc) := by
  unfold execHealBlockReadDone
  split
  · simp [h]
  · split
    · simp [h]
    · split
      · simp [h]
      · split
        · simp [h]
        next d =>
          extract_lets a u host
          have hu : u.memoryWf := by simpa [u] using h
          split
          · simp [memoryWf_writeWhole, hu]
          · simp [hu]

end

/-! ## Frames and control traffic -/

@[simp] theorem memoryWf_readyFrame (r : Reply) (kind : TxKind) (ctx : Option Nat) (msg : List Byte) (accepted : Nat)
    (scored : Bool) : (readyFrame r kind ctx msg accepted scored s).memoryWf ↔ s.memoryWf := by simp [readyFrame]
@[simp] theorem memoryWf_ctlAdmit (l : Nat) : (ctlAdmit l s).2.memoryWf ↔ s.memoryWf := by simp [ctlAdmit]
@[simp] theorem memoryWf_receiveControl (l : Nat) (asks isArp : Bool) (frame : List Byte) :
    (receiveControl l asks isArp frame s).memoryWf ↔ s.memoryWf := by simp [receiveControl]
@[simp] theorem memoryWf_sendControl (l : Nat) (vlan : Option (Nat × Nat)) (bytes : List Byte) :
    (sendControl l vlan bytes s).memoryWf ↔ s.memoryWf := by simp [sendControl]

section
variable {s} (h : s.memoryWf)
include h

theorem keepsForm_execArpReplySend (port : LPort) : keepsForm (execArpReplySend port s) := by
  unfold execArpReplySend
  dsimp only
  split <;> simp [h]

theorem keepsForm_execNeighbourAdvertisementSend (port : LPort) : keepsForm (execNeighbourAdvertisementSend port s) := by
  unfold execNeighbourAdvertisementSend
  dsimp only
  split <;> simp [h]

end

/-! ## Fabric messages -/

@[simp] theorem memoryWf_queueOut (i : Nat) (m : Msg) : (queueOut i m s).memoryWf ↔ s.memoryWf := by simp [queueOut]
@[simp] theorem memoryWf_deliver (m : Msg) : (deliver m s).memoryWf ↔ s.memoryWf := by simp [deliver]

@[simp] theorem memoryWf_routeMsg (m : Msg) : (routeMsg m s).2.memoryWf ↔ s.memoryWf := by
  unfold routeMsg
  dsimp only
  split
  · split <;> simp
  · split
    · simp
    · split
      · simp
      · split <;> simp

@[simp] theorem memoryWf_nakEvent (saddle op reason dst tag wmk tenant dtenant : Nat) :
    (nakEvent saddle op reason dst tag wmk tenant dtenant s).memoryWf ↔ s.memoryWf := by simp [nakEvent]
@[simp] theorem memoryWf_refuseMsg (m : Msg) (reason : Nat) : (refuseMsg m reason s).memoryWf ↔ s.memoryWf := by
  simp [refuseMsg]

@[simp] theorem memoryWf_forwardMsg (m : Msg) : (forwardMsg m s).memoryWf ↔ s.memoryWf := by
  unfold forwardMsg
  dsimp only
  split <;> simp

@[simp] theorem memoryWf_sendMsg (bytes : List Byte) (ctx : Option Nat) : (sendMsg bytes ctx s).2.memoryWf ↔ s.memoryWf := by
  unfold sendMsg
  dsimp only
  split <;> simp

@[simp] theorem memoryWf_send (bytes : List Byte) : (send bytes s).memoryWf ↔ s.memoryWf := by simp [send]

/-! ## The end of a record -/

@[simp] theorem memoryWf_returnBlock (c : Nat) : (returnBlock c s).memoryWf ↔ s.memoryWf := by
  unfold returnBlock
  split
  · rfl
  · split <;> simp

@[simp] theorem memoryWf_dropWork (c : Nat) : (dropWork c s).memoryWf ↔ s.memoryWf := by simp [dropWork]
@[simp] theorem memoryWf_freeContext (c : Nat) (hs : s.memoryWf) : (freeContext c s).memoryWf := by
  simp [freeContext, memoryWf_writeWhole, hs]

@[simp] theorem memoryWf_freeContext? (c : Option Nat) (hs : s.memoryWf) : (freeContext? c s).memoryWf := by
  unfold freeContext?
  split <;> simp [hs]

@[simp] theorem memoryWf_stageAnswers (g : Nat) (hs : s.memoryWf) : (stageAnswers g s).memoryWf := by
  simp +contextual [stageAnswers, hs]
@[simp] theorem memoryWf_ringAnswer (g number element : Nat) (reason : Bool) (bytes : List Byte) (ctx : Option Nat)
    (hs : s.memoryWf) : (ringAnswer g number element reason bytes ctx s).memoryWf := by simp [ringAnswer, hs]
@[simp] theorem memoryWf_dropCandidates (slot : Nat) (hs : s.memoryWf) : (dropCandidates slot s).memoryWf := by
  simp +contextual [dropCandidates, hs]

@[simp] theorem memoryWf_endSearch (slot : Nat) (timeLimit : Bool) (hs : s.memoryWf) :
    (endSearch slot timeLimit s).memoryWf := by
  unfold endSearch
  split
  · exact hs
  · split
    · split
      · split <;> simp [hs]
      · split <;> simp [hs]
    · split
      · split <;> simp [hs]
      · split <;> simp [hs]

@[simp] theorem memoryWf_dropSearch (slot : Nat) (hs : s.memoryWf) : (dropSearch slot s).memoryWf := by simp [dropSearch, hs]
@[simp] theorem memoryWf_sendTerm (c : Nat) (msg : List Byte) (hs : s.memoryWf) : (sendTerm c msg s).memoryWf := by
  simp [sendTerm, hs]

@[simp] theorem memoryWf_endRecord (c status reason : Nat) (hs : s.memoryWf) : (endRecord c status reason s).memoryWf := by
  unfold endRecord
  split
  · exact hs
  · split
    · split <;> simp [hs]
    · split <;> simp [hs]

@[simp] theorem memoryWf_unitFault (c reason : Nat) (hs : s.memoryWf) : (unitFault c reason s).memoryWf := by
  simp [unitFault, hs]

@[simp] theorem memoryWf_repeatOr (c : Nat) (isPoison : Bool) (again : State → State)
    (hagain : ∀ t, (again t).memoryWf ↔ t.memoryWf) (hs : s.memoryWf) : (repeatOr c isPoison again s).memoryWf := by
  unfold repeatOr
  split <;> simp [hagain, hs]

@[simp] theorem memoryWf_restartRecord (c : Nat) : (restartRecord c s).memoryWf ↔ s.memoryWf := by simp [restartRecord]

@[simp] theorem memoryWf_cairnFault (c : Nat) (hs : s.memoryWf) : (cairnFault c s).memoryWf := by
  unfold cairnFault
  split
  · exact hs
  · split <;> simp [hs]

@[simp] theorem memoryWf_modelPoison (c : Nat) (never : Bool) (hs : s.memoryWf) : (modelPoison c never s).memoryWf := by
  unfold modelPoison
  split <;> simp [hs]

/-! ## Trailhead -/

@[simp] theorem memoryWf_applyStats (id pipe : Nat) (us : List StatUpd) :
    (applyStats id pipe us s).memoryWf ↔ s.memoryWf := by simp [applyStats]

theorem memoryWf_takeCtx {r : RecCtx} {s : State} {y : Nat × State} (h : takeCtx r s = some y) :
    y.2.memoryWf ↔ s.memoryWf := by
  unfold takeCtx at h
  split at h
  · cases h
  · cases h
    simp

@[simp] theorem memoryWf_rateAllows (t : Nat) : (rateAllows t s).2.memoryWf ↔ s.memoryWf := by simp [rateAllows]
@[simp] theorem memoryWf_earlyAnswer (t : Nat) (r : Reply) (h : Hdr) (status reason offset : Nat) :
    (earlyAnswer t r h status reason offset s).memoryWf ↔ s.memoryWf := by simp [earlyAnswer]
@[simp] theorem memoryWf_commitRecord (c pipe : Nat) (m : Model) (b : Body) (reason : Option ReasonReq) :
    (commitRecord c pipe m b reason s).memoryWf ↔ s.memoryWf := by simp [commitRecord]

@[simp] theorem memoryWf_malformed (c : Nat) (r : RecCtx) (reason offset : Nat) (hs : s.memoryWf) :
    (malformed c r reason offset s).memoryWf := by
  unfold malformed
  split <;> simp [hs]

@[simp] theorem memoryWf_countIgnored (r : RecCtx) (b : BodyIn) : (countIgnored r b s).memoryWf ↔ s.memoryWf := by
  unfold countIgnored
  split <;> simp

@[simp] theorem memoryWf_tableFind (b : BodyIn) (m : Model) (i : Nat) :
    (tableFind b m i s).memoryWf ↔ s.memoryWf := by simp [tableFind]
@[simp] theorem memoryWf_bodyPoison (c : Nat) (m : Model) (b : BodyIn) (tables : List Nat) (hs : s.memoryWf) :
    (bodyPoison c m b tables s).memoryWf := by simp [bodyPoison, hs]

@[simp] theorem memoryWf_decideBody (c : Nat) (b : BodyIn) (hs : s.memoryWf) : (decideBody c b s).memoryWf := by
  unfold decideBody
  split
  · simp [hs]
  · split <;> simp [hs]

@[simp] theorem memoryWf_drainLane (n pipe : Nat) (hs : s.memoryWf) : (drainLane n pipe s).memoryWf := by
  induction n generalizing s with
  | zero => exact hs
  | succ n ih =>
    unfold drainLane
    split
    · exact hs
    · split <;> simp [ih, hs]

@[simp] theorem memoryWf_runLane (pipe : Nat) (hs : s.memoryWf) : (runLane pipe s).memoryWf := by simp [runLane, hs]
@[simp] theorem memoryWf_enterLane (c : Nat) (m : Model) (b : BodyIn) (hs : s.memoryWf) :
    (enterLane c m b s).memoryWf := by
  unfold enterLane
  extract_lets reads u v
  have hv : v.memoryWf ↔ u.memoryWf := by simp [v]
  simp [hv, u, hs]

@[simp] theorem memoryWf_readRefused (c : Nat) (again : State → State) (hagain : ∀ t, (again t).memoryWf ↔ t.memoryWf)
    (hs : s.memoryWf) : (readRefused c again s).memoryWf := by
  unfold readRefused
  split <;> simp [hagain, hs]

@[simp] theorem memoryWf_sendPfc (l pcp quanta : Nat) : (sendPfc l pcp quanta s).memoryWf ↔ s.memoryWf := by simp [sendPfc]
@[simp] theorem memoryWf_checkXoff (l pcp : Nat) : (checkXoff l pcp s).memoryWf ↔ s.memoryWf := by simp [checkXoff]
@[simp] theorem memoryWf_pfcAction (l mask : Nat) (quanta : List Nat) :
    (pfcAction l mask quanta s).memoryWf ↔ s.memoryWf := by simp [pfcAction]

@[simp] theorem memoryWf_step13to16 (t : Nat) (r : Reply) (h : Hdr) :
    (step13to16 t r h s).2.memoryWf ↔ s.memoryWf := by
  unfold step13to16
  split
  · rfl
  · split
    · rfl
    · split
      · rfl
      · split
        · rfl
        · split
          next hy => exact memoryWf_takeCtx hy
          · rfl

@[simp] theorem memoryWf_acceptFeedback (m : Model) (recId label channel : Nat) :
    (acceptFeedback m recId label channel s).memoryWf ↔ s.memoryWf := by simp [acceptFeedback]

@[simp] theorem memoryWf_receiveFeedback (t : Nat) (r : Reply) (h : Hdr) (msg : List Byte) :
    (receiveFeedback t r h msg s).memoryWf ↔ s.memoryWf := by
  unfold receiveFeedback
  split
  · simp
  · split
    · simp
    · split <;> simp

@[simp] theorem memoryWf_receiveBody (c : Nat) (r : Reply) (h : Hdr) (msg : List Byte) (len : Nat) (k : FrameCheck)
    (hs : s.memoryWf) : (receiveBody c r h msg len k s).memoryWf := by
  unfold receiveBody
  split <;> simp [hs]

@[simp] theorem memoryWf_dropHeld (held : Option Held) (hs : s.memoryWf) : (dropHeld held s).memoryWf := by
  unfold dropHeld
  split <;> simp [hs]

@[simp] theorem memoryWf_receiveMessage (rx : Rx) (len : Nat) (k : FrameCheck) (held : Option Held) (hs : s.memoryWf) :
    (receiveMessage rx len k held s).memoryWf := by
  unfold receiveMessage
  split
  · simp [hs]
  · split
    · simp [hs]
    · split
      · simp [hs]
      · split
        · simp [hs]
        · split
          · simp [hs]
          · simp [hs]
          · dsimp only
            split
            · simp [hs]
            · split <;> simp [hs]

@[simp] theorem memoryWf_countFrame (l len : Nat) (k : FrameCheck) :
    (countFrame l len k s).memoryWf ↔ s.memoryWf := by simp [countFrame]

@[simp] theorem memoryWf_receiveFrame (l : Nat) (frame : List Byte) (k : FrameCheck) (hs : s.memoryWf) :
    (receiveFrame l frame k s).memoryWf := by
  unfold receiveFrame
  split
  · simp [hs]
  · split
    · simp [hs]
    · split
      · simp [hs]
      · dsimp only
        split
        · simp [hs]
        · split
          · simp [hs]
          · split
            · simp [hs]
            · split <;> simp [hs]

@[simp] theorem memoryWf_receiveFlowControl (l length k : Nat) :
    (receiveFlowControl l length k s).2.memoryWf ↔ s.memoryWf := by simp [receiveFlowControl]
@[simp] theorem memoryWf_ringEarly (g number element : Nat) (msg : List Byte) (status reason offset : Nat) (hs : s.memoryWf) :
    (ringEarly g number element msg status reason offset s).memoryWf := by simp [ringEarly, hs]

@[simp] theorem memoryWf_ringElement (g number element : Nat) (reasonSlots : Bool) (t : Nat) (msg : List Byte)
    (tables : List EccFind) (hs : s.memoryWf) : (ringElement g number element reasonSlots t msg tables s).memoryWf := by
  unfold ringElement
  dsimp only
  split
  · simp [hs]
  · split
    · exact hs
    · split
      · simp [hs]
      · split
        · simp [hs]
        · split
          · split <;> simp [hs]
          · split
            · simp [hs]
            next hy => exact memoryWf_enterLane _ _ _ _ ((memoryWf_takeCtx hy).mpr hs)

section
variable {s} (h : s.memoryWf)
include h

theorem keepsForm_execTrailheadTableReadDone (ctx : CtxId) : keepsForm (execTrailheadTableReadDone ctx s) := by
  unfold execTrailheadTableReadDone
  split
  · simp [h]
  next m _ =>
    have hreads (lines : List Nat) (t : State) : (lines.foldl (fun s l => colRead 2 m.id l s) t).memoryWf ↔ t.memoryWf := by
      simp
    split <;> simp [hreads, h]

theorem keepsForm_execRecordStart (port : LPort) (head : List Byte) : keepsForm (execRecordStart port head s) := by
  unfold execRecordStart
  split
  · simp [h]
  · split
    · simp [h]
    · split <;> simp [h]

theorem keepsForm_execRecordFrameRx (port : LPort) (frame : List Byte) (check : FrameCheck) :
    keepsForm (execRecordFrameRx port frame check s) := by simp [execRecordFrameRx, h]
theorem keepsForm_execFeedbackFrameRx (port : LPort) (frame : List Byte) (check : FrameCheck) :
    keepsForm (execFeedbackFrameRx port frame check s) := by simp [execFeedbackFrameRx, h]
theorem keepsForm_execArpRequestRx (port : LPort) (frame : List Byte) (check : FrameCheck) :
    keepsForm (execArpRequestRx port frame check s) := by simp [execArpRequestRx, h]
theorem keepsForm_execNeighbourSolicitationRx (port : LPort) (frame : List Byte) (check : FrameCheck) :
    keepsForm (execNeighbourSolicitationRx port frame check s) := by simp [execNeighbourSolicitationRx, h]
theorem keepsForm_execPfcFrameRx (port : LPort) (length : Nat) (mask : BitVec 8) (quanta : List Nat) :
    keepsForm (execPfcFrameRx port length mask quanta s) := by simp [execPfcFrameRx, h]
theorem keepsForm_execPauseFrameRx (port : LPort) (length : Nat) :
    keepsForm (execPauseFrameRx port length s) := by simp [execPauseFrameRx, h]
theorem keepsForm_execPfcXoffRepeat (port : LPort) (pcp : Fin 8) :
    keepsForm (execPfcXoffRepeat port pcp s) := by simp [execPfcXoffRepeat, h]
theorem keepsForm_execPfcXonSend (port : LPort) (pcp : Fin 8) :
    keepsForm (execPfcXonSend port pcp s) := by simp [execPfcXonSend, h]
theorem keepsForm_execPfcPauseExpiry (port : LPort) (pcp : Fin 8) :
    keepsForm (execPfcPauseExpiry port pcp s) := by simp [execPfcPauseExpiry, h]
theorem keepsForm_execLinkUp (port : LPort) : keepsForm (execLinkUp port s) := by simp [execLinkUp, h]
theorem keepsForm_execLinkDown (port : LPort) (cut : Option Nat) :
    keepsForm (execLinkDown port cut s) := by simp [execLinkDown, h]
theorem keepsForm_execPortDrainComplete (port : LPort) :
    keepsForm (execPortDrainComplete port s) := by simp [execPortDrainComplete, h]
theorem keepsForm_execFecLockAttemptFail (port : LPort) :
    keepsForm (execFecLockAttemptFail port s) := by simp [execFecLockAttemptFail, h]

end

end Sys2Proof.Machine
end

section
/-! SUPPORT. Memory's canonical form through Signpost, the Ridges, Cairn, Detour, Summit and leaf refit (chapters 6 to 9,
17). -/

namespace Sys2Proof.Machine

variable (s : State)

/-! ## Signpost -/

@[simp] theorem memoryWf_issueStep (c : Nat) (o : StepOut) : (issueStep c o s).memoryWf ↔ s.memoryWf := by simp [issueStep]
@[simp] theorem memoryWf_missStep (c op : Nat) : (missStep c op s).memoryWf ↔ s.memoryWf := by simp [missStep]
@[simp] theorem memoryWf_countSearch (b n : Nat) : (countSearch b n s).memoryWf ↔ s.memoryWf := by simp [countSearch]

@[simp] theorem memoryWf_runSearch (c : Nat) (st : Step) (key : Option Int) (hs : s.memoryWf) :
    (runSearch c st key s).memoryWf := by
  unfold runSearch
  split <;> simp [hs]

@[simp] theorem memoryWf_continueWalk (c w i : Nat) (m : Model) (p : PatternSet) (str : List Byte) :
    (continueWalk c w i m p str s).memoryWf ↔ s.memoryWf := by
  unfold continueWalk
  split <;> simp

@[simp] theorem memoryWf_rerunDerivation (c : Nat) : (rerunDerivation c s).memoryWf ↔ s.memoryWf := by
  unfold rerunDerivation
  split <;> simp

@[simp] theorem memoryWf_fenceWalker (c w : Nat) (hs : s.memoryWf) : (fenceWalker c w s).memoryWf := by
  unfold fenceWalker
  dsimp only
  split <;> simp [hs]

@[simp] theorem memoryWf_refillWalker (w : Nat) (m : Model) (p : PatternSet) (str : List Byte) :
    (refillWalker w m p str s).memoryWf ↔ s.memoryWf := by
  unfold refillWalker
  split <;> simp

@[simp] theorem memoryWf_lateBy (c i since : Nat) : (lateBy c i since s).memoryWf ↔ s.memoryWf := by simp [lateBy]
@[simp] theorem memoryWf_poisonWalk (c i : Nat) : (poisonWalk c i s).memoryWf ↔ s.memoryWf := by simp [poisonWalk]

@[simp] theorem memoryWf_sendRecordMc (c : Nat) : (sendRecordMc c s).memoryWf ↔ s.memoryWf := by
  unfold sendRecordMc
  split <;> simp

@[simp] theorem memoryWf_handOver (c : Nat) : (handOver c s).memoryWf ↔ s.memoryWf := by
  unfold handOver
  split <;> simp

@[simp] theorem memoryWf_passSkips (n pipe : Nat) : (passSkips n pipe s).memoryWf ↔ s.memoryWf := by
  induction n generalizing s with
  | zero => rfl
  | succ n ih =>
    unfold passSkips
    split
    · rfl
    · split
      · rfl
      · split <;> simp [ih]

@[simp] theorem memoryWf_fillDispatch : (fillDispatch s).memoryWf ↔ s.memoryWf := by simp [fillDispatch]
@[simp] theorem memoryWf_fenceBank (b cause : Nat) : (fenceBank b cause s).memoryWf ↔ s.memoryWf := by simp [fenceBank]
@[simp] theorem memoryWf_restoreEntry (b e : Nat) (readBackBad : Bool) :
    (restoreEntry b e readBackBad s).memoryWf ↔ s.memoryWf := by simp [restoreEntry]

@[simp] theorem memoryWf_entryApply (bank : Nat) (o : EntryOp) : (entryApply bank o s).memoryWf ↔ s.memoryWf := by
  unfold entryApply
  split <;> simp

@[simp] theorem memoryWf_runEntryOps (bank i : Nat) (ops : List EntryOp) :
    (runEntryOps bank i ops s).2.memoryWf ↔ s.memoryWf := by
  induction ops generalizing i s with
  | nil => rfl
  | cons o r ih =>
    unfold runEntryOps
    split <;> simp [ih]

@[simp] theorem memoryWf_releaseBank (b : Nat) : (releaseBank b s).memoryWf ↔ s.memoryWf := by simp [releaseBank]

section
variable {s} (h : s.memoryWf)
include h

theorem keepsForm_execSignpostEntry (pipeline : Fin 2) : keepsForm (execSignpostEntry pipeline s) := by
  unfold execSignpostEntry
  split
  · simp [h]
  · split
    · simp [h]
    · split
      · simp [h]
      · split
        · simp [h]
        · split
          · dsimp only
            split
            · simp [h]
            · split <;> simp [h]
          · simp [h]

theorem keepsForm_execTernaryStep (ctx : CtxId) : keepsForm (execTernaryStep ctx s) := by
  unfold execTernaryStep
  split <;> simp [h]

theorem keepsForm_execRangeStep (ctx : CtxId) : keepsForm (execRangeStep ctx s) := by
  unfold execRangeStep
  split <;> simp [h]

theorem keepsForm_execNextStep (ctx : CtxId) : keepsForm (execNextStep ctx s) := by
  unfold execNextStep
  split
  · split
    · split <;> simp [h]
    · simp [h]
  · simp [h]

theorem keepsForm_execAutomatonStep (ctx : CtxId) (parity : WalkerParity) : keepsForm (execAutomatonStep ctx parity s) := by
  unfold execAutomatonStep
  split
  · split
    · split
      · simp [h]
      · split
        · simp [h]
        · split <;> simp [h]
    · simp [h]
  · simp [h]

theorem keepsForm_execWalkerMissReadDone (ctx : CtxId) : keepsForm (execWalkerMissReadDone ctx s) := by
  unfold execWalkerMissReadDone
  split
  · simp [h]
  · split
    · split
      · simp [h]
      · split
        · simp [h]
        · split
          · simp [h]
          · split
            · simp [h]
            · dsimp only
              split <;> simp [h]
    · simp [h]

theorem keepsForm_execStepResult (ctx : CtxId) : keepsForm (execStepResult ctx s) := by
  unfold execStepResult
  split
  · simp [h]
  · split <;> simp [h]

theorem keepsForm_execShadowCompare (bank : BankId) (found : Option FoundEntry) (shadow : List EccFind) (readBackBad : Bool) :
    keepsForm (execShadowCompare bank found shadow readBackBad s) := by
  unfold execShadowCompare
  dsimp only
  split
  · simp [h]
  · split
    · simp [h]
    · split <;> simp [h]

end

/-! ## Ridges -/

@[simp] theorem memoryWf_readMaster (id : SetId) (q : Nat) : (readMaster id q s).memoryWf ↔ s.memoryWf := by
  unfold readMaster
  split <;> simp

@[simp] theorem memoryWf_chargeLoad (id : SetId) (q : Nat) : (chargeLoad id q s).memoryWf ↔ s.memoryWf := by simp [chargeLoad]
@[simp] theorem memoryWf_requestAgain (c slot k : Nat) (hs : s.memoryWf) :
    (requestAgain c slot k s).memoryWf := by simp [requestAgain, hs]

@[simp] theorem memoryWf_lostPass (es : List QEntry) (replayable : Bool) (c : Nat) (hs : s.memoryWf) :
    (lostPass es replayable c s).memoryWf := by
  unfold lostPass
  split
  · exact hs
  · split <;> simp [hs]

@[simp] theorem memoryWf_bindStandIn (q : Nat) (x : Ridge) (sets : List SetId) :
    (bindStandIn q x sets s).memoryWf ↔ s.memoryWf := by simp [bindStandIn]

@[simp] theorem memoryWf_fenceRidge (r mask : Nat) (hs : s.memoryWf) : (fenceRidge r mask s).memoryWf := by
  unfold fenceRidge
  dsimp only
  split
  · exact hs
  · split <;> simp +contextual [hs]

@[simp] theorem memoryWf_sramRead (q words : Nat) (ecc : List EccFind) (hs : s.memoryWf) :
    (sramRead q words ecc s).2.memoryWf := by simp [sramRead, hs]
@[simp] theorem memoryWf_loadRefused (id : SetId) (q : Nat) (hs : s.memoryWf) : (loadRefused id q s).memoryWf := by
  simp +contextual [loadRefused, hs]
@[simp] theorem memoryWf_takePositions (q k : Nat) (b : Bound) :
    (takePositions q k b s).memoryWf ↔ s.memoryWf := by simp [takePositions]

@[simp] theorem memoryWf_issuePass (q : Nat) (b : Bound) (r : RecCtx) (m : Model) (id : SetId) (faults : RidgeFaults)
    (hs : s.memoryWf) : (issuePass q b r m id faults s).memoryWf := by
  unfold issuePass
  split <;> simp [hs]

section
variable {s} (h : s.memoryWf)
include h

theorem keepsForm_execBroadcastDone (ctx : CtxId) (ridge : RidgeId) :
    keepsForm (execBroadcastDone ctx ridge s) := by simp [execBroadcastDone, h]

theorem keepsForm_execSetLoadStart (ridge : RidgeId) : keepsForm (execSetLoadStart ridge s) := by
  unfold execSetLoadStart
  dsimp only
  split
  · simp [h]
  · split <;> simp [h]

theorem keepsForm_execSetLoadDone (ridge : RidgeId) (ecc : List EccFind) : keepsForm (execSetLoadDone ridge ecc s) := by
  unfold execSetLoadDone
  dsimp only
  split <;> simp [h]

theorem keepsForm_execStandInLoadDone (ridge : RidgeId) : keepsForm (execStandInLoadDone ridge s) := by
  unfold execStandInLoadDone
  dsimp only
  split
  · simp [h]
  · split <;> simp [h]

theorem keepsForm_execPassIssue (ridge : RidgeId) (faults : RidgeFaults) : keepsForm (execPassIssue ridge faults s) := by
  unfold execPassIssue
  dsimp only
  split
  · simp [h]
  · split
    · simp [h]
    · split <;> simp [h]

theorem keepsForm_execPartialsLeaveRidge (ridge : RidgeId) : keepsForm (execPartialsLeaveRidge ridge s) := by
  unfold execPartialsLeaveRidge
  split <;> simp [h]

theorem keepsForm_execRidgeSramPatrolStep (ecc : List EccFind) :
    keepsForm (execRidgeSramPatrolStep ecc s) := by simp [execRidgeSramPatrolStep, h]

end

/-! ## Refit areas -/

@[simp] theorem memoryWf_areaWrite (x : RefitSt) (off : Nat) (bs : List Byte) (hs : s.memoryWf) :
    (areaWrite x off bs s).memoryWf := by simp +contextual [areaWrite, memoryWf_writeWhole, hs]
@[simp] theorem memoryWf_areaRead (ecc : List EccFind) (x : RefitSt) (off n : Nat) :
    (areaRead ecc x off n s).memoryWf ↔ s.memoryWf := by simp [areaRead]

@[simp] theorem memoryWf_traceWrite (m : Model) (r : RecCtx) (hs : s.memoryWf) : (traceWrite m r s).memoryWf := by
  unfold traceWrite
  split <;> simp [hs]

@[simp] theorem memoryWf_lookupReads (ecc : List EccFind) (m : Model) (x : RefitSt) (recId : Nat) :
    (lookupReads ecc m x recId s).memoryWf ↔ s.memoryWf := by simp [lookupReads]

/-! ## Cairn -/

@[simp] theorem memoryWf_putSlot (i : Nat) (v : Val) : (putSlot i v s).memoryWf ↔ s.memoryWf := by simp [putSlot]
@[simp] theorem memoryWf_writeBlock (b : Nat) (vals : List Val) : (writeBlock b vals s).memoryWf ↔ s.memoryWf := by
  simp [writeBlock]
@[simp] theorem memoryWf_preload (b : Nat) (m : Model) (r : RecCtx) : (preload b m r s).memoryWf ↔ s.memoryWf := by
  simp [preload]

@[simp] theorem memoryWf_rangeFault (c slot pass cause : Nat) (hs : s.memoryWf) :
    (rangeFault c slot pass cause s).memoryWf := by
  unfold rangeFault
  split <;> simp [hs]

@[simp] theorem memoryWf_bindOn (c : Nat) (r : RecCtx) (m : Model) (prio : Nat) :
    (bindOn c r m prio s).memoryWf ↔ s.memoryWf :=
  memoryWf_foldl_iff _ (fun s j => by split <;> simp) _ _

@[simp] theorem memoryWf_askPort (c n : Nat) : (askPort c n s).memoryWf ↔ s.memoryWf := by simp [askPort]
@[simp] theorem memoryWf_takeBlock (c : Nat) (r : RecCtx) (m : Model) (b : Nat) :
    (takeBlock c r m b s).memoryWf ↔ s.memoryWf := by simp [takeBlock]

@[simp] theorem memoryWf_bindPass (c : Nat) : (bindPass c s).memoryWf ↔ s.memoryWf := by
  unfold bindPass
  split
  · rfl
  · split <;> simp

@[simp] theorem memoryWf_unplaced (c : Nat) (hs : s.memoryWf) : (unplaced c s).memoryWf := by
  unfold unplaced
  split <;> simp [hs]

@[simp] theorem memoryWf_addRow (img : Image) (recId b : Nat) (x : Row) :
    (addRow img recId b x s).memoryWf ↔ s.memoryWf := by simp [addRow]

@[simp] theorem memoryWf_nextStage (c : Nat) (r : RecCtx) (m : Model) (st : Stage) (vals : List Val) (hs : s.memoryWf) :
    (nextStage c r m st vals s).memoryWf := by
  unfold nextStage
  dsimp only
  split
  · simp [hs]
  · split
    · split <;> simp [-ridges_returnBlock, hs]
    · simp [-ridges_returnBlock, hs]

@[simp] theorem memoryWf_memberDone (c : Nat) (r : RecCtx) (m : Model) (home homeCtx : Nat) (vals : List Val)
    (hs : s.memoryWf) : (memberDone c r m home homeCtx vals s).memoryWf := by simp [memberDone, hs]

@[simp] theorem memoryWf_finalRow (c : Nat) (hs : s.memoryWf) : (finalRow c s).memoryWf := by
  unfold finalRow
  split
  · exact hs
  · split
    · split <;> simp [hs]
    · exact hs

@[simp] theorem memoryWf_pumpOut (hs : s.memoryWf) : (pumpOut s).memoryWf := by simp +contextual [pumpOut, hs]

@[simp] theorem memoryWf_restartInBlock (c : Nat) : (restartInBlock c s).memoryWf ↔ s.memoryWf := by
  unfold restartInBlock
  split
  · rfl
  · dsimp only
    split
    · split <;> simp
    · simp

@[simp] theorem memoryWf_restoreFailed (c a : Nat) (evs : List Raised) (r : RecCtx) (hs : s.memoryWf) :
    (restoreFailed c a evs r s).memoryWf := by
  unfold restoreFailed
  split <;> simp [hs]

@[simp] theorem memoryWf_portCycle : (portCycle s).memoryWf ↔ s.memoryWf := by simp [portCycle]

section
variable {s} (h : s.memoryWf)
include h

theorem keepsForm_execPassBind (ctx : CtxId) : keepsForm (execPassBind ctx s) := by
  unfold execPassBind
  split
  · simp [h]
  · split
    · simp [h]
    · split
      · simp [h]
      · split
        · simp [h]
        · split
          · dsimp only
            split <;> simp [h]
          · dsimp only
            split <;> simp [h]

theorem keepsForm_execPartialArrival (ridge : RidgeId) : keepsForm (execPartialArrival ridge s) := by
  unfold execPartialArrival
  split <;> simp [h]

theorem keepsForm_execRowAdd (ctx : CtxId) (eccFault : Bool) : keepsForm (execRowAdd ctx eccFault s) := by
  unfold execRowAdd
  split
  · simp [h]
  · split <;> simp [h]

theorem keepsForm_execParkEntryWritten (ctx : CtxId) : keepsForm (execParkEntryWritten ctx s) := by
  unfold execParkEntryWritten
  split
  · simp [h]
  · split <;> simp [memoryWf_writeWhole, h]

theorem keepsForm_execRestoreDone (ctx : CtxId) (ecc : List EccFind) : keepsForm (execRestoreDone ctx ecc s) := by
  unfold execRestoreDone
  split
  · exact (keepsForm_next _).mpr h
  next r hr =>
    split
    next b m hb hm =>
      have hread : (readWords ecc 4 false (swbAddr ctx) (128 + 8 * m.image.channels) s).1.memoryWf := by simpa using h
      split
      · exact (keepsForm_next _).mpr h
      · split
        · simp [h]
        · dsimp only
          split <;> simp [hread]
    · exact (keepsForm_next _).mpr h

end

/-! ## Detour -/

@[simp] theorem memoryWf_requestCands (slot : Nat) (x : Search) :
    (requestCands slot x s).memoryWf ↔ s.memoryWf := by simp [requestCands]
@[simp] theorem memoryWf_beginStep (slot : Nat) (d : DetourCfg) (x : Search) (hs : s.memoryWf) :
    (beginStep slot d x s).memoryWf := by simp [beginStep, hs]
@[simp] theorem memoryWf_startSearch (slot : Nat) (d : DetourCfg) (m : Model) (r : RecCtx) (req : ReasonReq) (y : Nat)
    (hs : s.memoryWf) : (startSearch slot d m r req y s).memoryWf := by simp [startSearch, hs]

@[simp] theorem memoryWf_stepChoice (slot : Nat) (d : DetourCfg) (x : Search) (timeLimit : Bool) (hs : s.memoryWf) :
    (stepChoice slot d x timeLimit s).memoryWf := by
  unfold stepChoice
  extract_lets y r u v
  split
  · simp [hs]
  · have hv : v.memoryWf ↔ s.memoryWf := by simp [v, u, hs]
    split
    · simp [hv, hs]
    · split <;> simp [hv, hs]

section
variable {s} (h : s.memoryWf)
include h

theorem keepsForm_execCandidateResult (ctx : CtxId) : keepsForm (execCandidateResult ctx s) := by
  unfold execCandidateResult
  split
  · simp [h]
  · split
    · split
      · simp [h]
      · split <;> simp [h]
    · simp [h]

theorem keepsForm_execMoveChoice (slot : Fin 16) : keepsForm (execMoveChoice slot s) := by
  unfold execMoveChoice
  split
  · simp [h]
  · split <;> simp [h]

theorem keepsForm_execDetourTimeLimit (slot : Fin 16) : keepsForm (execDetourTimeLimit slot s) := by
  unfold execDetourTimeLimit
  split
  · simp [h]
  · split <;> simp [h]

end

/-! ## Summit -/

@[simp] theorem memoryWf_sendScore (c : Nat) (r : RecCtx) (msg : List Byte) (hs : s.memoryWf) :
    (sendScore c r msg s).memoryWf := by
  unfold sendScore
  split <;> simp [hs]

@[simp] theorem memoryWf_linkDownDrop (l : Nat) (f : TxFrame) : (linkDownDrop l f s).memoryWf ↔ s.memoryWf := by
  simp [linkDownDrop]
@[simp] theorem memoryWf_latency (l n : Nat) : (latency l n s).memoryWf ↔ s.memoryWf := by simp [latency]

section
variable {s} (h : s.memoryWf)
include h

theorem keepsForm_execSummitFusedOutput (ctx : CtxId) : keepsForm (execSummitFusedOutput ctx s) := by
  unfold execSummitFusedOutput
  split
  · simp [h]
  · split <;> simp [h]

theorem keepsForm_execScoreFrameAssembly (ctx : CtxId) : keepsForm (execScoreFrameAssembly ctx s) := by
  unfold execScoreFrameAssembly
  split
  · simp [h]
  · split
    · simp [h]
    · split
      · simp [h]
      · extract_lets traced u want find v w y
        have hu : u.memoryWf := by simp [u, h]
        have hy : y.memoryWf := by simp [y, w, v, hu]
        clear_value find
        split <;> simp [hy]
    · simp [h]

theorem keepsForm_execTransmitQueueEntry (port : LPort) : keepsForm (execTransmitQueueEntry port s) := by
  unfold execTransmitQueueEntry
  split
  · dsimp only
    split <;> simp [h]
  · dsimp only
    split <;> simp [h]

theorem keepsForm_execTxMacHandoff (port : LPort) : keepsForm (execTxMacHandoff port s) := by
  unfold execTxMacHandoff
  dsimp only
  split
  · simp [h]
  · split
    · simp [h]
    · split
      · simp [h]
      · split
        · split <;> simp [h]
        · split <;> simp [h]

theorem keepsForm_execXchipWaitExpiry (ctx : CtxId) : keepsForm (execXchipWaitExpiry ctx s) := by
  unfold execXchipWaitExpiry
  split
  · simp [h]
  · split <;> simp [h]

theorem keepsForm_execFeedbackGradient : keepsForm (execFeedbackGradient s) := by
  unfold execFeedbackGradient
  split
  · simp [h]
  · split
    · simp [h]
    · simp [h]

end

/-! ## Admission -/

@[simp] theorem memoryWf_admitTo (m : Model) (tick : Nat) : (admitTo m tick s).memoryWf ↔ s.memoryWf := by simp [admitTo]
@[simp] theorem memoryWf_shedRecord (c reason : Nat) (hs : s.memoryWf) : (shedRecord c reason s).memoryWf := by
  simp [shedRecord, hs]
@[simp] theorem memoryWf_passAdmission (c : Nat) (r : RecCtx) (tick : Option Nat) :
    (passAdmission c r tick s).memoryWf ↔ s.memoryWf := by simp [passAdmission]

@[simp] theorem memoryWf_takeIn (c : Nat) (r : RecCtx) (m : Model) (hs : s.memoryWf) : (takeIn c r m s).memoryWf := by
  unfold takeIn
  split
  · simp [hs]
  · split
    · split
      · simp [hs]
      · split <;> simp [hs]
    · simp [hs]

section
variable {s} (h : s.memoryWf)
include h

theorem keepsForm_execDispatcherAdmission (ctx : CtxId) : keepsForm (execDispatcherAdmission ctx s) := by
  unfold execDispatcherAdmission
  dsimp only
  split <;> simp [h]

end

/-! ## Leaf refit -/

@[simp] theorem memoryWf_blockFlags (x : RefitSt) (off fl : Nat) (hs : s.memoryWf) :
    (blockFlags x off fl s).memoryWf := by simp [blockFlags, memPutByte_wf, hs]
@[simp] theorem memoryWf_statWrite (ecc : List EccFind) (m : Model) (x : RefitSt) (recId t tree b j : Nat) (f : Frac → Frac)
    (sat : Bool) (hs : s.memoryWf) : (statWrite ecc m x recId t tree b j f sat s).memoryWf := by simp [statWrite, hs]
@[simp] theorem memoryWf_zeroStats (m : Model) (x : RefitSt) (hs : s.memoryWf) : (zeroStats m x s).memoryWf :=
  memoryWf_foldl _ (fun s t hs => by simp +contextual [hs]) _ _ hs
@[simp] theorem memoryWf_setLabelled (x : RefitSt) (off c : Nat) (hs : s.memoryWf) :
    (setLabelled x off c s).memoryWf := by simp [setLabelled, hs]
@[simp] theorem memoryWf_applyPair (ecc : List EccFind) (m : Model) (x : RefitSt) (off recId c : Nat) (g h : Frac)
    (sat : Bool) (hs : s.memoryWf) : (applyPair ecc m x off recId c g h sat s).memoryWf :=
  memoryWf_foldl _ (fun s q hs => by simp [hs]) _ _ (by simp [hs])
@[simp] theorem memoryWf_applyFeedback (ecc : List EccFind) (m : Model) (x : RefitSt) (off recId c : Nat) (g h : Frac)
    (sat : Bool) (hs : s.memoryWf) : (applyFeedback ecc m x off recId c g h sat s).memoryWf := by simp [applyFeedback, hs]

@[simp] theorem memoryWf_sendGh (id : Nat) : (sendGh id s).memoryWf ↔ s.memoryWf := by
  unfold sendGh
  split <;> simp

@[simp] theorem memoryWf_queueGh (m : Model) (recId c g h : Nat) :
    (queueGh m recId c g h s).memoryWf ↔ s.memoryWf := by simp [queueGh]
@[simp] theorem memoryWf_decayBlock (ecc : List EccFind) (m : Model) (x : RefitSt) (recId beta t tree b : Nat)
    (hs : s.memoryWf) : (decayBlock ecc m x recId beta t tree b s).memoryWf := by simp [decayBlock, hs]
@[simp] theorem memoryWf_takeGrant (b : BgReq) : (takeGrant b s).memoryWf ↔ s.memoryWf := by simp [takeGrant]
@[simp] theorem memoryWf_statRead (ecc : List EccFind) (m : Model) (x : RefitSt) (t b : Nat) (hs : s.memoryWf) :
    (statRead ecc m x t b s).memoryWf := by simp [statRead, hs]
@[simp] theorem memoryWf_writeShadow (m : Model) (x : RefitSt) (t : Nat) (ls : List (Nat × Int × Bool)) (hs : s.memoryWf) :
    (writeShadow m x t ls s).memoryWf := by simp [writeShadow, hs]

@[simp] theorem memoryWf_proposePair (ecc : List EccFind) (m : Model) (x : RefitSt) (c : RefitCfg)
    (u : Nat × Placed × Nat × Nat) (a : Nat × State) (hs : a.2.memoryWf) :
    (proposePair ecc m x c u a).2.memoryWf := by
  have hread := memoryWf_statRead a.2 ecc m x u.1 u.2.2.2 hs
  simp [proposePair, hread]

@[simp] theorem memoryWf_commitModel (id : Nat) (hs : s.memoryWf) : (commitModel id s).memoryWf := by
  unfold commitModel
  split
  next m x _ _ =>
    extract_lets ts v next u w y z t
    have hw : w.memoryWf := by simp +contextual [w, u, hs]
    have hy : y.memoryWf := by
      unfold y
      split <;> simp [hw]
    have hz : z.memoryWf := by simp [z, hy]
    simp +contextual [t, hz]
  · exact hs

@[simp] theorem memoryWf_refitEffect (id op : Nat) (hs : s.memoryWf) : (refitEffect id op s).memoryWf := by
  unfold refitEffect
  split
  · split <;> simp [hs]
  · exact hs

@[simp] theorem memoryWf_freeOldUnits : (freeOldUnits s).memoryWf ↔ s.memoryWf := by simp [freeOldUnits]

@[simp] theorem memoryWf_requestDecay : (requestDecay s).memoryWf ↔ s.memoryWf := by
  refine memoryWf_foldl_iff _ (fun s x => ?_) _ _
  split <;> simp

@[simp] theorem memoryWf_refitTick : (refitTick s).memoryWf ↔ s.memoryWf := by simp [refitTick]

section
variable {s} (h : s.memoryWf)
include h

theorem keepsForm_execFeedbackProcess (ecc : List EccFind) : keepsForm (execFeedbackProcess s ecc) := by
  unfold execFeedbackProcess
  split
  · simp [h]
  · split
    · split
      · simp [h]
      · split
        · dsimp only
          split <;> simp [h]
        · dsimp only
          split <;> simp [h]
    · simp [h]

theorem keepsForm_execDecaySweep (tenant : Tid) (handle : Nat) (ecc : List EccFind) :
    keepsForm (execDecaySweep tenant handle s ecc) := by
  unfold execDecaySweep
  split
  · simp [h]
  · split
    · extract_lets upto u
      have hu : u.memoryWf := memoryWf_foldl _ (fun s n hs => by simp [hs]) _ _ h
      split <;> simp [hu]
    · simp [h]

theorem keepsForm_execProposalPassEnd (tenant : Tid) (handle : Nat) (ecc : List EccFind) :
    keepsForm (execProposalPassEnd tenant handle s ecc) := by
  unfold execProposalPassEnd
  split
  · simp [h]
  next m hm =>
    split
    next x cfg left hx hcfg hleft =>
      extract_lets upto r
      have hr : r.2.memoryWf := by
        refine memoryWf_foldl_snd _ (fun a n ha => ?_) _ _ h
        cases sweepUnit m 4 (x.proposed + n) <;> simp [ha]
      split <;> simp +zetaDelta [hr]
    · simp [h]

end

end Sys2Proof.Machine
end

section
/-! SUPPORT. Memory's canonical form through the mailbox, fenced units, Waymarks and models (chapters 10, 13, 17). -/

namespace Sys2Proof.Machine

variable (s : State)

/-! ## Mailbox commands in common -/

@[simp] theorem memoryWf_respond (f st : Nat) (p : List Byte) : (respond f st p s).memoryWf ↔ s.memoryWf := by simp [respond]
@[simp] theorem memoryWf_refuse (f : Nat) (r : Refused) : (refuse f r s).memoryWf ↔ s.memoryWf := by simp [refuse]
@[simp] theorem memoryWf_respondMilestone (f : Nat) (payload : List Byte) :
    (respondMilestone f payload s).memoryWf ↔ s.memoryWf := by simp [respondMilestone]
@[simp] theorem memoryWf_respondWait (f : Nat) (payload : List Byte) :
    (respondWait f payload s).memoryWf ↔ s.memoryWf := by simp [respondWait]

@[simp] theorem memoryWf_postDue : (postDue s).memoryWf ↔ s.memoryWf := by
  refine memoryWf_foldl_iff _ (fun s f => ?_) _ _
  split <;> simp

@[simp] theorem memoryWf_postWaiting (op : Nat) (mine : List Byte → Nat → Bool) (status : Nat) (payload : List Byte) :
    (postWaiting op mine status payload s).memoryWf ↔ s.memoryWf := by
  refine memoryWf_foldl_iff _ (fun s f => ?_) _ _
  dsimp only
  split <;> simp

@[simp] theorem memoryWf_ringDoorbell (f value : Nat) : (ringDoorbell f value s).memoryWf ↔ s.memoryWf := by
  unfold ringDoorbell
  split
  · rfl
  · split <;> simp

section
variable {s} (h : s.memoryWf)
include h

/-- A mailbox command keeps the form when its action does: its refusals only answer (R375 to R381). -/
theorem keepsForm_runCommand {f op : Nat} {mine : List Byte → Bool} {check : State → List Byte → Nat → Option Refused}
    {act : List Byte → Nat → State → State} (hact : ∀ pl t, (act pl t s).memoryWf) :
    keepsForm (runCommand f op mine check act s) := by
  intro t ht
  rcases runCommand_cases t ht with ⟨-, rfl⟩ | ⟨-, r, -, rfl⟩ | ⟨-, -, r, -, rfl⟩ | ⟨-, -, -, rfl⟩
  · exact h
  · simpa using h
  · simpa using h
  · exact hact _ _

theorem keepsForm_execMbxDoorbellRing (fn : Fn) (value : Nat) :
    keepsForm (execMbxDoorbellRing fn value s) := by simp [execMbxDoorbellRing, h]

end

/-! ## Fenced units -/

@[simp] theorem memoryWf_healUnits (m : Model) (p : Placed) (is : List Nat) :
    (healUnits m p is s).memoryWf ↔ s.memoryWf := by simp [healUnits]

@[simp] theorem memoryWf_copyUnits (ecc : List EccFind) (id r q : Nat) (hs : s.memoryWf) :
    (copyUnits ecc id r q s).memoryWf := by
  unfold copyUnits
  split
  · exact hs
  · refine memoryWf_foldl _ (fun s u hs => ?_) _ _ (by simp [hs])
    split <;> simp [hs]

@[simp] theorem memoryWf_prepareRemap (ecc : List EccFind) (r q : Nat) (hs : s.memoryWf) :
    (prepareRemap ecc r q s).memoryWf := by simp +contextual [prepareRemap, hs]
@[simp] theorem memoryWf_remapEffect (r q : Nat) : (remapEffect r q s).memoryWf ↔ s.memoryWf := by simp [remapEffect]
@[simp] theorem memoryWf_without (id : Nat) : (without id s).memoryWf ↔ s.memoryWf := by simp [without]
@[simp] theorem memoryWf_raiseFitLost (m : Model) (logical cause newRate : Nat) :
    (raiseFitLost m logical cause newRate s).memoryWf ↔ s.memoryWf := by simp [raiseFitLost]

@[simp] theorem memoryWf_loseRidge (id j cause : Nat) : (loseRidge id j cause s).memoryWf ↔ s.memoryWf := by
  unfold loseRidge
  split
  · rfl
  · dsimp only
    split <;> simp

@[simp] theorem memoryWf_degradedEffect (ecc : List EccFind) (id j host rate : Nat) (hs : s.memoryWf) :
    (degradedEffect ecc id j host rate s).memoryWf := by
  unfold degradedEffect
  split
  · exact hs
  · split
    · dsimp only
      split <;> simp [hs]
    · dsimp only
      split <;> simp [hs]

@[simp] theorem memoryWf_fenceFollowUp (ecc : List EccFind) (r : Nat) (hs : s.memoryWf) :
    (fenceFollowUp ecc r s).memoryWf := by
  unfold fenceFollowUp
  split <;> simp +contextual [hs]

@[simp] theorem memoryWf_loseWalkers : (loseWalkers s).memoryWf ↔ s.memoryWf := by simp [loseWalkers]
@[simp] theorem memoryWf_mismatch (kind index : Nat) (path view adopted : Bool) :
    (mismatch kind index path view adopted s).memoryWf ↔ s.memoryWf := by simp [mismatch]
@[simp] theorem memoryWf_auditRidge (ecc : List EccFind) (r : Nat) (hs : s.memoryWf) :
    (auditRidge ecc s r).memoryWf := by simp [auditRidge, hs]
@[simp] theorem memoryWf_auditBank (b : Nat) : (auditBank s b).memoryWf ↔ s.memoryWf := by simp [auditBank]
@[simp] theorem memoryWf_auditWalker (w : Nat) : (auditWalker s w).memoryWf ↔ s.memoryWf := by simp [auditWalker]
@[simp] theorem memoryWf_auditPort (l : Nat) : (auditPort s l).memoryWf ↔ s.memoryWf := by simp [auditPort]
@[simp] theorem memoryWf_auditTenant (t : Nat) : (auditTenant s t).memoryWf ↔ s.memoryWf := by simp [auditTenant]
@[simp] theorem memoryWf_audit (ecc : List EccFind) (hs : s.memoryWf) : (audit ecc s).memoryWf := by
  simp +contextual [audit, hs]

/-! ## Waymarks -/

@[simp] theorem memoryWf_wmkRangeDrop (f : Nat) : (wmkRangeDrop f s).memoryWf ↔ s.memoryWf := by simp [wmkRangeDrop]
@[simp] theorem memoryWf_countTimeouts (f k : Nat) : (countTimeouts f k s).memoryWf ↔ s.memoryWf := by simp [countTimeouts]

@[simp] theorem memoryWf_evalWaits (n : Nat) (wasReset : Bool) (t : TimeSt) :
    (evalWaits n wasReset t s).memoryWf ↔ s.memoryWf := by simp [evalWaits]

@[simp] theorem memoryWf_wmkUpdate (t : TimeSt) (n : Nat) (f : Waymark → Waymark) (wasReset : Bool) :
    (wmkUpdate t n f wasReset s).memoryWf ↔ s.memoryWf := by simp [wmkUpdate]

@[simp] theorem memoryWf_wmkApply (t : TimeSt) (i : Nat) (op : WmkOp) : (wmkApply t i op s).memoryWf ↔ s.memoryWf := by
  unfold wmkApply
  split
  · rfl
  · split <;> simp

@[simp] theorem memoryWf_wmkNote (n src : Nat) : (wmkNote n src s).memoryWf ↔ s.memoryWf := by simp [wmkNote]
@[simp] theorem memoryWf_wmkPost (src n : Nat) (op : WmkOp) : (wmkPost src n op s).memoryWf ↔ s.memoryWf := by simp [wmkPost]
@[simp] theorem memoryWf_wmkDrain (k : Nat) : (wmkDrain k s).memoryWf ↔ s.memoryWf := by simp [wmkDrain]
@[simp] theorem memoryWf_wmkFlush : (wmkFlush s).memoryWf ↔ s.memoryWf := by simp [wmkFlush]
@[simp] theorem memoryWf_wmkFirmware (i : Nat) (op : WmkOp) : (wmkFirmware i op s).memoryWf ↔ s.memoryWf := by
  simp [wmkFirmware]

@[simp] theorem memoryWf_wmkWindow (f i : Nat) (op : Nat → State → State) (hop : ∀ x t, (op x t).memoryWf ↔ t.memoryWf) :
    (wmkWindow f i op s).memoryWf ↔ s.memoryWf := by
  unfold wmkWindow
  split
  · rfl
  · split <;> simp [hop]

@[simp] theorem memoryWf_wmkZero (n : Nat) : (wmkZero n s).memoryWf ↔ s.memoryWf := by simp [wmkZero]
@[simp] theorem memoryWf_completeSlot (f j : Nat) (st : WaitState) :
    (completeSlot f j st s).memoryWf ↔ s.memoryWf := by simp [completeSlot]
@[simp] theorem memoryWf_slotCancel (f j : Nat) : (slotCancel f j s).memoryWf ↔ s.memoryWf := by simp [slotCancel]

@[simp] theorem memoryWf_slotArm (f j : Nat) : (slotArm f j s).memoryWf ↔ s.memoryWf := by
  unfold slotArm
  dsimp only
  split
  · rfl
  · split
    · simp
    · split <;> simp

@[simp] theorem memoryWf_writeWaitCtrl (f j ctrl : Nat) : (writeWaitCtrl f j ctrl s).memoryWf ↔ s.memoryWf := by
  simp [writeWaitCtrl]
@[simp] theorem memoryWf_idleSlots (f : Nat) : (idleSlots f s).memoryWf ↔ s.memoryWf := by simp [idleSlots]

section
variable {s} (h : s.memoryWf)
include h

theorem keepsForm_execWmkSignalWrite (fn : Fn) (index n : Nat) (e : Bool) :
    keepsForm (execWmkSignalWrite fn index n e s) := by simp [execWmkSignalWrite, h]
theorem keepsForm_execWmkReset (fn : Fn) (index : Nat) : keepsForm (execWmkReset fn index s) := by simp [execWmkReset, h]
theorem keepsForm_execWmkArmBarrier (fn : Fn) (index a : Nat) :
    keepsForm (execWmkArmBarrier fn index a s) := by simp [execWmkArmBarrier, h]
theorem keepsForm_execWmkClearErr (fn : Fn) (index : Nat) :
    keepsForm (execWmkClearErr fn index s) := by simp [execWmkClearErr, h]
theorem keepsForm_execWmkRemoteOn (fn : Fn) (index : Nat) :
    keepsForm (execWmkRemoteOn fn index s) := by simp [execWmkRemoteOn, h]
theorem keepsForm_execWmkRemoteOff (fn : Fn) (index : Nat) :
    keepsForm (execWmkRemoteOff fn index s) := by simp [execWmkRemoteOff, h]
theorem keepsForm_execWaitArm (fn : Fn) (slot : Fin 16) (ctrl : Nat) :
    keepsForm (execWaitArm fn slot ctrl s) := by simp [execWaitArm, h]
theorem keepsForm_execWaitCancel (fn : Fn) (slot : Fin 16) (ctrl : Nat) :
    keepsForm (execWaitCancel fn slot ctrl s) := by simp [execWaitCancel, h]
theorem keepsForm_execWaitTimeoutExpiry (fn : Fn) (slot : Fin 16) :
    keepsForm (execWaitTimeoutExpiry fn slot s) := by simp [execWaitTimeoutExpiry, h]

end

/-! ## Models -/

@[simp] theorem memoryWf_addStats (m : Model) : (addStats m s).memoryWf ↔ s.memoryWf := by simp [addStats]
@[simp] theorem memoryWf_writeEntries (es : List EntryRec) : (writeEntries es s).memoryWf ↔ s.memoryWf := by
  simp [writeEntries]
@[simp] theorem memoryWf_takeAreas (m : Model) (hs : s.memoryWf) : (takeAreas m s).memoryWf := by
  simp +contextual [takeAreas, memoryWf_takePlot, hs]

@[simp] theorem memoryWf_writeModel (m : Model) (n : Nat) (hs : s.memoryWf) : (writeModel m n s).memoryWf := by
  unfold writeModel
  extract_lets wmks m u v w
  have hw : w.memoryWf := by simp [w, v, hs]
  simp [hw]

@[simp] theorem memoryWf_failLoad (j : LoadJob) (r : Refused) (hs : s.memoryWf) : (failLoad j r s).memoryWf := by
  simp [failLoad, hs]
@[simp] theorem memoryWf_layImage (plots : List Nat) (image : List Byte) (hs : s.memoryWf) :
    (layImage plots image s).memoryWf := by simp +contextual [layImage, memoryWf_writeWhole, hs]
@[simp] theorem memoryWf_loadStepSix (ecc : List EccFind) (j : LoadJob) (pl image : List Byte) (m : Model) (hs : s.memoryWf) :
    (loadStepSix ecc j pl image m s).memoryWf := by simp [loadStepSix, hs]

theorem memoryWf_repairBlocks {m : Model} {size : Nat} {host : List Byte} {blocks : List Nat} {s t : State}
    (ht : repairBlocks m size host blocks s = some t) (hs : s.memoryWf) : t.memoryWf := by
  refine List.foldlRecOn (motive := fun a => ∀ u, a = some u → u.memoryWf) blocks.zipIdx _ ?start ?step t ht
  case start =>
    rintro u ⟨⟩
    exact hs
  case step =>
    intro a ha b _ u hu
    obtain ⟨v, hv, hu⟩ := Option.bind_eq_some_iff.mp hu
    dsimp only at hu
    split at hu <;> cases hu
    exact memoryWf_writeWhole v _ _ (ha v hv)

@[simp] theorem memoryWf_substituteRidges (ecc : List EccFind) (id : Nat) (hs : s.memoryWf) :
    (substituteRidges ecc id s).memoryWf := by
  unfold substituteRidges
  split
  · exact hs
  · refine memoryWf_foldl _ (fun s j hs => ?_) _ _ hs
    dsimp only
    split
    · split <;> simp [hs]
    · exact hs

@[simp] theorem memoryWf_modelLoadedEffect (ecc : List EccFind) (id : Nat) (hs : s.memoryWf) :
    (modelLoadedEffect ecc id s).memoryWf := by
  unfold modelLoadedEffect
  split <;> simp [hs]

@[simp] theorem memoryWf_endSearches (id : Nat) (timeLimit : Bool) (hs : s.memoryWf) :
    (endSearches id timeLimit s).memoryWf := by simp +contextual [endSearches, hs]
@[simp] theorem memoryWf_modelStopEffect (id : Nat) (hs : s.memoryWf) : (modelStopEffect id s).memoryWf := by
  simp [modelStopEffect, hs]
@[simp] theorem memoryWf_dropModelWork (id : Nat) : (dropModelWork id s).memoryWf ↔ s.memoryWf := by simp [dropModelWork]

@[simp] theorem memoryWf_zeroiseModel (id : Nat) (hs : s.memoryWf) : (zeroiseModel id s).memoryWf := by
  unfold zeroiseModel
  split
  · exact hs
  · extract_lets u v w x y z clear
    have hv : v.memoryWf := by simp [v, u, hs]
    have hx : x.memoryWf := by simp [x, w, hv]
    have hy : y.memoryWf := by simp +contextual [y, memoryWf_writeWhole, hx]
    simp [z, hy]

@[simp] theorem memoryWf_configureBank (b : Nat) (pl : List Byte) :
    (configureBank b pl s).memoryWf ↔ s.memoryWf := by simp [configureBank]

section
variable {s} (h : s.memoryWf)
include h

theorem keepsForm_execModelLoad (fn : Fn) : keepsForm (execModelLoad fn s) :=
  keepsForm_runCommand h fun _ _ => by simp +contextual [memoryWf_takePlot, h]

theorem keepsForm_execImageFetchDone (failedAt : Option Nat) (image : List Byte) (ecc : List EccFind) :
    keepsForm (execImageFetchDone failedAt image s ecc) := by
  unfold execImageFetchDone
  split
  · simp [h]
  · dsimp only
    split
    · simp [h]
    · simp [h]
    · split
      · simp [h]
      · split <;> simp [h]
    · split
      · simp [h]
      · split
        · simp [h]
        · split
          · simp [h]
          next hu => simp [memoryWf_repairBlocks hu, h]

theorem keepsForm_execModelUnload (fn : Fn) :
    keepsForm (execModelUnload fn s) := keepsForm_runCommand h fun _ _ => by split <;> simp [h]

theorem keepsForm_execModelDrainDone (tenant : Tid) (handle : Nat) : keepsForm (execModelDrainDone tenant handle s) := by
  unfold execModelDrainDone
  split <;> simp [h]

theorem keepsForm_execModelZeroiseDone (tenant : Tid) (handle : Nat) : keepsForm (execModelZeroiseDone tenant handle s) := by
  unfold execModelZeroiseDone
  split <;> simp [h]

theorem keepsForm_execOldImageRetire (tenant : Tid) (handle : Nat) : keepsForm (execOldImageRetire tenant handle s) := by
  unfold execOldImageRetire
  split <;> simp [h]

theorem keepsForm_execModelQuery (fn : Fn) :
    keepsForm (execModelQuery fn s) := keepsForm_runCommand h fun _ _ => by split <;> simp [h]
theorem keepsForm_execModelStats (fn : Fn) :
    keepsForm (execModelStats fn s) := keepsForm_runCommand h fun _ _ => by split <;> simp [h]
theorem keepsForm_execModelCalibrate (fn : Fn) :
    keepsForm (execModelCalibrate fn s) := keepsForm_runCommand h fun _ _ => by split <;> simp [h]
theorem keepsForm_execSignpostBankAssign (fn : Fn) :
    keepsForm (execSignpostBankAssign fn s) := keepsForm_runCommand h fun _ _ => by simp [h]
theorem keepsForm_execSignpostBankRelease (fn : Fn) :
    keepsForm (execSignpostBankRelease fn s) := keepsForm_runCommand h fun _ _ => by simp [h]
theorem keepsForm_execSignpostBankConfigure (fn : Fn) :
    keepsForm (execSignpostBankConfigure fn s) := keepsForm_runCommand h fun _ _ => by simp [h]

theorem keepsForm_execSignpostEntries (fn : Fn) : keepsForm (execSignpostEntries fn s) := by
  refine keepsForm_runCommand h fun pl t => ?_
  dsimp only
  split <;> simp [h]

theorem keepsForm_execSignpostSearch (fn : Fn) :
    keepsForm (execSignpostSearch fn s) := keepsForm_runCommand h fun _ _ => by simp [h]

end

end Sys2Proof.Machine
end

section
/-! SUPPORT. Memory's canonical form through the streams, Commons, the links and their messages, and host DMA (chapters 14 to
16). -/

namespace Sys2Proof.Machine

variable (s : State)

/-! ## Streams and descriptors -/

@[simp] theorem memoryWf_modDesc (g n : Nat) (f : Desc → Desc) : (modDesc g n f s).memoryWf ↔ s.memoryWf := by simp [modDesc]
@[simp] theorem memoryWf_hostWriteBy (f a : Nat) (bs : List Byte) (bad : Nat → Nat → Bool) :
    (hostWriteBy f a bs bad s).memoryWf ↔ s.memoryWf := by simp [hostWriteBy]
@[simp] theorem memoryWf_hostWrite (f a : Nat) (bs : List Byte) (poisoned : Bool) :
    (hostWrite f a bs poisoned s).memoryWf ↔ s.memoryWf := by simp [hostWrite]
@[simp] theorem memoryWf_hostRead (f a n : Nat) : (hostRead f a n s).memoryWf ↔ s.memoryWf := by simp [hostRead]
@[simp] theorem memoryWf_askTranslation (f page : Nat) : (askTranslation f page s).memoryWf ↔ s.memoryWf := by
  simp [askTranslation]
@[simp] theorem memoryWf_lookupPage (f : Nat) (p : Nat × Bool) : (lookupPage f p s).memoryWf ↔ s.memoryWf := by
  simp [lookupPage]
@[simp] theorem memoryWf_lookup (f : Nat) (ps : List (Nat × Bool)) : (lookup f ps s).2.memoryWf ↔ s.memoryWf := by
  simp [lookup]
@[simp] theorem memoryWf_insertTranslation (f page target size : Nat) (read write : Bool) :
    (insertTranslation f page target size read write s).memoryWf ↔ s.memoryWf := by simp [insertTranslation]
@[simp] theorem memoryWf_settleInvals : (settleInvals s).memoryWf ↔ s.memoryWf := by simp [settleInvals]

@[simp] theorem memoryWf_writeHalted (g n : Nat) : (writeHalted g n s).memoryWf ↔ s.memoryWf := by
  unfold writeHalted
  split <;> simp

@[simp] theorem memoryWf_dropFaults (g n : Nat) : (dropFaults g n s).memoryWf ↔ s.memoryWf := by simp [dropFaults]
@[simp] theorem memoryWf_stopDesc (g n status : Nat) : (stopDesc g n status s).memoryWf ↔ s.memoryWf := by simp [stopDesc]

@[simp] theorem memoryWf_endTask (g n status : Nat) : (endTask g n status s).memoryWf ↔ s.memoryWf := by
  unfold endTask
  split <;> simp

@[simp] theorem memoryWf_elementDone (g n : Nat) (flagged : Bool) (hs : s.memoryWf) :
    (elementDone g n flagged s).memoryWf := by
  unfold elementDone
  split <;> simp [hs]

@[simp] theorem memoryWf_flagElement (g n : Nat) : (flagElement g n s).memoryWf ↔ s.memoryWf := by simp [flagElement]

@[simp] theorem memoryWf_ownerStop (g n : Nat) : (ownerStop g n s).memoryWf ↔ s.memoryWf := by
  unfold ownerStop
  split <;> simp

@[simp] theorem memoryWf_poisonRest (d : Desc) (plots : List Nat) (k : Nat) :
    (poisonRest d plots k s).memoryWf ↔ s.memoryWf := by simp [poisonRest]
@[simp] theorem memoryWf_raisePriFail (g n k iova : Nat) : (raisePriFail g n k iova s).memoryWf ↔ s.memoryWf := by
  simp [raisePriFail]
@[simp] theorem memoryWf_faultAnswer (g n k : Nat) (hs : s.memoryWf) : (faultAnswer g n k s).memoryWf := by
  simp [faultAnswer, hs]

@[simp] theorem memoryWf_faultMode (g n k : Nat) (hs : s.memoryWf) : (faultMode g n k s).memoryWf := by
  unfold faultMode
  split
  · exact hs
  · split
    · simp +contextual [hs]
    · split
      · dsimp only
        split
        · simp [hs]
        · split <;> simp [hs]
      · simp [hs]

@[simp] theorem memoryWf_failElement (g n : Nat) (hs : s.memoryWf) : (failElement g n s).memoryWf := by
  unfold failElement
  split <;> simp [hs]

@[simp] theorem memoryWf_failAnswer (g : Nat) (hs : s.memoryWf) : (failAnswer g s).memoryWf := by
  unfold failAnswer
  split
  · exact hs
  · split <;> simp [hs]

@[simp] theorem memoryWf_advanceHead (g : Nat) : (advanceHead g s).memoryWf ↔ s.memoryWf := by simp [advanceHead]
@[simp] theorem memoryWf_settleStop (g : Nat) : (settleStop g s).memoryWf ↔ s.memoryWf := by simp [settleStop]

@[simp] theorem memoryWf_finishDesc (g n : Nat) (failed : Bool) : (finishDesc g n failed s).memoryWf ↔ s.memoryWf := by
  unfold finishDesc
  split
  · rfl
  · split <;> simp

@[simp] theorem memoryWf_failStatus (g n : Nat) : (failStatus g n s).memoryWf ↔ s.memoryWf := by
  unfold failStatus
  dsimp only
  split <;> simp

@[simp] theorem memoryWf_streamStopEffect (g : Nat) : (streamStopEffect g s).memoryWf ↔ s.memoryWf := by
  simp [streamStopEffect]
@[simp] theorem memoryWf_streamCut (g : Nat) (hs : s.memoryWf) : (streamCut g s).memoryWf := by
  simp +contextual [streamCut, hs]

/-! ## Commons -/

@[simp] theorem memoryWf_writeLine (a : Nat) (data : List Byte) (mask : Nat) (hs : s.memoryWf) :
    (writeLine a data mask s).memoryWf := by simp [writeLine, memoryWf_writeWhole, hs]
@[simp] theorem memoryWf_loadFrom (r : CReq) (data : List Byte) (mask : Nat) :
    (loadFrom r data mask s).memoryWf ↔ s.memoryWf := by simp [loadFrom]
@[simp] theorem memoryWf_settleElement (g n : Nat) (hs : s.memoryWf) : (settleElement g n s).memoryWf := by
  simp [settleElement, hs]
@[simp] theorem memoryWf_dropReq (tag : Nat) : (dropReq tag s).memoryWf ↔ s.memoryWf := by simp [dropReq]
@[simp] theorem memoryWf_sendCommons (op dst tenant tag a : Nat) (body : List Byte) :
    (sendCommons op dst tenant tag a body s).memoryWf ↔ s.memoryWf := by simp [sendCommons]
@[simp] theorem memoryWf_evictLine (l : CLine) : (evictLine l s).memoryWf ↔ s.memoryWf := by simp [evictLine]
@[simp] theorem memoryWf_trySend (r : CReq) : (trySend r s).memoryWf ↔ s.memoryWf := by
  simp [trySend]
@[simp] theorem memoryWf_performOn (r : CReq) (l : CLine) (hs : s.memoryWf) : (performOn r l s).memoryWf := by
  simp [performOn, hs]

@[simp] theorem memoryWf_retryReqs (hs : s.memoryWf) : (retryReqs s).memoryWf := by
  refine memoryWf_foldl _ (fun s r hs => ?_) _ _ hs
  split
  · exact hs
  · split
    · split <;> simp [hs]
    · simp [hs]

@[simp] theorem memoryWf_lineArrives (home a tag : Nat) (st : LineState) (data : List Byte) (mask : Nat) (hs : s.memoryWf) :
    (lineArrives home a tag st data mask s).memoryWf := by
  unfold lineArrives
  split <;> simp [hs]

@[simp] theorem memoryWf_failReq (r : CReq) (hs : s.memoryWf) : (failReq r s).memoryWf := by simp [failReq, hs]
@[simp] theorem memoryWf_setDir (a : Nat) (d : Dir) : (setDir a d s).memoryWf ↔ s.memoryWf := by simp [setDir]

@[simp] theorem memoryWf_dirRemove (a chip : Nat) : (dirRemove a chip s).memoryWf ↔ s.memoryWf := by
  unfold dirRemove
  split <;> simp

@[simp] theorem memoryWf_modTxn (tag : Nat) (f : Txn → Txn) : (modTxn tag f s).memoryWf ↔ s.memoryWf := by simp [modTxn]
@[simp] theorem memoryWf_performHome (r : CReq) (a : Nat) (hs : s.memoryWf) : (performHome r a s).memoryWf := by
  simp [performHome, hs]

@[simp] theorem memoryWf_completeTxn (ecc : List EccFind) (t : Txn) (hs : s.memoryWf) : (completeTxn ecc t s).memoryWf := by
  unfold completeTxn
  split
  · dsimp only
    split
    · simp [hs]
    · split <;> simp [hs]
  · dsimp only
    split <;> simp [hs]

@[simp] theorem memoryWf_startTxn (ecc : List EccFind) (t : Txn) (hs : s.memoryWf) : (startTxn ecc t s).memoryWf := by
  simp [startTxn, hs]

@[simp] theorem memoryWf_serveTxns (ecc : List EccFind) (n : Nat) (hs : s.memoryWf) : (serveTxns ecc n s).memoryWf := by
  induction n generalizing s with
  | zero => exact hs
  | succ n ih =>
    unfold serveTxns
    split <;> simp [ih, hs]

@[simp] theorem memoryWf_addTxn (ecc : List EccFind) (a tenant requester reqTag : Nat) (exclusive own : Bool)
    (hs : s.memoryWf) : (addTxn ecc a tenant requester reqTag exclusive own s).2.memoryWf := by simp [addTxn, hs]
@[simp] theorem memoryWf_recallWindow (id : Nat) (hs : s.memoryWf) : (recallWindow id s).memoryWf := by
  simp +contextual [recallWindow, hs]
@[simp] theorem memoryWf_settleWindow (id : Nat) (hs : s.memoryWf) : (settleWindow id s).memoryWf := by
  simp [settleWindow, hs]
@[simp] theorem memoryWf_finishRelease (t : Nat) : (finishRelease t s).memoryWf ↔ s.memoryWf := by simp [finishRelease]
@[simp] theorem memoryWf_settleRemovals (hs : s.memoryWf) : (settleRemovals s).memoryWf := by
  have hwindows := memoryWf_foldl (fun s id => settleWindow id (recallWindow id s)) (by simp +contextual) s.zth.removing s hs
  simp [settleRemovals, hwindows]
@[simp] theorem memoryWf_serveOwn (ecc : List EccFind) (r : CReq) (hs : s.memoryWf) :
    (serveOwn ecc r s).memoryWf := by simp [serveOwn, hs]

@[simp] theorem memoryWf_settleTxn (ecc : List EccFind) (tag : Nat) (hs : s.memoryWf) : (settleTxn ecc tag s).memoryWf := by
  unfold settleTxn
  split
  · exact hs
  next t _ =>
    have hserved : (settleRemovals (serveTxns [] 513 (completeTxn ecc t s))).memoryWf :=
      memoryWf_settleRemovals _ (by simp [hs])
    split
    · simp +contextual [hserved]
    · exact hs

@[simp] theorem memoryWf_addAccess (r : CReq) : (addAccess r s).memoryWf ↔ s.memoryWf := by simp [addAccess]

@[simp] theorem memoryWf_serveAccess (ecc : List EccFind) (r : CReq) (hs : s.memoryWf) : (serveAccess ecc r s).memoryWf := by
  unfold serveAccess
  split
  · simp [hs]
  · split
    · exact hs
    · split <;> simp [hs]

@[simp] theorem memoryWf_commonsAccesses (ecc : List EccFind) (rs : List CReq) (hs : s.memoryWf) :
    (commonsAccesses ecc rs s).memoryWf := by simp +contextual [commonsAccesses, hs]

/-! ## Zuoth links -/

@[simp] theorem memoryWf_sendFlit (i : Nat) (bs : List Byte) : (sendFlit i bs s).memoryWf ↔ s.memoryWf := by simp [sendFlit]
@[simp] theorem memoryWf_sendIdle (i : Nat) : (sendIdle i s).memoryWf ↔ s.memoryWf := by simp [sendIdle]
@[simp] theorem memoryWf_sendRetryReq (i : Nat) : (sendRetryReq i s).memoryWf ↔ s.memoryWf := by simp [sendRetryReq]
@[simp] theorem memoryWf_openFlit (i : Nat) (flit : List Byte) (fec : FecOutcome) :
    (openFlit i flit fec s).2.memoryWf ↔ s.memoryWf := by simp [openFlit]
@[simp] theorem memoryWf_sendData (i : Nat) (fs : List RetryFlit) : (sendData i fs s).memoryWf ↔ s.memoryWf := by
  simp [sendData]
@[simp] theorem memoryWf_replayFrom (i q : Nat) : (replayFrom i q s).memoryWf ↔ s.memoryWf := by simp [replayFrom]

@[simp] theorem memoryWf_leaveBuffer (m : Msg) : (leaveBuffer m s).memoryWf ↔ s.memoryWf := by
  unfold leaveBuffer
  split <;> simp

@[simp] theorem memoryWf_sendInit (i : Nat) : (sendInit i s).memoryWf ↔ s.memoryWf := by simp [sendInit]
@[simp] theorem memoryWf_dropHolds (i : Nat) : (dropHolds i s).memoryWf ↔ s.memoryWf := by simp [dropHolds]

@[simp] theorem memoryWf_linkActive (i : Nat) (bs : List Byte) : (linkActive i bs s).memoryWf ↔ s.memoryWf := by
  simp [linkActive]

@[simp] theorem memoryWf_settleInit (i : Nat) : (settleInit i s).memoryWf ↔ s.memoryWf := by
  unfold settleInit
  dsimp only
  split <;> simp

@[simp] theorem memoryWf_leaveActive (i : Nat) (target : LinkMode) :
    (leaveActive i target s).memoryWf ↔ s.memoryWf := by simp [leaveActive]
@[simp] theorem memoryWf_retrain (i cause : Nat) : (retrain i cause s).memoryWf ↔ s.memoryWf := by simp [retrain]
@[simp] theorem memoryWf_arriveMsg (i : Nat) (bs : List Byte) : (arriveMsg i bs s).memoryWf ↔ s.memoryWf := by
  simp [arriveMsg]
@[simp] theorem memoryWf_acceptData (i : Nat) (bs : List Byte) : (acceptData i bs s).memoryWf ↔ s.memoryWf := by
  simp [acceptData]
@[simp] theorem memoryWf_askRetry (i : Nat) : (askRetry i s).memoryWf ↔ s.memoryWf := by simp [askRetry]

@[simp] theorem memoryWf_refuseData (i q : Nat) : (refuseData i q s).memoryWf ↔ s.memoryWf := by
  unfold refuseData
  split <;> simp

@[simp] theorem memoryWf_controlFlit (i kind : Nat) (flit : List Byte) (fec : FecOutcome) (act : Nat → State → State)
    (hact : ∀ n t, (act n t).memoryWf ↔ t.memoryWf) : (controlFlit i kind flit fec act s).memoryWf ↔ s.memoryWf := by
  unfold controlFlit
  dsimp only
  split
  · rfl
  · split
    next hy => simp [memoryWf_of_eq_mk hy]
    next hy => simp [hact, memoryWf_of_eq_mk hy]

@[simp] theorem memoryWf_enableLinks (mask : Nat) : (enableLinks mask s).memoryWf ↔ s.memoryWf := by simp [enableLinks]

@[simp] theorem memoryWf_fabricEffect (pl : List Byte) : (fabricEffect pl s).memoryWf ↔ s.memoryWf := by simp [fabricEffect]

section
variable {s} (h : s.memoryWf)
include h

theorem keepsForm_execMessageSend (saddle : SaddleId) : keepsForm (execMessageSend saddle s) := by
  unfold execMessageSend
  dsimp only
  split <;> simp [h]

theorem keepsForm_execLinkTrainingDone (saddle : SaddleId) (ok : Bool) :
    keepsForm (execLinkTrainingDone saddle ok s) := by simp [execLinkTrainingDone, h]
theorem keepsForm_execInitResend (saddle : SaddleId) : keepsForm (execInitResend saddle s) := by simp [execInitResend, h]

theorem keepsForm_execInitFlitRx (saddle : SaddleId) (flit : List Byte) (fec : FecOutcome) :
    keepsForm (execInitFlitRx saddle flit fec s) := by
  unfold execInitFlitRx
  dsimp only
  split
  · simp [h]
  · split
    next hy => simp [memoryWf_of_eq_mk hy, h]
    next hy => simp [memoryWf_of_eq_mk hy, h]

theorem keepsForm_execFabricMismatchRetry (saddle : SaddleId) : keepsForm (execFabricMismatchRetry saddle s) := by
  unfold execFabricMismatchRetry
  dsimp only
  split <;> simp [h]

theorem keepsForm_execZuothLaneLoss (saddle : SaddleId) :
    keepsForm (execZuothLaneLoss saddle s) := by simp [execZuothLaneLoss, h]
theorem keepsForm_execLinkHoldExpiry (saddle : SaddleId) :
    keepsForm (execLinkHoldExpiry saddle s) := by simp +contextual [execLinkHoldExpiry, h]

theorem keepsForm_execDataFlitRx (saddle : SaddleId) (flit : List Byte) (fec : FecOutcome) :
    keepsForm (execDataFlitRx saddle flit fec s) := by
  unfold execDataFlitRx
  dsimp only
  split
  · simp [h]
  · split
    next hy => simp [memoryWf_of_eq_mk hy, h]
    next hy => simp [memoryWf_of_eq_mk hy, h]

theorem keepsForm_execIdleFlitRx (saddle : SaddleId) (flit : List Byte) (fec : FecOutcome) :
    keepsForm (execIdleFlitRx saddle flit fec s) := by simp [execIdleFlitRx, h]
theorem keepsForm_execRetryReqRx (saddle : SaddleId) (flit : List Byte) (fec : FecOutcome) :
    keepsForm (execRetryReqRx saddle flit fec s) := by simp [execRetryReqRx, h]
theorem keepsForm_execRetryReqRepeat (saddle : SaddleId) :
    keepsForm (execRetryReqRepeat saddle s) := by simp [execRetryReqRepeat, h]

theorem keepsForm_execAckTimeout (saddle : SaddleId) : keepsForm (execAckTimeout saddle s) := by
  unfold execAckTimeout
  dsimp only
  split <;> simp [h]

theorem keepsForm_execNotReadyRx (saddle : SaddleId) (flit : List Byte) (fec : FecOutcome) :
    keepsForm (execNotReadyRx saddle flit fec s) := by simp [execNotReadyRx, h]

theorem keepsForm_execNotReadyBackoffExpiry (saddle : SaddleId) : keepsForm (execNotReadyBackoffExpiry saddle s) := by
  unfold execNotReadyBackoffExpiry
  split <;> simp [h]

theorem keepsForm_execFabricConfig (fn : Fn) :
    keepsForm (execFabricConfig fn s) := keepsForm_runCommand h fun _ _ => by simp [h]

end

/-! ## Zuoth messages -/

@[simp] theorem memoryWf_popMsg (i : Nat) : (popMsg i s).memoryWf ↔ s.memoryWf := by simp [popMsg]

theorem memoryWf_takeMsg {port : MsgPort} {op : Nat} {s : State} {y : Msg × State} (h : takeMsg port op s = some y) :
    y.2.memoryWf ↔ s.memoryWf := by
  unfold takeMsg at h
  split at h
  · split at h <;> cases h
    simp
  · split at h
    · cases h
    · obtain ⟨m, -, hy⟩ := Option.bind_eq_some_iff.mp h
      split at hy <;> cases hy
      simp

@[simp] theorem memoryWf_remoteSignal (f v : Nat) : (remoteSignal f v s).memoryWf ↔ s.memoryWf := by
  simp [remoteSignal]

@[simp] theorem memoryWf_homeRequest (ecc : List EccFind) (exclusive : Bool) (m : Msg) (hs : s.memoryWf) :
    (homeRequest ecc exclusive m s).memoryWf := by
  unfold homeRequest
  dsimp only
  split
  · simp [hs]
  · split
    next hy => simp [memoryWf_of_eq_mk hy, hs]
    next hy => simp [memoryWf_of_eq_mk hy, hs]

@[simp] theorem memoryWf_answerSnoop (op : Nat) (m : Msg) (body : List Byte) :
    (answerSnoop op m body s).memoryWf ↔ s.memoryWf := by simp [answerSnoop]

@[simp] theorem memoryWf_snoop (inval : Bool) (m : Msg) (hs : s.memoryWf) : (snoop inval m s).memoryWf := by
  unfold snoop
  split
  · dsimp only
    split <;> simp [hs]
  · dsimp only
    split <;> simp [hs]

@[simp] theorem memoryWf_ackEviction (chip entry tenant a : Nat) :
    (ackEviction chip entry tenant a s).memoryWf ↔ s.memoryWf := by simp [ackEviction]
@[simp] theorem memoryWf_takeEviction (chip entry tenant a : Nat) (data : List Byte) (mask : Nat) (hs : s.memoryWf) :
    (takeEviction chip entry tenant a data mask s).memoryWf := by
  simp [takeEviction, hs]

@[simp] theorem memoryWf_dirAnswered (t : Txn) (chip : Nat) : (dirAnswered t chip s).memoryWf ↔ s.memoryWf := by
  unfold dirAnswered
  split
  · simp
  · split <;> simp

@[simp] theorem memoryWf_snoopAnswer (ecc : List EccFind) (act : Txn → Msg → State → State) (m : Msg)
    (hact : ∀ x y t, t.memoryWf → (act x y t).memoryWf) (hs : s.memoryWf) : (snoopAnswer ecc act m s).memoryWf := by
  unfold snoopAnswer
  split <;> simp [hact, hs]

@[simp] theorem memoryWf_lineMessage (st : LineState) (m : Msg) (hs : s.memoryWf) :
    (lineMessage st m s).memoryWf := by simp [lineMessage, hs]

@[simp] theorem memoryWf_remoteNak (m : Msg) (reason : Nat) : (remoteNak m reason s).memoryWf ↔ s.memoryWf := by
  unfold remoteNak
  split <;> simp

@[simp] theorem memoryWf_failTerm (m : Msg) (model : Option Model) (reason : Nat) :
    (failTerm m model reason s).memoryWf ↔ s.memoryWf := by simp [failTerm]

@[simp] theorem memoryWf_applyGh (ecc : List EccFind) (id eg eh : Nat) (e : List Byte) (hs : s.memoryWf) :
    (applyGh ecc id eg eh e s).memoryWf := by
  unfold applyGh
  split
  · dsimp only
    split <;> simp [hs]
  · exact hs

@[simp] theorem memoryWf_windowCreateEffect (t id : Nat) (plots dir : List Nat) :
    (windowCreateEffect t id plots dir s).memoryWf ↔ s.memoryWf := by simp [windowCreateEffect]
@[simp] theorem memoryWf_windowRemoveEffect (id : Nat) (hs : s.memoryWf) :
    (windowRemoveEffect id s).memoryWf := by simp [windowRemoveEffect, hs]

section
variable {s} (h : s.memoryWf)
include h

theorem keepsForm_onMessage {port : MsgPort} {op : Nat} {act : Msg → State → State}
    (hact : ∀ m t, t.memoryWf → (act m t).memoryWf) : keepsForm (onMessage port op act s) := by
  unfold onMessage
  split
  · simpa using h
  next hy => exact (keepsForm_next _).mpr (hact _ _ ((memoryWf_takeMsg hy).mpr h))

theorem keepsForm_execMessageViolation (saddle : SaddleId) : keepsForm (execMessageViolation saddle s) := by
  unfold execMessageViolation
  split
  · simp [h]
  · split <;> simp [h]

theorem keepsForm_execMessageForward (saddle : SaddleId) : keepsForm (execMessageForward saddle s) := by
  unfold execMessageForward
  split <;> simp [h]

theorem keepsForm_execAdaptiveRouteFallback (saddle : SaddleId) : keepsForm (execAdaptiveRouteFallback saddle s) := by
  unfold execAdaptiveRouteFallback
  split <;> simp [h]

theorem keepsForm_execWmkSignal (port : MsgPort) :
    keepsForm (execWmkSignal port s) := keepsForm_onMessage h fun _ _ ht => by simp [ht]
theorem keepsForm_execWmkRemoteWrite (fn : Fn) (value : Nat) :
    keepsForm (execWmkRemoteWrite fn value s) := by simp [execWmkRemoteWrite, h]
theorem keepsForm_execRdS (port : MsgPort) (ecc : List EccFind) :
    keepsForm (execRdS port ecc s) := keepsForm_onMessage h fun _ _ ht => by simp [ht]
theorem keepsForm_execRdM (port : MsgPort) (ecc : List EccFind) :
    keepsForm (execRdM port ecc s) := keepsForm_onMessage h fun _ _ ht => by simp [ht]
theorem keepsForm_execSnpShare (port : MsgPort) :
    keepsForm (execSnpShare port s) := keepsForm_onMessage h fun _ _ ht => by simp [ht]
theorem keepsForm_execSnpInv (port : MsgPort) :
    keepsForm (execSnpInv port s) := keepsForm_onMessage h fun _ _ ht => by simp [ht]
theorem keepsForm_execSnpRspInvalid (port : MsgPort) (ecc : List EccFind) :
    keepsForm (execSnpRspInvalid port ecc s) := keepsForm_onMessage h fun _ _ ht => by simp [ht]
theorem keepsForm_execSnpRspAck (port : MsgPort) (ecc : List EccFind) :
    keepsForm (execSnpRspAck port ecc s) := keepsForm_onMessage h fun _ _ ht => by simp [ht]

theorem keepsForm_execSnpRspEvicting (port : MsgPort) (ecc : List EccFind) : keepsForm (execSnpRspEvicting port ecc s) := by
  refine keepsForm_onMessage h fun m t ht => memoryWf_snoopAnswer _ _ _ _ (fun x m u hu => ?_) ht
  dsimp only
  split
  · split <;> simp [hu]
  · simp [hu]

theorem keepsForm_execSnpRspData (port : MsgPort) (ecc : List EccFind) :
    keepsForm (execSnpRspData port ecc s) :=
  keepsForm_onMessage h fun _ _ ht => memoryWf_snoopAnswer _ _ _ _ (fun _ _ _ hu => by simp [hu]) ht
theorem keepsForm_execEvictClean (port : MsgPort) (_ecc : List EccFind) :
    keepsForm (execEvictClean port _ecc s) := keepsForm_onMessage h fun _ _ ht => by simp [ht]

theorem keepsForm_execEvictDirty (port : MsgPort) (ecc : List EccFind) : keepsForm (execEvictDirty port ecc s) := by
  refine keepsForm_onMessage h fun m t ht => ?_
  dsimp only
  split <;> simp [ht]

theorem keepsForm_execEvictAck (port : MsgPort) :
    keepsForm (execEvictAck port s) := keepsForm_onMessage h fun _ _ ht => by simp [ht]
theorem keepsForm_execDataS (port : MsgPort) :
    keepsForm (execDataS port s) := keepsForm_onMessage h fun _ _ ht => by simp [ht]
theorem keepsForm_execDataE (port : MsgPort) :
    keepsForm (execDataE port s) := keepsForm_onMessage h fun _ _ ht => by simp [ht]
theorem keepsForm_execDataM (port : MsgPort) :
    keepsForm (execDataM port s) := keepsForm_onMessage h fun _ _ ht => by simp [ht]
theorem keepsForm_execNak (port : MsgPort) : keepsForm (execNak port s) := keepsForm_onMessage h fun _ _ ht => by simp [ht]

theorem keepsForm_execCommonsNakRetry (tag : Nat) : keepsForm (execCommonsNakRetry tag s) := by
  unfold execCommonsNakRetry
  split <;> simp [h]

theorem keepsForm_execCommonsRequestTimeout (eviction : Bool) (tag : Nat) :
    keepsForm (execCommonsRequestTimeout eviction tag s) := by
  unfold execCommonsRequestTimeout
  split
  · split <;> simp [h]
  · split <;> simp [h]

theorem keepsForm_execCommonsSnoopTimeout (tag : Nat) (ecc : List EccFind) :
    keepsForm (execCommonsSnoopTimeout tag ecc s) := by
  unfold execCommonsSnoopTimeout
  split
  · simp [h]
  · extract_lets silent u v w x
    have hv : v.memoryWf := by simp [v, u, h]
    split <;> simp [x, w, hv, h]

theorem keepsForm_execRecordMc (port : MsgPort) : keepsForm (execRecordMc port s) := by
  refine keepsForm_onMessage h fun m t ht => ?_
  dsimp only
  split
  · simp [ht]
  · split
    · simp [ht]
    · split
      · simp [ht]
      · split
        next hy => exact (memoryWf_takeCtx hy).mpr ht
        · simp [ht]

theorem keepsForm_execTerm (port : MsgPort) : keepsForm (execTerm port s) := by
  refine keepsForm_onMessage h fun m t ht => ?_
  dsimp only
  split
  · simp [ht]
  · split
    · simp [ht]
    · split
      · simp [ht]
      · split <;> simp [ht]

theorem keepsForm_execRefitGh (port : MsgPort) (ecc : List EccFind) : keepsForm (execRefitGh port s ecc) := by
  refine keepsForm_onMessage h fun m t ht => ?_
  dsimp only
  split <;> simp +contextual [ht]

theorem keepsForm_execPing (port : MsgPort) : keepsForm (execPing port s) := keepsForm_onMessage h fun _ _ ht => by simp [ht]
theorem keepsForm_execPong (port : MsgPort) : keepsForm (execPong port s) := keepsForm_onMessage h fun _ _ ht => by simp [ht]
theorem keepsForm_execCommonsWindowCreate (fn : Fn) :
    keepsForm (execCommonsWindowCreate fn s) :=
  keepsForm_runCommand h fun _ _ => by simp +contextual [memoryWf_takePlot, h]
theorem keepsForm_execCommonsWindowRemove (fn : Fn) :
    keepsForm (execCommonsWindowRemove fn s) := keepsForm_runCommand h fun _ _ => by simp [h]

end

/-! ## Host DMA -/

@[simp] theorem memoryWf_writeTail (f j value : Nat) : (writeTail f j value s).memoryWf ↔ s.memoryWf := by simp [writeTail]
@[simp] theorem memoryWf_waitFailed (g n : Nat) (st : WaitState) : (waitFailed g n st s).memoryWf ↔ s.memoryWf := by
  simp [waitFailed]

@[simp] theorem memoryWf_tryStart (g n : Nat) : (tryStart g n s).memoryWf ↔ s.memoryWf := by
  unfold tryStart
  split
  · rfl
  · split <;> simp

@[simp] theorem memoryWf_armDesc (g n : Nat) (bs : List Byte) : (armDesc g n bs s).memoryWf ↔ s.memoryWf := by simp [armDesc]
@[simp] theorem memoryWf_fetchDesc (g : Nat) (bs : List Byte) : (fetchDesc g bs s).memoryWf ↔ s.memoryWf := by
  simp [fetchDesc]
@[simp] theorem memoryWf_issueElement (g : Nat) (d : Desc) : (issueElement g d s).memoryWf ↔ s.memoryWf := by
  simp [issueElement]
@[simp] theorem memoryWf_markAnswer (g : Nat) (on : Bool) : (markAnswer g on s).memoryWf ↔ s.memoryWf := by simp [markAnswer]
@[simp] theorem memoryWf_issueAnswer (g : Nat) : (issueAnswer g s).memoryWf ↔ s.memoryWf := by simp [issueAnswer]
@[simp] theorem memoryWf_issueFetch (f : Fetch) : (issueFetch f s).memoryWf ↔ s.memoryWf := by simp [issueFetch]

@[simp] theorem memoryWf_issueReq (g : Nat) (r : StreamReq) : (issueReq g r s).memoryWf ↔ s.memoryWf := by
  unfold issueReq
  split <;> simp

@[simp] theorem memoryWf_copyIn (g : Nat) (d : Desc) (k : Nat) (plots : List Nat) (data : List Byte) (ecc : List EccFind)
    (hs : s.memoryWf) : (copyIn g d k plots data ecc s).memoryWf := by
  unfold copyIn
  extract_lets o ps r
  have hr : r.2.memoryWf := by simp +contextual [r, hs]
  split <;> simp [hr, hs]

@[simp] theorem memoryWf_copyOut (g : Nat) (d : Desc) (k : Nat) (plots : List Nat) (ecc : List EccFind) (hs : s.memoryWf) :
    (copyOut g d k plots ecc s).memoryWf := by
  unfold copyOut
  dsimp only
  split <;> simp [hs]

@[simp] theorem memoryWf_failFetch (hs : s.memoryWf) : (failFetch s).memoryWf := by
  unfold failFetch
  split
  · exact hs
  · split <;> simp [hs]

@[simp] theorem memoryWf_failWho (w : PriWait) (hs : s.memoryWf) : (failWho w s).memoryWf := by
  unfold failWho
  split <;> simp [hs]

@[simp] theorem memoryWf_pumpPri (f : Nat) : (pumpPri f s).memoryWf ↔ s.memoryWf := by simp [pumpPri]
@[simp] theorem memoryWf_requestPri (who : PriWho) (f page : Nat) (write : Bool) (hs : s.memoryWf) :
    (requestPri who f page write s).memoryWf := by simp [requestPri, hs]
@[simp] theorem memoryWf_forPris (sel : PriWait → Bool) (act : PriWait → State → State)
    (hact : ∀ x t, t.memoryWf → (act x t).memoryWf) (hs : s.memoryWf) : (forPris sel act s).memoryWf :=
  memoryWf_foldl _ (fun t w ht => hact w t ht) _ _ (by simp [hs])

@[simp] theorem memoryWf_resumeDesc (g n : Nat) : (resumeDesc g n s).memoryWf ↔ s.memoryWf := by simp [resumeDesc]

@[simp] theorem memoryWf_resumeWho (w : PriWait) : (resumeWho w s).memoryWf ↔ s.memoryWf := by
  unfold resumeWho
  split <;> simp

@[simp] theorem memoryWf_haltDesc (who : PriWho) (g n k page : Nat) (write : Bool) (hs : s.memoryWf) :
    (haltDesc who g n k page write s).memoryWf := by simp [haltDesc, hs]

@[simp] theorem memoryWf_newFaults (f page size : Nat) (hs : s.memoryWf) : (newFaults f page size s).memoryWf := by
  unfold newFaults
  extract_lets hit s1 s2 s3 s4
  have h1 : s1.memoryWf :=
    memoryWf_foldl _ (fun s g hs => memoryWf_foldl _ (fun s d hs => by split <;> simp [hs]) _ _ hs) _ _ hs
  have h2 : s2.memoryWf :=
    memoryWf_foldl _ (fun s g hs => memoryWf_option_elim_of _ _ _ (fun x => by split <;> simp [hs]) hs) _ _ h1
  have h3 : s3.memoryWf :=
    memoryWf_foldl _ (fun s g hs => memoryWf_foldl _ (fun s d hs => by split <;> simp [hs]) _ _ hs) _ _ h2
  have h4 : s4.memoryWf := by
    unfold s4
    split
    · exact h3
    · exact memoryWf_option_elim_of _ _ _ (fun x => by simp [h3]) h3
  split <;> simp [h4]

@[simp] theorem memoryWf_writeDueStatus (f : Nat) : (writeDueStatus f s).memoryWf ↔ s.memoryWf := by simp [writeDueStatus]
@[simp] theorem memoryWf_streamStartEffect (g : Nat) : (streamStartEffect g s).memoryWf ↔ s.memoryWf := by
  simp [streamStartEffect]
@[simp] theorem memoryWf_freeAlloc (a : DataAlloc) (hs : s.memoryWf) : (freeAlloc a s).memoryWf := by simp [freeAlloc, hs]

section
variable {s} (h : s.memoryWf)
include h

theorem keepsForm_execDmaRingTailWrite (fn : Fn) (stream : Fin 8) (value : Nat) :
    keepsForm (execDmaRingTailWrite fn stream value s) := by simp [execDmaRingTailWrite, h]

theorem keepsForm_execDescriptorStart (stream : StreamId) (descriptor : List Byte) :
    keepsForm (execDescriptorStart stream descriptor s) := by
  unfold execDescriptorStart
  dsimp only
  split
  · simp [h]
  · split <;> simp [h]

theorem keepsForm_execDmaRequestIssue : keepsForm (execDmaRequestIssue s) := by
  unfold execDmaRequestIssue
  split <;> simp [h]

theorem keepsForm_execDmaElement (stream : StreamId) (number : Nat) (data : List Byte) (ecc tables : List EccFind) :
    keepsForm (execDmaElement stream number data ecc s tables) := by
  unfold execDmaElement
  dsimp only
  split
  · simp [h]
  · split
    · simp [h]
    · split
      · simp [h]
      · split
        · simp [h]
        · split <;> simp [h]

theorem keepsForm_execCompletionTimeout (stream : StreamId) (number : Nat) :
    keepsForm (execCompletionTimeout stream number s) := by
  unfold execCompletionTimeout
  dsimp only
  split <;> simp [h]

theorem keepsForm_execTranslationCompletion (fn : Fn) (page sizeLog2 : Nat) (read write : Bool) (target : Nat) :
    keepsForm (execTranslationCompletion fn page sizeLog2 read write s target) := by
  unfold execTranslationCompletion
  extract_lets f size base u v w x
  have hv : v.memoryWf := by simp [v, u, h]
  have hw : w.memoryWf := memoryWf_forPris _ _ _ (fun x t ht => by simp [ht]) hv
  have hx : x.memoryWf := by simp [x, hw]
  split <;> simp [hx, h]

theorem keepsForm_execPageRequestResponse (fn : Fn) (page : Nat) (response : PriResponse) :
    keepsForm (execPageRequestResponse fn page response s) := by
  have hfail (sel : PriWait → Bool) {t : State} (ht : t.memoryWf) : (forPris sel failWho t).memoryWf :=
    memoryWf_forPris _ _ _ (fun _ _ ht => by simp [ht]) ht
  simp [execPageRequestResponse, hfail, h]

theorem keepsForm_execPriLimitExpiry (fn : Fn) (page : Nat) :
    keepsForm (execPriLimitExpiry fn page s) := by simp +contextual [execPriLimitExpiry, h]
theorem keepsForm_execAtsInvalidateRequest (fn : Fn) (page sizeLog2 : Nat) :
    keepsForm (execAtsInvalidateRequest fn page sizeLog2 s) := by simp [execAtsInvalidateRequest, h]

theorem keepsForm_execRingAnswerWrite (stream : StreamId) : keepsForm (execRingAnswerWrite stream s) := by
  unfold execRingAnswerWrite
  dsimp only
  split
  · simp [h]
  · split <;> simp [h]

theorem keepsForm_execDescriptorComplete (stream : StreamId) (number : Nat) :
    keepsForm (execDescriptorComplete stream number s) := by
  unfold execDescriptorComplete
  dsimp only
  split <;> simp [h]

theorem keepsForm_execStreamConfig (fn : Fn) :
    keepsForm (execStreamConfig fn s) := keepsForm_runCommand h fun _ _ => by simp [h]
theorem keepsForm_execStreamStart (fn : Fn) :
    keepsForm (execStreamStart fn s) := keepsForm_runCommand h fun _ _ => by simp [h]
theorem keepsForm_execStreamStop (fn : Fn) : keepsForm (execStreamStop fn s) := keepsForm_runCommand h fun _ _ => by simp [h]
theorem keepsForm_execDataAllocAllocate (fn : Fn) :
    keepsForm (execDataAllocAllocate fn s) :=
  keepsForm_runCommand h fun _ _ => by simp +contextual [memoryWf_takePlot, h]
theorem keepsForm_execDataAllocFree (fn : Fn) :
    keepsForm (execDataAllocFree fn s) := keepsForm_runCommand h fun _ _ => by simp [h]

end

end Sys2Proof.Machine
end

section
/-! SUPPORT. Memory's canonical form through ports, tenants, management, registers, boot and the Milestone (chapters 12, 16 to
19). -/

namespace Sys2Proof.Machine

variable (s : State)

/-! ## Port commands -/

@[simp] theorem memoryWf_portModeEffect (e mode fec : Nat) (train : Bool) :
    (portModeEffect e mode fec train s).memoryWf ↔ s.memoryWf := by simp [portModeEffect]
@[simp] theorem memoryWf_portAddressEffect (l : Nat) (pl : List Byte) :
    (portAddressEffect l pl s).memoryWf ↔ s.memoryWf := by simp [portAddressEffect]
@[simp] theorem memoryWf_portOpenEffect (l : Nat) : (portOpenEffect l s).memoryWf ↔ s.memoryWf := by simp [portOpenEffect]
@[simp] theorem memoryWf_portDrainEffect (l : Nat) : (portDrainEffect l s).memoryWf ↔ s.memoryWf := by simp [portDrainEffect]

section
variable {s} (h : s.memoryWf)
include h

theorem keepsForm_execPortMode (fn : Fn) : keepsForm (execPortMode fn s) := keepsForm_runCommand h fun _ _ => by simp [h]
theorem keepsForm_execPortAddress (fn : Fn) :
    keepsForm (execPortAddress fn s) := keepsForm_runCommand h fun _ _ => by simp [h]
theorem keepsForm_execPortStateOpen (fn : Fn) :
    keepsForm (execPortStateOpen fn s) := keepsForm_runCommand h fun _ _ => by simp [h]
theorem keepsForm_execPortStateDraining (fn : Fn) :
    keepsForm (execPortStateDraining fn s) := keepsForm_runCommand h fun _ _ => by simp [h]
theorem keepsForm_execEndpointAdd (fn : Fn) :
    keepsForm (execEndpointAdd fn s) := keepsForm_runCommand h fun _ _ => by simp [h]
theorem keepsForm_execEndpointRemove (fn : Fn) :
    keepsForm (execEndpointRemove fn s) := keepsForm_runCommand h fun _ _ => by simp [h]
theorem keepsForm_execPortQuery (fn : Fn) : keepsForm (execPortQuery fn s) := keepsForm_runCommand h fun _ _ => by simp [h]

end

/-! ## Tenants and functions -/

@[simp] theorem memoryWf_zeroCairn (q : Quota) : (zeroCairn q s).memoryWf ↔ s.memoryWf := by simp [zeroCairn]
@[simp] theorem memoryWf_zeroEntries (cs : List Nat) (hs : s.memoryWf) : (zeroEntries cs s).memoryWf := by
  simp +contextual [zeroEntries, memoryWf_zeroRange, hs]
@[simp] theorem memoryWf_zeroWaymarks (t : Nat) (q : Quota) : (zeroWaymarks t q s).memoryWf ↔ s.memoryWf := by
  simp [zeroWaymarks]

@[simp] theorem memoryWf_tenantSetEffect (t : Nat) (q : Quota) (hs : s.memoryWf) : (tenantSetEffect t q s).memoryWf := by
  unfold tenantSetEffect
  split <;> simp [hs]

@[simp] theorem memoryWf_releaseRecords (t : Nat) (hs : s.memoryWf) : (releaseRecords t s).memoryWf := by
  unfold releaseRecords
  extract_lets u own v mine holds z w
  have hu : u.memoryWf := by simp +contextual [u, hs]
  have hw : w.memoryWf := by simp [w, v, hu]
  simp +contextual [hw]

@[simp] theorem memoryWf_releaseStreams (t : Nat) (hs : s.memoryWf) : (releaseStreams t s).memoryWf := by
  simp +contextual [releaseStreams, hs]
@[simp] theorem memoryWf_resetQueue (f : Nat) (q : EvtQueue) : (resetQueue f q s).memoryWf ↔ s.memoryWf := by
  simp [resetQueue]
@[simp] theorem memoryWf_releaseEndpoints (t : Nat) : (releaseEndpoints t s).memoryWf ↔ s.memoryWf := by
  simp [releaseEndpoints]

@[simp] theorem memoryWf_releaseResources (t : Nat) (entries : List Nat) (hs : s.memoryWf) :
    (releaseResources t entries s).memoryWf := by
  unfold releaseResources
  extract_lets q u v w x ids
  have hu : u.memoryWf := by simp +contextual [u, hs]
  have hv : v.memoryWf := by simp [v, hu]
  have hw : w.memoryWf := by simp [w, hv]
  have hx : x.memoryWf := by simp +contextual [x, hw]
  simpa using hx

@[simp] theorem memoryWf_releaseEffect (t : Nat) (hs : s.memoryWf) : (releaseEffect t s).memoryWf := by
  unfold releaseEffect
  extract_lets u entries v
  have hu : u.memoryWf := by simp [u, hs]
  have hv : v.memoryWf := memoryWf_releaseResources _ _ _ (by simp [hu])
  simp [hv]

@[simp] theorem memoryWf_tenantStateEffect (t op : Nat) (hs : s.memoryWf) : (tenantStateEffect t op s).memoryWf := by
  unfold tenantStateEffect
  dsimp only
  split <;> simp [hs]

@[simp] theorem memoryWf_resetFnPage (f : Nat) : (resetFnPage f s).memoryWf ↔ s.memoryWf := by simp [resetFnPage]

@[simp] theorem memoryWf_vfReset (t : Nat) (hs : s.memoryWf) : (vfReset t s).memoryWf := by
  simp +contextual [vfReset, hs]

section
variable {s} (h : s.memoryWf)
include h

theorem keepsForm_stateCommand (fn : Fn) (op : Nat) (accepted : List TenantState) (wait : Bool) :
    keepsForm (stateCommand fn op accepted wait s) :=
  keepsForm_runCommand h fun pl t => by simp [h]

theorem keepsForm_wmkInit (fn : Fn) (op : Nat) (act : List Byte → Nat → State → State)
    (hact : ∀ pl i t, (act pl i t).memoryWf ↔ t.memoryWf) : keepsForm (wmkInit fn op act s) :=
  keepsForm_runCommand h fun pl t => by simp [hact, h]

theorem keepsForm_execTenantSet (fn : Fn) : keepsForm (execTenantSet fn s) := keepsForm_runCommand h fun _ _ => by simp [h]
theorem keepsForm_execTenantEnable (fn : Fn) : keepsForm (execTenantEnable fn s) := keepsForm_stateCommand h _ _ _ _
theorem keepsForm_execTenantDisable (fn : Fn) : keepsForm (execTenantDisable fn s) := keepsForm_stateCommand h _ _ _ _
theorem keepsForm_execTenantPreempt (fn : Fn) : keepsForm (execTenantPreempt fn s) := keepsForm_stateCommand h _ _ _ _
theorem keepsForm_execTenantResume (fn : Fn) : keepsForm (execTenantResume fn s) := keepsForm_stateCommand h _ _ _ _
theorem keepsForm_execTenantRelease (fn : Fn) : keepsForm (execTenantRelease fn s) := keepsForm_stateCommand h _ _ _ _
theorem keepsForm_execVfFunctionLevelReset (vf : Tid) :
    keepsForm (execVfFunctionLevelReset vf s) := by simp [execVfFunctionLevelReset, h]

theorem keepsForm_execVfEnableClear :
    keepsForm (execVfEnableClear s) := by simp +contextual [execVfEnableClear, h]

theorem keepsForm_execTenantQuery (fn : Fn) :
    keepsForm (execTenantQuery fn s) := keepsForm_runCommand h fun _ _ => by simp [h]
theorem keepsForm_execWaymarkInitReset (fn : Fn) :
    keepsForm (execWaymarkInitReset fn s) := keepsForm_wmkInit h fn _ _ (by simp)
theorem keepsForm_execWaymarkInitArmBarrier (fn : Fn) :
    keepsForm (execWaymarkInitArmBarrier fn s) := keepsForm_wmkInit h fn _ _ (by simp)
theorem keepsForm_execWaymarkInitRemoteOn (fn : Fn) :
    keepsForm (execWaymarkInitRemoteOn fn s) := keepsForm_wmkInit h fn _ _ (by simp)
theorem keepsForm_execWaymarkInitRemoteOff (fn : Fn) :
    keepsForm (execWaymarkInitRemoteOff fn s) := keepsForm_wmkInit h fn _ _ (by simp)
theorem keepsForm_execWaymarkQuery (fn : Fn) :
    keepsForm (execWaymarkQuery fn s) := keepsForm_runCommand h fun _ _ => by simp [h]

end

/-! ## The remaining mailbox commands -/

@[simp] theorem memoryWf_canaryEffect (r : Nat) (on : Bool) : (canaryEffect r on s).memoryWf ↔ s.memoryWf := by
  simp [canaryEffect]

@[simp] theorem memoryWf_detourEffect (id op : Nat) (hs : s.memoryWf) : (detourEffect id op s).memoryWf := by
  unfold detourEffect
  split <;> simp [hs]

@[simp] theorem memoryWf_powerEffect (pl : List Byte) : (powerEffect pl s).memoryWf ↔ s.memoryWf := by simp [powerEffect]

@[simp] theorem memoryWf_freeBytes (n : Nat) : (freeBytes n s).2.memoryWf ↔ s.memoryWf := by
  induction n generalizing s with
  | zero => rfl
  | succ n ih => simp [freeBytes, ih]

@[simp] theorem memoryWf_diagnosticBytes (a n : Nat) : (diagnosticBytes s a n).2.memoryWf ↔ s.memoryWf := by
  simp [diagnosticBytes]
@[simp] theorem memoryWf_diagnosticFinds (ecc : List EccFind) (a n : Nat) (hs : s.memoryWf) :
    (diagnosticFinds ecc a n s).memoryWf := by simp +contextual [diagnosticFinds, hs]

@[simp] theorem memoryWf_takeCommand (f : Nat) : (takeCommand s f).memoryWf ↔ s.memoryWf := by
  unfold takeCommand
  dsimp only
  split <;> simp

@[simp] theorem memoryWf_takeCommands : (takeCommands s).memoryWf ↔ s.memoryWf := by simp [takeCommands]

section
variable {s} (h : s.memoryWf)
include h

theorem keepsForm_refitCommand (fn : Fn) (op : Nat) (own : State → Model → RefitSt → Option Refused) :
    keepsForm (refitCommand fn op own s) :=
  keepsForm_runCommand h fun pl t => by split <;> simp [h]

theorem keepsForm_detourCommand (fn : Fn) (op : Nat) : keepsForm (detourCommand fn op s) :=
  keepsForm_runCommand h fun pl t => by split <;> simp [h]

theorem keepsForm_execIdentify (fn : Fn) : keepsForm (execIdentify fn s) := keepsForm_runCommand h fun _ _ => by simp [h]
theorem keepsForm_execDeviceStatus (fn : Fn) :
    keepsForm (execDeviceStatus fn s) := keepsForm_runCommand h fun _ _ => by simp [h]
theorem keepsForm_execMemoryConfig (fn : Fn) :
    keepsForm (execMemoryConfig fn s) := keepsForm_runCommand h fun _ _ => by simp [h]
theorem keepsForm_execRidgeCanary (fn : Fn) :
    keepsForm (execRidgeCanary fn s) := keepsForm_runCommand h fun _ _ => by simp [h]
theorem keepsForm_execRefitPause (fn : Fn) : keepsForm (execRefitPause fn s) := keepsForm_refitCommand h _ _ _
theorem keepsForm_execRefitResume (fn : Fn) : keepsForm (execRefitResume fn s) := keepsForm_refitCommand h _ _ _
theorem keepsForm_execResetStats (fn : Fn) : keepsForm (execResetStats fn s) := keepsForm_refitCommand h _ _ _
theorem keepsForm_execPropose (fn : Fn) : keepsForm (execPropose fn s) := keepsForm_refitCommand h _ _ _
theorem keepsForm_execDiscard (fn : Fn) : keepsForm (execDiscard fn s) := keepsForm_refitCommand h _ _ _

theorem keepsForm_execCommit (fn : Fn) (ecc : List EccFind) : keepsForm (execCommit fn s ecc) := by
  refine keepsForm_runCommand h fun pl t => ?_
  split
  · exact h
  · dsimp only
    split <;> simp [h]

theorem keepsForm_execRefitQuery (fn : Fn) :
    keepsForm (execRefitQuery fn s) := keepsForm_runCommand h fun _ _ => by split <;> simp [h]
theorem keepsForm_execDetourQuery (fn : Fn) :
    keepsForm (execDetourQuery fn s) := keepsForm_runCommand h fun _ _ => by split <;> simp [h]
theorem keepsForm_execDetourHold (fn : Fn) : keepsForm (execDetourHold fn s) := keepsForm_detourCommand h _ _
theorem keepsForm_execDetourUnhold (fn : Fn) : keepsForm (execDetourUnhold fn s) := keepsForm_detourCommand h _ _
theorem keepsForm_execDetourEndAll (fn : Fn) : keepsForm (execDetourEndAll fn s) := keepsForm_detourCommand h _ _
theorem keepsForm_execPower (fn : Fn) : keepsForm (execPower fn s) := keepsForm_runCommand h fun _ _ => by simp [h]
theorem keepsForm_execSensors (fn : Fn) : keepsForm (execSensors fn s) := keepsForm_runCommand h fun _ _ => by simp [h]
theorem keepsForm_execEventQueue (fn : Fn) : keepsForm (execEventQueue fn s) := keepsForm_runCommand h fun _ _ => by simp [h]
theorem keepsForm_execEventLog (fn : Fn) : keepsForm (execEventLog fn s) := keepsForm_runCommand h fun _ _ => by simp [h]

theorem keepsForm_execMemRead (fn : Fn) (ecc : List EccFind) : keepsForm (execMemRead fn ecc s) := by
  refine keepsForm_runCommand h fun pl t => ?_
  dsimp only
  split <;> simp [h]

theorem keepsForm_execMemWrite (fn : Fn) (ecc : List EccFind) : keepsForm (execMemWrite fn ecc s) := by
  refine keepsForm_runCommand h fun pl t => ?_
  dsimp only
  split <;> simp [h]

theorem keepsForm_execContextDump (fn : Fn) :
    keepsForm (execContextDump fn s) := keepsForm_runCommand h fun _ _ => by simp [h]
theorem keepsForm_execStateAudit (fn : Fn) : keepsForm (execStateAudit fn s) := keepsForm_runCommand h fun _ _ => by simp [h]

end

/-! ## Interrupts, event queues and BAR0 -/

@[simp] theorem memoryWf_sendVector (f v : Nat) : (sendVector f v s).memoryWf ↔ s.memoryWf := by simp [sendVector]
@[simp] theorem memoryWf_deliverVector (f v : Nat) : (deliverVector f v s).memoryWf ↔ s.memoryWf := by simp [deliverVector]

@[simp] theorem memoryWf_writeMsix (f i dword value : Nat) : (writeMsix f i dword value s).memoryWf ↔ s.memoryWf := by
  unfold writeMsix
  split <;> simp

@[simp] theorem memoryWf_signalQueue (f : Nat) : (signalQueue f s).memoryWf ↔ s.memoryWf := by simp [signalQueue]
@[simp] theorem memoryWf_writeEntry (f : Nat) (e : Event) : (writeEntry f e s).memoryWf ↔ s.memoryWf := by simp [writeEntry]
@[simp] theorem memoryWf_offerEntry (e : Event) (f : Nat) : (offerEntry e f s).memoryWf ↔ s.memoryWf := by simp [offerEntry]

@[simp] theorem memoryWf_drainQueue (f : Nat) : (drainQueue s f).memoryWf ↔ s.memoryWf := by
  unfold drainQueue
  split
  · dsimp only
    split <;> rfl
  · dsimp only
    split <;> simp

@[simp] theorem memoryWf_writeHead (f value : Nat) : (writeHead f value s).memoryWf ↔ s.memoryWf := by simp [writeHead]
@[simp] theorem memoryWf_writeCause (f value : Nat) : (writeCause f value s).memoryWf ↔ s.memoryWf := by simp [writeCause]
@[simp] theorem memoryWf_clearRc (f o : Nat) : (clearRc f o s).memoryWf ↔ s.memoryWf := by simp [clearRc]

@[simp] theorem memoryWf_read32 (f o : Nat) : (read32 f o s).2.memoryWf ↔ s.memoryWf := by
  unfold read32
  split
  · rfl
  · split
    · simp
    · split <;> simp

@[simp] theorem memoryWf_readBar (f o n : Nat) : (readBar f o n s).2.memoryWf ↔ s.memoryWf := by simp [readBar]
@[simp] theorem memoryWf_readOut (f o n : Nat) : (readOut f o n s).memoryWf ↔ s.memoryWf := by simp [readOut]
@[simp] theorem memoryWf_holdLow (f value : Nat) : (holdLow f value s).memoryWf ↔ s.memoryWf := by simp [holdLow]
@[simp] theorem memoryWf_commitHigh (f value : Nat) : (commitHigh f value s).memoryWf ↔ s.memoryWf := by simp [commitHigh]

@[simp] theorem memoryWf_writeCommandPage (f o : Nat) (data : List Byte) :
    (writeCommandPage f o data s).memoryWf ↔ s.memoryWf := by
  unfold writeCommandPage
  split <;> simp

@[simp] theorem memoryWf_writeMbxCtrl (f value : Nat) : (writeMbxCtrl f value s).memoryWf ↔ s.memoryWf := by
  simp [writeMbxCtrl]

@[simp] theorem memoryWf_writeWait (f o value : Nat) : (writeWait f o value s).memoryWf ↔ s.memoryWf := by
  unfold writeWait
  split
  · rfl
  · split <;> simp

@[simp] theorem memoryWf_windowOp (o value n : Nat) : (windowOp o value n s).memoryWf ↔ s.memoryWf := by
  unfold windowOp
  split
  · simp
  · split <;> simp
  · rfl

@[simp] theorem memoryWf_writeWindow (f o value : Nat) : (writeWindow f o value s).memoryWf ↔ s.memoryWf := by
  simp [writeWindow]
@[simp] theorem memoryWf_write32 (f o value : Nat) : (write32 f o value s).memoryWf ↔ s.memoryWf := by simp [write32]
@[simp] theorem memoryWf_writeBar (f o : Nat) (data : List Byte) : (writeBar f o data s).memoryWf ↔ s.memoryWf := by
  simp [writeBar]

section
variable {s} (h : s.memoryWf)
include h

theorem keepsForm_execMsixMessage (fn : Fn) : keepsForm (execMsixMessage fn s) := by
  unfold execMsixMessage
  split <;> simp [h]

theorem keepsForm_execMsixTableWrite (fn : Fn) (offset value : Nat) :
    keepsForm (execMsixTableWrite fn offset value s) := by simp [execMsixTableWrite, h]

theorem keepsForm_execEventEntryWrite : keepsForm (execEventEntryWrite s) := by
  have hs : ((List.range 33).foldl drainQueue s).memoryWf := (memoryWf_foldl_iff _ (by simp) _ _).mpr h
  unfold execEventEntryWrite
  dsimp only
  split <;> simp [hs]

theorem keepsForm_execEventMsixCoalesce (fn : Fn) :
    keepsForm (execEventMsixCoalesce fn s) := by simp [execEventMsixCoalesce, h]
theorem keepsForm_execEvtQueueHeadWrite (fn : Fn) (value : Nat) :
    keepsForm (execEvtQueueHeadWrite fn value s) := by simp [execEvtQueueHeadWrite, h]
theorem keepsForm_execEvtIntCauseWrite (fn : Fn) (value : Nat) :
    keepsForm (execEvtIntCauseWrite fn value s) := by simp [execEvtIntCauseWrite, h]
theorem keepsForm_execCounterRcRead (fn : Fn) (offset size : Nat) :
    keepsForm (execCounterRcRead fn offset size s) := by simp [execCounterRcRead, h]
theorem keepsForm_execReg64LowRead (fn : Fn) (offset : Nat) :
    keepsForm (execReg64LowRead fn offset s) := by simp [execReg64LowRead, h]
theorem keepsForm_execReg64LowWrite (fn : Fn) (offset value : Nat) :
    keepsForm (execReg64LowWrite fn offset value s) := by simp [execReg64LowWrite, h]
theorem keepsForm_execReg64HighWrite (fn : Fn) (offset value : Nat) :
    keepsForm (execReg64HighWrite fn offset value s) := by simp [execReg64HighWrite, h]
theorem keepsForm_execRegisterWrite (fn : Fn) (offset : Nat) (data : List Byte) :
    keepsForm (execRegisterWrite fn offset data s) := by simp [execRegisterWrite, h]

end

/-! ## Resets and boot -/

@[simp] theorem memoryWf_resetDevice (b : BootSt) : (resetDevice b s).memoryWf := (memoryWf_mk ..).mpr rfl
@[simp] theorem memoryWf_linkKeptReset (cause : Nat) : (linkKeptReset cause s).memoryWf := memoryWf_resetDevice _ _

@[simp] theorem memoryWf_applyBoard (b : List Byte) : (applyBoard b s).memoryWf ↔ s.memoryWf := by
  unfold applyBoard
  dsimp only
  split <;> simp

@[simp] theorem memoryWf_loadIr (i : JtagIr) : (loadIr i s).memoryWf ↔ s.memoryWf := by simp [loadIr]
@[simp] theorem memoryWf_loadPins (i : JtagIr) : (loadPins i s).memoryWf ↔ s.memoryWf := by simp [loadPins]

section
variable {s} (h : s.memoryWf)
include h

omit h in
theorem keepsForm_execVddAuxRise : keepsForm (execVddAuxRise s) := by simp [execVddAuxRise]
theorem keepsForm_execPowerGoodRise (straps : Straps) :
    keepsForm (execPowerGoodRise straps s) := by simp [execPowerGoodRise, h]
theorem keepsForm_execPowerGoodFall : keepsForm (execPowerGoodFall s) := by simp [execPowerGoodFall, h]
theorem keepsForm_execPerstNFall : keepsForm (execPerstNFall s) := by simp [execPerstNFall, h]
theorem keepsForm_execPerstNRise : keepsForm (execPerstNRise s) := by simp [execPerstNRise, h]
theorem keepsForm_execPf0FunctionLevelReset :
    keepsForm (execPf0FunctionLevelReset s) := by simp [execPf0FunctionLevelReset, h]
theorem keepsForm_execWatchdogExpiry : keepsForm (execWatchdogExpiry s) := by simp [execWatchdogExpiry, h]
theorem keepsForm_execThermalTrip (_sensor : Fin 16) : keepsForm (execThermalTrip _sensor s) := by simp [execThermalTrip, h]
theorem keepsForm_execBootSlotReadDone (read : SlotRead) :
    keepsForm (execBootSlotReadDone read s) := by simp [execBootSlotReadDone, h]
theorem keepsForm_execConfigReady : keepsForm (execConfigReady s) := by simp [execConfigReady, h]
theorem keepsForm_execMailboxReady (board : List Byte) (refclkNet initOk : Bool) :
    keepsForm (execMailboxReady board refclkNet initOk s) := by
  simp [execMailboxReady, memoryWf_zeroMassif, h]

theorem keepsForm_execPcieConfigRequest (fn : Fn) (write : Option CfgWrite) :
    keepsForm (execPcieConfigRequest fn write s) := by
  unfold execPcieConfigRequest
  split
  · simp [h]
  · split
    · simp [h]
    · split <;> simp [h]

theorem keepsForm_execSmbusAvailable : keepsForm (execSmbusAvailable s) := by simp [execSmbusAvailable, h]
theorem keepsForm_execSmbusRead (addr code : Nat) : keepsForm (execSmbusRead addr code s) := by simp [execSmbusRead, h]

theorem keepsForm_execSmbusBoardCapWrite (addr value : Nat) (pec : Pec) :
    keepsForm (execSmbusBoardCapWrite addr value pec s) := by
  unfold execSmbusBoardCapWrite
  split
  · simp [h]
  · split
    · simp [h]
    · dsimp only
      split <;> simp [h]

theorem keepsForm_execSmbusBusTimeout : keepsForm (execSmbusBusTimeout s) := by simp [execSmbusBusTimeout, h]
theorem keepsForm_execBypass : keepsForm (execBypass s) := by simp [execBypass, h]
theorem keepsForm_execIdcode : keepsForm (execIdcode s) := by simp [execIdcode, h]
theorem keepsForm_execSamplePreload : keepsForm (execSamplePreload s) := by simp [execSamplePreload, h]
theorem keepsForm_execExtest : keepsForm (execExtest s) := by simp [execExtest, h]
theorem keepsForm_execExtestPulse : keepsForm (execExtestPulse s) := by simp [execExtestPulse, h]
theorem keepsForm_execExtestTrain : keepsForm (execExtestTrain s) := by simp [execExtestTrain, h]
theorem keepsForm_execClamp : keepsForm (execClamp s) := by simp [execClamp, h]
theorem keepsForm_execHighz : keepsForm (execHighz s) := by simp [execHighz, h]

end

/-! ## Ticks and epochs -/

@[simp] theorem memoryWf_closeTick : (closeTick s).memoryWf ↔ s.memoryWf := by simp [closeTick]
@[simp] theorem memoryWf_shedForward (hs : s.memoryWf) : (shedForward s).memoryWf := by simp +contextual [shedForward, hs]
@[simp] theorem memoryWf_updateLevel (hs : s.memoryWf) : (updateLevel s).memoryWf := by simp [updateLevel, hs]
@[simp] theorem memoryWf_latchReading : (latchReading s).memoryWf ↔ s.memoryWf := by simp [latchReading]

@[simp] theorem memoryWf_changePoint : (changePoint s).memoryWf ↔ s.memoryWf := by
  unfold changePoint
  split <;> simp

@[simp] theorem memoryWf_boardCapEffect (b : Nat) : (boardCapEffect b s).memoryWf ↔ s.memoryWf := by simp [boardCapEffect]
@[simp] theorem memoryWf_assignBank (b t : Nat) : (assignBank b t s).memoryWf ↔ s.memoryWf := by simp [assignBank]

@[simp] theorem memoryWf_dueEffect (ecc : List EccFind) (d : Due) (hs : s.memoryWf) : (dueEffect ecc d s).memoryWf := by
  cases d <;> simp [dueEffect, hs]

@[simp] theorem memoryWf_endReplaced : (endReplaced s).memoryWf ↔ s.memoryWf := by simp [endReplaced]
@[simp] theorem memoryWf_latchDue (ecc : List EccFind) (hs : s.memoryWf) : (latchDue ecc s).memoryWf := by
  simp +contextual [latchDue, hs]
@[simp] theorem memoryWf_foldRead (a : Nat) (ecc : List EccFind) : (foldRead a ecc s).2.memoryWf ↔ s.memoryWf := by
  simp [foldRead]

@[simp] theorem memoryWf_foldStat (first : Bool) (ecc : List EccFind) (key : Nat) :
    (foldStat first ecc key s).memoryWf ↔ s.memoryWf := by
  unfold foldStat
  split <;> simp

@[simp] theorem memoryWf_foldStats (first : Bool) (ecc : List EccFind) :
    (foldStats first ecc s).memoryWf ↔ s.memoryWf := by simp [foldStats]

@[simp] theorem memoryWf_planReplay (a : State × Plan) (x : Replay) (hs : a.1.memoryWf) : (planReplay a x).1.memoryWf := by
  unfold planReplay
  dsimp only
  split
  · exact hs
  · split
    · exact hs
    · split <;> simp [hs]

@[simp] theorem memoryWf_planReplays (a : State × Plan) (hs : a.1.memoryWf) : (planReplays a).1.memoryWf := by
  simp +contextual [planReplays, hs]

@[simp] theorem memoryWf_tenantTurn (t : Nat) (a : State × Plan × Bool) : (tenantTurn t a).1.memoryWf ↔ a.1.memoryWf := by
  unfold tenantTurn
  dsimp only
  split
  · rfl
  · split <;> simp

@[simp] theorem memoryWf_throughputRounds (n : Nat) (a : State × Plan) :
    (throughputRounds n a).1.memoryWf ↔ a.1.memoryWf := by
  induction n generalizing a with
  | zero => rfl
  | succ n ih =>
    unfold throughputRounds
    dsimp only
    split <;> simp [ih]

@[simp] theorem memoryWf_planCandidate (c : Nat) (a : State × Plan) : (planCandidate c a).1.memoryWf ↔ a.1.memoryWf := by
  unfold planCandidate
  split
  · rfl
  · split
    · rfl
    · dsimp only
      split <;> simp

theorem memoryWf_grantCandidate {slot k : Nat} {a b : State × Plan} (h : grantCandidate slot k a = some b) :
    b.1.memoryWf ↔ a.1.memoryWf := by
  unfold grantCandidate at h
  dsimp only at h
  split at h
  · cases h
    rfl
  · split at h
    · cases h
      rfl
    · split at h
      · cases h
      · split at h
        · cases h
        · obtain ⟨y, hy, rfl⟩ := Option.map_eq_some_iff.mp h
          simpa using memoryWf_takeCtx hy

@[simp] theorem memoryWf_keepOrGrant (left : Nat) (b : Nat → BgReq) :
    (keepOrGrant left b s).memoryWf ↔ s.memoryWf := by simp [keepOrGrant]

@[simp] theorem memoryWf_grantOne (a : State × Plan) (b : BgReq) : (grantOne a b).1.memoryWf ↔ a.1.memoryWf := by
  unfold grantOne
  dsimp only
  split
  · split
    next hy => exact memoryWf_grantCandidate hy
    · simp
  · simp
  · simp
  · split <;> simp
  · split
    · rfl
    · split <;> simp

@[simp] theorem memoryWf_grantBackground (a : State × Plan) :
    (grantBackground a).1.memoryWf ↔ a.1.memoryWf := by simp [grantBackground]
@[simp] theorem memoryWf_grantFloor (a : State × Plan) : (grantFloor a).1.memoryWf ↔ a.1.memoryWf := by simp [grantFloor]
@[simp] theorem memoryWf_askPatrol : (askPatrol s).memoryWf ↔ s.memoryWf := by simp [askPatrol]
@[simp] theorem memoryWf_clearPlan : (clearPlan s).memoryWf ↔ s.memoryWf := by simp [clearPlan]
@[simp] theorem memoryWf_buildPlan (hs : s.memoryWf) : (buildPlan s).memoryWf := by simp [buildPlan, hs]
@[simp] theorem memoryWf_beginParking : (beginParking s).memoryWf ↔ s.memoryWf := by simp [beginParking]
@[simp] theorem memoryWf_countCycles (n : Nat) : (countCycles n s).memoryWf ↔ s.memoryWf := by simp [countCycles]
@[simp] theorem memoryWf_freeStaging (hs : s.memoryWf) : (freeStaging s).memoryWf :=
  memoryWf_foldl _ (fun s c hs => by split <;> simp [hs]) _ _ hs
@[simp] theorem memoryWf_endCycle (hs : s.memoryWf) : (endCycle s).memoryWf := by simp [endCycle, hs]
@[simp] theorem memoryWf_cycle (hs : s.memoryWf) : (cycle s).memoryWf := by simp [cycle, hs]

@[simp] theorem memoryWf_restCycles (n : Nat) (hs : s.memoryWf) : (restCycles n s).memoryWf := by
  induction n generalizing s with
  | zero => exact hs
  | succ n ih => simp [restCycles, ih, hs]

@[simp] theorem memoryWf_idleCycles (n : Nat) (hs : s.memoryWf) : (idleCycles n s).memoryWf := by
  cases n with
  | zero => exact hs
  | succ n => simp [idleCycles, hs]

@[simp] theorem memoryWf_idle (hs : s.memoryWf) : (idle s).memoryWf := by simp [idle, hs]
@[simp] theorem memoryWf_boundaryStart (first : Bool) : (boundaryStart first s).memoryWf ↔ s.memoryWf := by
  simp [boundaryStart]

@[simp] theorem memoryWf_boundaryLatch (first : Bool) (ecc : List EccFind) (hs : s.memoryWf) :
    (boundaryLatch first ecc s).memoryWf := by simp [boundaryLatch, hs]

@[simp] theorem memoryWf_boundaryBudget (first : Bool) (ecc : List EccFind) (hs : s.memoryWf) :
    (boundaryBudget first ecc s).memoryWf := by simp [boundaryBudget, hs]
@[simp] theorem memoryWf_autoStep : (autoStep s).memoryWf ↔ s.memoryWf := by simp [autoStep]
@[simp] theorem memoryWf_rewriteTables : (rewriteTables s).memoryWf ↔ s.memoryWf := by simp [rewriteTables]
@[simp] theorem memoryWf_restoreStats : (restoreStats s).memoryWf ↔ s.memoryWf := by simp [restoreStats]

section
variable {s} (h : s.memoryWf)
include h

theorem keepsForm_execSensorReading (sensor : Fin 16) (quarterDegrees : Int) (selfTestOk : Bool) :
    keepsForm (execSensorReading sensor quarterDegrees selfTestOk s) := by simp [execSensorReading, h]

theorem keepsForm_execVoltageUpRequest : keepsForm (execVoltageUpRequest s) := by
  unfold execVoltageUpRequest
  split
  · simp [h]
  · split <;> simp [h]

theorem keepsForm_execMilestone (ecc : List EccFind) : keepsForm (execMilestone s ecc) := by
  cases hc : s.time.clockOn with
  | false => simp [execMilestone, hc, h]
  | true =>
    have hnew : (newTick s).memoryWf := by simp [newTick, h]
    have hstart := (memoryWf_boundaryStart _ (!s.time.firstMilestoneDone)).mpr hnew
    have hlatch := memoryWf_boundaryLatch _ (!s.time.firstMilestoneDone) ecc hstart
    have hbudget := memoryWf_boundaryBudget _ (!s.time.firstMilestoneDone) ecc hlatch
    have hafter : (afterMilestone ecc s).memoryWf := by simp [afterMilestone, hbudget]
    show keepsForm (exec (.milestone ecc) s)
    rw [exec_milestone hc ecc]
    simpa using hafter

theorem keepsForm_execEpochStart (measuredMw : Nat) (ecc : List EccFind) :
    keepsForm (execEpochStart measuredMw s ecc) := by simp [execEpochStart, h]

end

end Sys2Proof.Machine
end

section
/-! SUPPORT. Every step keeps memory's canonical form: row by row of the opcode table, and a cycle with no row. -/

namespace Sys2Proof.Machine

/-- Whatever command runs, memory that is canonical stays so. -/
theorem keepsForm_exec {s : State} (h : s.memoryWf) (i : Instr) : keepsForm (exec i s) := by
  cases i with
  | vddAuxRise => exact keepsForm_execVddAuxRise
  | powerGoodRise straps => exact keepsForm_execPowerGoodRise h straps
  | powerGoodFall => exact keepsForm_execPowerGoodFall h
  | perstNFall => exact keepsForm_execPerstNFall h
  | perstNRise => exact keepsForm_execPerstNRise h
  | pf0FunctionLevelReset => exact keepsForm_execPf0FunctionLevelReset h
  | watchdogExpiry => exact keepsForm_execWatchdogExpiry h
  | thermalTrip sensor => exact keepsForm_execThermalTrip h sensor
  | bootSlotReadDone read => exact keepsForm_execBootSlotReadDone h read
  | configReady => exact keepsForm_execConfigReady h
  | mailboxReady board refclkNet initOk => exact keepsForm_execMailboxReady h board refclkNet initOk
  | pcieConfigRequest fn write => exact keepsForm_execPcieConfigRequest h fn write
  | vfFunctionLevelReset vf => exact keepsForm_execVfFunctionLevelReset h vf
  | vfEnableClear => exact keepsForm_execVfEnableClear h
  | smbusRead addr code => exact keepsForm_execSmbusRead h addr code
  | smbusBoardCapWrite addr value pec => exact keepsForm_execSmbusBoardCapWrite h addr value pec
  | smbusBusTimeout => exact keepsForm_execSmbusBusTimeout h
  | bypass => exact keepsForm_execBypass h
  | idcode => exact keepsForm_execIdcode h
  | samplePreload => exact keepsForm_execSamplePreload h
  | extest => exact keepsForm_execExtest h
  | extestPulse => exact keepsForm_execExtestPulse h
  | extestTrain => exact keepsForm_execExtestTrain h
  | clamp => exact keepsForm_execClamp h
  | highz => exact keepsForm_execHighz h
  | milestone ecc => exact keepsForm_execMilestone h ecc
  | epochStart measuredMw ecc => exact keepsForm_execEpochStart h measuredMw ecc
  | voltageUpRequest => exact keepsForm_execVoltageUpRequest h
  | sensorReading sensor quarterDegrees selfTestOk => exact keepsForm_execSensorReading h sensor quarterDegrees selfTestOk
  | linkUp port => exact keepsForm_execLinkUp h port
  | linkDown port cut => exact keepsForm_execLinkDown h port cut
  | recordStart port head => exact keepsForm_execRecordStart h port head
  | recordFrameRx port frame check => exact keepsForm_execRecordFrameRx h port frame check
  | feedbackFrameRx port frame check => exact keepsForm_execFeedbackFrameRx h port frame check
  | pfcFrameRx port length mask quanta => exact keepsForm_execPfcFrameRx h port length mask quanta
  | pauseFrameRx port length => exact keepsForm_execPauseFrameRx h port length
  | arpRequestRx port frame check => exact keepsForm_execArpRequestRx h port frame check
  | neighbourSolicitationRx port frame check => exact keepsForm_execNeighbourSolicitationRx h port frame check
  | arpReplySend port => exact keepsForm_execArpReplySend h port
  | neighbourAdvertisementSend port => exact keepsForm_execNeighbourAdvertisementSend h port
  | pfcXoffRepeat port pcp => exact keepsForm_execPfcXoffRepeat h port pcp
  | pfcXonSend port pcp => exact keepsForm_execPfcXonSend h port pcp
  | trailheadTableReadDone ctx => exact keepsForm_execTrailheadTableReadDone h ctx
  | portDrainComplete port => exact keepsForm_execPortDrainComplete h port
  | signpostEntry pipeline => exact keepsForm_execSignpostEntry h pipeline
  | ternaryStep ctx => exact keepsForm_execTernaryStep h ctx
  | rangeStep ctx => exact keepsForm_execRangeStep h ctx
  | automatonStep ctx parity => exact keepsForm_execAutomatonStep h ctx parity
  | nextStep ctx => exact keepsForm_execNextStep h ctx
  | stepResult ctx => exact keepsForm_execStepResult h ctx
  | walkerMissReadDone ctx => exact keepsForm_execWalkerMissReadDone h ctx
  | shadowCompare bank found shadow readBackBad => exact keepsForm_execShadowCompare h bank found shadow readBackBad
  | dispatcherAdmission ctx => exact keepsForm_execDispatcherAdmission h ctx
  | passBind ctx => exact keepsForm_execPassBind h ctx
  | broadcastDone ctx ridge => exact keepsForm_execBroadcastDone h ctx ridge
  | setLoadStart ridge => exact keepsForm_execSetLoadStart h ridge
  | setLoadDone ridge ecc => exact keepsForm_execSetLoadDone h ridge ecc
  | passIssue ridge faults => exact keepsForm_execPassIssue h ridge faults
  | standInLoadDone ridge => exact keepsForm_execStandInLoadDone h ridge
  | partialsLeaveRidge ridge => exact keepsForm_execPartialsLeaveRidge h ridge
  | ridgeSramPatrolStep ecc => exact keepsForm_execRidgeSramPatrolStep h ecc
  | partialArrival ridge => exact keepsForm_execPartialArrival h ridge
  | rowAdd ctx eccFault => exact keepsForm_execRowAdd h ctx eccFault
  | parkEntryWritten ctx => exact keepsForm_execParkEntryWritten h ctx
  | restoreDone ctx ecc => exact keepsForm_execRestoreDone h ctx ecc
  | summitFusedOutput ctx => exact keepsForm_execSummitFusedOutput h ctx
  | scoreFrameAssembly ctx => exact keepsForm_execScoreFrameAssembly h ctx
  | transmitQueueEntry port => exact keepsForm_execTransmitQueueEntry h port
  | txMacHandoff port => exact keepsForm_execTxMacHandoff h port
  | xchipWaitExpiry ctx => exact keepsForm_execXchipWaitExpiry h ctx
  | feedbackGradient => exact keepsForm_execFeedbackGradient h
  | feedbackProcess ecc => exact keepsForm_execFeedbackProcess h ecc
  | decaySweep tenant handle ecc => exact keepsForm_execDecaySweep h tenant handle ecc
  | proposalPassEnd tenant handle ecc => exact keepsForm_execProposalPassEnd h tenant handle ecc
  | candidateResult ctx => exact keepsForm_execCandidateResult h ctx
  | moveChoice slot => exact keepsForm_execMoveChoice h slot
  | detourTimeLimit slot => exact keepsForm_execDetourTimeLimit h slot
  | colCacheFill line ecc parityError => exact keepsForm_execColCacheFill h line ecc parityError
  | patrolStep ecc => exact keepsForm_execPatrolStep h ecc
  | healBlockReadDone data ecc => exact keepsForm_execHealBlockReadDone h data ecc
  | dmaRingTailWrite fn stream value => exact keepsForm_execDmaRingTailWrite h fn stream value
  | descriptorStart stream descriptor => exact keepsForm_execDescriptorStart h stream descriptor
  | dmaRequestIssue => exact keepsForm_execDmaRequestIssue h
  | dmaElement stream number data ecc tables => exact keepsForm_execDmaElement h stream number data ecc tables
  | translationCompletion fn page sizeLog2 read write target =>
      exact keepsForm_execTranslationCompletion h fn page sizeLog2 read write target
  | pageRequestResponse fn page response => exact keepsForm_execPageRequestResponse h fn page response
  | priLimitExpiry fn page => exact keepsForm_execPriLimitExpiry h fn page
  | descriptorComplete stream number => exact keepsForm_execDescriptorComplete h stream number
  | ringAnswerWrite stream => exact keepsForm_execRingAnswerWrite h stream
  | atsInvalidateRequest fn page sizeLog2 => exact keepsForm_execAtsInvalidateRequest h fn page sizeLog2
  | linkTrainingDone saddle ok => exact keepsForm_execLinkTrainingDone h saddle ok
  | initResend saddle => exact keepsForm_execInitResend h saddle
  | initFlitRx saddle flit fec => exact keepsForm_execInitFlitRx h saddle flit fec
  | fabricMismatchRetry saddle => exact keepsForm_execFabricMismatchRetry h saddle
  | dataFlitRx saddle flit fec => exact keepsForm_execDataFlitRx h saddle flit fec
  | idleFlitRx saddle flit fec => exact keepsForm_execIdleFlitRx h saddle flit fec
  | retryReqRx saddle flit fec => exact keepsForm_execRetryReqRx h saddle flit fec
  | retryReqRepeat saddle => exact keepsForm_execRetryReqRepeat h saddle
  | ackTimeout saddle => exact keepsForm_execAckTimeout h saddle
  | notReadyRx saddle flit fec => exact keepsForm_execNotReadyRx h saddle flit fec
  | notReadyBackoffExpiry saddle => exact keepsForm_execNotReadyBackoffExpiry h saddle
  | zuothLaneLoss saddle => exact keepsForm_execZuothLaneLoss h saddle
  | linkHoldExpiry saddle => exact keepsForm_execLinkHoldExpiry h saddle
  | messageSend saddle => exact keepsForm_execMessageSend h saddle
  | messageForward saddle => exact keepsForm_execMessageForward h saddle
  | messageViolation saddle => exact keepsForm_execMessageViolation h saddle
  | rdS port ecc => exact keepsForm_execRdS h port ecc
  | rdM port ecc => exact keepsForm_execRdM h port ecc
  | wmkSignal port => exact keepsForm_execWmkSignal h port
  | snpShare port => exact keepsForm_execSnpShare h port
  | snpInv port => exact keepsForm_execSnpInv h port
  | snpRspInvalid port ecc => exact keepsForm_execSnpRspInvalid h port ecc
  | snpRspAck port ecc => exact keepsForm_execSnpRspAck h port ecc
  | snpRspEvicting port ecc => exact keepsForm_execSnpRspEvicting h port ecc
  | snpRspData port ecc => exact keepsForm_execSnpRspData h port ecc
  | evictClean port ecc => exact keepsForm_execEvictClean h port ecc
  | evictDirty port ecc => exact keepsForm_execEvictDirty h port ecc
  | evictAck port => exact keepsForm_execEvictAck h port
  | dataS port => exact keepsForm_execDataS h port
  | dataE port => exact keepsForm_execDataE h port
  | dataM port => exact keepsForm_execDataM h port
  | nak port => exact keepsForm_execNak h port
  | commonsNakRetry tag => exact keepsForm_execCommonsNakRetry h tag
  | commonsRequestTimeout eviction tag => exact keepsForm_execCommonsRequestTimeout h eviction tag
  | commonsSnoopTimeout tag ecc => exact keepsForm_execCommonsSnoopTimeout h tag ecc
  | recordMc port => exact keepsForm_execRecordMc h port
  | term port => exact keepsForm_execTerm h port
  | refitGh port ecc => exact keepsForm_execRefitGh h port ecc
  | ping port => exact keepsForm_execPing h port
  | pong port => exact keepsForm_execPong h port
  | wmkSignalWrite fn index n e => exact keepsForm_execWmkSignalWrite h fn index n e
  | wmkReset fn index => exact keepsForm_execWmkReset h fn index
  | wmkArmBarrier fn index a => exact keepsForm_execWmkArmBarrier h fn index a
  | wmkClearErr fn index => exact keepsForm_execWmkClearErr h fn index
  | wmkRemoteOn fn index => exact keepsForm_execWmkRemoteOn h fn index
  | wmkRemoteOff fn index => exact keepsForm_execWmkRemoteOff h fn index
  | waitArm fn slot ctrl => exact keepsForm_execWaitArm h fn slot ctrl
  | waitCancel fn slot ctrl => exact keepsForm_execWaitCancel h fn slot ctrl
  | waitTimeoutExpiry fn slot => exact keepsForm_execWaitTimeoutExpiry h fn slot
  | wmkRemoteWrite fn value => exact keepsForm_execWmkRemoteWrite h fn value
  | msixMessage fn => exact keepsForm_execMsixMessage h fn
  | msixTableWrite fn offset value => exact keepsForm_execMsixTableWrite h fn offset value
  | eventEntryWrite => exact keepsForm_execEventEntryWrite (s := s) h
  | eventMsixCoalesce fn => exact keepsForm_execEventMsixCoalesce h fn
  | evtQueueHeadWrite fn value => exact keepsForm_execEvtQueueHeadWrite h fn value
  | evtIntCauseWrite fn value => exact keepsForm_execEvtIntCauseWrite h fn value
  | counterRcRead fn offset size => exact keepsForm_execCounterRcRead h fn offset size
  | reg64LowRead fn offset => exact keepsForm_execReg64LowRead h fn offset
  | reg64LowWrite fn offset value => exact keepsForm_execReg64LowWrite h fn offset value
  | reg64HighWrite fn offset value => exact keepsForm_execReg64HighWrite h fn offset value
  | registerWrite fn offset data => exact keepsForm_execRegisterWrite h fn offset data
  | mbxDoorbellRing fn value => exact keepsForm_execMbxDoorbellRing h fn value
  | identify fn => exact keepsForm_execIdentify h fn
  | deviceStatus fn => exact keepsForm_execDeviceStatus h fn
  | memoryConfig fn => exact keepsForm_execMemoryConfig h fn
  | ridgeCanary fn => exact keepsForm_execRidgeCanary h fn
  | fabricConfig fn => exact keepsForm_execFabricConfig h fn
  | commonsWindowCreate fn => exact keepsForm_execCommonsWindowCreate h fn
  | commonsWindowRemove fn => exact keepsForm_execCommonsWindowRemove h fn
  | modelLoad fn => exact keepsForm_execModelLoad h fn
  | imageFetchDone failedAt image ecc => exact keepsForm_execImageFetchDone h failedAt image ecc
  | modelUnload fn => exact keepsForm_execModelUnload h fn
  | modelDrainDone tenant handle => exact keepsForm_execModelDrainDone h tenant handle
  | modelZeroiseDone tenant handle => exact keepsForm_execModelZeroiseDone h tenant handle
  | oldImageRetire tenant handle => exact keepsForm_execOldImageRetire h tenant handle
  | modelQuery fn => exact keepsForm_execModelQuery h fn
  | modelStats fn => exact keepsForm_execModelStats h fn
  | modelCalibrate fn => exact keepsForm_execModelCalibrate h fn
  | signpostBankAssign fn => exact keepsForm_execSignpostBankAssign h fn
  | signpostBankRelease fn => exact keepsForm_execSignpostBankRelease h fn
  | signpostBankConfigure fn => exact keepsForm_execSignpostBankConfigure h fn
  | signpostEntries fn => exact keepsForm_execSignpostEntries h fn
  | portMode fn => exact keepsForm_execPortMode h fn
  | portAddress fn => exact keepsForm_execPortAddress h fn
  | portStateOpen fn => exact keepsForm_execPortStateOpen h fn
  | portStateDraining fn => exact keepsForm_execPortStateDraining h fn
  | endpointAdd fn => exact keepsForm_execEndpointAdd h fn
  | endpointRemove fn => exact keepsForm_execEndpointRemove h fn
  | portQuery fn => exact keepsForm_execPortQuery h fn
  | tenantSet fn => exact keepsForm_execTenantSet h fn
  | tenantEnable fn => exact keepsForm_execTenantEnable h fn
  | tenantDisable fn => exact keepsForm_execTenantDisable h fn
  | tenantPreempt fn => exact keepsForm_execTenantPreempt h fn
  | tenantResume fn => exact keepsForm_execTenantResume h fn
  | tenantRelease fn => exact keepsForm_execTenantRelease h fn
  | tenantQuery fn => exact keepsForm_execTenantQuery h fn
  | waymarkInitReset fn => exact keepsForm_execWaymarkInitReset h fn
  | waymarkInitArmBarrier fn => exact keepsForm_execWaymarkInitArmBarrier h fn
  | waymarkInitRemoteOn fn => exact keepsForm_execWaymarkInitRemoteOn h fn
  | waymarkInitRemoteOff fn => exact keepsForm_execWaymarkInitRemoteOff h fn
  | waymarkQuery fn => exact keepsForm_execWaymarkQuery h fn
  | streamConfig fn => exact keepsForm_execStreamConfig h fn
  | streamStart fn => exact keepsForm_execStreamStart h fn
  | streamStop fn => exact keepsForm_execStreamStop h fn
  | dataAllocAllocate fn => exact keepsForm_execDataAllocAllocate h fn
  | dataAllocFree fn => exact keepsForm_execDataAllocFree h fn
  | refitPause fn => exact keepsForm_execRefitPause h fn
  | refitResume fn => exact keepsForm_execRefitResume h fn
  | resetStats fn => exact keepsForm_execResetStats h fn
  | propose fn => exact keepsForm_execPropose h fn
  | discard fn => exact keepsForm_execDiscard h fn
  | commit fn ecc => exact keepsForm_execCommit h fn ecc
  | refitQuery fn => exact keepsForm_execRefitQuery h fn
  | detourQuery fn => exact keepsForm_execDetourQuery h fn
  | detourHold fn => exact keepsForm_execDetourHold h fn
  | detourUnhold fn => exact keepsForm_execDetourUnhold h fn
  | detourEndAll fn => exact keepsForm_execDetourEndAll h fn
  | power fn => exact keepsForm_execPower h fn
  | sensors fn => exact keepsForm_execSensors h fn
  | eventQueue fn => exact keepsForm_execEventQueue h fn
  | eventLog fn => exact keepsForm_execEventLog h fn
  | memRead fn ecc => exact keepsForm_execMemRead h fn ecc
  | memWrite fn ecc => exact keepsForm_execMemWrite h fn ecc
  | contextDump fn => exact keepsForm_execContextDump h fn
  | signpostSearch fn => exact keepsForm_execSignpostSearch h fn
  | stateAudit fn => exact keepsForm_execStateAudit h fn
  | pfcPauseExpiry port pcp => exact keepsForm_execPfcPauseExpiry h port pcp
  | completionTimeout stream number => exact keepsForm_execCompletionTimeout h stream number
  | adaptiveRouteFallback saddle => exact keepsForm_execAdaptiveRouteFallback h saddle
  | smbusAvailable => exact keepsForm_execSmbusAvailable h
  | fecLockAttemptFail port => exact keepsForm_execFecLockAttemptFail h port

/-- Settles O4: the command at the front runs on a state that differs in its queue alone, and on an empty queue a cycle
passes. -/
theorem everyStepKeepsMemoryCanonical : Obligations.EveryStepKeepsMemoryCanonical := by
  unfold Obligations.EveryStepKeepsMemoryCanonical
  intro s t h ht
  cases hq : s.pending with
  | nil =>
    cases (step_nil s hq).symm.trans ht
    exact memoryWf_idle s h
  | cons c rest => exact keepsForm_exec (s := { s with pending := rest }) h c t ((step_cons c s rest hq).symm.trans ht)

end Sys2Proof.Machine
end

section
/-! SUPPORT. What memory reads after a write and after a clear (R226, R227). -/

namespace Sys2Proof.Machine

variable (m : MemSt) (a : Nat)

/-- A store cut down by its keys lists the kept keys as before, and no other. -/
theorem kvGet_filter {α : Type} (m : Kv α) (keep : Nat → Bool) (k : Nat) :
    kvGet (m.filter fun p => keep p.1) k = if keep k = true then kvGet m k else none := by
  induction m with
  | nil => simp [kvGet]
  | cons p m ih =>
    obtain ⟨j, v⟩ := p
    by_cases hjk : j = k
    · subst hjk
      cases hj : keep j <;> simp [kvGet, hj, ih]
    · cases hj : keep j <;> simp [kvGet, hj, hjk, ih]

/-- Zeroed addresses read 0, and every other byte is as it was. -/
theorem memByte_memClear (n k : Nat) :
    memByte (memClear m a n) k = if a ≤ k ∧ k < a + n then 0 else memByte m k := by
  rw [memByte, memClear, kvGet_filter m.cells (fun j => j < a || a + n ≤ j)]
  by_cases hk : a ≤ k ∧ k < a + n
  · rw [if_pos hk, if_neg (by simpa using hk), Option.getD_none]
  · rw [if_neg hk, if_pos (by simp; omega), memByte]

theorem memByte_memPut_above {bs : List Byte} {k : Nat} (hk : a + bs.length ≤ k) :
    memByte (memPut m a bs) k = memByte m k := by
  induction bs generalizing m a with
  | nil => rfl
  | cons b bs ih =>
    rw [List.length_cons] at hk
    rw [memPut, ih _ _ (by omega), memByte_memPutByte, if_neg (by omega)]

/-- Settles O33: an address below the write, one with a byte of its own in the list, or one above it. -/
theorem memoryReadsBackWhatWasWritten : Obligations.MemoryReadsBackWhatWasWritten := by
  unfold Obligations.MemoryReadsBackWhatWasWritten
  intro m a k n bs
  refine ⟨?_, memByte_memClear m a n k, fun hwf => ⟨memPut_wf m a bs hwf, memClear_wf m a n hwf⟩⟩
  split
  case isFalse hk => exact memByte_memPut_below m a bs (by omega)
  case isTrue hk =>
    obtain ⟨i, rfl⟩ := Nat.exists_eq_add_of_le hk
    rw [Nat.add_sub_cancel_left]
    cases hb : bs[i]? with
    | some b => exact memByte_memPut m a bs hb
    | none => exact memByte_memPut_above m a (Nat.add_le_add_left (List.getElem?_eq_none_iff.mp hb) a)

end Sys2Proof.Machine
end

section
/-! SUPPORT. The mailboxes and the tenants, which no event, no count, no write to memory and no Waymark update changes, and
the place of a status in the page that answers a command (R374, R378). -/

namespace Sys2Proof.Machine

/-- The mailboxes of the functions. -/
def State.mailboxes (s : State) : List Mailbox := s.fns.map (·.mbx)

theorem mbx_eq_getD_mailboxes (s : State) (f : Nat) : (s.fn f).mbx = s.mailboxes.getD f (FnSt.reset f).mbx := by
  rw [State.mailboxes, List.getD_map, State.fn]

theorem mbx_of_mailboxes {s t : State} (h : t.mailboxes = s.mailboxes) (f : Nat) : (t.fn f).mbx = (s.fn f).mbx := by
  rw [mbx_eq_getD_mailboxes, h, mbx_eq_getD_mailboxes]

theorem length_fns_of_mailboxes {s t : State} (h : t.mailboxes = s.mailboxes) : t.fns.length = s.fns.length := by
  simpa [State.mailboxes] using congrArg List.length h

/-- The mailbox of the function that is answered: DONE, with the status in its page. -/
theorem mbx_of_answeredAs {f status : Nat} {payload : List Byte} {s t : State} (h : answeredAs f status payload s t)
    (hf : f < s.fns.length) : (t.fn f).mbx.state = .done ∧ leAt (t.fn f).mbx.resp 8 2 = leNat (leBytes 2 status) := by
  have hfn : t.fn f = _ := (congrArg (·.fn f) h).trans (getD_modify_eq s.fns f _ _ hf)
  rw [hfn]
  exact ⟨rfl, rfl⟩

section
variable (s : State)

@[simp] theorem mailboxes_count (k n : Nat) : (count k n s).mailboxes = s.mailboxes := by rw [count_frame]; rfl

@[simp] theorem mailboxes_modMem (f : MemSt → MemSt) : (modMem f s).mailboxes = s.mailboxes := rfl

@[simp] theorem mailboxes_markLost (f : Nat) : (markLost f s).mailboxes = s.mailboxes := by
  refine map_modify_of_keeps (fun x => ?_) s.fns f
  split <;> rfl

@[simp] theorem mailboxes_raise (c t : Nat) (d : List Byte) : (raise c t d s).mailboxes = s.mailboxes := by
  unfold raise
  split
  · rfl
  · exact foldl_keeps (fun t => t.mailboxes = s.mailboxes) _ (fun t f ht => (mailboxes_markLost t f).trans ht) _ _
      (mailboxes_count s _ _)

end

/-! ## What the checks of a command tell of its page (R381) -/

theorem firstRefusal_eq_none {l : List (Option Refused)} : firstRefusal l = none ↔ ∀ r ∈ l, r = none := by
  induction l with
  | nil => simp [firstRefusal]
  | cons r l ih => cases r <;> simp [firstRefusal, ih]

theorem unless_eq_none {ok : Bool} {r : Refused} : unless_ ok r = none ↔ ok = true := by
  cases ok <;> simp [unless_]

/-- A command that passes the common checks is as long as its opcode's layout. -/
theorem pageLen_of_commonCheck {s : State} {f : Nat} {m : Mailbox} {sp : CmdSpec} (h : commonCheck s f m = none)
    (hsp : cmdSpec s (pageOp m.run) (pageArea m.run) = some sp) : pageLen m.run = sp.length := by
  unfold commonCheck at h
  dsimp only at h
  split at h
  · cases h
  · simp only [hsp, firstRefusal_eq_none, List.forall_mem_cons, unless_eq_none, Bool.and_eq_true, beq_iff_eq] at h
    obtain ⟨-, ⟨hlen, -⟩, -⟩ := h
    exact hlen

theorem byteAt_slice (bs : List Byte) {a n o : Nat} (ho : o < n) : byteAt (slice bs a n) o = byteAt bs (a + o) := by
  simp [byteAt, slice, List.headD_eq_head?_getD, ho]

end Sys2Proof.Machine
end

section
/-! SUPPORT. Plots that are taken and given back (R228, R232): their kinds, their owners and their bytes. -/

namespace Sys2Proof.Machine

/-- Where each step of a fold sets what a view shows under its own number, the fold sets it under every number of its list. -/
theorem foldl_sets {α : Type} {view : State → Nat → α} {num : Nat → Nat} {x : α} {g : State → Nat → State}
    (hg : ∀ s p k, view (g s p) k = if num k = p then x else view s k) (ps : List Nat) (s : State) (k : Nat) :
    view (ps.foldl g s) k = if num k ∈ ps then x else view s k := by
  induction ps generalizing s with
  | nil => rfl
  | cons p ps ih =>
    rw [List.foldl_cons, ih, hg]
    by_cases hp : num k = p <;> simp [hp]

section
variable (s : State) (p : Nat)

theorem plot_setPlot (x : PlotKind × Option Nat) (q : Nat) :
    (setPlot p x s).plot q = if q = p then x else s.plot q := kvGet_kvPut _ s.mem.plots p q x

theorem memByte_clearPlot (m : MemSt) (k : Nat) :
    memByte (memClear m (p * plotSize) plotSize) k = if k / plotSize = p then 0 else memByte m k := by
  have hin : (p * plotSize ≤ k ∧ k < p * plotSize + plotSize) ↔ k / plotSize = p := by
    rw [Nat.div_eq_iff (by decide)]
    simp only [plotSize]
    omega
  simp only [memByte_memClear, hin]

theorem plot_foldl_takePlot (ps : List Nat) (x : PlotKind × Option Nat) (q : Nat) :
    (ps.foldl (fun s p => takePlot p x s) s).plot q = if q ∈ ps then x else s.plot q :=
  foldl_sets (view := State.plot) (num := id) (fun s p => plot_setPlot (modMem _ s) p x) ps s q

theorem memByte_foldl_takePlot (ps : List Nat) (x : PlotKind × Option Nat) (k : Nat) :
    memByte (ps.foldl (fun s p => takePlot p x s) s).mem k = if k / plotSize ∈ ps then 0 else memByte s.mem k :=
  foldl_sets (view := fun s k => memByte s.mem k) (num := (· / plotSize)) (fun s p => memByte_clearPlot p s.mem) ps s k

theorem plot_freePlot (q : Nat) : (freePlot p s).plot q = if q = p then (.free, none) else s.plot q := by
  rw [freePlot, plot_setPlot, colInvalidate, State.plot, mem_count]
  rfl

theorem memByte_freePlot (k : Nat) :
    memByte (freePlot p s).mem k = if k / plotSize = p then 0 else memByte s.mem k := by
  rw [← memByte_clearPlot, freePlot, setPlot, modMem, colInvalidate, mem_count]
  rfl

theorem plot_releasePlots (ps : List Nat) (q : Nat) :
    (releasePlots ps s).plot q = if q ∈ ps then (.free, none) else s.plot q :=
  foldl_sets (view := State.plot) (num := id) (fun s p => plot_freePlot s p) ps s q

theorem memByte_releasePlots (ps : List Nat) (k : Nat) :
    memByte (releasePlots ps s).mem k = if k / plotSize ∈ ps then 0 else memByte s.mem k :=
  foldl_sets (view := fun s k => memByte s.mem k) (num := (· / plotSize)) (fun s p => memByte_freePlot s p) ps s k

/-! ## What they leave -/

theorem dma_foldl_takePlot (ps : List Nat) (x : PlotKind × Option Nat) :
    (ps.foldl (fun s p => takePlot p x s) s).dma = s.dma :=
  foldl_keeps (fun t => t.dma = s.dma) (fun s p => takePlot p x s) (fun _ _ ht => ht) ps s rfl

theorem mailboxes_foldl_takePlot (ps : List Nat) (x : PlotKind × Option Nat) :
    (ps.foldl (fun s p => takePlot p x s) s).mailboxes = s.mailboxes :=
  foldl_keeps (fun t => t.mailboxes = s.mailboxes) (fun s p => takePlot p x s) (fun _ _ ht => ht) ps s rfl

theorem mailboxes_releasePlots (ps : List Nat) : (releasePlots ps s).mailboxes = s.mailboxes :=
  foldl_keeps (fun t => t.mailboxes = s.mailboxes) (fun s p => freePlot p s)
    (fun _ _ ht => (mailboxes_count _ _ _).trans ht) ps s rfl

theorem dma_freePlot : (freePlot p s).dma = s.dma := by
  rw [freePlot, colInvalidate, count_frame]
  rfl

theorem dma_releasePlots (ps : List Nat) : (releasePlots ps s).dma = s.dma :=
  foldl_keeps (fun t => t.dma = s.dma) (fun s p => freePlot p s) (fun t p ht => (dma_freePlot t p).trans ht) ps s rfl

end

end Sys2Proof.Machine
end

section
/-! SUPPORT. MEM_WRITE and WAYMARK_INIT (R241, R277, R283, R391): what a run of word writes and a run of Waymark updates
leave, and every allocation, write and initialisation that firmware accepts. -/

namespace Sys2Proof.Machine

section
variable (s : State)

/-! ## Words that are written in turn (R241) -/

@[simp] theorem mailboxes_writeWord (ecc : List EccFind) (req a : Nat) (bs : List Byte) (i : Nat) :
    (writeWord ecc req a bs i s).2.mailboxes = s.mailboxes := by
  unfold writeWord
  dsimp only
  split
  · simp
  · split
    · simp
    · split
      · simp
      · simp [apply_ite State.mailboxes]

theorem mailboxes_writeStop (ecc : List EccFind) (req a : Nat) (bs : List Byte) (k i : Nat) :
    (writeStop ecc req a bs k i s).2.mailboxes = s.mailboxes := by
  induction k generalizing i s with
  | zero => rfl
  | succ k ih =>
    unfold writeStop
    dsimp only
    split
    · exact (ih _ _).trans (mailboxes_writeWord s ecc req a bs i)
    · exact mailboxes_writeWord s ecc req a bs i

/-! ## Updates of Waymarks (R278, R283) -/

/-- What an update of a Waymark leaves: the unit and its queue, the tenants, and the mailboxes. -/
def State.wmkFrame (s : State) : WmkUnit × List Tenant × List Mailbox := (s.wmkUnit, s.tenants, s.mailboxes)

@[simp] theorem wmkFrame_count (k n : Nat) : (count k n s).wmkFrame = s.wmkFrame := by rw [count_frame]; rfl

@[simp] theorem wmkFrame_raise (c t : Nat) (d : List Byte) : (raise c t d s).wmkFrame = s.wmkFrame := by
  rw [State.wmkFrame, mailboxes_raise, raise_frame, State.wmkFrame]

@[simp] theorem waymark_count (k n j : Nat) : (count k n s).waymark j = s.waymark j := by rw [count_frame]; rfl

@[simp] theorem waymark_raise (c t j : Nat) (d : List Byte) : (raise c t d s).waymark j = s.waymark j := by
  rw [raise_frame]; rfl

/-- The waits that timed out before an update are counted, and nothing else. -/
theorem foldl_countTimeouts_frame (g : State → Nat → Nat) (fs : List Nat) :
    fs.foldl (fun s f => countTimeouts f (g s f) s) s =
      { s with ctr := (fs.foldl (fun s f => countTimeouts f (g s f) s) s).ctr } := by
  refine foldl_keeps (fun t => t = { s with ctr := t.ctr }) _ (fun t f ht => ?_) fs s rfl
  unfold countTimeouts
  split
  · exact ht
  · rw [count_frame, ht]

@[simp] theorem wmkFrame_evalWaits (n : Nat) (wasReset : Bool) (t : TimeSt) :
    (evalWaits n wasReset t s).wmkFrame = s.wmkFrame := by
  unfold evalWaits
  rw [foldl_countTimeouts_frame]
  simp [State.wmkFrame, State.mailboxes, evalFn]

@[simp] theorem waymark_evalWaits (n : Nat) (wasReset : Bool) (t : TimeSt) (k : Nat) :
    (evalWaits n wasReset t s).waymark k = s.waymark k := by
  unfold evalWaits
  rw [foldl_countTimeouts_frame]
  simp only [State.waymark]

@[simp] theorem wmkFrame_wmkUpdate (t : TimeSt) (n : Nat) (f : Waymark → Waymark) (wasReset : Bool) :
    (wmkUpdate t n f wasReset s).wmkFrame = s.wmkFrame := (wmkFrame_evalWaits _ n wasReset t).trans (wmkFrame_count s _ _)

theorem waymark_wmkUpdate (t : TimeSt) (n : Nat) (f : Waymark → Waymark) (wasReset : Bool) (k : Nat) :
    (wmkUpdate t n f wasReset s).waymark k = if k = n then f (s.waymark n) else s.waymark k := by
  rw [wmkUpdate, waymark_evalWaits, waymark_putWaymark, waymark_count]

@[simp] theorem wmkFrame_wmkApply (t : TimeSt) (i : Nat) (op : WmkOp) : (wmkApply t i op s).wmkFrame = s.wmkFrame := by
  unfold wmkApply
  split
  · rfl
  · dsimp only
    rw [apply_ite State.wmkFrame, wmkFrame_raise, wmkFrame_wmkUpdate, ite_self]
    split
    · exact wmkFrame_count s _ _
    · rfl

/-- An update that is not ignored changes its own Waymark, and no other. -/
theorem waymark_wmkApply {op : WmkOp} (hop : op.ignored = false) (t : TimeSt) (i k : Nat) :
    (wmkApply t i op s).waymark k = if k = i then op.on (s.waymark i) else s.waymark k := by
  rw [wmkApply, if_neg (by simp [hop])]
  dsimp only
  rw [apply_ite (State.waymark · k), waymark_raise, ite_self, waymark_wmkUpdate]
  cases op with
  | signal n e => simp only [waymark_count]
  | _ => rfl

/-- Once every queued update is applied the queue is empty; no tenant and no mailbox has changed. -/
theorem wmkFrame_wmkFlush : (wmkFlush s).wmkFrame = ({ s.wmkUnit with queue := [] }, s.tenants, s.mailboxes) := by
  rw [wmkFlush, wmkDrain, List.drop_length]
  exact foldl_keeps (fun t => t.wmkFrame = ({ s.wmkUnit with queue := [] }, s.tenants, s.mailboxes)) _
    (fun t u ht => (wmkFrame_wmkApply t u.arrived u.n u.op).trans ht) _ _ rfl

theorem queue_wmkFlush : (wmkFlush s).wmkUnit.queue = [] := congrArg (·.1.queue) (wmkFrame_wmkFlush s)
theorem tenants_wmkFlush : (wmkFlush s).tenants = s.tenants := congrArg (·.2.1) (wmkFrame_wmkFlush s)
theorem mailboxes_wmkFlush : (wmkFlush s).mailboxes = s.mailboxes := congrArg (·.2.2) (wmkFrame_wmkFlush s)

theorem wmkFlush_wmkFlush : wmkFlush (wmkFlush s) = wmkFlush s := wmkFlush_of_queue_nil (queue_wmkFlush s)

theorem wmkFirmware_wmkFlush (i : Nat) (op : WmkOp) : wmkFirmware i op (wmkFlush s) = wmkFirmware i op s := by
  rw [wmkFirmware, wmkFlush_wmkFlush, wmkFirmware]

/-! ## A run of Waymarks (R277) -/

/-- What WAYMARK_INIT does: firmware's operation on the Waymark of each index of a list, counted from `o`. -/
def wmkInitAll (f t o : Nat) (op : WmkOp) (is : List Nat) (s : State) : State :=
  is.foldl (fun s i => wmkFirmware (wmkNumber s f t (o + i)) op s) s

theorem wmkNumber_injective {f t i j : Nat} (h : wmkNumber s f t i = wmkNumber s f t j) : i = j := by
  unfold wmkNumber at h
  split at h <;> omega

end

section
variable {s t : State} {f u o : Nat} {op : WmkOp}

theorem wmkNumber_of_tenants (h : t.tenants = s.tenants) (i : Nat) : wmkNumber t f u i = wmkNumber s f u i := by
  simp only [wmkNumber, State.tenant, h]

/-- The updates queued before the run are all applied by its first Waymark. -/
theorem wmkInitAll_wmkFlush {is : List Nat} (h : is ≠ []) :
    wmkInitAll f u o op is (wmkFlush s) = wmkInitAll f u o op is s := by
  obtain ⟨i, is, rfl⟩ := List.exists_cons_of_ne_nil h
  simp only [wmkInitAll, List.foldl_cons, wmkNumber_of_tenants (tenants_wmkFlush s), wmkFirmware_wmkFlush]

theorem wmkFirmware_of_queue_nil (h : s.wmkUnit.queue = []) (i : Nat) : wmkFirmware i op s = wmkApply s.time i op s := by
  rw [wmkFirmware, wmkFlush_of_queue_nil h]

theorem wmkFrame_wmkInitAll (h : s.wmkUnit.queue = []) (is : List Nat) :
    (wmkInitAll f u o op is s).wmkFrame = s.wmkFrame := by
  refine foldl_keeps (fun t => t.wmkFrame = s.wmkFrame) _ (fun t i ht => ?_) is s rfl
  have hqueue : t.wmkUnit.queue = [] := (congrArg (·.1.queue) ht).trans h
  rw [wmkFirmware_of_queue_nil hqueue, wmkFrame_wmkApply, ht]

/-- With no update queued, the run changes the Waymarks it names, each once. -/
theorem waymark_wmkInitAll (hop : op.ignored = false) {is : List Nat} (hnodup : is.Nodup) (h : s.wmkUnit.queue = []) :
    (∀ i ∈ is, (wmkInitAll f u o op is s).waymark (wmkNumber s f u (o + i)) =
      op.on (s.waymark (wmkNumber s f u (o + i)))) ∧
    ∀ k, (∀ i ∈ is, k ≠ wmkNumber s f u (o + i)) → (wmkInitAll f u o op is s).waymark k = s.waymark k := by
  induction is generalizing s with
  | nil => exact ⟨nofun, fun _ _ => rfl⟩
  | cons j is ih =>
    obtain ⟨hj, hnodup⟩ := List.nodup_cons.mp hnodup
    have hfirst : wmkFirmware (wmkNumber s f u (o + j)) op s = wmkApply s.time (wmkNumber s f u (o + j)) op s :=
      wmkFirmware_of_queue_nil h _
    have hframe := wmkFrame_wmkApply s s.time (wmkNumber s f u (o + j)) op
    have hnumber := wmkNumber_of_tenants (f := f) (u := u) (congrArg (·.2.1) hframe)
    have hother (k : Nat) (hk : k ≠ wmkNumber s f u (o + j)) := (waymark_wmkApply s hop s.time _ k).trans (if_neg hk)
    have hne {i : Nat} (hi : i ≠ j) : wmkNumber s f u (o + i) ≠ wmkNumber s f u (o + j) := fun hij => by
      have := wmkNumber_injective s hij
      omega
    obtain ⟨hnamed, hrest⟩ := ih hnodup ((congrArg (·.1.queue) hframe).trans h)
    simp only [hnumber] at hnamed hrest
    simp only [wmkInitAll, List.foldl_cons, hfirst]
    refine ⟨List.forall_mem_cons.mpr ⟨?first, fun i hi => ?later⟩, fun k hk => ?others⟩
    case first =>
      refine (hrest _ fun i hi => ?_).trans ((waymark_wmkApply s hop _ _ _).trans (if_pos rfl))
      exact (hne fun hij => hj (hij ▸ hi)).symm
    case later =>
      rw [← hother _ (hne fun hij => hj (hij ▸ hi))]
      exact hnamed i hi
    case others =>
      obtain ⟨hkj, hk⟩ := List.forall_mem_cons.mp hk
      exact (hrest k hk).trans (hother k hkj)

end

/-! ## The commands -/

section
variable {s : State} {fn : Fn}

theorem plot_of_mem {t : State} (h : t.mem = s.mem) (p : Nat) : t.plot p = s.plot p := by rw [State.plot, h, State.plot]

/-- A command whose action leaves the mailboxes alone is answered after it. -/
theorem answeredAs_respond {u : State} {op : Nat} {mine : List Byte → Bool} {check : State → List Byte → Nat → Option Refused}
    (h : accepted s fn op mine check = true) (hu : u.mailboxes = s.mailboxes) (status : Nat) (payload : List Byte) :
    answeredAs fn status payload u (respond fn status payload u) :=
  respond_answeredAs fn status payload u ((congrArg Mailbox.discard (mbx_of_mailboxes hu fn)).trans (accepted_discard h))

/-- What DATA_ALLOC allocate does (R228, R389). -/
def allocate (t id : Nat) (ps : List Nat) (s : State) : State :=
  modDma (fun d => { d with allocs := d.allocs ++ [⟨t, id, ps⟩] }) (ps.foldl (fun s p => takePlot p (.data, some t) s) s)

theorem exec_dataAllocAllocate_accepted (h : accepted s fn 0x0603 (opIs 0 1) allocateCheck = true) {ps : List Nat}
    (hps : ps = (freePlots s).take (leAt (s.payload fn) 4 2)) : exec (.dataAllocAllocate fn) s =
      .next (respond fn 0 [] (allocate (s.headTenant fn) (leAt (s.payload fn) 2 2) ps s)) := by
  subst hps
  have hexec : execDataAllocAllocate fn s = _ := runCommand_accepted h
  exact hexec

theorem exec_dataAllocFree_accepted (h : accepted s fn 0x0603 (opIs 0 2) freeCheck = true) {a : DataAlloc}
    (ha : allocOf s (s.headTenant fn) (leAt (s.payload fn) 2 2) = some a) :
    exec (.dataAllocFree fn) s = .next (respond fn 0 [] (freeAlloc a s)) := by
  have hexec : execDataAllocFree fn s = _ := runCommand_accepted h
  rw [ha] at hexec
  exact hexec

theorem exec_memWrite_accepted (h : accepted s fn 0x0B02 anyOp memWriteCheck = true) (ecc : List EccFind)
    {r : Option Nat × State}
    (hr : r = writeStop ecc 0 (leAt (s.payload fn) 0 8) (slice (s.payload fn) 16 (leAt (s.payload fn) 8 2))
      (ceilDiv (leAt (s.payload fn) 0 8 + leAt (s.payload fn) 8 2) 8 - leAt (s.payload fn) 0 8 / 8) 0 s) :
    exec (.memWrite fn ecc) s =
      .next (r.1.elim (respond fn 0 [] r.2) fun w => respond fn errPoisoned (leBytes 8 w) r.2) := by
  have hexec : execMemWrite fn ecc s = _ := runCommand_accepted h
  dsimp only at hexec
  rw [← hr] at hexec
  refine hexec.trans ?_
  cases r.1 <;> rfl

/-- An accepted WAYMARK_INIT passes the checks of its operation on a payload of 8 bytes, and names a Waymark. -/
theorem waymarkInit_payload {k : Nat} (h : accepted s fn 0x0501 (opIs 4 k) (wmkInitCheck fn) = true) :
    byteAt (s.payload fn) 4 = k ∧ 1 ≤ leAt (s.payload fn) 2 2 ∧ (k = 2 → leAt (s.payload fn) 5 3 ≠ 0) := by
  simp only [accepted, commandReady, Bool.and_eq_true, beq_iff_eq, Option.isNone_iff_eq_none, opIs] at h
  obtain ⟨⟨⟨⟨⟨-, hop⟩, hbyte⟩, hcommon⟩, hown⟩, -⟩ := h
  have hlen : pageLen (s.fn fn).mbx.run = 8 := pageLen_of_commonCheck (sp := ⟨1, true, 8, []⟩) hcommon (by rw [hop]; rfl)
  have hk : byteAt (s.payload fn) 4 = k := by
    rw [← hbyte, State.payload, pagePayload, hlen, pageArea, byteAt_slice _ (by decide), byteAt_slice _ (by decide)]
  change wmkInitCheck fn s (s.payload fn) (s.headTenant fn) = none at hown
  simp only [wmkInitCheck, wmkRangeRules, firstRefusal_eq_none, List.cons_append, List.nil_append, List.forall_mem_cons,
    unless_eq_none, Bool.and_eq_true, decide_eq_true_eq] at hown
  obtain ⟨-, ⟨⟨hcount, -⟩, -⟩, ha, -⟩ := hown
  refine ⟨hk, hcount, fun htwo => ?_⟩
  rw [if_pos (hk.trans htwo)] at ha
  exact bne_iff_ne.mp ha

/-- WAYMARK_INIT applies its operation to the Waymarks it names, on the state after every update queued before it. -/
theorem wmkInit_accepted {k : Nat} {op : List Byte → WmkOp} (hlen : s.fns.length = 33)
    (h : accepted s fn 0x0501 (opIs 4 k) (wmkInitCheck fn) = true) (hop : (op (s.payload fn)).ignored = false)
    {o : Host.Outcome State Fault Refusal} (ho : o = wmkInit fn k (fun pl n s => wmkFirmware n (op pl) s) s)
    {u a n : Nat} (hu : u = s.headTenant fn) (ha : a = leAt (s.payload fn) 0 2) (hn : n = leAt (s.payload fn) 2 2) :
    ∃ t w, o = .next t ∧ w = wmkFlush s ∧ (t.fn fn).mbx.state = .done ∧ leAt (t.fn fn).mbx.resp 8 2 = 0 ∧
      (∀ i < n, t.waymark (wmkNumber s fn u (a + i)) = (op (s.payload fn)).on (w.waymark (wmkNumber s fn u (a + i)))) ∧
      ∀ k, (∀ i < n, k ≠ wmkNumber s fn u (a + i)) → t.waymark k = w.waymark k := by
  obtain ⟨-, hcount, -⟩ := waymarkInit_payload h
  have hnonempty : List.range n ≠ [] := by simp; omega
  have hexec : o = .next (respond fn 0 [] (wmkInitAll fn u a (op (s.payload fn)) (List.range n) s)) := by
    subst hu ha hn
    exact ho.trans (runCommand_accepted h)
  rw [← wmkInitAll_wmkFlush hnonempty] at hexec
  have hkept := wmkFrame_wmkInitAll (f := fn) (u := u) (o := a) (op := op (s.payload fn)) (queue_wmkFlush s) (List.range n)
  have hmail := (congrArg (·.2.2) hkept).trans (mailboxes_wmkFlush s)
  have hanswer := answeredAs_respond h hmail 0 []
  obtain ⟨hstate, hstatus⟩ := mbx_of_answeredAs hanswer (by rw [length_fns_of_mailboxes hmail, hlen]; exact fn.isLt)
  obtain ⟨hnamed, hrest⟩ :=
    waymark_wmkInitAll (f := fn) (u := u) (o := a) hop (List.nodup_range (n := n)) (queue_wmkFlush s)
  simp only [List.mem_range, wmkNumber_of_tenants (tenants_wmkFlush s)] at hnamed hrest
  have hwaymark (k : Nat) := congrArg (·.waymark k) hanswer
  exact ⟨_, _, hexec, rfl, hstate, hstatus, fun i hi => (hwaymark _).trans (hnamed i hi),
    fun k hk => (hwaymark k).trans (hrest k hk)⟩

end

/-- Settles O58: plots change one by one in a fold over the list, and WAYMARK_INIT's first operation finds the queue
flushed, so that its other ones find it empty. -/
theorem allocationsWritesAndWaymarkInits : Obligations.AllocationsWritesAndWaymarkInits := by
  unfold Obligations.AllocationsWritesAndWaymarkInits
  rintro s fn _ _ rfl rfl hlen
  have hfn : fn.val < s.fns.length := hlen.symm ▸ fn.isLt
  refine ⟨?allocate, ?free, ?write, ?init⟩
  case allocate =>
    intro ps h hps
    have hmail := mailboxes_foldl_takePlot s ps (.data, some (s.headTenant fn))
    have hanswer := answeredAs_respond (u := allocate (s.headTenant fn) (leAt (s.payload fn) 2 2) ps s) h hmail 0 []
    have hmem := answeredAs_mem hanswer
    have hplot (p : Nat) := (plot_of_mem hmem p).trans (plot_foldl_takePlot s ps _ p)
    refine ⟨_, exec_dataAllocAllocate_accepted h hps, ?_, fun p hp => (hplot p).trans (if_pos hp),
      fun p hp => (hplot p).trans (if_neg hp), (mbx_of_answeredAs hanswer (length_fns_of_mailboxes hmail ▸ hfn)).1, ?_⟩
    · exact (congrArg (·.dma.allocs) hanswer).trans (congrArg (·.allocs ++ _) (dma_foldl_takePlot s ps _))
    · intro k hk
      rw [hmem]
      refine (memByte_foldl_takePlot s ps _ k).trans (if_neg fun hmem => ?_)
      have := hk _ hmem
      simp only [plotSize] at this
      omega
  case free =>
    intro a h ha
    have hanswer := answeredAs_respond (u := freeAlloc a s) h (mailboxes_releasePlots s a.plots) 0 []
    have hmem := answeredAs_mem hanswer
    refine ⟨_, exec_dataAllocFree_accepted h ha, ?_, fun p hp => ⟨?_, fun o ho => ?_⟩⟩
    · exact (congrArg (·.dma.allocs) hanswer).trans
        (congrArg (·.allocs.filter (· != a)) (dma_releasePlots s a.plots))
    · exact (plot_of_mem hmem p).trans ((plot_releasePlots s a.plots p).trans (if_pos hp))
    · have hin : (p * plotSize + o) / plotSize = p := by simp only [plotSize] at *; omega
      rw [hmem]
      exact (memByte_releasePlots s a.plots _).trans (if_pos (hin.symm ▸ hp))
  case write =>
    intro ecc r h hr
    have hmail : r.2.mailboxes = s.mailboxes := hr ▸ mailboxes_writeStop ..
    have hexec := exec_memWrite_accepted h ecc hr
    exact ⟨fun hnone => ⟨_, hexec.trans (by rw [hnone]; rfl), answeredAs_respond h hmail _ _⟩,
      fun w hsome => ⟨_, hexec.trans (by rw [hsome]; rfl), answeredAs_respond h hmail _ _⟩⟩
  case init =>
    simp only [List.forall_mem_cons, List.not_mem_nil, false_imp_iff, implies_true, and_true]
    exact ⟨fun h => wmkInit_accepted (op := fun _ => .reset) hlen h rfl rfl rfl rfl rfl,
      fun h => wmkInit_accepted (op := fun pl => .arm (leAt pl 5 3)) hlen h
        (beq_eq_false_iff_ne.mpr ((waymarkInit_payload h).2.2 rfl)) rfl rfl rfl rfl,
      fun h => wmkInit_accepted (op := fun _ => .remote true) hlen h rfl rfl rfl rfl rfl,
      fun h => wmkInit_accepted (op := fun _ => .remote false) hlen h rfl rfl rfl rfl rfl⟩

end Sys2Proof.Machine
end

section
/-! SUPPORT. Resets, boot and the board block (chapter 18): what a device reset leaves, a slot that is tried, the state at
mailbox ready, SMBus and the boundary scan. -/

namespace Sys2Proof.Machine

/-! ## What a device reset leaves (R397 to R399) -/

theorem ridge_reset (r : Nat) : State.reset.ridge r = Ridge.reset r := by
  rw [State.ridge, show State.reset.ridges = (List.range 68).map Ridge.reset from rfl, List.getD_map]
  by_cases h : r < 68 <;> simp [List.getD_eq_getElem?_getD, h]

theorem fn_reset (f : Nat) : State.reset.fn f = FnSt.reset f := by
  rw [State.fn, show State.reset.fns = (List.range 33).map FnSt.reset from rfl, List.getD_map]
  by_cases h : f < 33 <;> simp [List.getD_eq_getElem?_getD, h]

theorem fresh_reset : State.reset.fresh := by
  refine ⟨fun x hx => ?_, fun p hp => ?_, fun x hx => ?_, fun r hr => ?_, rfl, rfl, rfl, rfl, rfl, rfl, rfl⟩
  · rw [List.eq_of_mem_replicate hx]; rfl
  · rw [List.eq_of_mem_replicate hp]; rfl
  · rw [List.eq_of_mem_replicate hx]; rfl
  · rw [ridge_reset]
    exact ⟨rfl, if_pos hr⟩

theorem fresh_resetDevice {b : BootSt} (hb : b.vsel = 0) (s : State) : (resetDevice b s).fresh := by
  obtain ⟨htenants, hports, hsaddles, hridges, hctxs, hmodels, hcells, -, -, -, -⟩ := fresh_reset
  exact ⟨htenants, hports, hsaddles, hridges, hctxs, hmodels, hcells, hb, rfl, rfl, rfl⟩

/-- Settles O6: the reset state is lists of units at their reset values. -/
theorem resetMeetsTheInvariants : Obligations.ResetMeetsTheInvariants := by
  unfold Obligations.ResetMeetsTheInvariants
  refine ⟨rfl, rfl, ?shaped, fresh_reset⟩
  refine ⟨List.length_replicate, List.length_replicate, rfl, List.length_replicate, List.length_replicate, ?ridges,
    List.length_replicate, List.length_replicate, List.length_replicate, List.length_replicate, ?functions,
    fun f _ => ?_, fun x hx => ?_⟩
  · exact (List.length_map _).trans List.length_range
  · exact (List.length_map _).trans List.length_range
  · rw [fn_reset]
    exact ⟨List.length_replicate, List.length_replicate⟩
  · rw [List.eq_of_mem_replicate hx]
    exact ⟨rfl, rfl, rfl, rfl, rfl⟩

/-- Settles O7: each reset is `resetDevice` of the boot state it keeps, and a trip changes the boot state and the clock. -/
theorem deviceResetsAndThermalTrip : Obligations.DeviceResetsAndThermalTrip := by
  unfold Obligations.DeviceResetsAndThermalTrip
  refine ⟨fun s straps => ⟨?aux, ?rise, ?fall, ?perstFall, ?perstRise, ?flr, ?watchdog⟩, fun s sensor h => if_pos h⟩
  case aux => exact ⟨_, rfl, fresh_resetDevice rfl s, rfl, rfl⟩
  case rise =>
    intro h
    exact ⟨_, if_neg (by simp [h]), fresh_resetDevice rfl s, rfl, rfl, rfl⟩
  case fall =>
    intro h
    exact ⟨_, if_neg (by simp [h]), fresh_resetDevice rfl s, rfl, rfl, rfl, rfl⟩
  case perstFall =>
    intro h
    exact ⟨_, if_neg (by simp [h]), fresh_resetDevice rfl s, rfl, rfl, rfl, rfl, rfl, by simp [resetDevice]⟩
  case perstRise =>
    intro h
    exact ⟨_, if_neg (by simp [h]), fresh_resetDevice rfl s, rfl, rfl, rfl,
      fun hpower htest htrip => by simp [resetDevice, keptBoot, hpower, htest, htrip]⟩
  case flr =>
    intro hclock hlink
    exact ⟨_, if_pos (by simp [hclock, hlink]), fresh_resetDevice rfl s, rfl, hlink, rfl, rfl⟩
  case watchdog =>
    intro hclock hrun
    exact ⟨_, if_pos (by simp [hclock, hrun]), fresh_resetDevice rfl s, rfl, rfl, rfl, rfl⟩

/-! ## A slot that is tried, and mailbox ready (R401 to R405) -/

theorem raiseCycle_frame (evs : List Raised) (s : State) : raiseCycle evs s = { s with
    evBuf := (raiseCycle evs s).evBuf, evSeq := (raiseCycle evs s).evSeq, evLog := (raiseCycle evs s).evLog
    ctr := (raiseCycle evs s).ctr, fns := (raiseCycle evs s).fns } := by
  refine foldl_keeps (fun t => t = { s with
    evBuf := t.evBuf, evSeq := t.evSeq, evLog := t.evLog, ctr := t.ctr, fns := t.fns }) _ (fun t e ht => ?_) _ s rfl
  rw [raise_frame, ht]

theorem mailboxes_raiseCycle (evs : List Raised) (s : State) : (raiseCycle evs s).mailboxes = s.mailboxes :=
  foldl_keeps (fun t => t.mailboxes = s.mailboxes) _ (fun t e ht => (mailboxes_raise t e.1 e.2.1 e.2.2).trans ht) _ s rfl

theorem enableLinks_frame (mask : Nat) (s : State) : enableLinks mask s = { s with zth := (enableLinks mask s).zth } := by
  refine foldl_keeps (fun t => t = { s with zth := t.zth }) _ (fun t i ht => ?_) _ s rfl
  split
  · rw [modSaddle, ht]
  · exact ht

theorem applyBoard_frame (board : List Byte) (s : State) : applyBoard board s = { s with
    eth := (applyBoard board s).eth, disp := (applyBoard board s).disp, zth := (applyBoard board s).zth } := by
  unfold applyBoard
  dsimp only
  split
  · rw [enableLinks_frame]
    rfl
  · rfl

/-- The 40 plots of the firmware (R229). -/
def layFirmware (s : State) : State := (List.range 40).foldl (fun s i => setPlot (912 + i) (.firmware, none) s) s

theorem layFirmware_frame (s : State) :
    layFirmware s = { s with mem := { s.mem with plots := (layFirmware s).mem.plots } } :=
  foldl_keeps (fun t => t = { s with mem := { s.mem with plots := t.mem.plots } }) _
    (fun t i ht => by rw [setPlot, modMem, ht]) _ s rfl

theorem plot_layFirmware (s : State) {p : Nat} (hlo : 912 ≤ p) (hhi : p < 952) :
    (layFirmware s).plot p = (.firmware, none) := by
  have hmem : ∃ i ∈ List.range 40, 912 + i = p := ⟨p - 912, List.mem_range.mpr (by omega), by omega⟩
  have hall (is : List Nat) (t : State) (h : t.plot p = (.firmware, none) ∨ ∃ i ∈ is, 912 + i = p) :
      (is.foldl (fun s i => setPlot (912 + i) (.firmware, none) s) t).plot p = (.firmware, none) := by
    induction is generalizing t with
    | nil => simpa using h
    | cons i is ih =>
      refine ih _ ?_
      rw [plot_setPlot]
      by_cases hi : p = 912 + i
      · exact .inl (if_pos hi)
      · rw [if_neg hi]
        refine h.imp_right ?_
        rintro ⟨j, hj, hp⟩
        rcases List.mem_cons.mp hj with rfl | hj
        · exact absurd hp.symm hi
        · exact ⟨j, hj, hp⟩
  exact hall _ s (.inr hmem)

theorem zeroMassif_reads_zero (s : State) {a : Nat} (ha : a < massifEnd) :
    memByte (zeroMassif s).mem a = 0 ∧ poisoned (zeroMassif s).mem a = false := by
  constructor
  · have hnone : kvGet (zeroMassif s).mem.cells a = none :=
      (kvGet_filter s.mem.cells (fun k => decide (massifEnd ≤ k)) a).trans (if_neg (by simpa using ha))
    rw [memByte, hnone]
    rfl
  · simp only [poisoned, zeroMassif, modMem, List.contains_eq_mem, List.mem_filter, decide_eq_true_eq,
      decide_eq_false_iff_not, not_and]
    intro _
    omega

/-- PHASE is READY, with what the calibration of the SerDes found. -/
def phaseReady (refclk : Bool) (s : State) : State :=
  modBoot (fun b => { b with phase := .ready, refclkNet := refclk, readyEpoch := s.time.epoch }) s

/-- Without REFCLK_NET every lane stays down. -/
def lanesDown (refclk : Bool) (s : State) : State :=
  if refclk then s else { s with ports := s.ports.map (fun p => { p with link := false }) }

/-- Every mailbox is READY. -/
def openMailboxes (s : State) : State :=
  { s with fns := s.fns.map (fun x => { x with mbx := { x.mbx with state := .ready } }) }

/-- The state at mailbox ready before the board block is read. -/
def mailboxesOpen (refclk : Bool) (s : State) : State :=
  openMailboxes (lanesDown refclk (layFirmware (zeroMassif (phaseReady refclk s))))

theorem lanesDown_frame (refclk : Bool) (s : State) : lanesDown refclk s = { s with ports := (lanesDown refclk s).ports } := by
  cases refclk <;> rfl

/-- The board block is applied when it has no flaw. -/
def boardApplied (board : List Byte) (s : State) : State :=
  if (boardFlaw board).isNone then applyBoard board s else s

theorem boardApplied_frame (board : List Byte) (s : State) : boardApplied board s = { s with
    eth := (boardApplied board s).eth, disp := (boardApplied board s).disp, zth := (boardApplied board s).zth } := by
  unfold boardApplied
  split
  · exact applyBoard_frame board s
  · rfl

theorem exec_mailboxReady {s : State} (h : s.boot.phase = .firmwareInit) (board : List Byte) (refclk : Bool) : ∃ evs,
    exec (.mailboxReady board refclk true) s =
      .next (raiseCycle evs (boardApplied board (mailboxesOpen refclk s))) := by
  have hexec : exec (.mailboxReady board refclk true) s = execMailboxReady board refclk true s := rfl
  rw [hexec, execMailboxReady, if_neg (not_not_intro h)]
  exact ⟨_, rfl⟩

theorem memory_layFirmware_zeroMassif {s t : State} (h : t.mem = (layFirmware (zeroMassif s)).mem) :
    (∀ p, 912 ≤ p → p < 952 → t.plot p = (.firmware, none)) ∧
    ∀ a, a < massifEnd → memByte t.mem a = 0 ∧ poisoned t.mem a = false := by
  have hcells : t.mem.cells = (zeroMassif s).mem.cells := by rw [h, layFirmware_frame]
  have hpoison : t.mem.poison = (zeroMassif s).mem.poison := by rw [h, layFirmware_frame]
  refine ⟨fun p hlo hhi => (plot_of_mem h p).trans (plot_layFirmware _ hlo hhi), fun a ha => ?_⟩
  obtain ⟨hzero, hclean⟩ := zeroMassif_reads_zero s ha
  rw [memByte, hcells, poisoned, hpoison]
  exact ⟨hzero, hclean⟩

theorem boot_mailboxesOpen (refclk : Bool) (s : State) : (mailboxesOpen refclk s).boot = (phaseReady refclk s).boot := by
  rw [mailboxesOpen, openMailboxes, lanesDown_frame, layFirmware_frame]
  rfl

theorem mem_mailboxesOpen (refclk : Bool) (s : State) :
    (mailboxesOpen refclk s).mem = (layFirmware (zeroMassif (phaseReady refclk s))).mem := by
  rw [mailboxesOpen, openMailboxes, lanesDown_frame]

theorem ready_of_mem_mailboxesOpen (refclk : Bool) (s : State) : ∀ m ∈ (mailboxesOpen refclk s).mailboxes, m.state = .ready := by
  simp [mailboxesOpen, openMailboxes, State.mailboxes]

theorem ports_mailboxesOpen (s : State) : ∀ p ∈ (mailboxesOpen false s).ports, p.link = false := by
  simp [mailboxesOpen, openMailboxes, lanesDown]

/-! ## PCIe configuration (R405) -/

theorem mem_setAdd {l : List Nat} {k j : Nat} : j ∈ setAdd l k ↔ j = k ∨ j ∈ l := by
  induction l with
  | nil => simp [setAdd]
  | cons a r ih =>
    rw [setAdd]
    split
    · exact List.mem_cons
    · split
      case isTrue h => subst h; simp
      case isFalse => rw [List.mem_cons, List.mem_cons, ih, or_left_comm]

/-- Page Requests that go out change the list of those that wait, the counters and the record of outputs. -/
theorem pumpPri_frame (f : Nat) (s : State) : pumpPri f s = { s with
    out := (pumpPri f s).out, ctr := (pumpPri f s).ctr, dma := { s.dma with pris := (pumpPri f s).dma.pris } } := by
  refine foldl_keeps (fun t => t = { s with out := t.out, ctr := t.ctr, dma := { s.dma with pris := t.dma.pris } }) _
    (fun t w ht => ?_) _ s rfl
  split
  · rw [count_frame, modDma, ht]
    rfl
  · exact ht

theorem pumpPri_of_pris_nil (f : Nat) {s : State} (h : s.dma.pris = []) : pumpPri f s = s := by rw [pumpPri, h]; rfl

/-- What a configuration write sets. -/
def configured (fn : Fn) (w : Option CfgWrite) (d : DmaSt) : DmaSt :=
  match w with
  | some (.ats on) => { d with ats := if on then setAdd d.ats fn else d.ats.filter (· != fn.val) }
  | some (.pri on) => { d with pri := if on then setAdd d.pri fn else d.pri.filter (· != fn.val) }
  | some (.priAllocation n) => { d with priAlloc := kvPut 0 d.priAlloc fn n }
  | some (.maxPayload n) => { d with maxPayload := kvPut 128 d.maxPayload fn n }
  | some (.maxRead n) => { d with maxRead := kvPut 512 d.maxRead fn n }
  | none => d

theorem exec_pcieConfigRequest {s : State} (hlink : s.boot.pcieLink = true) (hclock : s.time.clockOn = true)
    (hready : s.boot.configReady = true) (fn : Fn) (w : Option CfgWrite) : exec (.pcieConfigRequest fn w) s =
      .next (emit (.cfg fn false) (pumpPri fn { s with dma := configured fn w s.dma })) := by
  refine (if_neg (by simp [hlink, hclock])).trans ((if_neg (by simp [hready])).trans ?_)
  match w with
  | some (.ats _) | some (.pri _) | some (.priAllocation _) | some (.maxPayload _) | some (.maxRead _) | none => rfl

theorem mem_ite_setAdd_filter {l : List Nat} {k : Nat} {on : Bool} :
    k ∈ (if on then setAdd l k else l.filter (· != k)) ↔ on = true := by
  cases on
  · simp
  · simp [mem_setAdd]

/-- Settles O8: a tried slot changes the boot state alone, mailbox ready lays out memory before the board block is read, and a
configuration request is answered after its write. -/
theorem bootTriesSlotsAndReportsReadiness : Obligations.BootTriesSlotsAndReportsReadiness := by
  unfold Obligations.BootTriesSlotsAndReportsReadiness
  refine fun s => ⟨fun r hrom hnext => ?slot, fun hclock hready hdone => ?ready,
    fun board refclk hphase => ⟨?fail, ?mailboxes⟩, fun fn w hlink hclock => ⟨fun hready => ?retry, fun hready => ?config⟩⟩
  case slot =>
    refine ⟨_, if_neg (by simp [hrom, hnext]), ?_⟩
    by_cases hcode : slotResult r = 0
    · dsimp only [modBoot]
      rw [if_pos hcode]
      exact ⟨rfl, fun h => ⟨if_pos h, if_neg (by simp [h])⟩, fun h => ⟨if_pos h, if_neg (by simp [h])⟩,
        fun _ => ⟨rfl, rfl, rfl⟩, fun h => absurd hcode h, rfl⟩
    · dsimp only [modBoot]
      rw [if_neg hcode]
      exact ⟨rfl, fun h => ⟨if_pos h, if_neg (by simp [h])⟩, fun h => ⟨if_pos h, if_neg (by simp [h])⟩,
        fun h => absurd h hcode, fun _ => rfl, rfl⟩
  case ready => exact if_pos (by simp [hclock, hready, hdone])
  case fail => exact if_neg (not_not_intro hphase)
  case mailboxes =>
    obtain ⟨evs, hexec⟩ := exec_mailboxReady hphase board refclk
    obtain ⟨u, hu⟩ : ∃ u, u = boardApplied board (mailboxesOpen refclk s) := ⟨_, rfl⟩
    have hboard := hu.trans (boardApplied_frame board (mailboxesOpen refclk s))
    have hboot : u.boot = (phaseReady refclk s).boot := (congrArg State.boot hboard).trans (boot_mailboxesOpen refclk s)
    have hmail : u.mailboxes = (mailboxesOpen refclk s).mailboxes :=
      (congrArg State.mailboxes hboard).trans rfl
    have hraise := raiseCycle_frame evs u
    have hmem : (raiseCycle evs u).mem = _ :=
      (congrArg State.mem hraise).trans ((congrArg State.mem hboard).trans (mem_mailboxesOpen refclk s))
    obtain ⟨hplots, hbytes⟩ := memory_layFirmware_zeroMassif hmem
    refine ⟨raiseCycle evs u, by rw [hexec, hu], ?_, ?_, fun x hx => ?_, hplots, hbytes, ?_⟩
    · rw [congrArg State.boot hraise]; rw [hboot]; rfl
    · rw [congrArg State.boot hraise]; rw [hboot]; rfl
    · refine ready_of_mem_mailboxesOpen refclk s x.mbx ?_
      rw [← hmail, ← mailboxes_raiseCycle evs u]
      exact List.mem_map_of_mem hx
    · rintro rfl p hp
      rw [congrArg State.ports hraise] at hp
      exact ports_mailboxesOpen s p (by rw [← congrArg State.ports hboard]; exact hp)
  case retry =>
    exact (if_neg (by simp [hlink, hclock])).trans (if_pos (by simp [hready]))
  case config =>
    refine ⟨_, exec_pcieConfigRequest hlink hclock hready fn w, rfl, ?_⟩
    rw [pumpPri_frame]
    refine ⟨?ats, ?pri, ?none, ?quiet⟩
    case ats =>
      rintro on rfl
      exact ⟨mem_ite_setAdd_filter, rfl⟩
    case pri =>
      rintro on rfl
      exact ⟨mem_ite_setAdd_filter, rfl⟩
    case none =>
      rintro rfl
      exact ⟨rfl, rfl, rfl⟩
    case quiet =>
      intro hpris
      have hnil : ({ s with dma := configured fn w s.dma } : State).dma.pris = [] := by
        match w with
        | some (.ats _) | some (.pri _) | some (.priAllocation _) | some (.maxPayload _) | some (.maxRead _) | none => exact hpris
      rw [pumpPri_of_pris_nil fn hnil]
      exact ⟨rfl, by rintro rfl; rw [hnil, ← hpris]; rfl⟩

/-! ## The board block (R406 to R410) -/

theorem exec_loadPins {i : JtagIr} (hi : i.drivesPins = true) (s : State) :
    loadPins i s = { s with
      boot := { s.boot with jtagIr := i }
      out := if s.boot.powerGood = true ∧ s.boot.perstN = false then s.out else .tdo (some 0) :: s.out } := by
  have hne : i ≠ .bypass := by rintro rfl; cases hi
  by_cases h : s.boot.powerGood = true ∧ s.boot.perstN = false
  · have hforce : jtagInForce (loadIr i s) = i := by simp [jtagInForce, loadIr, hi, h]
    simp only [loadPins, hforce, if_neg hne, if_pos h]
    rfl
  · have hforce : jtagInForce (loadIr i s) = .bypass := by
      simp only [jtagInForce, loadIr, modBoot, hi, Bool.true_and]
      refine if_pos ?_
      cases hp : s.boot.powerGood <;> cases hr : s.boot.perstN <;> simp_all
    simp only [loadPins, hforce, if_true, if_neg h]
    rfl

/-- Settles O9: an SMBus transaction by its address, value and PEC; an instruction that drives pins by the pins' state. -/
theorem boardBlockAnswersSmbusAndJtag : Obligations.BoardBlockAnswersSmbusAndJtag := by
  unfold Obligations.BoardBlockAnswersSmbusAndJtag
  refine ⟨fun s addr code value => ⟨?read, ?nack, ?cap, ?value, ?pec, rfl, ?available⟩,
    fun s => ⟨rfl, rfl, rfl, ?pins⟩⟩
  case read =>
    intro h
    simp [exec, execSmbusRead, h, emit]
  case nack =>
    intro h
    simp [exec, execSmbusRead, h, emit]
  case cap =>
    intro pec hmine hlow hhigh hpec hclock
    have hvalue : ¬ ((!smbusMine s addr) = true ∨ value < 120 ∨ 350 < value) := by simp [hmine]; omega
    simp only [exec, execSmbusBoardCapWrite, if_neg hvalue, if_neg hpec, emit_time, modBoot_time]
    exact congrArg Host.Outcome.next (if_pos hclock)
  case value =>
    intro pec hmine hvalue
    simp [exec, execSmbusBoardCapWrite, hvalue, emit]
  case pec =>
    intro hmine hlow hhigh
    have hvalue : ¬ ((!smbusMine s addr) = true ∨ value < 120 ∨ 350 < value) := by simp [hmine]; omega
    simp only [exec, execSmbusBoardCapWrite, if_neg hvalue, if_true]
  case available =>
    intro h
    exact if_pos h
  case pins =>
    simp only [List.forall_mem_cons, List.not_mem_nil, false_imp_iff, implies_true, and_true]
    refine ⟨?_, ?_, ?_, ?_, ?_⟩ <;>
      exact ⟨fun h => congrArg Host.Outcome.next ((exec_loadPins rfl s).trans (by rw [if_pos h])),
        fun h => congrArg Host.Outcome.next ((exec_loadPins rfl s).trans (by rw [if_neg h]))⟩

end Sys2Proof.Machine
end

section
/-! SUPPORT. The step and the cycle that passes on an empty queue (log 3), the budget and the thermal level (R264, R265), and
the sensors (R428). -/

namespace Sys2Proof.Machine

/-- Settles O1: the queue of the state that runs is the queue's rest, which the state keeps. -/
theorem stepRunsTheFrontOfTheQueue : Obligations.StepRunsTheFrontOfTheQueue := by
  unfold Obligations.StepRunsTheFrontOfTheQueue
  intro c s
  exact step_cons c _ s.pending rfl

/-! ## The budget and the level (R264, R265) -/

theorem thermalFactor_below {q : Int} (h : q < 380) : thermalFactor (some q) = 256 := if_pos h

theorem thermalFactor_above {q : Int} (h : 420 ≤ q) : thermalFactor (some q) = 96 := by
  simp [thermalFactor, h, show ¬ q < 380 by omega]

/-- A factor step is a whole degree wide. -/
theorem thermalFactor_step {k r : Nat} (hk : k < 10) (hr : r < 4) :
    thermalFactor (some (380 + 4 * k + r)) = 240 - 16 * k := by
  have hlow : ¬ (380 + 4 * (k : Int) + r < 380) := by omega
  have hhigh : ¬ (420 ≤ 380 + 4 * (k : Int) + r) := by omega
  have hdeg : ((380 + 4 * (k : Int) + r) / 4).toNat = 95 + k := by omega
  simp only [thermalFactor, hlow, hhigh, if_false, hdeg]
  omega

/-- A reading holds a level that it has entered, or that it has not yet left. -/
abbrev holdsLevel (old : Nat) (q : Int) (k : Nat) : Prop :=
  levelThreshold k ≤ q ∨ (k ≤ old ∧ levelThreshold k - 8 ≤ q)

/-- The level is the highest that the reading holds. -/
theorem le_readingLevel_iff (old : Nat) (q : Int) {k : Nat} (hk : 1 ≤ k) :
    k ≤ readingLevel old (some q) ↔ ∃ j, k ≤ j ∧ j ≤ 3 ∧ holdsLevel old q j := by
  have hlevel : readingLevel old (some q) =
      if holdsLevel old q 3 then 3 else if holdsLevel old q 2 then 2 else if holdsLevel old q 1 then 1 else 0 := rfl
  have hj : (∃ j, k ≤ j ∧ j ≤ 3 ∧ holdsLevel old q j) ↔
      (k ≤ 3 ∧ holdsLevel old q 3) ∨ (k ≤ 2 ∧ holdsLevel old q 2) ∨ (k ≤ 1 ∧ holdsLevel old q 1) := by
    constructor
    · rintro ⟨j, hkj, hj, h⟩
      obtain rfl | rfl | rfl : j = 3 ∨ j = 2 ∨ j = 1 := by omega
      · exact .inl ⟨hkj, h⟩
      · exact .inr (.inl ⟨hkj, h⟩)
      · exact .inr (.inr ⟨hkj, h⟩)
    · rintro (⟨hkj, h⟩ | ⟨hkj, h⟩ | ⟨hkj, h⟩)
      · exact ⟨3, hkj, by omega, h⟩
      · exact ⟨2, hkj, by omega, h⟩
      · exact ⟨1, hkj, by omega, h⟩
  rw [hlevel, hj]
  by_cases h3 : holdsLevel old q 3
  · simp [h3]; omega
  · by_cases h2 : holdsLevel old q 2
    · simp [h3, h2]; omega
    · by_cases h1 : holdsLevel old q 1
      · simp [h3, h2, h1]
      · simp [h3, h2, h1]; omega

/-- Settles O11: the budget's formula at each point, the factor's steps, and the level as the highest that is held. -/
theorem budgetAndLevelFollowHeat : Obligations.BudgetAndLevelFollowHeat := by
  unfold Obligations.BudgetAndLevelFollowHeat
  refine ⟨⟨by decide, by decide, fun q => thermalFactor_below, fun q => thermalFactor_above,
    fun k hk r hr => thermalFactor_step hk hr, ?spent, fun c p f => rfl, fun c p f => rfl, fun c p f => rfl⟩, ?level⟩
  case spent =>
    intro c p f h pt
    rw [budgetOf, Nat.sub_eq_zero_of_le h]
    simp
  case level => exact fun old k q _ hk _ => le_readingLevel_iff old q hk

/-! ## The sensors (R265, R428) -/

theorem exec_sensorReading_quiet {s : State} {i : Fin 16} {q : Int} {ok : Bool}
    (h : readingValid q ok = true ∨ (s.sensors.getD i.val ⟨0, false, false⟩).raised = true) :
    exec (.sensorReading i q ok) s = .next { s with
      sensors := s.sensors.set i.val ⟨q, readingValid q ok, !readingValid q ok⟩ } :=
  if_pos ((Bool.or_eq_true _ _).mpr h)

theorem exec_sensorReading_raises {s : State} {i : Fin 16} {q : Int} {ok : Bool} (hbad : readingValid q ok = false)
    (hquiet : (s.sensors.getD i.val ⟨0, false, false⟩).raised = false) {t : State}
    (ht : t = { s with sensors := s.sensors.set i.val ⟨q, false, true⟩ }) :
    exec (.sensorReading i q ok) s = .next (raise 0x0B02 0xFF (leBytes 1 i.val ++ leBytes 1 (validSensors t)) t) := by
  subst ht
  have hexec : exec (.sensorReading i q ok) s = _ :=
    if_neg (by rw [hbad, hquiet]; decide)
  rw [hexec, hbad]
  rfl

/-- Settles O12: the reading is stored as it is judged; the first that is judged invalid raises. -/
theorem sensorReadingsAreValidated : Obligations.SensorReadingsAreValidated := by
  unfold Obligations.SensorReadingsAreValidated
  refine fun s i q ok _ => ⟨exec_sensorReading_quiet, fun hbad hquiet => ?_, by simp [readingValid, and_assoc]⟩
  obtain ⟨t, ht⟩ : ∃ t, t = ({ s with sensors := s.sensors.set i.val ⟨q, false, true⟩ } : State) := ⟨_, rfl⟩
  refine ⟨_, exec_sensorReading_raises hbad hquiet ht, ?_, fun hroom => ?_⟩
  · rw [raise_frame, ht]
  · rw [raise_room _ _ _ t (by rw [ht]; exact hroom), ht]
    rfl

end Sys2Proof.Machine
end

section
/-! SUPPORT. Every command answers a next state: what answers commands and messages, and the arm of each other row. -/

namespace Sys2Proof.Machine

theorem goesOn_runCommand (f op : Nat) (mine : List Byte → Bool) (check : State → List Byte → Nat → Option Refused)
    (act : List Byte → Nat → State → State) (s : State) : goesOn (runCommand f op mine check act s) = true := by
  obtain ⟨t, ht⟩ := runCommand_next (f := f) (op := op) (mine := mine) (check := check) (act := act) (s := s)
  rw [ht]
  rfl

theorem goesOn_onMessage (port : MsgPort) (op : Nat) (act : Msg → State → State) (s : State) :
    goesOn (onMessage port op act s) = true := by
  unfold onMessage
  split <;> rfl

theorem goesOn_exec (c : Instr) (s : State) : goesOn (exec c s) = true := by
  cases c
  case identify | deviceStatus | memoryConfig | ridgeCanary | fabricConfig | commonsWindowCreate | commonsWindowRemove |
      modelLoad | modelUnload | modelQuery | modelStats | modelCalibrate | signpostBankAssign | signpostBankRelease |
      signpostBankConfigure | signpostEntries | portMode | portAddress | portStateOpen | portStateDraining | endpointAdd |
      endpointRemove | portQuery | tenantSet | tenantEnable | tenantDisable | tenantPreempt | tenantResume | tenantRelease
      | tenantQuery | waymarkInitReset | waymarkInitArmBarrier | waymarkInitRemoteOn | waymarkInitRemoteOff | waymarkQuery
      | streamConfig | streamStart | streamStop | dataAllocAllocate | dataAllocFree | refitPause | refitResume |
      resetStats | propose | discard | commit | refitQuery | detourQuery | detourHold | detourUnhold | detourEndAll |
      power | sensors | eventQueue | eventLog | memRead | memWrite | contextDump | signpostSearch | stateAudit =>
    simp only [exec,
      execCommit, execCommonsWindowCreate, execCommonsWindowRemove, execContextDump, execDataAllocAllocate,
      execDataAllocFree, execDetourEndAll, execDetourHold, execDetourQuery, execDetourUnhold, execDeviceStatus,
      execDiscard, execEndpointAdd, execEndpointRemove, execEventLog, execEventQueue, execFabricConfig, execIdentify,
      execMemRead, execMemWrite, execMemoryConfig, execModelCalibrate, execModelLoad, execModelQuery, execModelStats,
      execModelUnload, execPortAddress, execPortMode, execPortQuery, execPortStateDraining, execPortStateOpen,
      execPower, execPropose, execRefitPause, execRefitQuery, execRefitResume, execResetStats, execRidgeCanary,
      execSensors, execSignpostBankAssign, execSignpostBankConfigure, execSignpostBankRelease, execSignpostEntries,
      execSignpostSearch, execStateAudit, execStreamConfig, execStreamStart, execStreamStop, execTenantDisable,
      execTenantEnable, execTenantPreempt, execTenantQuery, execTenantRelease, execTenantResume, execTenantSet,
      execWaymarkInitArmBarrier, execWaymarkInitRemoteOff, execWaymarkInitRemoteOn, execWaymarkInitReset,
      execWaymarkQuery, stateCommand, wmkInit, refitCommand, detourCommand]
    exact goesOn_runCommand ..
  case rdS | rdM | wmkSignal | snpShare | snpInv | snpRspInvalid | snpRspAck | snpRspEvicting | snpRspData | evictClean |
      evictDirty | evictAck | dataS | dataE | dataM | nak | recordMc | term | refitGh | ping | pong =>
    simp only [exec,
      execDataE, execDataM, execDataS, execEvictAck, execEvictClean, execEvictDirty, execNak, execPing, execPong,
      execRdM, execRdS, execRecordMc, execRefitGh, execSnpInv, execSnpRspAck, execSnpRspData, execSnpRspEvicting,
      execSnpRspInvalid, execSnpShare, execTerm, execWmkSignal]
    exact goesOn_onMessage ..
  case vddAuxRise | vfFunctionLevelReset | vfEnableClear | smbusRead | smbusBusTimeout | bypass | idcode | samplePreload |
      extest | extestPulse | extestTrain | clamp | highz | recordFrameRx | feedbackFrameRx | pauseFrameRx | arpRequestRx |
      neighbourSolicitationRx | dmaRingTailWrite | priLimitExpiry | idleFlitRx | retryReqRx | notReadyRx | wmkSignalWrite
      | wmkReset | wmkArmBarrier | wmkClearErr | wmkRemoteOn | wmkRemoteOff | waitArm | waitCancel | wmkRemoteWrite |
      evtQueueHeadWrite | evtIntCauseWrite | counterRcRead | reg64LowRead | reg64LowWrite | reg64HighWrite | registerWrite
      | mbxDoorbellRing | pfcPauseExpiry | fecLockAttemptFail =>
    rfl
  case eventEntryWrite =>
    show goesOn (execEventEntryWrite s) = true
    unfold execEventEntryWrite
    dsimp only
    split <;> rfl
  case powerGoodRise | powerGoodFall | perstNFall | perstNRise | pf0FunctionLevelReset | watchdogExpiry | thermalTrip |
      bootSlotReadDone | configReady | mailboxReady | pcieConfigRequest | smbusBoardCapWrite | milestone | epochStart |
      voltageUpRequest | sensorReading | linkUp | linkDown | recordStart | pfcFrameRx | arpReplySend |
      neighbourAdvertisementSend | pfcXoffRepeat | pfcXonSend | trailheadTableReadDone | portDrainComplete | signpostEntry
      | ternaryStep | rangeStep | automatonStep | nextStep | stepResult | walkerMissReadDone | shadowCompare |
      dispatcherAdmission | passBind | broadcastDone | setLoadStart | setLoadDone | passIssue | standInLoadDone |
      partialsLeaveRidge | ridgeSramPatrolStep | partialArrival | rowAdd | parkEntryWritten | restoreDone |
      summitFusedOutput | scoreFrameAssembly | transmitQueueEntry | txMacHandoff | xchipWaitExpiry | feedbackGradient |
      feedbackProcess | decaySweep | proposalPassEnd | candidateResult | moveChoice | detourTimeLimit | colCacheFill |
      patrolStep | healBlockReadDone | descriptorStart | dmaRequestIssue | dmaElement | translationCompletion |
      pageRequestResponse | descriptorComplete | ringAnswerWrite | atsInvalidateRequest | linkTrainingDone | initResend |
      initFlitRx | fabricMismatchRetry | dataFlitRx | retryReqRepeat | ackTimeout | notReadyBackoffExpiry | zuothLaneLoss
      | linkHoldExpiry | messageSend | messageForward | messageViolation | commonsNakRetry | commonsRequestTimeout |
      commonsSnoopTimeout | waitTimeoutExpiry | msixMessage | msixTableWrite | eventMsixCoalesce | imageFetchDone |
      modelDrainDone | modelZeroiseDone | oldImageRetire | completionTimeout | adaptiveRouteFallback | smbusAvailable =>
    simp only [exec,
      execAckTimeout, execAdaptiveRouteFallback, execArpReplySend, execAtsInvalidateRequest, execAutomatonStep,
      execBootSlotReadDone, execBroadcastDone, execCandidateResult, execColCacheFill, execCommonsNakRetry,
      execCommonsRequestTimeout, execCommonsSnoopTimeout, execCompletionTimeout, execConfigReady, execDataFlitRx,
      execDecaySweep, execDescriptorComplete, execDescriptorStart, execDetourTimeLimit, execDispatcherAdmission,
      execDmaElement, execDmaRequestIssue, execEpochStart, execEventMsixCoalesce, execFabricMismatchRetry,
      execFeedbackGradient, execFeedbackProcess, execHealBlockReadDone, execImageFetchDone, execInitFlitRx,
      execInitResend, execLinkDown, execLinkHoldExpiry, execLinkTrainingDone, execLinkUp, execMailboxReady,
      execMessageForward, execMessageSend, execMessageViolation, execMilestone, execModelDrainDone,
      execModelZeroiseDone, execMoveChoice, execMsixMessage, execMsixTableWrite, execNeighbourAdvertisementSend,
      execNextStep, execNotReadyBackoffExpiry, execOldImageRetire, execPageRequestResponse, execParkEntryWritten,
      execPartialArrival, execPartialsLeaveRidge, execPassBind, execPassIssue, execPatrolStep, execPcieConfigRequest,
      execPerstNFall, execPerstNRise, execPf0FunctionLevelReset, execPfcFrameRx, execPfcXoffRepeat, execPfcXonSend,
      execPortDrainComplete, execPowerGoodFall, execPowerGoodRise, execProposalPassEnd, execRangeStep, execRecordStart,
      execRestoreDone, execRetryReqRepeat, execRidgeSramPatrolStep, execRingAnswerWrite, execRowAdd,
      execScoreFrameAssembly, execSensorReading, execSetLoadDone, execSetLoadStart, execShadowCompare,
      execSignpostEntry, execSmbusAvailable, execSmbusBoardCapWrite, execStandInLoadDone, execStepResult,
      execSummitFusedOutput, execTernaryStep, execThermalTrip, execTrailheadTableReadDone, execTranslationCompletion,
      execTransmitQueueEntry, execTxMacHandoff, execVoltageUpRequest, execWaitTimeoutExpiry, execWalkerMissReadDone,
      execWatchdogExpiry, execXchipWaitExpiry, execZuothLaneLoss]
    repeat' split
    all_goals rfl

/-- Settles O3: on an empty queue the state idles, and every command has an arm that answers next in each of its branches. -/
theorem noStepStopsTheBlock : Obligations.NoStepStopsTheBlock := by
  unfold Obligations.NoStepStopsTheBlock
  intro s
  cases hq : s.pending with
  | nil => rw [step_nil s hq]; rfl
  | cons c rest =>
    rw [step_cons c s rest hq]
    exact goesOn_exec c _

end Sys2Proof.Machine
end

section
/-! SUPPORT. The time and what the dispatcher's registers show of the last tick (R249, R258, R266): no unit's own work and no
due action of a Milestone changes them. -/

namespace Sys2Proof.Machine

/-- The time, the round-robin pointer, and the charges and the debt of the tick that has ended. -/
def State.tickView (s : State) : TimeSt × Nat × Nat × Nat := (s.time, s.disp.tpPtr, s.disp.charged, s.disp.debt)

/-! ## States written out, branches and folds -/

@[simp] theorem tickView_mk (pending time boot ports eth endpoints ctr ctxs freeCtx trhQ stats banks walkers progs ridges slots rows
    restoring crnPort returned disp sensors mem models nextModel load feedback refits searches waymarks wmkUnit dma zth tenants
    fns taken due evBuf evSeq evLog mismatches releasing out freeIdx) :
    (State.mk pending time boot ports eth endpoints ctr ctxs freeCtx trhQ stats banks walkers progs ridges slots rows
      restoring crnPort returned disp sensors mem models nextModel load feedback refits searches waymarks wmkUnit dma zth
      tenants fns taken due evBuf evSeq evLog mismatches releasing out freeIdx).tickView =
    (time, disp.tpPtr, disp.charged, disp.debt) := rfl

@[simp] theorem tickView_eta (s : State) : (s.time, s.disp.tpPtr, s.disp.charged, s.disp.debt) = s.tickView := rfl

@[simp] theorem tickView_ite (p : Prop) [Decidable p] (s t : State) :
    (if p then s else t).tickView = if p then s.tickView else t.tickView := apply_ite _ _ _ _

@[simp] theorem tickView_ite_fst {α : Type} (p : Prop) [Decidable p] (a b : State × α) :
    (if p then a else b).1.tickView = if p then a.1.tickView else b.1.tickView := by split <;> rfl

@[simp] theorem tickView_ite_snd {α : Type} (p : Prop) [Decidable p] (a b : α × State) :
    (if p then a else b).2.tickView = if p then a.2.tickView else b.2.tickView := by split <;> rfl

@[simp] theorem tickView_option_elim {α : Type} (o : Option α) (f : α → State) (s : State)
    (hf : ∀ a, (f a).tickView = s.tickView) : (o.elim s f).tickView = s.tickView := by
  cases o with
  | none => rfl
  | some a => exact hf a

/-- A fold keeps what each of its steps keeps; `v` finds the state in what the fold carries. -/
theorem tickView_foldl_of {α β : Type} (v : α → State) (g : α → β → α) (hg : ∀ a x, (v (g a x)).tickView = (v a).tickView)
    (l : List β) (a : α) : (v (l.foldl g a)).tickView = (v a).tickView := by
  induction l generalizing a with
  | nil => rfl
  | cons x l ih => exact (ih (g a x)).trans (hg a x)

@[simp] theorem tickView_foldl {β : Type} (g : State → β → State) (hg : ∀ s x, (g s x).tickView = s.tickView) (l : List β)
    (s : State) : (l.foldl g s).tickView = s.tickView := tickView_foldl_of id g hg l s

@[simp] theorem tickView_foldl_fst {β γ : Type} (g : State × γ → β → State × γ)
    (hg : ∀ a x, (g a x).1.tickView = a.1.tickView) (l : List β) (a : State × γ) : (l.foldl g a).1.tickView = a.1.tickView :=
  tickView_foldl_of Prod.fst g hg l a

@[simp] theorem tickView_foldl_snd {β γ : Type} (g : γ × State → β → γ × State)
    (hg : ∀ a x, (g a x).2.tickView = a.2.tickView) (l : List β) (a : γ × State) : (l.foldl g a).2.tickView = a.2.tickView :=
  tickView_foldl_of Prod.snd g hg l a

/-! ## Updates of one part of the state -/

variable (s : State)

@[simp] theorem tickView_modPort (l : Nat) (f : PortSt → PortSt) : (modPort l f s).tickView = s.tickView := rfl
@[simp] theorem tickView_modBank (b : Nat) (f : Bank → Bank) : (modBank b f s).tickView = s.tickView := rfl
@[simp] theorem tickView_modRidge (r : Nat) (f : Ridge → Ridge) : (modRidge r f s).tickView = s.tickView := rfl
@[simp] theorem tickView_modZth (f : ZthSt → ZthSt) : (modZth f s).tickView = s.tickView := rfl
@[simp] theorem tickView_modSaddle (i : Nat) (f : Saddle → Saddle) : (modSaddle i f s).tickView = s.tickView := rfl
@[simp] theorem tickView_modTenant (t : Nat) (f : Tenant → Tenant) : (modTenant t f s).tickView = s.tickView := rfl
@[simp] theorem tickView_modFn (i : Nat) (f : FnSt → FnSt) : (modFn i f s).tickView = s.tickView := rfl
@[simp] theorem tickView_modMbx (i : Nat) (f : Mailbox → Mailbox) : (modMbx i f s).tickView = s.tickView := rfl
@[simp] theorem tickView_modDma (f : DmaSt → DmaSt) : (modDma f s).tickView = s.tickView := rfl
@[simp] theorem tickView_modStream (g : Nat) (f : Stream → Stream) : (modStream g f s).tickView = s.tickView := rfl
@[simp] theorem tickView_modCtx (c : Nat) (f : RecCtx → RecCtx) : (modCtx c f s).tickView = s.tickView := rfl
@[simp] theorem tickView_setCtx (c : Nat) (r : RecCtx) : (setCtx c r s).tickView = s.tickView := rfl
@[simp] theorem tickView_modModel (i : Nat) (f : Model → Model) : (modModel i f s).tickView = s.tickView := rfl
@[simp] theorem tickView_modMem (f : MemSt → MemSt) : (modMem f s).tickView = s.tickView := rfl
@[simp] theorem tickView_modBoot (f : BootSt → BootSt) : (modBoot f s).tickView = s.tickView := rfl
@[simp] theorem tickView_modRefit (i : Nat) (f : RefitSt → RefitSt) : (modRefit i f s).tickView = s.tickView := rfl
@[simp] theorem tickView_putWaymark (i : Nat) (w : Waymark) : (putWaymark i w s).tickView = s.tickView := rfl
@[simp] theorem tickView_setCounter (k n : Nat) : (setCounter k n s).tickView = s.tickView := rfl
@[simp] theorem tickView_emit (o : Outp) : (emit o s).tickView = s.tickView := rfl
@[simp] theorem tickView_setCause (f m : Nat) : (setCause f m s).tickView = s.tickView := rfl
@[simp] theorem tickView_fireVector (f v : Nat) : (fireVector f v s).tickView = s.tickView := rfl
@[simp] theorem tickView_markLost (f : Nat) : (markLost f s).tickView = s.tickView := rfl
@[simp] theorem tickView_releaseCtx (c : Nat) : (releaseCtx c s).tickView = s.tickView := rfl
@[simp] theorem tickView_giveBack (cs : List Credit) : (giveBack cs s).tickView = s.tickView := rfl
@[simp] theorem tickView_later (d : Due) : (later d s).tickView = s.tickView := rfl

/-- A change of the dispatcher that leaves the pointer, the charges and the debt of the ended tick. -/
@[simp] theorem tickView_modDisp (f : DispSt → DispSt) (hp : ∀ d, (f d).tpPtr = d.tpPtr) (hc : ∀ d, (f d).charged = d.charged)
    (hd : ∀ d, (f d).debt = d.debt) : (modDisp f s).tickView = s.tickView := by
  rw [State.tickView, modDisp_disp, hp, hc, hd]
  rfl

@[simp] theorem tickView_count (k n : Nat) : (count k n s).tickView = s.tickView := by rw [count_frame]; rfl
@[simp] theorem tickView_raise (c t : Nat) (d : List Byte) : (raise c t d s).tickView = s.tickView := by rw [raise_frame]; rfl

/-! ## The operations of the units and the due actions -/

@[simp] theorem tickView_raiseCycle (evs : List Raised) : (raiseCycle evs s).tickView = s.tickView := by simp [raiseCycle]
@[simp] theorem tickView_charge (n : Nat) : (charge n s).tickView = s.tickView := by simp [charge]
@[simp] theorem tickView_chargeWork (k nominal : Nat) : (chargeWork k nominal s).tickView = s.tickView := by simp [chargeWork]
@[simp] theorem tickView_setPlot (p : Nat) (k : PlotKind × Option Nat) : (setPlot p k s).tickView = s.tickView := by simp [setPlot]
@[simp] theorem tickView_queueHeal (a : Nat) (evs : List Raised) : (queueHeal a s evs).1.tickView = s.tickView := by
  unfold queueHeal
  split <;> simp
@[simp] theorem tickView_readWord (ecc : List EccFind) (req : Nat) (patrol : Bool) (a i : Nat) (se : State × List Raised) :
    (readWord ecc req patrol a i se).1.tickView = se.1.tickView := by simp [readWord]
@[simp] theorem tickView_readWords (ecc : List EccFind) (req : Nat) (patrol : Bool) (a n : Nat) :
    (readWords ecc req patrol a n s).1.tickView = s.tickView := by simp [readWords]
@[simp] theorem tickView_readMem (ecc : List EccFind) (req a n : Nat) :
    (readMem ecc req a n s).tickView = s.tickView := by simp [readMem]
@[simp] theorem tickView_readWordsAt (ecc : List EccFind) (as : List Nat) :
    (readWordsAt ecc as s).tickView = s.tickView := by simp [readWordsAt]
@[simp] theorem tickView_writeWhole (a : Nat) (bs : List Byte) : (writeWhole a bs s).tickView = s.tickView := by simp [writeWhole]
@[simp] theorem tickView_zeroRange (a n : Nat) : (zeroRange a n s).tickView = s.tickView := by simp [zeroRange]
@[simp] theorem tickView_colMiss (req model line : Nat) : (colMiss req model line s).tickView = s.tickView := by simp [colMiss]
@[simp] theorem tickView_colRead (req model line : Nat) : (colRead req model line s).tickView = s.tickView := by
  unfold colRead
  dsimp only
  split <;> simp
@[simp] theorem tickView_colInvalidate (a n : Nat) : (colInvalidate a n s).tickView = s.tickView := by simp [colInvalidate]
@[simp] theorem tickView_freePlot (p : Nat) : (freePlot p s).tickView = s.tickView := by simp [freePlot]
@[simp] theorem tickView_releasePlots (ps : List Nat) : (releasePlots ps s).tickView = s.tickView := by simp [releasePlots]
@[simp] theorem tickView_writeUnits (m : Model) (us : List (Nat × Nat × Nat × Nat × Nat)) :
    (writeUnits m us s).tickView = s.tickView :=
  tickView_foldl _ (fun s u => by split <;> simp) _ _
@[simp] theorem tickView_zeroUnits (us : List (Nat × Nat × Nat × Nat × Nat)) :
    (zeroUnits us s).tickView = s.tickView := by simp [zeroUnits]
@[simp] theorem tickView_fetchBlock (m : Model) (off : Nat) : (fetchBlock m off s).tickView = s.tickView := by simp [fetchBlock]
@[simp] theorem tickView_settleHeals : (settleHeals s).tickView = s.tickView := by
  refine (tickView_foldl _ (fun s b => ?_) _ _).trans (tickView_modMem s _)
  split <;> simp
@[simp] theorem tickView_readyFrame (r : Reply) (kind : TxKind) (ctx : Option Nat) (msg : List Byte) (accepted : Nat)
    (scored : Bool) : (readyFrame r kind ctx msg accepted scored s).tickView = s.tickView := by simp [readyFrame]
@[simp] theorem tickView_sendControl (l : Nat) (vlan : Option (Nat × Nat)) (bytes : List Byte) :
    (sendControl l vlan bytes s).tickView = s.tickView := by simp [sendControl]
@[simp] theorem tickView_queueOut (i : Nat) (m : Msg) : (queueOut i m s).tickView = s.tickView := by simp [queueOut]
@[simp] theorem tickView_deliver (m : Msg) : (deliver m s).tickView = s.tickView := by simp [deliver]
@[simp] theorem tickView_routeMsg (m : Msg) : (routeMsg m s).2.tickView = s.tickView := by
  unfold routeMsg
  dsimp only
  split
  · split <;> simp
  · split
    · simp
    · split
      · simp
      · split <;> simp
@[simp] theorem tickView_nakEvent (saddle op reason dst tag wmk tenant dtenant : Nat) :
    (nakEvent saddle op reason dst tag wmk tenant dtenant s).tickView = s.tickView := by simp [nakEvent]
@[simp] theorem tickView_refuseMsg (m : Msg) (reason : Nat) : (refuseMsg m reason s).tickView = s.tickView := by simp [refuseMsg]
@[simp] theorem tickView_sendMsg (bytes : List Byte) (ctx : Option Nat) : (sendMsg bytes ctx s).2.tickView = s.tickView := by
  unfold sendMsg
  dsimp only
  split <;> simp
@[simp] theorem tickView_send (bytes : List Byte) : (send bytes s).tickView = s.tickView := by simp [send]
@[simp] theorem tickView_returnBlock (c : Nat) : (returnBlock c s).tickView = s.tickView := by
  unfold returnBlock
  split
  · rfl
  · split <;> simp
@[simp] theorem tickView_dropWork (c : Nat) : (dropWork c s).tickView = s.tickView := by
  simp [dropWork]
@[simp] theorem tickView_freeContext (c : Nat) : (freeContext c s).tickView = s.tickView := by simp [freeContext]
@[simp] theorem tickView_stageAnswers (g : Nat) : (stageAnswers g s).tickView = s.tickView := by simp [stageAnswers]
@[simp] theorem tickView_ringAnswer (g number element : Nat) (reason : Bool) (bytes : List Byte) (ctx : Option Nat) :
    (ringAnswer g number element reason bytes ctx s).tickView = s.tickView := by simp [ringAnswer]
@[simp] theorem tickView_dropCandidates (slot : Nat) : (dropCandidates slot s).tickView = s.tickView := by simp [dropCandidates]
@[simp] theorem tickView_endSearch (slot : Nat) (timeLimit : Bool) : (endSearch slot timeLimit s).tickView = s.tickView := by
  unfold endSearch
  split
  · rfl
  · split
    · split
      · split <;> simp
      · split <;> simp
    · split
      · split <;> simp
      · split <;> simp
@[simp] theorem tickView_dropSearch (slot : Nat) : (dropSearch slot s).tickView = s.tickView := by simp [dropSearch]
@[simp] theorem tickView_sendTerm (c : Nat) (msg : List Byte) : (sendTerm c msg s).tickView = s.tickView := by simp [sendTerm]
@[simp] theorem tickView_endRecord (c status reason : Nat) : (endRecord c status reason s).tickView = s.tickView := by
  unfold endRecord
  split
  · rfl
  · split
    · split <;> simp
    · split <;> simp
@[simp] theorem tickView_unitFault (c reason : Nat) : (unitFault c reason s).tickView = s.tickView := by simp [unitFault]
@[simp] theorem tickView_repeatOr (c : Nat) (isPoison : Bool) (again : State → State) (hagain : ∀ t,
    (again t).tickView = t.tickView) : (repeatOr c isPoison again s).tickView = s.tickView := by
  unfold repeatOr
  split <;> simp [hagain]
@[simp] theorem tickView_modelPoison (c : Nat) (never : Bool) : (modelPoison c never s).tickView = s.tickView := by
  unfold modelPoison
  split <;> simp
theorem tickView_takeCtx {r : RecCtx} {s : State} {y : Nat × State} (h : takeCtx r s = some y) : y.2.tickView = s.tickView := by
  unfold takeCtx at h
  split at h
  · cases h
  · cases h
    simp
@[simp] theorem tickView_sendRecordMc (c : Nat) : (sendRecordMc c s).tickView = s.tickView := by
  unfold sendRecordMc
  split <;> simp
@[simp] theorem tickView_handOver (c : Nat) : (handOver c s).tickView = s.tickView := by
  unfold handOver
  split <;> simp
@[simp] theorem tickView_passSkips (n pipe : Nat) : (passSkips n pipe s).tickView = s.tickView := by
  induction n generalizing s with
  | zero => rfl
  | succ n ih =>
    unfold passSkips
    split
    · rfl
    · split
      · rfl
      · split <;> simp [ih]
@[simp] theorem tickView_fillDispatch : (fillDispatch s).tickView = s.tickView := by simp [fillDispatch]
@[simp] theorem tickView_releaseBank (b : Nat) : (releaseBank b s).tickView = s.tickView := by simp [releaseBank]
@[simp] theorem tickView_readMaster (id : SetId) (q : Nat) : (readMaster id q s).tickView = s.tickView := by
  unfold readMaster
  split <;> simp
@[simp] theorem tickView_chargeLoad (id : SetId) (q : Nat) : (chargeLoad id q s).tickView = s.tickView := by simp [chargeLoad]
@[simp] theorem tickView_requestAgain (c slot k : Nat) : (requestAgain c slot k s).tickView = s.tickView := by simp [requestAgain]
@[simp] theorem tickView_lostPass (es : List QEntry) (replayable : Bool) (c : Nat) :
    (lostPass es replayable c s).tickView = s.tickView := by
  unfold lostPass
  split
  · rfl
  · split <;> simp
@[simp] theorem tickView_bindStandIn (q : Nat) (x : Ridge) (sets : List SetId) :
    (bindStandIn q x sets s).tickView = s.tickView := by simp [bindStandIn]
@[simp] theorem tickView_fenceRidge (r mask : Nat) : (fenceRidge r mask s).tickView = s.tickView := by
  unfold fenceRidge
  dsimp only
  split
  · rfl
  · split <;> simp
@[simp] theorem tickView_areaWrite (x : RefitSt) (off : Nat) (bs : List Byte) :
    (areaWrite x off bs s).tickView = s.tickView := by simp [areaWrite]
@[simp] theorem tickView_traceWrite (m : Model) (r : RecCtx) : (traceWrite m r s).tickView = s.tickView := by
  unfold traceWrite
  split <;> simp
@[simp] theorem tickView_putSlot (i : Nat) (v : Val) : (putSlot i v s).tickView = s.tickView := by simp [putSlot]
@[simp] theorem tickView_writeBlock (b : Nat) (vals : List Val) : (writeBlock b vals s).tickView = s.tickView := by simp [writeBlock]
@[simp] theorem tickView_preload (b : Nat) (m : Model) (r : RecCtx) : (preload b m r s).tickView = s.tickView := by simp [preload]
@[simp] theorem tickView_askPort (c n : Nat) : (askPort c n s).tickView = s.tickView := by simp [askPort]
@[simp] theorem tickView_unplaced (c : Nat) : (unplaced c s).tickView = s.tickView := by
  unfold unplaced
  split <;> simp
@[simp] theorem tickView_nextStage (c : Nat) (r : RecCtx) (m : Model) (st : Stage) (vals : List Val) :
    (nextStage c r m st vals s).tickView = s.tickView := by
  unfold nextStage
  dsimp only
  split
  · simp
  · split
    · split <;> simp [-ridges_returnBlock]
    · simp [-ridges_returnBlock]
@[simp] theorem tickView_memberDone (c : Nat) (r : RecCtx) (m : Model) (home homeCtx : Nat) (vals : List Val) :
    (memberDone c r m home homeCtx vals s).tickView = s.tickView := by simp [memberDone]
@[simp] theorem tickView_finalRow (c : Nat) : (finalRow c s).tickView = s.tickView := by
  unfold finalRow
  split
  · rfl
  · split
    · split <;> simp
    · rfl
@[simp] theorem tickView_pumpOut : (pumpOut s).tickView = s.tickView := by simp [pumpOut]
@[simp] theorem tickView_portCycle : (portCycle s).tickView = s.tickView := by simp [portCycle]
@[simp] theorem tickView_latency (l n : Nat) : (latency l n s).tickView = s.tickView := by simp [latency]
@[simp] theorem tickView_shedRecord (c reason : Nat) : (shedRecord c reason s).tickView = s.tickView := by simp [shedRecord]
@[simp] theorem tickView_zeroStats (m : Model) (x : RefitSt) : (zeroStats m x s).tickView = s.tickView := by simp [zeroStats]
@[simp] theorem tickView_sendGh (id : Nat) : (sendGh id s).tickView = s.tickView := by
  unfold sendGh
  split <;> simp
@[simp] theorem tickView_commitModel (id : Nat) : (commitModel id s).tickView = s.tickView := by
  unfold commitModel
  split
  · dsimp only
    split <;> simp
  · rfl
@[simp] theorem tickView_refitEffect (id op : Nat) : (refitEffect id op s).tickView = s.tickView := by
  unfold refitEffect
  split
  · split <;> simp
  · rfl
@[simp] theorem tickView_freeOldUnits : (freeOldUnits s).tickView = s.tickView := by simp [freeOldUnits]
@[simp] theorem tickView_requestDecay : (requestDecay s).tickView = s.tickView := by
  refine tickView_foldl _ (fun s x => ?_) _ _
  split <;> simp
@[simp] theorem tickView_refitTick : (refitTick s).tickView = s.tickView := by simp [refitTick]
@[simp] theorem tickView_postResponse (f st : Nat) (p : List Byte) : (postResponse f st p s).tickView = s.tickView := by simp [postResponse]
@[simp] theorem tickView_postDue : (postDue s).tickView = s.tickView := by
  refine tickView_foldl _ (fun s f => ?_) _ _
  split <;> simp
@[simp] theorem tickView_postWaiting (op : Nat) (mine : List Byte → Nat → Bool) (status : Nat) (payload : List Byte) :
    (postWaiting op mine status payload s).tickView = s.tickView := by
  refine tickView_foldl _ (fun s f => ?_) _ _
  dsimp only
  split <;> simp
@[simp] theorem tickView_healUnits (m : Model) (p : Placed) (is : List Nat) :
    (healUnits m p is s).tickView = s.tickView := by simp [healUnits]
@[simp] theorem tickView_copyUnits (ecc : List EccFind) (id r q : Nat) : (copyUnits ecc id r q s).tickView = s.tickView := by
  unfold copyUnits
  split
  · rfl
  · refine (tickView_foldl _ (fun s u => ?_) _ _).trans (by simp)
    split <;> simp
@[simp] theorem tickView_remapEffect (r q : Nat) : (remapEffect r q s).tickView = s.tickView := by simp [remapEffect]
@[simp] theorem tickView_without (id : Nat) : (without id s).tickView = s.tickView := by simp [without]
@[simp] theorem tickView_raiseFitLost (m : Model) (logical cause newRate : Nat) :
    (raiseFitLost m logical cause newRate s).tickView = s.tickView := by simp [raiseFitLost]
@[simp] theorem tickView_loseRidge (id j cause : Nat) : (loseRidge id j cause s).tickView = s.tickView := by
  unfold loseRidge
  split
  · rfl
  · dsimp only
    split <;> simp
@[simp] theorem tickView_degradedEffect (ecc : List EccFind) (id j host rate : Nat) :
    (degradedEffect ecc id j host rate s).tickView = s.tickView := by
  unfold degradedEffect
  split
  · rfl
  · split
    · dsimp only
      split <;> simp
    · dsimp only
      split <;> simp
@[simp] theorem tickView_countTimeouts (f k : Nat) : (countTimeouts f k s).tickView = s.tickView := by simp [countTimeouts]
@[simp] theorem tickView_evalWaits (n : Nat) (wasReset : Bool) (t : TimeSt) : (evalWaits n wasReset t s).tickView = s.tickView := by
  simp [evalWaits]
@[simp] theorem tickView_wmkUpdate (t : TimeSt) (n : Nat) (f : Waymark → Waymark) (wasReset : Bool) :
    (wmkUpdate t n f wasReset s).tickView = s.tickView := by simp [wmkUpdate]
@[simp] theorem tickView_wmkApply (t : TimeSt) (i : Nat) (op : WmkOp) : (wmkApply t i op s).tickView = s.tickView := by
  unfold wmkApply
  split
  · rfl
  · split <;> simp
@[simp] theorem tickView_wmkNote (n src : Nat) : (wmkNote n src s).tickView = s.tickView := by simp [wmkNote]
@[simp] theorem tickView_wmkPost (src n : Nat) (op : WmkOp) : (wmkPost src n op s).tickView = s.tickView := by simp [wmkPost]
@[simp] theorem tickView_wmkDrain (k : Nat) : (wmkDrain k s).tickView = s.tickView := by simp [wmkDrain]
@[simp] theorem tickView_wmkFlush : (wmkFlush s).tickView = s.tickView := by simp [wmkFlush]
@[simp] theorem tickView_wmkFirmware (i : Nat) (op : WmkOp) : (wmkFirmware i op s).tickView = s.tickView := by simp [wmkFirmware]
@[simp] theorem tickView_wmkZero (n : Nat) : (wmkZero n s).tickView = s.tickView := by simp [wmkZero]
@[simp] theorem tickView_idleSlots (f : Nat) : (idleSlots f s).tickView = s.tickView := rfl
@[simp] theorem tickView_substituteRidges (ecc : List EccFind) (id : Nat) : (substituteRidges ecc id s).tickView = s.tickView := by
  unfold substituteRidges
  split
  · rfl
  · refine tickView_foldl _ (fun s j => ?_) _ _
    dsimp only
    split
    · split <;> simp
    · rfl
@[simp] theorem tickView_modelLoadedEffect (ecc : List EccFind) (id : Nat) : (modelLoadedEffect ecc id s).tickView = s.tickView := by
  unfold modelLoadedEffect
  split <;> simp
@[simp] theorem tickView_endSearches (id : Nat) (timeLimit : Bool) :
    (endSearches id timeLimit s).tickView = s.tickView := by simp [endSearches]
@[simp] theorem tickView_modelStopEffect (id : Nat) : (modelStopEffect id s).tickView = s.tickView := by simp [modelStopEffect]
@[simp] theorem tickView_dropModelWork (id : Nat) : (dropModelWork id s).tickView = s.tickView := by simp [dropModelWork]
@[simp] theorem tickView_zeroiseModel (id : Nat) : (zeroiseModel id s).tickView = s.tickView := by
  unfold zeroiseModel
  split <;> simp
@[simp] theorem tickView_modDesc (g n : Nat) (f : Desc → Desc) : (modDesc g n f s).tickView = s.tickView := by simp [modDesc]
@[simp] theorem tickView_hostWriteBy (f a : Nat) (bs : List Byte) (bad : Nat → Nat → Bool) :
    (hostWriteBy f a bs bad s).tickView = s.tickView := by
  unfold hostWriteBy
  rw [tickView_foldl, tickView_count]
  exact fun _ _ => rfl
@[simp] theorem tickView_hostWrite (f a : Nat) (bs : List Byte) (poisoned : Bool) :
    (hostWrite f a bs poisoned s).tickView = s.tickView := by simp [hostWrite]
@[simp] theorem tickView_settleInvals : (settleInvals s).tickView = s.tickView := by
  exact tickView_foldl (fun s (v : Nat × Nat × Nat) => emit (.invalidateDone v.1) s) (fun _ _ => rfl) _ _
@[simp] theorem tickView_dropFaults (g n : Nat) : (dropFaults g n s).tickView = s.tickView := by simp [dropFaults]
@[simp] theorem tickView_stopDesc (g n status : Nat) : (stopDesc g n status s).tickView = s.tickView := by simp [stopDesc]
@[simp] theorem tickView_elementDone (g n : Nat) (flagged : Bool) : (elementDone g n flagged s).tickView = s.tickView := by
  unfold elementDone
  split <;> simp
@[simp] theorem tickView_flagElement (g n : Nat) : (flagElement g n s).tickView = s.tickView := by simp [flagElement]
@[simp] theorem tickView_advanceHead (g : Nat) : (advanceHead g s).tickView = s.tickView := by simp [advanceHead]
@[simp] theorem tickView_settleStop (g : Nat) : (settleStop g s).tickView = s.tickView := by simp [settleStop]
@[simp] theorem tickView_finishDesc (g n : Nat) (failed : Bool) : (finishDesc g n failed s).tickView = s.tickView := by
  unfold finishDesc
  split
  · rfl
  · split <;> simp
@[simp] theorem tickView_streamStopEffect (g : Nat) : (streamStopEffect g s).tickView = s.tickView := by simp [streamStopEffect]
@[simp] theorem tickView_streamCut (g : Nat) : (streamCut g s).tickView = s.tickView := by simp [streamCut]
@[simp] theorem tickView_writeLine (a : Nat) (data : List Byte) (mask : Nat) :
    (writeLine a data mask s).tickView = s.tickView := by simp [writeLine]
@[simp] theorem tickView_loadFrom (r : CReq) (data : List Byte) (mask : Nat) :
    (loadFrom r data mask s).tickView = s.tickView := by simp [loadFrom]
@[simp] theorem tickView_settleElement (g n : Nat) : (settleElement g n s).tickView = s.tickView := by simp [settleElement]
@[simp] theorem tickView_dropReq (tag : Nat) : (dropReq tag s).tickView = s.tickView := by simp [dropReq]
@[simp] theorem tickView_sendCommons (op dst tenant tag a : Nat) (body : List Byte) :
    (sendCommons op dst tenant tag a body s).tickView = s.tickView := by simp [sendCommons]
@[simp] theorem tickView_setDir (a : Nat) (d : Dir) : (setDir a d s).tickView = s.tickView := by simp [setDir]
@[simp] theorem tickView_modTxn (tag : Nat) (f : Txn → Txn) : (modTxn tag f s).tickView = s.tickView := by simp [modTxn]
@[simp] theorem tickView_performHome (r : CReq) (a : Nat) : (performHome r a s).tickView = s.tickView := by simp [performHome]
@[simp] theorem tickView_completeTxn (ecc : List EccFind) (t : Txn) : (completeTxn ecc t s).tickView = s.tickView := by
  unfold completeTxn
  split
  · dsimp only
    split
    · simp
    · split <;> simp
  · dsimp only
    split <;> simp
@[simp] theorem tickView_startTxn (ecc : List EccFind) (t : Txn) : (startTxn ecc t s).tickView = s.tickView := by simp [startTxn]
@[simp] theorem tickView_serveTxns (ecc : List EccFind) (n : Nat) : (serveTxns ecc n s).tickView = s.tickView := by
  induction n generalizing s with
  | zero => rfl
  | succ n ih =>
    unfold serveTxns
    split <;> simp [ih]
@[simp] theorem tickView_addTxn (ecc : List EccFind) (a tenant requester reqTag : Nat) (exclusive own : Bool) :
    (addTxn ecc a tenant requester reqTag exclusive own s).2.tickView = s.tickView := by simp [addTxn]
@[simp] theorem tickView_recallWindow (id : Nat) : (recallWindow id s).tickView = s.tickView := by simp [recallWindow]
@[simp] theorem tickView_settleWindow (id : Nat) : (settleWindow id s).tickView = s.tickView := by simp [settleWindow]
@[simp] theorem tickView_finishRelease (t : Nat) : (finishRelease t s).tickView = s.tickView := by simp [finishRelease]
@[simp] theorem tickView_settleRemovals : (settleRemovals s).tickView = s.tickView := by simp [settleRemovals]
@[simp] theorem tickView_sendFlit (i : Nat) (bs : List Byte) : (sendFlit i bs s).tickView = s.tickView := by simp [sendFlit]
@[simp] theorem tickView_sendData (i : Nat) (fs : List RetryFlit) : (sendData i fs s).tickView = s.tickView := by simp [sendData]
@[simp] theorem tickView_sendInit (i : Nat) : (sendInit i s).tickView = s.tickView := by simp [sendInit]
@[simp] theorem tickView_dropHolds (i : Nat) : (dropHolds i s).tickView = s.tickView := by simp [dropHolds]
@[simp] theorem tickView_linkActive (i : Nat) (bs : List Byte) : (linkActive i bs s).tickView = s.tickView := by simp [linkActive]
@[simp] theorem tickView_settleInit (i : Nat) : (settleInit i s).tickView = s.tickView := by
  unfold settleInit
  dsimp only
  split <;> simp
@[simp] theorem tickView_leaveActive (i : Nat) (target : LinkMode) :
    (leaveActive i target s).tickView = s.tickView := by simp [leaveActive]
@[simp] theorem tickView_retrain (i cause : Nat) : (retrain i cause s).tickView = s.tickView := by simp [retrain]
@[simp] theorem tickView_fabricEffect (pl : List Byte) : (fabricEffect pl s).tickView = s.tickView := by simp [fabricEffect]
@[simp] theorem tickView_windowCreateEffect (t id : Nat) (plots dir : List Nat) :
    (windowCreateEffect t id plots dir s).tickView = s.tickView := by simp [windowCreateEffect]
@[simp] theorem tickView_windowRemoveEffect (id : Nat) :
    (windowRemoveEffect id s).tickView = s.tickView := by simp [windowRemoveEffect]
@[simp] theorem tickView_streamStartEffect (g : Nat) : (streamStartEffect g s).tickView = s.tickView := by simp [streamStartEffect]
@[simp] theorem tickView_freeAlloc (a : DataAlloc) : (freeAlloc a s).tickView = s.tickView := by simp [freeAlloc]
@[simp] theorem tickView_portModeEffect (e mode fec : Nat) (train : Bool) :
    (portModeEffect e mode fec train s).tickView = s.tickView := by simp [portModeEffect]
@[simp] theorem tickView_portAddressEffect (l : Nat) (pl : List Byte) :
    (portAddressEffect l pl s).tickView = s.tickView := by simp [portAddressEffect]
@[simp] theorem tickView_portOpenEffect (l : Nat) : (portOpenEffect l s).tickView = s.tickView := by simp [portOpenEffect]
@[simp] theorem tickView_portDrainEffect (l : Nat) : (portDrainEffect l s).tickView = s.tickView := by simp [portDrainEffect]
@[simp] theorem tickView_zeroCairn (q : Quota) : (zeroCairn q s).tickView = s.tickView := by simp [zeroCairn]
@[simp] theorem tickView_zeroEntries (cs : List Nat) : (zeroEntries cs s).tickView = s.tickView := by simp [zeroEntries]
@[simp] theorem tickView_zeroWaymarks (t : Nat) (q : Quota) : (zeroWaymarks t q s).tickView = s.tickView := by simp [zeroWaymarks]
@[simp] theorem tickView_tenantSetEffect (t : Nat) (q : Quota) : (tenantSetEffect t q s).tickView = s.tickView := by
  unfold tenantSetEffect
  split <;> simp
@[simp] theorem tickView_releaseRecords (t : Nat) : (releaseRecords t s).tickView = s.tickView := by simp [releaseRecords]
@[simp] theorem tickView_releaseStreams (t : Nat) : (releaseStreams t s).tickView = s.tickView := by
  simp [releaseStreams]
@[simp] theorem tickView_resetQueue (f : Nat) (q : EvtQueue) : (resetQueue f q s).tickView = s.tickView := by
  simp [resetQueue]
@[simp] theorem tickView_releaseEndpoints (t : Nat) : (releaseEndpoints t s).tickView = s.tickView := by simp [releaseEndpoints]
@[simp] theorem tickView_releaseResources (t : Nat) (entries : List Nat) :
    (releaseResources t entries s).tickView = s.tickView := by simp [releaseResources]
@[simp] theorem tickView_releaseEffect (t : Nat) : (releaseEffect t s).tickView = s.tickView := by simp [releaseEffect]
@[simp] theorem tickView_tenantStateEffect (t op : Nat) : (tenantStateEffect t op s).tickView = s.tickView := by
  unfold tenantStateEffect
  dsimp only
  split <;> simp
@[simp] theorem tickView_canaryEffect (r : Nat) (on : Bool) : (canaryEffect r on s).tickView = s.tickView := by simp [canaryEffect]
@[simp] theorem tickView_detourEffect (id op : Nat) : (detourEffect id op s).tickView = s.tickView := by
  unfold detourEffect
  split <;> simp
@[simp] theorem tickView_powerEffect (pl : List Byte) : (powerEffect pl s).tickView = s.tickView := by simp [powerEffect]
@[simp] theorem tickView_shedForward : (shedForward s).tickView = s.tickView := by simp [shedForward]
@[simp] theorem tickView_updateLevel : (updateLevel s).tickView = s.tickView := by simp [updateLevel]
@[simp] theorem tickView_latchReading : (latchReading s).tickView = s.tickView := by simp [latchReading]
@[simp] theorem tickView_changePoint : (changePoint s).tickView = s.tickView := by
  unfold changePoint
  split <;> simp
@[simp] theorem tickView_boardCapEffect (b : Nat) : (boardCapEffect b s).tickView = s.tickView := by simp [boardCapEffect]
@[simp] theorem tickView_assignBank (b t : Nat) : (assignBank b t s).tickView = s.tickView := by simp [assignBank]
@[simp] theorem tickView_endReplaced : (endReplaced s).tickView = s.tickView := by simp [endReplaced]
@[simp] theorem tickView_foldRead (a : Nat) (ecc : List EccFind) : (foldRead a ecc s).2.tickView = s.tickView := by simp [foldRead]
@[simp] theorem tickView_foldStat (first : Bool) (ecc : List EccFind) (key : Nat) :
    (foldStat first ecc key s).tickView = s.tickView := by
  unfold foldStat
  split <;> simp
@[simp] theorem tickView_foldStats (first : Bool) (ecc : List EccFind) :
    (foldStats first ecc s).tickView = s.tickView := by simp [foldStats]
@[simp] theorem tickView_planReplay (a : State × Plan) (x : Replay) : (planReplay a x).1.tickView = a.1.tickView := by
  unfold planReplay
  dsimp only
  split
  · rfl
  · split
    · rfl
    · split <;> simp
@[simp] theorem tickView_planReplays (a : State × Plan) : (planReplays a).1.tickView = a.1.tickView := by simp [planReplays]
@[simp] theorem tickView_tenantTurn (t : Nat) (a : State × Plan × Bool) : (tenantTurn t a).1.tickView = a.1.tickView := by
  unfold tenantTurn
  dsimp only
  split
  · rfl
  · split <;> simp
@[simp] theorem tickView_throughputRounds (n : Nat) (a : State × Plan) : (throughputRounds n a).1.tickView = a.1.tickView := by
  induction n generalizing a with
  | zero => rfl
  | succ n ih =>
    unfold throughputRounds
    dsimp only
    split <;> simp [ih]
@[simp] theorem tickView_planCandidate (c : Nat) (a : State × Plan) : (planCandidate c a).1.tickView = a.1.tickView := by
  unfold planCandidate
  split
  · rfl
  · split
    · rfl
    · dsimp only
      split <;> simp
theorem tickView_grantCandidate {slot k : Nat} {a b : State × Plan} (h : grantCandidate slot k a = some b) :
    b.1.tickView = a.1.tickView := by
  unfold grantCandidate at h
  dsimp only at h
  split at h
  · cases h
    rfl
  · split at h
    · cases h
      rfl
    · split at h
      · cases h
      · split at h
        · cases h
        · obtain ⟨y, hy, rfl⟩ := Option.map_eq_some_iff.mp h
          simpa using tickView_takeCtx hy
@[simp] theorem tickView_keepOrGrant (left : Nat) (b : Nat → BgReq) :
    (keepOrGrant left b s).tickView = s.tickView := by by_cases h : left = 0 <;> simp [keepOrGrant, h]
@[simp] theorem tickView_grantOne (a : State × Plan) (b : BgReq) : (grantOne a b).1.tickView = a.1.tickView := by
  unfold grantOne
  dsimp only
  split
  · split
    next hy => exact tickView_grantCandidate hy
    · simp
  · simp
  · simp
  · split <;> simp
  · split
    · rfl
    · split <;> simp
@[simp] theorem tickView_grantBackground (a : State × Plan) :
    (grantBackground a).1.tickView = a.1.tickView := by simp [grantBackground]
@[simp] theorem tickView_grantFloor (a : State × Plan) : (grantFloor a).1.tickView = a.1.tickView := by simp [grantFloor]
@[simp] theorem tickView_askPatrol : (askPatrol s).tickView = s.tickView := by simp [askPatrol]
@[simp] theorem tickView_clearPlan : (clearPlan s).tickView = s.tickView := by simp [clearPlan]
@[simp] theorem tickView_beginParking : (beginParking s).tickView = s.tickView := by simp [beginParking]
@[simp] theorem tickView_freeStaging : (freeStaging s).tickView = s.tickView :=
  tickView_foldl _ (fun s c => by split <;> simp) _ _

end Sys2Proof.Machine
end

section
/-! SUPPORT. The cycles of a tick and the boundary of a Milestone (R248, R249), in terms of the time. -/

namespace Sys2Proof.Machine

/-- Counting several counters changes the counters alone. -/
theorem foldl_count_frame (n : Nat) (ks : List Nat) (s : State) :
    ks.foldl (fun t k => count k n t) s = { s with ctr := (ks.foldl (fun t k => count k n t) s).ctr } := by
  induction ks generalizing s with
  | nil => rfl
  | cons k ks ih =>
    rw [List.foldl_cons, ih, count_frame]

variable (s : State)

/-- What `n` cycles do before their end: the time goes on and the standing waits count. -/
theorem countCycles_frame (n : Nat) : countCycles n s = { s with
    time := { s.time with
      time := (s.time.time + (s.time.sub + n) / s.disp.point.clock) % 2 ^ 64
      sub := (s.time.sub + n) % s.disp.point.clock
      cycle := s.time.cycle + n }
    ctr := ((stallCounters s).foldl (fun t k => count k n t) s).ctr } := by
  unfold countCycles
  rw [foldl_count_frame]
  rfl

theorem time_countCycles (n : Nat) : (countCycles n s).time = { s.time with
    time := (s.time.time + (s.time.sub + n) / s.disp.point.clock) % 2 ^ 64
    sub := (s.time.sub + n) % s.disp.point.clock
    cycle := s.time.cycle + n } := by rw [countCycles_frame]

@[simp] theorem disp_countCycles (n : Nat) : (countCycles n s).disp = s.disp := by rw [countCycles_frame]

@[simp] theorem tickView_endCycle : (endCycle s).tickView = s.tickView := by simp [endCycle]

theorem time_endCycle : (endCycle s).time = s.time := congrArg Prod.fst (tickView_endCycle s)

theorem time_cycle : (cycle s).time = { s.time with
    time := (s.time.time + (s.time.sub + 1) / s.disp.point.clock) % 2 ^ 64
    sub := (s.time.sub + 1) % s.disp.point.clock
    cycle := s.time.cycle + 1 } := (time_endCycle _).trans (time_countCycles s 1)

/-- What names the tick, and what the dispatcher's registers show of the last one. -/
def State.tickShown (s : State) : Nat × Nat × Nat × Nat × Nat :=
  (s.time.tick, s.time.epoch, s.disp.tpPtr, s.disp.charged, s.disp.debt)

theorem tickShown_of_tickView {s t : State} (h : t.tickView = s.tickView) : t.tickShown = s.tickShown :=
  congrArg (fun v : TimeSt × Nat × Nat × Nat => (v.1.tick, v.1.epoch, v.2)) h

@[simp] theorem tickShown_countCycles (n : Nat) : (countCycles n s).tickShown = s.tickShown := by
  rw [countCycles_frame]
  rfl

@[simp] theorem tickShown_cycle : (cycle s).tickShown = s.tickShown :=
  (tickShown_of_tickView (tickView_endCycle _)).trans (tickShown_countCycles s 1)

@[simp] theorem tickShown_restCycles (n : Nat) : (restCycles n s).tickShown = s.tickShown := by
  induction n generalizing s with
  | zero => rfl
  | succ n ih =>
    unfold restCycles
    split
    · exact tickShown_countCycles s (n + 1)
    · exact (ih _).trans (tickShown_cycle s)

@[simp] theorem tickShown_idleCycles (n : Nat) : (idleCycles n s).tickShown = s.tickShown := by
  cases n with
  | zero => rfl
  | succ n => exact (tickShown_restCycles _ n).trans (tickShown_cycle s)

theorem cycle_restCycles (n : Nat) : (restCycles n s).time.cycle = s.time.cycle + n := by
  induction n generalizing s with
  | zero => rfl
  | succ n ih =>
    unfold restCycles
    split
    · rw [time_countCycles]
    · rw [ih, time_cycle]
      simp only
      omega

theorem cycle_idleCycles (n : Nat) : (idleCycles n s).time.cycle = s.time.cycle + n := by
  cases n with
  | zero => rfl
  | succ n =>
    rw [idleCycles, cycle_restCycles, time_cycle]
    simp only
    omega

/-! ## The boundary of a Milestone -/

@[simp] theorem tickView_dueEffect (ecc : List EccFind) (d : Due) : (dueEffect ecc d s).tickView = s.tickView := by
  cases d <;> simp [dueEffect, assignBank]

@[simp] theorem tickView_latchDue (ecc : List EccFind) : (latchDue ecc s).tickView = s.tickView := by
  simp [latchDue, endReplaced]

@[simp] theorem tickView_boundaryLatch (first : Bool) (ecc : List EccFind) :
    (boundaryLatch first ecc s).tickView = s.tickView := by
  cases first <;> simp [boundaryLatch]

@[simp] theorem tickView_boundaryBudget (first : Bool) (ecc : List EccFind) :
    (boundaryBudget first ecc s).tickView = s.tickView := by
  cases first <;> simp [boundaryBudget]

/-- Cycle 0 closes the charges of the tick that ended (R266). -/
theorem tickView_boundaryStart (first : Bool) : (boundaryStart first s).tickView =
    (s.time, s.disp.tpPtr, s.disp.charging, min (s.disp.charging - s.disp.budget) (nominalBudget s)) := by
  have hclose : (closeTick s).tickView =
      (s.time, s.disp.tpPtr, s.disp.charging, min (s.disp.charging - s.disp.budget) (nominalBudget s)) := by
    rw [closeTick, tickView_count]
    rfl
  cases first <;> simp [boundaryStart, hclose]

/-- The plan of a tick moves the round-robin pointer on and shows nothing else of the dispatcher's (R258). -/
theorem tickView_buildPlan : (buildPlan s).tickView =
    (s.time, (s.disp.tpPtr + 1) % 32, s.disp.charged, s.disp.debt) := by
  have hmove (u : State) (hu : u.tickView = s.tickView) :
      (modDisp (fun d => { d with tpPtr := (d.tpPtr + 1) % 32 }) u).tickView =
        (s.time, (s.disp.tpPtr + 1) % 32, s.disp.charged, s.disp.debt) :=
    congrArg (fun v : TimeSt × Nat × Nat × Nat => (v.1, (v.2.1 + 1) % 32, v.2.2)) hu
  refine hmove _ ?_
  by_cases h : s.disp.level < 2 <;> simp

/-! ## A still state -/

@[simp] theorem still_countCycles (n : Nat) : (countCycles n s).still ↔ s.still := by
  rw [countCycles_frame]
  rfl

/-- Nothing of a still state waits for the end of a cycle. -/
theorem endCycle_of_still {s : State} (h : s.still) : endCycle s = s := by
  obtain ⟨hret, hport, hwmk, hprogs, htrh, hout⟩ := h
  have hstaging : freeStaging s = s := by rw [freeStaging, hret]; rfl
  have hreturned : { s with returned := [] } = s := by rw [← hret]
  have hdrain : wmkDrain 4 s = s := by
    have hunit : { s.wmkUnit with queue := [] } = s.wmkUnit := by rw [← hwmk]
    simp [wmkDrain, hwmk, hunit]
  have hcairn : portCycle s = s := by
    have hsame : { s with crnPort := ⟨[], 0⟩ } = s := by rw [← hport]
    simp [portCycle, hport, hsame]
  have hpump : pumpOut s = s := by
    have hnone : s.ctxs.filter (fun p => outWaits s p.2) = [] :=
      List.filter_eq_nil_iff.2 (fun p hp => by simp [hout p hp])
    rw [pumpOut, hnone]
    rfl
  have hskips (p : Nat) (hp : p < 2) : passSkips (s.trhQ.getD p []).length p s = s := by
    rw [htrh p hp]
    rfl
  have hfill : fillDispatch s = s := by
    rw [fillDispatch, hprogs]
    exact (congrArg (fun u : State => passSkips (u.trhQ.getD 1 []).length 1 u) (hskips 0 (by decide))).trans
      (hskips 1 (by decide))
  rw [endCycle, hstaging, hreturned, hdrain, hcairn, hpump, hfill]

theorem cycle_of_still {s : State} (h : s.still) : cycle s = countCycles 1 s :=
  endCycle_of_still ((still_countCycles s 1).2 h)

theorem disp_restCycles_of_still {s : State} (h : s.still) (n : Nat) : (restCycles n s).disp = s.disp := by
  induction n generalizing s with
  | zero => rfl
  | succ n ih =>
    unfold restCycles
    split
    · exact disp_countCycles s (n + 1)
    · rw [cycle_of_still h, ih ((still_countCycles s 1).2 h), disp_countCycles]

theorem disp_idleCycles_of_still {s : State} (h : s.still) (n : Nat) : (idleCycles n s).disp = s.disp := by
  cases n with
  | zero => rfl
  | succ n => rw [idleCycles, cycle_of_still h, disp_restCycles_of_still ((still_countCycles s 1).2 h), disp_countCycles]

end Sys2Proof.Machine
end

section
/-! PROOFS. An empty queue lets one cycle pass (O2), and a Milestone begins the next tick (O10). -/

namespace Sys2Proof.Machine

/-- Settles O2: a cycle counts the standing waits and moves the time, and its end changes nothing of a still state. -/
theorem emptyQueueLetsOneCyclePass : Obligations.EmptyQueueLetsOneCyclePass := by
  intro s hp
  have hstep : step s = .next (idle s) := step_nil s hp
  have hidle (hon : s.time.clockOn = true) (hc : s.time.cycle < 1023) : step s = .next (cycle s) := by
    rw [hstep, idle, if_pos (by simp [hon, hc])]
  refine ⟨fun hon hc hs => ⟨_, hidle hon hc, ?_⟩, fun hon hc => ⟨_, hidle hon hc, ?_⟩, fun hstop => ?_⟩
  · rw [cycle_of_still hs, countCycles_frame]
    exact ⟨rfl, rfl, rfl, rfl, rfl⟩
  · rw [time_cycle]
    exact ⟨rfl, rfl, rfl⟩
  · have hno : ¬ (s.time.clockOn && decide (s.time.cycle < 1023)) = true := by
      rcases hstop with h | h
      · simp [h]
      · simp [Nat.not_lt.2 h]
    rw [hstep, idle, if_neg hno]

/-- Settles O10: the ending tick's cycles pass, its charges are closed on the state they leave, and the boundary window is
the new tick's cycles 0 to 7. -/
theorem milestoneBeginsTheNextTick : Obligations.MilestoneBeginsTheNextTick := by
  intro s u ecc hon hu
  refine ⟨?_, fun hs => by rw [hu, disp_idleCycles_of_still hs]⟩
  obtain ⟨first, hfirst⟩ : ∃ first, first = !s.time.firstMilestoneDone := ⟨_, rfl⟩
  obtain ⟨v, hv⟩ : ∃ v : State, v = modDisp (fun d => { d with latUsed := [] })
      { u with time := { u.time with tick := (u.time.tick + 1) % 2 ^ 64, cycle := 0 } } := ⟨_, rfl⟩
  obtain ⟨w, hw⟩ : ∃ w, w = postDue (beginParking (buildPlan
      (boundaryBudget first ecc (boundaryLatch first ecc (boundaryStart first v))))) := ⟨_, rfl⟩
  have hexec : exec (.milestone ecc) s =
      .next { idleCycles 8 w with time := { (idleCycles 8 w).time with firstMilestoneDone := true } } := by
    have hrow : exec (.milestone ecc) s = execMilestone s ecc := rfl
    rw [hrow, execMilestone, if_neg (by simp [hon]), hw, hv, hu, hfirst]
  have hshown : u.tickShown = s.tickShown := by rw [hu, tickShown_idleCycles]
  have hclosed : w.tickView = (v.time, (v.disp.tpPtr + 1) % 32, v.disp.charging,
      min (v.disp.charging - v.disp.budget) (nominalBudget v)) := by
    have hbudget : (boundaryBudget first ecc (boundaryLatch first ecc (boundaryStart first v))).tickView =
        (v.time, v.disp.tpPtr, v.disp.charging, min (v.disp.charging - v.disp.budget) (nominalBudget v)) := by
      rw [tickView_boundaryBudget, tickView_boundaryLatch, tickView_boundaryStart]
    rw [hw, tickView_postDue, tickView_beginParking, tickView_buildPlan]
    exact congrArg (fun v : TimeSt × Nat × Nat × Nat => (v.1, (v.2.1 + 1) % 32, v.2.2)) hbudget
  have hrest : (idleCycles 8 w).tickShown = w.tickShown := tickShown_idleCycles w 8
  have hcycle : (idleCycles 8 w).time.cycle = w.time.cycle + 8 := cycle_idleCycles w 8
  simp only [State.tickShown, State.tickView, Prod.mk.injEq] at hshown hclosed hrest
  obtain ⟨htick, hepoch, hptr, -, -⟩ := hshown
  obtain ⟨htime, hwptr, hcharged, hdebt⟩ := hclosed
  obtain ⟨htick', hepoch', hptr', hcharged', hdebt'⟩ := hrest
  refine ⟨_, hexec, ?_, ?_, ?_, rfl, ?_, ?_, ?_⟩
  · rw [← htick, htick', htime, hv]
    rfl
  · rw [hcycle, htime, hv]
    rfl
  · rw [← hepoch, hepoch', htime, hv]
    rfl
  · rw [← hptr, hptr', hwptr, hv]
    rfl
  · rw [hcharged', hcharged, hv]
    rfl
  · rw [hdebt', hdebt, hv]
    rfl

end Sys2Proof.Machine
end

section
/-! SUPPORT. What cutting the streams of a function leaves (R374, R435): of the function's state, of a stream, and of the rest. -/

namespace Sys2Proof.Machine

/-! ## Steps of one function's state and of one stream -/

/-- A response of the function that still waits is one that a reset discarded. -/
def Mailbox.held (m : Mailbox) : Prop := m.discard = true ∨ m.due = none

/-- What the end of another function's work may do to a function's state: post its response when it waits, end its waits
with their cause bits and messages, and mark its queue. -/
structure FnStep (x y : FnSt) : Prop where
  queue : y.evq.enabled = x.evq.enabled ∧ y.evq.head = x.evq.head ∧ y.evq.tail = x.evq.tail
  table : y.msix = x.msix ∧ y.pba = x.pba
  ctrl : y.mbx.ie = x.mbx.ie ∧ y.mbx.vec = x.mbx.vec
  noDue : x.mbx.due = none → y.mbx = x.mbx
  booted : x.mbx.state ≠ .booting → y.mbx.state ≠ .booting
  held : x.mbx.held → y.mbx.held ∧ y.mbx.state = x.mbx.state
  quiet : x.waits = List.replicate 16 WaitSlot.idle → x.evq.enabled = false → x.mbx.held →
    y.waits = x.waits ∧ y.cause = x.cause ∧ y.msixDue = x.msixDue

theorem FnStep.refl (x : FnSt) : FnStep x x :=
  ⟨⟨rfl, rfl, rfl⟩, ⟨rfl, rfl⟩, ⟨rfl, rfl⟩, fun _ => rfl, id, fun h => ⟨h, rfl⟩, fun _ _ _ => ⟨rfl, rfl, rfl⟩⟩

theorem FnStep.trans {x y z : FnSt} (h : FnStep x y) (k : FnStep y z) : FnStep x z where
  queue := by rw [k.queue.1, k.queue.2.1, k.queue.2.2]; exact h.queue
  table := by rw [k.table.1, k.table.2]; exact h.table
  ctrl := by rw [k.ctrl.1, k.ctrl.2]; exact h.ctrl
  noDue := fun hd => by
    have hy := h.noDue hd
    rw [k.noDue (by rw [hy]; exact hd), hy]
  booted := fun hb => k.booted (h.booted hb)
  held := fun hd => by
    obtain ⟨hy, hs⟩ := h.held hd
    obtain ⟨hz, hs'⟩ := k.held hy
    exact ⟨hz, hs'.trans hs⟩
  quiet := fun hw he hd => by
    obtain ⟨hw', hc, hm⟩ := h.quiet hw he hd
    obtain ⟨hw'', hc', hm'⟩ := k.quiet (hw'.trans hw) (h.queue.1.trans he) (h.held hd).1
    exact ⟨hw''.trans hw', hc'.trans hc, hm'.trans hm⟩

/-- The stream is stopped with nothing in it. -/
def Stream.off (x : Stream) : Prop := x.mode = .stopped ∧ x.descs = [] ∧ x.answers = [] ∧ x.fill = 0

/-- The configuration of a stream, its staging size and its tail. -/
def Stream.config (x : Stream) : Bool × Nat × Nat × Nat × Nat := (x.configured, x.ringBase, x.sizeExp, x.staging, x.tail)

/-- What the end of work may do to a stream: it keeps the configuration, and fills no stream that is off. -/
structure StreamStep (x y : Stream) : Prop where
  config : y.config = x.config
  off : x.off → y.off

theorem StreamStep.refl (x : Stream) : StreamStep x x := ⟨rfl, id⟩

theorem StreamStep.trans {x y z : Stream} (h : StreamStep x y) (k : StreamStep y z) : StreamStep x z :=
  ⟨k.config.trans h.config, fun hx => k.off (h.off hx)⟩

/-! ## Steps of the state, as virtual function `v + 1` and its tenant see them -/

/-- What the block keeps, and what it does to virtual function `v + 1`, its streams and its tenant. -/
structure CutStep (v : Nat) (s t : State) : Prop where
  models : t.models = s.models
  ports : t.ports = s.ports
  taken : t.taken = s.taken
  tenant : t.tenantView v = s.tenantView v
  fn : FnStep (s.fn (v + 1)) (t.fn (v + 1))
  stream : ∀ g, g / 8 = v + 1 → StreamStep (s.stream g) (t.stream g)

theorem CutStep.refl (v : Nat) (s : State) : CutStep v s s :=
  ⟨rfl, rfl, rfl, rfl, FnStep.refl _, fun _ _ => StreamStep.refl _⟩

theorem CutStep.trans {v : Nat} {s t u : State} (h : CutStep v s t) (k : CutStep v t u) : CutStep v s u :=
  ⟨k.models.trans h.models, k.ports.trans h.ports, k.taken.trans h.taken, k.tenant.trans h.tenant, h.fn.trans k.fn,
    fun g hg => (h.stream g hg).trans (k.stream g hg)⟩

theorem CutStep.foldl {α : Type} {v : Nat} {f : State → α → State} (hf : ∀ s a, CutStep v s (f s a)) (l : List α) (s : State) :
    CutStep v s (l.foldl f s) :=
  foldl_keeps (fun t => CutStep v s t) f (fun t a ht => ht.trans (hf t a)) l s (CutStep.refl v s)

/-- A step that leaves the functions, the streams and what is seen of the tenants. -/
theorem CutStep.of_eq {s t : State} (v : Nat) (hm : t.models = s.models) (hp : t.ports = s.ports) (hk : t.taken = s.taken)
    (ht : t.tenantView v = s.tenantView v) (hf : t.fns = s.fns) (hd : t.dma.streams = s.dma.streams) : CutStep v s t where
  models := hm
  ports := hp
  taken := hk
  tenant := ht
  fn := by rw [State.fn, State.fn, hf]; exact FnStep.refl _
  stream := fun g _ => by rw [State.stream, State.stream, hd]; exact StreamStep.refl _

section
variable (v : Nat) (s : State)

theorem cutStep_count (k n : Nat) : CutStep v s (count k n s) := by
  rw [count_frame]
  exact .of_eq v rfl rfl rfl rfl rfl rfl

theorem cutStep_modFn {f : Nat} {F : FnSt → FnSt} (h : f = v + 1 → FnStep (s.fn f) (F (s.fn f))) : CutStep v s (modFn f F s) where
  models := rfl
  ports := rfl
  taken := rfl
  tenant := rfl
  fn := by
    by_cases hf : f = v + 1
    · by_cases hl : f < s.fns.length
      · rw [← hf, State.fn, State.fn, modFn_fns, getD_modify_eq _ _ _ _ hl]
        exact h hf
      · rw [← hf, State.fn, State.fn, modFn_fns, List.modify_eq_self (not_lt.1 hl)]
        exact FnStep.refl _
    · rw [State.fn, State.fn, modFn_fns, getD_modify_ne _ _ _ _ _ (Ne.symm hf)]
      exact FnStep.refl _
  stream := fun _ _ => StreamStep.refl _

theorem cutStep_modStream {h : Nat} {F : Stream → Stream} (hF : ∀ x, StreamStep x (F x)) : CutStep v s (modStream h F s) where
  models := rfl
  ports := rfl
  taken := rfl
  tenant := rfl
  fn := FnStep.refl _
  stream := fun g _ => by
    by_cases hg : g = h
    · by_cases hl : g < s.dma.streams.length
      · rw [← hg, stream_modStream_same hl]
        exact hF _
      · rw [← hg, State.stream, State.stream, modStream_dma]
        simp only
        rw [List.modify_eq_self (not_lt.1 hl)]
        exact StreamStep.refl _
    · rw [State.stream, State.stream, modStream_dma]
      simp only
      rw [getD_modify_ne _ _ _ _ _ hg]
      exact StreamStep.refl _

/-! ## Events, contexts and descriptors -/

theorem cutStep_markLost (f : Nat) : CutStep v s (markLost f s) := by
  refine cutStep_modFn v s (fun _ => ?_)
  split
  next he => exact ⟨⟨rfl, rfl, rfl⟩, ⟨rfl, rfl⟩, ⟨rfl, rfl⟩, fun _ => rfl, id, fun h => ⟨h, rfl⟩, fun _ hf _ => by simp [he] at hf⟩
  next => exact FnStep.refl _

theorem cutStep_raise (c t : Nat) (d : List Byte) : CutStep v s (raise c t d s) := by
  unfold raise
  split
  · exact .of_eq v rfl rfl rfl rfl rfl rfl
  · exact (cutStep_count v s _ _).trans (.foldl (fun s f => cutStep_markLost v s f) _ _)

/-- A block that goes back to its tenant's free list leaves what is seen of the tenants. -/
theorem cutStep_returnBlock (c : Nat) : CutStep v s (returnBlock c s) := by
  have htenant (u : Nat) (F : Tenant → Tenant) (hF : ∀ x, ((F x).state, (F x).enable, (F x).preempted, (F x).quota) =
      (x.state, x.enable, x.preempted, x.quota)) : (modTenant u F s).tenantView v = s.tenantView v := by
    rw [State.tenantView, State.tenantView, State.tenant, State.tenant, modTenant_tenants]
    by_cases hu : v = u
    · by_cases hl : u < s.tenants.length
      · rw [hu, getD_modify_eq _ _ _ _ hl, hF]
      · rw [List.modify_eq_self (not_lt.1 hl)]
    · rw [getD_modify_ne _ _ _ _ _ hu]
  unfold returnBlock
  split
  · exact .refl v s
  next r _ =>
    split
    · exact .refl v s
    next b _ => exact .of_eq v rfl rfl rfl (htenant r.tenant _ (fun _ => rfl)) rfl rfl

theorem cutStep_freeContext (c : Nat) : CutStep v s (freeContext c s) := by
  unfold freeContext
  split
  · have hgiven : CutStep v s (giveBack (workCredits c s) s) := .of_eq v rfl rfl rfl rfl rfl rfl
    have hdropped : CutStep v (returnBlock c (giveBack (workCredits c s) s)) (dropWork c s) :=
      .of_eq v rfl rfl rfl rfl rfl rfl
    have hwritten (u : State) : CutStep v u (writeWhole (swbAddr c) (zeros 8) (releaseCtx c u)) :=
      .of_eq v rfl rfl rfl rfl rfl rfl
    exact ((hgiven.trans (cutStep_returnBlock v _ c)).trans hdropped).trans (hwritten _)
  · exact .refl v s

theorem cutStep_modDesc (g n : Nat) (F : Desc → Desc) : CutStep v s (modDesc g n F s) :=
  cutStep_modStream v s (fun _ => ⟨rfl, fun ⟨hm, hd, ha, hf⟩ => ⟨hm, by simp [hd], ha, hf⟩⟩)

theorem cutStep_advanceHead (g : Nat) : CutStep v s (advanceHead g s) :=
  cutStep_modStream v s (fun _ => ⟨rfl, fun ⟨hm, hd, ha, hf⟩ => ⟨hm, by simp [hd], ha, hf⟩⟩)

theorem cutStep_settleInvals : CutStep v s (settleInvals s) :=
  have hmod (F : DmaSt → DmaSt) (hF : ∀ d, (F d).streams = d.streams) : CutStep v s (modDma F s) :=
    .of_eq v rfl rfl rfl rfl rfl (hF s.dma)
  have hmod' := hmod (fun d => { d with
    invals := s.dma.invals.filter (fun (x : Nat × Nat × Nat) => rangeBusy s x.1 x.2.1 x.2.2)
    iotlb := d.iotlb.filter (fun e => e.read || e.write ||
      (s.dma.invals.filter (fun (x : Nat × Nat × Nat) => rangeBusy s x.1 x.2.1 x.2.2)).any (fun x => e.meets x.1 x.2.1 x.2.2)) })
    (fun _ => rfl)
  hmod'.trans (.foldl (f := fun s (x : Nat × Nat × Nat) => emit (.invalidateDone x.1) s)
    (fun _ _ => .of_eq v rfl rfl rfl rfl rfl rfl) _ _)

/-! ## Responses that wait -/

theorem cutStep_postResponse {f : Nat} (status : Nat) (payload : List Byte) (hdue : (s.fn f).mbx.due ≠ none) :
    CutStep v s (postResponse f status payload s) := by
  unfold postResponse
  dsimp only
  split
  next hd =>
    refine cutStep_modFn v s (fun _ => ⟨⟨rfl, rfl, rfl⟩, ⟨rfl, rfl⟩, ⟨rfl, rfl⟩, fun h => absurd h hdue, id,
      fun _ => ⟨.inr rfl, rfl⟩, fun _ _ _ => ⟨rfl, rfl, rfl⟩⟩)
  next hd =>
    have hheld : ¬ (s.fn f).mbx.held := fun h => h.elim hd hdue
    have hposted (c : Nat) (ms : List Nat) : CutStep v s (modFn f (fun x => { x with
        mbx := { x.mbx with resp := responsePage x.mbx.run status s.time.epoch payload, state := .done, due := none }
        cause := x.cause ||| c, msixDue := x.msixDue ++ ms }) s) :=
      cutStep_modFn v s (fun _ => ⟨⟨rfl, rfl, rfl⟩, ⟨rfl, rfl⟩, ⟨rfl, rfl⟩, fun h => absurd h hdue, fun _ => by simp,
        fun h => absurd h hheld, fun _ _ h => absurd h hheld⟩)
    split
    · have h := hposted 1 [(s.fn f).mbx.vec]
      simpa only [fireVector, setCause, modMbx, modFn, modify_modify, Function.comp_def] using h
    · have h := hposted 1 []
      simpa only [setCause, modMbx, modFn, modify_modify, Function.comp_def, List.append_nil] using h

theorem cutStep_postWaiting (op : Nat) (mine : List Byte → Nat → Bool) (status : Nat) (payload : List Byte) :
    CutStep v s (postWaiting op mine status payload s) := by
  refine .foldl (fun t f => ?_) _ _
  dsimp only
  split
  next p hdue =>
    split
    · exact cutStep_postResponse v t status payload (by simp [hdue])
    · exact .refl v t
  · exact .refl v t

theorem cutStep_settleStop (g : Nat) : CutStep v s (settleStop g s) := by
  unfold settleStop
  dsimp only
  split
  · have hstopped := cutStep_modStream v s (h := g) (F := fun x => { x with
        mode := .stopped, stopDue := false, fill := (x.answers.map (fun a => if a.staged then a.size else 0)).sum })
      (fun x => ⟨rfl, fun ⟨_, hd, ha, _⟩ => ⟨rfl, hd, ha, by simp [ha]⟩⟩)
    exact hstopped.trans (cutStep_postWaiting v _ _ _ _ _)
  · exact .refl v s

/-! ## Waymark updates -/

/-- No update ends a wait of idle slots. -/
theorem evalSlots_idle (n : Nat) (w : Waymark) (wasReset : Bool) (t : TimeSt) (j k : Nat) :
    evalSlots n w wasReset t j (List.replicate k WaitSlot.idle) = (List.replicate k WaitSlot.idle, 0, []) := by
  induction k generalizing j with
  | zero => rfl
  | succ k ih =>
    have hidle : slotOutcome n w wasReset t WaitSlot.idle = none := rfl
    rw [List.replicate_succ, evalSlots, ih, hidle]

theorem fnStep_evalFn (n : Nat) (w : Waymark) (wasReset : Bool) (t : TimeSt) (x : FnSt) :
    FnStep x (evalFn n w wasReset t x) := by
  refine ⟨⟨rfl, rfl, rfl⟩, ⟨rfl, rfl⟩, ⟨rfl, rfl⟩, fun _ => rfl, id, fun h => ⟨h, rfl⟩, fun hw _ _ => ?_⟩
  simp only [evalFn, hw, evalSlots_idle, Nat.or_zero, List.append_nil, and_self]

theorem getD_map_step {α : Type} {R : α → α → Prop} {F : α → α} (hrefl : ∀ x, R x x) (hF : ∀ x, R x (F x)) (l : List α)
    (i : Nat) (d : α) : R (l.getD i d) ((l.map F).getD i d) := by
  rw [List.getD_eq_getElem?_getD, List.getD_eq_getElem?_getD, List.getElem?_map]
  cases l[i]? with
  | none => exact hrefl d
  | some x => exact hF x

/-- An evaluation changes the functions' waits, the descriptors' waits and the counters of timeouts. -/
theorem evalWaits_frame (n : Nat) (wasReset : Bool) (t : TimeSt) : ∃ c, evalWaits n wasReset t s = { s with
    ctr := c
    fns := s.fns.map (evalFn n (s.waymark n) wasReset t)
    dma := { s.dma with
      streams := s.dma.streams.map (fun g => { g with descs := g.descs.map (evalDesc n (s.waymark n) wasReset t) }) } } := by
  unfold evalWaits
  rw [foldl_countTimeouts_frame]
  exact ⟨_, rfl⟩

theorem cutStep_evalWaits (n : Nat) (wasReset : Bool) (t : TimeSt) : CutStep v s (evalWaits n wasReset t s) := by
  obtain ⟨c, hc⟩ := evalWaits_frame s n wasReset t
  rw [hc]
  refine ⟨rfl, rfl, rfl, rfl, ?_, fun g _ => ?_⟩
  · rw [State.fn, State.fn]
    exact getD_map_step FnStep.refl (fnStep_evalFn n _ wasReset t) _ _ _
  · rw [State.stream, State.stream]
    refine getD_map_step StreamStep.refl (fun _ => ?_) _ _ _
    exact ⟨rfl, fun ⟨hm, hd, ha, hf⟩ => ⟨hm, by simp [hd], ha, hf⟩⟩

theorem cutStep_wmkUpdate (t : TimeSt) (n : Nat) (F : Waymark → Waymark) (wasReset : Bool) :
    CutStep v s (wmkUpdate t n F wasReset s) := by
  have hcounted : CutStep v s (count (cWmk 0) 1 s) := cutStep_count v s _ _
  have hput (u : State) (w : Waymark) : CutStep v u (putWaymark n w u) := .of_eq v rfl rfl rfl rfl rfl rfl
  unfold wmkUpdate
  generalize count (cWmk 0) 1 s = u at hcounted ⊢
  exact (hcounted.trans (hput u _)).trans (cutStep_evalWaits v _ n wasReset t)

/-- Openings an operation makes (R279). -/
def WmkOp.trips (w : Waymark) : WmkOp → Nat
  | .signal n _ => w.trips n
  | _ => 0

/-- An update that is not ignored counts the openings it makes, is applied and evaluated, and reports the first overflow. -/
theorem wmkApply_eq {op : WmkOp} (h : op.ignored = false) (t : TimeSt) (i : Nat) :
    wmkApply t i op s =
      let u := wmkUpdate t i op.on op.resets (count (cWmk 1) (op.trips (s.waymark i)) s)
      if !(s.waymark i).ovf && (op.on (s.waymark i)).ovf then raise 0x0701 (wmkOwner u i) (leBytes 2 i) u else u := by
  unfold wmkApply
  rw [if_neg (by simp [h])]
  cases op <;> rfl

theorem cutStep_wmkApply (t : TimeSt) (i : Nat) (op : WmkOp) : CutStep v s (wmkApply t i op s) := by
  cases h : op.ignored with
  | true => rw [wmkApply, if_pos h]; exact .refl v s
  | false =>
    rw [wmkApply_eq s h]
    have hcounted := cutStep_count v s (cWmk 1) (op.trips (s.waymark i))
    generalize count (cWmk 1) (op.trips (s.waymark i)) s = u at hcounted ⊢
    have hupdated := hcounted.trans (cutStep_wmkUpdate v u t i op.on op.resets)
    dsimp only
    split
    · exact hupdated.trans (cutStep_raise v _ _ _ _)
    · exact hupdated

theorem cutStep_wmkPost (src n : Nat) (op : WmkOp) : CutStep v s (wmkPost src n op s) := by
  unfold wmkPost
  split
  · exact .refl v s
  · split
    · have hnoted (u : State) : CutStep v u (wmkNote n src u) := .of_eq v rfl rfl rfl rfl rfl rfl
      exact (cutStep_wmkApply v s _ _ _).trans (hnoted _)
    · exact .of_eq v rfl rfl rfl rfl rfl rfl

/-! ## The cut of a stream -/

theorem cutStep_finishDesc (g n : Nat) (failed : Bool) : CutStep v s (finishDesc g n failed s) := by
  unfold finishDesc
  split
  · exact .refl v s
  next d _ =>
    have hdone := (cutStep_count v s (cStr g 2) 1).trans (cutStep_modDesc v _ g n (fun d => { d with done := true }))
    refine (CutStep.trans ?_ (cutStep_advanceHead v _ g)).trans (cutStep_settleStop v _ g)
    split
    · exact hdone.trans (cutStep_wmkPost v _ _ _ _)
    · exact hdone

/-- What `streamCut` empties: the contexts of the stream's answers, its descriptors in flight, its page faults and its
Commons requests. -/
def cutWork (g : Nat) (s : State) : State :=
  let s := ((s.stream g).answers.filterMap (·.ctx)).foldl (fun s c => freeContext c s) s
  let flying := ((s.stream g).descs.filter (fun d => (d.started || d.over) && !d.done)).map (·.number)
  let s := flying.foldl (fun s n => modDesc g n (fun d => { d with status := 8 }) s) s
  let s := flying.foldl (fun s n => finishDesc g n true s) s
  { s with
    dma := { s.dma with pris := s.dma.pris.filter (fun w => match w.who with
      | .element h _ => h != g
      | .answer h => h != g
      | .status h _ => h != g
      | .event _ => true
      | .fetch => true) }
    zth := { s.zth with reqs := s.zth.reqs.filter (fun r => r.stream != g) } }

theorem streamCut_eq (g : Nat) : streamCut g s = settleStop g (settleInvals (modStream g (fun x => { x with
    mode := .stopped, descs := [], answers := [], fill := 0, failed := [] }) (cutWork g s))) := rfl

theorem cutStep_cutWork (g : Nat) : CutStep v s (cutWork g s) := by
  have hfreed := CutStep.foldl (v := v) (fun s c => cutStep_freeContext v s c) ((s.stream g).answers.filterMap (·.ctx)) s
  unfold cutWork
  dsimp only
  refine ((hfreed.trans (.foldl (fun s n => cutStep_modDesc v s g n _) _ _)).trans
    (.foldl (fun s n => cutStep_finishDesc v s g n true) _ _)).trans (.of_eq v rfl rfl rfl rfl rfl rfl)

theorem cutStep_streamCut (g : Nat) : CutStep v s (streamCut g s) := by
  rw [streamCut_eq]
  have hoff := cutStep_modStream v (cutWork g s) (h := g) (F := fun x => { x with
    mode := .stopped, descs := [], answers := [], fill := 0, failed := [] }) (fun _ => ⟨rfl, fun _ => ⟨rfl, rfl, rfl, rfl⟩⟩)
  exact (((cutStep_cutWork v s g).trans hoff).trans (cutStep_settleInvals v _)).trans (cutStep_settleStop v _ g)

variable {v s}

/-- A stream that is cut is off. -/
theorem off_streamCut (hs : s.shaped) {g : Nat} (hg : g / 8 = v + 1) (hl : g < 264) :
    ((streamCut g s).stream g).off := by
  rw [streamCut_eq]
  obtain ⟨u, hu⟩ : ∃ u, u = modStream g (fun x => { x with
    mode := .stopped, descs := [], answers := [], fill := 0, failed := [] }) (cutWork g s) := ⟨_, rfl⟩
  have hoff : (u.stream g).off := by
    have hlen : (cutWork g s).dma.streams.length = 264 := by
      have hcut : (cutWork g s).shaped := by simp [cutWork, hs]
      obtain ⟨-, -, -, -, -, -, -, hstreams, -⟩ := hcut
      exact hstreams
    rw [hu, stream_modStream_same (by rw [hlen]; exact hl)]
    exact ⟨rfl, rfl, rfl, rfl⟩
  rw [← hu]
  exact (((cutStep_settleInvals v u).trans (cutStep_settleStop v _ g)).stream g hg).off hoff

end

end Sys2Proof.Machine
end

section
/-! SUPPORT. The reset of a virtual function, as the function itself and the others see it (R374, R435). -/

namespace Sys2Proof.Machine

/-- The fields of a function's state that its reset clears (R435). -/
def FnSt.cleared (x : FnSt) : Prop :=
  x.mbx.ie = false ∧ x.mbx.vec = 0 ∧ x.cause = 0 ∧ x.pba = 0 ∧ x.msixDue = [] ∧ x.msix = List.replicate 8 MsixEntry.reset ∧
    x.waits = List.replicate 16 WaitSlot.idle ∧ x.evq.enabled = false ∧ x.evq.head = 0 ∧ x.evq.tail = 0

/-- What a reset of virtual function `v + 1` leaves of `s` in `t`. -/
structure ResetLeft (v : Nat) (s t : State) : Prop where
  mail : (s.fn (v + 1)).mbx.state ≠ .booting → (t.fn (v + 1)).mbx.state = .ready ∧ (t.fn (v + 1)).mbx.held ∧
    (s.taken.contains (v + 1) = true → (s.fn (v + 1)).mbx.due = none →
      (t.fn (v + 1)).mbx.due = none ∧ (t.fn (v + 1)).mbx.discard = true)
  cleared : (t.fn (v + 1)).cleared
  streams : ∀ g, g / 8 = v + 1 → (t.stream g).off ∧ (t.stream g).config = (s.stream g).config
  quota : (t.tenant v).quota = (s.tenant v).quota
  gone : (s.tenant v).state = .absent ∨ (s.tenant v).state = .releasing → (t.tenant v).state = (s.tenant v).state
  disabled : (s.tenant v).state ≠ .absent → (s.tenant v).state ≠ .releasing →
    (t.tenant v).state = .disabled ∧ (t.tenant v).enable = false ∧ (t.tenant v).preempted = false

theorem ResetLeft.functionReset {v : Nat} {s t : State} (h : ResetLeft v s t) : functionReset v s t := by
  obtain ⟨hie, hvec, hcause, hpba, hmsixDue, hmsix, hwaits, hevq, hhead, htail⟩ := h.cleared
  refine ⟨fun hb => ?_, hie, hvec, hcause, hpba, hmsixDue, hmsix, hwaits, hevq, hhead, htail, fun g hg => ?_, h.quota,
    h.gone, h.disabled⟩
  · obtain ⟨hstate, hheld, hran⟩ := h.mail hb
    exact ⟨hstate, fun _ => hheld, fun hk hd => (hran hk hd).2⟩
  · obtain ⟨⟨hmode, hdescs, hanswers, hfill⟩, hconfig⟩ := h.streams g hg
    simp only [Stream.config, Prod.mk.injEq] at hconfig
    obtain ⟨hconf, hbase, hsize, hstaging, htail⟩ := hconfig
    exact ⟨hmode, hdescs, hanswers, hfill, hconf, hbase, hsize, hstaging, htail⟩

/-- What the other functions' resets do around a reset changes nothing of what it leaves. -/
theorem CutStep.between {v : Nat} {s t u w : State} (hst : CutStep v s t) (htu : ResetLeft v t u) (huw : CutStep v u w)
    (hboot : (s.fn (v + 1)).mbx.state ≠ .booting) : ResetLeft v s w := by
  obtain ⟨hstate, hheld, hran⟩ := htu.mail (hst.fn.booted hboot)
  obtain ⟨hie, hvec, hcause, hpba, hmsixDue, hmsix, hwaits, hevq, hhead, htail⟩ := htu.cleared
  obtain ⟨hwaits', hcause', hmsixDue'⟩ := huw.fn.quiet hwaits hevq hheld
  obtain ⟨hheld', hstate'⟩ := huw.fn.held hheld
  obtain ⟨hqueue, hhead', htail'⟩ := huw.fn.queue
  have hs := hst.tenant
  have hw := huw.tenant
  simp only [State.tenantView, Prod.mk.injEq] at hs hw
  obtain ⟨hs1, -, -, hs4⟩ := hs
  obtain ⟨hw1, hw2, hw3, hw4⟩ := hw
  refine ⟨fun _ => ⟨hstate'.trans hstate, hheld', fun hk hd => ?_⟩, ?_, fun g hg => ?_, ?_, ?_, ?_⟩
  · have hdt := hst.fn.noDue hd
    obtain ⟨hdue, hdisc⟩ := hran (by rw [hst.taken]; exact hk) (by rw [hdt]; exact hd)
    rw [huw.fn.noDue hdue]
    exact ⟨hdue, hdisc⟩
  · exact ⟨huw.fn.ctrl.1.trans hie, huw.fn.ctrl.2.trans hvec, hcause'.trans hcause, huw.fn.table.2.trans hpba,
      hmsixDue'.trans hmsixDue, huw.fn.table.1.trans hmsix, hwaits'.trans hwaits, hqueue.trans hevq, hhead'.trans hhead,
      htail'.trans htail⟩
  · obtain ⟨hoff, hconfig⟩ := htu.streams g hg
    exact ⟨(huw.stream g hg).off hoff, ((huw.stream g hg).config.trans hconfig).trans (hst.stream g hg).config⟩
  · rw [hw4, htu.quota, hs4]
  · rw [hw1, ← hs1]
    exact htu.gone
  · rw [hw1, hw2, hw3, ← hs1]
    exact htu.disabled

/-! ## The reset in its parts -/

/-- The mailbox as a reset leaves it: READY, with a response under way discarded. -/
def Mailbox.readied (taken : Bool) (m : Mailbox) : Mailbox :=
  if m.state = .booting then m else { m with state := .ready, discard := m.discard || m.due.isSome || taken }

/-- The tenant as a reset leaves it; one that is ABSENT or RELEASING keeps its state (log 127). -/
def Tenant.resetVf (x : Tenant) : Tenant :=
  match x.state with
  | .absent => x
  | .releasing => x
  | _ => { x with state := .disabled, enable := false, enableView := false, preempted := false }

section
variable (w : Nat) (s : State)

/-- The mailbox readied and the streams cut. -/
def cutStreams : State :=
  (streamsOf (w + 1)).foldl (fun s g => streamCut g s) (modMbx (w + 1) (Mailbox.readied (s.taken.contains (w + 1))) s)

/-- The function's page and its wait slots cleared, and its queue's page faults dropped. -/
def clearFn (f : Nat) (s : State) : State :=
  modDma (fun d => { d with pris := d.pris.filter (fun w => w.who != .event f) }) (modFn f (fun x => { x with
    waits := List.replicate 16 WaitSlot.idle, mbx := { x.mbx with ie := false, vec := 0 }, cause := 0, pba := 0, msixDue := []
    msix := List.replicate (msixCount f) MsixEntry.reset, evq := { EvtQueue.reset with lastMsg := x.evq.lastMsg } }) s)

theorem vfReset_eq : vfReset w s = modTenant w Tenant.resetVf (clearFn (w + 1) (cutStreams w s)) := by
  simp only [vfReset, clearFn, resetFnPage, resetQueue, idleSlots, modFn, modify_modify, Function.comp_def]
  rfl

theorem shaped_cutStreams (hs : s.shaped) : (cutStreams w s).shaped := by
  simp [cutStreams, hs]

/-- The reset of a function, as another one sees it. -/
theorem cutStep_vfReset {v : Nat} (hv : v ≠ w) : CutStep v s (vfReset w s) := by
  rw [vfReset_eq]
  have hother {u : State} (F : FnSt → FnSt) : CutStep v u (modFn (w + 1) F u) :=
    cutStep_modFn v u (fun h => absurd (Nat.succ.inj h).symm hv)
  have hcut : CutStep v s (cutStreams w s) := (hother _).trans (.foldl (fun s g => cutStep_streamCut v s g) _ _)
  have hclear {u : State} : CutStep v u (clearFn (w + 1) u) := (hother _).trans (.of_eq v rfl rfl rfl rfl rfl rfl)
  have htenant {u : State} : CutStep v u (modTenant w Tenant.resetVf u) := by
    refine .of_eq v rfl rfl rfl ?_ rfl rfl
    rw [State.tenantView, State.tenantView, State.tenant, State.tenant, modTenant_tenants, getD_modify_ne _ _ _ _ _ hv]
  exact (hcut.trans hclear).trans htenant

end

section
variable {v : Nat} {s : State}

theorem off_foldl_streamCut {g : Nat} (hg : g / 8 = v + 1) (hl : g < 264) (gs : List Nat) (hmem : g ∈ gs) (hs : s.shaped) :
    ((gs.foldl (fun s g => streamCut g s) s).stream g).off := by
  induction gs generalizing s with
  | nil => simp at hmem
  | cons h gs ih =>
    rw [List.foldl_cons]
    by_cases hlater : g ∈ gs
    · exact ih hlater (by simpa using hs)
    · obtain rfl : g = h := (List.mem_cons.1 hmem).resolve_right hlater
      have hrest := CutStep.foldl (v := v) (fun s g => cutStep_streamCut v s g) gs (streamCut g s)
      exact (hrest.stream g hg).off (off_streamCut hs hg hl)

/-- Once the streams of a function are cut they are off. -/
theorem off_cutStreams (hs : s.shaped) (hv : v < 32) {g : Nat} (hg : g / 8 = v + 1) : ((cutStreams v s).stream g).off := by
  have hmem : g ∈ streamsOf (v + 1) := List.mem_map.2 ⟨g % 8, List.mem_range.2 (by omega), by omega⟩
  exact off_foldl_streamCut hg (by omega) _ hmem (by simpa using hs)

theorem fn_modFn_same {f : Nat} (hf : f < s.fns.length) (F : FnSt → FnSt) : (modFn f F s).fn f = F (s.fn f) :=
  getD_modify_eq _ _ _ _ hf

/-- A mailbox that is readied holds back what waits. -/
theorem readied_held (k : Bool) {m : Mailbox} (h : m.state ≠ .booting) :
    (m.readied k).state = .ready ∧ (m.readied k).due = m.due ∧ (m.readied k).held ∧
      (k = true → (m.readied k).discard = true) := by
  rw [Mailbox.readied, if_neg h]
  refine ⟨rfl, rfl, ?_, fun hk => by simp [hk]⟩
  cases m.due with
  | none => exact .inr rfl
  | some p => exact .inl (by simp)

/-- The reset of a function, as the function sees it. -/
theorem resetLeft_vfReset (hs : s.shaped) (hv : v < 32) : ResetLeft v s (vfReset v s) := by
  obtain ⟨hfns, htenants⟩ : s.fns.length = 33 ∧ s.tenants.length = 32 := by
    obtain ⟨-, -, -, -, -, -, -, -, -, htenants, hfns, -⟩ := hs
    exact ⟨hfns, htenants⟩
  obtain ⟨hfns', htenants'⟩ : (cutStreams v s).fns.length = 33 ∧ (cutStreams v s).tenants.length = 32 := by
    obtain ⟨-, -, -, -, -, -, -, -, -, htenants, hfns, -⟩ := shaped_cutStreams v s hs
    exact ⟨hfns, htenants⟩
  have hready : (modMbx (v + 1) (Mailbox.readied (s.taken.contains (v + 1))) s).fn (v + 1) =
      { s.fn (v + 1) with mbx := (s.fn (v + 1)).mbx.readied (s.taken.contains (v + 1)) } := fn_modFn_same (by omega) _
  have hcut : CutStep v (modMbx (v + 1) (Mailbox.readied (s.taken.contains (v + 1))) s) (cutStreams v s) :=
    .foldl (fun s g => cutStep_streamCut v s g) _ _
  have hoff {g : Nat} (hg : g / 8 = v + 1) : ((cutStreams v s).stream g).off := off_cutStreams hs hv hg
  rw [vfReset_eq]
  generalize cutStreams v s = u at hcut hoff hfns' htenants' ⊢
  have hfn : (modTenant v Tenant.resetVf (clearFn (v + 1) u)).fn (v + 1) = _ := fn_modFn_same (by omega) _
  have htenant : (modTenant v Tenant.resetVf (clearFn (v + 1) u)).tenant v = (u.tenant v).resetVf :=
    tenant_modTenant_same (s := clearFn (v + 1) u) (by exact htenants'.symm ▸ hv) _
  have hseen := hcut.tenant
  simp only [State.tenantView, Prod.mk.injEq] at hseen
  obtain ⟨hstate, -, -, hquota⟩ := hseen
  have hstep := hcut.fn
  rw [hready] at hstep
  refine ⟨fun hb => ?_, ?_, fun g hg => ⟨hoff hg, (hcut.stream g hg).config⟩, ?_, ?_, ?_⟩
  · obtain ⟨hrstate, hrdue, hrheld, hrtaken⟩ := readied_held (s.taken.contains (v + 1)) hb
    obtain ⟨hheld, hkept⟩ := hstep.held hrheld
    rw [hfn]
    refine ⟨hkept.trans hrstate, hheld, fun hk hd => ?_⟩
    have hsame : (u.fn (v + 1)).mbx = (s.fn (v + 1)).mbx.readied (s.taken.contains (v + 1)) := hstep.noDue (hrdue.trans hd)
    simp only [hsame]
    exact ⟨hrdue.trans hd, hrtaken hk⟩
  · rw [hfn]
    exact ⟨rfl, rfl, rfl, rfl, rfl, by simp [msixCount], rfl, rfl, rfl, rfl⟩
  · rw [htenant, ← show (u.tenant v).quota = (s.tenant v).quota from hquota]
    unfold Tenant.resetVf
    split <;> rfl
  · rw [htenant, ← show (u.tenant v).state = (s.tenant v).state from hstate]
    rintro (h | h) <;> simp [Tenant.resetVf, h]
  · rw [htenant, ← show (u.tenant v).state = (s.tenant v).state from hstate]
    intro ha hr
    unfold Tenant.resetVf
    split
    next h => exact absurd h ha
    next h => exact absurd h hr
    next => exact ⟨rfl, rfl, rfl⟩

/-! ## The reset of all -/

/-- Resets in turn, as a function that is not among them sees them. -/
theorem cutStep_vfResets {ws : List Nat} (h : v ∉ ws) : CutStep v s (ws.foldl (fun s w => vfReset w s) s) := by
  induction ws generalizing s with
  | nil => exact .refl v s
  | cons w ws ih =>
    rw [List.foldl_cons]
    exact (cutStep_vfReset w s (List.ne_of_not_mem_cons h)).trans (ih (List.not_mem_of_not_mem_cons h))

theorem shaped_vfResets (hs : s.shaped) (ws : List Nat) : (ws.foldl (fun s w => vfReset w s) s).shaped :=
  foldl_keeps State.shaped (fun s w => vfReset w s) (fun _ w h => shaped_vfReset h w) ws s hs

/-- Resets in turn, each function once, leave what each one's own reset leaves. -/
theorem resetLeft_vfResets (hs : s.shaped) (hv : v < 32) (hboot : (s.fn (v + 1)).mbx.state ≠ .booting) (before after : List Nat)
    (hb : v ∉ before) (ha : v ∉ after) : ResetLeft v s ((before ++ v :: after).foldl (fun s w => vfReset w s) s) := by
  rw [List.foldl_append, List.foldl_cons]
  exact (cutStep_vfResets hb).between (resetLeft_vfReset (shaped_vfResets hs before) hv) (cutStep_vfResets ha) hboot

end

end Sys2Proof.Machine
end

section
/-! PROOFS. Function Level Resets disable their tenant (O53). -/

namespace Sys2Proof.Machine

/-- Settles O53: a reset leaves its own function cleared, and the cuts of other functions' streams change nothing of what
it leaves. -/
theorem functionResetsDisableTheirTenant : Obligations.FunctionResetsDisableTheirTenant := by
  intro s hs
  refine ⟨fun vf => ?_, fun hboot => ⟨_, rfl, fun v hv => ?_, ?_⟩⟩
  · have hrest : CutStep (vf + 1) s (vfReset vf s) := cutStep_vfReset vf s (by omega)
    exact ⟨_, rfl, (resetLeft_vfReset hs vf.isLt).functionReset, fun u hu => (cutStep_vfReset vf s hu).tenant,
      hrest.models, hrest.ports⟩
  · have hsplit : List.range 32 = List.range v ++ v :: (List.range (31 - v)).map (v + 1 + ·) := by
      rw [show 32 = v + (1 + (31 - v)) by omega, List.range_add, List.range_add]
      simp [Function.comp_def, Nat.add_assoc]
    rw [hsplit]
    exact (resetLeft_vfResets hs hv (hboot v hv) _ _ (by simp) (by simp; omega)).functionReset
  · have hrest : CutStep 32 s ((List.range 32).foldl (fun s w => vfReset w s) s) := cutStep_vfResets (by simp)
    exact ⟨hrest.models, hrest.ports⟩

end Sys2Proof.Machine
end

section
/-! PROOFS. Refused commands answer and do nothing (O54). -/

namespace Sys2Proof.Machine

/-- The row's command runs with the opcode, the operation and the rules that the row names. -/
def MailRow.runs (fn : Fn) (p : MailRow) : Prop :=
  ∀ s, ∃ act, exec p.1 s = runCommand fn p.2.1 p.2.2.1 p.2.2.2 act s

theorem mailRows_run (fn : Fn) (ecc : List EccFind) : ∀ p ∈ mailRows fn ecc, p.runs fn := by
  simp only [mailRows, List.forall_mem_append, List.forall_mem_cons, List.not_mem_nil, false_implies, implies_true, and_true]
  and_intros
  all_goals
    intro s
    refine ⟨?_, ?_⟩
    case refine_2 =>
      simp only [exec,
        execCommit, execCommonsWindowCreate, execCommonsWindowRemove, execContextDump, execDataAllocAllocate,
        execDataAllocFree, execDetourEndAll, execDetourHold, execDetourQuery, execDetourUnhold, execDeviceStatus,
        execDiscard, execEndpointAdd, execEndpointRemove, execEventLog, execEventQueue, execFabricConfig, execIdentify,
        execMemRead, execMemWrite, execMemoryConfig, execModelCalibrate, execModelLoad, execModelQuery, execModelStats,
        execModelUnload, execPortAddress, execPortMode, execPortQuery, execPortStateDraining, execPortStateOpen,
        execPower, execPropose, execRefitPause, execRefitQuery, execRefitResume, execResetStats, execRidgeCanary,
        execSensors, execSignpostBankAssign, execSignpostBankConfigure, execSignpostBankRelease, execSignpostEntries,
        execSignpostSearch, execStateAudit, execStreamConfig, execStreamStart, execStreamStop, execTenantDisable,
        execTenantEnable, execTenantPreempt, execTenantQuery, execTenantRelease, execTenantResume, execTenantSet,
        execWaymarkInitArmBarrier, execWaymarkInitRemoteOff, execWaymarkInitRemoteOn, execWaymarkInitReset,
        execWaymarkQuery, stateCommand, wmkInit, refitCommand, detourCommand]
      rfl

section
variable {f op : Nat} {mine : List Byte → Bool} {check : State → List Byte → Nat → Option Refused}
  {act : List Byte → Nat → State → State} {s : State}

theorem runCommand_not_ready (h : commandReady s f op mine = false) : runCommand f op mine check act s = .next s :=
  if_pos (by simp [h])

theorem runCommand_commonCheck {r : Refused} (h : commandReady s f op mine = true)
    (hc : commonCheck s f (s.fn f).mbx = some r) : runCommand f op mine check act s = .next (refuse f r s) := by
  simp only [runCommand, h, hc, Bool.not_true, Bool.false_eq_true, if_false]

theorem runCommand_check {r : Refused} (h : commandReady s f op mine = true) (hc : commonCheck s f (s.fn f).mbx = none)
    (hk : check s (s.payload f) (s.headTenant f) = some r) : runCommand f op mine check act s = .next (refuse f r s) := by
  rw [State.payload, State.headTenant] at hk
  simp only [runCommand, h, hc, hk, Bool.not_true, Bool.false_eq_true, if_false]

end

/-- Settles O54: every row of the mailbox runs its command behind the common checks and its own rules. -/
theorem refusedCommandsAnswerAndDoNothing : Obligations.RefusedCommandsAnswerAndDoNothing := by
  intro s fn ecc p hp
  obtain ⟨act, hexec⟩ := mailRows_run fn ecc p hp s
  rw [hexec]
  refine ⟨runCommand_not_ready, fun hr hd => ⟨fun r hc => ⟨_, runCommand_commonCheck hr hc, ?_⟩,
    fun r hc hk => ⟨_, runCommand_check hr hc hk, ?_⟩⟩⟩
  · exact respond_answeredAs fn r.1 r.2 s hd
  · exact respond_answeredAs fn r.1 r.2 s hd

end Sys2Proof.Machine
end

section
/-! SUPPORT. What an update of a Waymark does to the waits of every function, and a window operation to the block (R276, R280,
R281, R283). -/

namespace Sys2Proof.Machine

/-! ## The evaluation of the slots -/

/-- A slot after an evaluation. -/
def WaitSlot.eval (n : Nat) (w : Waymark) (wasReset : Bool) (t : TimeSt) (x : WaitSlot) : WaitSlot :=
  match slotOutcome n w wasReset t x with
  | some st => { x with state := st }
  | none => x

section
variable (n : Nat) (w : Waymark) (wasReset : Bool) (t : TimeSt)

theorem evalSlots_fst (j : Nat) (xs : List WaitSlot) :
    (evalSlots n w wasReset t j xs).1 = xs.map (WaitSlot.eval n w wasReset t) := by
  induction xs generalizing j with
  | nil => rfl
  | cons x xs ih =>
    rw [evalSlots, List.map_cons, ← ih (j + 1), WaitSlot.eval]
    cases slotOutcome n w wasReset t x <;> rfl

theorem eval_idle : WaitSlot.eval n w wasReset t WaitSlot.idle = WaitSlot.idle := rfl

/-- A wait that an evaluation ends sets its slot's cause bit (R286, R432). -/
theorem testBit_evalSlots {xs : List WaitSlot} {i : Nat} (j : Nat)
    (h : (slotOutcome n w wasReset t (xs.getD i WaitSlot.idle)).isSome = true) :
    (evalSlots n w wasReset t j xs).2.1.testBit (16 + j + i) = true := by
  induction xs generalizing i j with
  | nil => cases h
  | cons x xs ih =>
    rw [evalSlots]
    cases i with
    | zero =>
      obtain ⟨st, hst⟩ := Option.isSome_iff_exists.1 h
      rw [List.getD_cons_zero] at hst
      simp [hst]
    | succ i =>
      have hrest : (evalSlots n w wasReset t (j + 1) xs).2.1.testBit (16 + j + (i + 1)) = true := by
        rw [show 16 + j + (i + 1) = 16 + (j + 1) + i by omega]
        exact ih (j + 1) h
      cases slotOutcome n w wasReset t x with
      | none => exact hrest
      | some st => rw [Nat.testBit_or, hrest, Bool.or_true]

theorem evalFn_reset (f : Nat) : evalFn n w wasReset t (FnSt.reset f) = FnSt.reset f := by
  have hslots : evalSlots n w wasReset t 0 (FnSt.reset f).waits = ((FnSt.reset f).waits, 0, []) :=
    evalSlots_idle n w wasReset t 0 16
  rw [evalFn, hslots]
  simp only [Nat.or_zero, List.append_nil]

end

/-! ## What an update keeps -/

/-- What no update of a Waymark touches. -/
def State.wmkKept (s : State) : MemSt × Kv RecCtx × List Model × List Tenant × TimeSt := (s.mem, s.ctxs, s.models, s.tenants, s.time)

section
variable (s : State)

@[simp] theorem wmkKept_count (k n : Nat) : (count k n s).wmkKept = s.wmkKept := by rw [count_frame]; rfl

@[simp] theorem wmkKept_raise (c t : Nat) (d : List Byte) : (raise c t d s).wmkKept = s.wmkKept := by rw [raise_frame]; rfl

@[simp] theorem wmkKept_wmkUpdate (t : TimeSt) (n : Nat) (f : Waymark → Waymark) (wasReset : Bool) :
    (wmkUpdate t n f wasReset s).wmkKept = s.wmkKept := by
  have hput (u : State) (w : Waymark) : (putWaymark n w u).wmkKept = u.wmkKept := rfl
  have heval (u : State) : (evalWaits n wasReset t u).wmkKept = u.wmkKept := by
    obtain ⟨c, hc⟩ := evalWaits_frame u n wasReset t
    rw [hc]
    rfl
  rw [wmkUpdate, heval, hput, wmkKept_count]

theorem wmkKept_wmkApply (t : TimeSt) (i : Nat) {op : WmkOp} (h : op.ignored = false) :
    (wmkApply t i op s).wmkKept = s.wmkKept := by
  rw [wmkApply_eq s h]
  dsimp only
  rw [apply_ite State.wmkKept, wmkKept_raise, ite_self, wmkKept_wmkUpdate, wmkKept_count]

/-- A function's waits are as they were, and every cause bit it had stands. -/
def WaitsKept (x y : FnSt) : Prop := y.waits = x.waits ∧ ∀ b, x.cause.testBit b = true → y.cause.testBit b = true

theorem waitsKept_raise (c t : Nat) (d : List Byte) (g : Nat) : WaitsKept (s.fn g) ((raise c t d s).fn g) := by
  have hmark (u : State) (f : Nat) (h : WaitsKept (s.fn g) (u.fn g)) : WaitsKept (s.fn g) ((markLost f u).fn g) := by
    have hstep : WaitsKept (u.fn g) ((markLost f u).fn g) := by
      rw [markLost, State.fn, State.fn, modFn_fns]
      by_cases hg : g = f
      · by_cases hl : g < u.fns.length
        · subst hg
          rw [getD_modify_eq _ _ _ _ hl]
          split
          · exact ⟨rfl, fun b hb => by rw [Nat.testBit_or, hb, Bool.true_or]⟩
          · exact ⟨rfl, fun _ hb => hb⟩
        · rw [← hg, List.modify_eq_self (not_lt.1 hl)]
          exact ⟨rfl, fun _ hb => hb⟩
      · rw [getD_modify_ne _ _ _ _ _ hg]
        exact ⟨rfl, fun _ hb => hb⟩
    exact ⟨hstep.1.trans h.1, fun b hb => hstep.2 b (h.2 b hb)⟩
  unfold raise
  split
  · exact ⟨rfl, fun _ hb => hb⟩
  · refine foldl_keeps (fun u => WaitsKept (s.fn g) (u.fn g)) _ hmark _ _ ?_
    rw [count_frame]
    exact ⟨rfl, fun _ hb => hb⟩

theorem fn_wmkUpdate (t : TimeSt) (n : Nat) (f : Waymark → Waymark) (wasReset : Bool) (g : Nat) :
    (wmkUpdate t n f wasReset s).fn g = evalFn n (f (s.waymark n)) wasReset t (s.fn g) := by
  have hput : (putWaymark n (f (s.waymark n)) (count (cWmk 0) 1 s)).waymark n = f (s.waymark n) :=
    (waymark_putWaymark n n _ _).trans (if_pos rfl)
  have hfns : (putWaymark n (f (s.waymark n)) (count (cWmk 0) 1 s)).fns = s.fns := by
    rw [count_frame]
    rfl
  obtain ⟨c, hc⟩ := evalWaits_frame (putWaymark n (f (s.waymark n)) (count (cWmk 0) 1 s)) n wasReset t
  rw [wmkUpdate, hc, hput, hfns, State.fn, State.fn]
  dsimp only
  conv_lhs => rw [← evalFn_reset n (f (s.waymark n)) wasReset t g]
  exact List.getD_map ..

/-- An update evaluates each wait of each function; an overflow may mark their queues besides. -/
theorem waitsKept_wmkApply (t : TimeSt) (i : Nat) {op : WmkOp} (h : op.ignored = false) (g : Nat) :
    WaitsKept (evalFn i (op.on (s.waymark i)) op.resets t (s.fn g)) ((wmkApply t i op s).fn g) := by
  have hcount : (count (cWmk 1) (op.trips (s.waymark i)) s).fn g = s.fn g := by rw [count_frame]; rfl
  have hfn := fn_wmkUpdate (count (cWmk 1) (op.trips (s.waymark i)) s) t i op.on op.resets g
  rw [waymark_count, hcount] at hfn
  rw [wmkApply_eq s h, ← hfn]
  dsimp only
  split
  · exact waitsKept_raise _ _ _ _ g
  · exact ⟨rfl, fun _ hb => hb⟩

/-! ## Window operations (R276, R283) -/

/-- The operation that a window register's row stands for, inside the range and not ignored. -/
theorem exec_window {p : Instr × WmkOp × (Waymark → Waymark) × Bool} {fn : Fn} {i k n a : Nat} {e : Bool}
    (hopen : s.windowOpen fn = true) (hk : wmkIndex s fn i = some k) (hn : n ≠ 0 ∨ e = true) (ha : 1 ≤ a)
    (hp : p ∈ [(Instr.wmkSignalWrite fn i n e, .signal n e, (fun w => w.signal n e), false),
      (.wmkReset fn i, .reset, (fun w => { w with barrier := false, count := 0, err := false, ovf := false }), true),
      (.wmkArmBarrier fn i a, .arm a, (fun w => { w with barrier := true, count := 0, a := a, err := false, ovf := false }), true),
      (.wmkClearErr fn i, .clearErr, (fun w => { w with err := false }), false),
      (.wmkRemoteOn fn i, .remote true, (fun w => { w with remoteOk := true }), false),
      (.wmkRemoteOff fn i, .remote false, (fun w => { w with remoteOk := false }), false)]) :
    exec p.1 s = .next (wmkPost 0 k p.2.1 s) ∧ p.2.1.ignored = false ∧ p.2.1.on = p.2.2.1 ∧ p.2.1.resets = p.2.2.2 := by
  have hwindow (op : Nat → State → State) : wmkWindow fn i op s = op k s := by
    rw [wmkWindow, if_neg (by simp [hopen]), hk]
  have hexec (op : WmkOp) : wmkWindow fn i (fun i s => wmkPost 0 i op s) s = wmkPost 0 k op s := hwindow _
  simp only [List.mem_cons, List.not_mem_nil, or_false] at hp
  rcases hp with rfl | rfl | rfl | rfl | rfl | rfl
  · have hsignal : (WmkOp.signal n e).ignored = false := by
      rcases hn with h | h <;> simp [WmkOp.ignored, h]
    exact ⟨congrArg Host.Outcome.next (hexec _), hsignal, rfl, rfl⟩
  · exact ⟨congrArg Host.Outcome.next (hexec _), rfl, rfl, rfl⟩
  · have harm : (WmkOp.arm a).ignored = false := by
      simp [WmkOp.ignored]; omega
    exact ⟨congrArg Host.Outcome.next (hexec _), harm, rfl, rfl⟩
  all_goals exact ⟨congrArg Host.Outcome.next (hexec _), rfl, rfl, rfl⟩

variable {s}

theorem wmkPost_takes {k : Nat} {op : WmkOp} (h : op.ignored = false) (ht : wmkTakes s k 0 = true) :
    wmkPost 0 k op s = wmkNote k 0 (wmkApply s.time k op s) := by
  rw [wmkPost, if_neg (by simp [h]), if_pos ht]

theorem wmkPost_queues {k : Nat} {op : WmkOp} (h : op.ignored = false) (ht : wmkTakes s k 0 = false) :
    wmkPost 0 k op s = { s with wmkUnit := { s.wmkUnit with
      queue := insertBy WmkUpd.le ⟨k, 0, op, s.time⟩ s.wmkUnit.queue } } := by
  rw [wmkPost, if_neg (by simp [h]), if_neg (by simp [ht])]

end

end Sys2Proof.Machine
end

section
/-! PROOFS. Waymark operations act and evaluate waits (O45). -/

namespace Sys2Proof.Machine

/-- How a slot's wait on the updated Waymark stands after the evaluation. -/
theorem state_eval {n : Nat} {w : Waymark} {wasReset : Bool} {t : TimeSt} {x : WaitSlot} (hx : x.state = .waiting)
    (hn : x.wmk = n) (ht : timeoutPast x.timeout x.armTick x.armTime t = false) :
    (x.eval n w wasReset t).state = (waitOutcome w wasReset x.target).getD .waiting := by
  have hout : slotOutcome n w wasReset t x = waitOutcome w wasReset x.target := by
    rw [slotOutcome, if_pos ⟨hx, hn⟩, ht]
    rfl
  rw [WaitSlot.eval, hout]
  cases waitOutcome w wasReset x.target with
  | none => exact hx
  | some st => rfl

theorem eval_past {n : Nat} {w : Waymark} {wasReset : Bool} {t : TimeSt} {x : WaitSlot} (hx : x.state = .waiting)
    (hn : x.wmk = n) (ht : timeoutPast x.timeout x.armTick x.armTime t = true) : (x.eval n w wasReset t).state = .timeout := by
  rw [WaitSlot.eval, slotOutcome, if_pos ⟨hx, hn⟩, if_pos ht]

theorem eval_other {n : Nat} {w : Waymark} {wasReset : Bool} {t : TimeSt} {x : WaitSlot}
    (h : ¬ (x.state = .waiting ∧ x.wmk = n)) : x.eval n w wasReset t = x := by
  rw [WaitSlot.eval, slotOutcome, if_neg h]

/-- A wait that ends has an outcome. -/
theorem isSome_slotOutcome {n : Nat} {w : Waymark} {wasReset : Bool} {t : TimeSt} {x : WaitSlot} (hx : x.state = .waiting)
    (h : (x.eval n w wasReset t).state ≠ .waiting) : (slotOutcome n w wasReset t x).isSome = true := by
  cases hout : slotOutcome n w wasReset t x with
  | some st => rfl
  | none =>
    rw [WaitSlot.eval, hout] at h
    exact absurd hx h

/-- Settles O45: a window operation reaches the unit, which applies it and evaluates every wait, or queues it in its place. -/
theorem waymarkOperationsActAndEvaluateWaits : Obligations.WaymarkOperationsActAndEvaluateWaits := by
  intro s fn i k n a e p hopen hk hn ha hp
  obtain ⟨hexec, hop, hon, hresets⟩ := exec_window s hopen hk hn ha hp
  refine ⟨fun htakes => ?_, fun hqueues => by rw [hexec, wmkPost_queues hop hqueues]⟩
  rw [wmkPost_takes hop htakes] at hexec
  have hmark (j : Nat) := waymark_wmkApply s hop s.time k j
  have hkept := wmkKept_wmkApply s s.time k hop
  simp only [State.wmkKept, Prod.mk.injEq] at hkept
  obtain ⟨hmem, hctxs, hmodels, htenants, htime⟩ := hkept
  have hk' : (wmkApply s.time k p.2.1 s).waymark k = p.2.2.1 (s.waymark k) := by rw [hmark, if_pos rfl, hon]
  refine ⟨_, hexec, hk', fun j hj => (hmark j).trans (if_neg hj), hmem, hctxs, hmodels, htenants, htime, fun g j => ?_⟩
  obtain ⟨hwaits, hcause⟩ := waitsKept_wmkApply s s.time k hop g
  rw [hon, hresets] at hwaits hcause
  have hslot : ((wmkApply s.time k p.2.1 s).fn g).waits.getD j WaitSlot.idle =
      ((s.fn g).waits.getD j WaitSlot.idle).eval k (p.2.2.1 (s.waymark k)) p.2.2.2 s.time := by
    rw [hwaits, evalFn, evalSlots_fst]
    exact List.getD_map (f := WaitSlot.eval k (p.2.2.1 (s.waymark k)) p.2.2.2 s.time) (d := WaitSlot.idle) ..
  have hy : ((wmkNote k 0 (wmkApply s.time k p.2.1 s)).fn g).waits.getD j WaitSlot.idle = _ := hslot
  have hw : (wmkNote k 0 (wmkApply s.time k p.2.1 s)).waymark k = _ := hk'
  dsimp only
  rw [hy, hw]
  refine ⟨fun hx hn ht => ⟨state_eval hx hn ht, fun hne => ?_⟩, eval_past, eval_other⟩
  refine hcause _ ?_
  have hbit := testBit_evalSlots k (p.2.2.1 (s.waymark k)) p.2.2.2 s.time 0 (isSome_slotOutcome hx hne)
  rw [evalFn, Nat.testBit_or, hbit, Bool.or_true]

end Sys2Proof.Machine
end

section
/-! PROOFS. Signals count and barriers open (O46). -/

namespace Sys2Proof.Machine

section
variable {s : State}

/-- The rows of the window's operations, as functions of the index's Waymark. -/
theorem exec_window_out {fn : Fn} {i n : Nat} {e : Bool} {u : State}
    (h : ∀ op, wmkWindow fn i op s = u) :
    ∀ c ∈ [Instr.wmkSignalWrite fn i n e, .wmkReset fn i, .wmkArmBarrier fn i n, .wmkClearErr fn i, .wmkRemoteOn fn i,
      .wmkRemoteOff fn i], exec c s = .next u := by
  simp only [List.forall_mem_cons, List.not_mem_nil, false_implies, implies_true, and_true]
  and_intros
  all_goals exact congrArg Host.Outcome.next (h _)

theorem wmkWindow_closed {f i : Nat} (h : s.windowOpen f = false) (op : Nat → State → State) : wmkWindow f i op s = s := by
  rw [wmkWindow, if_pos (by simp [h])]

theorem wmkWindow_outside {f i : Nat} (h : s.windowOpen f = true) (hi : wmkIndex s f i = none) (op : Nat → State → State) :
    wmkWindow f i op s = if f = 0 then s else count (cTen (f - 1) 0x30) 1 s := by
  rw [wmkWindow, if_neg (by simp [h]), hi]
  rfl

theorem wmkPost_ignored {op : WmkOp} (h : op.ignored = true) (src k : Nat) : wmkPost src k op s = s := if_pos h

/-- An operation that is ignored does nothing inside the range. -/
theorem wmkWindow_ignored {f i : Nat} {op : WmkOp} (h : op.ignored = true) (hi : (wmkIndex s f i).isSome = true) :
    wmkWindow f i (fun i s => wmkPost 0 i op s) s = s := by
  obtain ⟨k, hk⟩ := Option.isSome_iff_exists.1 hi
  rw [wmkWindow]
  split
  · rfl
  · rw [hk]
    exact wmkPost_ignored h 0 k

theorem evBuf_wmkUpdate (t : TimeSt) (n : Nat) (f : Waymark → Waymark) (wasReset : Bool) :
    (wmkUpdate t n f wasReset s).evBuf = s.evBuf := by
  obtain ⟨c, hc⟩ := evalWaits_frame (putWaymark n (f (s.waymark n)) (count (cWmk 0) 1 s)) n wasReset t
  rw [wmkUpdate, hc, count_frame]
  rfl

/-- The first overflow since RESET or ARM is reported (R279). -/
theorem evBuf_wmkApply_overflow {t : TimeSt} {k : Nat} {op : WmkOp} (h : op.ignored = false) (hov : (s.waymark k).ovf = false)
    (hnew : (op.on (s.waymark k)).ovf = true) (hroom : s.evBuf.length < 512) :
    ((wmkApply t k op s).evBuf.getLast?).map (fun x => (x.code, x.data)) = some (0x0701, fitBytes (leBytes 2 k) 16) := by
  rw [wmkApply_eq s h]
  dsimp only
  rw [if_pos (by simp [hov, hnew]), raise_room]
  · simp
  · rw [evBuf_wmkUpdate, count_frame]
    exact hroom

end

/-- SIGNAL in counter mode counts up to its limit, and past it marks the overflow. -/
theorem signal_counter {w : Waymark} (h : w.barrier = false) (n : Nat) (e : Bool) :
    w.signal n e = { w with err := w.err || e, count := min (w.count + n) 0xFFFFFFFF, ovf := w.ovf || decide (0xFFFFFFFF < w.count + n) } := by
  simp [Waymark.signal, h]

/-- SIGNAL in barrier mode opens the barrier as often as A goes into the count. -/
theorem signal_barrier {w : Waymark} (h : w.barrier = true) (ha : 1 ≤ w.a) (n : Nat) (e : Bool) :
    w.signal n e = { w with err := w.err || e, count := (w.count + n) % w.a, gen := (w.gen + (w.count + n) / w.a) % 2 ^ 16 } := by
  have hne : w.a ≠ 0 := by omega
  simp [Waymark.signal, h, hne]

/-- A SIGNAL keeps the mode, A and the remote permission, and gathers e. -/
theorem signal_keeps (w : Waymark) (n : Nat) (e : Bool) : (w.signal n e).err = (w.err || e) ∧
    (w.signal n e).remoteOk = w.remoteOk ∧ (w.signal n e).barrier = w.barrier ∧ (w.signal n e).a = w.a := by
  unfold Waymark.signal
  dsimp only
  split
  · split <;> exact ⟨rfl, rfl, rfl, rfl⟩
  · exact ⟨rfl, rfl, rfl, rfl⟩

theorem waitOutcome_err {w : Waymark} (h : w.err = true) (r : Bool) (target : Nat) : waitOutcome w r target = some .error :=
  if_pos h

theorem waitOutcome_reset {w : Waymark} (h : w.err = false) (target : Nat) : waitOutcome w true target = some .reset := by
  rw [waitOutcome, if_neg (by simp [h]), if_pos rfl]

theorem waitOutcome_counter {w : Waymark} (h : w.err = false) (hb : w.barrier = false) (target : Nat) :
    waitOutcome w false target = some .satisfied ↔ target ≤ w.count := by
  simp [waitOutcome, waitHolds, h, hb]

/-- Settles O46: the signal's row is the unit's update with Table 13.1's effect; what is ignored or outside never reaches
the unit. -/
theorem signalsCountAndBarriersOpen : Obligations.SignalsCountAndBarriersOpen := by
  intro s fn i n e
  refine ⟨fun k w hopen hk hw hn htakes => ?_, fun w r target h => waitOutcome_err h r target,
    fun w target h => ⟨waitOutcome_reset h target, fun hb => waitOutcome_counter h hb target⟩, fun hi => ⟨?_, ?_⟩,
    fun hopen hi => exec_window_out (wmkWindow_outside hopen hi), fun hclosed => exec_window_out (wmkWindow_closed hclosed)⟩
  · obtain ⟨hexec, hop, -, -⟩ := exec_window s (p := (.wmkSignalWrite fn i n e, .signal n e, (fun w => w.signal n e), false))
      (a := 1) hopen hk hn le_rfl (by simp)
    rw [wmkPost_takes hop htakes] at hexec
    have hv : (wmkNote k 0 (wmkApply s.time k (.signal n e) s)).waymark k = w.signal n e := by
      rw [← hw]
      exact (waymark_wmkApply s hop s.time k k).trans (if_pos rfl)
    obtain ⟨herr, hremote, hbarrier, ha⟩ := signal_keeps w n e
    refine ⟨_, w.signal n e, hexec, hv, herr, hremote, hbarrier, ha, fun hb => ?_, fun hb ha => ?_⟩
    · have hsignal := signal_counter hb n e
      refine ⟨by rw [hsignal], by rw [hsignal], by rw [hsignal], fun hov hover hroom => ?_⟩
      refine evBuf_wmkApply_overflow hop (by rw [hw]; exact hov) ?_ hroom
      rw [hw]
      exact (congrArg Waymark.ovf hsignal).trans (by simp [hover])
    · have hsignal := signal_barrier hb ha n e
      exact ⟨by rw [hsignal], by rw [hsignal], by rw [hsignal]⟩
  · exact congrArg Host.Outcome.next (wmkWindow_ignored (op := .signal 0 false) rfl hi)
  · exact congrArg Host.Outcome.next (wmkWindow_ignored (op := .arm 0) rfl hi)

end Sys2Proof.Machine
end

section
/-! PROOFS. Wait slots arm, cancel and expire (O47). -/

namespace Sys2Proof.Machine

section
variable {s : State} {f : Nat}

theorem modFn_modFn (F G : FnSt → FnSt) : modFn f G (modFn f F s) = modFn f (G ∘ F) s := by
  simp only [modFn, modify_modify]

/-- Two changes of a function that agree on its state are one. -/
theorem modFn_congr {F G : FnSt → FnSt} (h : F (s.fn f) = G (s.fn f)) : modFn f F s = modFn f G s := by
  have hfns : s.fns.modify f F = s.fns.modify f G := by
    refine List.ext_getElem? fun i => ?_
    rw [List.getElem?_modify, List.getElem?_modify]
    by_cases hi : f = i
    · subst hi
      cases hx : s.fns[f]? with
      | none => rfl
      | some x =>
        have hfn : s.fn f = x := by rw [State.fn, List.getD_eq_getElem?_getD, hx]; rfl
        rw [hfn] at h
        simp [h]
    · simp [hi]
  rw [modFn, hfns, modFn]

theorem fn_modFn (hf : f < s.fns.length) (F : FnSt → FnSt) : (modFn f F s).fn f = F (s.fn f) := getD_modify_eq _ _ _ _ hf

theorem modify_eq_set {α : Type} {l : List α} {j : Nat} (hj : j < l.length) (g : α → α) (d : α) :
    l.modify j g = l.set j (g (l.getD j d)) := by
  refine List.ext_getElem? fun i => ?_
  rw [List.getElem?_modify, List.getElem?_set]
  by_cases hi : j = i
  · subst hi
    simp [hj]
  · simp [hi]

theorem getD_set_same {α : Type} {l : List α} {j : Nat} (hj : j < l.length) (a d : α) : (l.set j a).getD j d = a := by
  simp [List.getD_eq_getElem?_getD, hj]

theorem wmkIndex_of_tenants {u : State} (h : u.tenants = s.tenants) {i : Nat} : wmkIndex u f i = wmkIndex s f i := by
  unfold wmkIndex State.tenant
  rw [h]

theorem wmkIndex_modFn (F : FnSt → FnSt) (g i : Nat) : wmkIndex (modFn f F s) g i = wmkIndex s g i := rfl

variable {j : Nat} {w : WaitSlot}

/-- The slot is given its fields, as its function's state shows them. -/
theorem modFn_slotFields {ctrl : Nat} (hj : j < (s.fn f).waits.length)
    (hw : w = slotFields ctrl ((s.fn f).waits.getD j WaitSlot.idle)) :
    modFn f (fun x => { x with waits := x.waits.modify j (slotFields ctrl) }) s =
      modFn f (fun x => { x with waits := x.waits.set j w }) s := by
  refine modFn_congr ?_
  rw [modify_eq_set hj _ WaitSlot.idle, hw]

section
variable (hf : f < s.fns.length) (hj : j < (s.fn f).waits.length)

section
include hj

/-- The wait of a slot whose fields have just been written ends. -/
theorem completeSlot_set (st : WaitState) :
    completeSlot f j st (modFn f (fun x => { x with waits := x.waits.set j w }) s) = modFn f (fun z => { z with
      waits := z.waits.set j { w with state := st }, cause := z.cause ||| 2 ^ (16 + j)
      msixDue := z.msixDue ++ (if w.ie then [w.vec] else []) }) s := by
  rw [completeSlot, modFn_modFn]
  refine modFn_congr ?_
  simp only [Function.comp_apply, getD_set_same hj, List.set_set]

/-- CANCEL of a slot whose fields have just been written. -/
theorem slotCancel_set : slotCancel f j (modFn f (fun x => { x with waits := x.waits.set j w }) s) =
    modFn f (fun z => { z with waits := z.waits.set j (if w.state = .waiting then { w with state := .idle } else w) }) s := by
  rw [slotCancel, modFn_modFn]
  refine modFn_congr ?_
  simp only [Function.comp_apply, getD_set_same hj]
  split <;> simp only [List.set_set]

end

include hf hj

theorem slot_set : ((modFn f (fun x => { x with waits := x.waits.set j w }) s).fn f).waits.getD j WaitSlot.idle = w := by
  rw [fn_modFn hf]
  exact getD_set_same hj _ _

/-- ARM ends the wait at once when it is refused or has an outcome (R280, R281). -/
theorem slotArm_ends {st : WaitState} (hw : w.state ≠ .waiting)
    (h : wmkIndex s f w.index = none ∧ st = .refused ∨
      ∃ k, wmkIndex s f w.index = some k ∧ armOutcome (s.waymark k) w.target = some st) :
    slotArm f j (modFn f (fun x => { x with waits := x.waits.set j w }) s) =
      completeSlot f j st (modFn f (fun x => { x with waits := x.waits.set j w }) s) := by
  rw [slotArm, slot_set hf hj, if_neg hw, wmkIndex_modFn]
  rcases h with ⟨hk, rfl⟩ | ⟨k, hk, hout⟩
  · rw [hk]
  · rw [hk]
    dsimp only
    rw [show (modFn f _ s).waymark k = s.waymark k from rfl, hout]

/-- ARM leaves the wait pending from the present tick and time. -/
theorem slotArm_waits {k : Nat} (hw : w.state ≠ .waiting) (hk : wmkIndex s f w.index = some k)
    (hout : armOutcome (s.waymark k) w.target = none) :
    slotArm f j (modFn f (fun x => { x with waits := x.waits.set j w }) s) = modFn f (fun z => { z with
      waits := z.waits.set j { w with state := .waiting, wmk := k, armTick := s.time.tick, armTime := s.time.time } }) s := by
  rw [slotArm, slot_set hf hj, if_neg hw, wmkIndex_modFn, hk]
  dsimp only
  rw [show (modFn f _ s).waymark k = s.waymark k from rfl, hout]
  dsimp only
  rw [modFn_modFn]
  refine modFn_congr ?_
  simp only [Function.comp_apply, List.set_set]
  rfl

end

/-- A write of WMK_WAIT_CTRL that is taken: the fields, then CANCEL, then ARM, on what the queued updates leave. -/
theorem writeWaitCtrl_taken {ctrl : Nat} (hopen : s.windowOpen f = true)
    (h : bit ctrl 15 = true ∨ (wmkIndex s f (bits ctrl 11 0)).isSome = true)
    (hj : j < ((wmkFlush s).fn f).waits.length) (hw : w = slotFields ctrl (((wmkFlush s).fn f).waits.getD j WaitSlot.idle)) :
    writeWaitCtrl f j ctrl s =
      let t := modFn f (fun x => { x with waits := x.waits.set j w }) (wmkFlush s)
      let t := if bit ctrl 13 then slotCancel f j t else t
      if bit ctrl 15 then slotArm f j t else t := by
  have hin : ¬ (!bit ctrl 15 && (wmkIndex s f (bits ctrl 11 0)).isNone) = true := by
    rcases h with h | h
    · simp [h]
    · simp [Option.isSome_iff_ne_none.1 h]
  rw [writeWaitCtrl, if_neg (by simp [hopen]), if_neg hin, modFn_slotFields hj hw]

end

/-- Settles O47: a control write gives the slot its fields on the state the queued updates leave, and then cancels or arms;
the expiry completes a wait that is past its timeout. -/
theorem waitSlotsArmCancelAndExpire : Obligations.WaitSlotsArmCancelAndExpire := by
  intro s u fn j ctrl x w hu hfns hlen hx hw hopen
  have hf : fn.val < u.fns.length := by omega
  have hj : j.val < (u.fn fn).waits.length := by omega
  have hwx : w = slotFields ctrl ((u.fn fn).waits.getD j WaitSlot.idle) := by rw [hw, hx]
  have hindex (i : Nat) : wmkIndex u fn i = wmkIndex s fn i := wmkIndex_of_tenants (by rw [hu, tenants_wmkFlush])
  have hstate : w.state = x.state := by rw [hw]; rfl
  have hwrite (h : bit ctrl 15 = true ∨ (wmkIndex s fn (bits ctrl 11 0)).isSome = true) := by
    have hjs : j.val < ((wmkFlush s).fn fn).waits.length := by rw [← hu]; exact hj
    have hws : w = slotFields ctrl (((wmkFlush s).fn fn).waits.getD j WaitSlot.idle) := by rw [← hu]; exact hwx
    have := writeWaitCtrl_taken hopen h hjs hws
    rw [← hu] at this
    exact this
  have harmRow : exec (.waitArm fn j ctrl) s = .next (writeWaitCtrl fn j ctrl s) := rfl
  have hcancelRow : exec (.waitCancel fn j ctrl) s = .next (writeWaitCtrl fn j ctrl s) := rfl
  have hexpiryRow : exec (.waitTimeoutExpiry fn j) s =
      if x.state = .waiting ∧ timeoutPast x.timeout x.armTick x.armTime u.time then
        .next (countTimeouts fn 1 (completeSlot fn j .timeout u)) else .next u := by
    rw [hx, hu]
    rfl
  refine ⟨fun st h15 h13 hnw hst => ?_, fun k h15 h13 hnw hk hout => ?_, fun h15 h13 hwait => ?_, fun h15 h13 hsome => ?_,
    fun h15 hnone => ?_, fun hwait hpast => ?_, fun h => ?_⟩
  · rw [harmRow, hwrite (.inl h15)]
    dsimp only
    rw [if_neg (by simp [h13] : ¬ bit ctrl 13 = true), if_pos h15, slotArm_ends hf hj (by rw [hstate]; exact hnw) (by rw [hindex]; exact hst),
      completeSlot_set hj]
  · rw [harmRow, hwrite (.inl h15)]
    dsimp only
    rw [if_neg (by simp [h13] : ¬ bit ctrl 13 = true), if_pos h15,
      slotArm_waits hf hj (by rw [hstate]; exact hnw) (by rw [hindex]; exact hk) hout]
  · rw [harmRow, hwrite (.inl h15)]
    dsimp only
    rw [if_neg (by simp [h13] : ¬ bit ctrl 13 = true), if_pos h15, slotArm, slot_set hf hj, if_pos (by rw [hstate]; exact hwait)]
  · have hidx : (wmkIndex s fn (bits ctrl 11 0)).isSome = true := by rw [hw] at hsome; exact hsome
    rw [hcancelRow, hwrite (.inr hidx)]
    dsimp only
    rw [if_pos h13, if_neg (by simp [h15] : ¬ bit ctrl 15 = true), slotCancel_set hj, hstate]
  · have hidx : wmkIndex s fn (bits ctrl 11 0) = none := by rw [hw] at hnone; exact hnone
    rw [hcancelRow, writeWaitCtrl, if_neg (by simp [hopen]), if_pos (by simp [h15, hidx])]
    rfl
  · rw [hexpiryRow, if_pos ⟨hwait, hpast⟩]
    have hdone : completeSlot fn j .timeout u = modFn fn (fun z => { z with
        waits := z.waits.set j { x with state := .timeout }, cause := z.cause ||| 2 ^ (16 + j.val)
        msixDue := z.msixDue ++ (if x.ie then [x.vec] else []) }) u := modFn_congr (by dsimp only; rw [hx])
    rw [hdone, countTimeouts]
    split
    next h0 => exact ⟨_, rfl, rfl, fun h => absurd h0 h⟩
    next h0 =>
      refine ⟨_, rfl, ?_, fun _ => ?_⟩
      · rw [count_frame]
        rfl
      · rw [counter_count, if_pos ⟨rfl, by decide⟩]
        rfl
  · rw [hexpiryRow, if_neg]
    rintro ⟨hwait, hpast⟩
    rcases h with h | h
    · exact h hwait
    · rw [h] at hpast
      cases hpast

end Sys2Proof.Machine
end

section
/-! SUPPORT. The fields of a message that the chip forms (Table 15.3). -/

namespace Sys2Proof.Machine

section
variable (s : State) (op dst tenant flags tag : Nat) (operand body : List Byte)

theorem length_beBytes (n v : Nat) : (beBytes n v).length = n := by rw [beBytes, List.length_reverse, length_leBytes]

theorem beNat_beBytes (n v : Nat) : beNat (beBytes n v) = v % 256 ^ n := by
  have hfold (l : List Byte) : l.reverse.foldl (fun a b => a * 256 + b.toNat) 0 = leNat l := by
    induction l with
    | nil => rfl
    | cons b l ih =>
      rw [List.reverse_cons, List.foldl_append, ih, List.foldl_cons, List.foldl_nil, leNat]
      omega
  rw [beNat, beBytes, hfold, leNat_leBytes]

theorem beNat_append (a b : List Byte) : beNat (a ++ b) = beNat a * 256 ^ b.length + beNat b := by
  have hfold (x : Nat) (l : List Byte) : l.foldl (fun a b => a * 256 + b.toNat) x = x * 256 ^ l.length + beNat l := by
    induction l generalizing x with
    | nil => simp [beNat]
    | cons c l ih =>
      rw [beNat, List.foldl_cons, List.foldl_cons, ih, ih (0 * 256 + c.toNat), List.length_cons, pow_succ]
      ring
  exact (List.foldl_append ..).trans (hfold _ b)

/-- A message is its ten header bytes, its operand, its body and the padding of its last slot. -/
theorem mkMsg_eq (h : operand.length = 6) : ∃ pad, mkMsg s op dst tenant flags tag operand body =
    (beBytes 1 op ++ beBytes 1 (ceilDiv (16 + body.length) 32) ++ beBytes 1 s.chipId ++ beBytes 1 dst ++ beBytes 1 tenant ++
      beBytes 1 flags ++ [0, 0] ++ beBytes 2 tag) ++ (operand ++ (body ++ zeros pad)) := by
  have hfit (bs : List Byte) (n : Nat) (hn : bs.length ≤ n) : fitBytes bs n = bs ++ zeros (n - bs.length) := by
    rw [fitBytes, List.take_of_length_le hn]
  rw [mkMsg, hfit]
  · refine ⟨?_, ?_⟩
    case refine_2 => simp only [List.append_assoc]; rfl
  · simp only [List.length_append, length_beBytes, h, List.length_cons, List.length_nil]
    unfold ceilDiv
    omega

theorem length_mkMsg : (mkMsg s op dst tenant flags tag operand body).length = 32 * ceilDiv (16 + body.length) 32 :=
  length_fitBytes _ _

variable {operand} (h : operand.length = 6)
include h

theorem msgOp_mkMsg : msgOp (mkMsg s op dst tenant flags tag operand body) = op % 256 := by
  obtain ⟨pad, hm⟩ := mkMsg_eq s op dst tenant flags tag operand body h
  simp [hm, msgOp, byteAt, beBytes, leBytes]

theorem msgSrc_mkMsg : msgSrc (mkMsg s op dst tenant flags tag operand body) = s.chipId % 256 := by
  obtain ⟨pad, hm⟩ := mkMsg_eq s op dst tenant flags tag operand body h
  simp [hm, msgSrc, byteAt, beBytes, leBytes]

theorem msgDst_mkMsg : msgDst (mkMsg s op dst tenant flags tag operand body) = dst % 256 := by
  obtain ⟨pad, hm⟩ := mkMsg_eq s op dst tenant flags tag operand body h
  simp [hm, msgDst, byteAt, beBytes, leBytes]

theorem msgTenant_mkMsg : msgTenant (mkMsg s op dst tenant flags tag operand body) = tenant % 32 := by
  obtain ⟨pad, hm⟩ := mkMsg_eq s op dst tenant flags tag operand body h
  simp [hm, msgTenant, byteAt, beBytes, leBytes]

theorem msgTag_mkMsg : msgTag (mkMsg s op dst tenant flags tag operand body) = tag % 2 ^ 16 := by
  obtain ⟨pad, hm⟩ := mkMsg_eq s op dst tenant flags tag operand body h
  have hslice : slice (mkMsg s op dst tenant flags tag operand body) 8 2 = beBytes 2 tag := by
    simp [hm, slice, beBytes, leBytes]
  rw [msgTag, beAt, hslice, beNat_beBytes]
  rfl

theorem msgOperand_mkMsg : msgOperand (mkMsg s op dst tenant flags tag operand body) = beNat operand := by
  obtain ⟨pad, hm⟩ := mkMsg_eq s op dst tenant flags tag operand body h
  have hdrop : (mkMsg s op dst tenant flags tag operand body).drop 10 = operand ++ (body ++ zeros pad) := by
    simp [hm, beBytes, leBytes]
  rw [msgOperand, beAt, slice, hdrop, List.take_left' h]

/-- The body follows the operand. -/
theorem beAt_mkMsg {n : Nat} (hn : n ≤ body.length) :
    beAt (mkMsg s op dst tenant flags tag operand body) 16 n = beNat (body.take n) := by
  obtain ⟨pad, hm⟩ := mkMsg_eq s op dst tenant flags tag operand body h
  have hdrop : (mkMsg s op dst tenant flags tag operand body).drop 16 = body ++ zeros pad := by
    rw [hm, List.drop_append, List.drop_append]
    simp [beBytes, leBytes, h]
  rw [beAt, slice, hdrop, List.take_append_of_le_length hn]

end

end Sys2Proof.Machine
end

section
/-! PROOFS. Remote signals stay in scope (O48). -/

namespace Sys2Proof.Machine

/-- The register keeps what is written, its reserved bits 0. -/
theorem remoteFields_eq {v : Nat} (h : v < 2 ^ 64) : remoteFields v = v / 2 ^ 31 * 2 ^ 31 + v % 2 ^ 25 := by
  rw [remoteFields, bits, bits, pow_zero, Nat.div_one, Nat.mod_eq_of_lt (a := v / 2 ^ 31) (by omega)]

/-- Settles O48: the register is written, and the signal is sent in scope or reported outside it. -/
theorem remoteSignalsStayInScope : Obligations.RemoteSignalsStayInScope := by
  intro s fn v hopen hv hfns
  have hchip : bits v 7 0 < 256 := Nat.mod_lt _ (by decide)
  have hmark : bits v 19 8 < 4096 := Nat.mod_lt _ (by decide)
  have htenant : bits v 24 20 < 32 := Nat.mod_lt _ (by decide)
  have hn : bits v 63 32 < 2 ^ 32 := Nat.mod_lt _ (by decide)
  have hrow : exec (.wmkRemoteWrite fn v) s = .next (remoteSignal fn v s) := rfl
  rw [hrow, remoteSignal, if_neg (by simp [hopen]), remoteFields_eq hv]
  refine ⟨fun hscope => ?_, fun hfn hout hroom => ?_⟩
  · have hnot : ¬ (fn.val ≠ 0 ∧ (!inScope s (fn.val - 1) (bits v 7 0)) = true) := by
      rintro ⟨h0, hin⟩
      rcases hscope with h | h
      · exact h0 h
      · simp [h] at hin
    have hop : (beBytes 2 (bits v 19 8) ++ beBytes 4 (if bit v 31 then 2 ^ 31 else 0)).length = 6 := by
      simp only [List.length_append, length_beBytes]
    have hbody : (beBytes 4 (bits v 63 32) ++ zeros 12).length = 16 := by
      simp only [List.length_append, length_beBytes, zeros, List.length_replicate]
    refine ⟨_, _, congrArg Host.Outcome.next (if_neg hnot), rfl, ?_, ?_, ?_, ?_, ?_, ?_, ?_⟩
    · rw [length_mkMsg, hbody]
      rfl
    · exact msgOp_mkMsg _ _ _ _ _ _ _ hop
    · exact (msgDst_mkMsg _ _ _ _ _ _ _ hop).trans (Nat.mod_eq_of_lt hchip)
    · exact msgSrc_mkMsg _ _ _ _ _ _ _ hop
    · exact (msgTenant_mkMsg _ _ _ _ _ _ _ hop).trans (Nat.mod_eq_of_lt htenant)
    · refine (msgOperand_mkMsg _ _ _ _ _ _ _ hop).trans ?_
      rw [beNat_append, beNat_beBytes, beNat_beBytes, length_beBytes, Nat.mod_eq_of_lt (a := bits v 19 8) (by omega)]
      split <;> rfl
    · rw [beAt_mkMsg _ _ _ _ _ _ _ hop (by omega), List.take_left' (length_beBytes _ _), beNat_beBytes,
        Nat.mod_eq_of_lt (by omega)]
  · have hrefused : fn.val ≠ 0 ∧ (!inScope s (fn.val - 1) (bits v 7 0)) = true := ⟨hfn, by simp [hout]⟩
    refine ⟨_, congrArg Host.Outcome.next (if_pos hrefused), ?_, ?_, ?_⟩
    · rw [raise_frame]
      rfl
    · rw [raise_room _ _ _ _ (by exact hroom)]
      exact congrArg FnSt.wmkRemote (fn_modFn (by omega) _)
    · rw [raise_room _ _ _ _ (by exact hroom)]
      rfl

end Sys2Proof.Machine
end

section
/-! PROOFS. Messages leave for their vectors (O49); command pages lock and doorbells ring (O52). -/

namespace Sys2Proof.Machine

section
variable {s : State} {f : Nat}

theorem fn_modFn_ne {g : Nat} (h : g ≠ f) (F : FnSt → FnSt) : (modFn f F s).fn g = s.fn g := getD_modify_ne _ _ _ _ _ h

/-- Once its pending bit is taken out a vector is not pending. -/
theorem testBit_clearPending (p v : Nat) : (if bit p v then p - 2 ^ v else p).testBit v = false := by
  rw [bit_eq_testBit]
  split
  next h =>
    have hge : 2 ^ v ≤ p := Nat.ge_two_pow_of_testBit h
    rw [Nat.testBit_eq_decide_div_mod_eq] at h ⊢
    have hdiv : (p - 2 ^ v) / 2 ^ v = p / 2 ^ v - 1 := by
      have := Nat.sub_mul_div p (2 ^ v) 1
      rwa [Nat.mul_one] at this
    have hpos : 1 ≤ p / 2 ^ v := (Nat.one_le_div_iff (Nat.two_pow_pos v)).2 hge
    rw [hdiv]
    simp only [decide_eq_true_eq] at h
    simp only [decide_eq_false_iff_not]
    omega
  next h => simpa using h

/-- The entry of the table that a dword write leaves. -/
def MsixEntry.written (dword value : Nat) (e : MsixEntry) : MsixEntry :=
  match dword with
  | 0 => { e with addr := e.addr / 2 ^ 32 * 2 ^ 32 + value / 4 * 4 }
  | 1 => { e with addr := value * 2 ^ 32 + e.addr % 2 ^ 32 }
  | 2 => { e with data := value }
  | _ => { e with masked := bit value 0 }

/-- A table write sets its entry; the dword that unmasks a pending vector sends its message besides. -/
theorem writeMsix_eq {i dword value : Nat} (hv : value < 2 ^ 32) (hd : dword < 4) :
    writeMsix f i dword value s =
      let t := modFn f (fun x => { x with msix := x.msix.modify i (MsixEntry.written dword value) }) s
      if dword = 3 ∧ bit value 0 = false ∧ bit (t.fn f).pba i = true then sendVector f i t else t := by
  have hv' : value % 2 ^ 32 = value := Nat.mod_eq_of_lt hv
  unfold writeMsix
  rw [hv']
  match dword, hd with
  | 0, _ => rfl
  | 1, _ => rfl
  | 2, _ => rfl
  | 3, _ =>
    have hcond (b c : Bool) : (!b && c) = true ↔ 3 = 3 ∧ b = false ∧ c = true := by cases b <;> simp
    exact if_congr (hcond _ _) rfl rfl

end

/-- Settles O49: the first due message goes out or is noted in its pending bit, and a table write changes its own entry. -/
theorem messagesLeaveForTheirVectors : Obligations.MessagesLeaveForTheirVectors := by
  intro s fn v e hfns hmsix hv he
  have hf : fn.val < s.fns.length := by omega
  refine ⟨fun rest hdue => ⟨fun hopen => ?_, fun hmasked => ?_⟩, fun hdue => ?_, fun value dword hvalue hdword => ?_⟩
  · have hfn := fn_modFn hf (fun x => { x with msixDue := rest })
    obtain ⟨u, hu⟩ : ∃ u, u = modFn fn (fun x => { x with msixDue := rest }) s := ⟨_, rfl⟩
    rw [← hu] at hfn
    have he' : (u.fn fn).msix.getD v MsixEntry.reset = e := by rw [hfn, he]
    have hexec : exec (.msixMessage fn) s = .next (sendVector fn v u) := by
      have hrow : exec (.msixMessage fn) s = execMsixMessage fn s := rfl
      rw [hrow, execMsixMessage, hdue]
      dsimp only
      rw [← hu, deliverVector, if_neg (by omega), if_neg (by rw [he', hopen]; decide)]
    have hlen : fn.val < u.fns.length := by rw [hu, modFn_fns, List.length_modify]; exact hf
    have hsent : (sendVector fn v u).fn fn = _ := fn_modFn hlen _
    refine ⟨_, hexec, ?_, ?_, ?_, fun g hg => ?_⟩
    · rw [sendVector, he', hu]
      rfl
    · rw [hsent]
      exact testBit_clearPending _ v
    · rw [hsent, hfn]
    · have hother : (sendVector fn v u).fn g = u.fn g := fn_modFn_ne hg _
      rw [hother, hu, fn_modFn_ne hg]
  · have hrow : exec (.msixMessage fn) s = execMsixMessage fn s := rfl
    have hfn := fn_modFn hf (fun x => { x with msixDue := rest })
    rw [hrow, execMsixMessage, hdue]
    dsimp only
    rw [deliverVector, if_neg (by omega), hfn, ← he, if_pos hmasked, modFn_modFn]
    rfl
  · have hrow : exec (.msixMessage fn) s = execMsixMessage fn s := rfl
    rw [hrow, execMsixMessage, hdue]
  · have hrow : exec (.msixTableWrite fn (0x5000 + 16 * v + 4 * dword) value) s = .next (writeMsix fn v dword value s) := by
      have hin : (inMsix fn (0x5000 + 16 * v + 4 * dword) && (0x5000 + 16 * v + 4 * dword) % 4 == 0) = true := by
        have hlo : msixBase ≤ 0x5000 + 16 * v + 4 * dword := by unfold msixBase; omega
        have hhi : 0x5000 + 16 * v + 4 * dword < msixBase + 16 * msixCount fn := by unfold msixBase; omega
        have haligned : (0x5000 + 16 * v + 4 * dword) % 4 = 0 := by omega
        simp only [inMsix, hlo, hhi, haligned, decide_true, Bool.and_self, beq_self_eq_true]
      have hentry : (0x5000 + 16 * v + 4 * dword - msixBase) / 16 = v := by unfold msixBase; omega
      have hword : (0x5000 + 16 * v + 4 * dword - msixBase) % 16 / 4 = dword := by unfold msixBase; omega
      refine (if_pos hin).trans ?_
      rw [hentry, hword]
    rw [hrow, writeMsix_eq hvalue hdword]
    have hfn := fn_modFn hf (fun x => { x with msix := x.msix.modify v (MsixEntry.written dword value) })
    obtain ⟨u, hu⟩ : ∃ u, u = modFn fn (fun x => { x with msix := x.msix.modify v (MsixEntry.written dword value) }) s := ⟨_, rfl⟩
    rw [← hu] at hfn ⊢
    have htable : (u.fn fn).msix = (s.fn fn).msix.set v (e.written dword value) := by
      rw [hfn]
      dsimp only
      rw [modify_eq_set (by omega) _ MsixEntry.reset, ← he]
    have hpba : bit (u.fn fn).pba v = (s.fn fn).pba.testBit v := by rw [hfn, bit_eq_testBit]
    have hout : u.out = s.out := by rw [hu]; rfl
    dsimp only
    rw [hpba]
    by_cases hsend : dword = 3 ∧ bit value 0 = false ∧ (s.fn fn).pba.testBit v = true
    · have hlen : fn.val < u.fns.length := by rw [hu, modFn_fns, List.length_modify]; exact hf
      have hsent : (sendVector fn v u).fn fn = _ := fn_modFn hlen _
      have hentry : (u.fn fn).msix.getD v MsixEntry.reset = e.written dword value := by
        rw [htable]
        exact getD_set_same (by omega) _ _
      rw [if_pos hsend, if_pos hsend]
      refine ⟨_, rfl, ?_, ?_⟩
      · rw [hsent]
        exact htable
      · rw [sendVector, hentry, ← hout, hsend.1]
        rfl
    · rw [if_neg hsend, if_neg hsend]
      exact ⟨_, rfl, htable, hout⟩

/-- Settles O52: the row of a BAR0 write, by the part of the window that it names, and the doorbell by the mailbox's state. -/
theorem commandPagesLockAndDoorbellsRing : Obligations.CommandPagesLockAndDoorbellsRing := by
  intro s fn o data m hm hfns
  have hrow (o : Nat) : exec (.registerWrite fn o data) s = .next (writeBar fn o data s) := rfl
  have hring (v : Nat) : exec (.mbxDoorbellRing fn v) s = .next (ringDoorbell fn v s) := rfl
  refine ⟨fun hlo hhi hlocked => ?_, fun hlo hhi hnp hnr => ?_, fun hout hshape => ?_, ?_, fun v hv => ⟨fun h => ?_, fun h => ?_,
    fun h => ?_⟩⟩
  · rw [hrow, writeBar, if_pos ⟨hlo, hhi⟩, writeCommandPage, ← hm]
    rcases hlocked with h | h <;> rw [h]
  · rw [hrow, writeBar, if_pos ⟨hlo, hhi⟩, writeCommandPage, ← hm]
    cases h : m.state with
    | pending => exact absurd h hnp
    | running => exact absurd h hnr
    | booting | ready | done => rfl
  · obtain ⟨h4, h8⟩ := not_or.1 hshape
    rw [hrow, writeBar, if_neg hout, if_neg h4, if_neg h8]
  · intro k hk hlen
    rw [hrow, writeBar]
    simp only [List.mem_cons, List.not_mem_nil, or_false] at hk
    rcases hk with rfl | rfl | rfl | rfl | rfl | rfl | rfl | rfl | rfl <;> simp [hlen, write32, inMsix, msixBase]
  · rw [hring, ringDoorbell, if_neg (by simp [hv]), ← hm]
    rcases h with h | h <;> rw [h]
  · rw [hring, ringDoorbell, if_neg (by simp [hv]), ← hm, h]
  · rw [hring, ringDoorbell, if_neg (by simp [hv]), ← hm]
    rcases h with h | h <;> rw [h]

end Sys2Proof.Machine
end

section
/-! SUPPORT. Writes to a function's host memory (R302), and a look-up with ATS off (R309). -/

namespace Sys2Proof.Machine

section
variable (s : State)

/-- Requests that go out one after the other leave in order, the last one first in the list of what was sent. -/
theorem foldl_emit {α : Type} (o : State → α → Outp) (ho : ∀ u v, u.dma = v.dma → o u = o v) (l : List α) :
    l.foldl (fun t x => emit (o t x) t) s = { s with out := (l.map (o s)).reverse ++ s.out } := by
  have hfold (t : State) (ht : t.dma = s.dma) :
      l.foldl (fun t x => emit (o t x) t) t = { t with out := (l.map (o s)).reverse ++ t.out } := by
    induction l generalizing t with
    | nil => rfl
    | cons x l ih =>
      rw [List.foldl_cons, ih (emit (o t x) t) ht, ho t s ht]
      simp [emit]
  exact hfold s rfl

/-- The requests of a write to a function's host memory. -/
def hostWrites (f a : Nat) (bs : List Byte) (bad : Nat → Nat → Bool) : List Outp :=
  (requestsOf a bs.length ((kvGet s.dma.maxPayload f).getD 128)).map
    (fun p => .hostWrite f (sentAddr s f (a + p.1)) (slice bs p.1 p.2) (bad p.1 p.2))

/-- A write sends its requests and counts its bytes. -/
theorem hostWriteBy_eq (f a : Nat) (bs : List Byte) (bad : Nat → Nat → Bool) : hostWriteBy f a bs bad s = { s with
    ctr := (count (cDma 1) bs.length s).ctr, out := (hostWrites s f a bs bad).reverse ++ s.out } := by
  have hsent (u v : State) (h : u.dma = v.dma) (a : Nat) : sentAddr u f a = sentAddr v f a := by
    unfold sentAddr
    rw [h]
  have ho (u v : State) (h : u.dma = v.dma) :
      (fun p : Nat × Nat => Outp.hostWrite f (sentAddr u f (a + p.1)) (slice bs p.1 p.2) (bad p.1 p.2)) =
        fun p => Outp.hostWrite f (sentAddr v f (a + p.1)) (slice bs p.1 p.2) (bad p.1 p.2) := by
    funext p
    rw [hsent u v h]
  have hfold := foldl_emit (count (cDma 1) bs.length s) _ ho (requestsOf a bs.length ((kvGet s.dma.maxPayload f).getD 128))
  rw [hostWriteBy, hfold, hostWrites, ho (count (cDma 1) bs.length s) s (by rw [count_frame]), count_frame]

theorem hostWrite_eq (f a : Nat) (bs : List Byte) (p : Bool) : hostWrite f a bs p s = { s with
    ctr := (count (cDma 1) bs.length s).ctr, out := (hostWrites s f a bs (fun _ _ => p)).reverse ++ s.out } :=
  hostWriteBy_eq s f a bs _

theorem lookup_ats_off {s : State} (h : s.dma.ats = []) (f : Nat) (ps : List (Nat × Bool)) : lookup f ps s = (true, s) := by
  have hgranted : ps.all (fun p => granted s f p.1 p.2) = true := by simp [granted, h]
  have hfold : ps.foldl (fun s p => lookupPage f p s) s = s :=
    foldl_keeps (fun t => t = s) _ (fun t p ht => by rw [ht, lookupPage, if_pos (by simp [h])]) ps s rfl
  rw [lookup, hgranted, hfold]

end

end Sys2Proof.Machine
end

section
/-! PROOFS. Entries fill the functions' queues (O50). -/

namespace Sys2Proof.Machine

section
variable {s : State} {f : Nat} {e : Event}

/-- The two writes of an entry, on the state and on one that differs in the engine's buffer. -/
theorem out_entryWrites (a : Nat) (bs : List Byte) (rest : List Event) :
    (hostWrite f a (bs.take 8) false (hostWrite f (a + 8) (bs.drop 8) false { s with evBuf := rest })).out =
      (hostWrite f a (bs.take 8) false (hostWrite f (a + 8) (bs.drop 8) false s)).out := by
  simp only [hostWrite_eq]
  rfl

/-- With no page fault waiting there is nothing to drain. -/
theorem drainQueue_empty (h : (s.fn f).evq.waiting = []) : drainQueue s f = s := by rw [drainQueue, h]

/-- A queue that is not enabled takes nothing. -/
theorem offerEntry_disabled (h : (s.fn f).evq.enabled = false) : offerEntry e f s = s := if_pos (by simp [h])

/-- The message of a queue's entry: due at once, due later, or due already. -/
theorem signalQueue_fn (hf : f < s.fns.length) : ((signalQueue f s).fn f).evq.tail = (s.fn f).evq.tail ∧
    ((signalQueue f s).fn f).evq.head = (s.fn f).evq.head ∧ ((signalQueue f s).fn f).evq.lost = (s.fn f).evq.lost ∧
    ((signalQueue f s).fn f).cause = (s.fn f).cause ∧
    ((signalQueue f s).fn f).msixDue = (s.fn f).msixDue ++
      (if (s.fn f).evq.msgDue = false ∧ (s.fn f).evq.lastMsg.elim true (fun t => t + 200 ≤ s.time.time) = true
        then [(s.fn f).evq.vec] else []) := by
  unfold signalQueue
  dsimp only
  split
  next h => simp [h]
  next h =>
    split
    next hl =>
      rw [fireVector, modFn_modFn, fn_modFn hf, if_pos ⟨by simpa using h, hl⟩]
      exact ⟨rfl, rfl, rfl, rfl, rfl⟩
    next hl =>
      rw [fn_modFn hf, if_neg (fun hh => hl hh.2), List.append_nil]
      exact ⟨rfl, rfl, rfl, rfl, rfl⟩

theorem fn_signalQueue_ne {g : Nat} (h : g ≠ f) : (signalQueue f s).fn g = s.fn g := by
  unfold signalQueue
  dsimp only
  split
  · rfl
  · split
    · exact (fn_modFn_ne h _).trans (fn_modFn_ne h _)
    · exact fn_modFn_ne h _

theorem evBuf_signalQueue : (signalQueue f s).evBuf = s.evBuf := by
  unfold signalQueue
  dsimp only
  split
  · rfl
  · split <;> rfl

theorem out_signalQueue : (signalQueue f s).out = s.out := by
  unfold signalQueue
  dsimp only
  split
  · rfl
  · split <;> rfl

end

/-- A predicate of the last message's time, as the model and the statement write it. -/
theorem elim_past_iff (o : Option Nat) (t : Nat) :
    o.elim true (fun x => decide (x + 200 ≤ t)) = true ↔ ∀ x, o = some x → x + 200 ≤ t := by
  cases o <;> simp

/-- The bits that a write of the cause register leaves. -/
theorem testBit_clearCause (c v i : Nat) (hi : i < 32) :
    (c &&& (2 ^ 32 - 1 - v % 2 ^ 32)).testBit i = (c.testBit i && !v.testBit i) := by
  have hlt : v % 2 ^ 32 < 2 ^ 32 := Nat.mod_lt _ (by decide)
  rw [Nat.testBit_and, show 2 ^ 32 - 1 - v % 2 ^ 32 = 2 ^ 32 - (v % 2 ^ 32 + 1) by omega, Nat.testBit_two_pow_sub_succ hlt,
    Nat.testBit_mod_two_pow]
  simp [hi]

section
variable {s : State} {fn : Fn} {e : Event} {rest : List Event} {q : EvtQueue}

/-- The oldest event meets the one queue that is enabled. -/
theorem exec_eventEntryWrite (hbuf : s.evBuf = e :: rest) (hin : fn.val ∈ eventFns e.tenant)
    (hothers : ∀ f < 33, (s.fn f).evq.waiting = [] ∧ (f ≠ fn.val → (s.fn f).evq.enabled = false))
    (hkeep : ∀ g, g ≠ fn.val → ((offerEntry e fn { s with evBuf := rest }).fn g).evq.enabled = (s.fn g).evq.enabled) :
    exec .eventEntryWrite s = .next (offerEntry e fn { s with evBuf := rest }) := by
  have hdrain : (List.range 33).foldl drainQueue s = s := by
    have hfold (fs : List Nat) (hfs : ∀ f ∈ fs, f < 33) : fs.foldl drainQueue s = s := by
      induction fs with
      | nil => rfl
      | cons f fs ih =>
        rw [List.foldl_cons, drainQueue_empty (hothers f (hfs f List.mem_cons_self)).1]
        exact ih (fun g hg => hfs g (List.mem_cons_of_mem f hg))
    exact hfold _ (fun f hf => List.mem_range.1 hf)
  have hrow : exec .eventEntryWrite s =
      .next ((eventFns e.tenant).foldl (fun s f => offerEntry e f s) { s with evBuf := rest }) := by
    have hunfold : exec .eventEntryWrite s = execEventEntryWrite s := rfl
    rw [hunfold]
    unfold execEventEntryWrite
    rw [hdrain]
    dsimp only
    rw [hbuf]
  rw [hrow]
  unfold eventFns at hin ⊢
  split at hin
  next ht =>
    rw [if_pos ht]
    simp only [List.mem_cons, List.not_mem_nil, or_false] at hin
    simp only [List.foldl_cons, List.foldl_nil]
    rcases hin with h0 | h1
    · rw [← h0, offerEntry_disabled (f := e.tenant + 1)]
      rw [hkeep (e.tenant + 1) (by omega)]
      exact (hothers (e.tenant + 1) (by omega)).2 (by omega)
    · have hzero : ({ s with evBuf := rest } : State).fn 0 = s.fn 0 := rfl
      rw [offerEntry_disabled (f := 0) (by rw [hzero]; exact (hothers 0 (by omega)).2 (by omega)), h1]
  next ht =>
    rw [if_neg ht]
    simp only [List.mem_cons, List.not_mem_nil, or_false] at hin
    rw [hin]
    rfl

end

section
variable {s : State} {f : Nat} {e : Event}

/-- The state in which an entry's message is decided: the entry is written, TAIL has moved and the cause bit stands. -/
def evtWritten (f : Nat) (e : Event) (s : State) : State :=
  let q := (s.fn f).evq
  let bs := e.bytes (1 - q.tail / 2 ^ q.k % 2) (if q.lost then 1 else 0)
  let a := q.base + 32 * (q.tail % 2 ^ q.k)
  modFn f (fun x => { x with evq := { x.evq with tail := incMod 32 x.evq.tail, lost := false }, cause := x.cause ||| 2 })
    (hostWrite f a (bs.take 8) false (hostWrite f (a + 8) (bs.drop 8) false s))

theorem writeEntry_eq : writeEntry f e s = signalQueue f (evtWritten f e s) := by
  rw [writeEntry, evtWritten, setCause]
  dsimp only
  rw [modFn_modFn]
  rfl

theorem fns_hostWrites (a b : Nat) (x y : List Byte) : (hostWrite f a x false (hostWrite f b y false s)).fns = s.fns := by
  rw [hostWrite_eq, hostWrite_eq]

theorem fn_evtWritten (hf : f < s.fns.length) : (evtWritten f e s).fn f = { s.fn f with
    evq := { (s.fn f).evq with tail := incMod 32 (s.fn f).evq.tail, lost := false }, cause := (s.fn f).cause ||| 2 } := by
  rw [evtWritten]
  dsimp only
  rw [fn_modFn (by rw [fns_hostWrites]; exact hf), State.fn, fns_hostWrites]
  rfl

theorem out_evtWritten {q : EvtQueue} (hq : (s.fn f).evq = q) :
    (evtWritten f e s).out =
      (hostWrite f (q.base + 32 * (q.tail % 2 ^ q.k))
        ((e.bytes (1 - q.tail / 2 ^ q.k % 2) (if q.lost then 1 else 0)).take 8) false
        (hostWrite f (q.base + 32 * (q.tail % 2 ^ q.k) + 8)
          ((e.bytes (1 - q.tail / 2 ^ q.k % 2) (if q.lost then 1 else 0)).drop 8) false s)).out := by
  unfold evtWritten
  dsimp only
  rw [modFn_out, hq]

theorem evBuf_evtWritten : (evtWritten f e s).evBuf = s.evBuf := by
  unfold evtWritten
  dsimp only
  rw [modFn_evBuf, hostWrite_eq, hostWrite_eq]

theorem time_evtWritten : (evtWritten f e s).time = s.time := by
  unfold evtWritten
  dsimp only
  rw [modFn_time, hostWrite_eq, hostWrite_eq]

/-- An entry is offered to an enabled queue with room, while ATS is off. -/
theorem offerEntry_room (hen : (s.fn f).evq.enabled = true) (hw : (s.fn f).evq.waiting = []) (hats : s.dma.ats = [])
    (hroom : evtFull (s.fn f).evq = false) : offerEntry e f s = signalQueue f (evtWritten f e s) := by
  rw [offerEntry]
  dsimp only
  rw [if_neg (by simp [hen]), if_neg (by simp [hw]), if_neg (by simp [hroom]), lookup_ats_off hats, if_pos rfl, writeEntry_eq]

theorem offerEntry_full (hen : (s.fn f).evq.enabled = true) (hw : (s.fn f).evq.waiting = [])
    (hfull : evtFull (s.fn f).evq = true) : offerEntry e f s = markLost f (count (cFn f 3) 1 s) := by
  rw [offerEntry]
  dsimp only
  rw [if_neg (by simp [hen]), if_neg (by simp [hw]), if_pos hfull]

end

/-- Settles O50: the oldest event meets the one enabled queue, which takes it at TAIL or drops it; the registers' writes are
their rows. -/
theorem entriesFillTheFunctionsQueues : Obligations.EntriesFillTheFunctionsQueues := by
  intro s fn q hq hfns
  have hf : fn.val < s.fns.length := by omega
  have hfull (u : State) (hu : u.fn fn = s.fn fn) :
      evtFull (u.fn fn).evq = ((q.tail + 2 ^ 32 - q.head) % 2 ^ 32 == 2 ^ q.k) := by rw [hu, ← hq]; rfl
  refine ⟨fun e rest hbuf hin hen hats hothers => ⟨fun hroom => ?_, fun hfull' => ?_⟩, fun hdue hpast => ?_, fun hdue => ?_,
    fun h hh => ⟨fun hok hle => ?_, fun hno => ?_⟩, fun v hc => ?_⟩
  · have hsame : ({ s with evBuf := rest } : State).fn fn = s.fn fn := rfl
    have hoffer := offerEntry_room (s := { s with evBuf := rest }) (f := fn) (e := e) (by rw [hsame, ← hq]; exact hen)
      (by rw [hsame]; exact (hothers fn fn.isLt).1) hats (by rw [hfull _ hsame]; simpa using hroom)
    have hwritten : (evtWritten fn e { s with evBuf := rest }).fn fn = _ := fn_evtWritten hf
    have hlen : fn.val < (evtWritten fn e { s with evBuf := rest }).fns.length := by
      rw [evtWritten, modFn_fns, List.length_modify, fns_hostWrites]
      exact hf
    have hother (g : Nat) (hg : g ≠ fn.val) : (evtWritten fn e { s with evBuf := rest }).fn g = s.fn g := by
      rw [evtWritten]
      dsimp only
      rw [fn_modFn_ne hg, State.fn, fns_hostWrites]
      rfl
    obtain ⟨htail, hhead, hlost, hcause, hmsix⟩ := signalQueue_fn hlen
    rw [hwritten, hsame, ← hq] at htail hhead hlost hcause hmsix
    refine ⟨_, _, _, exec_eventEntryWrite hbuf hin hothers (fun g hg => ?_), ?_, rfl, rfl, ?_, ?_, ?_, ?_, ?_, ?_⟩
    · rw [hoffer, fn_signalQueue_ne hg, hother g hg]
    · rw [hoffer, evBuf_signalQueue, evBuf_evtWritten]
    · rw [hoffer, out_signalQueue]
      have hout := out_evtWritten (s := { s with evBuf := rest }) (f := fn) (e := e) hq.symm
      rw [out_entryWrites] at hout
      exact hout
    · rw [hoffer, htail]
      rfl
    · rw [hoffer, hhead]
    · rw [hoffer, hlost]
    · rw [hoffer, hcause]
    · have htime : (evtWritten fn e { s with evBuf := rest }).time = s.time := time_evtWritten
      rw [hoffer, hmsix, htime]
      simp only [elim_past_iff]
  · have hsame : ({ s with evBuf := rest } : State).fn fn = s.fn fn := rfl
    have hoffer := offerEntry_full (s := { s with evBuf := rest }) (f := fn) (e := e) (by rw [hsame, ← hq]; exact hen)
      (by rw [hsame]; exact (hothers fn fn.isLt).1) (by rw [hfull _ hsame]; simpa using hfull')
    have hcounted : (count (cFn fn 3) 1 { s with evBuf := rest }).fn fn = s.fn fn := by rw [count_frame]; rfl
    have hmarked : (markLost fn (count (cFn fn 3) 1 { s with evBuf := rest })).fn fn =
        { s.fn fn with evq := { q with lost := true }, cause := (s.fn fn).cause ||| 4 } := by
      rw [markLost, fn_modFn (by rw [count_frame]; exact hf), hcounted, if_pos (by rw [← hq]; exact hen), hq]
    refine ⟨_, exec_eventEntryWrite hbuf hin hothers (fun g hg => ?_), ?_, ?_, ?_, ?_, ?_⟩
    · rw [hoffer, markLost, fn_modFn_ne hg, count_frame]
      rfl
    · rw [hoffer, count_frame]
      rfl
    · rw [hoffer, count_frame]
      rfl
    · rw [hoffer, hmarked]
    · rw [hoffer, hmarked]
    · rw [hoffer]
      exact (counter_count _ _ _ _).trans (if_pos ⟨rfl, by decide⟩)
  · refine (if_pos ?_).trans ?_
    · rw [← hq, hdue, Bool.true_and]
      exact (elim_past_iff _ _).2 hpast
    · rw [fireVector, modFn_modFn, ← hq]
      rfl
  · exact if_neg (by rw [← hq, hdue]; simp)
  · have hrow : exec (.evtQueueHeadWrite fn h) s = .next (writeHead fn h s) := rfl
    rw [hrow, writeHead, Nat.mod_eq_of_lt hh, ← hq, if_pos (by rw [hok, decide_eq_true hle]; rfl)]
  · have hrow : exec (.evtQueueHeadWrite fn h) s = .next (writeHead fn h s) := rfl
    rw [hrow, writeHead, Nat.mod_eq_of_lt hh, ← hq, if_neg]
    rw [Bool.and_eq_true, decide_eq_true_eq]
    exact hno
  · refine ⟨_, rfl, fun i hi => ?_, fun g hg => fn_modFn_ne hg _, rfl, rfl⟩
    have hfn : (writeCause fn v s).fn fn = _ := fn_modFn hf _
    rw [hfn]
    exact testBit_clearCause _ _ _ hi

end Sys2Proof.Machine
end

section
/-! SUPPORT. A Saddle's flits: their fields, what is sent, what is taken of an ack, and what is accepted (R321 to R323). -/

namespace Sys2Proof.Machine

/-! ## Saddles and counters after an update -/

section
variable {s : State} {i : Nat}

theorem saddle_modSaddle_same (h : i < s.zth.saddles.length) (F : Saddle → Saddle) : (modSaddle i F s).saddle i = F (s.saddle i) :=
  getD_modify_eq _ _ _ _ h

theorem counter_modSaddle (F : Saddle → Saddle) (k : Nat) : (modSaddle i F s).counter k = s.counter k := rfl

theorem saddle_count (k n j : Nat) : (count k n s).saddle j = s.saddle j := by rw [count_frame]; rfl

theorem out_count (k n : Nat) : (count k n s).out = s.out := by rw [count_frame]

theorem saddles_count (k n : Nat) : (count k n s).zth = s.zth := by rw [count_frame]

theorem saddle_raise (c t : Nat) (d : List Byte) (j : Nat) : (raise c t d s).saddle j = s.saddle j := by rw [raise_frame]; rfl

/-- An event counts nothing but the engine's drops. -/
theorem counter_raise_ne {k : Nat} (hk : k ≠ cEngineDropped) (c t : Nat) (d : List Byte) :
    (raise c t d s).counter k = s.counter k := by
  unfold raise
  split
  · rfl
  · rw [foldl_markLost_frame]
    exact counter_count_ne s hk 1

/-! ## Flits -/

/-- A flit's sixteen header bytes stand before its body. -/
theorem mkFlit_eq {x : Saddle} (hx : x.freed.length = 4) (kind seq : Nat) (body : List Byte) : ∃ a b c d,
    mkFlit x kind seq body = (beBytes 1 kind ++ [0] ++ beBytes 2 seq ++ beBytes 2 (ackOf x) ++ zeros 2 ++
      (beBytes 2 a ++ beBytes 2 b ++ beBytes 2 c ++ beBytes 2 d)) ++ (fitBytes body 224 ++
        (mkFlit x kind seq body).drop 240) := by
  obtain ⟨a, b, c, d, hfreed⟩ : ∃ a b c d, x.freed = [a, b, c, d] := by
    match x.freed, hx with
    | [a, b, c, d], _ => exact ⟨a, b, c, d, rfl⟩
  refine ⟨a, b, c, d, ?_⟩
  have hbytes (n v : Nat) : (beBytes n v).length = n := length_beBytes n v
  obtain ⟨tail, htail⟩ : ∃ tail, mkFlit x kind seq body = (beBytes 1 kind ++ [0] ++ beBytes 2 seq ++ beBytes 2 (ackOf x) ++
      zeros 2 ++ (beBytes 2 a ++ beBytes 2 b ++ beBytes 2 c ++ beBytes 2 d)) ++ (fitBytes body 224 ++ tail) := by
    refine ⟨?_, ?_⟩
    case refine_2 =>
      rw [mkFlit, sealFlit, hfreed]
      simp only [List.flatMap_cons, List.flatMap_nil, List.append_assoc, List.append_nil]
      rfl
  have hdrop : (mkFlit x kind seq body).drop 240 = tail := by
    rw [htail, ← List.append_assoc, List.drop_left']
    simp [hbytes, zeros]
  rw [hdrop, htail]

theorem flitKind_mkFlit {x : Saddle} (hx : x.freed.length = 4) (kind seq : Nat) (body : List Byte) :
    flitKind (mkFlit x kind seq body) = kind % 256 := by
  obtain ⟨a, b, c, d, h⟩ := mkFlit_eq hx kind seq body
  rw [h]
  simp [flitKind, byteAt, beBytes, leBytes]

/-- The sequence that a control flit of the Saddle names. -/
theorem flitNamed_mkFlit {x : Saddle} (hx : x.freed.length = 4) (kind seq v : Nat) :
    flitNamed (mkFlit x kind seq (beBytes 2 v)) = v % 65536 := by
  obtain ⟨a, b, c, d, h⟩ := mkFlit_eq hx kind seq (beBytes 2 v)
  have hdrop : (mkFlit x kind seq (beBytes 2 v)).drop 16 = fitBytes (beBytes 2 v) 224 ++ (mkFlit x kind seq (beBytes 2 v)).drop 240 := by
    rw [h]
    simp [beBytes, leBytes, zeros]
  have hfit : fitBytes (beBytes 2 v) 224 = beBytes 2 v ++ zeros 222 := by
    rw [fitBytes, List.take_of_length_le (by rw [length_beBytes]; decide), length_beBytes]
  rw [flitNamed, beAt, slice, hdrop, hfit, List.append_assoc, List.take_left' (length_beBytes _ _), beNat_beBytes]
  rfl

/-! ## What is sent -/

/-- DATA flits go out in order, as they are now, and count. -/
theorem sendData_frame (fs : List RetryFlit) : sendData i fs s = { s with
    ctr := (sendData i fs s).ctr, out := (fs.map (fun f => Outp.flit i (refresh (s.saddle i) f))).reverse ++ s.out } := by
  induction fs generalizing s with
  | nil => rfl
  | cons f fs ih =>
    have hcons : sendData i (f :: fs) s =
      sendData i fs (count (cSaddle i 0) 1 (sendFlit i (refresh (s.saddle i) f) s)) := rfl
    have hsaddle : (count (cSaddle i 0) 1 (sendFlit i (refresh (s.saddle i) f) s)).saddle i = s.saddle i := saddle_count _ _ _
    rw [hcons, ih, hsaddle, count_frame]
    simp [sendFlit, emit]

theorem counter_sendData {k : Nat} (hk : k ≠ cSaddle i 0) (fs : List RetryFlit) : (sendData i fs s).counter k = s.counter k := by
  refine foldl_keeps (fun t => t.counter k = s.counter k) _ (fun t f ht => ?_) fs s rfl
  exact (counter_count_ne _ hk 1).trans ht

/-- A replay sends the retry buffer from the sequence on, and counts once. -/
theorem replayFrom_sends {q : Nat} {f : RetryFlit} {rest : List RetryFlit} (hi : i < s.zth.saddles.length)
    (h : (s.saddle i).retry.dropWhile (fun f => f.seq != q) = f :: rest) :
    (replayFrom i q s).out = ((f :: rest).map (fun y => Outp.flit i (refresh (s.saddle i) y))).reverse ++ s.out ∧
      (replayFrom i q s).counter (cSaddle i 4) = (s.counter (cSaddle i 4) + 1) % 2 ^ 64 ∧
      (replayFrom i q s).saddle i = { s.saddle i with ackSince := s.time.time } := by
  have hreplay : replayFrom i q s = modSaddle i (fun x => { x with ackSince := s.time.time })
      (sendData i (f :: rest) (count (cSaddle i 4) 1 s)) := by
    rw [replayFrom, h]
    rfl
  have hne : cSaddle i 4 ≠ cSaddle i 0 := by unfold cSaddle; omega
  rw [hreplay]
  refine ⟨?_, ?_, ?_⟩
  · rw [modSaddle_out, sendData_frame]
    simp only [saddle_count, out_count]
  · rw [counter_modSaddle, counter_sendData hne, counter_count, if_pos ⟨rfl, by decide⟩]
  · have hkept : (sendData i (f :: rest) (count (cSaddle i 4) 1 s)).zth = s.zth := by
      rw [sendData_frame, count_frame]
    have hsaddle : (sendData i (f :: rest) (count (cSaddle i 4) 1 s)).saddle i = s.saddle i := by
      rw [State.saddle, hkept, State.saddle]
    rw [saddle_modSaddle_same (by rw [hkept]; exact hi), hsaddle]

/-! ## Flits that come in -/

theorem openFlit_good {bs : List Byte} {kind : Nat} (h : goodFlit bs kind) : openFlit i bs .clean s = (some bs, s) := by
  obtain ⟨hcrc, -⟩ := h
  simp [openFlit, hcrc]

theorem openFlit_uncorrectable (bs : List Byte) : openFlit i bs .uncorrectable s = (none, count (cSaddle i 3) 1 s) := by
  simp [openFlit]

/-- A good control flit that is met in ACTIVE: its ack is taken, then what it asks is done. -/
theorem controlFlit_good {bs : List Byte} {kind : Nat} (h : goodFlit bs kind) (hm : (s.saddle i).mode = .active)
    (act : Nat → State → State) :
    controlFlit i kind bs .clean act s = act (flitNamed bs) (modSaddle i (takeAck bs s.time.time) s) := by
  rw [controlFlit]
  simp only [openFlit_good h, hm, h.2]
  rw [if_neg (by simp), if_neg (by simp)]

end

end Sys2Proof.Machine
end

section
/-! PROOFS. Flits are accepted once and replayed (O39). -/

namespace Sys2Proof.Machine

section
variable {s : State} {i : Nat}

theorem saddles_of_shaped (hs : s.shaped) : s.zth.saddles.length = 16 ∧
    ∀ x ∈ s.zth.saddles, x.pools.length = 4 ∧ x.totals.length = 4 ∧ x.sent.length = 4 ∧ x.rcvd.length = 4 ∧ x.freed.length = 4 := by
  obtain ⟨-, -, -, -, -, -, -, -, hlen, -, -, -, hcounts⟩ := hs
  exact ⟨hlen, hcounts⟩

theorem freed_of_shaped (hs : s.shaped) (hi : i < 16) : (s.saddle i).freed.length = 4 := by
  obtain ⟨hlen, hcounts⟩ := saddles_of_shaped hs
  have hmem : s.saddle i ∈ s.zth.saddles := by
    rw [State.saddle, List.getD_eq_getElem _ _ (by omega)]
    exact List.getElem_mem _
  obtain ⟨-, -, -, -, hfreed⟩ := hcounts _ hmem
  exact hfreed

/-- What asking for the expected sequence leaves, when it does not stand asked. -/
theorem askRetry_asks (hi : i < s.zth.saddles.length) (hf : (s.saddle i).freed.length = 4) (h : (s.saddle i).retryOut = false) :
    (askRetry i s).saddle i = { s.saddle i with retryOut := true } ∧ (∀ k, (askRetry i s).counter k = s.counter k) ∧
      ∃ f, (askRetry i s).out = .flit i f :: s.out ∧ flitKind f = 0x12 ∧ flitNamed f = (s.saddle i).rxSeq % 65536 := by
  have hasked : (modSaddle i (fun x => { x with retryOut := true }) s).saddle i = { s.saddle i with retryOut := true } :=
    saddle_modSaddle_same hi _
  have hask : askRetry i s = emit (.flit i (mkFlit { s.saddle i with retryOut := true } 0x12 0 (beBytes 2 (s.saddle i).rxSeq)))
      (modSaddle i (fun x => { x with retryOut := true }) s) := by
    rw [askRetry, if_neg (by simp [h]), sendRetryReq, hasked]
    rfl
  rw [hask]
  refine ⟨hasked, fun _ => rfl, _, rfl, ?_, ?_⟩
  · exact flitKind_mkFlit (by exact hf) _ _ _
  · exact flitNamed_mkFlit (by exact hf) _ _ _

/-- Messages that arrive whole stand behind the input buffer's; the flit sequence is left. -/
theorem saddle_arriveMsgs (ms : List (List Byte)) (hi : i < s.zth.saddles.length) :
    ((ms.foldl (fun s m => arriveMsg i m s) s).saddle i).inq.map (·.bytes) = (s.saddle i).inq.map (·.bytes) ++ ms ∧
      ((ms.foldl (fun s m => arriveMsg i m s) s).saddle i).rxSeq = (s.saddle i).rxSeq ∧
      ((ms.foldl (fun s m => arriveMsg i m s) s).saddle i).accepted = (s.saddle i).accepted ∧
      ((ms.foldl (fun s m => arriveMsg i m s) s).saddle i).retryOut = (s.saddle i).retryOut ∧
      ∀ k, (ms.foldl (fun s m => arriveMsg i m s) s).counter k = s.counter k := by
  induction ms generalizing s with
  | nil => exact ⟨by simp, rfl, rfl, rfl, fun _ => rfl⟩
  | cons m ms ih =>
    have hlen : i < (arriveMsg i m s).zth.saddles.length := by
      rw [arriveMsg]
      simpa using hi
    have hx : ∃ rcvd msg, msg.bytes = m ∧
        (arriveMsg i m s).saddle i = { s.saddle i with rcvd := rcvd, inq := (s.saddle i).inq ++ [msg] } :=
      ⟨_, _, rfl, saddle_modSaddle_same hi _⟩
    obtain ⟨rcvd, msg, hmsg, hx⟩ := hx
    obtain ⟨hinq, hseq, hacc, hout, hctr⟩ := ih hlen
    rw [List.foldl_cons]
    rw [hx] at hinq hseq hacc hout
    refine ⟨?_, hseq, hacc, hout, fun k => hctr k⟩
    rw [hinq]
    simp [hmsg]

theorem saddle_emit (o : Outp) (j : Nat) : (emit o s).saddle j = s.saddle j := rfl

theorem saddle_sendIdle (j : Nat) : (sendIdle i s).saddle j = s.saddle j := by
  unfold sendIdle
  split <;> rfl

theorem counter_sendIdle (k : Nat) : (sendIdle i s).counter k = s.counter k := by
  unfold sendIdle
  split <;> rfl

/-- A flit that is accepted in order. -/
theorem acceptData_accepts (bs : List Byte) (hi : i < s.zth.saddles.length) :
    ((acceptData i bs s).saddle i).rxSeq = ((s.saddle i).rxSeq + 1) % 65536 ∧ ((acceptData i bs s).saddle i).accepted = true ∧
      ((acceptData i bs s).saddle i).retryOut = false ∧
      (acceptData i bs s).counter (cSaddle i 1) = (s.counter (cSaddle i 1) + 1) % 2 ^ 64 ∧
      ((acceptData i bs s).saddle i).inq.map (·.bytes) = (s.saddle i).inq.map (·.bytes) ++
        (assemble (flitSlots bs) (s.saddle i).asm []).1 := by
  obtain ⟨r, hr⟩ : ∃ r, r = assemble (flitSlots bs) (s.saddle i).asm [] := ⟨_, rfl⟩
  obtain ⟨u, hu⟩ : ∃ u, u = modSaddle i (fun x => { x with
      rxSeq := (x.rxSeq + 1) % 65536, accepted := true, retryOut := false, asm := r.2 }) (count (cSaddle i 1) 1 s) := ⟨_, rfl⟩
  have hlen : i < (count (cSaddle i 1) 1 s).zth.saddles.length := by rw [saddles_count]; exact hi
  have hx : u.saddle i = { s.saddle i with
      rxSeq := ((s.saddle i).rxSeq + 1) % 65536, accepted := true, retryOut := false, asm := r.2 } := by
    rw [hu, saddle_modSaddle_same hlen, saddle_count]
  have hctr : u.counter (cSaddle i 1) = (s.counter (cSaddle i 1) + 1) % 2 ^ 64 := by
    rw [hu, counter_modSaddle, counter_count, if_pos ⟨rfl, by decide⟩]
  have haccept : acceptData i bs s = sendIdle i (r.1.foldl (fun s m => arriveMsg i m s) u) := by
    rw [hu, hr]
    rfl
  have hulen : i < u.zth.saddles.length := by
    rw [hu]
    simpa using hlen
  obtain ⟨hinq, hseq, hacc, hout, hctr'⟩ := saddle_arriveMsgs r.1 hulen
  rw [haccept, saddle_sendIdle, counter_sendIdle, hseq, hacc, hout, hctr', hinq, hx, hctr, hr]
  exact ⟨rfl, rfl, rfl, rfl, rfl⟩

/-- A retry buffer in its replay order, from the first flit of a sequence on. -/
theorem dropWhile_seq {pre rest : List RetryFlit} {f : RetryFlit} {q : Nat} (hf : f.seq = q) (hpre : ∀ p ∈ pre, p.seq ≠ q) :
    (pre ++ f :: rest).dropWhile (fun f => f.seq != q) = f :: rest := by
  rw [List.dropWhile_append_of_pos (by simpa using hpre)]
  simp [hf]

theorem takeAck_keeps (bs : List Byte) (now : Nat) (x : Saddle) : (takeAck bs now x).rxSeq = x.rxSeq ∧
    (takeAck bs now x).inq = x.inq ∧ (takeAck bs now x).asm = x.asm ∧ (takeAck bs now x).retryOut = x.retryOut ∧
    (takeAck bs now x).freed = x.freed ∧ (takeAck bs now x).mode = x.mode ∧ (takeAck bs now x).backoff = x.backoff :=
  ⟨rfl, rfl, rfl, rfl, rfl, rfl, rfl⟩

/-- What is left in the retry buffer is not acknowledged. -/
theorem retry_takeAck (bs : List Byte) (now : Nat) (x : Saddle) :
    ∀ f ∈ (takeAck bs now x).retry, 64 ≤ (flitAck bs + 65536 - f.seq) % 65536 := by
  intro f hf
  have := (List.mem_filter.1 hf).2
  simpa using this

end

/-! ## The rows -/

section
variable {s : State} {i : SaddleId} {bs : List Byte}

/-- A good DATA flit that a configured, ACTIVE Saddle has not accepted yet: its ack is taken, and it is accepted or asked for. -/
theorem exec_dataFlitRx_new (hg : goodFlit bs 1) (hchip : s.zth.chip.isSome = true) (hm : (s.saddle i).mode = .active)
    (hdup : isDuplicate (s.saddle i) (flitSeq bs) = false) :
    exec (.dataFlitRx i bs .clean) s = .next (if flitSeq bs = (s.saddle i).rxSeq then
      acceptData i bs (modSaddle i (takeAck bs s.time.time) s) else askRetry i (modSaddle i (takeAck bs s.time.time) s)) := by
  have hrow : exec (.dataFlitRx i bs .clean) s = execDataFlitRx i bs .clean s := rfl
  have hnone : s.zth.chip.isNone = false := by rw [Option.isNone_eq_false_iff]; exact hchip
  rw [hrow, execDataFlitRx]
  simp only [openFlit_good hg, hm, hg.2, hnone, hdup]
  rw [if_neg (by simp), apply_ite Host.Outcome.next]
  simp

theorem exec_dataFlitRx_duplicate (hg : goodFlit bs 1) (hchip : s.zth.chip.isSome = true) (hm : (s.saddle i).mode = .active)
    (hdup : isDuplicate (s.saddle i) (flitSeq bs) = true) : exec (.dataFlitRx i bs .clean) s = .next s := by
  have hrow : exec (.dataFlitRx i bs .clean) s = execDataFlitRx i bs .clean s := rfl
  have hnone : s.zth.chip.isNone = false := by rw [Option.isNone_eq_false_iff]; exact hchip
  rw [hrow, execDataFlitRx]
  simp [openFlit_good hg, hm, hg.2, hnone, hdup]

theorem exec_dataFlitRx_bad (hm : (s.saddle i).mode = .active) :
    exec (.dataFlitRx i bs .uncorrectable) s = .next (askRetry i (count (cSaddle i 3) 1 s)) := by
  have hrow : exec (.dataFlitRx i bs .uncorrectable) s = execDataFlitRx i bs .uncorrectable s := rfl
  rw [hrow, execDataFlitRx]
  simp [openFlit_uncorrectable, hm]

theorem exec_dataFlitRx_unready (hg : goodFlit bs 1) (hchip : s.zth.chip = none) (hm : (s.saddle i).mode = .up) :
    exec (.dataFlitRx i bs .clean) s = .next (refuseData i (flitSeq bs) s) := by
  have hrow : exec (.dataFlitRx i bs .clean) s = execDataFlitRx i bs .clean s := rfl
  rw [hrow, execDataFlitRx]
  simp [openFlit_good hg, hm, hg.2, hchip]

/-- NOT_READY in ACTIVE: counted, and 1 ms of back-off begins. -/
def backedOff (i : SaddleId) (bs : List Byte) (s : State) : State :=
  modSaddle i (fun x => { x with notReady := x.notReady + 1, backoff := some (flitNamed bs) })
    (count (cSaddle i 6) 1 (modSaddle i (takeAck bs s.time.time) s))

theorem exec_notReadyRx (hg : goodFlit bs 0x13) (hm : (s.saddle i).mode = .active) :
    exec (.notReadyRx i bs .clean) s = .next (if 64 ≤ ((backedOff i bs s).saddle i).notReady then
      retrain i 0 (backedOff i bs s) else backedOff i bs s) :=
  congrArg Host.Outcome.next (controlFlit_good hg hm _)

theorem saddle_backedOff (hi : i.val < s.zth.saddles.length) : (backedOff i bs s).saddle i = { takeAck bs s.time.time (s.saddle i) with
    notReady := (takeAck bs s.time.time (s.saddle i)).notReady + 1, backoff := some (flitNamed bs) } := by
  have hlen : i.val < (modSaddle i (takeAck bs s.time.time) s).zth.saddles.length := by simpa using hi
  rw [backedOff, saddle_modSaddle_same (by rw [saddles_count]; exact hlen), saddle_count, saddle_modSaddle_same hi]

/-- A link that retrains is counted. -/
theorem retrain_counts (cause : Nat) (hi : i.val < s.zth.saddles.length) : ((retrain i cause s).saddle i).mode = .training ∧
    (retrain i cause s).counter (cSaddle i 8) = (s.counter (cSaddle i 8) + 1) % 2 ^ 64 := by
  have hne : cSaddle i 8 ≠ cEngineDropped := by unfold cSaddle cEngineDropped; omega
  refine ⟨?_, ?_⟩
  · rw [retrain, saddle_raise, saddle_count, leaveActive, saddle_modSaddle_same hi]
  · rw [retrain, counter_raise_ne hne, counter_count, if_pos ⟨rfl, by decide⟩]
    rfl

end

/-- Settles O39: each row of a flit is the opened flit's effect on its Saddle, and each replay sends the retry buffer anew. -/
theorem flitsAreAcceptedOnceAndReplayed : Obligations.FlitsAreAcceptedOnceAndReplayed := by
  refine ⟨fun s i bs hs => ?_, fun s i bs hs => ?_⟩
  all_goals
    obtain ⟨hlen, -⟩ := saddles_of_shaped hs
    have hi : i.val < s.zth.saddles.length := by omega
    have hfreed := freed_of_shaped hs i.isLt
    obtain ⟨u, hu⟩ : ∃ u, u = modSaddle i (takeAck bs s.time.time) s := ⟨_, rfl⟩
    have hux : u.saddle i = takeAck bs s.time.time (s.saddle i) := by rw [hu, saddle_modSaddle_same hi]
    have hulen : i.val < u.zth.saddles.length := by rw [hu]; simpa using hi
  · refine ⟨fun hg hchip hm hdup hseq => ?_, exec_dataFlitRx_duplicate, fun hm hout => ?_, fun hg hchip hm hdup hseq => ?_,
      fun hg hchip hm hrefusing => ?_, fun hm hout => ?_, fun hg hm => ?_⟩
    · have hexec := exec_dataFlitRx_new hg hchip hm hdup
      rw [if_pos hseq, ← hu] at hexec
      have haccept := acceptData_accepts bs hulen
      rw [hux] at haccept
      have hctr : u.counter (cSaddle i 1) = s.counter (cSaddle i 1) := by rw [hu, counter_modSaddle]
      rw [hctr] at haccept
      exact ⟨_, hexec, haccept⟩
    · have hasks := askRetry_asks (s := count (cSaddle i 3) 1 s) (i := i) (by rw [saddles_count]; exact hi)
        (by rw [saddle_count]; exact hfreed) (by rw [saddle_count]; exact hout)
      rw [saddle_count, out_count] at hasks
      obtain ⟨hx, hctr, f, hf, hkind, hnamed⟩ := hasks
      refine ⟨_, f, exec_dataFlitRx_bad hm, by rw [hx], by rw [hx], hf, hkind, hnamed, ?_⟩
      rw [hctr, counter_count, if_pos ⟨rfl, by decide⟩]
    · have hexec := exec_dataFlitRx_new hg hchip hm hdup
      rw [if_neg hseq, ← hu] at hexec
      have hout : u.out = s.out := by rw [hu]; rfl
      cases hr : (s.saddle i).retryOut with
      | true =>
        have hstands : askRetry i u = u := if_pos (by rw [hux]; exact hr)
        rw [hstands] at hexec
        exact ⟨_, hexec, by rw [hux]; exact hr, by rw [hux]; rfl, by rw [hux]; rfl, fun _ => hout, fun h => absurd h (by simp)⟩
      | false =>
        obtain ⟨hx, -, f, hf, hkind, hnamed⟩ := askRetry_asks hulen (by rw [hux]; exact hfreed) (by rw [hux]; exact hr)
        rw [hux] at hx hnamed
        rw [hout] at hf
        exact ⟨_, hexec, by rw [hx], by rw [hx]; rfl, by rw [hx]; rfl, fun h => absurd h (by simp), fun _ => ⟨f, hf, hkind, hnamed⟩⟩
    · have hrefuse : refuseData i (flitSeq bs) s = emit (.flit i (mkFlit (s.saddle i) 0x13 0 (beBytes 2 (flitSeq bs))))
          (modSaddle i (fun x => { x with refusing := some (flitSeq bs) }) (count (cSaddle i 5) 1 s)) := by
        rw [refuseData, hrefusing]
        rfl
      have hx : (modSaddle i (fun x => { x with refusing := some (flitSeq bs) }) (count (cSaddle i 5) 1 s)).saddle i =
          { s.saddle i with refusing := some (flitSeq bs) } := by
        rw [saddle_modSaddle_same (by rw [saddles_count]; exact hi), saddle_count]
      have hexec := exec_dataFlitRx_unready hg hchip hm
      rw [hrefuse] at hexec
      refine ⟨_, _, hexec, ?_, flitKind_mkFlit hfreed 0x13 0 (beBytes 2 (flitSeq bs)), ?_, ?_⟩
      · rw [emit_out, modSaddle_out, out_count]
      · rw [saddle_emit, hx]
      · rw [saddle_emit, hx]
    · exact ⟨_, flitKind_mkFlit hfreed 0x12 0 (beBytes 2 (s.saddle i).rxSeq), if_pos ⟨hm, hout⟩⟩
    · have hexec : exec (.idleFlitRx i bs .clean) s = .next u :=
        congrArg Host.Outcome.next ((controlFlit_good hg hm _).trans hu.symm)
      exact ⟨_, hexec, hux, by rw [hu]; rfl, by rw [hux]; exact retry_takeAck bs _ _⟩
  · refine ⟨fun pre f rest x hg hm hb hx hretry hseq hpre => ?_, fun f rest hm hb hretry hlate => ?_, fun f rest hb hretry => ?_,
      fun hg hm hfew => ?_, fun hg hm hlast => ?_⟩
    · have hexec : exec (.retryReqRx i bs .clean) s = .next (replayFrom i (flitNamed bs) u) := by
        refine congrArg Host.Outcome.next ((controlFlit_good hg hm _).trans ?_)
        rw [← hu, if_neg]
        rw [hux]
        exact fun h => by rw [(takeAck_keeps bs s.time.time (s.saddle i)).2.2.2.2.2.2, hb] at h; cases h
      obtain ⟨hout, hctr, -⟩ := replayFrom_sends (q := flitNamed bs) hulen (by rw [hux, ← hx, hretry, dropWhile_seq hseq hpre])
      rw [hux, ← hx] at hout
      have huout : u.out = s.out := by rw [hu]; rfl
      have huctr : u.counter (cSaddle i 4) = s.counter (cSaddle i 4) := by rw [hu, counter_modSaddle]
      rw [huout] at hout
      rw [huctr] at hctr
      exact ⟨_, hexec, hout, hctr⟩
    · have hexec : exec (.ackTimeout i) s = .next (replayFrom i f.seq s) := by
        have hrow : exec (.ackTimeout i) s = execAckTimeout i s := rfl
        rw [hrow, execAckTimeout, hretry]
        refine if_neg ?_
        rw [hb]
        simp only [hm, Option.isSome_none]
        simp only [ne_eq, not_true_eq_false, Bool.false_eq_true, false_or]
        omega
      obtain ⟨hout, hctr, hx⟩ := replayFrom_sends (q := f.seq) hi
        (by rw [hretry]; exact dropWhile_seq (pre := []) rfl (by simp))
      exact ⟨_, hexec, hout, by rw [hx]; exact hretry, by rw [hx], hctr⟩
    · obtain ⟨w, hw⟩ : ∃ w, w = modSaddle i (fun x => { x with backoff := none }) s := ⟨_, rfl⟩
      have hwx : w.saddle i = { s.saddle i with backoff := none } := by rw [hw, saddle_modSaddle_same hi]
      have hexec : exec (.notReadyBackoffExpiry i) s = .next (replayFrom i f.seq w) := by
        have hrow : exec (.notReadyBackoffExpiry i) s = execNotReadyBackoffExpiry i s := rfl
        rw [hrow, execNotReadyBackoffExpiry, hb, hw]
      obtain ⟨hout, hctr, hx⟩ := replayFrom_sends (s := w) (i := i) (q := f.seq) (by rw [hw]; simpa using hi)
        (by rw [hwx]; exact (congrArg _ hretry).trans (dropWhile_seq (pre := []) rfl (by simp)))
      have hwout : w.out = s.out := by rw [hw]; rfl
      have hwctr : w.counter (cSaddle i 4) = s.counter (cSaddle i 4) := by rw [hw, counter_modSaddle]
      rw [hwx, hwout] at hout
      rw [hwctr] at hctr
      exact ⟨_, hexec, by rw [hx, hwx], hout, hctr⟩
    · have hexec := exec_notReadyRx hg hm
      have hx := saddle_backedOff (bs := bs) hi
      rw [if_neg (by rw [hx]; simp only; omega)] at hexec
      exact ⟨_, hexec, by rw [hx], by rw [hx]; exact hm, by rw [hx]⟩
    · have hexec := exec_notReadyRx hg hm
      have hx := saddle_backedOff (bs := bs) hi
      rw [if_pos (by rw [hx]; simp only; omega)] at hexec
      have hblen : i.val < (backedOff i bs s).zth.saddles.length := by
        rw [backedOff, modSaddle_zth, saddles_count]
        simpa using hi
      obtain ⟨hmode, hctr⟩ := retrain_counts 0 hblen
      have hne : cSaddle i 8 ≠ cSaddle i 6 := by unfold cSaddle; omega
      have hbctr : (backedOff i bs s).counter (cSaddle i 8) = s.counter (cSaddle i 8) := by
        rw [backedOff, counter_modSaddle, counter_count_ne _ hne, counter_modSaddle]
      rw [hbctr] at hctr
      exact ⟨_, hexec, hmode, hctr⟩

end Sys2Proof.Machine
end

section
/-! PROOFS. Messages leave by class and credit (O40). -/

namespace Sys2Proof.Machine

section
variable {s : State} {i : Nat} {m : Msg}

/-- The message that starts next has the credits for its slots (R328). -/
theorem credit_of_nextMessage {x : Saddle} (h : nextMessage x = some m) : m.slots ≤ freeCredits x m.vc := by
  obtain ⟨c, -, hc⟩ := List.exists_of_findSome?_eq_some h
  obtain ⟨m', -, hm⟩ := Option.bind_eq_some_iff.1 hc
  split at hm
  next hcredit =>
    obtain rfl : m' = m := Option.some.inj hm
    exact of_decide_eq_true hcredit
  next => cases hm

/-- What a view shows of each Saddle is left by a change of one that the view does not show. -/
theorem saddle_modSaddle_view {α : Type} (v : Saddle → α) {F : Saddle → Saddle} (hF : ∀ x, v (F x) = v x) (j : Nat) :
    v ((modSaddle i F s).saddle j) = v (s.saddle j) := by
  rw [State.saddle, State.saddle, modSaddle_zth]
  simp only
  by_cases hj : j = i
  · subst hj
    by_cases hl : j < s.zth.saddles.length
    · rw [getD_modify_eq _ _ _ _ hl, hF]
    · rw [List.modify_eq_self (not_lt.1 hl)]
  · rw [getD_modify_ne _ _ _ _ _ hj]

/-! ## What the release of a context and of an input buffer leaves -/

/-- The fabric, the streams' outputs and the counters are none of a context's release. -/
theorem zth_freeContext (c : Nat) : (freeContext c s).zth = s.zth := by
  have hreturned (u : State) : (returnBlock c u).zth = u.zth := by rw [returnBlock_frame]
  unfold freeContext
  split
  · have hdropped : (dropWork c s).zth = (returnBlock c (giveBack (workCredits c s) s)).zth := rfl
    exact hdropped.trans (hreturned _)
  · rfl

theorem zth_freeContext? (c : Option Nat) : (freeContext? c s).zth = s.zth := by
  cases c with
  | none => rfl
  | some c => exact zth_freeContext c

theorem ctx?_freeContext? {c : Nat} (o : Option Nat) (h : o = some c) : (freeContext? o s).ctx? c = none := by
  rw [h]
  exact ctx?_freeContext_same s c

theorem counter_freeContext? (o : Option Nat) (k : Nat) : (freeContext? o s).counter k = s.counter k := by
  cases o with
  | none => rfl
  | some c => exact congrArg (fun v : ReleaseView => (kvGet v.ctr k).getD 0) (releaseView_freeContext s c)

/-- A message that holds no credit leaves nothing behind. -/
theorem leaveBuffer_none (h : m.hold = none) : leaveBuffer m s = s := by rw [leaveBuffer, h]

/-- What a Saddle holds to send, and in what order it numbers it. -/
def Saddle.sending (x : Saddle) : List Msg × List RetryFlit × Nat := (x.outq, x.retry, x.txSeq)

/-- A credit that is returned changes nothing of what a Saddle sends, and no context. -/
theorem leaveBuffer_keeps (j : Nat) : ((leaveBuffer m s).saddle j).sending = (s.saddle j).sending ∧
    (leaveBuffer m s).ctxs = s.ctxs := by
  have hidle (u : State) (k : Nat) : ((sendIdle k u).saddle j).sending = (u.saddle j).sending ∧ (sendIdle k u).ctxs = u.ctxs := by
    rw [saddle_sendIdle]
    refine ⟨rfl, ?_⟩
    unfold sendIdle
    split <;> rfl
  have hfreed (k : Nat) (F : List Nat → List Nat) :
      ((modSaddle k (fun x => { x with freed := F x.freed }) s).saddle j).sending = (s.saddle j).sending :=
    saddle_modSaddle_view Saddle.sending (F := fun x => { x with freed := F x.freed }) (fun _ => rfl) j
  unfold leaveBuffer
  split
  · exact ⟨rfl, rfl⟩
  · dsimp only
    split
    · exact ⟨rfl, rfl⟩
    · split
      · obtain ⟨hs, hc⟩ := hidle (modSaddle m.from_ (fun x => { x with freed := addAt x.freed m.vc m.slots }) s) m.from_
        exact ⟨hs.trans (hfreed _ _), hc⟩
      · exact ⟨rfl, rfl⟩

/-! ## The queues -/

theorem outq_queueOut (hi : i < s.zth.saddles.length) :
    ((queueOut i m s).saddle i).outq = (s.saddle i).outq ++ [{ m with since := s.now }] := by
  rw [queueOut, saddle_modSaddle_same hi]

/-- Taking the front message out of an input buffer leaves what the Saddles have to send. -/
theorem outq_popMsg (j : Nat) : ((popMsg i s).saddle j).outq = (s.saddle j).outq :=
  saddle_modSaddle_view Saddle.outq (F := fun x => { x with inq := x.inq.drop 1 }) (fun _ => rfl) j

/-- A message that is neither a group's, nor at its chip, nor spent, takes its deterministic route. -/
theorem forwardMsg_det {det mask : Nat} (hmc : msgMcast m.bytes = false) (hdst : msgDst m.bytes ≠ s.chipId)
    (hhops : msgHops m.bytes < 31) (had : msgAdaptive m.bytes = false) (hfrom : m.from_ ≠ 16)
    (hroute : kvGet s.zth.unicast (msgDst m.bytes) = some (det, mask)) :
    forwardMsg m s = queueOut det { m with bytes := overlay m.bytes 6 (beBytes 1 (msgHops m.bytes + 1)) } s := by
  have hr : routeMsg m s = (none, queueOut det { m with bytes := overlay m.bytes 6 (beBytes 1 (msgHops m.bytes + 1)) } s) := by
    rw [routeMsg]
    dsimp only
    rw [if_neg (by simp [hmc]), if_neg (fun h => hdst h.2), if_neg (fun h => absurd h.2 (by omega)), hroute]
    simp only [had, Bool.false_and, hopUp, if_neg hfrom]
    rfl
  rw [forwardMsg, hr]

/-! ## Violations (R331) -/

/-- What a refusal may do: it leaves each Saddle's count of violations, and counter `k`. -/
structure RefuseStep (k : Nat) (s t : State) : Prop where
  violations : ∀ j, (t.saddle j).violations = (s.saddle j).violations
  counter : t.counter k = s.counter k
  saddles : t.zth.saddles.length = s.zth.saddles.length

theorem RefuseStep.refl (k : Nat) (s : State) : RefuseStep k s s := ⟨fun _ => rfl, rfl, rfl⟩

theorem RefuseStep.trans {k : Nat} {s t u : State} (h : RefuseStep k s t) (h' : RefuseStep k t u) : RefuseStep k s u :=
  ⟨fun j => (h'.violations j).trans (h.violations j), h'.counter.trans h.counter, h'.saddles.trans h.saddles⟩

theorem refuseStep_count {k j : Nat} (h : k ≠ j) (n : Nat) : RefuseStep k s (count j n s) :=
  ⟨fun _ => by rw [saddle_count], counter_count_ne s h n, by rw [saddles_count]⟩

theorem refuseStep_raise {k : Nat} (h : k ≠ cEngineDropped) (c t : Nat) (d : List Byte) : RefuseStep k s (raise c t d s) :=
  ⟨fun _ => by rw [saddle_raise], counter_raise_ne h c t d, by rw [raise_frame]⟩

theorem refuseStep_queueOut (k : Nat) : RefuseStep k s (queueOut i m s) where
  violations := fun j => saddle_modSaddle_view Saddle.violations
    (F := fun x => { x with outq := x.outq ++ [{ m with since := s.now }] }) (fun _ => rfl) j
  counter := rfl
  saddles := by simp [queueOut]

theorem refuseStep_routeMsg {k : Nat} (h1 : k ≠ cZth 1) (h2 : k ≠ cZth 2) (m : Msg) : RefuseStep k s (routeMsg m s).2 := by
  have hdeliver (u : State) : RefuseStep k u (deliver m u) := ⟨fun _ => rfl, rfl, rfl⟩
  unfold routeMsg
  dsimp only
  split
  · split
    · exact refuseStep_count h2 1
    next mask here _ =>
      split
      · exact refuseStep_count h2 1
      · have hhere : RefuseStep k s (if here then deliver m s else s) := by
          split
          · exact hdeliver s
          · exact .refl k s
        split
        · exact hhere
        · split
          · exact hhere.trans (refuseStep_count h1 1)
          · exact foldl_keeps (fun t => RefuseStep k s t) _ (fun t j ht => ht.trans (refuseStep_queueOut k)) _ _ hhere
  · split
    · exact hdeliver s
    · split
      · exact refuseStep_count h1 1
      · split
        · exact refuseStep_count h2 1
        · exact refuseStep_queueOut k

theorem refuseStep_refuseMsg {k : Nat} (h1 : k ≠ cZth 1) (h2 : k ≠ cZth 2) (h3 : k ≠ cEngineDropped) (m : Msg) (r : Nat) :
    RefuseStep k s (refuseMsg m r s) := by
  unfold refuseMsg
  dsimp only
  split
  · exact .refl k s
  · split
    · unfold nakEvent
      split
      · exact refuseStep_raise h3 _ _ _
      · exact refuseStep_raise h3 _ _ _
    · exact refuseStep_routeMsg h1 h2 _

end

/-- Settles O40: the row of each message is its Saddle's queue and retry buffer after it. -/
theorem messagesLeaveByClassAndCredit : Obligations.MessagesLeaveByClassAndCredit := by
  intro s i m hs
  obtain ⟨hlen, -⟩ := saddles_of_shaped hs
  have hi : i.val < s.zth.saddles.length := by omega
  refine ⟨fun hnext hm hb hroom => ⟨credit_of_nextMessage hnext, ?_⟩, fun t1 hm hout hhold hsince hlate => ?_,
    fun det mask hfront hok hhold _ hfrom hmc _ hdst hhops had hroute hdet => ?_, fun r hfront hv hhold hfew => ?_, fun hfind => ?_⟩
  · obtain ⟨u, hu⟩ : ∃ u, u = modSaddle i (fun x => { x with
        outq := x.outq.erase m, retry := x.retry ++ dataFlits (s.saddle i) m
        txSeq := (x.txSeq + (dataFlits (s.saddle i) m).length) % 65536, sent := addAt x.sent m.vc m.slots
        ackSince := if x.retry.isEmpty then s.time.time else x.ackSince }) s := ⟨_, rfl⟩
    have hexec : exec (.messageSend i) s =
        .next (leaveBuffer m (freeContext? m.ctx (sendData i (dataFlits (s.saddle i) m) u))) := by
      have hrow : exec (.messageSend i) s = execMessageSend i s := rfl
      rw [hrow, execMessageSend]
      dsimp only
      rw [hnext, hu]
      dsimp only
      rw [if_neg]
      rw [hb]
      simp only [hm, ne_eq, not_true_eq_false, Option.isSome_none, Bool.false_eq_true, false_or]
      omega
    obtain ⟨hsending, hctxs⟩ := leaveBuffer_keeps (s := freeContext? m.ctx (sendData i (dataFlits (s.saddle i) m) u)) (m := m) i
    have hzth : (freeContext? m.ctx (sendData i (dataFlits (s.saddle i) m) u)).zth = u.zth := by
      rw [zth_freeContext?, sendData_frame]
    have hx : ((freeContext? m.ctx (sendData i (dataFlits (s.saddle i) m) u)).saddle i).sending = _ :=
      congrArg (fun z : ZthSt => (z.saddles.getD i Saddle.reset).sending) hzth
    have hux : (u.saddle i).sending = ((s.saddle i).outq.erase m, (s.saddle i).retry ++ dataFlits (s.saddle i) m,
        ((s.saddle i).txSeq + (dataFlits (s.saddle i) m).length) % 65536) := by
      rw [hu, saddle_modSaddle_same hi]
      rfl
    have hall := (hsending.trans hx).trans hux
    simp only [Saddle.sending, Prod.mk.injEq] at hall
    obtain ⟨hq, hretry, hseq⟩ := hall
    refine ⟨_, hexec, hq, hretry, hseq, fun c hc => ?_⟩
    rw [State.ctx?, hctxs]
    exact ctx?_freeContext? m.ctx hc
  · obtain ⟨u, hu⟩ : ∃ u, u = freeContext? m.ctx (modSaddle i (fun x => { x with outq := [] }) (count (cZth 0) 1 s)) := ⟨_, rfl⟩
    have hexec : exec (.linkHoldExpiry i) s = .next (raise 0x0902 0xFF (leBytes 1 i ++ zeros 3 ++ leBytes 4 1) u) := by
      have hrow : exec (.linkHoldExpiry i) s = execLinkHoldExpiry i s := rfl
      rw [hrow, execLinkHoldExpiry]
      dsimp only
      rw [hout, hsince, if_neg]
      · simp only [List.foldl_cons, List.foldl_nil, List.length_cons, List.length_nil, Nat.zero_add]
        rw [leaveBuffer_none hhold, hu]
      · simp only [hm, List.isEmpty_cons, Bool.false_eq_true, false_or, Option.getD_some]
        omega
    have hux : u.saddle i = { s.saddle i with outq := [] } := by
      have hzth := zth_freeContext? (s := modSaddle i (fun x => { x with outq := [] }) (count (cZth 0) 1 s)) m.ctx
      rw [← hu] at hzth
      rw [State.saddle, hzth]
      exact (saddle_modSaddle_same (by rw [saddles_count]; exact hi) _).trans (by rw [saddle_count])
    have hne : cZth 0 ≠ cEngineDropped := by decide
    refine ⟨_, hexec, ?_, ?_, fun c hc => ?_⟩
    · rw [saddle_raise, hux]
    · rw [counter_raise_ne hne, hu, counter_freeContext?, counter_modSaddle, counter_count, if_pos ⟨rfl, by decide⟩]
    · rw [raise_frame, hu]
      exact ctx?_freeContext? m.ctx hc
  · have hexec : exec (.messageForward i) s = .next (forwardMsg m (popMsg i s)) := by
      have hrow : exec (.messageForward i) s = execMessageForward i s := rfl
      rw [hrow, execMessageForward, hfront]
      dsimp only
      rw [if_neg (by simp [hok, hmc, hdst]), leaveBuffer_none hhold]
    rw [forwardMsg_det (s := popMsg i s) hmc (by exact hdst) hhops had hfrom (by exact hroute)] at hexec
    refine ⟨_, hexec, ?_⟩
    have hdetlen : det < (popMsg i s).zth.saddles.length := by
      rw [popMsg]
      simp
      omega
    rw [outq_queueOut hdetlen, outq_popMsg]
    rfl
  · obtain ⟨u, hu⟩ : ∃ u, u = raise 0x0904 0xFF
        (leBytes 1 i ++ leBytes 1 (msgOp m.bytes) ++ leBytes 1 r ++ leBytes 1 (msgSrc m.bytes))
        (refuseMsg m r (popMsg i s)) := ⟨_, rfl⟩
    have hne (n : Nat) (hn : n < 0x4800) : cSaddle i 7 ≠ n := by unfold cSaddle; omega
    have hpop : RefuseStep (cSaddle i 7) s (popMsg i s) := by
      refine ⟨fun j => ?_, rfl, by simp [popMsg]⟩
      exact saddle_modSaddle_view Saddle.violations (F := fun x => { x with inq := x.inq.drop 1 }) (fun _ => rfl) j
    have hstep : RefuseStep (cSaddle i 7) s u := by
      rw [hu]
      exact (hpop.trans (refuseStep_refuseMsg (hne _ (by decide)) (hne _ (by decide)) (hne _ (by decide)) m r)).trans
        (refuseStep_raise (hne _ (by decide)) _ _ _)
    have hulen : i.val < u.zth.saddles.length := by rw [hstep.saddles]; exact hi
    obtain ⟨w, hw⟩ : ∃ w, w = modSaddle i (fun x => { x with violations := x.violations + 1 }) (count (cSaddle i 7) 1 u) :=
      ⟨_, rfl⟩
    have hwx : (w.saddle i).violations = (s.saddle i).violations + 1 := by
      rw [hw, saddle_modSaddle_same (by rw [saddles_count]; exact hulen), saddle_count, hstep.violations]
    have hexec : exec (.messageViolation i) s = .next w := by
      have hrow : exec (.messageViolation i) s = execMessageViolation i s := rfl
      rw [hrow, execMessageViolation, hfront]
      dsimp only
      rw [hv]
      dsimp only
      rw [leaveBuffer_none hhold, ← hu, ← hw, if_neg (by omega)]
    refine ⟨_, hexec, hwx, ?_⟩
    rw [hw, counter_modSaddle, counter_count, if_pos ⟨rfl, by decide⟩, hstep.counter]
  · obtain ⟨m', hm'⟩ : ∃ m' : Msg, m' = { m with bytes := overlay m.bytes 5 (beBytes 1 (msgFlags m.bytes - 2)), fixed := true } :=
      ⟨_, rfl⟩
    have hexec : exec (.adaptiveRouteFallback i) s =
        .next (queueOut (((kvGet s.zth.unicast (msgDst m.bytes)).map (·.1)).getD 0) m'
          (modSaddle i (fun x => { x with outq := x.outq.erase m }) s)) := by
      have hrow : exec (.adaptiveRouteFallback i) s = execAdaptiveRouteFallback i s := rfl
      rw [hrow, execAdaptiveRouteFallback, hfind, hm']
    refine ⟨_, hexec, fun det mask hroute hdet => ⟨{ m' with since := s.now }, ?_, by rw [hm'], rfl, by rw [hm']⟩⟩
    have hdetlen : det < (modSaddle i (fun x => { x with outq := x.outq.erase m }) s).zth.saddles.length := by
      simp
      omega
    rw [hroute, Option.map_some, Option.getD_some, outq_queueOut hdetlen]
    exact List.mem_append_right _ (List.mem_singleton.2 rfl)

end Sys2Proof.Machine
end

section
/-! PROOFS. Detour searches step and end (O31). -/

namespace Sys2Proof.Machine

/-! ## What the release of contexts leaves of the searches -/

/-- A change that frees contexts keeps the searches and the counters, and takes no context. -/
structure Freed (s t : State) : Prop where
  searches : t.searches = s.searches
  counter : ∀ k, t.counter k = s.counter k
  ctx : ∀ c, s.ctx? c = none → t.ctx? c = none

section
variable {s t u : State}

theorem Freed.refl (s : State) : Freed s s := ⟨rfl, fun _ => rfl, fun _ h => h⟩

theorem Freed.trans (h : Freed s t) (h' : Freed t u) : Freed s u where
  searches := h'.searches.trans h.searches
  counter k := (h'.counter k).trans (h.counter k)
  ctx c hc := h'.ctx c (h.ctx c hc)

theorem ctx?_modCtx_none {c d : Nat} (f : RecCtx → RecCtx) (h : s.ctx? c = none) : (modCtx d f s).ctx? c = none := by
  rw [ctx?_modCtx, h]
  split <;> rfl

theorem ctx?_returnBlock_none {c d : Nat} (h : s.ctx? c = none) : (returnBlock d s).ctx? c = none := by
  unfold returnBlock
  split
  · exact h
  · split
    · exact h
    · exact ctx?_modCtx_none _ h

theorem ctx?_freeContext_none {c d : Nat} (h : s.ctx? c = none) : (freeContext d s).ctx? c = none := by
  unfold freeContext
  split
  · have hdropped : (dropWork d s).ctx? c = none :=
      ctx?_modCtx_none (fun r => { r with prog := none, tableReads := [] })
        (ctx?_returnBlock_none (s := giveBack (workCredits d s) s) h)
    have hfreed : kvGet (kvDel (dropWork d s).ctxs d) c = none := by
      rw [kvGet_kvDel]
      split
      · rfl
      · exact hdropped
    exact hfreed
  · exact h

theorem searches_freeContext (c : Nat) : (freeContext c s).searches = s.searches := by
  have hreturned (u : State) : (returnBlock c u).searches = u.searches := by rw [returnBlock_frame]
  unfold freeContext
  split
  · have hdropped : (dropWork c s).searches = (returnBlock c (giveBack (workCredits c s) s)).searches := rfl
    exact hdropped.trans (hreturned _)
  · rfl

theorem freed_freeContext (c : Nat) : Freed s (freeContext c s) where
  searches := searches_freeContext c
  counter k := counter_freeContext? (some c) k
  ctx _ h := ctx?_freeContext_none h

theorem freed_dropCandidates (slot : Nat) : Freed s (dropCandidates slot s) := by
  have hfold := foldl_keeps (Freed s) (fun s (p : Nat × RecCtx) => freeContext p.1 s)
    (fun _ p ht => ht.trans (freed_freeContext p.1))
    (s.ctxs.filter (fun p => match p.2.src with | .detour n _ => n == slot | _ => false)) s (Freed.refl s)
  exact ⟨hfold.searches, hfold.counter, hfold.ctx⟩

theorem freed_stageAnswers (g : Nat) : Freed s (stageAnswers g s) :=
  foldl_keeps (Freed s) (fun s c => freeContext c s) (fun _ c ht => ht.trans (freed_freeContext c)) _ _
    ⟨rfl, fun _ => rfl, fun _ h => h⟩

theorem freed_ringAnswer (g n e : Nat) (reason : Bool) (bs : List Byte) (c : Option Nat) :
    Freed s (ringAnswer g n e reason bs c s) :=
  Freed.trans (t := modStream g (fun x => { x with answers := x.answers ++ [⟨n, e, reason, bs, c, false, false⟩] }) s)
    ⟨rfl, fun _ => rfl, fun _ h => h⟩ (freed_stageAnswers g)

/-! ## The end of a search -/

/-- Two Detour counters of different numbers are different, whatever their tenants. -/
theorem cTen_tDtr_ne {t u i j : Nat} (hi : i < 8) (hj : j < 8) (h : i ≠ j) : cTen t (tDtr i) ≠ cTen u (tDtr j) := by
  unfold cTen tDtr
  omega

/-- A search that ends gives up its slot, and counts for its outcome and for its time limit. -/
theorem endSearch_some {slot : Nat} {x : Search} (hx : kvGet s.searches slot = some x) (limit : Bool) :
    kvGet (endSearch slot limit s).searches slot = none ∧
    (∀ c, s.ctx? c = none → (endSearch slot limit s).ctx? c = none) ∧
    (∀ k, k ≠ cTen x.tenant (tDtr 1) → k ≠ cTen x.tenant (tDtr 2) → (endSearch slot limit s).counter k =
      if limit = true ∧ k = cTen x.tenant (tDtr 7) then (s.counter k + 1) % 2 ^ 64 else s.counter k) := by
  obtain ⟨u, hu⟩ : ∃ u, u = dropCandidates slot { s with searches := kvDel s.searches slot } := ⟨_, rfl⟩
  obtain ⟨o, ho⟩ : ∃ o, o = (if x.bestReached then 1 else 2) := ⟨_, rfl⟩
  obtain ⟨v, hv⟩ : ∃ v, v = count (cTen x.tenant (tDtr o)) 1 u := ⟨_, rfl⟩
  obtain ⟨w, hw⟩ : ∃ w, w = if limit then count (cTen x.tenant (tDtr 7)) 1 v else v := ⟨_, rfl⟩
  have hend : Freed w (endSearch slot limit s) := by
    simp only [endSearch, hx]
    rw [← hu, ← ho, ← hv, ← hw]
    split
    · exact freed_ringAnswer ..
    · exact ⟨rfl, fun _ => rfl, fun _ h => h⟩
  have hcut : Freed { s with searches := kvDel s.searches slot } u := hu ▸ freed_dropCandidates slot
  have hwf : w = { u with ctr := w.ctr } := by
    rw [hw]
    split
    · rw [count_frame, hv, count_frame]
    · rw [hv, count_frame]
  refine ⟨?_, fun c hc => ?_, fun k hk1 hk2 => ?_⟩
  · rw [hend.searches, hwf]
    show kvGet u.searches slot = none
    rw [hcut.searches]
    exact (kvGet_kvDel ..).trans (if_pos rfl)
  · refine hend.ctx c ?_
    rw [hwf]
    exact hcut.ctx c hc
  · have hk : k ≠ cTen x.tenant (tDtr o) := by
      rw [ho]
      split
      · exact hk1
      · exact hk2
    have hvk : v.counter k = s.counter k := by
      rw [hv, counter_count, if_neg (fun h => hk h.1), hcut.counter]
      rfl
    rw [hend.counter, hw]
    cases limit with
    | false => rw [if_neg (by decide), if_neg (by simp), hvk]
    | true =>
      rw [if_pos rfl, counter_count, hvk]
      by_cases h7 : k = cTen x.tenant (tDtr 7)
      · rw [if_pos ⟨h7, by decide⟩, if_pos ⟨rfl, h7⟩]
      · rw [if_neg (fun h => h7 h.1), if_neg (fun h => h7 h.2)]

/-- A search that ends keeps the counters of steps and of evaluations. -/
theorem counter_endSearch {slot : Nat} {x : Search} (hx : kvGet s.searches slot = some x) (limit : Bool) (t : Nat) {i : Nat}
    (hi : i = 3 ∨ i = 4) : (endSearch slot limit s).counter (cTen t (tDtr i)) = s.counter (cTen t (tDtr i)) := by
  have hne (j : Nat) (hj : j = 1 ∨ j = 2 ∨ j = 7) : cTen t (tDtr i) ≠ cTen x.tenant (tDtr j) :=
    cTen_tDtr_ne (by omega) (by omega) (by omega)
  rw [(endSearch_some hx limit).2.2 _ (hne 1 (.inl rfl)) (hne 2 (.inr (.inl rfl))), if_neg (fun h => hne 7 (.inr (.inr rfl)) h.2)]

end

/-! ## A step's choice -/

section
variable {s : State} {slot : Nat} {d : DetourCfg} {x z : Search}

/-- A visit keeps what a search is about, where it stands and its temperature. -/
theorem visit_keeps (d : DetourCfg) (offs : List Int) (y : Nat) (x : Search) :
    (visit d offs y x).tenant = x.tenant ∧ (visit d offs y x).step = x.step ∧ (visit d offs y x).temp = x.temp ∧
      (visit d offs y x).offs = x.offs := by
  unfold visit
  dsimp only
  split
  · exact ⟨rfl, rfl, rfl, rfl⟩
  · split
    · exact ⟨rfl, rfl, rfl, rfl⟩
    · split <;> exact ⟨rfl, rfl, rfl, rfl⟩

/-- The moves of a choice take the search one step on, with the next temperature. -/
theorem takeMoves_steps (d : DetourCfg) (x : Search) :
    (takeMoves d x).1.tenant = x.tenant ∧ (takeMoves d x).1.step = x.step + 1 ∧
      (takeMoves d x).1.temp = nextTemp d x.temp := by
  unfold takeMoves
  dsimp only
  split
  · obtain ⟨htenant, hstep, htemp, -⟩ := visit_keeps d _ _ _
    exact ⟨htenant, hstep, htemp⟩
  · exact ⟨rfl, rfl, rfl⟩
  · exact ⟨rfl, rfl, rfl⟩

/-- A begun step stands in the search's slot with its candidates, or the search ends with none live. -/
theorem beginStep_search (slot : Nat) (d : DetourCfg) (x : Search) (s : State) :
    (∀ y, kvGet (beginStep slot d x s).searches slot = some y → y = { x with cands := candidatesOf d x.slots x.offs }) ∧
      (beginStep slot d x s).counter (cTen x.tenant (tDtr 3)) = s.counter (cTen x.tenant (tDtr 3)) := by
  obtain ⟨z, hz⟩ : ∃ z, z = { x with cands := candidatesOf d x.slots x.offs } := ⟨_, rfl⟩
  obtain ⟨u, hu⟩ : ∃ u, u = { s with searches := kvSet s.searches slot z } := ⟨_, rfl⟩
  have hset : kvGet u.searches slot = some z := by
    rw [hu]
    exact (kvGet_kvSet ..).trans (if_pos rfl)
  have hbegin : beginStep slot d x s = if z.cands.any (·.live) then requestCands slot z u else endSearch slot false u := by
    rw [hu, hz]
    rfl
  have hctr : u.counter (cTen x.tenant (tDtr 3)) = s.counter (cTen x.tenant (tDtr 3)) := by
    rw [hu]
    rfl
  rw [hbegin, ← hz]
  split
  · exact ⟨fun y hy => Option.some.inj (hy.symm.trans hset), hctr⟩
  · exact ⟨fun y hy => (nomatch (endSearch_some hset false).1.symm.trans hy),
      (counter_endSearch hset false x.tenant (.inl rfl)).trans hctr⟩

/-- The search with the combined state's result visited. -/
def settled (d : DetourCfg) (x : Search) : Search :=
  match x.recheck with
  | some (some y) => visit d x.offs y { x with y := y, recheck := none }
  | _ => x

theorem settled_keeps (d : DetourCfg) (x : Search) :
    (settled d x).tenant = x.tenant ∧ (settled d x).step = x.step ∧ (settled d x).temp = x.temp := by
  unfold settled
  split
  · obtain ⟨htenant, hstep, htemp, -⟩ := visit_keeps d x.offs _ _
    exact ⟨htenant, hstep, htemp⟩
  · exact ⟨rfl, rfl, rfl⟩

/-- What a choice leaves once its moves `r` are taken: the step and the moves it skipped are counted, and the search ends or
steps on. -/
def chosen (slot : Nat) (d : DetourCfg) (x : Search) (r : Search × Nat) (limit : Bool) (s : State) : State :=
  let v := count (cTen x.tenant (tDtr 3)) 1 (count (cTen x.tenant (tDtr 6)) r.2 s)
  let w := { v with searches := kvSet v.searches slot r.1 }
  if d.steps ≤ r.1.step || patienceOver d r.1 then endSearch slot false w
  else if limit then endSearch slot true w else beginStep slot d r.1 w

theorem stepChoice_eq (slot : Nat) (d : DetourCfg) (x : Search) (limit : Bool) (s : State) :
    stepChoice slot d x limit s = if patienceOver d (settled d x) then
        endSearch slot false { s with searches := kvSet s.searches slot (settled d x) }
      else chosen slot d (settled d x) (takeMoves d (settled d x)) limit s := rfl

/-- With the patience run out the search ends at its choice. -/
theorem stepChoice_patience (hz : patienceOver d (settled d x) = true) (limit : Bool) :
    kvGet (stepChoice slot d x limit s).searches slot = none := by
  rw [stepChoice_eq, if_pos hz]
  exact (endSearch_some ((kvGet_kvSet ..).trans (if_pos rfl)) false).1

/-- Within its patience the choice counts a step, and the search ends with its last step or its time limit, or stands one
step on. -/
theorem stepChoice_steps (hz : patienceOver d (settled d x) = false) (limit : Bool) :
    (stepChoice slot d x limit s).counter (cTen x.tenant (tDtr 3)) = (s.counter (cTen x.tenant (tDtr 3)) + 1) % 2 ^ 64 ∧
    (d.steps ≤ x.step + 1 ∨ limit = true → kvGet (stepChoice slot d x limit s).searches slot = none) ∧
    (∀ y, kvGet (stepChoice slot d x limit s).searches slot = some y → y.step = x.step + 1 ∧ y.temp = nextTemp d x.temp ∧
      y.offs = (takeMoves d (settled d x)).1.offs) := by
  obtain ⟨z, hzdef⟩ : ∃ z, z = settled d x := ⟨_, rfl⟩
  obtain ⟨hten, hstep, htemp⟩ := settled_keeps d x
  obtain ⟨hten', hstep', htemp'⟩ := takeMoves_steps d z
  obtain ⟨r, hr⟩ : ∃ r, r = takeMoves d z := ⟨_, rfl⟩
  rw [← hr] at hten' hstep' htemp'
  rw [← hzdef] at hz hten hstep htemp
  obtain ⟨v, hv⟩ : ∃ v, v = count (cTen z.tenant (tDtr 3)) 1 (count (cTen z.tenant (tDtr 6)) r.2 s) := ⟨_, rfl⟩
  obtain ⟨w, hw⟩ : ∃ w, w = { v with searches := kvSet v.searches slot r.1 } := ⟨_, rfl⟩
  have hchoice : stepChoice slot d x limit s =
      if d.steps ≤ r.1.step || patienceOver d r.1 then endSearch slot false w
      else if limit then endSearch slot true w else beginStep slot d r.1 w := by
    rw [stepChoice_eq, ← hzdef, if_neg (by rw [hz]; decide), ← hr, hw, hv, chosen]
  have hset : kvGet w.searches slot = some r.1 := by
    rw [hw]
    exact (kvGet_kvSet ..).trans (if_pos rfl)
  have hcounted : w.counter (cTen x.tenant (tDtr 3)) = (s.counter (cTen x.tenant (tDtr 3)) + 1) % 2 ^ 64 := by
    have hsame : w.counter (cTen x.tenant (tDtr 3)) = v.counter (cTen x.tenant (tDtr 3)) := by
      rw [hw]
      rfl
    rw [hsame, hv, hten, counter_count, if_pos ⟨rfl, by decide⟩, counter_count, if_neg (fun h => cTen_tDtr_ne (by decide) (by decide) (by decide) h.1)]
  have htenr : r.1.tenant = x.tenant := hten'.trans hten
  have hended (limit : Bool) :
      (endSearch slot limit w).counter (cTen x.tenant (tDtr 3)) = (s.counter (cTen x.tenant (tDtr 3)) + 1) % 2 ^ 64 :=
    (counter_endSearch hset limit x.tenant (.inl rfl)).trans hcounted
  have hgone (limit : Bool) : kvGet (endSearch slot limit w).searches slot = none := (endSearch_some hset limit).1
  rw [hchoice, ← hzdef, ← hr]
  by_cases hlast : (decide (d.steps ≤ r.1.step) || patienceOver d r.1) = true
  · rw [if_pos hlast]
    exact ⟨hended false, fun _ => hgone false, fun y hy => nomatch (hgone false).symm.trans hy⟩
  · rw [if_neg hlast]
    cases limit with
    | true =>
      rw [if_pos rfl]
      exact ⟨hended true, fun _ => hgone true, fun y hy => nomatch (hgone true).symm.trans hy⟩
    | false =>
      rw [if_neg (by decide)]
      obtain ⟨hbegun, hkept⟩ := beginStep_search slot d r.1 w
      refine ⟨by rw [← htenr, hkept, htenr, hcounted], fun h => ?_, fun y hy => ?_⟩
      · have hsteps : d.steps ≤ x.step + 1 := h.resolve_right (by decide)
        rw [hstep', hstep] at hlast
        exact absurd (by simp [hsteps]) hlast
      · rw [hbegun y hy]
        exact ⟨by rw [← hstep, ← hstep'], by rw [← htemp, ← htemp'], rfl⟩

end

/-! ## The result of a candidate -/

section
variable {s : State} {slot : Fin 16} {x : Search} {d : DetourCfg} {ctx : CtxId} {r : RecCtx} {m : Model} {k : Nat}

/-- What a candidate's result does with its search, once its context is free and the evaluation counted. -/
def candidateEffect (slot : Nat) (x : Search) (k y : Nat) (late poi : Bool) (s : State) : State :=
  if late then s
  else if poi then endSearch slot false s
  else { s with searches := kvSet s.searches slot (if k = recheckCand then { x with recheck := some (some y) }
    else { x with cands := x.cands.modify k (fun c => { c with y := some y }) }) }

theorem exec_candidateResult (hx : kvGet s.searches slot = some x) (hd : searchCfg s x = some d) (hr : s.ctx? ctx = some r)
    (hsrc : r.src = .detour slot k) (hm : s.model? r.model = some m) (hfused : r.fused = true) :
    exec (.candidateResult ctx) s = .next (candidateEffect slot x k (resultOf m.image r.margins x.req.channel)
      (limitPast s d x) (r.results.any (fun v => v.flags &&& flagPoi != 0))
      (count (cTen r.tenant (tDtr 4)) 1 (freeContext ctx s))) := by
  have hrow : exec (.candidateResult ctx) s = execCandidateResult ctx s := rfl
  rw [hrow, execCandidateResult, hr]
  dsimp only
  rw [hsrc, hm]
  dsimp only
  rw [hfused, hx]
  dsimp only
  rw [hd]
  simp only [Bool.not_true, Bool.false_eq_true, if_false, Option.elim_some, candidateEffect]
  by_cases hlate : limitPast s d x = true
  · simp [hlate]
  · by_cases hpoi : r.results.any (fun v => v.flags &&& flagPoi != 0) = true
    · simp [hlate, hpoi]
    · simp [hlate, hpoi]

/-- A result that comes late leaves the searches, one with POI ends its search, and any other stands in it. -/
theorem candidateEffect_search (hx : kvGet s.searches slot = some x) (k y : Nat) (late poi : Bool) :
    (late = true → (candidateEffect slot x k y late poi s).searches = s.searches) ∧
    (late = false → poi = true → kvGet (candidateEffect slot x k y late poi s).searches slot = none) ∧
    (late = false → poi = false → kvGet (candidateEffect slot x k y late poi s).searches slot =
      some (if k = recheckCand then { x with recheck := some (some y) }
        else { x with cands := x.cands.modify k (fun c => { c with y := some y }) })) := by
  refine ⟨?_, ?_, ?_⟩
  · rintro rfl
    rfl
  · rintro rfl rfl
    exact (endSearch_some hx false).1
  · rintro rfl rfl
    exact (kvGet_kvSet ..).trans (if_pos rfl)

/-- Whatever a result does, a free context stays free and the evaluations stand as counted. -/
theorem candidateEffect_keeps (hx : kvGet s.searches slot = some x) (k y : Nat) (late poi : Bool) :
    (∀ c, s.ctx? c = none → (candidateEffect slot x k y late poi s).ctx? c = none) ∧
    (∀ t, (candidateEffect slot x k y late poi s).counter (cTen t (tDtr 4)) = s.counter (cTen t (tDtr 4))) := by
  unfold candidateEffect
  split
  · exact ⟨fun _ h => h, fun _ => rfl⟩
  · split
    · exact ⟨(endSearch_some hx false).2.1, fun t => counter_endSearch hx false t (.inr rfl)⟩
    · exact ⟨fun _ h => h, fun _ => rfl⟩

end

/-- Settles O31: by the end of a search, which gives up its slot and counts only for its outcome and its time limit, and by
the choice of a step, which counts and leads on to the next step unless the search ends. -/
theorem detourSearchesStepAndEnd : Obligations.DetourSearchesStepAndEnd := by
  unfold Obligations.DetourSearchesStepAndEnd
  intro s slot x z d hx hd hz
  have hzs : z = settled d x := hz
  subst hzs
  have hchoice : exec (.moveChoice slot) s =
      if stepReady x then .next (stepChoice slot d x (limitPast s d x) s) else .next s := by
    have hrow : exec (.moveChoice slot) s = execMoveChoice slot s := rfl
    rw [hrow, execMoveChoice, hx]
    dsimp only
    rw [hd]
  have hlimit : exec (.detourTimeLimit slot) s =
      if !limitPast s d x then .next s else if stepReady x then .next (stepChoice slot d x true s)
      else .next (endSearch slot true s) := by
    have hrow : exec (.detourTimeLimit slot) s = execDetourTimeLimit slot s := rfl
    rw [hrow, execDetourTimeLimit, hx]
    dsimp only
    rw [hd]
  refine ⟨fun ctx r m k hr hsrc hm hfused => ?result, fun h => ?waits, fun h hp => ?patience, fun h hp => ?steps,
    fun h => ?early, fun h hready => ?expires, fun h hready => ?choice⟩
  case result =>
    obtain ⟨u, hu⟩ : ∃ u, u = count (cTen r.tenant (tDtr 4)) 1 (freeContext ctx s) := ⟨_, rfl⟩
    have hfree := freed_freeContext (s := s) ctx
    have husearch : u.searches = s.searches := by rw [hu, searches_count, hfree.searches]
    have hgone : u.ctx? ctx = none := by rw [hu, ctx?_count, ctx?_freeContext_same]
    have hcounted : u.counter (cTen r.tenant (tDtr 4)) = (s.counter (cTen r.tenant (tDtr 4)) + 1) % 2 ^ 64 := by
      rw [hu, counter_count, if_pos ⟨rfl, by decide⟩, hfree.counter]
    refine ⟨_, exec_candidateResult hx hd hr hsrc hm hfused, ?_⟩
    rw [← hu]
    have hux : kvGet u.searches slot = some x := by rw [husearch, hx]
    obtain ⟨hlate, hpoi, hvalue⟩ := candidateEffect_search hux k (resultOf m.image r.margins x.req.channel)
      (limitPast s d x) (r.results.any (fun v => v.flags &&& flagPoi != 0))
    obtain ⟨hctx, hcount⟩ := candidateEffect_keeps hux k (resultOf m.image r.margins x.req.channel)
      (limitPast s d x) (r.results.any (fun v => v.flags &&& flagPoi != 0))
    exact ⟨hctx _ hgone, (hcount _).trans hcounted, fun h => (hlate h).trans husearch, hpoi, hvalue⟩
  case waits => rw [hchoice, h]; rfl
  case patience => exact ⟨_, by rw [hchoice, h]; rfl, stepChoice_patience hp _⟩
  case steps => exact ⟨_, by rw [hchoice, h]; rfl, stepChoice_steps hp _⟩
  case early => rw [hlimit, h]; rfl
  case expires =>
    obtain ⟨hgone, -, hcount⟩ := endSearch_some hx true
    refine ⟨_, by rw [hlimit, h, hready]; rfl, hgone, ?_⟩
    rw [hcount _ (cTen_tDtr_ne (by decide) (by decide) (by decide)) (cTen_tDtr_ne (by decide) (by decide) (by decide)),
      if_pos ⟨rfl, rfl⟩]
  case choice =>
    refine ⟨_, by rw [hlimit, h, hready]; rfl, ?_, fun hp => (stepChoice_steps hp true).1⟩
    cases hp : patienceOver d (settled d x) with
    | true => exact stepChoice_patience hp true
    | false => exact (stepChoice_steps hp true).2.1 (.inr rfl)

end Sys2Proof.Machine
end

section
/-! PROOFS. Admission and pass bind (O24). -/

namespace Sys2Proof.Machine

/-! ## Admission at step 18 -/

section
variable {s v : State} {ctx : CtxId} {r : RecCtx} {m : Model}

/-- A record that stands first in its pipeline's queue, or came to a member, is taken in from the queue it leaves. -/
theorem exec_dispatcherAdmission {u : State} (hu : u = fillDispatch s) (hr : u.ctx? ctx = some r) (hm : u.model? r.model = some m)
    (hend : r.ended = none)
    (hv : (isMember r = true ∧ r.state = .signpost ∧ v = u) ∨
      (isMember r = false ∧ firstInQueue u ctx r = true ∧ multicastWaits u ctx = false ∧ v = { u with
        disp := { u.disp with inq := u.disp.inq.filter (· != ctx.val) }, returned := u.returned ++ [.disp (pipeOf u r)] })) :
    exec (.dispatcherAdmission ctx) s = .next (takeIn ctx r m v) := by
  have hrow : exec (.dispatcherAdmission ctx) s = execDispatcherAdmission ctx s := rfl
  rw [hrow, execDispatcherAdmission, ← hu, hr, Option.bind_some, hm, Option.map_some]
  dsimp only
  rw [hend, Option.isSome_none, if_neg Bool.false_ne_true]
  rcases hv with ⟨hmember, hstate, rfl⟩ | ⟨hmember, hfirst, hwaits, rfl⟩
  · rw [if_pos hmember, if_pos hstate]
  · rw [if_neg (by simp [hmember]), if_pos (by simp [hfirst, hwaits])]
    rfl

/-- A record leaves its queue and changes nothing that its admission reads. -/
theorem queue_left {u : State} (hv : (isMember r = true ∧ r.state = .signpost ∧ v = u) ∨
      (isMember r = false ∧ firstInQueue u ctx r = true ∧ multicastWaits u ctx = false ∧ v = { u with
        disp := { u.disp with inq := u.disp.inq.filter (· != ctx.val) }, returned := u.returned ++ [.disp (pipeOf u r)] })) :
    ∃ i q, v = { u with disp := { u.disp with inq := i }, returned := q } := by
  rcases hv with ⟨-, -, rfl⟩ | ⟨-, -, -, rfl⟩
  · exact ⟨v.disp.inq, v.returned, rfl⟩
  · exact ⟨_, _, rfl⟩

theorem latencyTick_queue (u : State) (i : List Nat) (q : List Credit) (m : Model) :
    latencyTick { u with disp := { u.disp with inq := i }, returned := q } m = latencyTick u m := rfl

/-- One more record of a model stands admitted to a tick. -/
theorem admittedIn_admitTo (m : Model) (k : Nat) (s : State) : admittedIn (admitTo m k s) m k = admittedIn s m k + 1 := by
  have hrest (l : List (Nat × Nat × Nat)) :
      (l.filter (fun a => !(a.1 == m.id && a.2.1 == k))).filter (fun a => a.1 == m.id && a.2.1 == k) = [] := by
    rw [List.filter_filter, List.filter_eq_nil_iff]
    intro a _ ha
    cases h : (a.1 == m.id && a.2.1 == k) <;> simp [h] at ha
  have hadded : admittedIn (admitTo m k s) m k =
      ((((s.disp.admittedAt.filter (fun a => !(a.1 == m.id && a.2.1 == k))) ++
        [(m.id, k, admittedIn s m k + 1)]).filter (fun a => a.1 == m.id && a.2.1 == k)).map (fun a => a.2.2)).sum := rfl
  rw [hadded, List.filter_append, hrest]
  simp

/-- What an admission leaves in a record and in the order of admission. -/
theorem passAdmission_spec {c : Nat} (hr : s.ctx? c = some r) (tick : Option Nat) :
    (passAdmission c r tick s).ctx? c =
      some { r with state := .awaiting, admitted := tick, prog := none, place := s.disp.nextPlace } ∧
    (passAdmission c r tick s).disp = { s.disp with nextPlace := s.disp.nextPlace + 1 } ∧
    (passAdmission c r tick s).returned = s.returned ∧
    (passAdmission c r tick s).counter (cMls 0) = s.counter (cMls 0) := by
  have hne : cMls 0 ≠ cPrt r.reply.port pRecords := by
    unfold cMls cPrt
    omega
  obtain ⟨u, hu⟩ : ∃ u, u = if isEthernet r then count (cPrt r.reply.port pRecords) 1 s else s := ⟨_, rfl⟩
  have hframe : u = { s with ctr := u.ctr } := by
    rw [hu]
    split
    · exact count_frame _ _ s
    · rfl
  have hctr : u.counter (cMls 0) = s.counter (cMls 0) := by
    rw [hu]
    split
    · rw [counter_count, if_neg (fun h => hne h.1)]
    · rfl
  have hur : u.ctx? c = some r := by
    rw [hframe]
    exact hr
  have hdisp : u.disp = s.disp := by rw [hframe]
  have hpass : passAdmission c r tick s = modDisp (fun d => { d with nextPlace := d.nextPlace + 1 })
      (modCtx c (fun r => { r with state := .awaiting, admitted := tick, prog := none, place := u.disp.nextPlace }) u) := by
    rw [hu]
    rfl
  rw [hpass]
  refine ⟨?_, congrArg (fun d : DispSt => { d with nextPlace := d.nextPlace + 1 }) hdisp, ?_, hctr⟩
  · have hset := ctx?_modCtx_same hur
      (fun r => { r with state := .awaiting, admitted := tick, prog := none, place := u.disp.nextPlace })
    rw [hdisp] at hset ⊢
    exact hset
  · rw [hframe]
    rfl

end

/-- A THROUGHPUT or LATENCY record is admitted by its class's rule, or shed. -/
theorem dispatcherAdmission_rules (s u v : State) (ctx : CtxId) (r : RecCtx) (m : Model) (hu : u = fillDispatch s)
    (hr : u.ctx? ctx = some r) (hm : u.model? r.model = some m) (hend : r.ended = none)
    (hv : (isMember r = true ∧ r.state = .signpost ∧ v = u) ∨
      (isMember r = false ∧ firstInQueue u ctx r = true ∧ multicastWaits u ctx = false ∧ v = { u with
        disp := { u.disp with inq := u.disp.inq.filter (· != ctx.val) }, returned := u.returned ++ [.disp (pipeOf u r)] })) :
    (∀ k, (u.tenant r.tenant).preempted = false → m.latency = true → u.disp.level < 3 → latencyTick u m = some k → ∃ t,
       exec (.dispatcherAdmission ctx) s = .next t ∧
       t.ctx? ctx = some { r with state := .awaiting, admitted := some k, prog := none, place := u.disp.nextPlace } ∧
       t.disp.inq = v.disp.inq ∧ t.returned = v.returned ∧ t.disp.nextPlace = u.disp.nextPlace + 1 ∧
       admittedIn t m k = admittedIn u m k + 1 ∧ t.counter (cMls 0) = (u.counter (cMls 0) + 1) % 2 ^ 64) ∧
     ((u.tenant r.tenant).preempted = false → m.latency = false → u.disp.level < 2 ∨ isRing r = true →
       waitingOf u r.tenant < (u.tenant r.tenant).quota.tpQueue ∨ isRing r = true → ∃ t,
       exec (.dispatcherAdmission ctx) s = .next t ∧
       t.ctx? ctx = some { r with state := .awaiting, admitted := none, prog := none, place := u.disp.nextPlace } ∧
       t.disp.waiting = u.disp.waiting ++ [ctx.val] ∧ t.disp.inq = v.disp.inq) ∧
     ((u.tenant r.tenant).preempted = true ∨ (u.disp.level < 3 ∧ m.latency = true ∧ latencyTick u m = none) ∨
       (u.disp.level < 2 ∧ m.latency = false ∧ isRing r = false ∧
         (u.tenant r.tenant).quota.tpQueue ≤ waitingOf u r.tenant) →
       exec (.dispatcherAdmission ctx) s = .next (endRecord ctx 2 0x21 (count (cMls 2) 1 v))) ∧
     ((u.tenant r.tenant).preempted = false → (m.latency = true ∧ 3 ≤ u.disp.level) ∨
         (m.latency = false ∧ 2 ≤ u.disp.level ∧ isRing r = false) →
       exec (.dispatcherAdmission ctx) s = .next (endRecord ctx 2 0x20 (count (cMls 3) 1 v))) := by
  rw [exec_dispatcherAdmission hu hr hm hend hv]
  obtain ⟨i, q, hvq⟩ := queue_left hv
  have htenant : v.tenant r.tenant = u.tenant r.tenant := by rw [hvq]; rfl
  have hlevel : v.disp.level = u.disp.level := by rw [hvq]
  have hplace : v.disp.nextPlace = u.disp.nextPlace := by rw [hvq]
  have hwaiting : v.disp.waiting = u.disp.waiting := by rw [hvq]
  have htick : latencyTick v m = latencyTick u m := by rw [hvq, latencyTick_queue]
  have hwait : waitingOf v r.tenant = waitingOf u r.tenant := by rw [hvq]; rfl
  have hctx : v.ctx? ctx = some r := by rw [hvq]; exact hr
  have hadm (k : Nat) : admittedIn v m k = admittedIn u m k := by rw [hvq]; rfl
  have hctr : v.counter (cMls 0) = u.counter (cMls 0) := by rw [hvq]; rfl
  clear hvq hv
  refine ⟨fun k hpre hlat hlev hk => ?latency, fun hpre hlat hlev hroom => ?throughput, fun h => ?slots, fun hpre h => ?heat⟩
  case latency =>
    obtain ⟨w, hw⟩ : ∃ w, w = count (cMls 0) 1 (count (cMls 1) (if v.time.tick < k then 1 else 0) v) := ⟨_, rfl⟩
    have hwf : w = { v with ctr := w.ctr } := by
      rw [hw, count_frame, count_frame (cMls 1)]
    have hwctr : w.counter (cMls 0) = (u.counter (cMls 0) + 1) % 2 ^ 64 := by
      rw [hw, counter_count, if_pos ⟨rfl, by decide⟩, counter_count, if_neg (fun h => absurd h.1 (by decide)), hctr]
    have hwr : (admitTo m k w).ctx? ctx = some r := by
      rw [hwf]
      exact hctx
    have hplaced : (admitTo m k w).disp.nextPlace = u.disp.nextPlace := by
      rw [hwf]
      exact hplace
    have hbefore : admittedIn w m k = admittedIn u m k := by
      rw [hwf]
      exact hadm k
    obtain ⟨hset, hdisp, hreturned, hcounter⟩ := passAdmission_spec hwr (some k)
    refine ⟨passAdmission ctx r (some k) (admitTo m k w), ?_, ?_, ?_, ?_, ?_, ?_, ?_⟩
    · rw [takeIn, htenant, if_neg (by simp [hpre]), if_pos hlat, hlevel, if_neg (by omega), htick, hk, hw]
    · rw [hset, hplaced]
    · rw [hdisp, hwf]
      rfl
    · rw [hreturned, hwf]
      rfl
    · rw [hdisp, ← hplaced]
    · have hsame : admittedIn (passAdmission ctx r (some k) (admitTo m k w)) m k = admittedIn (admitTo m k w) m k := by
        rw [admittedIn, hdisp]
        rfl
      rw [hsame, admittedIn_admitTo, hbefore]
    · rw [hcounter]
      exact hwctr
  case throughput =>
    obtain ⟨hset, hdisp, -, -⟩ := passAdmission_spec hctx none
    refine ⟨modDisp (fun d => { d with waiting := d.waiting ++ [ctx.val] }) (passAdmission ctx r none v), ?_, ?_, ?_, ?_⟩
    · rw [takeIn, htenant, if_neg (by simp [hpre]), if_neg (by simp [hlat]), hlevel, hwait]
      rcases hring : isRing r with _ | _
      · have hl : u.disp.level < 2 := hlev.resolve_right (by simp [hring])
        have hq : waitingOf u r.tenant < (u.tenant r.tenant).quota.tpQueue := hroom.resolve_right (by simp [hring])
        rw [if_neg (by simp; omega), if_neg (by simp; omega)]
      · rw [if_neg (by simp), if_neg (by simp)]
    · rw [← hplace]
      exact hset
    · rw [← hwaiting, modDisp_disp, hdisp]
    · rw [modDisp_disp, hdisp]
  case slots =>
    refine congrArg Host.Outcome.next ?_
    by_cases hpre : (u.tenant r.tenant).preempted = true
    · rw [takeIn, htenant, if_pos hpre, shedRecord, if_neg (by decide)]
    · rcases h with h | ⟨hlev, hlat, hk⟩ | ⟨hlev, hlat, hring, hfull⟩
      · exact absurd h hpre
      · rw [takeIn, htenant, if_neg hpre, if_pos hlat, hlevel, if_neg (by omega), htick, hk, shedRecord, if_neg (by decide)]
      · rw [takeIn, htenant, if_neg hpre, if_neg (by simp [hlat]), hlevel, hwait, if_neg (by simp; omega),
          if_pos (by simp [hring, hfull]), shedRecord, if_neg (by decide)]
  case heat =>
    refine congrArg Host.Outcome.next ?_
    rw [takeIn, htenant, if_neg (by simp [hpre]), hlevel]
    rcases h with ⟨hlat, hlev⟩ | ⟨hlat, hlev, hring⟩
    · rw [if_pos hlat, if_pos hlev, shedRecord, if_pos rfl]
    · rw [if_neg (by simp [hlat]), if_pos (by simp [hring, hlev]), shedRecord, if_pos rfl]

/-! ## Binding a pass -/

section
variable {s u : State} {c : Nat} {r : RecCtx} {m head : Model}

theorem stageModel_congr (h : u.models = s.models) (r : RecCtx) : stageModel u r = stageModel s r := by
  simp only [stageModel, State.model?, State.handle?, h]

theorem bindOn_frame (c : Nat) (r : RecCtx) (m : Model) (prio : Nat) (s : State) :
    ∃ x, bindOn c r m prio s = { s with ridges := x } := by
  unfold bindOn
  refine foldl_keeps (fun t => ∃ x, t = { s with ridges := x }) _ (fun t j ht => ?_) _ s ⟨s.ridges, rfl⟩
  obtain ⟨x, rfl⟩ := ht
  dsimp only
  split
  · exact ⟨_, rfl⟩
  · exact ⟨x, rfl⟩

/-- A bound pass reserves its row and moves the record on; beyond the Ridges and the dispatcher nothing else changes. -/
theorem bindPass_spec (hr : s.ctx? c = some r) (hm : stageModel s r = some m) (hh : s.model? r.model = some head) :
    ∃ x d, bindPass c s = modCtx c (fun r => { r with state := .bound, nextBind := r.nextBind + 1, charged := true })
      { s with ridges := x, disp := d, rows := s.rows ++
        [⟨c, r.stage, r.nextBind, expectedMasks (m.passTrees r.version r.nextBind), [], passPrio head r⟩] } := by
  obtain ⟨x, hx⟩ := bindOn_frame c r m (passPrio head r) s
  rw [bindPass, hr]
  dsimp only
  rw [hm, hh]
  dsimp only
  rw [hx]
  dsimp only
  generalize (if r.charged = true then 0 else recordLevel _ _ head r) = level
  split
  · exact ⟨_, _, rfl⟩
  · exact ⟨_, _, rfl⟩

/-- The state in which a record's first pass has set its version. -/
def versioned (c : Nat) (r : RecCtx) (m : Model) (s : State) : State :=
  if r.nextBind = 0 then modCtx c (fun r => { r with version := m.version }) s else s

theorem versioned_frame (c : Nat) (r : RecCtx) (m : Model) (s : State) :
    versioned c r m s = { s with ctxs := (versioned c r m s).ctxs } := by
  unfold versioned
  split <;> rfl

/-- A record that has its model's version already is as it was. -/
theorem ctx?_versioned (hr : s.ctx? c = some r) (hver : r.version = m.version) : (versioned c r m s).ctx? c = some r := by
  unfold versioned
  split
  · rw [ctx?_modCtx_same hr, ← hver]
  · exact hr

/-- What a pass that may bind does, by the block its record holds or finds. -/
def bindWithBlock (c : Nat) (r : RecCtx) (m : Model) (s : State) : State :=
  match r.block, blockFree s r.tenant with
  | some _, _ => bindPass c s
  | none, none => s
  | none, some b =>
    if blockOk (s.tenant r.tenant).quota b then bindPass c (takeBlock c r m b s) else rangeFault c b r.nextBind 0 s

/-- A pass that may bind, with a row free and every Ridge served, binds as its block allows. -/
theorem exec_passBind {ctx : CtxId} (hr : s.ctx? ctx = some r) (hm : stageModel s r = some m) (hmay : mayBind s r m = true)
    (hfree : rowFree s = true)
    (hserving : (m.passRidges m.version r.nextBind).all (fun j => (servingOf s m j).isSome) = true) :
    exec (.passBind ctx) s = .next (bindWithBlock ctx r m (versioned ctx r m s)) := by
  have hrow : exec (.passBind ctx) s = execPassBind ctx s := rfl
  have hserved : (m.passRidges m.version r.nextBind).any (fun j => (servingOf s m j).isNone) = false := by
    rw [List.any_eq_false]
    intro j hj
    have hsome := List.all_eq_true.1 hserving j hj
    cases h : servingOf s m j with
    | none => simp [h] at hsome
    | some q => simp
  rw [hrow, execPassBind, hr]
  dsimp only
  rw [hm]
  dsimp only
  rw [hmay, hfree, hserved, if_neg (by decide), if_neg (by decide), bindWithBlock, versioned]
  generalize (if r.nextBind = 0 then modCtx ctx (fun r => { r with version := m.version }) s else s) = u
  cases r.block with
  | some b => rfl
  | none =>
    cases blockFree u r.tenant with
    | none => rfl
    | some b =>
      dsimp only
      split <;> rfl

/-- A block taken stands in the record, ready when it is preloaded, and has left the tenant's free list. -/
theorem takeBlock_spec (hr : s.ctx? c = some r) (ht : r.tenant < s.tenants.length) (b : Nat) :
    (takeBlock c r m b s).ctx? c = some { r with block := some b, blockReady := !(r.state == .parked) } ∧
    ((takeBlock c r m b s).tenant r.tenant).freeBlocks = (s.tenant r.tenant).freeBlocks.drop 1 ∧
    (takeBlock c r m b s).rows = s.rows ∧ (takeBlock c r m b s).models = s.models ∧
    (r.state = .parked → (takeBlock c r m b s).restoring = s.restoring ++ [c] ∧
      (takeBlock c r m b s).crnPort.transfers = s.crnPort.transfers ++ [(c, portCycles m.image.channels)]) ∧
    (r.state ≠ .parked → (takeBlock c r m b s).counter (cCrn 5) = (s.counter (cCrn 5) + 1) % 2 ^ 64) := by
  obtain ⟨u, hu⟩ : ∃ u, u = modTenant r.tenant (fun t => { t with freeBlocks := t.freeBlocks.drop 1 }) s := ⟨_, rfl⟩
  have hur : u.ctx? c = some r := by rw [hu]; exact hr
  have hfree : (u.tenant r.tenant).freeBlocks = (s.tenant r.tenant).freeBlocks.drop 1 := by
    rw [hu, tenant_modTenant_same ht]
  have hrows : u.rows = s.rows := by rw [hu]; rfl
  have hmodels : u.models = s.models := by rw [hu]; rfl
  have hrestoring : u.restoring = s.restoring := by rw [hu]; rfl
  have hport : u.crnPort = s.crnPort := by rw [hu]; rfl
  have hctr : u.counter (cCrn 5) = s.counter (cCrn 5) := by rw [hu]; rfl
  by_cases hp : r.state = .parked
  · have htake : takeBlock c r m b s = askPort c m.image.channels
        (modCtx c (fun r => { r with block := some b, blockReady := false }) { u with restoring := u.restoring ++ [c] }) := by
      rw [takeBlock, if_pos hp, hu]
    rw [htake]
    refine ⟨?_, hfree, hrows, hmodels, fun _ => ⟨by rw [← hrestoring]; rfl, by rw [← hport]; rfl⟩, fun h => absurd hp h⟩
    have hset := ctx?_modCtx_same (s := { u with restoring := u.restoring ++ [c] }) hur
      (fun r => { r with block := some b, blockReady := false })
    have hready : (!(r.state == .parked)) = false := by simp [hp]
    rw [hready]
    exact hset
  · obtain ⟨w, hw⟩ : ∃ w, w = modCtx c (fun r => { r with block := some b, blockReady := true }) u := ⟨_, rfl⟩
    have hwr : w.ctx? c = some { r with block := some b, blockReady := true } := by
      rw [hw]
      exact ctx?_modCtx_same hur _
    have htake : takeBlock c r m b s = preload b m r w := by
      rw [takeBlock, if_neg hp, hw, hu]
    have hpre : preload b m r w = { w with slots := (preload b m r w).slots, ctr := (preload b m r w).ctr } := by
      rw [preload, count_frame, writeBlock_frame]
    have hready : (!(r.state == .parked)) = true := by simp [hp]
    rw [htake, hready]
    refine ⟨?_, ?_, ?_, ?_, fun h => absurd h hp, fun _ => ?_⟩
    · rw [hpre]
      exact hwr
    · rw [hpre, hw]
      exact hfree
    · rw [hpre, hw]
      exact hrows
    · rw [hpre, hw]
      exact hmodels
    · rw [preload, counter_count, if_pos ⟨rfl, by decide⟩, counter_writeBlock, hw, counter_modCtx, hctr]

end

/-- Settles O24: by the record's place at the head of its queue and the rule of its class, and by the pass's block and
row. -/
theorem admissionAndPassBind : Obligations.AdmissionAndPassBind := by
  unfold Obligations.AdmissionAndPassBind
  refine ⟨dispatcherAdmission_rules, ?_⟩
  intro s ctx r m head hs hr hm hh hmay hfree hver hserving
  obtain ⟨u, hu⟩ : ∃ u, u = versioned ctx r m s := ⟨_, rfl⟩
  have huf : u = { s with ctxs := u.ctxs } := by
    rw [hu]
    exact versioned_frame ctx r m s
  have hur : u.ctx? ctx = some r := by
    rw [hu]
    exact ctx?_versioned hr hver
  have hmodels : u.models = s.models := by rw [huf]
  have hrows : u.rows = s.rows := by rw [huf]
  have hblock : blockFree u r.tenant = blockFree s r.tenant := by
    rw [huf]
    rfl
  rw [exec_passBind hr hm hmay hfree hserving, ← hu]
  have hmodel? {w : State} (h : w.models = s.models) : w.model? r.model = some head := by
    rw [State.model?, h]
    exact hh
  refine ⟨fun b hb => ?held, fun b hb ht hbf hok => ?taken, fun hb hbf => ?waits⟩
  case held =>
    obtain ⟨x, d, hbind⟩ := bindPass_spec hur ((stageModel_congr hmodels r).trans hm) (hmodel? hmodels)
    refine ⟨bindPass ctx u, { r with state := .bound, nextBind := r.nextBind + 1, charged := true },
      ⟨ctx, r.stage, r.nextBind, expectedMasks (m.passTrees r.version r.nextBind), [], passPrio head r⟩,
      by rw [bindWithBlock, hb], ?_, rfl, rfl, hb, rfl, ?_, rfl, rfl, rfl, rfl, rfl⟩
    · rw [hbind]
      exact ctx?_modCtx_same (s := { u with ridges := x, disp := d, rows := _ }) hur _
    · rw [hbind, ← hrows]
      rfl
  case taken =>
    have htlen : r.tenant < u.tenants.length := by
      obtain ⟨-, -, -, -, -, -, -, -, -, htenants, -⟩ := hs
      rw [huf]
      exact htenants ▸ ht
    obtain ⟨hctx, hblocks, hrows', hmodels', hparked, hfresh⟩ := takeBlock_spec (m := m) hur htlen b
    obtain ⟨w, hw⟩ : ∃ w, w = takeBlock ctx r m b u := ⟨_, rfl⟩
    rw [← hw] at hctx hblocks hrows' hmodels' hparked hfresh
    have hwm := hmodels'.trans hmodels
    obtain ⟨x, d, hbind⟩ := bindPass_spec hctx ((stageModel_congr hwm r).trans hm) (hmodel? hwm)
    have htenant : u.tenant r.tenant = s.tenant r.tenant := by
      rw [huf]
      rfl
    refine ⟨bindPass ctx w, { r with
      block := some b, blockReady := !(r.state == .parked), state := .bound, nextBind := r.nextBind + 1, charged := true },
      ?_, ?_, rfl, rfl, rfl, ?_, ?_, ?_, fun hp => ?_, fun hp => ?_⟩
    · rw [bindWithBlock, hb, hblock, hbf]
      dsimp only
      rw [htenant, hok, if_pos rfl, hw]
    · rw [hbind]
      exact ctx?_modCtx_same (s := { w with ridges := x, disp := d, rows := _ }) hctx _
    · rw [hbind, ← htenant, ← hblocks]
      rfl
    · rw [hbind, ← hrows, ← hrows']
      simp
    · simp
    · obtain ⟨hrestoring, hport⟩ := hparked hp
      rw [hbind]
      have hru : u.restoring = s.restoring := by rw [huf]
      have hpu : u.crnPort = s.crnPort := by rw [huf]
      exact ⟨by rw [← hru]; exact hrestoring, by rw [← hpu]; exact hport⟩
    · have hcu : u.counter (cCrn 5) = s.counter (cCrn 5) := by
        rw [huf]
        rfl
      rw [hbind, ← hcu]
      exact hfresh hp
  case waits =>
    refine ⟨u, by rw [bindWithBlock, hb, hblock, hbf], hrows, ?_, hur⟩
    rw [huf]

end Sys2Proof.Machine
end

section
/-! SUPPORT. The host DMA: reads of host memory (R301), look-ups that hit (R309), descriptors and what settles behind them. -/

namespace Sys2Proof.Machine

section
variable {s t u : State}

/-! ## Reads of host memory -/

/-- The requests of a read of a function's host memory. -/
def hostReads (s : State) (f a n : Nat) : List Outp :=
  (requestsOf a n ((kvGet s.dma.maxRead f).getD 512)).map (fun p => .hostRead f (sentAddr s f (a + p.1)) p.2)

/-- A read sends its requests and counts its bytes. -/
theorem hostRead_eq (f a n : Nat) (s : State) : hostRead f a n s = { s with
    ctr := (count (cDma 0) n s).ctr, out := (hostReads s f a n).reverse ++ s.out } := by
  have hsent (u v : State) (h : u.dma = v.dma) (a : Nat) : sentAddr u f a = sentAddr v f a := by
    unfold sentAddr
    rw [h]
  have ho (u v : State) (h : u.dma = v.dma) :
      (fun p : Nat × Nat => Outp.hostRead f (sentAddr u f (a + p.1)) p.2) =
        fun p => Outp.hostRead f (sentAddr v f (a + p.1)) p.2 := by
    funext p
    rw [hsent u v h]
  have hfold := foldl_emit (count (cDma 0) n s) _ ho (requestsOf a n ((kvGet s.dma.maxRead f).getD 512))
  rw [hostRead, hfold, hostReads, ho (count (cDma 0) n s) s (by rw [count_frame]), count_frame]

theorem hostReads_congr (hsent : ∀ f a, sentAddr t f a = sentAddr s f a) (hmax : t.dma.maxRead = s.dma.maxRead) (f a n : Nat) :
    hostReads t f a n = hostReads s f a n := by
  unfold hostReads
  rw [hmax]
  exact List.map_congr_left (fun p _ => by rw [hsent])

theorem hostWrites_congr (hsent : ∀ f a, sentAddr t f a = sentAddr s f a) (hmax : t.dma.maxPayload = s.dma.maxPayload)
    (f a : Nat) (bs : List Byte) (bad : Nat → Nat → Bool) : hostWrites t f a bs bad = hostWrites s f a bs bad := by
  unfold hostWrites
  rw [hmax]
  exact List.map_congr_left (fun p _ => by rw [hsent])

/-- The address sent depends on the translations alone. -/
theorem sentAddr_congr (hats : t.dma.ats = s.dma.ats) (htlb : t.dma.iotlb = s.dma.iotlb) (f a : Nat) :
    sentAddr t f a = sentAddr s f a := by
  unfold sentAddr
  rw [hats, htlb]

/-! ## Look-ups that hit -/

/-- A look-up of granted pages touches a count and the order of use: every page is granted and sent as before. -/
structure Looked (s t : State) : Prop where
  frame : ∃ c i k, t = { s with ctr := c, dma := { s.dma with iotlb := i, tlbClock := k } }
  sent : ∀ f a, sentAddr t f a = sentAddr s f a
  grants : ∀ f p w, granted t f p w = granted s f p w
  counter : ∀ k, k ≠ cDma 2 → t.counter k = s.counter k

theorem Looked.refl (s : State) : Looked s s := ⟨⟨_, _, _, rfl⟩, fun _ _ => rfl, fun _ _ _ => rfl, fun _ _ => rfl⟩

theorem Looked.trans (h : Looked s t) (h' : Looked t u) : Looked s u where
  frame := by
    obtain ⟨c, i, k, rfl⟩ := h.frame
    obtain ⟨c', i', k', rfl⟩ := h'.frame
    exact ⟨c', i', k', rfl⟩
  sent f a := (h'.sent f a).trans (h.sent f a)
  grants f p w := (h'.grants f p w).trans (h.grants f p w)
  counter k hk := (h'.counter k hk).trans (h.counter k hk)

/-- The use of an entry says nothing of its page. -/
def Iotlb.touch (hit : Iotlb → Bool) (clock : Nat) (e : Iotlb) : Iotlb := if hit e then { e with used := clock } else e

theorem Iotlb.touch_frame (hit : Iotlb → Bool) (clock : Nat) (e : Iotlb) : ∃ n, e.touch hit clock = { e with used := n } := by
  unfold touch
  split
  · exact ⟨_, rfl⟩
  · exact ⟨e.used, rfl⟩

theorem sentAddr_touch (hats : t.dma.ats = s.dma.ats) (hit : Iotlb → Bool) (clock : Nat)
    (htlb : t.dma.iotlb = s.dma.iotlb.map (Iotlb.touch hit clock)) (f a : Nat) : sentAddr t f a = sentAddr s f a := by
  have hfind (p : Iotlb → Bool) (hp : ∀ e n, p { e with used := n } = p e) :
      (s.dma.iotlb.map (Iotlb.touch hit clock)).find? p = (s.dma.iotlb.find? p).map (Iotlb.touch hit clock) := by
    have hcomp : p ∘ Iotlb.touch hit clock = p := by
      funext e
      obtain ⟨n, hn⟩ := e.touch_frame hit clock
      rw [Function.comp_apply, hn, hp]
    rw [List.find?_map, hcomp]
  have helim (o : Option Iotlb) (d : Nat) (F : Nat → Nat → Nat) :
      (o.map (Iotlb.touch hit clock)).elim d (fun e => F e.target e.page) = o.elim d (fun e => F e.target e.page) := by
    cases o with
    | none => rfl
    | some e =>
      obtain ⟨n, hn⟩ := e.touch_frame hit clock
      rw [Option.map_some, Option.elim_some, Option.elim_some, hn]
  have horelse (o o' : Option Iotlb) (d : Nat) (F : Nat → Nat → Nat) :
      ((o.map (Iotlb.touch hit clock)).orElse (fun _ => o'.map (Iotlb.touch hit clock))).elim d (fun e => F e.target e.page) =
        (o.orElse (fun _ => o')).elim d (fun e => F e.target e.page) := by
    cases o with
    | none => exact helim o' d F
    | some e => exact helim (some e) d F
  unfold sentAddr
  dsimp only
  rw [hats, htlb, hfind _ (fun _ _ => rfl), hfind _ (fun _ _ => rfl),
    horelse _ _ _ (fun target page => (target + (a % 2 ^ 64 / 4096 - page)) * 4096 + a % 2 ^ 64 % 4096)]

theorem granted_touch (hats : t.dma.ats = s.dma.ats) (hit : Iotlb → Bool) (clock : Nat)
    (htlb : t.dma.iotlb = s.dma.iotlb.map (Iotlb.touch hit clock)) (f p : Nat) (w : Bool) : granted t f p w = granted s f p w := by
  have hcomp : (fun e : Iotlb => e.grants f p w) ∘ Iotlb.touch hit clock = fun e => e.grants f p w := by
    funext e
    obtain ⟨n, hn⟩ := e.touch_frame hit clock
    rw [Function.comp_apply, hn]
    rfl
  unfold granted
  rw [hats, htlb, List.any_map, hcomp]

theorem looked_lookupPage {f : Nat} {p : Nat × Bool} (h : granted s f p.1 p.2 = true) : Looked s (lookupPage f p s) := by
  unfold lookupPage
  split
  · exact Looked.refl s
  · obtain ⟨u, hu⟩ : ∃ u, u = modDma (fun d => { d with
        iotlb := d.iotlb.map (Iotlb.touch (fun e => e.grants f p.1 p.2) d.tlbClock), tlbClock := d.tlbClock + 1 }) s := ⟨_, rfl⟩
    have hats : u.dma.ats = s.dma.ats := by rw [hu]; rfl
    have htlb : u.dma.iotlb = s.dma.iotlb.map (Iotlb.touch (fun e => e.grants f p.1 p.2) s.dma.tlbClock) := by rw [hu]; rfl
    have hcu : (count (cDma 2) 1 u).dma = u.dma := by rw [count_frame]
    show Looked s (count (cDma 2) 1 (modDma (fun d => { d with
      iotlb := d.iotlb.map (Iotlb.touch (fun e => e.grants f p.1 p.2) d.tlbClock), tlbClock := d.tlbClock + 1 }) s))
    rw [← hu]
    refine ⟨⟨(count (cDma 2) 1 u).ctr, u.dma.iotlb, u.dma.tlbClock, ?_⟩, fun f' a => ?_, fun f' q w => ?_, fun k hk => ?_⟩
    · rw [count_frame, hu]
      rfl
    · exact sentAddr_touch (by rw [hcu]; exact hats) _ _ (by rw [hcu]; exact htlb) f' a
    · exact granted_touch (by rw [hcu]; exact hats) _ _ (by rw [hcu]; exact htlb) f' q w
    · rw [counter_count, if_neg (fun hh => hk hh.1), hu]
      rfl

/-- A look-up of granted pages finds them all. -/
theorem lookup_granted {f : Nat} {ps : List (Nat × Bool)} (h : ps.all (fun p => granted s f p.1 p.2) = true) :
    (lookup f ps s).1 = true ∧ Looked s (lookup f ps s).2 := by
  refine ⟨h, ?_⟩
  have hfold (l : List (Nat × Bool)) (hl : ∀ p ∈ l, granted s f p.1 p.2 = true) (t : State) (ht : Looked s t) :
      Looked s (l.foldl (fun s p => lookupPage f p s) t) := by
    induction l generalizing t with
    | nil => exact ht
    | cons p l ih =>
      refine ih (fun q hq => hl q (List.mem_cons_of_mem _ hq)) _ (ht.trans (looked_lookupPage ?_))
      rw [ht.grants]
      exact hl p List.mem_cons_self
  exact hfold ps (List.all_eq_true.1 h) s (Looked.refl s)

theorem lookup_granted_one {f p : Nat} {w : Bool} (h : granted s f p w = true) :
    (lookup f [(p, w)] s).1 = true ∧ Looked s (lookup f [(p, w)] s).2 :=
  lookup_granted (by simp [h])

/-! ## Descriptors -/

theorem modStream_modStream (g : Nat) (F G : Stream → Stream) (s : State) :
    modStream g F (modStream g G s) = modStream g (F ∘ G) s := by
  have hm := modify_modify s.dma.streams g G F
  simp only [modStream, hm]

/-- A stream that has a descriptor is one of the device's. -/
theorem lt_of_desc? {g n : Nat} {d : Desc} (h : s.desc? g n = some d) : g < s.dma.streams.length := by
  by_contra hg
  have hnone : s.stream g = Stream.reset := List.getD_eq_default _ _ (not_lt.1 hg)
  rw [State.desc?, hnone] at h
  exact nomatch h

theorem number_of_desc? {g n : Nat} {d : Desc} (h : s.desc? g n = some d) : d.number = n := by
  simpa using List.find?_some h

/-- What a change of a stream that keeps its descriptors leaves of them. -/
theorem desc?_congr {g : Nat} (h : (t.stream g).descs = (s.stream g).descs) (n : Nat) : t.desc? g n = s.desc? g n := by
  rw [State.desc?, h, State.desc?]

theorem desc?_modDesc_same {g n : Nat} {d : Desc} (h : s.desc? g n = some d) (F : Desc → Desc)
    (hF : ∀ d, (F d).number = d.number) : (modDesc g n F s).desc? g n = some (F d) := by
  have hstream : ((modDesc g n F s).stream g).descs = (s.stream g).descs.map (fun d => if d.number = n then F d else d) := by
    rw [modDesc, stream_modStream_same (lt_of_desc? h)]
  have hcomp : (fun x : Desc => x.number == n) ∘ (fun d => if d.number = n then F d else d) = fun x => x.number == n := by
    funext x
    rw [Function.comp_apply]
    split
    · rw [hF]
    · rfl
  have hfound : (s.stream g).descs.find? (fun x => x.number == n) = some d := h
  rw [State.desc?, hstream, List.find?_map, hcomp, hfound, Option.map_some, if_pos (number_of_desc? h)]

theorem stream_modDesc_view {β : Type} (V : Stream → β) (hV : ∀ x ds, V { x with descs := ds } = V x) (g n h : Nat)
    (F : Desc → Desc) : V ((modDesc g n F s).stream h) = V (s.stream h) := by
  have hview : ((modDesc g n F s).stream h) = if h = g ∧ g < s.dma.streams.length then
      { s.stream g with descs := (s.stream g).descs.map (fun d => if d.number = n then F d else d) } else s.stream h := by
    split
    next hh => rw [hh.1, modDesc, stream_modStream_same hh.2]
    next hh =>
      by_cases hg : h = g
      · have hlen : s.dma.streams.length ≤ g := not_lt.1 (fun hl => hh ⟨hg, hl⟩)
        have hsame : (modDesc g n F s).dma.streams = s.dma.streams := List.modify_eq_self hlen
        rw [State.stream, hsame]
        rfl
      · exact getD_modify_ne _ _ _ _ _ hg
  rw [hview]
  split
  next hh => rw [hV, hh.1]
  next => rfl

/-! ## What settles behind an element -/

/-- Invalidations that complete send their answers, and forget the entries that grant nothing and are under no other. -/
theorem settleInvals_eq (s : State) : settleInvals s = { s with
    out := ((s.dma.invals.filter (fun v => !rangeBusy s v.1 v.2.1 v.2.2)).map (fun v => .invalidateDone v.1)).reverse ++ s.out
    dma := { s.dma with
      invals := s.dma.invals.filter (fun v => rangeBusy s v.1 v.2.1 v.2.2)
      iotlb := s.dma.iotlb.filter (fun e => e.read || e.write ||
        (s.dma.invals.filter (fun v => rangeBusy s v.1 v.2.1 v.2.2)).any (fun v => e.meets v.1 v.2.1 v.2.2)) } } :=
  foldl_emit _ (fun _ (v : Nat × Nat × Nat) => Outp.invalidateDone v.1) (fun _ _ _ => rfl) _

/-- Nothing else changes. -/
theorem settleInvals_frame (s : State) : ∃ pre i l, settleInvals s = { s with
      out := pre ++ s.out, dma := { s.dma with iotlb := i, invals := l } } ∧ (∀ o ∈ pre, ∃ f, o = .invalidateDone f) := by
  refine ⟨_, _, _, settleInvals_eq s, fun o ho => ?_⟩
  rw [List.mem_reverse, List.mem_map] at ho
  obtain ⟨v, -, rfl⟩ := ho
  exact ⟨_, rfl⟩

theorem stream_settleInvals (g : Nat) : (settleInvals s).stream g = s.stream g := by
  obtain ⟨pre, i, l, h, -⟩ := settleInvals_frame s
  rw [h]
  rfl

theorem counter_settleInvals (k : Nat) : (settleInvals s).counter k = s.counter k := by
  obtain ⟨pre, i, l, h, -⟩ := settleInvals_frame s
  rw [h]
  rfl

/-- A stream with no answer waiting has nothing to stage. -/
theorem stageAnswers_nil {g : Nat} (h : (s.stream g).answers = []) :
    stageAnswers g s = modStream g (fun x => { x with answers := [], fill := x.fill + 0 }) s := by
  rw [stageAnswers, h]
  rfl

/-- Staging changes a stream's answers and its fill alone, of all the streams. -/
theorem stream_stageAnswers_view {β : Type} (V : Stream → β) (hV : ∀ x a n, V { x with answers := a, fill := n } = V x)
    (g h : Nat) : V ((stageAnswers g s).stream h) = V (s.stream h) := by
  have hfold (l : List Nat) (t : State) : (l.foldl (fun s c => freeContext c s) t).stream h = t.stream h :=
    foldl_keeps (fun u => u.stream h = t.stream h) _ (fun u c hu => (stream_freeContext u c h).trans hu) l t rfl
  rw [stageAnswers, hfold]
  by_cases hg : h = g
  · subst hg
    by_cases hl : h < s.dma.streams.length
    · rw [stream_modStream_same hl, hV]
    · rw [State.stream, modStream_dma, List.modify_eq_self (not_lt.1 hl)]
      rfl
  · rw [State.stream, modStream_dma, getD_modify_ne _ _ _ _ _ hg]
    rfl

end

end Sys2Proof.Machine
end

section
/-! PROOFS. Ring tails, descriptor starts and issue opportunities (O34). -/

namespace Sys2Proof.Machine

/-! ## Tails -/

section
variable {s : State} {f j v g posted : Nat} {x : Stream}

theorem writeTail_accepted (hg : g = 8 * f + j) (hlen : g < s.dma.streams.length) (hx : x = s.stream g)
    (hp : posted = (v % 2 ^ 32 + 2 ^ 32 - x.head) % 2 ^ 32) (hopen : s.windowOpen f = true)
    (hok : ¬(x.mode = .stopped ∨ 2 ^ x.sizeExp < posted ∨ posted < (x.tail + 2 ^ 32 - x.head) % 2 ^ 32)) :
    (writeTail f j v s).stream g = { x with tail := v % 2 ^ 32 } ∧ (writeTail f j v s).ctr = s.ctr := by
  subst hg hx hp
  rw [writeTail, if_neg (by simp [hopen]), if_neg hok]
  exact ⟨stream_modStream_same hlen _, rfl⟩

theorem writeTail_ignored (hg : g = 8 * f + j) (hx : x = s.stream g)
    (hp : posted = (v % 2 ^ 32 + 2 ^ 32 - x.head) % 2 ^ 32) (hopen : s.windowOpen f = true)
    (hbad : x.mode = .stopped ∨ 2 ^ x.sizeExp < posted ∨ posted < (x.tail + 2 ^ 32 - x.head) % 2 ^ 32) :
    writeTail f j v s = count (cStr g 7) 1 s := by
  subst hg hx hp
  rw [writeTail, if_neg (by simp [hopen]), if_pos hbad]

end

/-! ## Descriptors -/

section
variable {u v : State} {g : Nat} {bs : List Byte} {d : Desc}

/-- The ring's next descriptor stands behind those fetched, and its bytes are on their way. -/
def fetched (g : Nat) (n : Nat) (d : Desc) (s : State) : State :=
  hostRead (fnOf g) ((s.stream g).ringBase + 64 * ringIndex (s.stream g) n) 48
    (modStream g (fun x => { x with descs := x.descs ++ [d] }) s)

theorem fetched_frame (g n : Nat) (d : Desc) (s : State) : ∃ c, fetched g n d s = { s with
    ctr := c, dma := { s.dma with streams := s.dma.streams.modify g (fun x => { x with descs := x.descs ++ [d] }) }
    out := (hostRead (fnOf g) ((s.stream g).ringBase + 64 * ringIndex (s.stream g) n) 48 s).out } := by
  obtain ⟨w, hw⟩ : ∃ w, w = modStream g (fun x => { x with descs := x.descs ++ [d] }) s := ⟨_, rfl⟩
  have hreads (f a n : Nat) : hostReads w f a n = hostReads s f a n :=
    hostReads_congr (sentAddr_congr (by rw [hw]; rfl) (by rw [hw]; rfl)) (by rw [hw]; rfl) f a n
  refine ⟨(fetched g n d s).ctr, ?_⟩
  rw [fetched, ← hw, hostRead_eq, hostRead_eq, hreads, hw]
  rfl

/-- With the stream's copy kind kept, what makes a descriptor bad does not change. -/
theorem badDesc_congr (htenants : v.tenants = u.tenants) (hallocs : v.dma.allocs = u.dma.allocs) (hzth : v.zth = u.zth)
    (hcopy : (v.stream g).copy = (u.stream g).copy) : badDesc v g bs d = badDesc u g bs d := by
  have hwmk (w : Nat) : wmkFieldOk v (fnOf g) w = wmkFieldOk u (fnOf g) w := by
    rw [wmkFieldOk, wmkIndex_of_tenants htenants, wmkFieldOk]
  have htarget : copyTarget v (tenantOf g) d.alloc = copyTarget u (tenantOf g) d.alloc := by
    unfold copyTarget State.chipId
    rw [hallocs, hzth]
  have hfits : copyFits v g d = copyFits u g d := by rw [copyFits, htarget, copyFits]
  unfold badDesc
  dsimp only
  rw [hcopy, hwmk, hwmk, hfits]

/-- The state right after the fetch of the only descriptor of a ring. -/
theorem fetched_stream (hg : g < u.dma.streams.length) (hnil : (u.stream g).descs = []) (n : Nat) :
    (fetched g n d u).stream g = { u.stream g with descs := [d] } ∧ (∀ h, h ≠ g → (fetched g n d u).stream h = u.stream h) := by
  obtain ⟨c, hframe⟩ := fetched_frame g n d u
  refine ⟨?_, fun h hh => ?_⟩
  · have hset := stream_modStream_same hg (fun x => { x with descs := x.descs ++ [d] })
    rw [hnil, List.nil_append] at hset
    rw [hframe]
    exact hset
  · rw [hframe]
    exact getD_modify_ne _ _ _ _ _ hh

theorem badDesc_fetched (hg : g < u.dma.streams.length) (hnil : (u.stream g).descs = []) (n : Nat) :
    badDesc (fetched g n d u) g bs d = badDesc u g bs d := by
  have hcopy : ((fetched g n d u).stream g).copy = (u.stream g).copy := by rw [(fetched_stream hg hnil n).1]
  obtain ⟨c, hframe⟩ := fetched_frame g n d u
  refine badDesc_congr ?_ ?_ ?_ hcopy
  · rw [hframe]
  · rw [hframe]
  · rw [hframe]

/-- A descriptor that is not in flight takes no transfer slot. -/
theorem slotRoom_fetched (hg : g < u.dma.streams.length) (hnil : (u.stream g).descs = []) (hd : d.inFlight = false) (n : Nat) :
    slotRoom (fetched g n d u) g d = slotRoom u g d := by
  obtain ⟨hsame, hother⟩ := fetched_stream (d := d) hg hnil n
  have hflying (h : Nat) : ((fetched g n d u).stream h).descs.filter Desc.inFlight = (u.stream h).descs.filter Desc.inFlight := by
    by_cases hh : h = g
    · rw [hh, hsame, hnil]
      simp [hd]
    · rw [hother h hh]
  have hused (f : Nat) : transferUsed (fetched g n d u) f = transferUsed u f := by
    unfold transferUsed
    simp only [hflying]
  have hshare (f : Nat) : transferShare (fetched g n d u) f = transferShare u f := by
    obtain ⟨c, hframe⟩ := fetched_frame g n d u
    rw [hframe]
    rfl
  rw [slotRoom, hused, hshare, slotRoom]

/-- The fetch of a ring's next descriptor, of no task, with none fetched before it. -/
theorem fetchDesc_first (hd : d = parseDesc u g (u.stream g).head bs) (hnil : (u.stream g).descs = [])
    (hlt : (u.stream g).head < 2 ^ 32) (htag : d.tag = 0) (hg : g < u.dma.streams.length) :
    fetchDesc g bs u = if badDesc u g bs d then
        endTask g (u.stream g).head 5 (modDesc g (u.stream g).head (fun d => { d with cut := some 0, status := 5 })
          (fetched g (u.stream g).head d u))
      else tryStart g (u.stream g).head (armDesc g (u.stream g).head bs (fetched g (u.stream g).head d u)) := by
  have hn : ((u.stream g).head + (u.stream g).descs.length) % 2 ^ 32 = (u.stream g).head := by
    rw [hnil, List.length_nil, Nat.add_zero, Nat.mod_eq_of_lt hlt]
  rw [fetchDesc, hn, ← hd, if_neg (fun h => h.1 htag), ← badDesc_fetched hg hnil]
  rfl

theorem exec_descriptorStart {s : State} {g : StreamId} (hu : u = wmkFlush s) (hrun : (u.stream g).mode = .running)
    (hstop : (u.stream g).stopDue = false) (hread : ringsRead u g = true) (hnil : (u.stream g).descs = [])
    (hne : (u.stream g).head ≠ (u.stream g).tail) : exec (.descriptorStart g bs) s = .next (fetchDesc g bs u) := by
  have hrow : exec (.descriptorStart g bs) s = execDescriptorStart g bs s := rfl
  rw [hrow, execDescriptorStart, ← hu, if_neg (by simp [hrun, hstop, hread]), hnil]
  exact if_neg hne

/-- A fetched descriptor that waits for nothing starts when there is room. -/
theorem tryStart_fetched (hd : d = parseDesc u g (u.stream g).head bs) (hnil : (u.stream g).descs = [])
    (hg : g < u.dma.streams.length) (hroom : 0 < (u.stream g).inflight) (hslot : slotRoom u g d = true) :
    tryStart g (u.stream g).head (fetched g (u.stream g).head d u) =
      modDesc g (u.stream g).head (fun d => { d with started := true }) (fetched g (u.stream g).head d u) := by
  obtain ⟨hsame, -⟩ := fetched_stream (d := d) hg hnil (u.stream g).head
  have hnumber : d.number = (u.stream g).head := by rw [hd]; rfl
  have hflight : d.inFlight = false := by rw [hd]; rfl
  have hwaiting : d.waiting = none := by rw [hd]; rfl
  have hfound : (fetched g (u.stream g).head d u).desc? g (u.stream g).head = some d := by
    rw [State.desc?, hsame]
    simp [hnumber]
  have hinflight : inflightRoom ((fetched g (u.stream g).head d u).stream g) = true := by
    rw [hsame]
    simp [inflightRoom, hflight, hroom]
  rw [tryStart, hfound]
  dsimp only
  rw [hwaiting]
  dsimp only
  rw [hinflight, slotRoom_fetched hg hnil hflight, hslot]
  rfl

/-- A failed descriptor of no task ends no other. -/
theorem endTask_untagged {s : State} {n status : Nat} (h : s.desc? g n = some d) (htag : d.tag = 0) :
    (endTask g n status s).dma = s.dma := by
  rw [endTask, h]
  dsimp only
  rw [if_pos htag, List.foldl_nil, if_neg (fun hh => hh.1 htag), raise_frame]

end

/-! ## Issue opportunities -/

section
variable {s : State} {g : Nat} {bulk : Bool}

/-- The streams that do not get an opportunity count the cycle, and the one chosen is noted. -/
def offered (g : Nat) (bulk : Bool) (s : State) : State :=
  modDma (fun d => { d with chosen := some g, bulkPtr := if bulk then (g + 1) % 264 else d.bulkPtr })
    (((List.range 264).filter (fun h => h != g && (readyReqs s).any (fun p => p.1 == h))).foldl (fun s h => count (cStr h 1) 1 s) s)

theorem exec_dmaRequestIssue {r : StreamReq} (h : chooseStream s = some (g, r, bulk)) :
    exec .dmaRequestIssue s = .next (issueReq g r (offered g bulk s)) := by
  have hrow : exec .dmaRequestIssue s = execDmaRequestIssue s := rfl
  rw [hrow, execDmaRequestIssue, h, offered]

theorem offered_frame (g : Nat) (bulk : Bool) (s : State) : ∃ c b, offered g bulk s = { s with
    ctr := c, dma := { s.dma with chosen := some g, bulkPtr := b } } := by
  obtain ⟨c, hc⟩ := foldl_keeps (fun t => ∃ c, t = { s with ctr := c }) (fun s h => count (cStr h 1) 1 s)
    (fun t h ht => by
      obtain ⟨c, rfl⟩ := ht
      exact ⟨_, count_frame _ _ _⟩)
    ((List.range 264).filter (fun h => h != g && (readyReqs s).any (fun p => p.1 == h))) s ⟨s.ctr, rfl⟩
  rw [offered, hc]
  exact ⟨_, _, rfl⟩

/-- The state in which the request chosen has had its pages looked up. -/
structure Offered (g : Nat) (s t : State) : Prop where
  chosen : t.dma.chosen = some g
  streams : t.dma.streams = s.dma.streams
  fetches : t.dma.fetches = s.dma.fetches
  out : t.out = s.out
  maxRead : t.dma.maxRead = s.dma.maxRead
  sent : ∀ f a, sentAddr t f a = sentAddr s f a

theorem offered_lookup {f : Nat} {ps : List (Nat × Bool)} (h : ps.all (fun p => granted s f p.1 p.2) = true) :
    (lookup f ps (offered g bulk s)).1 = true ∧ Offered g s (lookup f ps (offered g bulk s)).2 := by
  obtain ⟨c, b, ho⟩ := offered_frame g bulk s
  rw [ho]
  obtain ⟨hall, hlooked⟩ := lookup_granted
    (s := { s with ctr := c, dma := { s.dma with chosen := some g, bulkPtr := b } }) (f := f) (ps := ps) h
  refine ⟨hall, ?_⟩
  have hsent := hlooked.sent
  obtain ⟨c', i, k, hframe⟩ := hlooked.frame
  rw [hframe] at hsent ⊢
  exact ⟨rfl, rfl, rfl, rfl, rfl, hsent⟩

/-- An element issued takes its staging and is one more of its descriptor on the way. -/
def elementIssued (g : Nat) (d : Desc) (s : State) : State :=
  modStream g (fun x => { x with fill := x.fill + 256 * d.units })
    (modDesc g d.number (fun d => { d with issued := d.issued + 1 }) s)

theorem elementIssued_spec {d : Desc} (h : s.desc? g d.number = some d) :
    (elementIssued g d s).desc? g d.number = some { d with issued := d.issued + 1 } ∧
    ((elementIssued g d s).stream g).fill = (s.stream g).fill + 256 * d.units := by
  obtain ⟨u, hu⟩ : ∃ u, u = modDesc g d.number (fun d => { d with issued := d.issued + 1 }) s := ⟨_, rfl⟩
  have hfound := desc?_modDesc_same h (fun d => { d with issued := d.issued + 1 }) (fun _ => rfl)
  have hfill : (u.stream g).fill = (s.stream g).fill := by
    rw [hu]
    exact stream_modDesc_view Stream.fill (fun _ _ => rfl) g d.number g _
  rw [← hu] at hfound
  have hset := stream_modStream_same (lt_of_desc? hfound) (fun x => { x with fill := x.fill + 256 * d.units })
  rw [elementIssued, ← hu]
  refine ⟨?_, ?_⟩
  · rw [desc?_congr (s := u) (by rw [hset]), hfound]
  · rw [hset, hfill]

end

/-- Settles O34, by the tail's rule, by the fetch of a descriptor and what refuses it, and by the look-up and issue of the
request chosen. -/
theorem ringTailsAndDescriptorStarts : Obligations.RingTailsAndDescriptorStarts := by
  unfold Obligations.RingTailsAndDescriptorStarts
  refine ⟨?tails, ?descriptors, ?issue⟩
  case tails =>
    intro s f j v g posted x hs hg hx hp
    have hrow : exec (.dmaRingTailWrite f j v) s = .next (writeTail f j v s) := rfl
    have hlen : g < s.dma.streams.length := by
      obtain ⟨-, -, -, -, -, -, -, hstreams, -⟩ := hs
      omega
    rw [hrow]
    refine ⟨fun hopen hrun hroom hon => ?_, fun hopen hbad => ?_, fun hclosed => ?_⟩
    · refine ⟨_, rfl, writeTail_accepted hg hlen hx hp hopen ?_⟩
      rintro (h | h | h)
      · rw [hrun] at h
        exact nomatch h
      · omega
      · omega
    · refine ⟨_, rfl, ?_, ?_⟩
      · rw [writeTail_ignored hg hx hp hopen hbad, count_frame]
      · rw [writeTail_ignored hg hx hp hopen hbad, counter_count, if_pos ⟨rfl, by decide⟩]
    · rw [writeTail, if_pos (by simp [hclosed])]
  case descriptors =>
    intro s u hs hu g bs d hd hrun hstop hread hnil hlt hne htag
    have hg : g.val < u.dma.streams.length := by
      have hus : u.shaped := by rw [hu]; exact (shaped_wmkFlush s).2 hs
      obtain ⟨-, -, -, -, -, -, -, hstreams, -⟩ := hus
      rw [hstreams]
      exact g.isLt
    obtain ⟨w, hw⟩ : ∃ w, w = fetched g (u.stream g).head d u := ⟨_, rfl⟩
    have hsame : w.stream g = { u.stream g with descs := [d] } := by
      rw [hw]
      exact (fetched_stream hg hnil _).1
    have hwlen : g.val < w.dma.streams.length := by
      obtain ⟨c, hframe⟩ := fetched_frame g (u.stream g).head d u
      rw [hw, hframe]
      simpa using hg
    have hnumber : d.number = (u.stream g).head := by rw [hd]; rfl
    have hdescs (F : Desc → Desc) : ((modDesc g (u.stream g).head F w).stream g).descs = [F d] := by
      rw [modDesc, stream_modStream_same hwlen, hsame]
      simp [hnumber]
    rw [exec_descriptorStart hu hrun hstop hread hnil hne, fetchDesc_first hd hnil hlt htag hg]
    refine ⟨fun hgood hwait hroom hslot => ?_, fun hbad => ?_⟩
    · refine ⟨modDesc g (u.stream g).head (fun d => { d with started := true }) w, ?_, hdescs _, ?_⟩
      · rw [if_neg (by simp [hgood]), armDesc, if_pos (by simp [hwait]), tryStart_fetched hd hnil hg hroom hslot, hw]
      · obtain ⟨c, hframe⟩ := fetched_frame g (u.stream g).head d u
        rw [hw, hframe]
        rfl
    · refine ⟨_, by rw [if_pos hbad], ?_⟩
      rw [← hw]
      have hfound : w.desc? g (u.stream g).head = some d := by
        rw [State.desc?, hsame]
        simp [hnumber]
      have hcut := desc?_modDesc_same hfound (fun d => { d with cut := some 0, status := 5 }) (fun _ => rfl)
      have hend := endTask_untagged (status := 5) hcut htag
      rw [State.stream, hend]
      exact hdescs _
  case issue =>
    intro s hs
    have hstreams : s.dma.streams.length = 264 := by
      obtain ⟨-, -, -, -, -, -, -, hstreams, -⟩ := hs
      exact hstreams
    refine ⟨fun h => ?none, fun g bulk d h hd hg hpages => ?element, fun g bulk a rest h hg hanswers hpages => ?answer,
      fun g bulk f rest n h hfetches hn hpages => ?fetch⟩
    case none =>
      have hrow : exec .dmaRequestIssue s = execDmaRequestIssue s := rfl
      rw [hrow, execDmaRequestIssue, h]
      rfl
    case element =>
      obtain ⟨hall, hoff⟩ := offered_lookup (g := g) (bulk := bulk) hpages
      obtain ⟨w, hw⟩ : ∃ w, w = (lookup (fnOf g) (elementPages d d.issued) (offered g bulk s)).2 := ⟨_, rfl⟩
      obtain ⟨v, hv⟩ : ∃ v, v = elementIssued g d w := ⟨_, rfl⟩
      rw [← hw] at hoff
      have hwd : w.desc? g d.number = some d := by
        rw [State.desc?, State.stream, hoff.streams]
        exact hd
      obtain ⟨hissued, hfill⟩ := elementIssued_spec hwd
      rw [← hv] at hissued hfill
      have hwfill : (w.stream g).fill = (s.stream g).fill := by rw [State.stream, hoff.streams, State.stream]
      have hvchosen : v.dma.chosen = some g := by
        rw [hv]
        exact hoff.chosen
      have hvout : v.out = s.out := by
        rw [hv]
        exact hoff.out
      have hreads : hostReads v (fnOf g) (d.addr d.issued) d.l0 = hostReads s (fnOf g) (d.addr d.issued) d.l0 := by
        refine hostReads_congr (fun f a => ?_) ?_ _ _ _
        · rw [sentAddr_congr (s := w) (by rw [hv]; rfl) (by rw [hv]; rfl), hoff.sent]
        · rw [hv]
          exact hoff.maxRead
      have hexec : exec .dmaRequestIssue s = .next (if d.inbound then hostRead (fnOf g) (d.addr d.issued) d.l0 v else v) := by
        rw [exec_dmaRequestIssue h, issueReq, issueElement]
        dsimp only
        rw [hall, if_neg (by decide), ← hw, hv, elementIssued]
      have hdma : (if d.inbound then hostRead (fnOf g) (d.addr d.issued) d.l0 v else v).dma = v.dma := by
        split
        · rw [hostRead_eq]
        · rfl
      refine ⟨_, _, hexec, by rw [hdma, hvchosen], ?_, rfl, ?_, ?_⟩
      · rw [State.desc?, State.stream, hdma]
        exact hissued
      · rw [State.stream, hdma, ← hwfill]
        exact hfill
      · split
        · rw [hostRead_eq, hostRead_eq, hreads, hvout]
        · exact hvout
    case answer =>
      obtain ⟨hall, hoff⟩ := offered_lookup (g := g) (bulk := bulk) hpages
      obtain ⟨c, b, ho⟩ := offered_frame g bulk s
      have hpages' : answerPages (offered g bulk s) g = answerPages s g := by
        rw [ho]
        rfl
      refine ⟨markAnswer g true (lookup (fnOf g) (answerPages s g) (offered g bulk s)).2, ?_, ?_, hoff.out⟩
      · rw [exec_dmaRequestIssue h, issueReq, issueAnswer, hpages', if_pos hall]
      · have hlen : g < (lookup (fnOf g) (answerPages s g) (offered g bulk s)).2.dma.streams.length := by
          rw [hoff.streams]
          omega
        have hsame : ((lookup (fnOf g) (answerPages s g) (offered g bulk s)).2.stream g).answers = a :: rest := by
          rw [State.stream, hoff.streams]
          exact hanswers
        rw [markAnswer, stream_modStream_same hlen, hsame]
    case fetch =>
      obtain ⟨hall, hoff⟩ := offered_lookup (g := g) (bulk := bulk) hpages
      obtain ⟨w, hw⟩ : ∃ w, w = (lookup 0 (fetchPages f) (offered g bulk s)).2 := ⟨_, rfl⟩
      rw [← hw] at hoff
      have hno : n = min (min f.left ((kvGet (offered g bulk s).dma.maxRead 0).getD 512)) (4096 - f.addr % 4096) := by
        obtain ⟨c, b, ho⟩ := offered_frame g bulk s
        rw [ho]
        exact hn
      refine ⟨modDma (fun d => { d with fetches := (if f.left - n = 0 then [] else
        [{ f with addr := f.addr + n, left := f.left - n }]) ++ d.fetches.drop 1 }) (hostRead 0 f.addr n w), ?_, ?_, ?_⟩
      · rw [exec_dmaRequestIssue h, issueReq, issueFetch]
        dsimp only
        rw [hall, if_neg (by decide), ← hw, ← hno]
      · rw [modDma_out, hostRead_eq, hostRead_eq, hostReads_congr hoff.sent hoff.maxRead, hoff.out]
      · have hle : n ≤ f.left := by omega
        have hdma : (hostRead 0 f.addr n w).dma = w.dma := by rw [hostRead_eq]
        rw [modDma_dma, hdma, hoff.fetches, hfetches]
        by_cases hall' : n = f.left
        · rw [if_pos (by omega), if_pos hall']
          rfl
        · rw [if_neg (by omega), if_neg hall']
          rfl

end Sys2Proof.Machine
end

section
/-! PROOFS. Answers are staged and written, and status words end descriptors (O36). -/

namespace Sys2Proof.Machine

/-! ## What a signal and a posted response leave of the streams -/

/-- A signal's effect on the streams is on the waits of their descriptors alone. -/
structure Signalled (s t : State) : Prop where
  out : t.out = s.out
  counter : ∀ g i, t.counter (cStr g i) = s.counter (cStr g i)
  dma : t.dma = { s.dma with streams := t.dma.streams }
  done : ∀ g, (t.stream g).descs.map (·.done) = (s.stream g).descs.map (·.done)
  head : ∀ g, (t.stream g).head = (s.stream g).head
  stopDue : ∀ g, (t.stream g).stopDue = (s.stream g).stopDue

section
variable {s t u : State}

theorem Signalled.trans (h : Signalled s t) (h' : Signalled t u) : Signalled s u where
  out := h'.out.trans h.out
  counter g i := (h'.counter g i).trans (h.counter g i)
  dma := by rw [h'.dma, h.dma]
  done g := (h'.done g).trans (h.done g)
  head g := (h'.head g).trans (h.head g)
  stopDue g := (h'.stopDue g).trans (h.stopDue g)

/-- A change beside the streams, the outputs and the streams' counters. -/
theorem Signalled.of_eq (hout : t.out = s.out) (hdma : t.dma = s.dma) (hctr : ∀ g i, t.counter (cStr g i) = s.counter (cStr g i)) :
    Signalled s t where
  out := hout
  counter := hctr
  dma := by rw [hdma]
  done g := by rw [State.stream, hdma, State.stream]
  head g := by rw [State.stream, hdma, State.stream]
  stopDue g := by rw [State.stream, hdma, State.stream]

theorem Signalled.refl (s : State) : Signalled s s := .of_eq rfl rfl (fun _ _ => rfl)

theorem signalled_count {k : Nat} (hk : k < 0x8000) (n : Nat) : Signalled s (count k n s) :=
  .of_eq (by rw [count_frame]) (by rw [count_frame])
    (fun g i => by rw [counter_count, if_neg (fun h => by have := h.1; unfold cStr at this; omega)])

theorem signalled_raise (c t : Nat) (d : List Byte) : Signalled s (raise c t d s) :=
  .of_eq (by rw [raise_frame]) (by rw [raise_frame])
    (fun g i => counter_raise_ne (by unfold cStr cEngineDropped; omega) _ _ _)

theorem signalled_evalWaits (n : Nat) (wasReset : Bool) (t : TimeSt) : Signalled s (evalWaits n wasReset t s) := by
  obtain ⟨c, hc⟩ := evalWaits_frame s n wasReset t
  have hcounted : Signalled s ((List.range 33).foldl (fun s f => countTimeouts f (timedOut s n t f) s) s) := by
    have hfold (l : List Nat) (hl : ∀ f ∈ l, f < 33) (u : State) (hu : Signalled s u) :
        Signalled s (l.foldl (fun s f => countTimeouts f (timedOut s n t f) s) u) := by
      induction l generalizing u with
      | nil => exact hu
      | cons f l ih =>
        have hf := hl f List.mem_cons_self
        have hstep : Signalled u (countTimeouts f (timedOut u n t f) u) := by
          unfold countTimeouts
          split
          · exact .refl _
          · refine signalled_count ?_ _
            unfold cTen
            omega
        exact ih (fun g hg => hl g (List.mem_cons_of_mem _ hg)) _ (hu.trans hstep)
    exact hfold _ (fun f hf => List.mem_range.1 hf) s (.refl s)
  have hctr (g i : Nat) : (evalWaits n wasReset t s).counter (cStr g i) = s.counter (cStr g i) := by
    have hfold := hcounted.counter g i
    unfold evalWaits
    simp only [State.counter] at hfold ⊢
    exact hfold
  have hdone (d : Desc) : (evalDesc n (s.waymark n) wasReset t d).done = d.done := by
    unfold evalDesc
    split
    · split
      · rfl
      · split <;> rfl
    · rfl
  have hview {β : Type} (V : Stream → β)
      (hV : ∀ x : Stream, V { x with descs := x.descs.map (evalDesc n (s.waymark n) wasReset t) } = V x) (g : Nat) :
      V ((evalWaits n wasReset t s).stream g) = V (s.stream g) := by
    rw [hc, State.stream, State.stream]
    exact getD_map_step (R := fun x y => V y = V x) (fun _ => rfl) hV _ _ _
  refine ⟨by rw [hc], hctr, by rw [hc], fun g => ?_, fun g => ?_, fun g => ?_⟩
  · have hflags := hview (fun x => x.descs.map (·.done)) (fun x => by simp [Function.comp_def, hdone]) g
    exact hflags
  · exact hview Stream.head (fun _ => rfl) g
  · exact hview Stream.stopDue (fun _ => rfl) g

theorem signalled_wmkUpdate (t : TimeSt) (n : Nat) (F : Waymark → Waymark) (wasReset : Bool) :
    Signalled s (wmkUpdate t n F wasReset s) := by
  have hcounted : Signalled s (count (cWmk 0) 1 s) := signalled_count (by decide) 1
  have hput (u : State) (w : Waymark) : Signalled u (putWaymark n w u) := .of_eq rfl rfl (fun _ _ => rfl)
  unfold wmkUpdate
  exact (hcounted.trans (hput _ _)).trans (signalled_evalWaits n wasReset t)

theorem signalled_wmkApply (t : TimeSt) (i : Nat) (op : WmkOp) : Signalled s (wmkApply t i op s) := by
  cases h : op.ignored with
  | true =>
    rw [wmkApply, if_pos h]
    exact .refl s
  | false =>
    rw [wmkApply_eq s h]
    have hupdated := (signalled_count (s := s) (k := cWmk 1) (by decide) (op.trips (s.waymark i))).trans
      (signalled_wmkUpdate t i op.on op.resets)
    dsimp only
    split
    · exact hupdated.trans (signalled_raise _ _ _)
    · exact hupdated

theorem signalled_wmkPost (src n : Nat) (op : WmkOp) : Signalled s (wmkPost src n op s) := by
  unfold wmkPost
  split
  · exact .refl s
  · split
    · exact (signalled_wmkApply s.time n op).trans (.of_eq rfl rfl (fun _ _ => rfl))
    · exact .of_eq rfl rfl (fun _ _ => rfl)

/-- A posted response is a matter of the functions alone. -/
theorem postResponse_frame (f status : Nat) (payload : List Byte) (s : State) :
    postResponse f status payload s = { s with fns := (postResponse f status payload s).fns } := by
  unfold postResponse
  dsimp only
  split
  · rfl
  · split <;> rfl

theorem signalled_postWaiting (op : Nat) (mine : List Byte → Nat → Bool) (status : Nat) (payload : List Byte) :
    Signalled s (postWaiting op mine status payload s) := by
  refine foldl_keeps (Signalled s) _ (fun t f ht => ht.trans ?_) _ s (.refl s)
  dsimp only
  split
  · split
    · rw [postResponse_frame]
      exact .of_eq rfl rfl (fun _ _ => rfl)
    · exact .refl t
  · exact .refl t

/-! ## The end of a descriptor -/

/-- A stream that does not stop has nothing to settle. -/
theorem settleStop_quiet {g : Nat} (h : (s.stream g).stopDue = false) : settleStop g s = s := by
  rw [settleStop, h]
  rfl

/-- The settling of a stop touches no output, no stream's counter and no translation. -/
theorem settleStop_keeps (g : Nat) : (settleStop g s).out = s.out ∧
    (∀ h i, (settleStop g s).counter (cStr h i) = s.counter (cStr h i)) ∧
    (settleStop g s).dma = { s.dma with streams := (settleStop g s).dma.streams } := by
  unfold settleStop
  dsimp only
  split
  · obtain ⟨u, hu⟩ : ∃ u, u = modStream g (fun x => { x with
        mode := .stopped, stopDue := false, fill := (x.answers.map (fun a => if a.staged then a.size else 0)).sum }) s := ⟨_, rfl⟩
    have hposted := signalled_postWaiting (s := u) 0x0602
      (fun pl _ => byteAt pl 2 == 2 && 8 * byteAt pl 0 + byteAt pl 1 == g) 0 []
    rw [← hu]
    generalize postWaiting _ _ _ _ u = v at hposted ⊢
    refine ⟨hposted.out.trans (by rw [hu]; rfl), fun h i => (hposted.counter h i).trans (by rw [hu]; rfl), ?_⟩
    rw [hposted.dma, hu]
    rfl
  · exact ⟨rfl, fun _ _ => rfl, rfl⟩

/-- The signal of a descriptor that is done, when it has a Waymark. -/
def signalDesc (d : Desc) (failed : Bool) (s : State) : State :=
  match d.signalWmk with
  | some i => wmkPost 1 i (.signal (if bit d.flags 4 then d.elements else 1) (failed || d.signalError)) s
  | none => s

theorem signalled_signalDesc (d : Desc) (failed : Bool) : Signalled s (signalDesc d failed s) := by
  unfold signalDesc
  split
  · exact signalled_wmkPost _ _ _
  · exact .refl s

theorem finishDesc_eq {g n : Nat} {d : Desc} (h : s.desc? g n = some d) (failed : Bool) :
    finishDesc g n failed s = settleStop g (advanceHead g (signalDesc d failed
      (modDesc g n (fun d => { d with done := true }) (count (cStr g 2) 1 s)))) := by
  rw [finishDesc, h]
  rfl

/-- A finished descriptor is counted, sends nothing more and leaves the translations. -/
theorem finishDesc_keeps {g n : Nat} {d : Desc} (h : s.desc? g n = some d) (failed : Bool) :
    (finishDesc g n failed s).out = s.out ∧
    (∀ f i, (finishDesc g n failed s).counter (cStr f i) = (count (cStr g 2) 1 s).counter (cStr f i)) ∧
    (finishDesc g n failed s).dma = { s.dma with streams := (finishDesc g n failed s).dma.streams } := by
  obtain ⟨u, hu⟩ : ∃ u, u = modDesc g n (fun d => { d with done := true }) (count (cStr g 2) 1 s) := ⟨_, rfl⟩
  have hsignal := signalled_signalDesc (s := u) d failed
  obtain ⟨hout, hctr, hdma⟩ := settleStop_keeps (s := advanceHead g (signalDesc d failed u)) g
  rw [finishDesc_eq h, ← hu]
  refine ⟨?_, fun f i => ?_, ?_⟩
  · rw [hout]
    show (signalDesc d failed u).out = s.out
    rw [hsignal.out, hu]
    show (count (cStr g 2) 1 s).out = s.out
    rw [count_frame]
  · rw [hctr]
    show (signalDesc d failed u).counter (cStr f i) = _
    rw [hsignal.counter, hu]
    rfl
  · have hadvance : (advanceHead g (signalDesc d failed u)).dma =
        { s.dma with streams := (advanceHead g (signalDesc d failed u)).dma.streams } := by
      show { (signalDesc d failed u).dma with streams := (advanceHead g (signalDesc d failed u)).dma.streams } = _
      have hu' : u.dma = { s.dma with streams := u.dma.streams } := by
        have hcounted : (count (cStr g 2) 1 s).dma = s.dma := by rw [count_frame]
        rw [hu, ← hcounted]
        rfl
      rw [hsignal.dma, hu']
    rw [hdma, hadvance]

/-- HEAD passes the only descriptor of a ring once it is done. -/
theorem finishDesc_only {g n : Nat} {d : Desc} (h : s.desc? g n = some d) (honly : (s.stream g).descs = [d])
    (hstop : (s.stream g).stopDue = false) (failed : Bool) :
    ((finishDesc g n failed s).stream g).descs = [] ∧
      ((finishDesc g n failed s).stream g).head = ((s.stream g).head + 1) % 2 ^ 32 := by
  obtain ⟨c, hc⟩ : ∃ c, c = count (cStr g 2) 1 s := ⟨_, rfl⟩
  have hcs : c.dma = s.dma := by rw [hc, count_frame]
  have hg := lt_of_desc? h
  have hglen : g < c.dma.streams.length := by rw [hcs]; exact hg
  obtain ⟨u, hu⟩ : ∃ u, u = modDesc g n (fun d => { d with done := true }) c := ⟨_, rfl⟩
  have hus : u.stream g = { s.stream g with descs := [{ d with done := true }] } := by
    have hstream : c.stream g = s.stream g := by rw [State.stream, hcs, State.stream]
    rw [hu, modDesc, stream_modStream_same hglen, hstream, honly]
    simp [number_of_desc? h]
  have hsignal := signalled_signalDesc (s := u) d failed
  obtain ⟨v, hv⟩ : ∃ v, v = signalDesc d failed u := ⟨_, rfl⟩
  rw [← hv] at hsignal
  have hdone : (v.stream g).descs.map (·.done) = [true] := by
    rw [hsignal.done, hus]
    rfl
  obtain ⟨e, he⟩ : ∃ e, (v.stream g).descs = [e] := List.length_eq_one_iff.1 (by simpa using congrArg List.length hdone)
  have hedone : e.done = true := by
    rw [he] at hdone
    exact List.cons.inj hdone |>.1
  have hvlen : g < v.dma.streams.length := by
    have hsome : v.desc? g e.number = some e := by
      rw [State.desc?, he]
      simp
    exact lt_of_desc? hsome
  have hadvance : (advanceHead g v).stream g = { v.stream g with descs := [], head := ((s.stream g).head + 1) % 2 ^ 32 } := by
    rw [advanceHead, stream_modStream_same hvlen, he, hsignal.head, hus]
    simp [hedone]
  have hquiet : ((advanceHead g v).stream g).stopDue = false := by
    rw [hadvance]
    show (v.stream g).stopDue = false
    rw [hsignal.stopDue, hus]
    exact hstop
  rw [finishDesc_eq h, ← hc, ← hu, ← hv, settleStop_quiet hquiet, hadvance]
  exact ⟨rfl, rfl⟩

end

section
variable {s : State} {g : Nat}

/-- An answer that finds room in its stream's staging stands there, and its record's context is free. -/
theorem ringAnswer_staged (hg : g < s.dma.streams.length) {n k : Nat} {reason : Bool} {bs : List Byte} {c : Nat}
    (hnil : (s.stream g).answers = []) (hroom : (s.stream g).fill + 256 * ceilDiv bs.length 256 ≤ (s.stream g).staging) :
    ((ringAnswer g n k reason bs (some c) s).stream g).answers = [⟨n, k, reason, bs, none, true, false⟩] ∧
    ((ringAnswer g n k reason bs (some c) s).stream g).fill = (s.stream g).fill + 256 * ceilDiv bs.length 256 ∧
    (ringAnswer g n k reason bs (some c) s).ctx? c = none := by
  obtain ⟨a, ha⟩ : ∃ a : RingAnswer, a = ⟨n, k, reason, bs, some c, false, false⟩ := ⟨_, rfl⟩
  obtain ⟨u, hu⟩ : ∃ u, u = modStream g (fun x => { x with answers := x.answers ++ [a] }) s := ⟨_, rfl⟩
  have hus : u.stream g = { s.stream g with answers := [a] } := by
    rw [hu, stream_modStream_same hg, hnil]
    rfl
  have hulen : g < u.dma.streams.length := by
    rw [hu, modStream_dma]
    simpa using hg
  have hsize : a.size = 256 * ceilDiv bs.length 256 := by rw [ha]; rfl
  have hstaged : a.staged = false := by rw [ha]
  have hlist : stageList ((u.stream g).staging - (u.stream g).fill) (u.stream g).answers =
      ([{ a with staged := true, ctx := none }], a.size + 0, [c]) := by
    rw [hus]
    show stageList ((s.stream g).staging - (s.stream g).fill) [a] = _
    rw [stageList, if_neg (by simp [hstaged]), if_pos (by omega), ha]
    rfl
  have hanswer : ringAnswer g n k reason bs (some c) s = freeContext c
      (modStream g (fun x => { x with answers := [{ a with staged := true, ctx := none }], fill := x.fill + (a.size + 0) }) u) := by
    show stageAnswers g (modStream g (fun x => { x with answers := x.answers ++ [⟨n, k, reason, bs, some c, false, false⟩] }) s) = _
    rw [← ha, ← hu, stageAnswers, hlist]
    rfl
  rw [hanswer, stream_freeContext, stream_modStream_same hulen, hus, ha]
  exact ⟨rfl, by rw [← hsize, ha]; rfl, ctx?_freeContext_same _ c⟩

theorem exec_ringAnswerWrite {g : StreamId} {a : RingAnswer} {rest : List RingAnswer} {e : RingAnswer} {d : Desc} {slot : Nat}
    (hanswers : (s.stream g).answers = a :: rest) (hplace : answerPlace s g = some (e, d, slot)) (hissued : a.issued = true)
    (hpages : (answerPages s g).all (fun p => granted s (fnOf g) p.1 p.2) = true) :
    exec (.ringAnswerWrite g) s = .next (settleInvals (giveBack [.ring g a.size] (count (cStr g 4) (ceilDiv a.bytes.length 256)
      (modStream g (fun x => { x with answers := rest })
        (hostWrite (fnOf g) slot (a.bytes.take 8) false (hostWrite (fnOf g) (slot + 8) (a.bytes.drop 8) false s)))))) := by
  have hrow : exec (.ringAnswerWrite g) s = execRingAnswerWrite g s := rfl
  rw [hrow, execRingAnswerWrite, hanswers]
  dsimp only
  rw [hplace]
  dsimp only
  rw [hissued, hpages, if_neg (by decide), if_neg (by decide)]

theorem exec_descriptorComplete {g : StreamId} {n : Nat} {d : Desc} (hd : s.desc? g n = some d) (hover : d.over = true)
    (hdone : d.done = false) (hwrites : writesDone s g n = true) (hpri : s.dma.pris.any (fun w => w.who == .status g.val n) = false)
    (hpage : granted s (fnOf g) (statusPage s g n) true = true) :
    exec (.descriptorComplete g n) s = .next (finishDesc g n false (hostWrite (fnOf g) (statusAddr s g n)
      (statusBytes d true false) false (lookup (fnOf g) [(statusPage s g n, true)] s).2)) := by
  have hrow : exec (.descriptorComplete g n) s = execDescriptorComplete g n s := rfl
  rw [hrow, execDescriptorComplete, hd]
  dsimp only
  rw [hover, hdone, hwrites, hpri, if_neg (by decide), if_pos (lookup_granted_one hpage).1]

end

/-- Settles O36, by the place an answer finds in staging, its two writes, and the end of a descriptor. -/
theorem answersAndStatusWordsAreWritten : Obligations.AnswersAndStatusWordsAreWritten := by
  unfold Obligations.AnswersAndStatusWordsAreWritten
  intro s g hs
  have hg : g.val < s.dma.streams.length := by
    obtain ⟨-, -, -, -, -, -, -, hstreams, -⟩ := hs
    rw [hstreams]
    exact g.isLt
  refine ⟨fun n k reason bs c hnil hroom => ?staged, fun a rest e d slot hanswers hplace hissued hpages => ?written,
    fun a rest e d slot hanswers hplace hissued => ?waits, fun n d hd hover hdone hwrites hpri hpage => ?completed⟩
  case staged => exact ringAnswer_staged hg hnil hroom
  case written =>
    obtain ⟨w, hw⟩ : ∃ w, w = hostWrite (fnOf g) slot (a.bytes.take 8) false
      (hostWrite (fnOf g) (slot + 8) (a.bytes.drop 8) false s) := ⟨_, rfl⟩
    have hwf : ∃ c o, w = { s with ctr := c, out := o } := by
      rw [hw, hostWrite_eq, hostWrite_eq]
      exact ⟨_, _, rfl⟩
    obtain ⟨u, hu⟩ : ∃ u, u = giveBack [.ring g a.size] (count (cStr g 4) (ceilDiv a.bytes.length 256)
      (modStream g (fun x => { x with answers := rest }) w)) := ⟨_, rfl⟩
    have huf : ∃ c, u = { w with ctr := c, returned := s.returned ++ [.ring g a.size]
                                 dma := { s.dma with streams := s.dma.streams.modify g (fun x => { x with answers := rest }) } } := by
      obtain ⟨c, o, hframe⟩ := hwf
      refine ⟨u.ctr, ?_⟩
      rw [hu, count_frame, hframe]
      rfl
    obtain ⟨c, huc⟩ := huf
    have hustream : u.stream g = { s.stream g with answers := rest } := by
      have hset := stream_modStream_same hg (fun x => { x with answers := rest })
      rw [huc]
      exact hset
    obtain ⟨pre, i, l, hsettled, hpre⟩ := settleInvals_frame u
    refine ⟨settleInvals u, pre, ?_, ?_, hpre, ?_, ?_, ?_⟩
    · rw [exec_ringAnswerWrite hanswers hplace hissued hpages, ← hw, ← hu]
    · rw [← hw, hsettled, huc]
    · rw [stream_settleInvals, hustream]
    · rw [stream_settleInvals, hustream]
    · rw [hsettled, huc]
  case waits =>
    have hrow : exec (.ringAnswerWrite g) s = execRingAnswerWrite g s := rfl
    rw [hrow, execRingAnswerWrite, hanswers]
    dsimp only
    rw [hplace]
    exact if_pos (by simp [hissued])
  case completed =>
    obtain ⟨-, hlooked⟩ := lookup_granted_one hpage
    obtain ⟨v, hv⟩ : ∃ v, v = (lookup (fnOf g) [(statusPage s g n, true)] s).2 := ⟨_, rfl⟩
    rw [← hv] at hlooked
    obtain ⟨w, hw⟩ : ∃ w, w = hostWrite (fnOf g) (statusAddr s g n) (statusBytes d true false) false v := ⟨_, rfl⟩
    obtain ⟨c, i, k, hvf⟩ := hlooked.frame
    have hwstreams : w.dma.streams = s.dma.streams := by rw [hw, hostWrite_eq, hvf]
    have hwstream : w.stream g = s.stream g := by rw [State.stream, hwstreams, State.stream]
    have hwd : w.desc? g n = some d := (desc?_congr (by rw [hwstream]) n).trans hd
    have hwctr : w.counter (cStr g 2) = s.counter (cStr g 2) := by
      have hvctr := hlooked.counter (cStr g 2) (by unfold cStr cDma; omega)
      have hcount : w.counter (cStr g 2) = (count (cDma 1) (statusBytes d true false).length v).counter (cStr g 2) := by
        rw [hw, hostWrite_eq]
        rfl
      rw [hcount, counter_count, if_neg (fun h => by have := h.1; unfold cStr cDma at this; omega), hvctr]
    have hwout : w.out = (hostWrites s (fnOf g) (statusAddr s g n) (statusBytes d true false) (fun _ _ => false)).reverse ++ s.out := by
      rw [hw, hostWrite_eq]
      show (hostWrites v _ _ _ _).reverse ++ v.out = _
      rw [hostWrites_congr hlooked.sent (by rw [hvf]), hvf]
    obtain ⟨hout, hctr, -⟩ := finishDesc_keeps hwd false
    refine ⟨_, by rw [exec_descriptorComplete hd hover hdone hwrites hpri hpage, ← hv, ← hw], fun p hp => ?_, ?_,
      fun honly hstop => ?_⟩
    · rw [hout, hwout]
      refine List.mem_append_left _ (List.mem_reverse.2 (List.mem_map.2 ⟨p, ?_, rfl⟩))
      exact hp
    · rw [hctr, counter_count, if_pos ⟨rfl, by decide⟩, hwctr]
    · have hlast := finishDesc_only hwd (by rw [hwstream, honly]) (by rw [hwstream, hstop]) false
      rw [hwstream] at hlast
      exact hlast

end Sys2Proof.Machine
end

section
/-! SUPPORT. The rights a page is translated with (R309): only a translation and an invalidation change them. -/

namespace Sys2Proof.Machine

section
variable {s t : State}

/-- Rights stand in the translations of the functions with ATS on. -/
theorem granted_congr (hats : t.dma.ats = s.dma.ats) (htlb : t.dma.iotlb = s.dma.iotlb) : granted t = granted s := by
  funext f p w
  rw [granted, hats, htlb, granted]

theorem granted_of_dma (h : t.dma = s.dma) : granted t = granted s := granted_congr (by rw [h]) (by rw [h])

end

section
variable (s : State)

/-! ## Branches and folds -/

@[simp] theorem granted_ite (p : Prop) [Decidable p] (s t : State) :
    granted (if p then s else t) = if p then granted s else granted t := apply_ite _ _ _ _

@[simp] theorem granted_option_elim {α : Type} (o : Option α) (f : α → State) (s : State)
    (hf : ∀ a, granted (f a) = granted s) : granted (o.elim s f) = granted s := by
  cases o with
  | none => rfl
  | some a => exact hf a

@[simp] theorem granted_foldl {β : Type} (g : State → β → State) (hg : ∀ s x, granted (g s x) = granted s) (l : List β)
    (s : State) : granted (l.foldl g s) = granted s :=
  foldl_keeps (fun t => granted t = granted s) g (fun _ x ht => (hg _ x).trans ht) l s rfl

/-! ## Updates beside the translations -/

@[simp] theorem granted_count (k n : Nat) : granted (count k n s) = granted s := granted_of_dma (by rw [count_frame])
@[simp] theorem granted_raise (c t : Nat) (d : List Byte) : granted (raise c t d s) = granted s :=
  granted_of_dma (by rw [raise_frame])
@[simp] theorem granted_emit (o : Outp) : granted (emit o s) = granted s := rfl
@[simp] theorem granted_modStream (g : Nat) (F : Stream → Stream) : granted (modStream g F s) = granted s := granted_congr rfl rfl
@[simp] theorem granted_modDesc (g n : Nat) (F : Desc → Desc) : granted (modDesc g n F s) = granted s := granted_congr rfl rfl
@[simp] theorem granted_modFn (i : Nat) (F : FnSt → FnSt) : granted (modFn i F s) = granted s := rfl
@[simp] theorem granted_modMem (F : MemSt → MemSt) : granted (modMem F s) = granted s := rfl
@[simp] theorem granted_modModel (i : Nat) (F : Model → Model) : granted (modModel i F s) = granted s := rfl
@[simp] theorem granted_markLost (f : Nat) : granted (markLost f s) = granted s := rfl
@[simp] theorem granted_freeContext (c : Nat) : granted (freeContext c s) = granted s :=
  granted_of_dma (congrArg ReleaseView.dma (releaseView_freeContext s c))
@[simp] theorem granted_freeContext? (c : Option Nat) : granted (freeContext? c s) = granted s := by
  cases c with
  | none => rfl
  | some c => exact granted_freeContext s c
@[simp] theorem granted_stageAnswers (g : Nat) : granted (stageAnswers g s) = granted s := by simp [stageAnswers]
@[simp] theorem granted_ringAnswer (g n k : Nat) (reason : Bool) (bs : List Byte) (c : Option Nat) :
    granted (ringAnswer g n k reason bs c s) = granted s := by simp [ringAnswer]
@[simp] theorem granted_hostWriteBy (f a : Nat) (bs : List Byte) (bad : Nat → Nat → Bool) :
    granted (hostWriteBy f a bs bad s) = granted s := granted_of_dma (by rw [hostWriteBy_eq])
@[simp] theorem granted_hostWrite (f a : Nat) (bs : List Byte) (p : Bool) : granted (hostWrite f a bs p s) = granted s :=
  granted_hostWriteBy s f a bs _
@[simp] theorem granted_nextFree (w : Nat) : granted (nextFree w s).2 = granted s := rfl
@[simp] theorem granted_postResponse (f st : Nat) (p : List Byte) : granted (postResponse f st p s) = granted s :=
  granted_of_dma (by rw [postResponse_frame])
@[simp] theorem granted_freePlot (p : Nat) : granted (freePlot p s) = granted s := by
  simp [freePlot, setPlot, colInvalidate, zeroRange]
@[simp] theorem granted_releasePlots (ps : List Nat) : granted (releasePlots ps s) = granted s :=
  granted_foldl _ (fun t p => granted_freePlot t p) ps s

/-- An invalidation that completes forgets only entries that grant nothing. -/
@[simp] theorem granted_settleInvals : granted (settleInvals s) = granted s := by
  funext f p w
  have hany (left : List (Nat × Nat × Nat)) (l : List Iotlb) : (l.filter (fun e => e.read || e.write ||
      left.any (fun v => e.meets v.1 v.2.1 v.2.2))).any (fun e => e.grants f p w) = l.any (fun e => e.grants f p w) := by
    rw [List.any_filter]
    refine congrArg (List.any l) (funext fun e => ?_)
    cases hr : e.read <;> cases hw : e.write <;> cases w <;> simp [Iotlb.grants, hr, hw]
  rw [settleInvals_eq, granted, granted]
  exact congrArg (_ || ·) (hany _ _)

/-! ## Look-ups -/

@[simp] theorem granted_askTranslation (f page : Nat) : granted (askTranslation f page s) = granted s := by
  unfold askTranslation
  split
  · rfl
  · exact granted_congr rfl rfl
@[simp] theorem granted_lookupPage (f : Nat) (p : Nat × Bool) : granted (lookupPage f p s) = granted s := by
  by_cases h : granted s f p.1 p.2 = true
  · funext f' q w
    exact (looked_lookupPage h).grants f' q w
  · unfold lookupPage
    split
    · rfl
    · simp
@[simp] theorem granted_lookup (f : Nat) (ps : List (Nat × Bool)) : granted (lookup f ps s).2 = granted s := by simp [lookup]

/-! ## Descriptors and page faults -/

@[simp] theorem granted_writeHalted (g n : Nat) : granted (writeHalted g n s) = granted s := by
  unfold writeHalted
  split
  · rfl
  · dsimp only
    split <;> simp
@[simp] theorem granted_dropFaults (g n : Nat) : granted (dropFaults g n s) = granted s := granted_congr rfl rfl
@[simp] theorem granted_stopDesc (g n status : Nat) : granted (stopDesc g n status s) = granted s := by simp [stopDesc]
@[simp] theorem granted_endTask (g n status : Nat) : granted (endTask g n status s) = granted s := by
  unfold endTask
  split <;> simp
@[simp] theorem granted_raisePriFail (g n k iova : Nat) : granted (raisePriFail g n k iova s) = granted s := by simp [raisePriFail]
@[simp] theorem granted_faultAnswer (g n k : Nat) : granted (faultAnswer g n k s) = granted s := by simp [faultAnswer]
@[simp] theorem granted_poisonRest (d : Desc) (plots : List Nat) (k : Nat) : granted (poisonRest d plots k s) = granted s :=
  granted_foldl _ (fun t _ => granted_modMem t _) _ _
@[simp] theorem granted_faultMode (g n k : Nat) : granted (faultMode g n k s) = granted s := by
  unfold faultMode
  split
  · rfl
  · dsimp only
    split
    · simp
    · split
      · simp
      · split
        · split <;> simp
        · simp
@[simp] theorem granted_failElement (g n : Nat) : granted (failElement g n s) = granted s := by
  unfold failElement
  split <;> simp
@[simp] theorem granted_failAnswer (g : Nat) : granted (failAnswer g s) = granted s := by
  unfold failAnswer
  split
  · rfl
  · split
    · rfl
    · dsimp only
      split <;> simp
@[simp] theorem granted_finishDesc (g n : Nat) (failed : Bool) : granted (finishDesc g n failed s) = granted s := by
  cases h : s.desc? g n with
  | none => rw [finishDesc, h]
  | some d =>
    obtain ⟨-, -, hdma⟩ := finishDesc_keeps h failed
    exact granted_congr (by rw [hdma]) (by rw [hdma])
@[simp] theorem granted_failStatus (g n : Nat) : granted (failStatus g n s) = granted s := by
  unfold failStatus
  dsimp only
  split
  · simp
  · split <;> simp
@[simp] theorem granted_failLoad (j : LoadJob) (r : Refused) : granted (failLoad j r s) = granted s := by
  rw [failLoad, granted_postResponse, granted_releasePlots]
  exact granted_congr rfl rfl
@[simp] theorem granted_healFail (m : Model) (off reason : Nat) : granted (healFail m off reason s) = granted s := by simp [healFail]
@[simp] theorem granted_failFetch : granted (failFetch s) = granted s := by
  have hdrop (rest : List Fetch) (u : State) : granted (modDma (fun d => { d with fetches := rest }) u) = granted u :=
    granted_congr rfl rfl
  unfold failFetch
  split
  · rfl
  · dsimp only
    split <;> simp [hdrop]
@[simp] theorem granted_failWho (w : PriWait) : granted (failWho w s) = granted s := by
  unfold failWho
  split <;> simp
@[simp] theorem granted_pumpPri (f : Nat) : granted (pumpPri f s) = granted s := by
  have hsent (F : DmaSt → List PriWait) (u : State) : granted (modDma (fun d => { d with pris := F d }) u) = granted u :=
    granted_congr rfl rfl
  refine granted_foldl _ (fun u w => ?_) _ _
  split
  · rw [granted_emit, granted_count]
    exact hsent _ u
  · rfl
@[simp] theorem granted_requestPri (who : PriWho) (f page : Nat) (write : Bool) :
    granted (requestPri who f page write s) = granted s := by
  unfold requestPri
  dsimp only
  split
  · rfl
  · split
    · rw [granted_pumpPri]
      exact granted_congr rfl rfl
    · simp
@[simp] theorem granted_resumeDesc (g n : Nat) : granted (resumeDesc g n s) = granted s := by simp [resumeDesc]
@[simp] theorem granted_resumeWho (w : PriWait) : granted (resumeWho w s) = granted s := by
  unfold resumeWho
  split <;> simp
@[simp] theorem granted_forPris (sel : PriWait → Bool) (act : PriWait → State → State)
    (hact : ∀ w t, granted (act w t) = granted t) : granted (forPris sel act s) = granted s := by
  refine (granted_foldl _ (fun t w => hact w t) _ _).trans ?_
  exact granted_congr rfl rfl
@[simp] theorem granted_haltDesc (who : PriWho) (g n k page : Nat) (write : Bool) :
    granted (haltDesc who g n k page write s) = granted s := by simp [haltDesc]
@[simp] theorem granted_writeDueStatus (f : Nat) : granted (writeDueStatus f s) = granted s := by simp [writeDueStatus]
@[simp] theorem granted_newFaults (f page size : Nat) : granted (newFaults f page size s) = granted s := by
  unfold newFaults
  extract_lets hit elements answers status fetch
  have helements : granted elements = granted s := by
    refine granted_foldl _ (fun t g => granted_foldl _ (fun t d => ?_) _ _) _ _
    split <;> simp
  have hanswers : granted answers = granted elements := by
    refine granted_foldl _ (fun t g => granted_option_elim _ _ _ (fun x => ?_)) _ _
    split <;> simp
  have hstatus : granted status = granted answers := by
    refine granted_foldl _ (fun t g => granted_foldl _ (fun t d => ?_) _ _) _ _
    split <;> simp
  have hfetch : granted fetch = granted status := by
    simp only [fetch]
    split <;> simp
  have hevent : granted fetch = granted s := hfetch.trans (hstatus.trans (hanswers.trans helements))
  split
  · exact (granted_requestPri _ _ _ _ _).trans hevent
  · exact hevent

end

end Sys2Proof.Machine
end

section
/-! PROOFS. Translations are filled, invalidated and failed (O37). -/

namespace Sys2Proof.Machine

section
variable {s t u : State}

/-! ## Completions and invalidations -/

/-- A translation inserted grants its rights on its pages. -/
theorem granted_insertTranslation {f page target size p : Nat} {rd wr : Bool} {w : Bool} (hp : page ≤ p) (hp' : p < page + size)
    (hw : (if w then wr else rd) = true) : granted (insertTranslation f page target size rd wr s) f p w = true := by
  have hentry (l : List Iotlb) (k : Nat) : (l ++ [(⟨f, page, target, size, rd, wr, k⟩ : Iotlb)]).any (fun e => e.grants f p w) = true := by
    rw [List.any_append, List.any_cons]
    simp [Iotlb.grants, Iotlb.covers, hp, hp', hw]
  exact Bool.or_eq_true_iff.2 (.inr (hentry _ _))

theorem translationCompletion_grants {f : Fn} {page k target : Nat} {rd wr : Bool}
    (h : s.dma.xlate.contains (f.val, page) = true) : ∃ t, exec (.translationCompletion f page k rd wr target) s = .next t ∧
      ∀ p, page / 2 ^ (k - 12) * 2 ^ (k - 12) ≤ p → p < page / 2 ^ (k - 12) * 2 ^ (k - 12) + 2 ^ (k - 12) →
        (rd = true → granted t f p false = true) ∧ (wr = true → granted t f p true = true) := by
  have hrow : exec (.translationCompletion f page k rd wr target) s = execTranslationCompletion f page k rd wr s target := rfl
  rw [hrow]
  unfold execTranslationCompletion
  extract_lets g size base asked filled resumed faults
  rw [if_neg (by rw [h]; decide)]
  have hresumed : granted resumed = granted filled := granted_forPris _ _ _ (fun w t => by split <;> simp)
  have hfaults : granted faults = granted filled := by
    rw [← hresumed]
    simp only [faults, granted_newFaults, granted_writeDueStatus]
  have hasked : granted (faults.dma.pris.foldl (fun s w => if w.again then askTranslation w.fn w.page s else s) faults) =
      granted faults := granted_foldl _ (fun t w => by split <;> simp) _ _
  refine ⟨_, rfl, fun p hp hp' => ?_⟩
  rw [granted_pumpPri, hasked, hfaults]
  constructor
  · intro hr
    simp only [filled, hr, Bool.true_or, if_true]
    exact granted_insertTranslation hp hp' rfl
  · intro hw
    simp only [filled, hw, Bool.or_true, if_true]
    exact granted_insertTranslation hp hp' rfl

/-- The entries of a range lose their rights, and the invalidation waits for what was issued under it. -/
def invalidated (f page size : Nat) (s : State) : State :=
  modDma (fun d => { d with
    iotlb := d.iotlb.map (fun e => if e.meets f page size then { e with read := false, write := false } else e)
    invals := d.invals ++ [(f, page, size)] }) s

theorem rangeBusy_invalidated (f page size : Nat) : rangeBusy (invalidated f page size s) = rangeBusy s := rfl

theorem granted_invalidated {f page size p : Nat} {w : Bool} (hp : page ≤ p) (hp' : p < page + size)
    (hats : s.dma.ats.contains f = true) : granted (invalidated f page size s) f p w = false := by
  have hlost (e : Iotlb) : Iotlb.grants (if e.meets f page size then { e with read := false, write := false } else e) f p w = false := by
    split
    · cases w <;> simp [Iotlb.grants]
    next hmeets =>
      simp only [Iotlb.meets, Bool.and_eq_true, beq_iff_eq, decide_eq_true_eq, not_and] at hmeets
      simp only [Iotlb.grants, Iotlb.covers, Bool.and_eq_false_iff, beq_eq_false_iff_ne, decide_eq_false_iff_not]
      left
      by_cases hfn : e.fn = f
      · by_cases hle : e.page ≤ p
        · exact .inr (fun hlt => absurd (by omega) (hmeets ⟨hfn, by omega⟩))
        · exact .inl (.inr hle)
      · exact .inl (.inl hfn)
  have hany : (invalidated f page size s).dma.iotlb.any (fun e => e.grants f p w) = false := by
    show (s.dma.iotlb.map _).any _ = false
    rw [List.any_map, List.any_eq_false]
    intro e _
    rw [Function.comp_apply, hlost]
    decide
  show (!s.dma.ats.contains f || _) = false
  rw [hats, hany]
  rfl

/-- An entry of a range an invalidation has ended is forgotten once no request is issued under it. -/
theorem meets_invalidated {f page size : Nat} {e : Iotlb} (he : e ∈ (invalidated f page size s).dma.iotlb)
    (hkept : (e.read || e.write) = true) : e.meets f page size = false := by
  obtain ⟨e', -, rfl⟩ := List.mem_map.1 he
  split
  next hmeets =>
    rw [if_pos hmeets] at hkept
    simp at hkept
  next hmeets => simpa using hmeets

/-! ## Page requests that change nothing more -/

/-- With every page request sent there is none to send. -/
theorem pumpPri_sent {f : Nat} (h : ∀ w ∈ s.dma.pris, w.sent = true) : pumpPri f s = s := by
  have hnil : s.dma.pris.filter (fun w => w.fn == f && !w.sent) = [] := by
    rw [List.filter_eq_nil_iff]
    intro w hw
    simp [h w hw]
  rw [pumpPri, hnil]
  rfl

theorem forPris_none {sel : PriWait → Bool} {act : PriWait → State → State} (h : ∀ w ∈ s.dma.pris, sel w = false) :
    forPris sel act s = s := by
  have hnil : s.dma.pris.filter sel = [] := List.filter_eq_nil_iff.2 (fun w hw => by simp [h w hw])
  have hall : s.dma.pris.filter (fun w => !sel w) = s.dma.pris := List.filter_eq_self.2 (fun w hw => by simp [h w hw])
  have hsame : modDma (fun d => { d with pris := d.pris.filter (fun w => !sel w) }) s = s := by
    show { s with dma := { s.dma with pris := s.dma.pris.filter (fun w => !sel w) } } = s
    rw [hall]
  rw [forPris, hnil, hsame]
  rfl

theorem forPris_one {sel : PriWait → Bool} {act : PriWait → State → State} {w : PriWait} (hw : s.dma.pris = [w])
    (h : sel w = true) : forPris sel act s = act w (modDma (fun d => { d with pris := [] }) s) := by
  have hnone : modDma (fun d => { d with pris := d.pris.filter (fun w => !sel w) }) s = modDma (fun d => { d with pris := [] }) s := by
    show { s with dma := { s.dma with pris := s.dma.pris.filter (fun w => !sel w) } } = _
    rw [hw, List.filter_cons_of_neg (by simp [h])]
    rfl
  rw [forPris, hnone, hw, List.filter_cons_of_pos h]
  rfl

/-! ## The end of a descriptor at a fault -/

/-- What a fault does beside its descriptor: the descriptor stands, no page fault comes and no failed PRI is counted. -/
structure FaultStep (g n : Nat) (s t : State) : Prop where
  desc : t.desc? g n = s.desc? g n
  pris : s.dma.pris = [] → t.dma.pris = []
  counter : t.counter (cDma 5) = s.counter (cDma 5)

theorem FaultStep.refl (g n : Nat) (s : State) : FaultStep g n s s := ⟨rfl, id, rfl⟩

theorem FaultStep.trans {g n : Nat} (h : FaultStep g n s t) (h' : FaultStep g n t u) : FaultStep g n s u :=
  ⟨h'.desc.trans h.desc, fun hp => h'.pris (h.pris hp), h'.counter.trans h.counter⟩

theorem FaultStep.foldl {β : Type} {g n : Nat} {F : State → β → State} (l : List β) (hF : ∀ s, ∀ x ∈ l, FaultStep g n s (F s x))
    (s : State) : FaultStep g n s (l.foldl F s) := by
  induction l generalizing s with
  | nil => exact .refl g n s
  | cons x l ih =>
    exact (hF s x List.mem_cons_self).trans (ih (fun s y hy => hF s y (List.mem_cons_of_mem _ hy)) _)

/-- A change beside the DMA. -/
theorem FaultStep.of_dma {g n : Nat} (hdma : t.dma = s.dma) (hctr : t.counter (cDma 5) = s.counter (cDma 5)) : FaultStep g n s t :=
  ⟨by rw [State.desc?, State.stream, hdma, State.desc?, State.stream], fun h => by rw [hdma, h], hctr⟩

theorem stream_modStream_view {β : Type} (V : Stream → β) {F : Stream → Stream} (hF : ∀ x, V (F x) = V x) (g h : Nat)
    (s : State) : V ((modStream g F s).stream h) = V (s.stream h) := by
  by_cases hg : h = g
  · subst hg
    by_cases hl : h < s.dma.streams.length
    · rw [stream_modStream_same hl, hF]
    · have hsame : (modStream h F s).dma.streams = s.dma.streams := List.modify_eq_self (not_lt.1 hl)
      rw [State.stream, hsame, State.stream]
  · have hother : (modStream g F s).stream h = s.stream h := getD_modify_ne _ _ _ _ _ hg
    rw [hother]

theorem faultStep_modStream {g n h : Nat} {F : Stream → Stream} (hF : ∀ x, (F x).descs = x.descs) :
    FaultStep g n s (modStream h F s) :=
  ⟨desc?_congr (stream_modStream_view Stream.descs hF h g s) n, id, rfl⟩

theorem faultStep_modDesc_ne {g n k : Nat} (hk : k ≠ n) {F : Desc → Desc} (hF : ∀ d, (F d).number = d.number) :
    FaultStep g n s (modDesc g k F s) := by
  refine ⟨?_, id, rfl⟩
  by_cases hg : g < s.dma.streams.length
  · have hcomp : (fun x : Desc => x.number == n) ∘ (fun d => if d.number = k then F d else d) = fun x => x.number == n := by
      funext x
      rw [Function.comp_apply]
      split
      · rw [hF]
      · rfl
    have hstream : ((modDesc g k F s).stream g).descs = (s.stream g).descs.map (fun d => if d.number = k then F d else d) := by
      rw [modDesc, stream_modStream_same hg]
    rw [State.desc?, hstream, List.find?_map, hcomp, State.desc?]
    cases hd : (s.stream g).descs.find? (fun x => x.number == n) with
    | none => rfl
    | some d =>
      have hn : d.number = n := by simpa using List.find?_some hd
      rw [Option.map_some, if_neg (by omega)]
  · have hsame : (modDesc g k F s).dma.streams = s.dma.streams := List.modify_eq_self (not_lt.1 hg)
    rw [State.desc?, State.stream, hsame]
    rfl

theorem faultStep_dropFaults (g n h k : Nat) : FaultStep g n s (dropFaults h k s) := by
  refine ⟨rfl, fun hp => ?_, rfl⟩
  show s.dma.pris.filter _ = []
  rw [hp]
  rfl

theorem faultStep_raise (g n c t : Nat) (d : List Byte) : FaultStep g n s (raise c t d s) :=
  .of_dma (by rw [raise_frame]) (counter_raise_ne (by decide) c t d)

theorem faultStep_settleInvals (g n : Nat) : FaultStep g n s (settleInvals s) := by
  obtain ⟨pre, i, l, h, -⟩ := settleInvals_frame s
  rw [h]
  exact ⟨rfl, id, rfl⟩

theorem faultStep_endTask (g n status : Nat) : FaultStep g n s (endTask g n status s) := by
  unfold endTask
  split
  · exact .refl g n s
  next d hd =>
    extract_lets ds task others stopped noted
    have hstopped : FaultStep g n s stopped := by
      refine .foldl _ (fun t k hk => ?_) s
      have hne : k ≠ n := by
        by_cases htag : d.tag = 0
        · simp only [others, if_pos htag] at hk
          exact nomatch hk
        · simp only [others, if_neg htag, List.mem_filter, Bool.and_eq_true, bne_iff_ne] at hk
          exact hk.2.1
      refine .trans ?_ (faultStep_dropFaults g n g k)
      exact faultStep_modDesc_ne hne (fun _ => rfl)
    have hnoted : FaultStep g n stopped noted := by
      simp only [noted]
      split
      · exact faultStep_modStream (fun _ => rfl)
      · exact .refl g n stopped
    exact (hstopped.trans hnoted).trans (faultStep_raise g n _ _ _)

theorem faultStep_ringAnswer (g n h m k : Nat) (reason : Bool) (bs : List Byte) (c : Option Nat) :
    FaultStep g n s (ringAnswer h m k reason bs c s) := by
  have hfree (l : List Nat) (u : State) : FaultStep g n u (l.foldl (fun s c => freeContext c s) u) :=
    .foldl l (fun t c _ => .of_dma (congrArg ReleaseView.dma (releaseView_freeContext t c)) (counter_freeContext? (some c) _)) u
  have hstage (u : State) : FaultStep g n u (stageAnswers h u) :=
    (faultStep_modStream (F := fun x => { x with
      answers := (stageList ((u.stream h).staging - (u.stream h).fill) (u.stream h).answers).1
      fill := x.fill + (stageList ((u.stream h).staging - (u.stream h).fill) (u.stream h).answers).2.1 }) (fun _ => rfl)).trans
      (hfree _ _)
  exact (faultStep_modStream (F := fun x => { x with answers := x.answers ++ [⟨m, k, reason, bs, c, false, false⟩] })
    (fun _ => rfl)).trans (hstage _)

theorem faultStep_poisonRest (g n : Nat) (d : Desc) (plots : List Nat) (k : Nat) : FaultStep g n s (poisonRest d plots k s) := by
  refine .foldl _ (fun t i _ => ?_) s
  exact .of_dma rfl rfl

/-- The fault mode cuts its descriptor at the element, with the status of its stream's mode. -/
theorem faultMode_spec {g n : Nat} {d : Desc} (hd : s.desc? g n = some d) (k : Nat) :
    (∃ d', (faultMode g n k s).desc? g n = some d' ∧ d'.cut = some k ∧ d'.firstFlagged = some k ∧
      d'.status = (if (s.stream g).abort then 2 else 1)) ∧
    (s.dma.pris = [] → (faultMode g n k s).dma.pris = []) ∧
    (faultMode g n k s).counter (cDma 5) = s.counter (cDma 5) := by
  obtain ⟨a, ha⟩ : ∃ a, a = modStream g (fun x => { x with fill := x.fill - 256 * d.units * (d.issued - k) }) s := ⟨_, rfl⟩
  obtain ⟨F, hF⟩ : ∃ F : Desc → Desc, F = fun d => { d with
      cut := some k, issued := min d.issued k, firstFlagged := some k, status := if (s.stream g).abort then 2 else 1
      halted := false, statusDue := false } := ⟨_, rfl⟩
  obtain ⟨e, he⟩ : ∃ e, e = settleInvals (dropFaults g n (modDesc g n F a)) := ⟨_, rfl⟩
  have hstart : FaultStep g n s a := ha ▸ faultStep_modStream (fun _ => rfl)
  have hcut : (modDesc g n F a).desc? g n = some (F d) :=
    desc?_modDesc_same (hstart.desc.trans hd) F (fun _ => by rw [hF])
  have hsettled : FaultStep g n (modDesc g n F a) e :=
    he ▸ (faultStep_dropFaults g n g n).trans (faultStep_settleInvals g n)
  have hrest : FaultStep g n e (faultMode g n k s) := by
    have hmode : faultMode g n k s =
        if (s.stream g).abort then endTask g n 2 e
        else if d.opcode = 1 then (List.range (d.total - k)).foldl (fun s i => faultAnswer g n (k + i) s) e
        else if d.opcode = 2 then
          match copyTarget e (tenantOf g) d.alloc with
          | some (.massif ps) => poisonRest d ps k e
          | some (.window _ _ (some ps)) => poisonRest d ps k e
          | _ => e
        else e := by
      rw [faultMode, hd, he, hF, ha] <;> rfl
    rw [hmode]
    split
    · exact faultStep_endTask g n 2
    · split
      · exact .foldl _ (fun _ _ _ => faultStep_ringAnswer ..) e
      · split
        · split
          · exact faultStep_poisonRest ..
          · exact faultStep_poisonRest ..
          · exact .refl g n e
        · exact .refl g n e
  have hend := hsettled.trans hrest
  refine ⟨⟨F d, hend.desc.trans hcut, by rw [hF], by rw [hF], by rw [hF]⟩, fun hp => hend.pris (hstart.pris hp), ?_⟩
  rw [hend.counter]
  exact hstart.counter

/-- The element a descriptor halted at fails its PRI, counted. -/
theorem failElement_spec {g n : Nat} {d : Desc} (hd : s.desc? g n = some d) (hpris : s.dma.pris = []) :
    ∃ d', (failElement g n s).dma.pris = [] ∧ (failElement g n s).desc? g n = some d' ∧ d'.cut = some d.issued ∧
      d'.status = (if (s.stream g).abort then 2 else 1) ∧
      (failElement g n s).counter (cDma 5) = (s.counter (cDma 5) + 1) % 2 ^ 64 := by
  have hfail : ∃ iova, failElement g n s = faultMode g n d.issued (raisePriFail g n d.issued iova s) := by
    rw [failElement, hd]
    exact ⟨_, rfl⟩
  obtain ⟨iova, hiova⟩ := hfail
  obtain ⟨u, hu⟩ : ∃ u, u = raisePriFail g n d.issued iova s := ⟨_, rfl⟩
  have hudma : u.dma = s.dma := by rw [hu, raisePriFail, raise_frame, count_frame]
  have huctr : u.counter (cDma 5) = (s.counter (cDma 5) + 1) % 2 ^ 64 := by
    rw [hu, raisePriFail, counter_raise_ne (by decide), counter_count, if_pos ⟨rfl, by decide⟩]
  have hustream : u.stream g = s.stream g := by rw [State.stream, hudma, State.stream]
  obtain ⟨⟨d', hdesc, hcut, -, hstatus⟩, hp, hctr⟩ :=
    faultMode_spec ((desc?_congr (congrArg Stream.descs hustream) n).trans hd) d.issued
  rw [hiova, ← hu]
  exact ⟨d', hp (by rw [hudma, hpris]), hdesc, hcut, by rw [hstatus, hustream], hctr.trans huctr⟩

end

/-- Settles O37, by what a translation and an invalidation do to the rights, and by the fault mode of a failed PRI. -/
theorem translationsAreFilledInvalidatedAndFailed : Obligations.TranslationsAreFilledInvalidatedAndFailed := by
  unfold Obligations.TranslationsAreFilledInvalidatedAndFailed
  intro s f page k hs
  refine ⟨fun target rd wr h => translationCompletion_grants h, ?invalidate, fun hany hsent => ?success,
    fun g n d wr since hpris hd => ?fails, fun g n d hd hats hin hissued hlimit => ?timeout⟩
  case invalidate =>
    obtain ⟨u, hu⟩ : ∃ u, u = invalidated f page (2 ^ (k - 12)) s := ⟨_, rfl⟩
    have hbusy : rangeBusy u = rangeBusy s := by rw [hu, rangeBusy_invalidated]
    have hinvals : u.dma.invals = s.dma.invals ++ [(f.val, page, 2 ^ (k - 12))] := by rw [hu]; rfl
    have hexec : exec (.atsInvalidateRequest f page k) s = .next (settleInvals u) := by
      rw [hu]
      rfl
    refine ⟨_, hexec, fun p wr hp hp' hats => ?_, fun h => ?_, fun h => ⟨?_, fun hnil e he => ?_⟩⟩
    · rw [granted_settleInvals, hu, granted_invalidated hp hp' hats]
    · rw [settleInvals_eq, hinvals, hbusy]
      exact List.mem_filter.2 ⟨by simp, h⟩
    · rw [settleInvals_eq, hinvals, hbusy]
      refine List.mem_append_left _ (List.mem_reverse.2 (List.mem_map.2 ⟨(f.val, page, 2 ^ (k - 12)), ?_, rfl⟩))
      exact List.mem_filter.2 ⟨by simp, by simp [h]⟩
    · have hleft : u.dma.invals.filter (fun v => rangeBusy u v.1 v.2.1 v.2.2) = [] := by
        rw [hinvals, hbusy, hnil]
        simp [h]
      rw [settleInvals_eq, hleft] at he
      obtain ⟨hmem, hkept⟩ := List.mem_filter.1 he
      rw [hu] at hmem
      exact meets_invalidated hmem (by simpa using hkept)
  case success =>
    have hrow : exec (.pageRequestResponse f page .success) s = execPageRequestResponse f page .success s := rfl
    have hmine : s.dma.pris.any (fun w => w.fn == f.val && w.page == page && w.sent && !w.again) = true := by
      rw [List.any_eq_true] at hany ⊢
      obtain ⟨w, hw, hsel⟩ := hany
      refine ⟨w, hw, ?_⟩
      rw [(hsent w hw).1]
      simpa using hsel
    obtain ⟨u, hu⟩ : ∃ u, u = modDma (fun d => { d with pris := d.pris.map (fun w =>
        if w.fn == f.val && w.page == page && w.sent && !w.again then { w with again := true } else w) }) s := ⟨_, rfl⟩
    have hasked : (askTranslation f page u).dma.pris = u.dma.pris := by
      unfold askTranslation
      split <;> rfl
    have hall : ∀ w ∈ (askTranslation f page u).dma.pris, w.sent = true := by
      rw [hasked, hu]
      intro w hw
      obtain ⟨w', hw', rfl⟩ := List.mem_map.1 hw
      split
      · exact (hsent w' hw').1
      · exact (hsent w' hw').1
    have hexec : exec (.pageRequestResponse f page .success) s = .next (askTranslation f page u) := by
      rw [hrow, execPageRequestResponse, forPris_none (fun w hw => by rw [(hsent w hw).2, Bool.and_false]), hmine,
        if_neg (by decide), if_pos rfl, ← hu, pumpPri_sent hall]
    refine ⟨_, hexec, by rw [hasked, hu]; rfl, fun hx hlen => ?_⟩
    have hux : u.dma.xlate = s.dma.xlate := by rw [hu]; rfl
    have huo : u.out = s.out := by rw [hu]; rfl
    rw [askTranslation, hux, if_neg (fun h => h.elim (fun h => nomatch hx.symm.trans h) (fun h => by omega)), ← huo]
    rfl
  case fails =>
    obtain ⟨w, hw⟩ : ∃ w : PriWait, w = ⟨.element g n, f, page, wr, true, since, false⟩ := ⟨_, rfl⟩
    rw [← hw] at hpris
    obtain ⟨u, hu⟩ : ∃ u, u = modDma (fun d => { d with pris := [] }) s := ⟨_, rfl⟩
    have hud : u.desc? g n = some d := by rw [hu]; exact hd
    have hustream : u.stream g = s.stream g := by rw [hu]; rfl
    obtain ⟨d', hnone, hdesc, hcut, hstatus, hctr⟩ := failElement_spec hud (by rw [hu]; rfl)
    rw [hustream] at hstatus
    have huctr : u.counter (cDma 5) = s.counter (cDma 5) := by rw [hu]; rfl
    rw [huctr] at hctr
    have hlate : priLate s w = decide (since + (s.stream g).priMs * 100000 < s.time.time) := by rw [hw]; rfl
    have hsel : (w.fn == f.val && w.page == page && w.sent && !w.again) = true := by simp [hw]
    have hact (v : State) : failWho w v = failElement g n v := by rw [hw]; rfl
    have hquiet : pumpPri f (failElement g n u) = failElement g n u := pumpPri_sent (by rw [hnone]; exact fun _ h => nomatch h)
    refine ⟨fun r hr => ?_, fun h => ?_, fun h => ?_⟩
    · have hrow : exec (.pageRequestResponse f page r) s = execPageRequestResponse f page r s := rfl
      refine ⟨failElement g n u, d', ?_, hnone, hdesc, hcut, hstatus, hctr⟩
      rw [hrow, execPageRequestResponse]
      by_cases hl : priLate s w = true
      · rw [forPris_one hpris (by simp only [hsel, hl, Bool.and_self]), hact, ← hu, hnone, if_pos (by simp), hquiet]
      · have hl' : priLate s w = false := by simpa using hl
        rw [forPris_none (fun x hx => by
          rw [hpris, List.mem_singleton] at hx
          rw [hx, hl', Bool.and_false]), hpris, if_neg (by simp [hsel]), if_neg hr,
          forPris_one hpris hsel, hact, ← hu, hquiet]
    · have hrow : exec (.priLimitExpiry f page) s = execPriLimitExpiry f page s := rfl
      refine ⟨failElement g n u, d', ?_, hnone, hdesc, hcut, hstatus⟩
      rw [hrow, execPriLimitExpiry, forPris_one hpris (by rw [hlate]; simp [hw, h]), hact, ← hu, hquiet]
    · have hrow : exec (.priLimitExpiry f page) s = execPriLimitExpiry f page s := rfl
      refine ⟨s, ?_, rfl, rfl⟩
      rw [hrow, execPriLimitExpiry, forPris_none (fun x hx => by
        rw [hpris, List.mem_singleton] at hx
        rw [hx, hlate, decide_eq_false (by omega), Bool.and_false]), pumpPri_sent (by
          rw [hpris]
          intro x hx
          rw [List.mem_singleton.1 hx, hw])]
  case timeout =>
    have hrow : exec (.completionTimeout g n) s = execCompletionTimeout g n s := rfl
    obtain ⟨u, hu⟩ : ∃ u, u = raisePriFail g n d.elements (d.addr d.elements) s := ⟨_, rfl⟩
    have hudma : u.dma = s.dma := by rw [hu, raisePriFail, raise_frame, count_frame]
    have hustream : u.stream g = s.stream g := by rw [State.stream, hudma, State.stream]
    obtain ⟨⟨d', hdesc, hcut, hfirst, hstatus⟩, -, -⟩ :=
      faultMode_spec ((desc?_congr (congrArg Stream.descs hustream) n).trans hd) d.elements
    rw [hustream] at hstatus
    refine ⟨_, d', ?_, hdesc, hcut, hfirst, hstatus⟩
    rw [hrow, execCompletionTimeout, hd]
    dsimp only
    rw [hats, hin, if_neg (by simp; omega), hu]

end Sys2Proof.Machine
end

section
/-! SUPPORT. The descriptors of the streams (R299): nothing of a record's way through Trailhead changes them. -/

namespace Sys2Proof.Machine

/-- The descriptors fetched by each stream. -/
def State.descsOf (s : State) (g : Nat) : List Desc := (s.stream g).descs

section
variable {s t : State}

theorem descsOf_of_dma (h : t.dma = s.dma) : t.descsOf = s.descsOf := by
  funext g
  rw [State.descsOf, State.stream, h, State.descsOf, State.stream]

theorem desc?_of_descsOf (h : t.descsOf = s.descsOf) (g n : Nat) : t.desc? g n = s.desc? g n := desc?_congr (congrFun h g) n

end

section
variable (s : State)

/-! ## Branches and folds -/

@[simp] theorem descsOf_ite (p : Prop) [Decidable p] (s t : State) :
    (if p then s else t).descsOf = if p then s.descsOf else t.descsOf := apply_ite _ _ _ _

@[simp] theorem descsOf_ite_snd {α : Type} (p : Prop) [Decidable p] (a b : α × State) :
    (if p then a else b).2.descsOf = if p then a.2.descsOf else b.2.descsOf := by split <;> rfl

@[simp] theorem descsOf_foldl {β : Type} (g : State → β → State) (hg : ∀ s x, (g s x).descsOf = s.descsOf) (l : List β)
    (s : State) : (l.foldl g s).descsOf = s.descsOf :=
  foldl_keeps (fun t => t.descsOf = s.descsOf) g (fun _ x ht => (hg _ x).trans ht) l s rfl

/-! ## Updates beside the streams -/

@[simp] theorem descsOf_count (k n : Nat) : (count k n s).descsOf = s.descsOf := descsOf_of_dma (by rw [count_frame])
@[simp] theorem descsOf_raise (c t : Nat) (d : List Byte) : (raise c t d s).descsOf = s.descsOf :=
  descsOf_of_dma (by rw [raise_frame])
@[simp] theorem descsOf_modCtx (c : Nat) (F : RecCtx → RecCtx) : (modCtx c F s).descsOf = s.descsOf := rfl
@[simp] theorem descsOf_modPort (l : Nat) (F : PortSt → PortSt) : (modPort l F s).descsOf = s.descsOf := rfl
@[simp] theorem descsOf_modTenant (t : Nat) (F : Tenant → Tenant) : (modTenant t F s).descsOf = s.descsOf := rfl
@[simp] theorem descsOf_modMem (F : MemSt → MemSt) : (modMem F s).descsOf = s.descsOf := rfl
@[simp] theorem descsOf_modDisp (F : DispSt → DispSt) : (modDisp F s).descsOf = s.descsOf := rfl
@[simp] theorem descsOf_modSaddle (i : Nat) (F : Saddle → Saddle) : (modSaddle i F s).descsOf = s.descsOf := rfl
@[simp] theorem descsOf_modZth (F : ZthSt → ZthSt) : (modZth F s).descsOf = s.descsOf := rfl
@[simp] theorem descsOf_giveBack (cs : List Credit) : (giveBack cs s).descsOf = s.descsOf := rfl
@[simp] theorem descsOf_nextFree (w : Nat) : (nextFree w s).2.descsOf = s.descsOf := rfl

/-! ## Answers, messages and the ends of records and searches -/

@[simp] theorem descsOf_modStream (g : Nat) (F : Stream → Stream) (hF : ∀ x, (F x).descs = x.descs) :
    (modStream g F s).descsOf = s.descsOf := funext fun h => stream_modStream_view Stream.descs hF g h s
@[simp] theorem descsOf_freeContext (c : Nat) : (freeContext c s).descsOf = s.descsOf :=
  descsOf_of_dma (congrArg ReleaseView.dma (releaseView_freeContext s c))
@[simp] theorem descsOf_dropWork (c : Nat) : (dropWork c s).descsOf = s.descsOf :=
  descsOf_of_dma (congrArg ReleaseView.dma (releaseView_dropWork s c))
@[simp] theorem descsOf_stageAnswers (g : Nat) : (stageAnswers g s).descsOf = s.descsOf := by simp [stageAnswers]
@[simp] theorem descsOf_ringAnswer (g n k : Nat) (reason : Bool) (bs : List Byte) (c : Option Nat) :
    (ringAnswer g n k reason bs c s).descsOf = s.descsOf := by simp [ringAnswer]
@[simp] theorem descsOf_readyFrame (r : Reply) (kind : TxKind) (ctx : Option Nat) (msg : List Byte) (accepted : Nat)
    (scored : Bool) : (readyFrame r kind ctx msg accepted scored s).descsOf = s.descsOf := rfl
@[simp] theorem descsOf_dropCandidates (slot : Nat) : (dropCandidates slot s).descsOf = s.descsOf :=
  descsOf_of_dma (congrArg ReleaseView.dma (releaseView_dropCandidates s slot))
@[simp] theorem descsOf_queueOut (i : Nat) (m : Msg) : (queueOut i m s).descsOf = s.descsOf := rfl
@[simp] theorem descsOf_deliver (m : Msg) : (deliver m s).descsOf = s.descsOf := rfl
@[simp] theorem descsOf_routeMsg (m : Msg) : (routeMsg m s).2.descsOf = s.descsOf := by
  have hqueued (b : List Byte) (l : List Nat) (u : State) : (l.foldl (fun s i => queueOut i { m with bytes := b } s) u).descsOf =
      u.descsOf := descsOf_foldl _ (fun t i => descsOf_queueOut t i _) l u
  unfold routeMsg
  dsimp only
  split
  · split
    · simp
    · simp [hqueued]
  · split
    · rfl
    · split
      · simp
      · split <;> simp
@[simp] theorem descsOf_nakEvent (saddle op reason dst tag wmk tenant dtenant : Nat) :
    (nakEvent saddle op reason dst tag wmk tenant dtenant s).descsOf = s.descsOf := by simp [nakEvent]
@[simp] theorem descsOf_refuseMsg (m : Msg) (reason : Nat) : (refuseMsg m reason s).descsOf = s.descsOf := by simp [refuseMsg]
@[simp] theorem descsOf_sendMsg (bytes : List Byte) (ctx : Option Nat) : (sendMsg bytes ctx s).2.descsOf = s.descsOf := by
  unfold sendMsg
  dsimp only
  split <;> simp
@[simp] theorem descsOf_sendTerm (c : Nat) (msg : List Byte) : (sendTerm c msg s).descsOf = s.descsOf := by simp [sendTerm]

@[simp] theorem descsOf_endSearch (slot : Nat) (limit : Bool) : (endSearch slot limit s).descsOf = s.descsOf := by
  unfold endSearch
  split
  · rfl
  · extract_lets feats msg cut counted ended
    have hended : ended.descsOf = s.descsOf := by
      have hcut : cut.descsOf = s.descsOf := descsOf_dropCandidates { s with searches := kvDel s.searches slot } slot
      have hcounted : counted.descsOf = s.descsOf := (descsOf_count _ _ _).trans hcut
      simp only [ended]
      split
      · exact (descsOf_count _ _ _).trans hcounted
      · exact hcounted
    split
    · exact (descsOf_ringAnswer _ _ _ _ _ _ _).trans hended
    · exact hended

@[simp] theorem descsOf_endRecord (c status reason : Nat) : (endRecord c status reason s).descsOf = s.descsOf := by
  unfold endRecord
  split
  · rfl
  · dsimp only
    split <;> simp
@[simp] theorem descsOf_unitFault (c reason : Nat) : (unitFault c reason s).descsOf = s.descsOf := by simp [unitFault]
@[simp] theorem descsOf_modelPoison (c : Nat) (never : Bool) : (modelPoison c never s).descsOf = s.descsOf := by
  unfold modelPoison
  split <;> simp

/-! ## Trailhead -/

@[simp] theorem descsOf_colRead (req model line : Nat) : (colRead req model line s).descsOf = s.descsOf := by
  have hmiss (u : State) : (colMiss req model line u).descsOf = u.descsOf := by simp [colMiss]
  unfold colRead
  dsimp only
  split <;> simp [hmiss]
@[simp] theorem descsOf_rateAllows (t : Nat) : (rateAllows t s).2.descsOf = s.descsOf := by simp [rateAllows]
@[simp] theorem descsOf_earlyAnswer (t : Nat) (r : Reply) (h : Hdr) (status reason offset : Nat) :
    (earlyAnswer t r h status reason offset s).descsOf = s.descsOf := by simp [earlyAnswer]
@[simp] theorem descsOf_malformed (c : Nat) (r : RecCtx) (reason offset : Nat) :
    (malformed c r reason offset s).descsOf = s.descsOf := by
  unfold malformed
  dsimp only
  split <;> simp
@[simp] theorem descsOf_countIgnored (r : RecCtx) (b : BodyIn) : (countIgnored r b s).descsOf = s.descsOf := by
  unfold countIgnored
  split <;> simp
@[simp] theorem descsOf_tableFind (b : BodyIn) (m : Model) (i : Nat) : (tableFind b m i s).descsOf = s.descsOf := by simp [tableFind]
@[simp] theorem descsOf_bodyPoison (c : Nat) (m : Model) (b : BodyIn) (tables : List Nat) :
    (bodyPoison c m b tables s).descsOf = s.descsOf := by simp [bodyPoison]
@[simp] theorem descsOf_applyStats (id pipe : Nat) (us : List StatUpd) : (applyStats id pipe us s).descsOf = s.descsOf := by
  simp only [applyStats, descsOf_count]
  rfl
@[simp] theorem descsOf_commitRecord (c pipe : Nat) (m : Model) (b : Body) (reason : Option ReasonReq) :
    (commitRecord c pipe m b reason s).descsOf = s.descsOf := by simp [commitRecord]
@[simp] theorem descsOf_decideBody (c : Nat) (b : BodyIn) : (decideBody c b s).descsOf = s.descsOf := by
  unfold decideBody
  split
  · simp
  · split <;> simp
@[simp] theorem descsOf_drainLane (n pipe : Nat) : (drainLane n pipe s).descsOf = s.descsOf := by
  induction n generalizing s with
  | zero => rfl
  | succ n ih =>
    unfold drainLane
    split <;> simp [ih]
@[simp] theorem descsOf_runLane (pipe : Nat) : (runLane pipe s).descsOf = s.descsOf := by simp [runLane]
@[simp] theorem descsOf_enterLane (c : Nat) (m : Model) (b : BodyIn) : (enterLane c m b s).descsOf = s.descsOf := by
  unfold enterLane
  extract_lets reads entered asked
  have hasked : asked.descsOf = s.descsOf := by simp [asked, entered]
  rw [descsOf_runLane]
  exact hasked
theorem descsOf_takeCtx {r : RecCtx} {s : State} {y : Nat × State} (h : takeCtx r s = some y) : y.2.descsOf = s.descsOf := by
  unfold takeCtx at h
  split at h
  · cases h
  · cases h
    rfl
@[simp] theorem descsOf_acceptFeedback (m : Model) (recId label channel : Nat) :
    (acceptFeedback m recId label channel s).descsOf = s.descsOf := by
  unfold acceptFeedback
  split
  · simp
  · split
    · simp
    · rfl
@[simp] theorem descsOf_ringEarly (g n k : Nat) (msg : List Byte) (status reason offset : Nat) :
    (ringEarly g n k msg status reason offset s).descsOf = s.descsOf := by simp [ringEarly]

/-- An element of a record leaves every stream's descriptors. -/
theorem descsOf_ringElement (g n k : Nat) (reasonSlots : Bool) (t : Nat) (msg : List Byte) (tables : List EccFind) :
    (ringElement g n k reasonSlots t msg tables s).descsOf = s.descsOf := by
  unfold ringElement
  extract_lets feedback refuse
  have hrefuse (status reason off : Nat) (u : State) : (refuse status reason off u).descsOf = u.descsOf := by
    simp only [refuse]
    split
    · rfl
    · simp
  split
  · exact hrefuse ..
  · split
    · rfl
    · split
      · exact hrefuse ..
      · split
        · exact hrefuse ..
        · extract_lets pay
          split
          · split <;> simp
          · split
            · exact hrefuse ..
            next htake => exact (descsOf_enterLane _ _ _ _).trans (descsOf_takeCtx htake)

end

end Sys2Proof.Machine
end

section
/-! SUPPORT. What an access of memory leaves of the streams (R238 to R241), and a write that meets no poison and finds no
error. -/

namespace Sys2Proof.Machine

/-- An access of memory keeps the DMA, what was sent and the streams' counters. -/
structure Accessed (s t : State) : Prop where
  dma : t.dma = s.dma
  out : t.out = s.out
  counter : ∀ g i, t.counter (cStr g i) = s.counter (cStr g i)

section
variable {s t u : State}

theorem Accessed.refl (s : State) : Accessed s s := ⟨rfl, rfl, fun _ _ => rfl⟩

theorem Accessed.trans (h : Accessed s t) (h' : Accessed t u) : Accessed s u :=
  ⟨h'.dma.trans h.dma, h'.out.trans h.out, fun g i => (h'.counter g i).trans (h.counter g i)⟩

/-- A fold keeps what each of its steps keeps; `v` finds the state in what the fold carries. -/
theorem Accessed.foldl_of {α β : Type} (v : α → State) (F : α → β → α) (hF : ∀ a x, Accessed (v a) (v (F a x))) (l : List β)
    (a : α) : Accessed (v a) (v (l.foldl F a)) := by
  induction l generalizing a with
  | nil => exact .refl _
  | cons x l ih => exact (hF a x).trans (ih (F a x))

theorem accessed_count {k : Nat} (hk : k < 0x8000) (n : Nat) : Accessed s (count k n s) :=
  ⟨by rw [count_frame], by rw [count_frame], (signalled_count hk n).counter⟩

theorem accessed_raise (c t : Nat) (d : List Byte) : Accessed s (raise c t d s) :=
  ⟨by rw [raise_frame], by rw [raise_frame], (signalled_raise c t d).counter⟩

theorem accessed_modMem (F : MemSt → MemSt) : Accessed s (modMem F s) := ⟨rfl, rfl, fun _ _ => rfl⟩
theorem accessed_modModel (i : Nat) (F : Model → Model) : Accessed s (modModel i F s) := ⟨rfl, rfl, fun _ _ => rfl⟩

theorem cDie_dieOf_lt (a i : Nat) (hi : i < 2) : cDie (dieOf a) i < 0x8000 := by
  unfold cDie dieOf
  omega

/-! ## Reads -/

theorem accessed_queueHeal (a : Nat) (evs : List Raised) : Accessed s (queueHeal a s evs).1 := by
  unfold queueHeal
  split
  · exact .refl s
  · dsimp only
    split
    · exact .refl s
    · split
      · exact (accessed_count (by decide) 1).trans (accessed_modModel _ _)
      · exact (accessed_modMem _).trans (accessed_modModel _ _)

theorem accessed_readWord (ecc : List EccFind) (req : Nat) (patrol : Bool) (a i : Nat) (se : State × List Raised) :
    Accessed se.1 (readWord ecc req patrol a i se).1 := by
  have hdie (j : Nat) (hj : j < 2) : Accessed se.1 (if a < massifEnd then count (cDie (dieOf a) j) 1 se.1 else se.1) := by
    split
    · exact accessed_count (cDie_dieOf_lt a j hj) 1
    · exact .refl _
  unfold readWord
  dsimp only
  split
  · exact accessed_count (by decide) 1
  · split
    · exact ((hdie 1 (by decide)).trans (accessed_modMem _)).trans (accessed_queueHeal _ _)
    · split
      · exact hdie 0 (by decide)
      · exact .refl _

theorem accessed_raiseCycle (evs : List Raised) : Accessed s (raiseCycle evs s) :=
  .foldl_of id _ (fun _ _ => accessed_raise _ _ _) _ s

theorem accessed_readMem (ecc : List EccFind) (req a n : Nat) : Accessed s (readMem ecc req a n s) := by
  have hwords : Accessed s (readWords ecc req false a n s).1 :=
    .foldl_of Prod.fst _ (fun se i => accessed_readWord ecc req false _ i se) _ (s, [])
  exact hwords.trans (accessed_raiseCycle _)

/-- A read that finds no error changes counters alone. -/
theorem readMem_nil_frame (req a n : Nat) (s : State) : ∃ c, readMem [] req a n s = { s with ctr := c } := by
  have hwords : ∃ c, readWords [] req false a n s = ({ s with ctr := c }, []) := by
    refine List.foldlRecOn (motive := fun se => ∃ c, se = ({ s with ctr := c }, ([] : List Raised))) _ _ ⟨s.ctr, rfl⟩
      (fun se hse i _ => ?_)
    obtain ⟨c, rfl⟩ := hse
    rw [readWord_nil]
    split
    · exact ⟨_, by rw [count_frame]⟩
    · exact ⟨c, rfl⟩
  obtain ⟨c, hc⟩ := hwords
  exact ⟨c, by rw [readMem, hc]; rfl⟩

/-! ## Writes -/

theorem accessed_writeWord (ecc : List EccFind) (req a : Nat) (bs : List Byte) (i : Nat) :
    Accessed s (writeWord ecc req a bs i s).2 := by
  have hcorrected (w : Nat) : Accessed s (if findsCe ecc i then count (cMsf 1) 1 (count (cDie (dieOf w) 0) 1 s) else s) := by
    split
    · exact (accessed_count (cDie_dieOf_lt w 0 (by decide)) 1).trans (accessed_count (by decide) 1)
    · exact .refl s
  unfold writeWord
  dsimp only
  split
  · exact accessed_modMem (fun m => unpoison (memPut m _ _) _ 8)
  · split
    · exact (accessed_count (by decide) 1).trans (accessed_raise _ _ _)
    · split
      · exact (((accessed_count (by decide) 1).trans (accessed_count (cDie_dieOf_lt _ 1 (by decide)) 1)).trans
          (accessed_modMem (fun m => poison m _))).trans (accessed_raise _ _ _)
      · exact (hcorrected _).trans (accessed_modMem (fun m => memPut m _ _))

theorem accessed_writeAll (ecc : List EccFind) (req a : Nat) (bs : List Byte) : Accessed s (writeAll ecc req a bs s).2 := by
  refine Accessed.foldl_of (α := List Nat × State) Prod.snd _ (fun r i => ?_) _ ([], s)
  exact accessed_writeWord ecc req a bs i

/-- The byte at `k` once the bytes `bs` from `a` stand in the words up to `top`. -/
def laidByte (m : MemSt) (a : Nat) (bs : List Byte) (top k : Nat) : Byte :=
  if a ≤ k ∧ k < top then (bs[k - a]?).getD (memByte m k) else memByte m k

theorem memByte_memPut_eq (m : MemSt) (a : Nat) (bs : List Byte) (k : Nat) :
    memByte (memPut m a bs) k = if a ≤ k then (bs[k - a]?).getD (memByte m k) else memByte m k :=
  (memoryReadsBackWhatWasWritten m a k 0 bs).1

theorem getElem?_slice (bs : List Byte) (o n i : Nat) : (slice bs o n)[i]? = if i < n then bs[o + i]? else none := by
  rw [slice, List.getElem?_take, List.getElem?_drop]

/-- A word without poison or error takes its share of a write. -/
theorem writeWord_clean {a i : Nat} {bs : List Byte} (req : Nat) (hp : s.mem.poison = []) :
    (writeWord [] req a bs i s).1 = true ∧ (writeWord [] req a bs i s).2.mem.poison = [] ∧
    ∀ k, memByte (writeWord [] req a bs i s).2.mem k = if (a / 8 + i) * 8 ≤ k ∧ k < (a / 8 + i + 1) * 8 ∧ a ≤ k
      then (bs[k - a]?).getD (memByte s.mem k) else memByte s.mem k := by
  obtain ⟨w, hw⟩ : ∃ w, w = (a / 8 + i) * 8 := ⟨_, rfl⟩
  have hput (m : MemSt) (k : Nat) : memByte (memPut m (w + (wordPart a bs w).1) (wordPart a bs w).2) k =
      if w ≤ k ∧ k < w + 8 ∧ a ≤ k then (bs[k - a]?).getD (memByte m k) else memByte m k := by
    rw [memByte_memPut_eq, wordPart]
    by_cases ha : a ≤ w
    · rw [if_pos ha]
      dsimp only
      rw [Nat.add_zero, getElem?_slice]
      by_cases hk : w ≤ k
      · rw [if_pos hk]
        by_cases hlt : k < w + 8
        · rw [if_pos (by omega), if_pos ⟨hk, hlt, by omega⟩, show w - a + (k - w) = k - a by omega]
        · rw [if_neg (by omega), if_neg (by omega), Option.getD_none]
      · rw [if_neg hk, if_neg (by omega)]
    · rw [if_neg ha]
      dsimp only
      rw [show w + (a - w) = a by omega, List.getElem?_take]
      by_cases hk : a ≤ k
      · rw [if_pos hk]
        by_cases hlt : k < w + 8
        · rw [if_pos (by omega), if_pos ⟨by omega, hlt, hk⟩]
        · rw [if_neg (by omega), if_neg (by omega), Option.getD_none]
      · rw [if_neg hk, if_neg (by omega)]
  have hframe (m : MemSt) (b : Nat) (cs : List Byte) : (memPut m b cs).poison = m.poison := by rw [memPut_frame]
  have hclear : poisoned s.mem w = false := by simp [poisoned, hp]
  rw [writeWord, ← hw, show (a / 8 + i + 1) * 8 = w + 8 by omega]
  dsimp only
  by_cases hlen : (wordPart a bs w).2.length = 8
  · have hwhole : (wordPart a bs w).1 = 0 := by
      by_contra hne
      unfold wordPart at hlen hne
      split at hne
      · exact hne rfl
      next ha =>
        rw [if_neg ha] at hlen
        have := List.length_take_le (8 - (a - w)) bs
        simp only at hlen
        omega
    rw [if_pos hlen]
    refine ⟨rfl, ?_, fun k => ?_⟩
    · show (memPut s.mem w _).poison.filter _ = []
      rw [hframe, hp]
      rfl
    · have hbyte := hput s.mem k
      rw [hwhole, Nat.add_zero] at hbyte
      exact hbyte
  · rw [if_neg hlen, hclear, if_neg (by decide), if_neg (by simp [findsUe]), if_neg (by simp [findsCe])]
    refine ⟨rfl, ?_, fun k => hput s.mem k⟩
    show (memPut s.mem _ _).poison = []
    rw [hframe, hp]

/-- A write over words without poison or error refuses none, and lays its bytes and no others. -/
theorem writeAll_clean (req a : Nat) (bs : List Byte) (hp : s.mem.poison = []) :
    (writeAll [] req a bs s).1 = [] ∧ ∀ k, memByte (writeAll [] req a bs s).2.mem k =
      if a ≤ k then (bs[k - a]?).getD (memByte s.mem k) else memByte s.mem k := by
  have hwords (n : Nat) (r : List Nat × State) (hr : r = (List.range n).foldl (fun r i =>
      (if (writeWord [] req a bs i r.2).1 then r.1 else r.1 ++ [(a / 8 + i) * 8], (writeWord [] req a bs i r.2).2)) ([], s)) :
      r.1 = [] ∧ r.2.mem.poison = [] ∧ ∀ k, memByte r.2.mem k = laidByte s.mem a bs ((a / 8 + n) * 8) k := by
    induction n generalizing r with
    | zero =>
      rw [hr]
      refine ⟨rfl, hp, fun k => ?_⟩
      rw [laidByte, if_neg (by omega)]
      rfl
    | succ n ih =>
      obtain ⟨r', hr'⟩ : ∃ r', r' = (List.range n).foldl (fun (r : List Nat × State) i =>
        (if (writeWord [] req a bs i r.2).1 then r.1 else r.1 ++ [(a / 8 + i) * 8], (writeWord [] req a bs i r.2).2)) ([], s) :=
          ⟨_, rfl⟩
      obtain ⟨hnone, hclean, hbytes⟩ := ih r' hr'
      obtain ⟨htaken, hclean', hword⟩ := writeWord_clean (a := a) (i := n) (bs := bs) req hclean
      rw [List.range_succ, List.foldl_append, ← hr', List.foldl_cons, List.foldl_nil] at hr
      rw [hr]
      refine ⟨by simp only [htaken, if_true, hnone], hclean', fun k => ?_⟩
      show memByte (writeWord [] req a bs n r'.2).2.mem k = _
      rw [hword, hbytes, laidByte, laidByte]
      by_cases hlow : a ≤ k
      · by_cases hin : k < (a / 8 + n) * 8
        · rw [if_neg (by omega), if_pos ⟨hlow, hin⟩, if_pos ⟨hlow, by omega⟩]
        · by_cases htop : k < (a / 8 + n + 1) * 8
          · rw [if_pos ⟨by omega, htop, hlow⟩, if_neg (by omega), if_pos ⟨hlow, by omega⟩]
          · rw [if_neg (by omega), if_neg (by omega), if_neg (by omega)]
      · rw [if_neg (by omega), if_neg (by omega), if_neg (by omega)]
  obtain ⟨hnone, -, hbytes⟩ := hwords (ceilDiv (a + bs.length) 8 - a / 8) _ rfl
  refine ⟨hnone, fun k => (hbytes k).trans ?_⟩
  rw [laidByte]
  by_cases hlow : a ≤ k
  · rw [if_pos hlow]
    by_cases htop : k < (a / 8 + (ceilDiv (a + bs.length) 8 - a / 8)) * 8
    · rw [if_pos ⟨hlow, htop⟩]
    · have hbeyond : bs[k - a]? = none := by
        refine List.getElem?_eq_none ?_
        unfold ceilDiv at htop
        omega
      rw [if_neg (fun h => htop h.2), hbeyond, Option.getD_none]
  · rw [if_neg hlow, if_neg (fun h => hlow h.1)]

end

end Sys2Proof.Machine
end

section
/-! PROOFS. Elements are delivered in order (O35). -/

namespace Sys2Proof.Machine

/-! ## An element is behind its descriptor -/

section
variable {s : State} {g n : Nat} {d : Desc} {flagged : Bool}

theorem out_freeContext (c : Nat) (s : State) : (freeContext c s).out = s.out := by
  have hreturned (u : State) : (returnBlock c u).out = u.out := by rw [returnBlock_frame]
  unfold freeContext
  split
  · have hdropped : (dropWork c s).out = (returnBlock c (giveBack (workCredits c s) s)).out := rfl
    exact hdropped.trans (hreturned _)
  · rfl

theorem out_stageAnswers (g : Nat) (s : State) : (stageAnswers g s).out = s.out :=
  foldl_keeps (fun t => t.out = s.out) (fun s c => freeContext c s) (fun t c ht => (out_freeContext c t).trans ht) _ _ rfl

/-- A descriptor with one more element behind it, flagged or not. -/
def Desc.passed (flagged : Bool) (d : Desc) : Desc :=
  { d with
    elements := d.elements + 1
    firstFlagged := if flagged && d.firstFlagged.isNone then some d.elements else d.firstFlagged
    status := if flagged && d.status == 0 then 6 else d.status }

/-- The element's counts stand and its staging is given back. -/
def elementCounted (g : Nat) (d : Desc) (s : State) : State :=
  modStream g (fun x => { x with fill := x.fill - 256 * d.units }) (count (cStr g 3) 1 (count (cStr g 4) d.units s))

theorem elementDone_eq (hd : s.desc? g n = some d) (flagged : Bool) : elementDone g n flagged s =
    settleInvals (modDesc g n (Desc.passed flagged) (stageAnswers g (elementCounted g d s))) := by
  rw [elementDone, hd]
  rfl

theorem descsOf_elementCounted (d : Desc) (s : State) : (elementCounted g d s).descsOf = s.descsOf := by
  simp [elementCounted]

/-- The element is behind its descriptor, is counted, and keeps what was sent. -/
theorem elementDone_spec (hd : s.desc? g n = some d) (flagged : Bool) :
    (∃ d', (elementDone g n flagged s).desc? g n = some d' ∧ d'.elements = d.elements + 1) ∧
    (elementDone g n flagged s).counter (cStr g 3) = (s.counter (cStr g 3) + 1) % 2 ^ 64 ∧
    (∃ pre, (elementDone g n flagged s).out = pre ++ s.out) := by
  obtain ⟨a, ha⟩ : ∃ a, a = elementCounted g d s := ⟨_, rfl⟩
  obtain ⟨b, hb⟩ : ∃ b, b = modDesc g n (Desc.passed flagged) (stageAnswers g a) := ⟨_, rfl⟩
  have had : (stageAnswers g a).desc? g n = some d := by
    rw [desc?_of_descsOf (descsOf_stageAnswers a g), ha, desc?_of_descsOf (descsOf_elementCounted d s), hd]
  have hbd : b.desc? g n = some (d.passed flagged) := hb ▸ desc?_modDesc_same had _ (fun _ => rfl)
  have haout : a.out = s.out := by
    rw [ha]
    show (count (cStr g 3) 1 (count (cStr g 4) d.units s)).out = s.out
    rw [count_frame, count_frame (cStr g 4)]
  have hactr : a.counter (cStr g 3) = (s.counter (cStr g 3) + 1) % 2 ^ 64 := by
    rw [ha]
    show (count (cStr g 3) 1 (count (cStr g 4) d.units s)).counter (cStr g 3) = _
    rw [counter_count, if_pos ⟨rfl, by decide⟩, counter_count, if_neg (fun h => by have := h.1; unfold cStr at this; omega)]
  have hbout : b.out = s.out := by
    rw [hb]
    exact (out_stageAnswers g a).trans haout
  have hbctr : b.counter (cStr g 3) = a.counter (cStr g 3) := by
    rw [hb]
    exact (freed_stageAnswers g).counter _
  rw [elementDone_eq hd, ← ha, ← hb]
  obtain ⟨pre, i, l, hsettled, -⟩ := settleInvals_frame b
  refine ⟨⟨_, by rw [desc?_congr (congrArg Stream.descs (stream_settleInvals g)), hbd], rfl⟩, ?_, pre, ?_⟩
  · rw [counter_settleInvals, hbctr, hactr]
  · rw [hsettled, ← hbout]

/-- With no answer waiting nothing is released: the counters, the outputs and the DMA alone change. -/
theorem elementDone_quiet (hd : s.desc? g n = some d) (hnil : (s.stream g).answers = []) (flagged : Bool) :
    ((elementDone g n flagged s).stream g).fill = (s.stream g).fill - 256 * d.units ∧
    ∃ c o x, elementDone g n flagged s = { s with ctr := c, out := o, dma := x } := by
  obtain ⟨a, ha⟩ : ∃ a, a = elementCounted g d s := ⟨_, rfl⟩
  obtain ⟨e, he⟩ : ∃ e, e = count (cStr g 3) 1 (count (cStr g 4) d.units s) := ⟨_, rfl⟩
  have hef : e = { s with ctr := e.ctr } := by rw [he, count_frame, count_frame (cStr g 4)]
  have hestream : e.stream g = s.stream g := by rw [hef]; rfl
  have helen : g < e.dma.streams.length := by rw [hef]; exact lt_of_desc? hd
  have hastream : a.stream g = { s.stream g with fill := (s.stream g).fill - 256 * d.units } := by
    rw [ha, elementCounted, ← he, stream_modStream_same helen, hestream]
  have hstage := stageAnswers_nil (s := a) (g := g) (by rw [hastream]; exact hnil)
  obtain ⟨b, hb⟩ : ∃ b, b = modDesc g n (Desc.passed flagged) (stageAnswers g a) := ⟨_, rfl⟩
  obtain ⟨pre, i, l, hsettled, -⟩ := settleInvals_frame b
  rw [elementDone_eq hd, ← ha, ← hb]
  constructor
  · have hkept := stream_modDesc_view (s := stageAnswers g a) Stream.fill (fun _ _ => rfl) g n g (Desc.passed flagged)
    have hstaged := stream_modStream_view (β := Nat) Stream.fill (F := fun x => { x with answers := [], fill := x.fill + 0 })
      (fun _ => rfl) g g a
    rw [stream_settleInvals, hb, hkept, hstage, hstaged, hastream]
  · refine ⟨a.ctr, pre ++ s.out, { b.dma with iotlb := i, invals := l }, ?_⟩
    rw [hsettled, hb, hstage, ha, elementCounted, ← he, hef]
    rfl

end

/-! ## A record's element -/

section
variable {s : State} {c : Nat} {m : Model} {b : BodyIn} {y : Body} {r : RecCtx}

/-- The place of a record whose body has come, with no table to read. -/
def inLane (c : Nat) (b : BodyIn) (s : State) : State :=
  { modCtx c (fun r => { r with body := some b, tableReads := [] }) s with
    trhQ := s.trhQ.modify b.pipe (fun q => q ++ [c]) }

theorem ctx?_inLane (hr : s.ctx? c = some r) (b : BodyIn) :
    (inLane c b s).ctx? c = some { r with body := some b, tableReads := [] } :=
  ctx?_modCtx_same hr (fun r => { r with body := some b, tableReads := [] })

/-- A well-formed record that reads no table commits as it enters a lane in which no other waits. -/
theorem enterLane_commits (hr : s.ctx? c = some r) (hm : s.model? r.model = some m) (hres : m.tableRes = false)
    (hbad : b.bad = []) (hy : parseBody b.tword b.flags b.pay m.image [] = .ok y) (htables : y.tables = [])
    (hlen : b.pipe < s.trhQ.length) (hothers : ∀ x ∈ s.trhQ.getD b.pipe [], x ≠ c ∧ ((s.ctx? x).bind (·.body)) = none) :
    ∃ k n reason, enterLane c m b s = commitRecord c b.pipe m y reason (count k n (inLane c b s)) := by
  have hreads : bodyReads m b = [] := by rw [bodyReads, hres, hy]; exact htables
  have hctx := ctx?_inLane hr b
  have hqueue : (inLane c b s).trhQ.getD b.pipe [] = s.trhQ.getD b.pipe [] ++ [c] := getD_modify_eq _ _ _ _ hlen
  have hwaiting : ∀ x ∈ (inLane c b s).trhQ.getD b.pipe [], x ≠ c → ((inLane c b s).ctx? x).bind (·.body) = none := by
    intro x hx hxc
    rw [hqueue, List.mem_append] at hx
    have hold : (inLane c b s).ctx? x = s.ctx? x :=
      ctx?_modCtx_ne hxc (fun r => { r with body := some b, tableReads := [] }) s
    rw [hold]
    exact (hothers x (hx.resolve_right (fun h => hxc (List.mem_singleton.1 h)))).2
  obtain ⟨k, n, reason, -, hrun⟩ := runLane_commits hctx rfl rfl
    (by rw [hqueue]; exact List.mem_append_right _ (List.mem_singleton.2 rfl)) hwaiting hm hres hbad hy
  refine ⟨k, n, reason, ?_⟩
  rw [enterLane, hreads, ← hrun]
  rfl

theorem freeCtx_commitRecord (pipe : Nat) (reason : Option ReasonReq) :
    (commitRecord c pipe m y reason s).freeCtx = s.freeCtx := by
  simp only [commitRecord, applyStats]
  rw [count_frame, count_frame, count_frame, count_frame]
  rfl

end

theorem dma_commitRecord {s : State} {c : Nat} {m : Model} {y : Body} (pipe : Nat) (reason : Option ReasonReq) :
    (commitRecord c pipe m y reason s).dma = s.dma := by
  simp only [commitRecord, applyStats]
  rw [count_frame, count_frame, count_frame, count_frame]
  rfl

/-- A well-formed record of a ring commits in the context at the head of the free list. -/
theorem ringElement_commits {s : State} {g n k : Nat} {reasons : Bool} {t : Nat} {bs : List Byte} {tables : List EccFind} {h : Hdr}
    {m : Model} {y : Body} {c : Nat} {rest : List Nat} (h12 : ringStep12 t bs.length bs = none) (hh : readHdr bs = some h)
    (htype : h.type ≠ 3) (hen : (s.tenant t).enable = true) (hm : acceptingModel s t h.handle = some m)
    (hid : s.model? m.id = some m) (hc : s.freeCtx = c :: rest) (hpipe : (s.stream g).pipeline < s.trhQ.length)
    (hothers : ∀ x ∈ s.trhQ.getD (s.stream g).pipeline [], x ≠ c ∧ ((s.ctx? x).bind (·.body)) = none) (hres : m.tableRes = false)
    (hy : parseBody h.tword h.flags (slice bs 24 h.plen) m.image [] = .ok y) (htables : y.tables = []) :
    ∃ x, (ringElement g n k reasons t bs tables s).ctx? c = some x ∧ x.src = .ring g n k ∧ x.model = m.id ∧
      x.recId = h.recId ∧ x.committed = true ∧ x.slots = y.slots ∧ x.side = y.side ∧
      (ringElement g n k reasons t bs tables s).freeCtx = rest ∧
      (ringElement g n k reasons t bs tables s).trhQ = s.trhQ.modify (s.stream g).pipeline (fun q => q ++ [c]) ∧
      (ringElement g n k reasons t bs tables s).dma = s.dma := by
  obtain ⟨r, hr⟩ : ∃ r, r = RecCtx.fresh t m.id h.handle h.recId h.cookie (.ring g n k) Reply.none_ s.now := ⟨_, rfl⟩
  obtain ⟨u, hu⟩ : ∃ u, u = setCtx c r { s with freeCtx := rest } := ⟨_, rfl⟩
  obtain ⟨b, hb⟩ : ∃ b : BodyIn, b = ⟨(s.stream g).pipeline, h.tword, h.flags, slice bs 24 h.plen, bs.length, reasons, tables, []⟩ :=
    ⟨_, rfl⟩
  have htake : takeCtx r s = some (c, u) := by rw [takeCtx, hc, hu]
  have hustream : u.stream g = s.stream g := by rw [hu]; rfl
  have hlane : ringElement g n k reasons t bs tables s = enterLane c m b u := by
    unfold ringElement
    extract_lets feedback refuse
    simp only [h12, hh, hen, hm, Bool.not_true, Bool.false_eq_true, if_false]
    rw [if_neg htype, ← hr, htake]
    simp only [hustream, hb]
  have huctx : u.ctx? c = some r := by rw [hu]; exact ctx?_setCtx_same c r _
  have hutrh : u.trhQ = s.trhQ := by rw [hu]; rfl
  have hbpipe : b.pipe = (s.stream g).pipeline := by rw [hb]
  have huothers : ∀ x ∈ u.trhQ.getD b.pipe [], x ≠ c ∧ ((u.ctx? x).bind (·.body)) = none := by
    intro x hx
    rw [hutrh, hbpipe] at hx
    obtain ⟨hxc, hbody⟩ := hothers x hx
    have hold : u.ctx? x = s.ctx? x := by
      rw [hu]
      exact (kvGet_kvSet ..).trans (if_neg hxc)
    exact ⟨hxc, by rw [hold]; exact hbody⟩
  have hum : u.model? r.model = some m := by
    rw [hu, hr]
    exact hid
  obtain ⟨k', n', reason, hcommit⟩ := enterLane_commits huctx hum hres (by rw [hb]) (by rw [hb]; exact hy) htables
    (by rw [hutrh, hbpipe]; exact hpipe) huothers
  have hin := ctx?_inLane huctx b
  have hctx : (enterLane c m b u).ctx? c = some (RecCtx.commit y reason { r with body := some b, tableReads := [] }) := by
    rw [hcommit, ctx?_commitRecord, if_pos rfl, ctx?_count, hin]
    rfl
  have hfree : (enterLane c m b u).freeCtx = rest := by
    rw [hcommit, freeCtx_commitRecord, count_frame, hu]
    rfl
  have htrh : (enterLane c m b u).trhQ = s.trhQ.modify (s.stream g).pipeline (fun q => q ++ [c]) := by
    rw [hcommit, trhQ_commitRecord, trhQ_count, inLane, hutrh, hbpipe]
  have hdma : (enterLane c m b u).dma = s.dma := by
    rw [hcommit, dma_commitRecord, count_frame, hu]
    rfl
  rw [hlane]
  exact ⟨_, hctx, by rw [hr]; rfl, by rw [hr]; rfl, by rw [hr]; rfl, rfl, rfl, rfl, hfree, htrh, hdma⟩

/-! ## A copy's element -/

section
variable {s : State} {g : StreamId} {n : Nat} {d : Desc} {data : List Byte} {ecc tables : List EccFind} {ps : List Nat}
  {xs : List (Nat × Nat × Nat)}

theorem exec_dmaElement_record (hd : s.desc? g n = some d) (hissued : d.elements < d.issued) (hlimit : d.elements < d.limit)
    (hreqs : s.zth.reqs.any (fun r => r.stream == g.val && r.number == n) = false) (hop : d.opcode = 1) :
    exec (.dmaElement g n data ecc tables) s = .next (elementDone g n false
      (ringElement g n d.elements d.reasonSlots (tenantOf g) (fitBytes data d.l0) tables s)) := by
  have hrow : exec (.dmaElement g n data ecc tables) s = execDmaElement g n data ecc s tables := rfl
  rw [hrow, execDmaElement, hd]
  dsimp only
  rw [hreqs, if_neg (by simp; omega), if_pos hop]

theorem exec_dmaElement_held (hd : s.desc? g n = some d) (hissued : d.elements < d.issued) (hlimit : d.elements < d.limit)
    (hreqs : s.zth.reqs.any (fun r => r.stream == g.val && r.number == n) = false) (hop : d.opcode ≠ 1)
    (hmay : mayAccess s g d d.elements = false) : exec (.dmaElement g n data ecc tables) s = .next s := by
  have hrow : exec (.dmaElement g n data ecc tables) s = execDmaElement g n data ecc s tables := rfl
  rw [hrow, execDmaElement, hd]
  dsimp only
  rw [hreqs, if_neg (by simp; omega), if_neg hop, hmay]
  rfl

theorem exec_dmaElement_copy (hd : s.desc? g n = some d) (hissued : d.elements < d.issued) (hlimit : d.elements < d.limit)
    (hreqs : s.zth.reqs.any (fun r => r.stream == g.val && r.number == n) = false) (hop : d.opcode ≠ 1)
    (hmay : mayAccess s g d d.elements = true) (htarget : copyTarget s (tenantOf g) d.alloc = some (.massif ps)) :
    exec (.dmaElement g n data ecc tables) s = .next (if d.opcode = 2 then copyIn g d d.elements ps (fitBytes data d.l0) ecc s
      else copyOut g d d.elements ps ecc s) := by
  have hrow : exec (.dmaElement g n data ecc tables) s = execDmaElement g n data ecc s tables := rfl
  rw [hrow, execDmaElement, hd]
  dsimp only
  rw [hreqs, if_neg (by simp; omega), if_neg hop, hmay, if_neg (by decide), htarget]

/-- The host bytes of an element written piece by piece: whether a word was refused, and the state after. -/
def laidIn (o : Nat) (xs : List (Nat × Nat × Nat)) (bs : List Byte) (ecc : List EccFind) (s : State) : Bool × State :=
  xs.foldl (fun (x : Bool × State) (p : Nat × Nat × Nat) =>
    let w := writeAll (shiftEcc ((o + p.2.1) / 8 - o / 8) ecc) 7 p.1 (slice bs p.2.1 p.2.2) x.2
    (x.1 || !w.1.isEmpty, w.2)) (false, s)

/-- The pieces of an element read one by one. -/
def readPieces (o : Nat) (xs : List (Nat × Nat × Nat)) (ecc : List EccFind) (s : State) : State :=
  xs.foldl (fun s (p : Nat × Nat × Nat) => readMem (shiftEcc ((o + p.2.1) / 8 - o / 8) ecc) 7 p.1 p.2.2 s) s

/-- Bytes `x` to `x + k` of an element touch a poisoned word. -/
def touchesPoison (m : MemSt) (xs : List (Nat × Nat × Nat)) (x k : Nat) : Bool :=
  xs.any (fun p => max x p.2.1 < min (x + k) (p.2.1 + p.2.2) &&
    (firstPoison m (p.1 + (max x p.2.1 - p.2.1)) (min (x + k) (p.2.1 + p.2.2) - max x p.2.1)).isSome)

theorem accessed_laidIn (o : Nat) (xs : List (Nat × Nat × Nat)) (bs : List Byte) (ecc : List EccFind) (s : State) :
    Accessed s (laidIn o xs bs ecc s).2 := by
  refine Accessed.foldl_of (α := Bool × State) Prod.snd _ (fun r p => ?_) _ (false, s)
  exact accessed_writeAll _ 7 p.1 _

theorem accessed_readPieces (o : Nat) (xs : List (Nat × Nat × Nat)) (ecc : List EccFind) (s : State) :
    Accessed s (readPieces o xs ecc s) := Accessed.foldl_of id _ (fun _ _ => accessed_readMem _ 7 _ _) _ s

/-- With every plot the tenant's own, no piece of an element is refused. -/
theorem find?_ownsPlot (hown : xs.all (fun p => ownsPlot s (tenantOf g) p.1) = true) :
    xs.find? (fun p => !ownsPlot s (tenantOf g) p.1) = none := by
  rw [List.find?_eq_none]
  intro p hp
  have := List.all_eq_true.1 hown p hp
  simp [this]

theorem copyIn_owned (hxs : xs = pieces ps 2 (d.offset + d.elements * d.l0) 0 d.l0)
    (hown : xs.all (fun p => ownsPlot s (tenantOf g) p.1) = true) (bs : List Byte) (ecc : List EccFind) :
    copyIn g d d.elements ps bs ecc s = elementDone g d.number (laidIn (d.offset + d.elements * d.l0) xs bs ecc s).1
      (laidIn (d.offset + d.elements * d.l0) xs bs ecc s).2 := by
  rw [copyIn, ← hxs, find?_ownsPlot hown]
  rfl

theorem copyOut_owned (hxs : xs = pieces ps 2 (d.offset + d.elements * d.l0) 0 d.l0)
    (hown : xs.all (fun p => ownsPlot s (tenantOf g) p.1) = true) (ecc : List EccFind) :
    ∃ flagged, copyOut g d d.elements ps ecc s = elementDone g d.number flagged
      (hostWriteBy (fnOf g) (d.addr d.elements)
        (xs.flatMap (fun p => memBytes (readPieces (d.offset + d.elements * d.l0) xs ecc s).mem p.1 p.2.2))
        (touchesPoison (readPieces (d.offset + d.elements * d.l0) xs ecc s).mem xs)
        (readPieces (d.offset + d.elements * d.l0) xs ecc s)) := by
  rw [copyOut, ← hxs, find?_ownsPlot hown]
  exact ⟨_, rfl⟩

/-- An element moved is behind its descriptor, whatever its way. -/
theorem elementDone_moved {v : State} (hd : s.desc? g n = some d) (hdma : v.dma = s.dma)
    (hctr : ∀ h i, v.counter (cStr h i) = s.counter (cStr h i)) (flagged : Bool) :
    ∃ d', (elementDone g d.number flagged v).desc? g n = some d' ∧ d'.elements = d.elements + 1 ∧
      (elementDone g d.number flagged v).counter (cStr g 3) = (s.counter (cStr g 3) + 1) % 2 ^ 64 ∧
      ((s.stream g).answers = [] →
        ((elementDone g d.number flagged v).stream g).fill = (s.stream g).fill - 256 * d.units) := by
  have hvd : v.desc? g n = some d := (desc?_of_descsOf (descsOf_of_dma hdma) g n).trans hd
  have hstream : v.stream g = s.stream g := by rw [State.stream, hdma, State.stream]
  obtain ⟨⟨d', hdesc, helements⟩, hcount, -⟩ := elementDone_spec hvd flagged
  rw [number_of_desc? hd]
  refine ⟨d', hdesc, helements, by rw [hcount, hctr], fun hnil => ?_⟩
  rw [(elementDone_quiet hvd (by rw [hstream]; exact hnil) flagged).1, hstream]

theorem hostWriteBy_dma (f a : Nat) (bs : List Byte) (bad : Nat → Nat → Bool) (s : State) :
    (hostWriteBy f a bs bad s).dma = s.dma := by rw [hostWriteBy_eq]

theorem counter_hostWriteBy (f a : Nat) (bs : List Byte) (bad : Nat → Nat → Bool) (s : State) (h i : Nat) :
    (hostWriteBy f a bs bad s).counter (cStr h i) = s.counter (cStr h i) := by
  have hcount := (signalled_count (s := s) (k := cDma 1) (by decide) bs.length).counter h i
  rw [hostWriteBy_eq]
  exact hcount

theorem copy_moves (hd : s.desc? g n = some d) (hxs : xs = pieces ps 2 (d.offset + d.elements * d.l0) 0 d.l0)
    (hown : xs.all (fun p => ownsPlot s (tenantOf g) p.1) = true) (bs : List Byte) (ecc : List EccFind) :
    ∃ d', (if d.opcode = 2 then copyIn g d d.elements ps bs ecc s else copyOut g d d.elements ps ecc s).desc? g n = some d' ∧
      d'.elements = d.elements + 1 ∧
      (if d.opcode = 2 then copyIn g d d.elements ps bs ecc s else copyOut g d d.elements ps ecc s).counter (cStr g 3) =
        (s.counter (cStr g 3) + 1) % 2 ^ 64 ∧
      ((s.stream g).answers = [] →
        ((if d.opcode = 2 then copyIn g d d.elements ps bs ecc s else copyOut g d d.elements ps ecc s).stream g).fill =
          (s.stream g).fill - 256 * d.units) := by
  split
  · rw [copyIn_owned hxs hown]
    have hlaid := accessed_laidIn (d.offset + d.elements * d.l0) xs bs ecc s
    exact elementDone_moved hd hlaid.dma hlaid.counter _
  · obtain ⟨flagged, hout⟩ := copyOut_owned (g := g) (d := d) hxs hown ecc
    have hread := accessed_readPieces (d.offset + d.elements * d.l0) xs ecc s
    rw [hout]
    exact elementDone_moved hd ((hostWriteBy_dma _ _ _ _ _).trans hread.dma)
      (fun h i => (counter_hostWriteBy _ _ _ _ _ h i).trans (hread.counter h i)) flagged

/-- Host bytes laid in one piece over sound words stand there, and no other byte changes. -/
theorem copyIn_lays {a : Nat} (hd : s.desc? g n = some d) (hxs : xs = pieces ps 2 (d.offset + d.elements * d.l0) 0 d.l0)
    (hown : xs.all (fun p => ownsPlot s (tenantOf g) p.1) = true) (hpoison : s.mem.poison = [])
    (hnil : (s.stream g).answers = []) (hone : xs = [(a, 0, d.l0)]) :
    memBytes (copyIn g d d.elements ps (fitBytes data d.l0) [] s).mem a d.l0 = fitBytes data d.l0 ∧
    ∀ k, k < a ∨ a + d.l0 ≤ k →
      memByte (copyIn g d d.elements ps (fitBytes data d.l0) [] s).mem k = memByte s.mem k := by
  obtain ⟨bs, hbs⟩ : ∃ bs, bs = fitBytes data d.l0 := ⟨_, rfl⟩
  have hlen : bs.length = d.l0 := by rw [hbs, length_fitBytes]
  obtain ⟨v, hv⟩ : ∃ v, v = (laidIn (d.offset + d.elements * d.l0) xs bs [] s).2 := ⟨_, rfl⟩
  have hlaid : Accessed s v := hv ▸ accessed_laidIn _ _ _ _ _
  have hvw : v = (writeAll [] 7 a bs s).2 := by
    rw [hv, hone]
    show (writeAll (shiftEcc _ []) 7 a (slice bs 0 d.l0) s).2 = _
    rw [shiftEcc_nil, slice, List.drop_zero, ← hlen, List.take_length]
  have hbytes := (writeAll_clean (s := s) 7 a bs hpoison).2
  rw [← hvw] at hbytes
  have hvd : v.desc? g n = some d := (desc?_of_descsOf (descsOf_of_dma hlaid.dma) g n).trans hd
  have hvnil : (v.stream g).answers = [] := by rw [State.stream, hlaid.dma]; exact hnil
  obtain ⟨-, c, o, x, hquiet⟩ := elementDone_quiet hvd hvnil (laidIn (d.offset + d.elements * d.l0) xs bs [] s).1
  have hmem : (copyIn g d d.elements ps bs [] s).mem = v.mem := by
    rw [copyIn_owned hxs hown, number_of_desc? hd, ← hv, hquiet]
  rw [← hbs, hmem]
  refine ⟨?_, fun k hk => ?_⟩
  · rw [memBytes_eq_map_range]
    refine List.ext_getElem (by simp [hlen]) fun i h1 h2 => ?_
    rw [List.getElem_map, List.getElem_range, hbytes, if_pos (by omega), Nat.add_sub_cancel_left, List.getElem?_eq_getElem h2,
      Option.getD_some]
  · rw [hbytes]
    rcases hk with hk | hk
    · rw [if_neg (by omega)]
    · rw [if_pos (by omega), List.getElem?_eq_none (by omega), Option.getD_none]

/-- The bytes of an allocation leave for the host by requests, poisoned only where a word is. -/
theorem copyOut_sends {bs : List Byte} (hd : s.desc? g n = some d)
    (hxs : xs = pieces ps 2 (d.offset + d.elements * d.l0) 0 d.l0)
    (hown : xs.all (fun p => ownsPlot s (tenantOf g) p.1) = true)
    (hbs : bs = xs.flatMap (fun p => memBytes s.mem p.1 p.2.2)) :
    ∀ p ∈ requestsOf (d.addr d.elements) bs.length ((kvGet s.dma.maxPayload (fnOf g)).getD 128), ∃ bad,
      .hostWrite (fnOf g) (sentAddr s (fnOf g) (d.addr d.elements + p.1)) (slice bs p.1 p.2) bad ∈
        (copyOut g d d.elements ps [] s).out ∧ (s.mem.poison = [] → bad = false) := by
  have hread : ∃ c, readPieces (d.offset + d.elements * d.l0) xs [] s = { s with ctr := c } := by
    refine foldl_keeps (fun t => ∃ c, t = { s with ctr := c }) _ (fun t p ht => ?_) xs s ⟨s.ctr, rfl⟩
    obtain ⟨c, rfl⟩ := ht
    obtain ⟨c', hc'⟩ := readMem_nil_frame 7 p.1 p.2.2 { s with ctr := c }
    exact ⟨c', by rw [shiftEcc_nil, hc']⟩
  obtain ⟨c, hc⟩ := hread
  obtain ⟨flagged, hout⟩ := copyOut_owned (g := g) (d := d) hxs hown []
  rw [hc] at hout
  obtain ⟨v, hv⟩ : ∃ v, v = hostWriteBy (fnOf g) (d.addr d.elements) bs (touchesPoison s.mem xs) { s with ctr := c } := ⟨_, rfl⟩
  have hmoved : copyOut g d d.elements ps [] s = elementDone g n flagged v := by
    rw [hout, number_of_desc? hd, hv, hbs]
  have hvd : v.desc? g n = some d := by
    rw [hv]
    exact (desc?_of_descsOf (descsOf_of_dma (hostWriteBy_dma _ _ _ _ _)) g n).trans hd
  obtain ⟨pre, hpre⟩ := (elementDone_spec hvd flagged).2.2
  have hvout : v.out = (hostWrites s (fnOf g) (d.addr d.elements) bs (touchesPoison s.mem xs)).reverse ++ s.out := by
    rw [hv, hostWriteBy_eq]
    rfl
  intro p hp
  refine ⟨touchesPoison s.mem xs p.1 p.2, ?_, fun hclean => ?_⟩
  · rw [hmoved, hpre, hvout]
    exact List.mem_append_right _ (List.mem_append_left _ (List.mem_reverse.2 (List.mem_map.2 ⟨p, hp, rfl⟩)))
  · rw [touchesPoison, List.any_eq_false]
    intro q _
    simp [firstPoison, hclean]

end

/-- Settles O35, by the commit of a ring's record in its lane, and by the pieces a copy lays or sends; what is behind an
element is the same for all. -/
theorem elementsAreDeliveredInOrder : Obligations.ElementsAreDeliveredInOrder := by
  unfold Obligations.ElementsAreDeliveredInOrder
  intro s g n d data ecc tables hs hd hissued hlimit hreqs
  refine ⟨fun hop => ?behind, fun bs h m b c rest hop hbs h12 hh htype hen hm hid hc hnil hpipe hothers hres hy htables => ?record,
    fun hop hmay => exec_dmaElement_held hd hissued hlimit hreqs hop hmay,
    fun ps xs hop hmay htarget hxs hown => ⟨?moved, fun a hin hecc hpoison hnil hone => ?laid, fun bs hout hbs => ?sent⟩⟩
  case behind =>
    have hkept := (desc?_of_descsOf (descsOf_ringElement s g n d.elements d.reasonSlots (tenantOf g) (fitBytes data d.l0) tables)
      g n).trans hd
    obtain ⟨⟨d', hdesc, helements⟩, -⟩ := elementDone_spec hkept false
    exact ⟨_, d', exec_dmaElement_record hd hissued hlimit hreqs hop, hdesc, helements⟩
  case record =>
    have hlen : bs.length = d.l0 := by rw [hbs, length_fitBytes]
    have htrh : s.trhQ.length = 2 := by
      obtain ⟨-, -, htrh, -⟩ := hs
      exact htrh
    obtain ⟨x, hx, hsrc, hmodel, hrecId, hcommitted, hslots, hside, hfree, hqueue, hdma⟩ :=
      ringElement_commits (n := n) (k := d.elements) (reasons := d.reasonSlots) (tables := tables)
        (by rw [hlen]; exact h12) hh htype hen hm hid hc (by omega) hothers hres hy htables
    obtain ⟨v, hv⟩ : ∃ v, v = ringElement g n d.elements d.reasonSlots (tenantOf g) bs tables s := ⟨_, rfl⟩
    rw [← hv] at hx hfree hqueue hdma
    have hvd : v.desc? g n = some d := (desc?_of_descsOf (descsOf_of_dma hdma) g n).trans hd
    have hvnil : (v.stream g).answers = [] := by rw [State.stream, hdma]; exact hnil
    obtain ⟨-, k, o, y, hquiet⟩ := elementDone_quiet hvd hvnil false
    have hexec := exec_dmaElement_record (data := data) (ecc := ecc) (tables := tables) hd hissued hlimit hreqs hop
    rw [← hbs, ← hv, hquiet] at hexec
    exact ⟨_, x, hexec, hx, hsrc, hmodel, hrecId, hcommitted, hslots, hside, hfree, hqueue⟩
  case moved =>
    obtain ⟨d', hdesc, helements, hcount, hfill⟩ := copy_moves hd hxs hown (fitBytes data d.l0) ecc
    exact ⟨_, d', exec_dmaElement_copy hd hissued hlimit hreqs hop hmay htarget, hdesc, helements, hcount, hfill⟩
  case laid =>
    subst hecc
    refine ⟨_, exec_dmaElement_copy hd hissued hlimit hreqs hop hmay htarget, ?_⟩
    rw [if_pos hin]
    exact copyIn_lays hd hxs hown hpoison hnil hone
  case sent =>
    refine ⟨_, exec_dmaElement_copy hd hissued hlimit hreqs hop hmay htarget, ?_⟩
    rw [if_neg (by omega)]
    exact copyOut_sends hd hxs hown hbs

end Sys2Proof.Machine
end

section
/-! PROOFS. Ensemble and remote messages (O44). -/

namespace Sys2Proof.Machine

/-! ## A message row -/

section
variable {s u : State} {port : MsgPort} {m : Msg}

theorem onMessage_delivered {op : Nat} (h : delivered s port op m u) (act : Msg → State → State) :
    onMessage port op act s = .next (act m u) := by
  unfold delivered at h
  rw [onMessage, h]

theorem beAt_slice (bs : List Byte) {a n o k : Nat} (h : o + k ≤ n) : beAt (slice bs a n) o k = beAt bs (a + o) k := by
  rw [beAt, slice, slice, List.drop_take, List.take_take, List.drop_drop, Nat.min_eq_left (by omega), beAt, slice]

/-! ## Members take multicast records (R338) -/

/-- The record a member takes: it holds what the message carries, and it awaits admission. -/
def mcRecord (u : State) (x : Model) (bs : List Byte) : RecCtx :=
  { RecCtx.fresh (msgTenant bs) x.id x.handle (beAt bs 16 8) 0 (.member (msgSrc bs) (msgTag bs)) Reply.none_ u.now with
    state := .signpost, committed := true, slots := mcCodes bs, side := mcSide bs, kept := mcKept bs }

theorem failTerm_of_model (m : Msg) (x : Model) (reason : Nat) (s : State) :
    failTerm m (some x) reason s = send (termMsg s (msgSrc m.bytes) (msgTag m.bytes) (msgTenant m.bytes) (beAt m.bytes 10 2)
      x.member (if x.image.fmode then 1 else 0) (msgLatency m.bytes) (beAt m.bytes 16 8) 2 reason []) s := rfl

variable {x : Model}

theorem exec_recordMc_taken {c : Nat} {rest : List Nat} (h : delivered s port 0x45 m u)
    (hx : acceptingModel u (msgTenant m.bytes) (beAt m.bytes 10 2) = some x) (hen : (u.tenant (msgTenant m.bytes)).enable = true)
    (hplaces : ctxPlaces u (msgTenant m.bytes) < (u.tenant (msgTenant m.bytes)).quota.contexts) (hfree : ctxFree u x = true)
    (hc : u.freeCtx = c :: rest) :
    exec (.recordMc port) s = .next (setCtx c (mcRecord u x m.bytes) { u with freeCtx := rest }) := by
  have hrow : exec (.recordMc port) s = execRecordMc port s := rfl
  rw [hrow, execRecordMc, onMessage_delivered h]
  dsimp only
  rw [hx]
  simp only [hen, hfree, takeCtx, hc, Nat.not_le.2 hplaces, decide_false, Bool.not_true, Bool.or_false, Bool.false_eq_true, if_false]
  rfl

theorem exec_recordMc_disabled (h : delivered s port 0x45 m u)
    (hx : acceptingModel u (msgTenant m.bytes) (beAt m.bytes 10 2) = some x) (hen : (u.tenant (msgTenant m.bytes)).enable = false) :
    exec (.recordMc port) s = .next (failTerm m (some x) 0x40 u) := by
  have hrow : exec (.recordMc port) s = execRecordMc port s := rfl
  rw [hrow, execRecordMc, onMessage_delivered h]
  dsimp only
  rw [hx]
  simp only [hen, Bool.not_false, if_true]

theorem exec_recordMc_full (h : delivered s port 0x45 m u)
    (hx : acceptingModel u (msgTenant m.bytes) (beAt m.bytes 10 2) = some x) (hen : (u.tenant (msgTenant m.bytes)).enable = true)
    (hfull : (u.tenant (msgTenant m.bytes)).quota.contexts ≤ ctxPlaces u (msgTenant m.bytes) ∨ ctxFree u x = false) :
    exec (.recordMc port) s = .next (failTerm m (some x) 0x22 u) := by
  have hrow : exec (.recordMc port) s = execRecordMc port s := rfl
  have hnone : (decide ((u.tenant (msgTenant m.bytes)).quota.contexts ≤ ctxPlaces u (msgTenant m.bytes)) || !ctxFree u x) = true := by
    rcases hfull with h | h <;> simp [h]
  rw [hrow, execRecordMc, onMessage_delivered h]
  dsimp only
  rw [hx]
  simp only [hen, hnone, Bool.not_true, Bool.false_eq_true, if_false, if_true]

/-! ## Terms at member 0 (R193, R338) -/

variable {r : RecCtx}

/-- A term stands in its record's ensemble row. -/
def RecCtx.addTerm (bs : List Byte) (r : RecCtx) : RecCtx :=
  { r with terms := kvSet r.terms (byteAt bs 12) (termVals bs), heal := r.heal || byteAt bs 24 == 1 }

theorem exec_term_awaited (h : delivered s port 0x46 m u) (hr : u.ctx? (msgTag m.bytes) = some r)
    (hawaits : awaitsTerm u r m.bytes = true) (hok : byteAt m.bytes 24 ≠ 2) :
    ∃ t, exec (.term port) s = .next t ∧ t.ctx? (msgTag m.bytes) = some (r.addTerm m.bytes) := by
  have hrow : exec (.term port) s = execTerm port s := rfl
  have hadded : (modCtx (msgTag m.bytes) (RecCtx.addTerm m.bytes) (chargeWork 1 priceTerms u)).ctx? (msgTag m.bytes) =
      some (r.addTerm m.bytes) := ctx?_modCtx_same (s := chargeWork 1 priceTerms u) hr _
  refine ⟨_, by rw [hrow, execTerm, onMessage_delivered h], ?_⟩
  dsimp only
  rw [hr]
  simp only [hawaits, Bool.not_true, Bool.false_eq_true, if_false]
  rw [if_neg hok]
  split
  · split
    · exact (ctx?_count ..).trans hadded
    · exact hadded
  · exact hadded

theorem exec_term_fails (h : delivered s port 0x46 m u) (hr : u.ctx? (msgTag m.bytes) = some r)
    (hawaits : awaitsTerm u r m.bytes = true) (hfail : byteAt m.bytes 24 = 2) : exec (.term port) s =
      .next (endRecord (msgTag m.bytes) (if byteAt m.bytes 25 < 0x30 then 2 else 5) (byteAt m.bytes 25) u) := by
  have hrow : exec (.term port) s = execTerm port s := rfl
  rw [hrow, execTerm, onMessage_delivered h]
  dsimp only
  rw [hr]
  simp only [hawaits, Bool.not_true, Bool.false_eq_true, if_false]
  rw [if_pos hfail]

theorem exec_term_noContext (h : delivered s port 0x46 m u) (hr : u.ctx? (msgTag m.bytes) = none) :
    exec (.term port) s = .next (count (cSmt 2) 1 u) := by
  have hrow : exec (.term port) s = execTerm port s := rfl
  rw [hrow, execTerm, onMessage_delivered h]
  dsimp only
  rw [hr]

theorem exec_term_unawaited (h : delivered s port 0x46 m u) (hr : u.ctx? (msgTag m.bytes) = some r)
    (hawaits : awaitsTerm u r m.bytes = false) : exec (.term port) s = .next (count (cSmt 2) 1 u) := by
  have hrow : exec (.term port) s = execTerm port s := rfl
  rw [hrow, execTerm, onMessage_delivered h]
  dsimp only
  rw [hr]
  simp only [hawaits, Bool.not_false, if_true]

end

/-! ## Member 0's gradients at a member (R353, R362) -/

section
variable {s u : State} {port : MsgPort} {m : Msg} {x : Model} {y : RefitSt}

/-- What a member makes of one pair: a feedback of its own model, without a label. -/
def ghFeedback (x : Model) (bs : List Byte) : Feedback := ⟨x.id, x.tenant, beAt bs 32 8, 0, byteAt bs 40, true, none⟩

/-- A message of one pair applies that pair. -/
theorem exec_refitGh_single (h : delivered s port 0x47 m u) (hx : u.handle? (msgTenant m.bytes) (beAt m.bytes 10 2) = some x)
    (hmember : x.member ≠ 0) (hone : byteAt m.bytes 16 = 1) : exec (.refitGh port []) s =
      .next (applyGh [] x.id (byteAt m.bytes 17) (byteAt m.bytes 18) (slice m.bytes 32 12) u) := by
  have hrow : exec (.refitGh port []) s = execRefitGh port s [] := rfl
  rw [hrow, execRefitGh, onMessage_delivered h]
  dsimp only
  rw [hx]
  simp only [if_neg hmember, hone]
  rfl

variable {bs : List Byte} {eg eh : Nat} (hm : u.model? x.id = some x) (hy : u.refit? x.id = some y)
include hm hy

theorem applyGh_discards {k : Nat} (hfault : feedbackFault u x y (ghFeedback x bs) = some k) :
    applyGh [] x.id eg eh (slice bs 32 12) u = count (cTen x.tenant (tRft k)) 1 (lookupReads [] x y (beAt bs 32 8) u) := by
  have hid : beAt (slice bs 32 12) 0 8 = beAt bs 32 8 := beAt_slice bs (by omega)
  have hchannel : byteAt (slice bs 32 12) 8 = byteAt bs 40 := byteAt_slice bs (by omega)
  have hread := (feedbackFault_of_mem (mem_lookupReads_nil u x y (beAt bs 32 8)) x y (ghFeedback x bs)).trans hfault
  unfold ghFeedback at hread
  rw [applyGh, hm, hy]
  simp only [hid, hchannel, hread]

theorem applyGh_applies {off : Nat} (hfault : feedbackFault u x y (ghFeedback x bs) = none)
    (hoff : traceLookup u x y (beAt bs 32 8) = some off) :
    applyGh [] x.id eg eh (slice bs 32 12) u = applyFeedback [] x y off (beAt bs 32 8) (byteAt bs 40)
      (scaleTwo (toSigned 8 (byteAt bs 41)) (toSigned 8 eg)) (scaleTwo (toSigned 8 (byteAt bs 42)) (toSigned 8 eh)) false
      (lookupReads [] x y (beAt bs 32 8) u) := by
  have hid : beAt (slice bs 32 12) 0 8 = beAt bs 32 8 := beAt_slice bs (by omega)
  have hchannel : byteAt (slice bs 32 12) 8 = byteAt bs 40 := byteAt_slice bs (by omega)
  have hg : byteAt (slice bs 32 12) 9 = byteAt bs 41 := byteAt_slice bs (by omega)
  have hh : byteAt (slice bs 32 12) 10 = byteAt bs 42 := byteAt_slice bs (by omega)
  have hmem := mem_lookupReads_nil u x y (beAt bs 32 8)
  have hread := (feedbackFault_of_mem hmem x y (ghFeedback x bs)).trans hfault
  have hlookup := (traceLookup_of_mem hmem x y (beAt bs 32 8)).trans hoff
  unfold ghFeedback at hread
  rw [applyGh, hm, hy]
  simp only [hid, hchannel, hg, hh, hread, hlookup, shiftEcc_nil]

omit hm hy in
theorem counter_labelledAfterReads (off c recId i o : Nat) :
    (setLabelled y off c (lookupReads [] x y recId u)).counter (cTen i o) = u.counter (cTen i o) :=
  (tenantCounter_of_refitView (refitView_setLabelled ..) i o).trans (tenantCounter_of_refitView (refitView_lookupReads ..) i o)

omit hm hy in
/-- While accumulation is paused a pair leaves its label alone. -/
theorem applyFeedback_paused (hpaused : y.paused = true) (off recId c : Nat) (g h : Frac) {t : State}
    (ht : t = applyFeedback [] x y off recId c g h false (lookupReads [] x y recId u)) :
    t.mem = (setLabelled y off c u).mem ∧
    t.counter (cTen x.tenant (tRft 1)) = (u.counter (cTen x.tenant (tRft 1)) + 1) % 2 ^ 64 := by
  rw [applyFeedback, if_pos hpaused] at ht
  rw [ht, mem_count, counter_count_one, counter_labelledAfterReads]
  exact ⟨mem_setLabelled_of_mem (mem_lookupReads_nil ..) .., rfl⟩

omit hm hy in
/-- Otherwise its label and its statistics stand. -/
theorem applyFeedback_running (hpaused : y.paused = false) (off recId c : Nat) (g h : Frac) {t : State}
    (ht : t = applyFeedback [] x y off recId c g h false (lookupReads [] x y recId u)) :
    t.mem = (applyPair [] x y off recId c g h false (setLabelled y off c u)).mem ∧
    t.counter (cTen x.tenant (tRft 0)) = (u.counter (cTen x.tenant (tRft 0)) + 1) % 2 ^ 64 := by
  rw [applyFeedback, if_neg (by simp [hpaused])] at ht
  rw [ht, mem_count, counter_count_one, tenantCounter_of_refitView (refitView_applyPair ..), counter_labelledAfterReads]
  exact ⟨mem_applyPair_of_mem (mem_setLabelled_of_mem (mem_lookupReads_nil ..) ..) .., rfl⟩

end

/-! ## PING, PONG and remote signals (R288, R330) -/

section
variable {s u : State} {port : MsgPort} {m : Msg}

theorem beAt_lt (bs : List Byte) (o n : Nat) : beAt bs o n < 256 ^ n := by
  have hfold (l : List Byte) : beNat l < 256 ^ l.length := by
    induction l with
    | nil => exact Nat.one_pos
    | cons b l ih =>
      have hbyte : b.toNat ≤ 255 := Nat.le_of_lt_succ b.isLt
      have hcons : beNat (b :: l) = b.toNat * 256 ^ l.length + beNat l := by
        have happend := beNat_append [b] l
        simpa [beNat] using happend
      rw [hcons, List.length_cons, pow_succ]
      nlinarith [Nat.mul_le_mul_right (256 ^ l.length) hbyte]
  exact (hfold _).trans_le (Nat.pow_le_pow_right (by omega) (by rw [slice, List.length_take]; omega))

theorem exec_ping (hlen : m.bytes.length = 32) (h : delivered s port 0x60 m u) :
    ∃ p, exec (.ping port) s = .next (send p u) ∧ msgOp p = 0x61 ∧ msgDst p = msgSrc m.bytes ∧ msgTag p = msgTag m.bytes ∧
      msgOperand p = msgOperand m.bytes ∧ p.length = 32 := by
  have hrow : exec (.ping port) s = execPing port s := rfl
  have hop : (slice m.bytes 10 6).length = 6 := by simp [slice, hlen]
  have hsrc : msgSrc m.bytes < 256 := by rw [msgSrc, byteAt]; exact BitVec.isLt _
  have htag : msgTag m.bytes < 2 ^ 16 := beAt_lt ..
  refine ⟨_, by rw [hrow, execPing, onMessage_delivered h], msgOp_mkMsg _ _ _ _ _ _ _ hop, ?_, ?_, msgOperand_mkMsg _ _ _ _ _ _ _ hop, ?_⟩
  · rw [msgDst_mkMsg _ _ _ _ _ _ _ hop, Nat.mod_eq_of_lt hsrc]
  · rw [msgTag_mkMsg _ _ _ _ _ _ _ hop, Nat.mod_eq_of_lt htag]
  · rw [length_mkMsg]
    rfl

theorem exec_pong (h : delivered s port 0x61 m u) : exec (.pong port) s = .next u := by
  have hrow : exec (.pong port) s = execPong port s := rfl
  rw [hrow, execPong, onMessage_delivered h]

/-- A remote signal may act on Waymark `n`: it is the tenant's, and open to others. -/
def RemoteMay (u : State) (t n : Nat) : Prop :=
  (u.tenant t).quota.wmkBase ≤ n ∧ n < (u.tenant t).quota.wmkBase + (u.tenant t).quota.wmkCount ∧ (u.waymark n).remoteOk = true

theorem exec_wmkSignal_applied {n : Nat} (h : delivered s port 4 m u) (hn : n = msgOperand m.bytes / 2 ^ 32)
    (hmay : RemoteMay u (msgTenant m.bytes) n) (hpos : 0 < beAt m.bytes 16 4) (htakes : wmkTakes u n 3 = true) :
    ∃ t, exec (.wmkSignal port) s = .next t ∧
      t.waymark n = (u.waymark n).signal (beAt m.bytes 16 4) (bit (msgOperand m.bytes) 31) := by
  have hrow : exec (.wmkSignal port) s = execWmkSignal port s := rfl
  have hop : (WmkOp.signal (beAt m.bytes 16 4) (bit (msgOperand m.bytes) 31)).ignored = false := by
    simp only [WmkOp.ignored, Bool.and_eq_false_iff, beq_eq_false_iff_ne]
    exact Or.inl (by omega)
  have hcounted : wmkTakes (count (cWmk 2) 1 u) n 3 = true := by
    rw [count_frame]
    exact htakes
  refine ⟨_, by rw [hrow, execWmkSignal, onMessage_delivered h], ?_⟩
  dsimp only
  unfold RemoteMay at hmay
  rw [← hn, if_pos hmay, wmkPost, if_neg (by simp [hop]), if_pos hcounted]
  refine (waymark_wmkApply _ hop _ n n).trans ?_
  rw [if_pos rfl, waymark_count]
  rfl

theorem exec_wmkSignal_refused {n : Nat} (h : delivered s port 4 m u) (hn : n = msgOperand m.bytes / 2 ^ 32)
    (hmay : ¬ RemoteMay u (msgTenant m.bytes) n) :
    exec (.wmkSignal port) s = .next (refuseMsg m 0x21 (count (cWmk 3) 1 u)) := by
  have hrow : exec (.wmkSignal port) s = execWmkSignal port s := rfl
  rw [hrow, execWmkSignal, onMessage_delivered h]
  dsimp only
  unfold RemoteMay at hmay
  rw [← hn, if_neg hmay]

end

/-- Settles O44: each message's row runs its act on the state with the message taken, and each act's branch is one above. -/
theorem ensembleAndRemoteMessages : Obligations.EnsembleAndRemoteMessages := by
  unfold Obligations.EnsembleAndRemoteMessages
  refine ⟨?_, ?_⟩
  · rintro s u port m _ _ rfl rfl
    refine ⟨?taken, fun x h hx hen => exec_recordMc_disabled h hx hen, fun x h hx hen hfull => exec_recordMc_full h hx hen hfull,
      fun r h hr hawaits => ⟨exec_term_awaited h hr hawaits, exec_term_fails h hr hawaits⟩, exec_term_noContext,
      fun r h hr hawaits => exec_term_unawaited h hr hawaits, ?pairs⟩
    case taken =>
      intro x c rest h hx hen hplaces hfree hc
      exact ⟨_, _, exec_recordMc_taken h hx hen hplaces hfree hc, rfl, ctx?_setCtx_same _ _ _, rfl, rfl, rfl, rfl, rfl⟩
    case pairs =>
      intro x y h hhandle hm hmember hone hy
      have hexec := exec_refitGh_single h hhandle hmember hone
      refine ⟨fun k hfault => ?_, fun off hfault hoff => ⟨fun hpaused => ?_, fun hpaused => ?_⟩⟩
      · rw [applyGh_discards hm hy hfault] at hexec
        refine ⟨_, hexec, by rw [mem_count, mem_lookupReads_nil], ?_⟩
        rw [counter_count_one, tenantCounter_of_refitView (refitView_lookupReads ..)]
      · rw [applyGh_applies hm hy hfault hoff] at hexec
        exact ⟨_, hexec, applyFeedback_paused hpaused off _ _ _ _ rfl⟩
      · rw [applyGh_applies hm hy hfault hoff] at hexec
        obtain ⟨hmem, hcounter⟩ := applyFeedback_running (u := u) (x := x) hpaused off _ _ _ _ rfl
        exact ⟨_, hexec, congrArg MemSt.cells hmem, hcounter⟩
  · intro s u port m hlen
    refine ⟨exec_ping hlen, exec_pong, fun n h hn => ⟨fun hlow hhigh hok hpos htakes =>
      exec_wmkSignal_applied h hn ⟨hlow, hhigh, hok⟩ hpos htakes, fun hout => exec_wmkSignal_refused h hn ?_⟩⟩
    rintro ⟨hlow, hhigh, hok⟩
    rcases hout with hclosed | hbelow | habove
    · rw [hclosed] at hok
      exact Bool.false_ne_true hok
    · omega
    · omega

end Sys2Proof.Machine
end
